-- ==== Sys2Proof/Word.lean ====
section
/-! DEFINITION. The words of the machine: bytes, 64-bit scalars, the 80-bit instruction word and the sparse maps that
hold memories and register files as plain data. -/
namespace Sys2Proof

/-- One byte (R11). -/
abbrev Byte := BitVec 8

/-- A 64-bit scalar value (R110). -/
abbrev Word64 := BitVec 64

/-- The 80-bit instruction word (R91). -/
abbrev Word80 := BitVec 80

/-- A sparse map: pairs of a key and a value, keys strictly rising, no value equal to what an unlisted key reads
as. A memory is a `Sparse Byte`, which is a list of `Host.Cell`. -/
abbrev Sparse (α : Type) := List (Nat × α)

/-- A table of records by number, keys strictly rising; an unlisted number has no record. -/
abbrev Table (α : Type) := List (Nat × α)

end Sys2Proof
end

