-- ==== Sys2Proof/Syntax.lean ====
section
/-! DEFINITION. Syntax: the fields of the 80-bit instruction word (R91), and `Instr`, one constructor for every row
of spec/opcode_table.json: the 192 opcodes of the map R109, each with exactly the fields its entry uses and the
sequencing and scheduling clauses every word carries, and the 97 device events of spec/95_what_each_step_holds.md,
each with the agent or value it concerns. -/
namespace Sys2Proof

/-- The sequencing and scheduling clauses, bits [27:0] of every word (R91, R92). -/
structure Clauses where
  /-- seq.mode [27:25] -/
  seqMode : BitVec 3
  /-- seq.b [24:22] -/
  seqB : BitVec 3
  /-- seq.p [21:19] -/
  seqP : BitVec 3
  /-- seq.annul [18:17] -/
  annul : BitVec 2
  /-- pd [16:14], the producer distance -/
  pd : BitVec 3
  /-- sb.alloc [13:11] -/
  alloc : BitVec 3
  /-- sb.wait [10:4] -/
  wait : BitVec 7
  /-- park [3] -/
  park : BitVec 1
  /-- last [2:0] -/
  last : BitVec 3
deriving DecidableEq, Repr

/-- The fields of an R-form word (R91); the I- and L-forms read some of them as one immediate (R92). -/
structure Fields where
  /-- op [79:72] -/
  op : BitVec 8
  /-- d [71:66] -/
  d : BitVec 6
  /-- a [65:60] -/
  a : BitVec 6
  /-- b [59:54] -/
  b : BitVec 6
  /-- c [53:48] -/
  c : BitVec 6
  /-- mod [47:44] -/
  mod : BitVec 4
  /-- imm [43:28] -/
  imm : BitVec 16
  /-- bits [27:0] -/
  cl : Clauses
deriving DecidableEq, Repr

/-- What a debugger may write into a halted context (R304). -/
inductive DebugItem where
  /-- a scalar register, which becomes live -/
  | scalar (n : BitVec 6) (value : BitVec 64)
  /-- a vector register with its format tag and block word -/
  | vector (n : BitVec 5) (data : BitVec 512) (tag : BitVec 5) (bw : BitVec 32)
  /-- a lane mask -/
  | mask (n : BitVec 3) (value : BitVec 64)
  /-- a branch target register -/
  | branch (n : BitVec 3) (value : BitVec 32)
  /-- a capability register with its validity tag -/
  | cap (n : BitVec 4) (bits : BitVec 128) (valid : Bool)
  /-- a bound register (R53) -/
  | bound (n : BitVec 4) (value : BitVec 72)
  /-- the poison of a scalar (0), vector (1) or capability register (2): set or cleared -/
  | poison (file : BitVec 2) (n : BitVec 6) (set : Bool)
  /-- the resume word -/
  | resume (value : BitVec 32)
  /-- RDQ0 (false) or RDQ1 (true), normalised as R129 normalises SVQ0 and SVQ1 -/
  | queue (newer : Bool) (value : BitVec 64)
  /-- ASW other than TIP, MG and AP -/
  | asw (value : BitVec 64)
  /-- CODE -/
  | code (value : BitVec 64)
  /-- MSH 0, MFM 1, MSB 2 -/
  | matrix (which : BitVec 2) (value : BitVec 64)
  /-- an element of an accumulator tile as raw bits -/
  | tileElement (tile : BitVec 3) (row : BitVec 6) (col : BitVec 6) (value : BitVec 32)
  /-- an accumulator tile's format tag: I32 or FP32 -/
  | tileTag (tile : BitVec 3) (i32 : Bool)
  /-- a pattern parameter 0..7, the extent 8, the cursor 9, or the flags 10 (bit 0 loaded, bit 1 inv) -/
  | generator (which : BitVec 4) (value : BitVec 64)
  /-- a word of the loaded program -/
  | program (n : BitVec 5) (value : BitVec 32)
  /-- the cutter's kcur 0, vcur 1, descriptor 2 or set mark 3 -/
  | cutter (which : BitVec 2) (value : BitVec 64)
  /-- a word of the replay slot of tag `tag` (R300) -/
  | replay (tag : BitVec 3) (word : BitVec 2) (value : BitVec 64)
  /-- a byte of the crew's local memory -/
  | localByte (offset : Nat) (value : BitVec 8)
  /-- a byte of the crew's scratchpad -/
  | quadByte (offset : Nat) (value : BitVec 8)
deriving DecidableEq, Repr

/-- One row of spec/opcode_table.json. In a word, `d a b c` are register numbers, `mod` the modifier, `imm` the
immediate as the word holds it, and `cl` the clauses of bits [27:0]. -/
inductive Instr where
  /-- ADD (R112): Adds two scalar registers modulo 2^64. -/
  | add (d a b : BitVec 6) (cl : Clauses)
  /-- SUB (R112): Subtracts two scalar registers modulo 2^64. -/
  | sub (d a b : BitVec 6) (cl : Clauses)
  /-- ADDI (R112): Adds a sign-extended 16-bit immediate to a scalar register. -/
  | addi (d a : BitVec 6) (imm : BitVec 16) (cl : Clauses)
  /-- MUL (R112): Writes the low 64 bits of a scalar product. -/
  | mul (d a b : BitVec 6) (cl : Clauses)
  /-- MULH (R112): Writes the upper half of the signed 128-bit product. -/
  | mulh (d a b : BitVec 6) (cl : Clauses)
  /-- MULHU (R112): Writes the upper half of the unsigned 128-bit product. -/
  | mulhu (d a b : BitVec 6) (cl : Clauses)
  /-- DIV (R113): Starts a signed division on the core's shared divider, without trapping on zero or overflow. -/
  | div (d a b : BitVec 6) (cl : Clauses)
  /-- DIVU (R113): Starts an unsigned division on the core's divider. -/
  | divu (d a b : BitVec 6) (cl : Clauses)
  /-- REM (R113): Starts a signed remainder on the core's divider. -/
  | rem (d a b : BitVec 6) (cl : Clauses)
  /-- REMU (R113): Starts an unsigned remainder on the core's divider. -/
  | remu (d a b : BitVec 6) (cl : Clauses)
  /-- AND (R114): Bitwise and of two scalar registers. -/
  | and (d a b : BitVec 6) (cl : Clauses)
  /-- OR (R114): Bitwise or of two scalar registers. -/
  | or (d a b : BitVec 6) (cl : Clauses)
  /-- XOR (R114): Bitwise exclusive or of two scalar registers. -/
  | xor (d a b : BitVec 6) (cl : Clauses)
  /-- ANDI (R114): Bitwise and with a sign-extended immediate. -/
  | andi (d a : BitVec 6) (imm : BitVec 16) (cl : Clauses)
  /-- ORI (R114): Bitwise or with a sign-extended immediate. -/
  | ori (d a : BitVec 6) (imm : BitVec 16) (cl : Clauses)
  /-- XORI (R114): Bitwise exclusive or with a sign-extended immediate. -/
  | xori (d a : BitVec 6) (imm : BitVec 16) (cl : Clauses)
  /-- SLL (R114): Shifts left by a register count. -/
  | sll (d a b : BitVec 6) (cl : Clauses)
  /-- SRL (R114): Shifts right logically by a register count. -/
  | srl (d a b : BitVec 6) (cl : Clauses)
  /-- SRA (R114): Shifts right arithmetically by a register count. -/
  | sra (d a b : BitVec 6) (cl : Clauses)
  /-- SLLI (R114): Shifts left by an immediate count. -/
  | slli (d a : BitVec 6) (imm : BitVec 16) (cl : Clauses)
  /-- SRLI (R114): Shifts right logically by an immediate count. -/
  | srli (d a : BitVec 6) (imm : BitVec 16) (cl : Clauses)
  /-- SRAI (R114): Shifts right arithmetically by an immediate count. -/
  | srai (d a : BitVec 6) (imm : BitVec 16) (cl : Clauses)
  /-- MIN (R115): Writes the signed minimum of two scalars. -/
  | min (d a b : BitVec 6) (cl : Clauses)
  /-- MAX (R115): Writes the signed maximum of two scalars. -/
  | max (d a b : BitVec 6) (cl : Clauses)
  /-- MINU (R115): Writes the unsigned minimum of two scalars. -/
  | minu (d a b : BitVec 6) (cl : Clauses)
  /-- MAXU (R115): Writes the unsigned maximum of two scalars. -/
  | maxu (d a b : BitVec 6) (cl : Clauses)
  /-- CLZ (R116): Counts leading zero bits of a scalar. -/
  | clz (d a : BitVec 6) (cl : Clauses)
  /-- POPC (R116): Counts set bits of a scalar. -/
  | popc (d a : BitVec 6) (cl : Clauses)
  /-- BFX (R117): Extracts a bit field, zero- or sign-extended. -/
  | bfx (mod : BitVec 4) (d a : BitVec 6) (imm : BitVec 16) (cl : Clauses)
  /-- BFI (R117): Inserts the low bits of one scalar into a field of another. -/
  | bfi (d a b : BitVec 6) (imm : BitVec 16) (cl : Clauses)
  /-- LI (R118): Loads a sign-extended 32-bit immediate. -/
  | li (d : BitVec 6) (imm32 : BitVec 32) (cl : Clauses)
  /-- LIH (R118): Places a 32-bit immediate above the low half of a scalar. -/
  | lih (d a : BitVec 6) (imm32 : BitVec 32) (cl : Clauses)
  /-- CMP (R119): Compares two scalars into an all-ones or zero lane mask. -/
  | cmp (mod : BitVec 4) (d a b : BitVec 6) (cl : Clauses)
  /-- CMPI (R119): Compares a scalar with an immediate into a lane mask. -/
  | cmpi (mod : BitVec 4) (d a : BitVec 6) (imm : BitVec 16) (cl : Clauses)
  /-- PLOG (R120): Combines two lane masks by the selected logic operation. -/
  | plog (mod : BitVec 4) (d a b : BitVec 6) (cl : Clauses)
  /-- PMOV (R121): Moves 64 bits between lane masks and scalars. -/
  | pmov (mod : BitVec 4) (d a : BitVec 6) (cl : Clauses)
  /-- SEL (R122): Selects one of two scalars by bit 0 of a lane mask. -/
  | sel (d a b c : BitVec 6) (cl : Clauses)
  /-- TGT (R124): Sets a branch target register from a word-relative immediate. -/
  | tgt (d : BitVec 6) (imm26 : BitVec 26) (cl : Clauses)
  /-- TGTR (R124): Sets a branch target register from a word-relative scalar offset. -/
  | tgtr (d a : BitVec 6) (cl : Clauses)
  /-- MOVB (R125): Moves a value between branch target and scalar registers. -/
  | movb (mod : BitVec 4) (d a : BitVec 6) (cl : Clauses)
  /-- LCSET (R126): Sets the loop counter from a scalar plus an immediate. -/
  | lcset (a : BitVec 6) (imm26 : BitVec 26) (cl : Clauses)
  /-- LKMOV (R127): Reads or writes the link or loop counter. -/
  | lkmov (mod : BitVec 4) (d a : BitVec 6) (cl : Clauses)
  /-- NOP (R128): Does nothing beyond its sequencing and scheduling clauses. -/
  | nop (cl : Clauses)
  /-- SRD (R131): Reads a system register into a scalar. -/
  | srd (d : BitVec 6) (imm : BitVec 16) (cl : Clauses)
  /-- SWR (R131): Writes a system register from a scalar at issue. -/
  | swr (a : BitVec 6) (imm : BitVec 16) (cl : Clauses)
  /-- TRAP (R133): Issues and then takes a TRAPI trap before the next word. -/
  | trap (imm : BitVec 16) (cl : Clauses)
  /-- TRET (R135): Restores the saved status, code, redirect queue and resume word. -/
  | tret (cl : Clauses)
  /-- EXIT (R136): Ends the activity once its tags are free, parting first in a visitor slot. -/
  | exit (cl : Clauses)
  /-- YIELD (R137): Gives up the issue port for one search. -/
  | yield (cl : Clauses)
  /-- TIME (R139): Reads the tick, cycle or issued-word counter. -/
  | time (mod : BitVec 4) (d : BitVec 6) (cl : Clauses)
  /-- IDENT (R140): Reads an identity value of the activity. -/
  | ident (mod : BitVec 4) (d : BitVec 6) (cl : Clauses)
  /-- WFI (R138): Makes the context not ready until an interrupt is pending. -/
  | wfi (cl : Clauses)
  /-- IFLUSH (R143): Discards prefetched words so later words are refetched. -/
  | iflush (cl : Clauses)
  /-- BRK (R134): Issues and then halts the quad or takes a DEBUG trap. -/
  | brk (imm : BitVec 16) (cl : Clauses)
  /-- SRSET (R131): Sets bits of a system register. -/
  | srset (a : BitVec 6) (imm : BitVec 16) (cl : Clauses)
  /-- SRCLR (R131): Clears bits of a system register. -/
  | srclr (a : BitVec 6) (imm : BitVec 16) (cl : Clauses)
  /-- DEADMK (R144): Clears live bits of a register file by mask. -/
  | deadmk (mod : BitVec 4) (a : BitVec 6) (cl : Clauses)
  /-- LIVEQ (R145): Reads the live bits of a register file. -/
  | liveq (mod : BitVec 4) (d : BitVec 6) (cl : Clauses)
  /-- CHK (R146): Passes an index below a bound or raises TRAPI. -/
  | chk (d a b : BitVec 6) (imm : BitVec 16) (cl : Clauses)
  /-- CRC32C (R147): Advances a CRC-32C state over 1 to 8 bytes. -/
  | crc32c (mod : BitVec 4) (d a b : BitVec 6) (cl : Clauses)
  /-- MCHK (R148): Reads and optionally clears the core machine-check record. -/
  | mchk (mod : BitVec 4) (d : BitVec 6) (cl : Clauses)
  /-- XALM (R149): Asserts or acknowledges the cross-alarm, or posts a machine-check notice. -/
  | xalm (mod : BitVec 4) (imm : BitVec 16) (cl : Clauses)
  /-- SPDRD (R141): Reads a speed-table frequency. -/
  | spdrd (mod : BitVec 4) (d a : BitVec 6) (imm : BitVec 16) (cl : Clauses)
  /-- RAND (R142): Advances SRSTATE and returns a pseudo-random value. -/
  | rand (mod : BitVec 4) (d a : BitVec 6) (cl : Clauses)
  /-- LDL (R156): Loads a scalar from local memory. -/
  | ldl (mod : BitVec 4) (d a : BitVec 6) (imm : BitVec 16) (cl : Clauses)
  /-- STL (R157): Stores a scalar to local memory at issue. -/
  | stl (mod : BitVec 4) (a c : BitVec 6) (imm : BitVec 16) (cl : Clauses)
  /-- LDQ (R156): Loads a scalar from the quad scratchpad. -/
  | ldq (mod : BitVec 4) (d a : BitVec 6) (imm : BitVec 16) (cl : Clauses)
  /-- STQ (R157): Stores a scalar to the quad scratchpad. -/
  | stq (mod : BitVec 4) (a c : BitVec 6) (imm : BitVec 16) (cl : Clauses)
  /-- LD (R156): Loads a scalar from device memory through a capability, plain or acquire. -/
  | ld (mod : BitVec 4) (d a b : BitVec 6) (imm : BitVec 16) (cl : Clauses)
  /-- ST (R157): Stores a scalar to device memory through a capability, plain or release. -/
  | st (mod : BitVec 4) (a b c : BitVec 6) (imm : BitVec 16) (cl : Clauses)
  /-- VLDL (R158): Loads a vector register from local memory. -/
  | vldl (d a c : BitVec 6) (imm : BitVec 16) (cl : Clauses)
  /-- VSTL (R159): Stores a masked vector to local memory at issue. -/
  | vstl (mod : BitVec 4) (a c : BitVec 6) (imm : BitVec 16) (cl : Clauses)
  /-- VLDQ (R158): Loads a vector register from the scratchpad. -/
  | vldq (d a c : BitVec 6) (imm : BitVec 16) (cl : Clauses)
  /-- VSTQ (R159): Stores a masked vector to the scratchpad. -/
  | vstq (mod : BitVec 4) (a c : BitVec 6) (imm : BitVec 16) (cl : Clauses)
  /-- VLD (R158): Loads a vector register from device memory. -/
  | vld (d a b c : BitVec 6) (imm : BitVec 16) (cl : Clauses)
  /-- VST (R159): Stores a masked vector to device memory. -/
  | vst (mod : BitVec 4) (a b c : BitVec 6) (imm : BitVec 16) (cl : Clauses)
  /-- VGATHL (R160): Gathers 32-bit elements from local memory by an index vector. -/
  | vgathl (mod : BitVec 4) (d a b : BitVec 6) (imm : BitVec 16) (cl : Clauses)
  /-- VSCATL (R160): Scatters 32-bit elements to local memory by an index vector. -/
  | vscatl (mod : BitVec 4) (a b c : BitVec 6) (cl : Clauses)
  /-- AADD (R161): Atomically adds at the home port. -/
  | aadd (mod : BitVec 4) (d a b c : BitVec 6) (imm : BitVec 16) (cl : Clauses)
  /-- ALOG (R161): Atomically applies and, or or xor at the home port. -/
  | alog (mod : BitVec 4) (d a b c : BitVec 6) (imm : BitVec 16) (cl : Clauses)
  /-- AMNX (R161): Atomically applies min or max at the home port. -/
  | amnx (mod : BitVec 4) (d a b c : BitVec 6) (imm : BitVec 16) (cl : Clauses)
  /-- ASWP (R161): Atomically swaps at the home port. -/
  | aswp (mod : BitVec 4) (d a b c : BitVec 6) (imm : BitVec 16) (cl : Clauses)
  /-- ACAS (R161): Atomically compares and swaps at the home port. -/
  | acas (mod : BitVec 4) (d a b c : BitVec 6) (imm : BitVec 16) (cl : Clauses)
  /-- AFADD (R163): Atomically adds an FP32 or BF16 value at the home port. -/
  | afadd (mod : BitVec 4) (d a b c : BitVec 6) (imm : BitVec 16) (cl : Clauses)
  /-- WAITMEM (R165): Sends a watch to the home port that completes when the location satisfies a condition. -/
  | waitmem (mod : BitVec 4) (d a b c : BitVec 6) (imm : BitVec 16) (cl : Clauses)
  /-- FENCE (R166): Orders the context's memory words as acquire, release or both. -/
  | fence (imm : BitVec 16) (cl : Clauses)
  /-- CLD (R167): Loads a capability granule with its hidden tag. -/
  | cld (d a b : BitVec 6) (imm : BitVec 16) (cl : Clauses)
  /-- CST (R167): Stores a capability and sets the granule's hidden tag. -/
  | cst (a b c : BitVec 6) (imm : BitVec 16) (cl : Clauses)
  /-- CNARROW (R168): Narrows a capability's rights and bounds. -/
  | cnarrow (d a b c : BitVec 6) (imm : BitVec 16) (cl : Clauses)
  /-- CGET (R169): Reads a field of a capability. -/
  | cget (mod : BitVec 4) (d a : BitVec 6) (cl : Clauses)
  /-- CSETC (R169): Composes capability bits with validity cleared. -/
  | csetc (d a b : BitVec 6) (cl : Clauses)
  /-- PFETCH (R170): Requests a line into the L1 or memory-side cache. -/
  | pfetch (mod : BitVec 4) (a b : BitVec 6) (cl : Clauses)
  /-- CINV (R170): Invalidates the L1 read cache or one line of it. -/
  | cinv (mod : BitVec 4) (a b : BitVec 6) (cl : Clauses)
  /-- SIGNAL (R171): Adds to a counter at its home with release order. -/
  | signal (a b c : BitVec 6) (imm : BitVec 16) (cl : Clauses)
  /-- ZEROL (R172): Zeroes a range of local memory at issue. -/
  | zerol (a b : BitVec 6) (cl : Clauses)
  /-- MOVK (R169): Copies a capability register, optionally clearing validity. -/
  | movk (mod : BitVec 4) (d a : BitVec 6) (cl : Clauses)
  /-- VADD (R176): Adds vector elements. -/
  | vadd (mod : BitVec 4) (d a b : BitVec 6) (imm : BitVec 16) (cl : Clauses)
  /-- VSUB (R176): Subtracts vector elements. -/
  | vsub (mod : BitVec 4) (d a b : BitVec 6) (imm : BitVec 16) (cl : Clauses)
  /-- VMUL (R176): Multiplies vector elements. -/
  | vmul (mod : BitVec 4) (d a b : BitVec 6) (imm : BitVec 16) (cl : Clauses)
  /-- VFMA (R176): Fused multiply-add of vector elements. -/
  | vfma (mod : BitVec 4) (d a b c : BitVec 6) (imm : BitVec 16) (cl : Clauses)
  /-- VFMS (R176): Fused multiply-subtract of vector elements. -/
  | vfms (mod : BitVec 4) (d a b c : BitVec 6) (imm : BitVec 16) (cl : Clauses)
  /-- VMIN (R177): Element-wise minimum. -/
  | vmin (mod : BitVec 4) (d a b : BitVec 6) (cl : Clauses)
  /-- VMAX (R177): Element-wise maximum. -/
  | vmax (mod : BitVec 4) (d a b : BitVec 6) (cl : Clauses)
  /-- VABS (R177): Element-wise absolute value. -/
  | vabs (mod : BitVec 4) (d a : BitVec 6) (imm : BitVec 16) (cl : Clauses)
  /-- VNEG (R177): Element-wise negation. -/
  | vneg (mod : BitVec 4) (d a : BitVec 6) (imm : BitVec 16) (cl : Clauses)
  /-- VRCP (R178): Correctly rounded element-wise reciprocal. -/
  | vrcp (mod : BitVec 4) (d a : BitVec 6) (cl : Clauses)
  /-- VRSQ (R178): Correctly rounded element-wise reciprocal square root. -/
  | vrsq (mod : BitVec 4) (d a : BitVec 6) (cl : Clauses)
  /-- VEXP2 (R178): Correctly rounded element-wise power of two. -/
  | vexp2 (mod : BitVec 4) (d a : BitVec 6) (cl : Clauses)
  /-- VLOG2 (R178): Correctly rounded element-wise base-2 logarithm. -/
  | vlog2 (mod : BitVec 4) (d a : BitVec 6) (cl : Clauses)
  /-- VAND (R179): Byte-wise and of two vectors. -/
  | vand (mod : BitVec 4) (d a b : BitVec 6) (cl : Clauses)
  /-- VOR (R179): Byte-wise or of two vectors. -/
  | vor (mod : BitVec 4) (d a b : BitVec 6) (cl : Clauses)
  /-- VXOR (R179): Byte-wise exclusive or of two vectors. -/
  | vxor (mod : BitVec 4) (d a b : BitVec 6) (cl : Clauses)
  /-- VSHL (R180): Shifts integer elements left. -/
  | vshl (mod : BitVec 4) (d a b : BitVec 6) (imm : BitVec 16) (cl : Clauses)
  /-- VSHR (R180): Shifts integer elements right. -/
  | vshr (mod : BitVec 4) (d a b : BitVec 6) (imm : BitVec 16) (cl : Clauses)
  /-- VCMP (R181): Compares elements into a lane mask. -/
  | vcmp (mod : BitVec 4) (d a b c : BitVec 6) (cl : Clauses)
  /-- VSEL (R182): Selects elements of two vectors by a lane mask. -/
  | vsel (d a b c : BitVec 6) (cl : Clauses)
  /-- VBCAST (R184): Broadcasts a scalar or an element to every element. -/
  | vbcast (mod : BitVec 4) (d a : BitVec 6) (imm : BitVec 16) (cl : Clauses)
  /-- VEXTR (R185): Extracts an element or the block word to a scalar. -/
  | vextr (mod : BitVec 4) (d a b : BitVec 6) (imm : BitVec 16) (cl : Clauses)
  /-- VINS (R185): Inserts a scalar into an element or the block word. -/
  | vins (mod : BitVec 4) (d a b : BitVec 6) (imm : BitVec 16) (cl : Clauses)
  /-- VPERM (R186): Permutes elements by a byte index vector. -/
  | vperm (mod : BitVec 4) (d a b : BitVec 6) (cl : Clauses)
  /-- VREDUCE (R187): Reduces a vector to a scalar by a fixed tree. -/
  | vreduce (mod : BitVec 4) (d a : BitVec 6) (imm : BitVec 16) (cl : Clauses)
  /-- VCVT (R188): Converts elements between formats by part. -/
  | vcvt (mod : BitVec 4) (d a b : BitVec 6) (imm : BitVec 16) (cl : Clauses)
  /-- VRETAG (R189): Changes a vector's format tag without conversion. -/
  | vretag (d a b : BitVec 6) (imm : BitVec 16) (cl : Clauses)
  /-- VPLANE (R190): Gets, puts or packs bit planes. -/
  | vplane (mod : BitVec 4) (d a b : BitVec 6) (imm : BitVec 16) (cl : Clauses)
  /-- VQSCALE (R191): Computes a block scale for scaled FP8. -/
  | vqscale (mod : BitVec 4) (d a c : BitVec 6) (cl : Clauses)
  /-- VBND (R192): Tests or clamps elements against a bound register. -/
  | vbnd (mod : BitVec 4) (d a b c : BitVec 6) (cl : Clauses)
  /-- VSCAN (R187): Forms inclusive prefixes of a vector. -/
  | vscan (mod : BitVec 4) (d a : BitVec 6) (imm : BitVec 16) (cl : Clauses)
  /-- VMOVP (R183): Moves between a vector and a lane mask. -/
  | vmovp (mod : BitVec 4) (d a : BitVec 6) (cl : Clauses)
  /-- MZERO (R220): Queues clearing a tile and setting its tag. -/
  | mzero (mod : BitVec 4) (d : BitVec 6) (cl : Clauses)
  /-- MMA (R213): Fetches operands and queues a dense matrix product. -/
  | mma (mod : BitVec 4) (d a b : BitVec 6) (cl : Clauses)
  /-- MMAT (R213): Fetches k-major operands and queues a dense product. -/
  | mmat (mod : BitVec 4) (d a b : BitVec 6) (cl : Clauses)
  /-- MMAS (R214): Checks a cut, fetches operands and queues a sparse product. -/
  | mmas (mod : BitVec 4) (d a b c : BitVec 6) (cl : Clauses)
  /-- MMAST (R214): Checks a cut, fetches operands and queues a transposed sparse product. -/
  | mmast (mod : BitVec 4) (d a b c : BitVec 6) (cl : Clauses)
  /-- MLDA (R216): Loads a tile from local memory. -/
  | mlda (mod : BitVec 4) (d a b : BitVec 6) (cl : Clauses)
  /-- MSTA (R217): Stores a tile to local memory. -/
  | msta (mod : BitVec 4) (a b c : BitVec 6) (imm : BitVec 16) (cl : Clauses)
  /-- MSTQ (R217): Stores a tile to the scratchpad. -/
  | mstq (mod : BitVec 4) (a b c : BitVec 6) (imm : BitVec 16) (cl : Clauses)
  /-- MADDT (R221): Adds or subtracts two tiles. -/
  | maddt (mod : BitVec 4) (d a b : BitVec 6) (cl : Clauses)
  /-- MSCL (R221): Scales a tile, optionally converting I32 to FP32. -/
  | mscl (mod : BitVec 4) (d a b : BitVec 6) (cl : Clauses)
  /-- MROWV (R218): Writes a vector into a quarter row of a tile. -/
  | mrowv (d a : BitVec 6) (imm : BitVec 16) (cl : Clauses)
  /-- MVROW (R218): Reads a quarter row of a tile into a vector. -/
  | mvrow (d a : BitVec 6) (imm : BitVec 16) (cl : Clauses)
  /-- MTRN (R222): Transposes a tile. -/
  | mtrn (d a : BitVec 6) (cl : Clauses)
  /-- MREDR (R222): Reduces tile rows into a vector. -/
  | mredr (mod : BitVec 4) (d a : BitVec 6) (cl : Clauses)
  /-- MSHAPE (R223): Writes the product shape register. -/
  | mshape (a : BitVec 6) (cl : Clauses)
  /-- MFMT (R223): Writes the operand format register. -/
  | mfmt (a : BitVec 6) (cl : Clauses)
  /-- PLOAD (R224): Validates and loads a Hatch program. -/
  | pload (mod : BitVec 4) (a : BitVec 6) (cl : Clauses)
  /-- PSET (R225): Writes a pattern parameter or the extent. -/
  | pset (a : BitVec 6) (imm : BitVec 16) (cl : Clauses)
  /-- PGET (R225): Reads a pattern parameter or the extent. -/
  | pget (d : BitVec 6) (imm : BitVec 16) (cl : Clauses)
  /-- PCOUNT (R226): Counts pattern members in a row and column range. -/
  | pcount (d a b : BitVec 6) (cl : Clauses)
  /-- PGEN (R227): Starts or continues emitting pattern coordinates. -/
  | pgen (mod : BitVec 4) (d a : BitVec 6) (cl : Clauses)
  /-- PINV (R228): Returns a coordinate's rank in its row or column. -/
  | pinv (mod : BitVec 4) (d a b : BitVec 6) (cl : Clauses)
  /-- CUTSET (R229): Loads the tile cutter from a cut descriptor. -/
  | cutset (a b : BitVec 6) (cl : Clauses)
  /-- CUT (R230): Makes one cut of the current row block. -/
  | cut (mod : BitVec 4) (d : BitVec 6) (imm : BitVec 16) (cl : Clauses)
  /-- CUTB (R231): Commands a copy of a cut's partner rows into a stage ring. -/
  | cutb (d a b c : BitVec 6) (imm : BitVec 16) (cl : Clauses)
  /-- MSTAT (R223): Reads matrix, cutter or generator state. -/
  | mstat (mod : BitVec 4) (d : BitVec 6) (cl : Clauses)
  /-- MSTAGE (R232): Binds a landed stage fill for products. -/
  | mstage (a : BitVec 6) (cl : Clauses)
  /-- MSAVE (R219): Saves a tile image. -/
  | msave (mod : BitVec 4) (a b c : BitVec 6) (cl : Clauses)
  /-- MREST (R219): Restores a tile image. -/
  | mrest (mod : BitVec 4) (d b c : BitVec 6) (cl : Clauses)
  /-- MDOT (R222): Forms row dot products of two tiles. -/
  | mdot (mod : BitVec 4) (d a b : BitVec 6) (cl : Clauses)
  /-- MBIAS (R221): Adds a row or column bias to a tile. -/
  | mbias (mod : BitVec 4) (d a b : BitVec 6) (cl : Clauses)
  /-- MCLAMP (R221): Clamps tile elements between two bounds. -/
  | mclamp (d a b c : BitVec 6) (cl : Clauses)
  /-- MEET (R256): Sends a meeting arrival under a key once all tags are free. -/
  | meet (mod : BitVec 4) (d a b c : BitVec 6) (imm : BitVec 16) (cl : Clauses)
  /-- PART (R257): Frees the visitor slot and starts the trip home. -/
  | part (cl : Clauses)
  /-- XREG (R258): Copies a partner's scalar, mask, target or capability register. -/
  | xreg (mod : BitVec 4) (d a : BitVec 6) (cl : Clauses)
  /-- XVREG (R258): Copies a partner's vector register with tag and block word. -/
  | xvreg (d a : BitVec 6) (cl : Clauses)
  /-- XLUG (R258): Copies bytes of the partner's luggage into own luggage. -/
  | xlug (a b c : BitVec 6) (cl : Clauses)
  /-- MEETQ (R259): Queries meeting state or the partner's live bits. -/
  | meetq (mod : BitVec 4) (d : BitVec 6) (cl : Clauses)
  /-- BAR (R262): Arrives at a barrier instance and waits for its report. -/
  | bar (mod : BitVec 4) (d : BitVec 6) (imm : BitVec 16) (cl : Clauses)
  /-- BARA (R262): Arrives at a barrier without waiting for completion. -/
  | bara (mod : BitVec 4) (imm : BitVec 16) (cl : Clauses)
  /-- BARW (R262): Waits for the held barrier instance. -/
  | barw (d : BitVec 6) (cl : Clauses)
  /-- SSTEP (R263): Arrives at the gang's superstep barrier. -/
  | sstep (d : BitVec 6) (cl : Clauses)
  /-- BARRED (R262): Arrives at a reducing barrier carrying an operand. -/
  | barred (mod : BitVec 4) (d a : BitVec 6) (imm : BitVec 16) (cl : Clauses)
  /-- TAKE (R264): Requests a chunk of tiles from the work pool. -/
  | take (d : BitVec 6) (cl : Clauses)
  /-- SHARE (R264): Requests a static speed-weighted share of a total. -/
  | share (d a : BitVec 6) (cl : Clauses)
  /-- LAUNCH (R266): Checks a launch record and submits it to the armature. -/
  | launch (d a b c : BitVec 6) (cl : Clauses)
  /-- CPY (R268): Commands a byte copy on a channel. -/
  | cpy (mod : BitVec 4) (d a b c : BitVec 6) (imm : BitVec 16) (cl : Clauses)
  /-- CPYT (R269): Commands a transposing copy. -/
  | cpyt (mod : BitVec 4) (d a b c : BitVec 6) (imm : BitVec 16) (cl : Clauses)
  /-- CPYW (R270): Commands a windowed image copy. -/
  | cpyw (mod : BitVec 4) (d a b c : BitVec 6) (imm : BitVec 16) (cl : Clauses)
  /-- CPYG (R271): Commands an indexed gather from device memory. -/
  | cpyg (mod : BitVec 4) (d a b c : BitVec 6) (imm : BitVec 16) (cl : Clauses)
  /-- CPYS (R271): Commands an indexed scatter to device memory. -/
  | cpys (mod : BitVec 4) (d a b c : BitVec 6) (imm : BitVec 16) (cl : Clauses)
  /-- CPYP (R272): Commands a copy to a peer package with a signal. -/
  | cpyp (d a b c : BitVec 6) (imm : BitVec 16) (cl : Clauses)
  /-- CPYR (R273): Commands a re-cast of master weights into a compressed operand. -/
  | cpyr (d a b c : BitVec 6) (imm : BitVec 16) (cl : Clauses)
  /-- CPWAIT (R274): Waits for a channel's watermark to pass a transfer id. -/
  | cpwait (a : BitVec 6) (imm : BitVec 16) (cl : Clauses)
  /-- CPSTAT (R274): Reads a channel register. -/
  | cpstat (mod : BitVec 4) (d : BitVec 6) (imm : BitVec 16) (cl : Clauses)
  /-- STGWAIT (R275): Waits for a stage fill to land. -/
  | stgwait (d a : BitVec 6) (imm : BitVec 16) (cl : Clauses)
  /-- STGREL (R275): Releases one stage of a ring. -/
  | stgrel (imm : BitVec 16) (cl : Clauses)
  /-- STGSET (R45): Sets a ring descriptor and resets its counters. -/
  | stgset (a : BitVec 6) (imm : BitVec 16) (cl : Clauses)
  /-- EVWAIT (R276): Waits for an event line to be set. -/
  | evwait (imm : BitVec 16) (cl : Clauses)
  /-- EVCLR (R276): Clears an event line. -/
  | evclr (imm : BitVec 16) (cl : Clauses)
  /-- MOULD (R277): Reads mould status or marks the superstep not replayable. -/
  | mould (mod : BitVec 4) (d : BitVec 6) (cl : Clauses)
  /-- TMARK (R277): Writes a mark record when tracing is enabled. -/
  | tmark (a : BitVec 6) (imm : BitVec 16) (cl : Clauses)
  /-- CPCAN (R254): Cancels a channel's incomplete transfers and clears its fault. -/
  | cpcan (imm : BitVec 16) (cl : Clauses)
  /-- LAUNCHQ (R267): Checks a launch record without submitting it. -/
  | launchq (d a b c : BitVec 6) (cl : Clauses)
  /-- event FIXED_LATENCY_WRITEBACK (R99): A fixed-latency result is written at the end of its latency. -/
  | fixedLatencyWriteback (core : Nat)
  /-- event DIVIDE_COMPLETE (R113): The divider writes its result and clears the tag. -/
  | divideComplete (core : Nat)
  /-- event MATRIX_UNIT_WORD_DONE (R208): The matrix unit finishes a queued word and clears its tag. -/
  | matrixUnitWordDone (core : Nat)
  /-- event ON_QUAD_ACCESS_DONE (R44): A scratchpad bank or local tagged access is performed and its tag clears. -/
  | onQuadAccessDone (op : Nat)
  /-- event GENERATOR_CUTTER_DONE (R200): A pattern generator or cutter operation completes and writes its results. -/
  | generatorCutterDone (op : Nat)
  /-- event CONTEXT_SWITCH (R25): The issue port passes to the next ready slot in ring order. -/
  | contextSwitch (core : Nat)
  /-- event PORT_RESUME (R25): An idle port resumes when a tag clears and makes a slot ready. -/
  | portResume (core : Nat)
  /-- event TRAP_ENTRY (R295): Once non-restartable tags are free, a trap saves state and enters a handler or stops for the armature. -/
  | trapEntry (act : Nat)
  /-- event TIMER_MATCH (R298): The tick counter reaches TIMECMP and TIMER becomes pending. -/
  | timerMatch (act : Nat)
  /-- event INTERRUPT_TAKEN (R298): A pending interrupt is taken between two issued words. -/
  | interruptTaken (act : Nat)
  /-- event TIMECMP_WRITE (R298): A write to TIMECMP sets the compare and clears a pending timer. -/
  | timecmpWrite (act : Nat) (value : BitVec 64)
  /-- event EXTPEND_WRITE (R298): A write to EXTPEND sets or clears external interrupt lines. -/
  | extpendWrite (act : Nat) (value : BitVec 64)
  /-- event HOME_PORT_ACCESS (R154): A home port performs one access to a line in arrival order. -/
  | homePortAccess (req : Nat)
  /-- event DEVICE_LOAD_RETURN (R153): Device-memory load data returns, possibly poisoned, and the tag clears. -/
  | deviceLoadReturn (req : Nat)
  /-- event STORE_ACCEPTED (R153): A store is accepted at its home and its tag clears. -/
  | storeAccepted (req : Nat)
  /-- event ATOMIC_REPLY (R161): An atomic's old value is written back and its tag clears. -/
  | atomicReply (req : Nat)
  /-- event WAITMEM_SATISFIED (R165): The home port finds the watched value satisfies the condition and replies. -/
  | waitmemSatisfied (req : Nat)
  /-- event REDUCTION_MERGE_APPLY (R162): Pending merged reductions of a line are applied, at most 1,000 ticks after the first. -/
  | reductionMergeApply (line : Nat)
  /-- event RELEASE_WAIT_DONE (R153): A release word issues once every earlier memory word has completed. -/
  | releaseWaitDone (act : Nat)
  /-- event L1_LINE_EXPIRY (R50): An L1 line is dropped 4,096 ticks after its fill. -/
  | l1LineExpiry (core : Nat) (line : Nat)
  /-- event TRANSLATION_WALK (R307): A page walk at the region home port ends in a translation, OBJMISS or OBJPROT. -/
  | translationWalk (act : Nat)
  /-- event OTINV_WRITE (R309): A write to OTINV queues a translation invalidation. -/
  | otinvWrite (act : Nat) (value : BitVec 64)
  /-- event INVALIDATION_COMPLETE (R309): An invalidation completes when matching entries are dropped and their accesses performed. -/
  | invalidationComplete (part : Nat)
  /-- event MIGREQ_WRITE (R310): A write to MIGREQ starts or refuses a page migration. -/
  | migreqWrite (act : Nat) (value : BitVec 64)
  /-- event MIGRATION_ROUND (R310): A migration round copies the page's dirty lines to the new frame. -/
  | migrationRound (act : Nat)
  /-- event MIGRATION_FREEZE (R310): The freeze holds accesses, copies the rest, rewrites the leaf and invalidates. -/
  | migrationFreeze (act : Nat)
  /-- event KICKSET_WRITE (R311): The host sets kick bits of a queue and a scan begins. -/
  | kicksetWrite (part : Nat) (queue : Nat) (value : BitVec 64)
  /-- event KICKCLR_WRITE (R323): The armature clears kick bits of a queue. -/
  | kickclrWrite (part : Nat) (queue : Nat) (value : BitVec 64)
  /-- event HOSTIRQ_WRITE (R323): A write raises EXTINT line 0 toward the host. -/
  | hostirqWrite (part : Nat)
  /-- event LQBASE_WRITE (R311): A write opens, closes or reopens a launch queue. -/
  | lqbaseWrite (part : Nat) (queue : Nat) (value : BitVec 64) (host : Bool)
  /-- event KICK_SCAN (R312): Every 100 ticks the armature scans the kick bitmap. -/
  | kickScan (part : Nat)
  /-- event KICK_TAKE (R312): The armature copies, checks, stores and journals a kicked record, then clears the bit and writes status. -/
  | kickTake (part : Nat)
  /-- event JOURNAL_ENTRY_ACCEPTED (R317): A journal entry is accepted at home and its action may take effect. -/
  | journalEntryAccepted (part : Nat)
  /-- event LAUNCH_SUBMISSION (R266): The armature accepts or refuses a record submitted by LAUNCH. -/
  | launchSubmission (part : Nat)
  /-- event DEPENDENCE_THRESHOLD (R314): A watched counter reaches its threshold and the launch becomes eligible. -/
  | dependenceThreshold (part : Nat) (gang : Nat)
  /-- event CREW_DISPATCH (R18): The scheduler places a crew on a quad and starts its activities. -/
  | crewDispatch (gang : Nat)
  /-- event PREEMPTION (R299): A context is taken off its core and written to its save area. -/
  | preemption (act : Nat)
  /-- event STALL_SWEEP (R35): At least every 500 ticks the armature swaps out parked crews of qualifying gangs. -/
  | stallSweep (gang : Nat)
  /-- event CREW_SWAP_IN (R302): A swapped-out or evacuated crew is restored onto a free quad. -/
  | crewSwapIn (gang : Nat) (crew : Nat)
  /-- event CYCLE_CHECK_EXPIRY (R37): The lowest crew parked 1,000,000 ticks ends the gang. -/
  | cycleCheckExpiry (gang : Nat)
  /-- event BARRIER_WATCHDOG_EXPIRY (R303): The barrier watchdog reaches its limit and ends the gang. -/
  | barrierWatchdogExpiry (gang : Nat)
  /-- event GANG_COMPLETION (R34): Once all exits, copies and stores are done the distributor increments the completion signal. -/
  | gangCompletion (gang : Nat)
  /-- event TAKE_SERVED (R26): The distributor serves a TAKE from the work pool. -/
  | takeServed (op : Nat)
  /-- event SHARE_SERVED (R27): The distributor computes a share from the snapshot. -/
  | shareServed (op : Nat)
  /-- event BARRIER_ARRIVAL (R30): A barrier arrival reaches the sync tree and is timestamped. -/
  | barrierArrival (act : Nat)
  /-- event BARRIER_COMPLETE (R29): All participants have arrived and the report is formed. -/
  | barrierComplete (inst : Nat)
  /-- event SSTEP_COMPLETE (R329): A superstep completes after copies and matrix words, opening an epoch and writing moulds. -/
  | sstepComplete (inst : Nat)
  /-- event BARRIER_RELEASE (R31): Each core releases at T0 plus its column stagger. -/
  | barrierRelease (inst : Nat) (act : Nat)
  /-- event POD_BARRIER_REPORT (R316): A package reports a pod-group instance over the pod's sync tree. -/
  | podBarrierReport (inst : Nat) (pkg : Nat)
  /-- event MEET_ARRIVAL (R234): A MEET arrival reaches its home and waits, pairs or gets FULL. -/
  | meetArrival (act : Nat)
  /-- event MEETING_CORE_CHOSEN (R235): A queued pair is given a meeting core and both parties start travelling. -/
  | meetingCoreChosen (quad : Nat) (entry : Nat)
  /-- event MEET_LANDED (R239): Both parties have landed and MET is written. -/
  | meetLanded (core : Nat)
  /-- event PART_LANDED (R241): A parting party lands home, writes back luggage and clears PART's tag. -/
  | partLanded (act : Nat)
  /-- event MEET_TIMEOUT (R242): A waiting or queued entry reaches its deadline and gets NOSHOW. -/
  | meetTimeout (act : Nat)
  /-- event MEET_WITHDRAWAL (R243): A withdrawal for a pre-empted party is served at the home. -/
  | meetWithdrawal (act : Nat)
  /-- event COPY_LINE (R245): The engine performs one line of a channel's transfer in round-robin order. -/
  | copyLine (quad : Nat) (chan : Nat)
  /-- event TRANSFER_COMPLETE (R245): A transfer completes and its channel's watermark advances. -/
  | transferComplete (quad : Nat) (chan : Nat)
  /-- event COPY_FAULT (R253): A fault arises in flight, stopping the transfer and faulting the channel. -/
  | copyFault (quad : Nat) (chan : Nat) (cause : BitVec 8)
  /-- event PEER_SIGNAL (R252): After the data lands, the peer's counter is incremented and acknowledged. -/
  | peerSignal (quad : Nat) (chan : Nat)
  /-- event LINK_RAIL_FAILURE (R325): A failed rail is rebuilt from the other four and reported. -/
  | linkRailFailure (link : Nat)
  /-- event LINK_FLIT_RETRY (R325): A flit with two bad parts is retried up to 8 times. -/
  | linkFlitRetry (link : Nat) (ok : Bool)
  /-- event LINK_DOWN (R325): A link is declared down, faulting peer transfers or dropping a die. -/
  | linkDown (link : Nat)
  /-- event SUPERSTEP_REPLAY (R332): A BSP gang is stopped, its logs and moulds restored, and resumed. -/
  | superstepReplay (gang : Nat)
  /-- event GANG_END (R333): A gang is ended, its copies cancelled and its slots freed. -/
  | gangEnd (gang : Nat) (grade : BitVec 2)
  /-- event SCRUB_LINE (R334): The scrubber reads a line, correcting or poisoning it. `space` is 0 a Jexud stack (`line` is home address / 64), 1 local memory, 2 a scratchpad, 3 an accumulator store (`line` is 256 · tile + row pair), 4 a core mould buffer, 5 a quad mould buffer, 6 a memory-side cache of die `inst`, 7 an armature memory; `inst` is the core, quad or die. -/
  | scrubLine (space : Nat) (inst : Nat) (line : Nat) (uncorrectable : Bool)
  /-- event RETENTION_EXIT (R336): A quad leaving retention checks its elements and may raise RETLOST. -/
  | retentionExit (quad : Nat) (lost : Bool)
  /-- event DIE_DROP (R337): The armature evacuates a failing compute die and marks it not live. -/
  | dieDrop (die : Nat)
  /-- event CROSS_ALARM (R359): An armature core's alarm freezes it and may start take-over by the standby. -/
  | crossAlarm (core : Nat) (code : BitVec 16)
  /-- event DRAIN_WRITE (R319): Setting or clearing DRAIN changes acceptance of kicks and launches. -/
  | drainWrite (part : Nat) (value : BitVec 64)
  /-- event PGENR_WRITE (R316): A write enrols or changes a pod group entry. -/
  | pgenrWrite (part : Nat) (entry : Nat) (value : BitVec 64)
  /-- event QUAD_HALT (R340): A halt write or cross-trigger stops a quad's cores and freezes its engine. -/
  | quadHalt (quad : Nat)
  /-- event QUAD_HALTED (R340): Every context and the engine have stopped and halted is set. -/
  | quadHalted (quad : Nat)
  /-- event QUAD_RESUME (R340): A resume write restarts the engine and the cores. -/
  | quadResume (quad : Nat)
  /-- event DEBUG_STATE_WRITE (R304): A debugger writes halted context state through the debug module. -/
  | debugStateWrite (act : Nat) (item : DebugItem)
  /-- event SAMPLE_BUFFER_SETUP (R342): Writing SBBASE or SBLEN resets SBPTR. -/
  | sampleBufferSetup (part : Nat) (len : Bool) (value : BitVec 64)
  /-- event PROOF_ARM (R345): A write to PROOF arms a proof for a tick. -/
  | proofArm (part : Nat) (value : BitVec 64)
  /-- event PROOF_SNAPSHOT (R345): At the armed tick every core latches its slots and each quad writes a proof record. -/
  | proofSnapshot (part : Nat)
  /-- event DVREQ (R347): Firmware requests a voltage step change for a die. -/
  | dvreq (die : Nat) (value : BitVec 64)
  /-- event CLOCK_SWITCH (R347): At T_sw every core of the die switches clock and pauses issue. -/
  | clockSwitch (die : Nat)
  /-- event DVFS_PAUSE_END (R347): 20 ticks after T_sw the die's cores resume issuing. -/
  | dvfsPauseEnd (die : Nat)
  /-- event ARRAY_GATE (R349): The power controller gates a cache way or free scratchpad bank. -/
  | arrayGate (quad : Nat) (bank : Nat)
  /-- event ARRAY_WAKE (R349): A gated array is zero-filled before any access completes. -/
  | arrayWake (quad : Nat) (bank : Nat)
  /-- event THERMAL_WARNING (R350): A die reaches THWARN and the emergency save starts. -/
  | thermalWarning (die : Nat)
  /-- event EMERGENCY_SAVE_COMMIT (R350): The emergency save completes and the commit word is written. -/
  | emergencySaveCommit
  /-- event THERMAL_TRIP (R350): A die at 125 °C cuts power to dies and plates and sets TRIPREC. -/
  | thermalTrip (die : Nat)
  /-- event TRIPREC_CLEAR (R350): A host write of 1 to bit 63 clears TRIPREC. -/
  | triprecClear (value : BitVec 64)
  /-- event PARTMAP_WRITE (R351): A valid PARTMAP write is held for the next package reset; an invalid one is ignored. -/
  | partmapWrite (value : BitVec 64)
  /-- event PACKAGE_RESET (R354): Package reset runs the boot checks and applies the partition map. -/
  | packageReset
  /-- event PARTITION_RESET (R292): Partition reset launches firmware, drops defective plates and empties caches. -/
  | partitionReset (part : Nat)
  /-- event ATTESTATION_REQUEST (R355): A write to ATTGO starts an attestation report. -/
  | attestationRequest (value : BitVec 64)
  /-- event ATTESTATION_DONE (R355): The attestation report is whole and ATTGO[0] clears. -/
  | attestationDone
  /-- event TAMPER_ALARM (R356): A glitch or mesh breach raises the tamper alarm under the fused policy. -/
  | tamperAlarm (source : BitVec 3)
  /-- event REGISTER_WRITE (R13): A write to a register with no behaviour of its own stores its writable fields. `reg` is a window offset, or 2^24 + n for the partition's system register n. -/
  | registerWrite (part : Nat) (reg : Nat) (value : BitVec 64)
  /-- event FIXED_TIME_TAG_CLEAR (R258): A tagged word whose result comes a fixed number of cycles after issue writes it and frees its tag: XREG, XVREG and XLUG, MEETQ, LAUNCHQ, MOULD, an acquire-only FENCE, and a BARA with AP set. -/
  | fixedTimeTagClear (op : Nat)
  /-- event MACHINE_CHECK_ERROR (R148): A unit detects an error outside scrubbing and consumption, such as an uncorrectable error in core logic, and posts a machine-check record to MCSTAT, which leads to MCHECK toward the armature. -/
  | machineCheckError (core : Nat) (record : BitVec 64)
  /-- event TEMPERATURE_FALLS (R350): After the emergency save has committed without a trip, the die temperature falls again and the saved gangs resume at once. -/
  | temperatureFalls (die : Nat)
  /-- event SBPTR_WRITE (R342): Rewriting SBPTR lets a sample buffer that stopped in stop mode take records again. -/
  | sbptrWrite (part : Nat) (value : BitVec 64)
deriving DecidableEq, Repr

end Sys2Proof
end

