-- ==== Sys2Proof/Decode.lean ====
section
/-! DEFINITION. Decode: total on any bytes. A word is cut into its fields (R91, R92), the opcode names the constructor
(R109), and the checks of R108 step 1 are made in their order; the first that fails answers the bit position that
ILLOP carries as its detail. After the decoder stands the encoder, written from the same layouts. -/
namespace Sys2Proof

/-! ## Fields and words -/

/-- Bits [27:0] of a word, cut into the clauses (R91). -/
def Clauses.ofWord (w : Word80) : Clauses :=
  { seqMode := w.extractLsb' 25 3, seqB := w.extractLsb' 22 3, seqP := w.extractLsb' 19 3
    annul := w.extractLsb' 17 2, pd := w.extractLsb' 14 3, alloc := w.extractLsb' 11 3
    wait := w.extractLsb' 4 7, park := w.extractLsb' 3 1, last := w.extractLsb' 0 3 }

/-- The clauses as bits [27:0] (R91). -/
def Clauses.toBits (c : Clauses) : BitVec 28 :=
  c.seqMode ++ c.seqB ++ c.seqP ++ c.annul ++ c.pd ++ c.alloc ++ c.wait ++ c.park ++ c.last

/-- The fields of a word (R91). -/
def Fields.ofWord (w : Word80) : Fields :=
  { op := w.extractLsb' 72 8, d := w.extractLsb' 66 6, a := w.extractLsb' 60 6, b := w.extractLsb' 54 6
    c := w.extractLsb' 48 6, mod := w.extractLsb' 44 4, imm := w.extractLsb' 28 16, cl := Clauses.ofWord w }

/-- The word made of the fields (R91). -/
def Fields.toWord (f : Fields) : Word80 :=
  f.op ++ f.d ++ f.a ++ f.b ++ f.c ++ f.mod ++ f.imm ++ f.cl.toBits

/-- imm26, bits [53:28] of an I-form word (R92). -/
def Fields.imm26 (f : Fields) : BitVec 26 := f.c ++ f.mod ++ f.imm

/-- imm32, bits [59:28] of an L-form word (R92). -/
def Fields.imm32 (f : Fields) : BitVec 32 := f.b ++ f.c ++ f.mod ++ f.imm

/-- No field set but the opcode and the clauses. -/
def Fields.base (op : BitVec 8) (cl : Clauses) : Fields :=
  { op := op, d := 0, a := 0, b := 0, c := 0, mod := 0, imm := 0, cl := cl }

/-- The I-form's immediate laid into the fields c, mod and imm (R92). -/
def Fields.setImm26 (f : Fields) (x : BitVec 26) : Fields :=
  { f with c := x.extractLsb' 20 6, mod := x.extractLsb' 16 4, imm := x.extractLsb' 0 16 }

/-- The L-form's immediate laid into the fields b, c, mod and imm (R92). -/
def Fields.setImm32 (f : Fields) (x : BitVec 32) : Fields :=
  { f with b := x.extractLsb' 26 6, c := x.extractLsb' 20 6, mod := x.extractLsb' 16 4, imm := x.extractLsb' 0 16 }

/-! ## Layouts: what the entry of an opcode says of its fields -/

/-- What a register field names (R93), with the entries' own limits: a lane-mask destination is not p0 (R110), an
even vector pair (R227), an even scalar pair 2..62 (R230, R262). -/
inductive FieldUse where
  | no | s | v | p | pDst | b | k | m | bd | vEven | sPair
deriving DecidableEq, Repr

/-- The word's form (R92). -/
inductive Form where
  | R | I | L
deriving DecidableEq, Repr

/-- What the mod field may hold: `ok` says that the entry defines the value (`bit` the lowest bit of the sub-field that does
not, R108), `zero` the bits that must be zero; with `only0` the entry defines the value 0 alone. -/
structure ModUse where
  ok : Bool
  zero : BitVec 4
  bit : Nat := 44
  only0 : Bool := false
deriving DecidableEq, Repr

/-- How the sequencing fields are used: by every word, not at all by EXIT, and with NEXT only by TRET (R111). -/
inductive SeqUse where
  | all | exit | tret
deriving DecidableEq, Repr

/-- The encoding rules of one instruction. -/
structure Layout where
  form : Form := .R
  d : FieldUse
  a : FieldUse
  b : FieldUse
  c : FieldUse
  mod : ModUse := { ok := true, zero := 0xF }
  /-- bits of imm that must be zero -/
  immZero : BitVec 16 := 0xFFFF
  /-- a reserved value in an immediate sub-field: the lowest bit of that sub-field in the word -/
  immBad : Option Nat := none
  /-- CUT: its lane-mask destinations stand in mod and imm (R230) -/
  modP0 : Bool := false
  immP0 : Bool := false
  modClash : Bool := false
  /-- an exchange's a field names the partner's register: no last-use bit (R258) -/
  noLastA : Bool := false
  /-- CPYR: imm[11:8] names a capability register (R268) -/
  immK : Bool := false
  seqUse : SeqUse := .all
deriving DecidableEq, Repr

/-- A layout with mod and imm unused. -/
def L (d a b c : FieldUse) : Layout := { d := d, a := a, b := b, c := c }

/-- mod holds a value the entry defines. -/
def M (ok : Bool) : ModUse := { ok := ok, zero := 0 }

/-- Some bits of mod must be zero. -/
def MZ (zero : BitVec 4) : ModUse := { ok := true, zero := zero }

/-- Both. -/
def MZ' (ok : Bool) (zero : BitVec 4) : ModUse := { ok := ok, zero := zero }

/-- The tag or format field imm[4:0] of a vector immediate (R150). -/
def tagOf (imm : BitVec 16) : BitVec 5 := imm.extractLsb' 0 5

/-- The tags E4M3S and E5M2S (R61). -/
def fp8Scaled (t : BitVec 5) : Bool := t == 0x0B || t == 0x0C

/-- The tags E4M3, E5M2, E4M3S and E5M2S. -/
def fp8Tag (t : BitVec 5) : Bool := t == 0x09 || t == 0x0A || fp8Scaled t

/-- The tags BP2..BP8 (R63). -/
def bpTag (t : BitVec 5) : Bool := 0x10 ≤ t.toNat && t.toNat ≤ 0x16

/-- The tags with a block word (R65). -/
def tagHasBlock (t : BitVec 5) : Bool := fp8Scaled t || bpTag t

/-- The load sizes mod accepts (R150): sx not with size 3, and ord only where `ordered` words exist; an ordered word
keeps the same size and sx. -/
def loadSizeOk (mod : BitVec 4) (ordered : Bool) : Bool :=
  (ordered || !mod.getLsbD 3) && mod.toNat % 8 ≠ 7

/-- The reserved bits of an order word, and rs when the scope is not a rectangle (R151). -/
def orderZero (imm : BitVec 16) : BitVec 16 := if imm.toNat % 8 = 5 then 0xC0C8 else 0xFFC8

/-- The reserved values of an order word: scope 7, and an ord that the entry does not accept (R151). -/
def orderBad (imm : BitVec 16) (accepted : List Nat) : Option Nat :=
  if imm.toNat % 8 = 7 then some 28 else if imm.toNat / 16 % 4 ∈ accepted then none else some 32

/-- The bound field: imm[3:0] must be zero when imm[4] is (R150). -/
def boundZero (imm : BitVec 16) : BitVec 16 := if imm.getLsbD 4 then 0 else 0x000F

/-- The scope codes of R255. -/
def scopeOk (mod : BitVec 4) : Bool := mod.toNat ≤ 5

/-- imm[5:0] must be zero unless the scope is a rectangle (R255); `rest` are the entry's own zero bits. -/
def scopeZero (mod : BitVec 4) (rest : BitVec 16) : BitVec 16 := if mod = 5 then rest else rest ||| 0x003F

/-- The file of XREG's mod (R258). -/
def xFile (mod : BitVec 4) : FieldUse := if mod = 0 then .s else if mod = 1 then .p else if mod = 2 then .b else .k

/-- The same for the destination. -/
def xFileDst (mod : BitVec 4) : FieldUse := if mod = 1 then .pDst else xFile mod

/-- The number is in its file's range, or obeys the entry's limit (R93). -/
def FieldUse.ok (u : FieldUse) (n : BitVec 6) : Bool :=
  match u with
  | .no | .s => true
  | .v => n.toNat < 32
  | .p | .pDst | .b | .m => n.toNat < 8
  | .k | .bd => n.toNat < 16
  | .vEven => n.toNat < 32 && n.toNat % 2 = 0
  | .sPair => 2 ≤ n.toNat && n.toNat % 2 = 0

/-- A last-use bit is legal on a field that names a register of the s, v, p, b or k file other than s0 and p0
(R106). -/
def FieldUse.lastOk (u : FieldUse) (n : BitVec 6) : Bool :=
  match u with
  | .s | .p => n ≠ 0
  | .v | .b | .k => true
  | _ => false

/-- The mask of an unused register field. -/
def FieldUse.zero (u : FieldUse) : BitVec 6 := if u = .no then 0x3F else 0

/-- The layout of each instruction, as its entry gives it; `none` for an event, which has no encoding. -/
def layout (i : Instr) : Option Layout :=
  match i with
  | .add _ _ _ _ => some (L .s .s .s .no)
  | .sub _ _ _ _ => some (L .s .s .s .no)
  | .addi _ _ _ _ => some ({ L .s .s .no .no with immZero := 0 })
  | .mul _ _ _ _ => some (L .s .s .s .no)
  | .mulh _ _ _ _ => some (L .s .s .s .no)
  | .mulhu _ _ _ _ => some (L .s .s .s .no)
  | .div _ _ _ _ => some (L .s .s .s .no)
  | .divu _ _ _ _ => some (L .s .s .s .no)
  | .rem _ _ _ _ => some (L .s .s .s .no)
  | .remu _ _ _ _ => some (L .s .s .s .no)
  | .and _ _ _ _ => some (L .s .s .s .no)
  | .or _ _ _ _ => some (L .s .s .s .no)
  | .xor _ _ _ _ => some (L .s .s .s .no)
  | .andi _ _ _ _ => some ({ L .s .s .no .no with immZero := 0 })
  | .ori _ _ _ _ => some ({ L .s .s .no .no with immZero := 0 })
  | .xori _ _ _ _ => some ({ L .s .s .no .no with immZero := 0 })
  | .sll _ _ _ _ => some (L .s .s .s .no)
  | .srl _ _ _ _ => some (L .s .s .s .no)
  | .sra _ _ _ _ => some (L .s .s .s .no)
  | .slli _ _ _ _ => some ({ L .s .s .no .no with immZero := 0xFFC0 })
  | .srli _ _ _ _ => some ({ L .s .s .no .no with immZero := 0xFFC0 })
  | .srai _ _ _ _ => some ({ L .s .s .no .no with immZero := 0xFFC0 })
  | .min _ _ _ _ => some (L .s .s .s .no)
  | .max _ _ _ _ => some (L .s .s .s .no)
  | .minu _ _ _ _ => some (L .s .s .s .no)
  | .maxu _ _ _ _ => some (L .s .s .s .no)
  | .clz _ _ _ => some (L .s .s .no .no)
  | .popc _ _ _ => some (L .s .s .no .no)
  | .bfx mod _ _ _ _ => some ({ L .s .s .no .no with mod := M (mod.toNat ≤ 1), immZero := 0xF000 })
  | .bfi _ _ _ _ _ => some ({ L .s .s .s .no with immZero := 0xF000 })
  | .li _ _ _ => some ({ L .s .no .no .no with form := .L })
  | .lih _ _ _ _ => some ({ L .s .s .no .no with form := .L })
  | .cmp mod _ _ _ _ => some ({ L .pDst .s .s .no with mod := M (mod.toNat ≤ 11) })
  | .cmpi mod _ _ _ _ => some ({ L .pDst .s .no .no with mod := M (mod.toNat ≤ 11), immZero := 0 })
  | .plog mod _ _ _ _ => some ({ L .pDst .p .p .no with mod := M (mod.toNat ≤ 7) })
  | .pmov mod _ _ _ => some ({ L (if mod = 1 then .s else .pDst) (if mod = 0 then .s else .p) .no .no with mod := M (mod.toNat ≤ 2) })
  | .sel _ _ _ _ _ => some (L .s .s .s .p)
  | .tgt _ _ _ => some ({ L .b .no .no .no with form := .I })
  | .tgtr _ _ _ => some (L .b .s .no .no)
  | .movb mod _ _ _ => some ({ L (if mod = 1 then .s else .b) (if mod = 0 then .s else .b) .no .no with mod := M (mod.toNat ≤ 2) })
  | .lcset _ _ _ => some ({ L .no .s .no .no with form := .I })
  | .lkmov mod _ _ _ => some ({ L (if mod = 0 ∨ mod = 2 then .s else .no) (if mod = 1 ∨ mod = 3 then .s else .no) .no .no with mod := M (mod.toNat ≤ 3) })
  | .nop _ => some (L .no .no .no .no)
  | .srd _ _ _ => some ({ L .s .no .no .no with immZero := 0xF000 })
  | .swr _ _ _ => some ({ L .no .s .no .no with immZero := 0xF000 })
  | .trap _ _ => some ({ L .no .no .no .no with immZero := 0 })
  | .tret _ => some ({ L .no .no .no .no with seqUse := .tret })
  | .exit _ => some ({ L .no .no .no .no with seqUse := .exit })
  | .yield _ => some (L .no .no .no .no)
  | .time mod _ _ => some ({ L .s .no .no .no with mod := M (mod.toNat ≤ 2) })
  | .ident mod _ _ => some ({ L .s .no .no .no with mod := M (mod.toNat ≤ 11) })
  | .wfi _ => some (L .no .no .no .no)
  | .iflush _ => some (L .no .no .no .no)
  | .brk _ _ => some ({ L .no .no .no .no with immZero := 0 })
  | .srset _ _ _ => some ({ L .no .s .no .no with immZero := 0xF000 })
  | .srclr _ _ _ => some ({ L .no .s .no .no with immZero := 0xF000 })
  | .deadmk mod _ _ => some ({ L .no .s .no .no with mod := M (mod.toNat ≤ 4) })
  | .liveq mod _ _ => some ({ L .s .no .no .no with mod := M (mod.toNat ≤ 4) })
  | .chk _ _ _ _ _ => some ({ L .s .s .s .no with immZero := 0 })
  | .crc32c mod _ _ _ _ => some ({ L .s .s .s .no with mod := M (mod.toNat ≤ 3) })
  | .mchk mod _ _ => some ({ L .s .no .no .no with mod := M (mod.toNat ≤ 1) })
  | .xalm mod _ _ => some ({ L .no .no .no .no with mod := M (mod.toNat ≤ 1), immZero := if mod = 0 then 0 else 0xFFFF })
  | .spdrd mod _ _ _ _ => some ({ L .s (if mod = 0 then .no else .s) .no .no with mod := M (mod.toNat ≤ 2), immZero := if mod = 2 then 0xFFF8 else 0xFFFF })
  | .rand mod _ _ _ => some ({ L .s (if mod = 0 then .no else .s) .no .no with mod := M (mod.toNat ≤ 1) })
  | .ldl mod _ _ _ _ => some ({ L .s .s .no .no with mod := M (loadSizeOk mod false), immZero := 0 })
  | .stl mod _ _ _ _ => some ({ L .no .s .no .s with mod := M (mod.toNat ≤ 3), immZero := 0 })
  | .ldq mod _ _ _ _ => some ({ L .s .s .no .no with mod := M (loadSizeOk mod false), immZero := 0 })
  | .stq mod _ _ _ _ => some ({ L .no .s .no .s with mod := M (mod.toNat ≤ 3), immZero := 0 })
  | .ld mod _ _ _ imm _ => some ({ L .s .k .s .no with mod := M (loadSizeOk mod true), immZero := if mod.getLsbD 3 then orderZero imm else 0, immBad := if mod.getLsbD 3 then orderBad imm [1] else none })
  | .st mod _ _ _ imm _ => some ({ L .no .k .s .s with mod := M (mod.toNat ≤ 3 || (8 ≤ mod.toNat && mod.toNat ≤ 11)), immZero := if mod.getLsbD 3 then orderZero imm else 0, immBad := if mod.getLsbD 3 then orderBad imm [2] else none })
  | .vldl _ _ _ imm _ => some ({ L .v .s .no (if tagHasBlock (tagOf imm) then .s else .no) with immZero := 0 })
  | .vstl _ _ _ imm _ => some ({ L .no .s .no .v with mod := MZ 8, immZero := boundZero imm })
  | .vldq _ _ _ imm _ => some ({ L .v .s .no (if tagHasBlock (tagOf imm) then .s else .no) with immZero := 0 })
  | .vstq _ _ _ imm _ => some ({ L .no .s .no .v with mod := MZ 8, immZero := boundZero imm })
  | .vld _ _ _ _ imm _ => some ({ L .v .k .s (if tagHasBlock (tagOf imm) then .s else .no) with immZero := 0 })
  | .vst _ _ _ _ imm _ => some ({ L .no .k .s .v with mod := MZ 8, immZero := boundZero imm })
  | .vgathl _ _ _ _ _ _ => some ({ L .v .s .v .no with mod := MZ 8, immZero := 0xFFE0 })
  | .vscatl _ _ _ _ _ => some ({ L .no .s .v .v with mod := MZ 8 })
  | .aadd mod d _ _ _ imm _ => some ({ L .s .k .s .s with mod := MZ' (mod &&& 3 = 0) 4, immZero := orderZero imm, immBad := orderBad imm (if d = 0 then [0, 2] else [0, 1, 2, 3]) })
  | .alog mod d _ _ _ imm _ => some ({ L .s .k .s .s with mod := MZ' (mod &&& 3 ≠ 3) 4, immZero := orderZero imm, immBad := orderBad imm (if d = 0 then [0, 2] else [0, 1, 2, 3]) })
  | .amnx _ d _ _ _ imm _ => some ({ L .s .k .s .s with mod := MZ 4, immZero := orderZero imm, immBad := orderBad imm (if d = 0 then [0, 2] else [0, 1, 2, 3]) })
  | .aswp mod d _ _ _ imm _ => some ({ L .s .k .s .s with mod := MZ' (mod &&& 3 = 0) 4, immZero := orderZero imm, immBad := orderBad imm (if d = 0 then [0, 2] else [0, 1, 2, 3]) })
  | .acas mod d _ _ _ imm _ => some ({ L .s .k .s .s with mod := MZ' (mod &&& 3 = 0) 4, immZero := orderZero imm, immBad := orderBad imm (if d = 0 then [0, 2] else [0, 1, 2, 3]) })
  | .afadd mod d _ _ _ imm _ => some ({ L .s .k .s .s with mod := M (mod.toNat ≤ 1), immZero := orderZero imm, immBad := orderBad imm (if d = 0 then [0, 2] else [0, 1, 2, 3]) })
  | .waitmem mod _ _ _ _ imm _ => some ({ L .s .k .s .s with mod := M (mod.toNat % 8 ≤ 5), immZero := orderZero imm, immBad := orderBad imm [0, 1] })
  | .fence imm _ => some ({ L .no .no .no .no with immZero := orderZero imm, immBad := orderBad imm [1, 2, 3] })
  | .cld _ _ _ _ _ => some ({ L .k .k .s .no with immZero := 0 })
  | .cst _ _ _ _ _ => some ({ L .no .k .s .k with immZero := 0 })
  | .cnarrow _ _ _ _ _ _ => some ({ L .k .k .s .s with immZero := 0xFF80 })
  | .cget mod _ _ _ => some ({ L .s .k .no .no with mod := M (mod.toNat ≤ 7) })
  | .csetc _ _ _ _ => some (L .k .s .s .no)
  | .pfetch mod _ _ _ => some ({ L .no .k .s .no with mod := M (mod.toNat ≤ 1) })
  | .cinv mod _ _ _ => some ({ L .no (if mod = 1 then .k else .no) (if mod = 1 then .s else .no) .no with mod := M (mod.toNat ≤ 1) })
  | .signal _ _ _ imm _ => some ({ L .no .k .s .s with immZero := orderZero imm, immBad := orderBad imm [2] })
  | .zerol _ _ _ => some (L .no .s .s .no)
  | .movk mod _ _ _ => some ({ L .k .k .no .no with mod := M (mod.toNat ≤ 1) })
  | .vadd _ _ _ _ _ _ => some ({ L .v .v .v .no with mod := M true, immZero := 0xFFFE })
  | .vsub _ _ _ _ _ _ => some ({ L .v .v .v .no with mod := M true, immZero := 0xFFFE })
  | .vmul _ _ _ _ _ _ => some ({ L .v .v .v .no with mod := M true, immZero := 0xFFFE })
  | .vfma _ _ _ _ _ _ _ => some ({ L .v .v .v .v with mod := M true, immZero := 0xFFFE })
  | .vfms _ _ _ _ _ _ _ => some ({ L .v .v .v .v with mod := M true, immZero := 0xFFFE })
  | .vmin _ _ _ _ _ => some ({ L .v .v .v .no with mod := M true })
  | .vmax _ _ _ _ _ => some ({ L .v .v .v .no with mod := M true })
  | .vabs _ _ _ _ _ => some ({ L .v .v .no .no with mod := M true, immZero := 0xFFFE })
  | .vneg _ _ _ _ _ => some ({ L .v .v .no .no with mod := M true, immZero := 0xFFFE })
  | .vrcp _ _ _ _ => some ({ L .v .v .no .no with mod := M true })
  | .vrsq _ _ _ _ => some ({ L .v .v .no .no with mod := M true })
  | .vexp2 _ _ _ _ => some ({ L .v .v .no .no with mod := M true })
  | .vlog2 _ _ _ _ => some ({ L .v .v .no .no with mod := M true })
  | .vand _ _ _ _ _ => some ({ L .v .v .v .no with mod := M true })
  | .vor _ _ _ _ _ => some ({ L .v .v .v .no with mod := M true })
  | .vxor _ _ _ _ _ => some ({ L .v .v .v .no with mod := M true })
  | .vshl _ _ _ _ imm _ => some ({ L .v .v (if imm.getLsbD 15 then .no else .v) .no with mod := M true, immZero := if imm.getLsbD 15 then 0x7FC0 else 0x7FFF })
  | .vshr _ _ _ _ imm _ => some ({ L .v .v (if imm.getLsbD 15 then .no else .v) .no with mod := M true, immZero := if imm.getLsbD 15 then 0x7F80 else 0x7FBF })
  | .vcmp mod _ _ _ _ _ => some ({ L .pDst .v .v .p with mod := M (mod.toNat ≤ 7) })
  | .vsel _ _ _ _ _ => some (L .v .v .v .p)
  | .vbcast mod _ _ _ _ => some ({ L .v (if mod = 0 then .s else .v) .no .no with mod := M (mod.toNat ≤ 1), immZero := if mod = 0 then 0xFFE0 else 0xFFC0 })
  | .vextr mod _ _ _ _ _ => some ({ L .s .v (if mod = 2 ∨ mod = 3 then .s else .no) .no with mod := M (mod.toNat ≤ 4), immZero := if mod.toNat ≤ 1 then 0xFFC0 else 0xFFFF })
  | .vins mod _ _ _ _ _ => some ({ L .v .s (if mod = 1 then .s else .no) .no with mod := M (mod.toNat ≤ 2), immZero := if mod = 0 then 0xFFC0 else 0xFFFF })
  | .vperm _ _ _ _ _ => some ({ L .v .v .v .no with mod := M true })
  | .vreduce _ _ _ imm _ => some ({ L .s .v .no .no with mod := MZ 8, immZero := 0xFFFC, immBad := if imm.toNat % 4 = 3 then some 28 else none })
  | .vcvt mod _ _ _ imm _ => some ({ L .v .v (if fp8Scaled (tagOf imm) then .s else .no) .no with mod := { M (mod.toNat % 8 ≤ 5 && (mod.toNat < 8 || fp8Tag (tagOf imm))) with bit := if mod.toNat % 8 ≤ 5 then 47 else 44 }, immZero := 0xFF00 })
  | .vretag _ _ _ imm _ => some ({ L .v .v (if tagHasBlock (tagOf imm) then .s else .no) .no with immZero := 0xFFE0 })
  | .vplane mod _ _ _ _ _ => some ({ L (if mod = 0 then .s else .v) (if mod = 1 then .s else .v) (if mod = 2 then .s else .no) .no with mod := M (mod.toNat ≤ 2), immZero := if mod = 2 then 0xFFE0 else 0xFFF8 })
  | .vqscale _ _ _ _ _ => some ({ L .s .v .no .s with mod := M true })
  | .vbnd mod _ _ _ _ _ => some ({ L (if mod = 0 then .pDst else .v) .v .bd .p with mod := M (mod.toNat ≤ 1) })
  | .vscan _ _ _ imm _ => some ({ L .v .v .no .no with mod := MZ 8, immZero := 0xFFFC, immBad := if imm.toNat % 4 = 3 then some 28 else none })
  | .vmovp mod _ _ _ => some ({ L (if mod = 0 then .pDst else .v) (if mod = 0 then .v else .p) .no .no with mod := M (mod.toNat ≤ 1) })
  | .mzero mod _ _ => some ({ L .m .no .no .no with mod := M (mod.toNat ≤ 1) })
  | .mma mod _ _ _ _ => some ({ L .m .s (if mod.toNat / 2 % 4 = 2 then .no else .s) .no with mod := { MZ' (mod.toNat / 2 % 4 ≠ 3) 8 with bit := 45 } })
  | .mmat mod _ _ _ _ => some ({ L .m .s (if mod.toNat / 2 % 4 = 2 then .no else .s) .no with mod := { MZ' (mod.toNat / 2 % 4 ≠ 3) 8 with bit := 45 } })
  | .mmas _ _ _ _ _ _ => some ({ L .m .s .s .s with mod := MZ 0xE })
  | .mmast _ _ _ _ _ _ => some ({ L .m .s .s .s with mod := MZ 0xE })
  | .mlda mod _ _ _ _ => some ({ L .m .s .s .no with mod := M (mod.toNat ≤ 5) })
  | .msta mod _ _ _ imm _ => some ({ L .no .m .s .s with mod := M (mod.toNat ≤ 4), immZero := 0xFFE0 ||| boundZero imm })
  | .mstq mod _ _ _ imm _ => some ({ L .no .m .s .s with mod := M (mod.toNat ≤ 4), immZero := 0xFFE0 ||| boundZero imm })
  | .maddt mod _ _ _ _ => some ({ L .m .m .m .no with mod := M (mod.toNat ≤ 1) })
  | .mscl mod _ _ _ _ => some ({ L .m .m .s .no with mod := M (mod.toNat ≤ 1) })
  | .mrowv _ _ _ _ => some ({ L .m .v .no .no with immZero := 0xFF00 })
  | .mvrow _ _ _ _ => some ({ L .v .m .no .no with immZero := 0xFF00 })
  | .mtrn _ _ _ => some ({ L .m .m .no .no with mod := { MZ 0xF with only0 := true } })
  | .mredr mod _ _ _ => some ({ L .v .m .no .no with mod := M (mod.toNat % 4 ≠ 3) })
  | .mshape _ _ => some (L .no .s .no .no)
  | .mfmt _ _ => some (L .no .s .no .no)
  | .pload mod _ _ => some ({ L .no .s .no .no with mod := M (mod.toNat ≤ 1) })
  | .pset _ imm _ => some ({ L .no .s .no .no with immZero := 0xFFF0, immBad := if 8 < imm.toNat % 16 then some 28 else none })
  | .pget _ imm _ => some ({ L .s .no .no .no with immZero := 0xFFF0, immBad := if 8 < imm.toNat % 16 then some 28 else none })
  | .pcount _ _ _ _ => some (L .s .s .s .no)
  | .pgen mod _ _ _ => some ({ L .vEven (if mod = 2 then .no else .s) .no .no with mod := M (mod.toNat ≤ 2) })
  | .pinv mod _ _ _ _ => some ({ L .s .s .s .no with mod := M (mod.toNat ≤ 1) })
  | .cutset _ _ _ => some (L .no .s .s .no)
  | .cut mod _ imm _ => some ({ L .sPair .no .no .no with mod := MZ 8, immZero := 0xFFF8, modP0 := mod &&& 7 = 0, immP0 := imm &&& 7 = 0, modClash := (mod &&& 7).toNat = (imm &&& 7).toNat })
  | .cutb _ _ _ _ _ _ => some ({ L .s .s .k .s with immZero := 0xFF00 })
  | .mstat mod _ _ => some ({ L .s .no .no .no with mod := M (mod.toNat ≤ 6) })
  | .mstage _ _ => some (L .no .s .no .no)
  | .msave mod _ _ _ _ => some ({ L .no .m .s (if mod = 2 then .k else .no) with mod := M (mod.toNat ≤ 2) })
  | .mrest mod _ _ _ _ => some ({ L .m .no .s (if mod = 2 then .k else .no) with mod := M (mod.toNat ≤ 2) })
  | .mdot _ _ _ _ _ => some ({ L .v .m .m .no with mod := MZ 0xC })
  | .mbias mod _ _ _ _ => some ({ L .m .m .s .no with mod := M (mod.toNat ≤ 1) })
  | .mclamp _ _ _ _ _ => some ({ L .m .m .s .s with mod := { MZ 0xF with only0 := true } })
  | .meet mod _ _ _ _ _ _ => some ({ L .s .s .s .s with mod := M (scopeOk mod && mod ≠ 4), immZero := scopeZero mod 0xFFC0 })
  | .part _ => some (L .no .no .no .no)
  | .xreg mod _ _ _ => some ({ L (xFileDst mod) (xFile mod) .no .no with mod := M (mod.toNat ≤ 3), noLastA := true })
  | .xvreg _ _ _ => some ({ L .v .v .no .no with noLastA := true, mod := { MZ 0xF with only0 := true } })
  | .xlug _ _ _ _ => some ({ L .no .s .s .s with mod := { MZ 0xF with only0 := true } })
  | .meetq mod _ _ => some ({ L .s .no .no .no with mod := M (mod.toNat ≤ 5) })
  | .bar mod _ _ _ => some ({ L .s .no .no .no with mod := M (scopeOk mod), immZero := scopeZero mod 0xFFC0 })
  | .bara mod _ _ => some ({ L .no .no .no .no with mod := M (scopeOk mod), immZero := scopeZero mod 0xFFC0 })
  | .barw _ _ => some (L .s .no .no .no)
  | .sstep _ _ => some (L .s .no .no .no)
  | .barred mod _ _ imm _ => some ({ L .sPair .s .no .no with mod := M (scopeOk mod), immZero := scopeZero mod 0xFF00, immBad := if imm.toNat / 64 % 4 = 3 then some 34 else none })
  | .take _ _ => some (L .s .no .no .no)
  | .share _ _ _ => some (L .s .s .no .no)
  | .launch _ _ _ _ _ => some (L .s .s .k .k)
  | .cpy mod _ _ _ _ _ _ => some ({ L .s .k .s .s with mod := M (mod.toNat ≤ 4), immZero := if mod = 4 then 0xFF00 else 0xFF0F })
  | .cpyt mod _ _ _ _ _ _ => some ({ L .s .k .s .s with mod := M (mod.toNat ≤ 4), immZero := if mod = 4 then 0xFF00 else 0xFF0F })
  | .cpyw mod _ _ _ _ _ _ => some ({ L .s .k .s .s with mod := M (mod = 0 ∨ mod = 1 ∨ mod = 4), immZero := if mod = 4 then 0xFF00 else 0xFF0F })
  | .cpyg mod _ _ _ _ _ _ => some ({ L .s .k .s .s with mod := M (mod.toNat ≤ 1), immZero := 0xF00F })
  | .cpys mod _ _ _ _ _ _ => some ({ L .s .k .s .s with mod := M (mod.toNat ≤ 1), immZero := 0xF00F })
  | .cpyp _ _ _ _ _ _ => some ({ L .s .k .s .s with mod := { MZ 0xF with only0 := true }, immZero := 0xFF0F })
  | .cpyr _ _ _ _ _ _ => some ({ L .s .k .s .s with mod := { MZ 0xF with only0 := true }, immZero := 0xF00F, immK := true })
  | .cpwait _ _ _ => some ({ L .no .s .no .no with immZero := 0xFF0F })
  | .cpstat mod _ _ _ => some ({ L .s .no .no .no with mod := M (mod.toNat ≤ 2), immZero := 0xFF0F })
  | .stgwait _ _ _ _ => some ({ L .s .s .no .no with immZero := 0xFFF0 })
  | .stgrel _ _ => some ({ L .no .no .no .no with immZero := 0xFFF0 })
  | .stgset _ _ _ => some ({ L .no .s .no .no with immZero := 0xFFF0 })
  | .evwait _ _ => some ({ L .no .no .no .no with immZero := 0xF0FF })
  | .evclr _ _ => some ({ L .no .no .no .no with immZero := 0xF0FF })
  | .mould mod _ _ => some ({ L (if mod = 0 then .s else .no) .no .no .no with mod := M (mod.toNat ≤ 1) })
  | .tmark _ _ _ => some ({ L .no .s .no .no with immZero := 0 })
  | .cpcan _ _ => some ({ L .no .no .no .no with immZero := 0xFF0F })
  | .launchq _ _ _ _ _ => some (L .s .s .k .k)
  | .fixedLatencyWriteback _ => none
  | .divideComplete _ => none
  | .matrixUnitWordDone _ => none
  | .onQuadAccessDone _ => none
  | .generatorCutterDone _ => none
  | .contextSwitch _ => none
  | .portResume _ => none
  | .trapEntry _ => none
  | .timerMatch _ => none
  | .interruptTaken _ => none
  | .timecmpWrite _ _ => none
  | .extpendWrite _ _ => none
  | .homePortAccess _ => none
  | .deviceLoadReturn _ => none
  | .storeAccepted _ => none
  | .atomicReply _ => none
  | .waitmemSatisfied _ => none
  | .reductionMergeApply _ => none
  | .releaseWaitDone _ => none
  | .l1LineExpiry _ _ => none
  | .translationWalk _ => none
  | .otinvWrite _ _ => none
  | .invalidationComplete _ => none
  | .migreqWrite _ _ => none
  | .migrationRound _ => none
  | .migrationFreeze _ => none
  | .kicksetWrite _ _ _ => none
  | .kickclrWrite _ _ _ => none
  | .hostirqWrite _ => none
  | .lqbaseWrite _ _ _ _ => none
  | .kickScan _ => none
  | .kickTake _ => none
  | .journalEntryAccepted _ => none
  | .launchSubmission _ => none
  | .dependenceThreshold _ _ => none
  | .crewDispatch _ => none
  | .preemption _ => none
  | .stallSweep _ => none
  | .crewSwapIn _ _ => none
  | .cycleCheckExpiry _ => none
  | .barrierWatchdogExpiry _ => none
  | .gangCompletion _ => none
  | .takeServed _ => none
  | .shareServed _ => none
  | .barrierArrival _ => none
  | .barrierComplete _ => none
  | .sstepComplete _ => none
  | .barrierRelease _ _ => none
  | .podBarrierReport _ _ => none
  | .meetArrival _ => none
  | .meetingCoreChosen _ _ => none
  | .meetLanded _ => none
  | .partLanded _ => none
  | .meetTimeout _ => none
  | .meetWithdrawal _ => none
  | .copyLine _ _ => none
  | .transferComplete _ _ => none
  | .copyFault _ _ _ => none
  | .peerSignal _ _ => none
  | .linkRailFailure _ => none
  | .linkFlitRetry _ _ => none
  | .linkDown _ => none
  | .superstepReplay _ => none
  | .gangEnd _ _ => none
  | .scrubLine _ _ _ _ => none
  | .retentionExit _ _ => none
  | .dieDrop _ => none
  | .crossAlarm _ _ => none
  | .drainWrite _ _ => none
  | .pgenrWrite _ _ _ => none
  | .quadHalt _ => none
  | .quadHalted _ => none
  | .quadResume _ => none
  | .debugStateWrite _ _ => none
  | .sampleBufferSetup _ _ _ => none
  | .proofArm _ _ => none
  | .proofSnapshot _ => none
  | .dvreq _ _ => none
  | .clockSwitch _ => none
  | .dvfsPauseEnd _ => none
  | .arrayGate _ _ => none
  | .arrayWake _ _ => none
  | .thermalWarning _ => none
  | .emergencySaveCommit => none
  | .thermalTrip _ => none
  | .triprecClear _ => none
  | .partmapWrite _ => none
  | .packageReset => none
  | .partitionReset _ => none
  | .attestationRequest _ => none
  | .attestationDone => none
  | .tamperAlarm _ => none
  | .registerWrite _ _ _ => none
  | .fixedTimeTagClear _ => none
  | .machineCheckError _ _ => none
  | .temperatureFalls _ => none
  | .sbptrWrite _ _ => none

/-- The opcodes whose results come under a tag (†, R109). -/
def tagged (i : Instr) : Bool :=
  match i with
  | .add _ _ _ _ => false
  | .sub _ _ _ _ => false
  | .addi _ _ _ _ => false
  | .mul _ _ _ _ => false
  | .mulh _ _ _ _ => false
  | .mulhu _ _ _ _ => false
  | .div _ _ _ _ => true
  | .divu _ _ _ _ => true
  | .rem _ _ _ _ => true
  | .remu _ _ _ _ => true
  | .and _ _ _ _ => false
  | .or _ _ _ _ => false
  | .xor _ _ _ _ => false
  | .andi _ _ _ _ => false
  | .ori _ _ _ _ => false
  | .xori _ _ _ _ => false
  | .sll _ _ _ _ => false
  | .srl _ _ _ _ => false
  | .sra _ _ _ _ => false
  | .slli _ _ _ _ => false
  | .srli _ _ _ _ => false
  | .srai _ _ _ _ => false
  | .min _ _ _ _ => false
  | .max _ _ _ _ => false
  | .minu _ _ _ _ => false
  | .maxu _ _ _ _ => false
  | .clz _ _ _ => false
  | .popc _ _ _ => false
  | .bfx _ _ _ _ _ => false
  | .bfi _ _ _ _ _ => false
  | .li _ _ _ => false
  | .lih _ _ _ _ => false
  | .cmp _ _ _ _ _ => false
  | .cmpi _ _ _ _ _ => false
  | .plog _ _ _ _ _ => false
  | .pmov _ _ _ _ => false
  | .sel _ _ _ _ _ => false
  | .tgt _ _ _ => false
  | .tgtr _ _ _ => false
  | .movb _ _ _ _ => false
  | .lcset _ _ _ => false
  | .lkmov _ _ _ _ => false
  | .nop _ => false
  | .srd _ _ _ => false
  | .swr _ _ _ => false
  | .trap _ _ => false
  | .tret _ => false
  | .exit _ => false
  | .yield _ => false
  | .time _ _ _ => false
  | .ident _ _ _ => false
  | .wfi _ => false
  | .iflush _ => false
  | .brk _ _ => false
  | .srset _ _ _ => false
  | .srclr _ _ _ => false
  | .deadmk _ _ _ => false
  | .liveq _ _ _ => false
  | .chk _ _ _ _ _ => false
  | .crc32c _ _ _ _ _ => false
  | .mchk _ _ _ => false
  | .xalm _ _ _ => false
  | .spdrd _ _ _ _ _ => false
  | .rand _ _ _ _ => false
  | .ldl _ _ _ _ _ => false
  | .stl _ _ _ _ _ => false
  | .ldq _ _ _ _ _ => true
  | .stq _ _ _ _ _ => true
  | .ld _ _ _ _ _ _ => true
  | .st _ _ _ _ _ _ => true
  | .vldl _ _ _ _ _ => false
  | .vstl _ _ _ _ _ => false
  | .vldq _ _ _ _ _ => true
  | .vstq _ _ _ _ _ => true
  | .vld _ _ _ _ _ _ => true
  | .vst _ _ _ _ _ _ => true
  | .vgathl _ _ _ _ _ _ => true
  | .vscatl _ _ _ _ _ => true
  | .aadd _ _ _ _ _ _ _ => true
  | .alog _ _ _ _ _ _ _ => true
  | .amnx _ _ _ _ _ _ _ => true
  | .aswp _ _ _ _ _ _ _ => true
  | .acas _ _ _ _ _ _ _ => true
  | .afadd _ _ _ _ _ _ _ => true
  | .waitmem _ _ _ _ _ _ _ => true
  | .fence _ _ => true
  | .cld _ _ _ _ _ => true
  | .cst _ _ _ _ _ => true
  | .cnarrow _ _ _ _ _ _ => false
  | .cget _ _ _ _ => false
  | .csetc _ _ _ _ => false
  | .pfetch _ _ _ _ => false
  | .cinv _ _ _ _ => false
  | .signal _ _ _ _ _ => true
  | .zerol _ _ _ => false
  | .movk _ _ _ _ => false
  | .vadd _ _ _ _ _ _ => false
  | .vsub _ _ _ _ _ _ => false
  | .vmul _ _ _ _ _ _ => false
  | .vfma _ _ _ _ _ _ _ => false
  | .vfms _ _ _ _ _ _ _ => false
  | .vmin _ _ _ _ _ => false
  | .vmax _ _ _ _ _ => false
  | .vabs _ _ _ _ _ => false
  | .vneg _ _ _ _ _ => false
  | .vrcp _ _ _ _ => false
  | .vrsq _ _ _ _ => false
  | .vexp2 _ _ _ _ => false
  | .vlog2 _ _ _ _ => false
  | .vand _ _ _ _ _ => false
  | .vor _ _ _ _ _ => false
  | .vxor _ _ _ _ _ => false
  | .vshl _ _ _ _ _ _ => false
  | .vshr _ _ _ _ _ _ => false
  | .vcmp _ _ _ _ _ _ => false
  | .vsel _ _ _ _ _ => false
  | .vbcast _ _ _ _ _ => false
  | .vextr _ _ _ _ _ _ => false
  | .vins _ _ _ _ _ _ => false
  | .vperm _ _ _ _ _ => false
  | .vreduce _ _ _ _ _ => false
  | .vcvt _ _ _ _ _ _ => false
  | .vretag _ _ _ _ _ => false
  | .vplane _ _ _ _ _ _ => false
  | .vqscale _ _ _ _ _ => false
  | .vbnd _ _ _ _ _ _ => false
  | .vscan _ _ _ _ _ => false
  | .vmovp _ _ _ _ => false
  | .mzero _ _ _ => true
  | .mma _ _ _ _ _ => true
  | .mmat _ _ _ _ _ => true
  | .mmas _ _ _ _ _ _ => true
  | .mmast _ _ _ _ _ _ => true
  | .mlda _ _ _ _ _ => true
  | .msta _ _ _ _ _ _ => true
  | .mstq _ _ _ _ _ _ => true
  | .maddt _ _ _ _ _ => true
  | .mscl _ _ _ _ _ => true
  | .mrowv _ _ _ _ => true
  | .mvrow _ _ _ _ => true
  | .mtrn _ _ _ => true
  | .mredr _ _ _ _ => true
  | .mshape _ _ => false
  | .mfmt _ _ => false
  | .pload _ _ _ => true
  | .pset _ _ _ => false
  | .pget _ _ _ => false
  | .pcount _ _ _ _ => true
  | .pgen _ _ _ _ => true
  | .pinv _ _ _ _ _ => true
  | .cutset _ _ _ => false
  | .cut _ _ _ _ => true
  | .cutb _ _ _ _ _ _ => true
  | .mstat _ _ _ => false
  | .mstage _ _ => false
  | .msave _ _ _ _ _ => true
  | .mrest _ _ _ _ _ => true
  | .mdot _ _ _ _ _ => true
  | .mbias _ _ _ _ _ => true
  | .mclamp _ _ _ _ _ => true
  | .meet _ _ _ _ _ _ _ => true
  | .part _ => true
  | .xreg _ _ _ _ => true
  | .xvreg _ _ _ => true
  | .xlug _ _ _ _ => true
  | .meetq _ _ _ => true
  | .bar _ _ _ _ => true
  | .bara _ _ _ => true
  | .barw _ _ => true
  | .sstep _ _ => true
  | .barred _ _ _ _ _ => true
  | .take _ _ => true
  | .share _ _ _ => true
  | .launch _ _ _ _ _ => true
  | .cpy _ _ _ _ _ _ _ => true
  | .cpyt _ _ _ _ _ _ _ => true
  | .cpyw _ _ _ _ _ _ _ => true
  | .cpyg _ _ _ _ _ _ _ => true
  | .cpys _ _ _ _ _ _ _ => true
  | .cpyp _ _ _ _ _ _ => true
  | .cpyr _ _ _ _ _ _ => true
  | .cpwait _ _ _ => true
  | .cpstat _ _ _ _ => false
  | .stgwait _ _ _ _ => true
  | .stgrel _ _ => false
  | .stgset _ _ _ => false
  | .evwait _ _ => true
  | .evclr _ _ => false
  | .mould _ _ _ => true
  | .tmark _ _ _ => false
  | .cpcan _ _ => true
  | .launchq _ _ _ _ _ => true
  | .fixedLatencyWriteback _ => false
  | .divideComplete _ => false
  | .matrixUnitWordDone _ => false
  | .onQuadAccessDone _ => false
  | .generatorCutterDone _ => false
  | .contextSwitch _ => false
  | .portResume _ => false
  | .trapEntry _ => false
  | .timerMatch _ => false
  | .interruptTaken _ => false
  | .timecmpWrite _ _ => false
  | .extpendWrite _ _ => false
  | .homePortAccess _ => false
  | .deviceLoadReturn _ => false
  | .storeAccepted _ => false
  | .atomicReply _ => false
  | .waitmemSatisfied _ => false
  | .reductionMergeApply _ => false
  | .releaseWaitDone _ => false
  | .l1LineExpiry _ _ => false
  | .translationWalk _ => false
  | .otinvWrite _ _ => false
  | .invalidationComplete _ => false
  | .migreqWrite _ _ => false
  | .migrationRound _ => false
  | .migrationFreeze _ => false
  | .kicksetWrite _ _ _ => false
  | .kickclrWrite _ _ _ => false
  | .hostirqWrite _ => false
  | .lqbaseWrite _ _ _ _ => false
  | .kickScan _ => false
  | .kickTake _ => false
  | .journalEntryAccepted _ => false
  | .launchSubmission _ => false
  | .dependenceThreshold _ _ => false
  | .crewDispatch _ => false
  | .preemption _ => false
  | .stallSweep _ => false
  | .crewSwapIn _ _ => false
  | .cycleCheckExpiry _ => false
  | .barrierWatchdogExpiry _ => false
  | .gangCompletion _ => false
  | .takeServed _ => false
  | .shareServed _ => false
  | .barrierArrival _ => false
  | .barrierComplete _ => false
  | .sstepComplete _ => false
  | .barrierRelease _ _ => false
  | .podBarrierReport _ _ => false
  | .meetArrival _ => false
  | .meetingCoreChosen _ _ => false
  | .meetLanded _ => false
  | .partLanded _ => false
  | .meetTimeout _ => false
  | .meetWithdrawal _ => false
  | .copyLine _ _ => false
  | .transferComplete _ _ => false
  | .copyFault _ _ _ => false
  | .peerSignal _ _ => false
  | .linkRailFailure _ => false
  | .linkFlitRetry _ _ => false
  | .linkDown _ => false
  | .superstepReplay _ => false
  | .gangEnd _ _ => false
  | .scrubLine _ _ _ _ => false
  | .retentionExit _ _ => false
  | .dieDrop _ => false
  | .crossAlarm _ _ => false
  | .drainWrite _ _ => false
  | .pgenrWrite _ _ _ => false
  | .quadHalt _ => false
  | .quadHalted _ => false
  | .quadResume _ => false
  | .debugStateWrite _ _ => false
  | .sampleBufferSetup _ _ _ => false
  | .proofArm _ _ => false
  | .proofSnapshot _ => false
  | .dvreq _ _ => false
  | .clockSwitch _ => false
  | .dvfsPauseEnd _ => false
  | .arrayGate _ _ => false
  | .arrayWake _ _ => false
  | .thermalWarning _ => false
  | .emergencySaveCommit => false
  | .thermalTrip _ => false
  | .triprecClear _ => false
  | .partmapWrite _ => false
  | .packageReset => false
  | .partitionReset _ => false
  | .attestationRequest _ => false
  | .attestationDone => false
  | .tamperAlarm _ => false
  | .registerWrite _ _ _ => false
  | .fixedTimeTagClear _ => false
  | .machineCheckError _ _ => false
  | .temperatureFalls _ => false
  | .sbptrWrite _ _ => false

/-- Opcodes 0x00..0x0F (R109), each with the fields its entry uses.-/
def ops0 : List (Fields → Instr) :=
  [ fun f => .add f.d f.a f.b f.cl,
    fun f => .sub f.d f.a f.b f.cl,
    fun f => .addi f.d f.a f.imm f.cl,
    fun f => .mul f.d f.a f.b f.cl,
    fun f => .mulh f.d f.a f.b f.cl,
    fun f => .mulhu f.d f.a f.b f.cl,
    fun f => .div f.d f.a f.b f.cl,
    fun f => .divu f.d f.a f.b f.cl,
    fun f => .rem f.d f.a f.b f.cl,
    fun f => .remu f.d f.a f.b f.cl,
    fun f => .and f.d f.a f.b f.cl,
    fun f => .or f.d f.a f.b f.cl,
    fun f => .xor f.d f.a f.b f.cl,
    fun f => .andi f.d f.a f.imm f.cl,
    fun f => .ori f.d f.a f.imm f.cl,
    fun f => .xori f.d f.a f.imm f.cl ]

/-- Opcodes 0x10..0x1F (R109), each with the fields its entry uses.-/
def ops1 : List (Fields → Instr) :=
  [ fun f => .sll f.d f.a f.b f.cl,
    fun f => .srl f.d f.a f.b f.cl,
    fun f => .sra f.d f.a f.b f.cl,
    fun f => .slli f.d f.a f.imm f.cl,
    fun f => .srli f.d f.a f.imm f.cl,
    fun f => .srai f.d f.a f.imm f.cl,
    fun f => .min f.d f.a f.b f.cl,
    fun f => .max f.d f.a f.b f.cl,
    fun f => .minu f.d f.a f.b f.cl,
    fun f => .maxu f.d f.a f.b f.cl,
    fun f => .clz f.d f.a f.cl,
    fun f => .popc f.d f.a f.cl,
    fun f => .bfx f.mod f.d f.a f.imm f.cl,
    fun f => .bfi f.d f.a f.b f.imm f.cl,
    fun f => .li f.d f.imm32 f.cl,
    fun f => .lih f.d f.a f.imm32 f.cl ]

/-- Opcodes 0x20..0x2F (R109), each with the fields its entry uses.-/
def ops2 : List (Fields → Instr) :=
  [ fun f => .cmp f.mod f.d f.a f.b f.cl,
    fun f => .cmpi f.mod f.d f.a f.imm f.cl,
    fun f => .plog f.mod f.d f.a f.b f.cl,
    fun f => .pmov f.mod f.d f.a f.cl,
    fun f => .sel f.d f.a f.b f.c f.cl,
    fun f => .tgt f.d f.imm26 f.cl,
    fun f => .tgtr f.d f.a f.cl,
    fun f => .movb f.mod f.d f.a f.cl,
    fun f => .lcset f.a f.imm26 f.cl,
    fun f => .lkmov f.mod f.d f.a f.cl,
    fun f => .nop f.cl,
    fun f => .srd f.d f.imm f.cl,
    fun f => .swr f.a f.imm f.cl,
    fun f => .trap f.imm f.cl,
    fun f => .tret f.cl,
    fun f => .exit f.cl ]

/-- Opcodes 0x30..0x3F (R109), each with the fields its entry uses.-/
def ops3 : List (Fields → Instr) :=
  [ fun f => .yield f.cl,
    fun f => .time f.mod f.d f.cl,
    fun f => .ident f.mod f.d f.cl,
    fun f => .wfi f.cl,
    fun f => .iflush f.cl,
    fun f => .brk f.imm f.cl,
    fun f => .srset f.a f.imm f.cl,
    fun f => .srclr f.a f.imm f.cl,
    fun f => .deadmk f.mod f.a f.cl,
    fun f => .liveq f.mod f.d f.cl,
    fun f => .chk f.d f.a f.b f.imm f.cl,
    fun f => .crc32c f.mod f.d f.a f.b f.cl,
    fun f => .mchk f.mod f.d f.cl,
    fun f => .xalm f.mod f.imm f.cl,
    fun f => .spdrd f.mod f.d f.a f.imm f.cl,
    fun f => .rand f.mod f.d f.a f.cl ]

/-- Opcodes 0x40..0x4F (R109), each with the fields its entry uses.-/
def ops4 : List (Fields → Instr) :=
  [ fun f => .ldl f.mod f.d f.a f.imm f.cl,
    fun f => .stl f.mod f.a f.c f.imm f.cl,
    fun f => .ldq f.mod f.d f.a f.imm f.cl,
    fun f => .stq f.mod f.a f.c f.imm f.cl,
    fun f => .ld f.mod f.d f.a f.b f.imm f.cl,
    fun f => .st f.mod f.a f.b f.c f.imm f.cl,
    fun f => .vldl f.d f.a f.c f.imm f.cl,
    fun f => .vstl f.mod f.a f.c f.imm f.cl,
    fun f => .vldq f.d f.a f.c f.imm f.cl,
    fun f => .vstq f.mod f.a f.c f.imm f.cl,
    fun f => .vld f.d f.a f.b f.c f.imm f.cl,
    fun f => .vst f.mod f.a f.b f.c f.imm f.cl,
    fun f => .vgathl f.mod f.d f.a f.b f.imm f.cl,
    fun f => .vscatl f.mod f.a f.b f.c f.cl,
    fun f => .aadd f.mod f.d f.a f.b f.c f.imm f.cl,
    fun f => .alog f.mod f.d f.a f.b f.c f.imm f.cl ]

/-- Opcodes 0x50..0x5F (R109), each with the fields its entry uses.-/
def ops5 : List (Fields → Instr) :=
  [ fun f => .amnx f.mod f.d f.a f.b f.c f.imm f.cl,
    fun f => .aswp f.mod f.d f.a f.b f.c f.imm f.cl,
    fun f => .acas f.mod f.d f.a f.b f.c f.imm f.cl,
    fun f => .afadd f.mod f.d f.a f.b f.c f.imm f.cl,
    fun f => .waitmem f.mod f.d f.a f.b f.c f.imm f.cl,
    fun f => .fence f.imm f.cl,
    fun f => .cld f.d f.a f.b f.imm f.cl,
    fun f => .cst f.a f.b f.c f.imm f.cl,
    fun f => .cnarrow f.d f.a f.b f.c f.imm f.cl,
    fun f => .cget f.mod f.d f.a f.cl,
    fun f => .csetc f.d f.a f.b f.cl,
    fun f => .pfetch f.mod f.a f.b f.cl,
    fun f => .cinv f.mod f.a f.b f.cl,
    fun f => .signal f.a f.b f.c f.imm f.cl,
    fun f => .zerol f.a f.b f.cl,
    fun f => .movk f.mod f.d f.a f.cl ]

/-- Opcodes 0x60..0x6F (R109), each with the fields its entry uses.-/
def ops6 : List (Fields → Instr) :=
  [ fun f => .vadd f.mod f.d f.a f.b f.imm f.cl,
    fun f => .vsub f.mod f.d f.a f.b f.imm f.cl,
    fun f => .vmul f.mod f.d f.a f.b f.imm f.cl,
    fun f => .vfma f.mod f.d f.a f.b f.c f.imm f.cl,
    fun f => .vfms f.mod f.d f.a f.b f.c f.imm f.cl,
    fun f => .vmin f.mod f.d f.a f.b f.cl,
    fun f => .vmax f.mod f.d f.a f.b f.cl,
    fun f => .vabs f.mod f.d f.a f.imm f.cl,
    fun f => .vneg f.mod f.d f.a f.imm f.cl,
    fun f => .vrcp f.mod f.d f.a f.cl,
    fun f => .vrsq f.mod f.d f.a f.cl,
    fun f => .vexp2 f.mod f.d f.a f.cl,
    fun f => .vlog2 f.mod f.d f.a f.cl,
    fun f => .vand f.mod f.d f.a f.b f.cl,
    fun f => .vor f.mod f.d f.a f.b f.cl,
    fun f => .vxor f.mod f.d f.a f.b f.cl ]

/-- Opcodes 0x70..0x7F (R109), each with the fields its entry uses.-/
def ops7 : List (Fields → Instr) :=
  [ fun f => .vshl f.mod f.d f.a f.b f.imm f.cl,
    fun f => .vshr f.mod f.d f.a f.b f.imm f.cl,
    fun f => .vcmp f.mod f.d f.a f.b f.c f.cl,
    fun f => .vsel f.d f.a f.b f.c f.cl,
    fun f => .vbcast f.mod f.d f.a f.imm f.cl,
    fun f => .vextr f.mod f.d f.a f.b f.imm f.cl,
    fun f => .vins f.mod f.d f.a f.b f.imm f.cl,
    fun f => .vperm f.mod f.d f.a f.b f.cl,
    fun f => .vreduce f.mod f.d f.a f.imm f.cl,
    fun f => .vcvt f.mod f.d f.a f.b f.imm f.cl,
    fun f => .vretag f.d f.a f.b f.imm f.cl,
    fun f => .vplane f.mod f.d f.a f.b f.imm f.cl,
    fun f => .vqscale f.mod f.d f.a f.c f.cl,
    fun f => .vbnd f.mod f.d f.a f.b f.c f.cl,
    fun f => .vscan f.mod f.d f.a f.imm f.cl,
    fun f => .vmovp f.mod f.d f.a f.cl ]

/-- Opcodes 0x80..0x8F (R109), each with the fields its entry uses.-/
def ops8 : List (Fields → Instr) :=
  [ fun f => .mzero f.mod f.d f.cl,
    fun f => .mma f.mod f.d f.a f.b f.cl,
    fun f => .mmat f.mod f.d f.a f.b f.cl,
    fun f => .mmas f.mod f.d f.a f.b f.c f.cl,
    fun f => .mmast f.mod f.d f.a f.b f.c f.cl,
    fun f => .mlda f.mod f.d f.a f.b f.cl,
    fun f => .msta f.mod f.a f.b f.c f.imm f.cl,
    fun f => .mstq f.mod f.a f.b f.c f.imm f.cl,
    fun f => .maddt f.mod f.d f.a f.b f.cl,
    fun f => .mscl f.mod f.d f.a f.b f.cl,
    fun f => .mrowv f.d f.a f.imm f.cl,
    fun f => .mvrow f.d f.a f.imm f.cl,
    fun f => .mtrn f.d f.a f.cl,
    fun f => .mredr f.mod f.d f.a f.cl,
    fun f => .mshape f.a f.cl,
    fun f => .mfmt f.a f.cl ]

/-- Opcodes 0x90..0x9F (R109), each with the fields its entry uses.-/
def ops9 : List (Fields → Instr) :=
  [ fun f => .pload f.mod f.a f.cl,
    fun f => .pset f.a f.imm f.cl,
    fun f => .pget f.d f.imm f.cl,
    fun f => .pcount f.d f.a f.b f.cl,
    fun f => .pgen f.mod f.d f.a f.cl,
    fun f => .pinv f.mod f.d f.a f.b f.cl,
    fun f => .cutset f.a f.b f.cl,
    fun f => .cut f.mod f.d f.imm f.cl,
    fun f => .cutb f.d f.a f.b f.c f.imm f.cl,
    fun f => .mstat f.mod f.d f.cl,
    fun f => .mstage f.a f.cl,
    fun f => .msave f.mod f.a f.b f.c f.cl,
    fun f => .mrest f.mod f.d f.b f.c f.cl,
    fun f => .mdot f.mod f.d f.a f.b f.cl,
    fun f => .mbias f.mod f.d f.a f.b f.cl,
    fun f => .mclamp f.d f.a f.b f.c f.cl ]

/-- Opcodes 0xA0..0xAF (R109), each with the fields its entry uses.-/
def ops10 : List (Fields → Instr) :=
  [ fun f => .meet f.mod f.d f.a f.b f.c f.imm f.cl,
    fun f => .part f.cl,
    fun f => .xreg f.mod f.d f.a f.cl,
    fun f => .xvreg f.d f.a f.cl,
    fun f => .xlug f.a f.b f.c f.cl,
    fun f => .meetq f.mod f.d f.cl,
    fun f => .bar f.mod f.d f.imm f.cl,
    fun f => .bara f.mod f.imm f.cl,
    fun f => .barw f.d f.cl,
    fun f => .sstep f.d f.cl,
    fun f => .barred f.mod f.d f.a f.imm f.cl,
    fun f => .take f.d f.cl,
    fun f => .share f.d f.a f.cl,
    fun f => .launch f.d f.a f.b f.c f.cl,
    fun f => .cpy f.mod f.d f.a f.b f.c f.imm f.cl,
    fun f => .cpyt f.mod f.d f.a f.b f.c f.imm f.cl ]

/-- Opcodes 0xB0..0xBF (R109), each with the fields its entry uses.-/
def ops11 : List (Fields → Instr) :=
  [ fun f => .cpyw f.mod f.d f.a f.b f.c f.imm f.cl,
    fun f => .cpyg f.mod f.d f.a f.b f.c f.imm f.cl,
    fun f => .cpys f.mod f.d f.a f.b f.c f.imm f.cl,
    fun f => .cpyp f.d f.a f.b f.c f.imm f.cl,
    fun f => .cpyr f.d f.a f.b f.c f.imm f.cl,
    fun f => .cpwait f.a f.imm f.cl,
    fun f => .cpstat f.mod f.d f.imm f.cl,
    fun f => .stgwait f.d f.a f.imm f.cl,
    fun f => .stgrel f.imm f.cl,
    fun f => .stgset f.a f.imm f.cl,
    fun f => .evwait f.imm f.cl,
    fun f => .evclr f.imm f.cl,
    fun f => .mould f.mod f.d f.cl,
    fun f => .tmark f.a f.imm f.cl,
    fun f => .cpcan f.imm f.cl,
    fun f => .launchq f.d f.a f.b f.c f.cl ]

/-- The instruction an opcode names (R109), unused fields dropped; `none` for 0xC0..0xFF. -/
def ofFields (f : Fields) : Option Instr :=
  match (match f.op.toNat / 16 with
    | 0 => ops0 | 1 => ops1 | 2 => ops2 | 3 => ops3 | 4 => ops4 | 5 => ops5 | 6 => ops6 | 7 => ops7 | 8 => ops8
    | 9 => ops9 | 10 => ops10 | 11 => ops11 | _ => [])[f.op.toNat % 16]? with
  | some g => some (g f)
  | none => none

/-- The fields of an instruction, unused ones zero (R93); an event has none. -/
def toFields (i : Instr) : Option Fields :=
  match i with
  | .add d a b cl => some ({ Fields.base 0x00 cl with d := d, a := a, b := b })
  | .sub d a b cl => some ({ Fields.base 0x01 cl with d := d, a := a, b := b })
  | .addi d a imm cl => some ({ Fields.base 0x02 cl with d := d, a := a, imm := imm })
  | .mul d a b cl => some ({ Fields.base 0x03 cl with d := d, a := a, b := b })
  | .mulh d a b cl => some ({ Fields.base 0x04 cl with d := d, a := a, b := b })
  | .mulhu d a b cl => some ({ Fields.base 0x05 cl with d := d, a := a, b := b })
  | .div d a b cl => some ({ Fields.base 0x06 cl with d := d, a := a, b := b })
  | .divu d a b cl => some ({ Fields.base 0x07 cl with d := d, a := a, b := b })
  | .rem d a b cl => some ({ Fields.base 0x08 cl with d := d, a := a, b := b })
  | .remu d a b cl => some ({ Fields.base 0x09 cl with d := d, a := a, b := b })
  | .and d a b cl => some ({ Fields.base 0x0A cl with d := d, a := a, b := b })
  | .or d a b cl => some ({ Fields.base 0x0B cl with d := d, a := a, b := b })
  | .xor d a b cl => some ({ Fields.base 0x0C cl with d := d, a := a, b := b })
  | .andi d a imm cl => some ({ Fields.base 0x0D cl with d := d, a := a, imm := imm })
  | .ori d a imm cl => some ({ Fields.base 0x0E cl with d := d, a := a, imm := imm })
  | .xori d a imm cl => some ({ Fields.base 0x0F cl with d := d, a := a, imm := imm })
  | .sll d a b cl => some ({ Fields.base 0x10 cl with d := d, a := a, b := b })
  | .srl d a b cl => some ({ Fields.base 0x11 cl with d := d, a := a, b := b })
  | .sra d a b cl => some ({ Fields.base 0x12 cl with d := d, a := a, b := b })
  | .slli d a imm cl => some ({ Fields.base 0x13 cl with d := d, a := a, imm := imm })
  | .srli d a imm cl => some ({ Fields.base 0x14 cl with d := d, a := a, imm := imm })
  | .srai d a imm cl => some ({ Fields.base 0x15 cl with d := d, a := a, imm := imm })
  | .min d a b cl => some ({ Fields.base 0x16 cl with d := d, a := a, b := b })
  | .max d a b cl => some ({ Fields.base 0x17 cl with d := d, a := a, b := b })
  | .minu d a b cl => some ({ Fields.base 0x18 cl with d := d, a := a, b := b })
  | .maxu d a b cl => some ({ Fields.base 0x19 cl with d := d, a := a, b := b })
  | .clz d a cl => some ({ Fields.base 0x1A cl with d := d, a := a })
  | .popc d a cl => some ({ Fields.base 0x1B cl with d := d, a := a })
  | .bfx mod d a imm cl => some ({ Fields.base 0x1C cl with mod := mod, d := d, a := a, imm := imm })
  | .bfi d a b imm cl => some ({ Fields.base 0x1D cl with d := d, a := a, b := b, imm := imm })
  | .li d imm32 cl => some (Fields.setImm32 ({ Fields.base 0x1E cl with d := d }) imm32)
  | .lih d a imm32 cl => some (Fields.setImm32 ({ Fields.base 0x1F cl with d := d, a := a }) imm32)
  | .cmp mod d a b cl => some ({ Fields.base 0x20 cl with mod := mod, d := d, a := a, b := b })
  | .cmpi mod d a imm cl => some ({ Fields.base 0x21 cl with mod := mod, d := d, a := a, imm := imm })
  | .plog mod d a b cl => some ({ Fields.base 0x22 cl with mod := mod, d := d, a := a, b := b })
  | .pmov mod d a cl => some ({ Fields.base 0x23 cl with mod := mod, d := d, a := a })
  | .sel d a b c cl => some ({ Fields.base 0x24 cl with d := d, a := a, b := b, c := c })
  | .tgt d imm26 cl => some (Fields.setImm26 ({ Fields.base 0x25 cl with d := d }) imm26)
  | .tgtr d a cl => some ({ Fields.base 0x26 cl with d := d, a := a })
  | .movb mod d a cl => some ({ Fields.base 0x27 cl with mod := mod, d := d, a := a })
  | .lcset a imm26 cl => some (Fields.setImm26 ({ Fields.base 0x28 cl with a := a }) imm26)
  | .lkmov mod d a cl => some ({ Fields.base 0x29 cl with mod := mod, d := d, a := a })
  | .nop cl => some (Fields.base 0x2A cl)
  | .srd d imm cl => some ({ Fields.base 0x2B cl with d := d, imm := imm })
  | .swr a imm cl => some ({ Fields.base 0x2C cl with a := a, imm := imm })
  | .trap imm cl => some ({ Fields.base 0x2D cl with imm := imm })
  | .tret cl => some (Fields.base 0x2E cl)
  | .exit cl => some (Fields.base 0x2F cl)
  | .yield cl => some (Fields.base 0x30 cl)
  | .time mod d cl => some ({ Fields.base 0x31 cl with mod := mod, d := d })
  | .ident mod d cl => some ({ Fields.base 0x32 cl with mod := mod, d := d })
  | .wfi cl => some (Fields.base 0x33 cl)
  | .iflush cl => some (Fields.base 0x34 cl)
  | .brk imm cl => some ({ Fields.base 0x35 cl with imm := imm })
  | .srset a imm cl => some ({ Fields.base 0x36 cl with a := a, imm := imm })
  | .srclr a imm cl => some ({ Fields.base 0x37 cl with a := a, imm := imm })
  | .deadmk mod a cl => some ({ Fields.base 0x38 cl with mod := mod, a := a })
  | .liveq mod d cl => some ({ Fields.base 0x39 cl with mod := mod, d := d })
  | .chk d a b imm cl => some ({ Fields.base 0x3A cl with d := d, a := a, b := b, imm := imm })
  | .crc32c mod d a b cl => some ({ Fields.base 0x3B cl with mod := mod, d := d, a := a, b := b })
  | .mchk mod d cl => some ({ Fields.base 0x3C cl with mod := mod, d := d })
  | .xalm mod imm cl => some ({ Fields.base 0x3D cl with mod := mod, imm := imm })
  | .spdrd mod d a imm cl => some ({ Fields.base 0x3E cl with mod := mod, d := d, a := a, imm := imm })
  | .rand mod d a cl => some ({ Fields.base 0x3F cl with mod := mod, d := d, a := a })
  | .ldl mod d a imm cl => some ({ Fields.base 0x40 cl with mod := mod, d := d, a := a, imm := imm })
  | .stl mod a c imm cl => some ({ Fields.base 0x41 cl with mod := mod, a := a, c := c, imm := imm })
  | .ldq mod d a imm cl => some ({ Fields.base 0x42 cl with mod := mod, d := d, a := a, imm := imm })
  | .stq mod a c imm cl => some ({ Fields.base 0x43 cl with mod := mod, a := a, c := c, imm := imm })
  | .ld mod d a b imm cl => some ({ Fields.base 0x44 cl with mod := mod, d := d, a := a, b := b, imm := imm })
  | .st mod a b c imm cl => some ({ Fields.base 0x45 cl with mod := mod, a := a, b := b, c := c, imm := imm })
  | .vldl d a c imm cl => some ({ Fields.base 0x46 cl with d := d, a := a, c := c, imm := imm })
  | .vstl mod a c imm cl => some ({ Fields.base 0x47 cl with mod := mod, a := a, c := c, imm := imm })
  | .vldq d a c imm cl => some ({ Fields.base 0x48 cl with d := d, a := a, c := c, imm := imm })
  | .vstq mod a c imm cl => some ({ Fields.base 0x49 cl with mod := mod, a := a, c := c, imm := imm })
  | .vld d a b c imm cl => some ({ Fields.base 0x4A cl with d := d, a := a, b := b, c := c, imm := imm })
  | .vst mod a b c imm cl => some ({ Fields.base 0x4B cl with mod := mod, a := a, b := b, c := c, imm := imm })
  | .vgathl mod d a b imm cl => some ({ Fields.base 0x4C cl with mod := mod, d := d, a := a, b := b, imm := imm })
  | .vscatl mod a b c cl => some ({ Fields.base 0x4D cl with mod := mod, a := a, b := b, c := c })
  | .aadd mod d a b c imm cl => some ({ Fields.base 0x4E cl with mod := mod, d := d, a := a, b := b, c := c, imm := imm })
  | .alog mod d a b c imm cl => some ({ Fields.base 0x4F cl with mod := mod, d := d, a := a, b := b, c := c, imm := imm })
  | .amnx mod d a b c imm cl => some ({ Fields.base 0x50 cl with mod := mod, d := d, a := a, b := b, c := c, imm := imm })
  | .aswp mod d a b c imm cl => some ({ Fields.base 0x51 cl with mod := mod, d := d, a := a, b := b, c := c, imm := imm })
  | .acas mod d a b c imm cl => some ({ Fields.base 0x52 cl with mod := mod, d := d, a := a, b := b, c := c, imm := imm })
  | .afadd mod d a b c imm cl => some ({ Fields.base 0x53 cl with mod := mod, d := d, a := a, b := b, c := c, imm := imm })
  | .waitmem mod d a b c imm cl => some ({ Fields.base 0x54 cl with mod := mod, d := d, a := a, b := b, c := c, imm := imm })
  | .fence imm cl => some ({ Fields.base 0x55 cl with imm := imm })
  | .cld d a b imm cl => some ({ Fields.base 0x56 cl with d := d, a := a, b := b, imm := imm })
  | .cst a b c imm cl => some ({ Fields.base 0x57 cl with a := a, b := b, c := c, imm := imm })
  | .cnarrow d a b c imm cl => some ({ Fields.base 0x58 cl with d := d, a := a, b := b, c := c, imm := imm })
  | .cget mod d a cl => some ({ Fields.base 0x59 cl with mod := mod, d := d, a := a })
  | .csetc d a b cl => some ({ Fields.base 0x5A cl with d := d, a := a, b := b })
  | .pfetch mod a b cl => some ({ Fields.base 0x5B cl with mod := mod, a := a, b := b })
  | .cinv mod a b cl => some ({ Fields.base 0x5C cl with mod := mod, a := a, b := b })
  | .signal a b c imm cl => some ({ Fields.base 0x5D cl with a := a, b := b, c := c, imm := imm })
  | .zerol a b cl => some ({ Fields.base 0x5E cl with a := a, b := b })
  | .movk mod d a cl => some ({ Fields.base 0x5F cl with mod := mod, d := d, a := a })
  | .vadd mod d a b imm cl => some ({ Fields.base 0x60 cl with mod := mod, d := d, a := a, b := b, imm := imm })
  | .vsub mod d a b imm cl => some ({ Fields.base 0x61 cl with mod := mod, d := d, a := a, b := b, imm := imm })
  | .vmul mod d a b imm cl => some ({ Fields.base 0x62 cl with mod := mod, d := d, a := a, b := b, imm := imm })
  | .vfma mod d a b c imm cl => some ({ Fields.base 0x63 cl with mod := mod, d := d, a := a, b := b, c := c, imm := imm })
  | .vfms mod d a b c imm cl => some ({ Fields.base 0x64 cl with mod := mod, d := d, a := a, b := b, c := c, imm := imm })
  | .vmin mod d a b cl => some ({ Fields.base 0x65 cl with mod := mod, d := d, a := a, b := b })
  | .vmax mod d a b cl => some ({ Fields.base 0x66 cl with mod := mod, d := d, a := a, b := b })
  | .vabs mod d a imm cl => some ({ Fields.base 0x67 cl with mod := mod, d := d, a := a, imm := imm })
  | .vneg mod d a imm cl => some ({ Fields.base 0x68 cl with mod := mod, d := d, a := a, imm := imm })
  | .vrcp mod d a cl => some ({ Fields.base 0x69 cl with mod := mod, d := d, a := a })
  | .vrsq mod d a cl => some ({ Fields.base 0x6A cl with mod := mod, d := d, a := a })
  | .vexp2 mod d a cl => some ({ Fields.base 0x6B cl with mod := mod, d := d, a := a })
  | .vlog2 mod d a cl => some ({ Fields.base 0x6C cl with mod := mod, d := d, a := a })
  | .vand mod d a b cl => some ({ Fields.base 0x6D cl with mod := mod, d := d, a := a, b := b })
  | .vor mod d a b cl => some ({ Fields.base 0x6E cl with mod := mod, d := d, a := a, b := b })
  | .vxor mod d a b cl => some ({ Fields.base 0x6F cl with mod := mod, d := d, a := a, b := b })
  | .vshl mod d a b imm cl => some ({ Fields.base 0x70 cl with mod := mod, d := d, a := a, b := b, imm := imm })
  | .vshr mod d a b imm cl => some ({ Fields.base 0x71 cl with mod := mod, d := d, a := a, b := b, imm := imm })
  | .vcmp mod d a b c cl => some ({ Fields.base 0x72 cl with mod := mod, d := d, a := a, b := b, c := c })
  | .vsel d a b c cl => some ({ Fields.base 0x73 cl with d := d, a := a, b := b, c := c })
  | .vbcast mod d a imm cl => some ({ Fields.base 0x74 cl with mod := mod, d := d, a := a, imm := imm })
  | .vextr mod d a b imm cl => some ({ Fields.base 0x75 cl with mod := mod, d := d, a := a, b := b, imm := imm })
  | .vins mod d a b imm cl => some ({ Fields.base 0x76 cl with mod := mod, d := d, a := a, b := b, imm := imm })
  | .vperm mod d a b cl => some ({ Fields.base 0x77 cl with mod := mod, d := d, a := a, b := b })
  | .vreduce mod d a imm cl => some ({ Fields.base 0x78 cl with mod := mod, d := d, a := a, imm := imm })
  | .vcvt mod d a b imm cl => some ({ Fields.base 0x79 cl with mod := mod, d := d, a := a, b := b, imm := imm })
  | .vretag d a b imm cl => some ({ Fields.base 0x7A cl with d := d, a := a, b := b, imm := imm })
  | .vplane mod d a b imm cl => some ({ Fields.base 0x7B cl with mod := mod, d := d, a := a, b := b, imm := imm })
  | .vqscale mod d a c cl => some ({ Fields.base 0x7C cl with mod := mod, d := d, a := a, c := c })
  | .vbnd mod d a b c cl => some ({ Fields.base 0x7D cl with mod := mod, d := d, a := a, b := b, c := c })
  | .vscan mod d a imm cl => some ({ Fields.base 0x7E cl with mod := mod, d := d, a := a, imm := imm })
  | .vmovp mod d a cl => some ({ Fields.base 0x7F cl with mod := mod, d := d, a := a })
  | .mzero mod d cl => some ({ Fields.base 0x80 cl with mod := mod, d := d })
  | .mma mod d a b cl => some ({ Fields.base 0x81 cl with mod := mod, d := d, a := a, b := b })
  | .mmat mod d a b cl => some ({ Fields.base 0x82 cl with mod := mod, d := d, a := a, b := b })
  | .mmas mod d a b c cl => some ({ Fields.base 0x83 cl with mod := mod, d := d, a := a, b := b, c := c })
  | .mmast mod d a b c cl => some ({ Fields.base 0x84 cl with mod := mod, d := d, a := a, b := b, c := c })
  | .mlda mod d a b cl => some ({ Fields.base 0x85 cl with mod := mod, d := d, a := a, b := b })
  | .msta mod a b c imm cl => some ({ Fields.base 0x86 cl with mod := mod, a := a, b := b, c := c, imm := imm })
  | .mstq mod a b c imm cl => some ({ Fields.base 0x87 cl with mod := mod, a := a, b := b, c := c, imm := imm })
  | .maddt mod d a b cl => some ({ Fields.base 0x88 cl with mod := mod, d := d, a := a, b := b })
  | .mscl mod d a b cl => some ({ Fields.base 0x89 cl with mod := mod, d := d, a := a, b := b })
  | .mrowv d a imm cl => some ({ Fields.base 0x8A cl with d := d, a := a, imm := imm })
  | .mvrow d a imm cl => some ({ Fields.base 0x8B cl with d := d, a := a, imm := imm })
  | .mtrn d a cl => some ({ Fields.base 0x8C cl with d := d, a := a })
  | .mredr mod d a cl => some ({ Fields.base 0x8D cl with mod := mod, d := d, a := a })
  | .mshape a cl => some ({ Fields.base 0x8E cl with a := a })
  | .mfmt a cl => some ({ Fields.base 0x8F cl with a := a })
  | .pload mod a cl => some ({ Fields.base 0x90 cl with mod := mod, a := a })
  | .pset a imm cl => some ({ Fields.base 0x91 cl with a := a, imm := imm })
  | .pget d imm cl => some ({ Fields.base 0x92 cl with d := d, imm := imm })
  | .pcount d a b cl => some ({ Fields.base 0x93 cl with d := d, a := a, b := b })
  | .pgen mod d a cl => some ({ Fields.base 0x94 cl with mod := mod, d := d, a := a })
  | .pinv mod d a b cl => some ({ Fields.base 0x95 cl with mod := mod, d := d, a := a, b := b })
  | .cutset a b cl => some ({ Fields.base 0x96 cl with a := a, b := b })
  | .cut mod d imm cl => some ({ Fields.base 0x97 cl with mod := mod, d := d, imm := imm })
  | .cutb d a b c imm cl => some ({ Fields.base 0x98 cl with d := d, a := a, b := b, c := c, imm := imm })
  | .mstat mod d cl => some ({ Fields.base 0x99 cl with mod := mod, d := d })
  | .mstage a cl => some ({ Fields.base 0x9A cl with a := a })
  | .msave mod a b c cl => some ({ Fields.base 0x9B cl with mod := mod, a := a, b := b, c := c })
  | .mrest mod d b c cl => some ({ Fields.base 0x9C cl with mod := mod, d := d, b := b, c := c })
  | .mdot mod d a b cl => some ({ Fields.base 0x9D cl with mod := mod, d := d, a := a, b := b })
  | .mbias mod d a b cl => some ({ Fields.base 0x9E cl with mod := mod, d := d, a := a, b := b })
  | .mclamp d a b c cl => some ({ Fields.base 0x9F cl with d := d, a := a, b := b, c := c })
  | .meet mod d a b c imm cl => some ({ Fields.base 0xA0 cl with mod := mod, d := d, a := a, b := b, c := c, imm := imm })
  | .part cl => some (Fields.base 0xA1 cl)
  | .xreg mod d a cl => some ({ Fields.base 0xA2 cl with mod := mod, d := d, a := a })
  | .xvreg d a cl => some ({ Fields.base 0xA3 cl with d := d, a := a })
  | .xlug a b c cl => some ({ Fields.base 0xA4 cl with a := a, b := b, c := c })
  | .meetq mod d cl => some ({ Fields.base 0xA5 cl with mod := mod, d := d })
  | .bar mod d imm cl => some ({ Fields.base 0xA6 cl with mod := mod, d := d, imm := imm })
  | .bara mod imm cl => some ({ Fields.base 0xA7 cl with mod := mod, imm := imm })
  | .barw d cl => some ({ Fields.base 0xA8 cl with d := d })
  | .sstep d cl => some ({ Fields.base 0xA9 cl with d := d })
  | .barred mod d a imm cl => some ({ Fields.base 0xAA cl with mod := mod, d := d, a := a, imm := imm })
  | .take d cl => some ({ Fields.base 0xAB cl with d := d })
  | .share d a cl => some ({ Fields.base 0xAC cl with d := d, a := a })
  | .launch d a b c cl => some ({ Fields.base 0xAD cl with d := d, a := a, b := b, c := c })
  | .cpy mod d a b c imm cl => some ({ Fields.base 0xAE cl with mod := mod, d := d, a := a, b := b, c := c, imm := imm })
  | .cpyt mod d a b c imm cl => some ({ Fields.base 0xAF cl with mod := mod, d := d, a := a, b := b, c := c, imm := imm })
  | .cpyw mod d a b c imm cl => some ({ Fields.base 0xB0 cl with mod := mod, d := d, a := a, b := b, c := c, imm := imm })
  | .cpyg mod d a b c imm cl => some ({ Fields.base 0xB1 cl with mod := mod, d := d, a := a, b := b, c := c, imm := imm })
  | .cpys mod d a b c imm cl => some ({ Fields.base 0xB2 cl with mod := mod, d := d, a := a, b := b, c := c, imm := imm })
  | .cpyp d a b c imm cl => some ({ Fields.base 0xB3 cl with d := d, a := a, b := b, c := c, imm := imm })
  | .cpyr d a b c imm cl => some ({ Fields.base 0xB4 cl with d := d, a := a, b := b, c := c, imm := imm })
  | .cpwait a imm cl => some ({ Fields.base 0xB5 cl with a := a, imm := imm })
  | .cpstat mod d imm cl => some ({ Fields.base 0xB6 cl with mod := mod, d := d, imm := imm })
  | .stgwait d a imm cl => some ({ Fields.base 0xB7 cl with d := d, a := a, imm := imm })
  | .stgrel imm cl => some ({ Fields.base 0xB8 cl with imm := imm })
  | .stgset a imm cl => some ({ Fields.base 0xB9 cl with a := a, imm := imm })
  | .evwait imm cl => some ({ Fields.base 0xBA cl with imm := imm })
  | .evclr imm cl => some ({ Fields.base 0xBB cl with imm := imm })
  | .mould mod d cl => some ({ Fields.base 0xBC cl with mod := mod, d := d })
  | .tmark a imm cl => some ({ Fields.base 0xBD cl with a := a, imm := imm })
  | .cpcan imm cl => some ({ Fields.base 0xBE cl with imm := imm })
  | .launchq d a b c cl => some ({ Fields.base 0xBF cl with d := d, a := a, b := b, c := c })
  | .fixedLatencyWriteback _ => none
  | .divideComplete _ => none
  | .matrixUnitWordDone _ => none
  | .onQuadAccessDone _ => none
  | .generatorCutterDone _ => none
  | .contextSwitch _ => none
  | .portResume _ => none
  | .trapEntry _ => none
  | .timerMatch _ => none
  | .interruptTaken _ => none
  | .timecmpWrite _ _ => none
  | .extpendWrite _ _ => none
  | .homePortAccess _ => none
  | .deviceLoadReturn _ => none
  | .storeAccepted _ => none
  | .atomicReply _ => none
  | .waitmemSatisfied _ => none
  | .reductionMergeApply _ => none
  | .releaseWaitDone _ => none
  | .l1LineExpiry _ _ => none
  | .translationWalk _ => none
  | .otinvWrite _ _ => none
  | .invalidationComplete _ => none
  | .migreqWrite _ _ => none
  | .migrationRound _ => none
  | .migrationFreeze _ => none
  | .kicksetWrite _ _ _ => none
  | .kickclrWrite _ _ _ => none
  | .hostirqWrite _ => none
  | .lqbaseWrite _ _ _ _ => none
  | .kickScan _ => none
  | .kickTake _ => none
  | .journalEntryAccepted _ => none
  | .launchSubmission _ => none
  | .dependenceThreshold _ _ => none
  | .crewDispatch _ => none
  | .preemption _ => none
  | .stallSweep _ => none
  | .crewSwapIn _ _ => none
  | .cycleCheckExpiry _ => none
  | .barrierWatchdogExpiry _ => none
  | .gangCompletion _ => none
  | .takeServed _ => none
  | .shareServed _ => none
  | .barrierArrival _ => none
  | .barrierComplete _ => none
  | .sstepComplete _ => none
  | .barrierRelease _ _ => none
  | .podBarrierReport _ _ => none
  | .meetArrival _ => none
  | .meetingCoreChosen _ _ => none
  | .meetLanded _ => none
  | .partLanded _ => none
  | .meetTimeout _ => none
  | .meetWithdrawal _ => none
  | .copyLine _ _ => none
  | .transferComplete _ _ => none
  | .copyFault _ _ _ => none
  | .peerSignal _ _ => none
  | .linkRailFailure _ => none
  | .linkFlitRetry _ _ => none
  | .linkDown _ => none
  | .superstepReplay _ => none
  | .gangEnd _ _ => none
  | .scrubLine _ _ _ _ => none
  | .retentionExit _ _ => none
  | .dieDrop _ => none
  | .crossAlarm _ _ => none
  | .drainWrite _ _ => none
  | .pgenrWrite _ _ _ => none
  | .quadHalt _ => none
  | .quadHalted _ => none
  | .quadResume _ => none
  | .debugStateWrite _ _ => none
  | .sampleBufferSetup _ _ _ => none
  | .proofArm _ _ => none
  | .proofSnapshot _ => none
  | .dvreq _ _ => none
  | .clockSwitch _ => none
  | .dvfsPauseEnd _ => none
  | .arrayGate _ _ => none
  | .arrayWake _ _ => none
  | .thermalWarning _ => none
  | .emergencySaveCommit => none
  | .thermalTrip _ => none
  | .triprecClear _ => none
  | .partmapWrite _ => none
  | .packageReset => none
  | .partitionReset _ => none
  | .attestationRequest _ => none
  | .attestationDone => none
  | .tamperAlarm _ => none
  | .registerWrite _ _ _ => none
  | .fixedTimeTagClear _ => none
  | .machineCheckError _ _ => none
  | .temperatureFalls _ => none
  | .sbptrWrite _ _ => none

/-! ## The checks of R108 step 1 -/

/-- The position of the lowest set bit of a word. -/
def lowestBit (w : Word80) : Option Nat := (List.range 80).find? (fun n => w.getLsbD n)

/-- A mod value that the entry does not define, as its bit position. -/
def ModUse.bad (m : ModUse) (mod : BitVec 4) : Option Nat :=
  if m.ok = false then some m.bit else if m.only0 = true ∧ mod ≠ 0 then some 44 else none

/-- The bits of a word that must be zero: fields and sub-fields the opcode or the seq.mode does not use (R93, R94). -/
def zeroMask (l : Layout) (cl : Clauses) : Word80 :=
  let full : BitVec 3 := 7
  let b3 : BitVec 3 :=
    if l.seqUse ≠ .all then full else if cl.seqMode = 0 ∨ cl.seqMode = 5 then full else 0
  let p3 : BitVec 3 :=
    if l.seqUse ≠ .all then full else if cl.seqMode = 2 ∨ cl.seqMode = 3 ∨ cl.seqMode = 7 then 0 else full
  let mode3 : BitVec 3 := if l.seqUse = .exit then full else 0
  let annul2 : BitVec 2 := if l.seqUse ≠ .all then 3 else 0
  let bz : BitVec 6 := if l.form = .L then 0 else l.b.zero
  let cz : BitVec 6 := if l.form = .R then l.c.zero else 0
  let mz : BitVec 4 := if l.form = .R then l.mod.zero else 0
  let iz : BitVec 16 := if l.form = .R then l.immZero else 0
  Fields.toWord
    { op := 0, d := l.d.zero, a := l.a.zero, b := bz, c := cz, mod := mz, imm := iz
      cl := { seqMode := mode3, seqB := b3, seqP := p3, annul := annul2, pd := 0, alloc := 0, wait := 0, park := 0, last := 0 } }

/-- The first check of R108 step 1 that fails, as the bit position ILLOP carries; `none` if all pass. -/
def encodingFault (l : Layout) (isTagged : Bool) (f : Fields) : Option Nat :=
  match l.mod.bad f.mod with
  | some n => some n
  | none =>
  if l.modClash = true ∧ l.modP0 = false ∧ l.immP0 = false then some 28
  else if l.form = .R ∧ l.c.ok f.c = false then some 48
  else if l.form ≠ .L ∧ l.b.ok f.b = false then some 54
  else if l.a.ok f.a = false then some 60
  else if l.d.ok f.d = false then some 66
  else if l.immP0 = true then some 28
  else if l.modP0 = true then some 44
  else if l.d = .pDst ∧ f.d = 0 then some 66
  else match l.immBad with
  | some n => some n
  | none =>
  match lowestBit (zeroMask l f.cl &&& f.toWord) with
  | some n => some n
  | none =>
  if f.cl.seqMode = 7 then some 25
  else if f.cl.annul = 3 ∨ (f.cl.seqMode = 0 ∧ f.cl.annul ≠ 0) then some 17
  else if (f.cl.alloc = 0) = (isTagged = true) then some 11
  else if f.cl.last.getLsbD 0 = true ∧ (l.noLastA = true ∨ l.a.lastOk f.a = false) then some 0
  else if f.cl.last.getLsbD 1 = true ∧ l.b.lastOk f.b = false then some 1
  else if f.cl.last.getLsbD 2 = true ∧ l.c.lastOk f.c = false then some 2
  else if l.seqUse = .tret ∧ f.cl.seqMode ≠ 0 then some 25
  else none

/-- The decoder: every 80-bit value is an instruction or ILLOP with a bit position (R108). -/
def decode (w : Word80) : Except Nat Instr :=
  let f := Fields.ofWord w
  match ofFields f with
  | none => .error 72
  | some i =>
    match layout i with
    | none => .error 72
    | some l =>
      match encodingFault l (tagged i) f with
      | some n => .error n
      | none => .ok i

/-- The little-endian number a list of bytes stands for (R11). -/
def bytesToNat : List Byte → Nat
  | [] => 0
  | b :: bs => b.toNat + 256 * bytesToNat bs

/-- The `n` bytes of a number, least significant first (R11). -/
def natToBytes : Nat → Nat → List Byte
  | 0, _ => []
  | n + 1, x => BitVec.ofNat 8 x :: natToBytes n (x / 256)

/-- A word as it is stored: ten bytes, least significant byte first (R81). -/
def wordBytes (w : Word80) : List Byte := natToBytes 10 w.toNat

/-- Decoding from bytes: the instruction of the first ten bytes and the rest (R81); `none` if fewer are left. -/
def decodeBytes (bs : List Byte) : Option (Except Nat Instr × List Byte) :=
  if bs.length < 10 then none else some (decode (BitVec.ofNat 80 (bytesToNat (bs.take 10))), bs.drop 10)

/-- The encoder: the word of an instruction, written from its fields (R81, R91); an event has no word. -/
def encode (i : Instr) : Option Word80 := (toFields i).map Fields.toWord

/-- The instruction the decoder reads from an instruction whose bits, numbered as the table numbers them, are the
low `nbits` bits of `w`; bits above `nbits` are zero. -/
def decodeTableWord (nbits w : Nat) : Option Instr :=
  match decodeBytes (natToBytes 10 (w % 2 ^ nbits)) with
  | some (.ok i, _) => some i
  | _ => none

end Sys2Proof
end

