-- ==== Sys2Proof/Config.lean ====
section
/-! DEFINITION. Config: what an implementation fixes, and the free values. A constant without a body is a value the
spec leaves open: nothing in Lean can evaluate it, so a claim about the machine holds whatever it is. -/
namespace Sys2Proof.Config

/-- A present page of an object of a peer package (R306). -/
structure PeerPage where
  w : Bool := true
  cow : Bool := false
deriving DecidableEq, Repr

/-- An object of a peer package, as that package's own tables give it: a page that is not listed is not present (R305). -/
structure PeerObj where
  size : Nat
  ro : Bool
  psize : Nat := 0
  pages : Table PeerPage := []
deriving DecidableEq, Repr

/-- What the pod's other packages hold in their tables, by package · 2^24 + object (R305). It is no state of this package
and the spec leaves it open: a free value (log 12). -/
opaque peerTables : Table PeerObj

/-- A free 64-bit value, fresh for each number drawn from `State.draws` (log 3). -/
opaque freeWord : Nat → BitVec 64

/-- A free byte, by a number that names what it stands for (log 3). -/
opaque freeByte : Nat → BitVec 8

/-- The raw fused speed table: core, step (R346; the contents are left open). -/
opaque speedRaw : Nat → Nat → Nat

/-- The speed-table entry of a core at a step, in MHz. The rules of R346 and R6 hold of it whatever `speedRaw` is: entries
never decrease with the step, each is at least 300, and the step-7 entry lies in 700..1,450. -/
def speed (core step : Nat) : Nat :=
  let top := 700 + speedRaw core 7 % 751
  if 7 ≤ step then top
  else (List.range (step + 1)).foldl (fun acc j => max acc (300 + speedRaw core j % (top - 299))) 300

/-- SHAKE256 digest of the measured firmware images, 64 bytes (R355; the images are outside the model). -/
opaque firmwareDigest : Nat → BitVec 8

/-- The Falcon-1024 signature of a report: byte by byte, by a number of the request (R355). -/
opaque reportSignature : Nat → Nat → BitVec 8

/-- The fused serial number (R355). -/
opaque serial : BitVec 64

/-- The fused tamper policy (R356). -/
opaque tamperPolicy : BitVec 2

/-- The result code of the boot checks at a package reset, 0 to 3 (R354), by the number of the reset. -/
opaque bootCode : Nat → BitVec 2

/-- The running firmware version (R354). -/
opaque firmwareVersion : BitVec 32

/-- Plates found defective at a reset, by the number of the reset (R338). -/
opaque defectivePlates : Nat → BitVec 8

/-- The pod's package count minus 1, and the raw number of the package (R352). -/
opaque packagesMinus1 : BitVec 10
opaque packageRaw : BitVec 10

/-- The package's number in its pod: one of the pod's packages, whatever `packageRaw` is (R140, R352; log 16). -/
def packageNumber : BitVec 10 := BitVec.ofNat 10 (packageRaw.toNat % (packagesMinus1.toNat + 1))

/-- The object number by which an armature core's capability names the management window of its partition (R321 says
that k1 covers the window; the number is left open). -/
opaque windowObject : BitVec 24

/-- Values firmware leaves in a dispatched context: STVEC, MTVEC, the runtime capability in bank k15 and the save-area
offset in bank s63 (R293, R294), by the number of the activity. The save-area offset is a multiple of 4,096. -/
opaque dispatchStvec : Nat → BitVec 64
opaque dispatchMtvec : Nat → BitVec 64
opaque dispatchBankK15 : Nat → BitVec 128
opaque dispatchBankS63 : Nat → BitVec 52

/-- Where the armature keeps the image of a swapped-out crew (R302), by gang and crew: the byte within the stack of the
partition's first plate, before it is rounded to a line and bounded by the stack. The place is left open. -/
opaque crewImage : Nat → Nat → Nat

/-- The gang's barrier-watchdog limit in ticks, which the armature sets (R303). -/
opaque watchdogLimit : Nat → Nat

/-- The gang identifier the armature chooses (R140), by the number of the launch. -/
opaque gangIdRaw : Nat → BitVec 32

/-- Owner index the armature assigns a gang at dispatch (R334), by the number of the launch. -/
opaque ownerRaw : Nat → BitVec 16

/-- How long a pass of the scrubber takes, in ticks, by die and number of the pass: at most 8 hours of 10^8 ticks a second
(R334), whatever `scrubRaw` is. -/
opaque scrubRaw : Nat → Nat → Nat
def scrubPass (die n : Nat) : Nat := 1 + scrubRaw die n % (8 * 3600 * 10 ^ 8)

/-- How long an array takes to wake, by a number of the draw: at most 200 ticks (R349), whatever `wakeRaw` is. -/
opaque wakeRaw : Nat → Nat
def wakeTicks (n : Nat) : Nat := wakeRaw n % 201

/-- The temperature in °C that HEALTH shows, by the number of the reading (R352). -/
opaque temperature : Nat → BitVec 8

/-- The peer link over which this package reaches a package of the pod, of links 16..31 (R325 names the links and leaves
the routes open). -/
opaque peerLinkRaw : Nat → Nat

/-- What firmware sets up at a partition reset, by partition and number of the package reset: the object table (R305), the
journal ring (R317), TOVEC and the scheduler object (R321), and the launch records of the compute firmware gangs (R292). -/
opaque firmwareOtbase : Nat → Nat → BitVec 64
opaque firmwareJbase : Nat → Nat → BitVec 34
opaque firmwareJlen : Nat → Nat → BitVec 32
opaque firmwareTovec : Nat → Nat → BitVec 64
opaque schedulerObject : Nat → Nat → BitVec 24
opaque firmwareGangs : Nat → Nat → Nat
opaque firmwareRecord : Nat → Nat → Nat → BitVec 512

/-- A stipple draw: whether the core's own generator marks a word (R344), by a number of the draw and the rate. -/
opaque stippleDraw : Nat → Nat → Bool

end Sys2Proof.Config
end

