-- ==== Sys2Proof/Machine/State.lean ====
section
/-! DEFINITION. State: every piece of state the spec gives the package, as plain data, with the value after package
reset. Memories and register files are sparse maps in one canonical form (Machine/Ops.lean); records are tables by
number. The fields `schedule`, `focus`, `draws` and `fresh` are the model's own (logs 1, 3). -/
namespace Sys2Proof.Machine

/-! ## Registers of a context -/

/-- A vector register: data, format tag and block word (R55). -/
structure VReg where
  data : BitVec 512 := 0
  tag : BitVec 5 := 0
  bw : BitVec 32 := 0
deriving DecidableEq, Repr

/-- A capability register: 128 bits and its validity tag (R47). -/
structure KReg where
  bits : BitVec 128 := 0
  valid : Bool := false
deriving DecidableEq, Repr

/-- A bound register (R53). -/
structure BoundReg where
  mode : BitVec 2 := 0
  sticky : Bool := false
  hi : BitVec 32 := 0
  lo : BitVec 32 := 0
deriving DecidableEq, Repr

/-- A redirect queue entry (R97). -/
structure RdqEntry where
  valid : Bool := false
  taken : Bool := false
  annul : Bool := false
  rem : BitVec 2 := 0
  target : BitVec 32 := 0
deriving DecidableEq, Repr

/-- The register files with live bits and poison (R93, R107). -/
inductive RegFile where
  | s | v | p | b | k
deriving DecidableEq, Repr

/-- A register of a file, by number. -/
structure RegName where
  file : RegFile
  num : Nat
deriving DecidableEq, Repr

/-- What a poisoned register remembers of its data: UNCORR's detail and TADDR (R155, R296). -/
structure Poison where
  detail : Word64
  addr : Word64
deriving DecidableEq, Repr

/-- The five register files, their live bits and their poison. An unlisted register holds zero (RAW for a vector). -/
structure Regs where
  s : Sparse Word64 := []
  v : Sparse VReg := []
  p : Sparse Word64 := []
  b : Sparse (BitVec 32) := []
  k : Sparse KReg := []
  liveS : BitVec 64 := 1
  liveV : BitVec 32 := 0
  liveP : BitVec 8 := 1
  liveB : BitVec 8 := 0
  liveK : BitVec 16 := 0
  /-- poison by file · 64 + number -/
  poison : Table Poison := []
deriving DecidableEq, Repr

/-- The trap registers and the interrupt registers (R129, R293). -/
structure TrapRegs where
  tcause : Word64 := 0
  tword : Word64 := 0
  tdetail : Word64 := 0
  taddr : Word64 := 0
  svpc : Word64 := 0
  svq0 : Word64 := 0
  svq1 : Word64 := 0
  svasw : Word64 := 0
  svcode : Word64 := 0
  stvec : Word64 := 0
  mtvec : Word64 := 0
  timecmp : Word64 := 0
  extpend : Word64 := 0
deriving DecidableEq, Repr

/-- The pattern generator state (R198). -/
structure Gen where
  loaded : Bool := false
  inv : Bool := false
  /-- the instructions, at most 32; an unlisted one is zero -/
  prog : List (BitVec 32) := []
  pp : Sparse (BitVec 32) := []
  extent : BitVec 48 := 0
  cursor : Word64 := 0
deriving DecidableEq, Repr

/-- The cutter state (R201). -/
structure Cut where
  desc : Word64 := 0
  kcur : Nat := 0
  vcur : Word64 := 0
  isSet : Bool := false
deriving DecidableEq, Repr

/-- What a register write carries: a scalar, mask or target as a word, a vector, or a capability. -/
inductive RegVal where
  | w (x : Word64)
  | v (x : VReg)
  | k (x : KReg)
deriving DecidableEq, Repr

/-- A register's new value, poisoned or not. -/
structure RegWrite where
  reg : RegName
  val : RegVal
  poison : Option Poison := none
deriving DecidableEq, Repr

/-- A fixed-latency result in flight (R99): `due` is the first core cycle whose reads see it, `pos` the dynamic number
of its word, `flags` the floating-point flags it raises (R132). -/
structure FixedWrite where
  due : Nat
  pos : Nat
  writes : List RegWrite
  flags : BitVec 5 := 0
deriving DecidableEq, Repr

/-- A trap or report waiting for the non-restartable tags of its context (R295). -/
structure TrapReq where
  cause : Nat
  detail : Word64
  addr : Word64
  word : BitVec 32
  /-- raised by a wait of the activity's own tags: it is not taken while a handler runs (log 8) -/
  late : Bool := false
deriving DecidableEq, Repr

/-- Why a context that is in service is not ready, apart from its wait mask (R25). -/
inductive Block where
  /-- a translation walk is outstanding for its next word (R152) -/
  | walk (object : Nat) (offset : Nat) (bytes : Nat) (write : Bool) (atomic : Nat)
  /-- its next word is a release and earlier memory words are outstanding (R153) -/
  | release
  /-- its next word is a memory word behind an acquire that is outstanding off-core (R153) -/
  | acquire
  /-- it has issued EXIT and some tag is busy (R33) -/
  | exit
  /-- its next word is a CPWAIT (0), STGWAIT (1) or EVWAIT (2) of a channel, ring or event line, which parks until its
  condition is decided (R245, R275, R276; log 8) -/
  | engine (kind quad num : Nat) (id : BitVec 32)
  /-- its last word may still fault by what it reads behind its issue (an MREST from device memory, a LAUNCH into a pod
  group); that comes before any later word (R98, R219, R316; log 8) -/
  | verdict
  /-- WFI (R138) -/
  | wfi
  /-- an exchange waits for a partner saved in leg 4 (R243) -/
  | partner
  /-- YIELD's own turn (R137) -/
  | yielded
deriving DecidableEq, Repr

/-- Where a context stands (R25, R295, R299, R304, R345). -/
inductive Run where
  /-- in a slot, in service -/
  | inService
  /-- stopped for the armature with a cause (R295) -/
  | stopped
  /-- halted by the debug module (R304) -/
  | halted
  /-- pre-empted to its save area, its slot freed or held (R299) -/
  | saved
  /-- the take-over context before the alarm (R321) -/
  | standby
  /-- it has issued EXIT -/
  | exited
deriving DecidableEq, Repr

/-- The barrier instance an arrival belongs to, held with AP (R261). -/
structure Held where
  kind : Nat
  sid : Word64
  num : Nat
deriving DecidableEq, Repr

/-- An arrival that is on its way to the sync tree (R262): what it carries. -/
structure Sent where
  op : Option Nat
  operand : Word64
  /-- 0 BAR, BARA or SSTEP; 1 + op for BARRED -/
  style : Nat
deriving DecidableEq, Repr

/-- A party of a meeting (R236..R243). -/
structure Party where
  key : Word64
  sid : Word64
  luggage : Word64
  timeout : Word64
  /-- scope kind, and for a rectangle scope the rectangle -/
  kind : Nat
  rect : Word64
  /-- the MEET's operation -/
  op : Nat
  /-- the MEET's own word and the queue before it, to which a withdrawal returns (R243) -/
  pc : BitVec 32
  q0 : RdqEntry
  q1 : RdqEntry
  /-- registers that it released -/
  freed : List RegName := []
  /-- lk and lc before the MEET -/
  lk : BitVec 32 := 0
  lc : Word64 := 0
  partner : Nat := 0
  partnerCore : Nat := 0
  role : Nat := 0
  meetCore : Nat := 0
  /-- this party has landed at the meeting core (R239) -/
  landed : Bool := false
  /-- this party's PART has issued (R241), and its operation; EXIT acts through PART (R33) -/
  parted : Bool := false
  partOp : Option Nat := none
  exiting : Bool := false
  /-- the partner's PART has issued (R240) -/
  partnerParted : Bool := false
  /-- the party is returned without writing its luggage back (R332, R333) -/
  noWriteBack : Bool := false
  /-- the luggage while it travels, and its poisoned lines by number -/
  bytes : List Byte := []
  badLines : List Nat := []
deriving DecidableEq, Repr

/-- A replay slot (R300). -/
structure Replay where
  w0 : Word64 := 0
  w1 : Word64 := 0
  w2 : Word64 := 0
  w3 : Word64 := 0
deriving DecidableEq, Repr

/-- A running migration (R310). -/
structure Migration where
  object : Nat
  page : Nat
  psize : Nat
  oldFrame : Nat
  newFrame : Nat
  leaf : Nat
  rounds : Nat := 0
  /-- lines written after they were copied -/
  dirty : List Nat := []
deriving DecidableEq, Repr

/-- One activity (context). -/
structure Act where
  part : Nat := 0
  gang : Nat := 0
  crew : Nat := 0
  index : Nat := 0
  rank : Nat := 0
  size : Nat := 1
  homeCore : Nat := 0
  homeSlot : Nat := 0
  core : Nat := 0
  slot : Nat := 0
  run : Run := .inService
  block : Option Block := none
  pc : BitVec 32 := 0
  lk : BitVec 32 := 0
  lc : Word64 := 0
  rdq0 : RdqEntry := {}
  rdq1 : RdqEntry := {}
  asw : Word64 := 0x40
  code : Word64 := 0
  srstate : Word64 := 0
  lmBase : Nat := 0
  lmLen : Nat := 0
  qsBase : Nat := 0
  qsLen : Nat := 0
  /-- granted rings, channels and event lines (R45, R244) -/
  rings : BitVec 16 := 0
  /-- physical tiles behind m0, m1, … (R51) -/
  tiles : List Nat := []
  regs : Regs := {}
  /-- the trap bank: s56..s63, k14, k15 (R294) -/
  bank : Regs := {}
  bd : Sparse BoundReg := []
  trap : TrapRegs := {}
  timerPend : Bool := false
  trapPend : Option TrapReq := none
  /-- traps that come after the pending one, oldest first -/
  traps : List TrapReq := []
  words : Word64 := 0
  /-- dynamic number of the next word -/
  num : Nat := 0
  fixed : List FixedWrite := []
  msh : Word64 := 0x01F0_3F3F
  mfm : Word64 := 0x0808
  msb : Word64 := 0
  gen : Gen := {}
  cut : Cut := {}
  held : Option Held := none
  sent : Option Sent := none
  /-- arrivals so far at each (kind, sid) -/
  arrivals : List (Nat × Word64 × Nat) := []
  party : Option Party := none
  replay : Table Replay := []
  /-- dynamic numbers of the waits that a pre-emption took off their tags, by tag (R286, R299) -/
  backed : Table Nat := []
  /-- prefetched words by code object · 2^32 + word index (R143) -/
  fetched : Table Word80 := []
  mig : Option Migration := none
  migdst : Word64 := 0
  migstat : Word64 := 0
  /-- the last word issued: its operation, if it was tagged (R261), and the state of the queue before it -/
  lastOp : Option Nat := none
  lastPc : BitVec 32 := 0
  lastQ0 : RdqEntry := {}
  lastQ1 : RdqEntry := {}
  lastLk : BitVec 32 := 0
  lastLc : Word64 := 0
  /-- registers that it released -/
  lastFreed : List RegName := []
  /-- tick since which it has been parked; the present tick while it is not (R35) -/
  parkTick : Nat := 0
deriving DecidableEq, Repr

/-! ## Outstanding operations -/

/-- A path class (R164), with the management window as a fourth (log 12). -/
inductive Path where
  | device | host | peer | window
deriving DecidableEq, Repr

/-- What a request does at its home port. -/
inductive ReqKind where
  /-- a load of n bytes with sign extension, into a scalar -/
  | load (sx : Bool)
  /-- a vector load: tag and block word -/
  | vload (tag : BitVec 5) (bw : BitVec 32)
  /-- a capability load -/
  | cload
  /-- a store: the bytes and which of them are written; `whole` replaces poison (R155) -/
  | store (data : List Byte) (mask : List Bool)
  /-- a capability store -/
  | cstore (data : List Byte) (valid : Bool)
  /-- an atomic: opcode, sub-operation, operand, comparand's new value (R161, R163) -/
  | atomic (op : Nat) (sub : Nat) (y : Word64) (new : Word64)
  /-- a wait: condition and comparand (R165) -/
  | wait (cond : Nat) (y : Word64)
  /-- part of a tile image: its line number (R219) -/
  | tileLine (line : Nat)
deriving DecidableEq, Repr

/-- What a performed request answers. -/
structure Reply where
  data : List Byte := []
  tag : Bool := false
  poison : Option Poison := none
  /-- a wait that the gang's ending completes with its destination unchanged (R165) -/
  void : Bool := false
deriving DecidableEq, Repr

/-- A request to a home port (R154). -/
structure Req where
  act : Nat
  gang : Nat
  part : Nat
  core : Nat
  op : Nat
  num : Nat
  path : Path
  object : Nat
  offset : Nat
  addr : Nat
  bytes : Nat
  kind : ReqKind
  /-- number of arrival at the home, which orders a line's accesses; 0 until it arrives -/
  arrived : Nat := 0
  /-- a store whose tag has cleared and which may still wait for earlier reads (R153, R286) -/
  accepted : Bool := false
  performed : Option Reply := none
  gp : Bool := false
  owner : Nat := 0
  /-- page size of the translation it used (R309) -/
  psize : Nat := 0
deriving DecidableEq, Repr

/-- An accumulator tile (R51). -/
structure Tile where
  i32 : Bool := false
  elems : Sparse (BitVec 32) := []
deriving DecidableEq, Repr

/-- A matrix-unit word with everything it captured at issue (R207..R222): physical tiles, formats, offsets of rows. `i32`
says that the tiles it works on are tagged I32. -/
inductive MatWord where
  | zero (d : Nat)
  /-- a product: the operands as fetched, each element with its scale or header; for each output row its terms as (index
  in a, row of b), and the columns written -/
  | product (d cols fa fb : Nat) (i32 : Bool) (a b : List (Nat × Nat)) (rows : List (Nat × List (Nat × Nat)))
  | load (d fmt : Nat) (offs : List Nat) (cols : Nat)
  /-- `bound`: the bound register, by number and as it stood at issue -/
  | store (a fmt : Nat) (quad : Bool) (offs : List Nat) (cols : Nat) (bound : Option (Nat × BoundReg))
  | rowFromV (d : Nat) (data : BitVec 512) (row q : Nat)
  | vFromRow (d a : Nat) (row q : Nat) (i32 : Bool)
  | saveTile (a : Nat) (i32 quad : Bool) (off : Nat)
  /-- an image of local memory or scratchpad, judged and read before issue -/
  | restTile (d : Nat) (t : Tile)
  /-- an image in device memory: the lines still to come are in its operation's requests -/
  | restDev (d : Nat) (image : Table (List Byte))
  | addT (d a b : Nat) (sub i32 : Bool)
  | scale (d a : Nat) (x : BitVec 32) (i32 cvt : Bool)
  | bias (d a off : Nat) (row i32 : Bool)
  | clamp (d a : Nat) (lo hi : BitVec 32) (i32 : Bool)
  | transpose (d a : Nat)
  | reduce (d a op q : Nat) (i32 : Bool)
  | dot (d a b q : Nat) (i32 : Bool)
deriving DecidableEq, Repr

/-- What a tagged word waits for (R102). -/
inductive OpKind where
  /-- the divider (R113) -/
  | div (core : Nat) (d : Nat) (x : Word64)
  /-- a result ready a fixed time after issue: its writes -/
  | fixedTime (writes : List RegWrite)
  /-- a copy from the partner's luggage into own luggage, performed when the tag clears (R258, R43) -/
  | xlug (core dst src len : Nat)
  /-- generator or cutter work: its writes -/
  | gen (core : Nat) (writes : List RegWrite)
  /-- a scratchpad load: offset, bytes, sign extension, destination -/
  | ldq (quad off n : Nat) (sx : Bool) (d : Nat)
  | stq (quad off : Nat) (data : List Byte) (mask : List Bool)
  | vldq (quad off : Nat) (tag : BitVec 5) (bw : BitVec 32) (d : Nat)
  /-- a local gather: offsets of the active elements, tag, destination -/
  | gather (core : Nat) (offs : List (Nat × Nat)) (tag : BitVec 5) (d : Nat)
  | scatter (core : Nat) (items : List (Nat × BitVec 32))
  /-- a matrix-unit word -/
  | matrix (core : Nat) (w : MatWord)
  /-- a device-memory access whose requests carry this operation's number; `d` its destination -/
  | device (d : Option RegName) (reply : Bool)
  /-- a tile image on its way to device memory (R219) -/
  | tileImage
  /-- FENCE with a release part (R166) -/
  | fence
  | meet
  | part
  /-- a barrier or SSTEP wait: s[d], and for BARRED s[d+1] -/
  | bar (d : Nat) (pair : Bool)
  /-- BARA: clears when the sync tree accepts the arrival -/
  | bara
  | take (d : Nat) (core : Nat)
  | share (d : Nat) (t : Nat)
  /-- LAUNCH: the record as read, the capabilities, the destination -/
  | launch (d : Nat) (bytes : List Byte) (code arg : KReg)
  | cpwait (quad chan : Nat) (id : BitVec 32)
  | stgwait (quad ring : Nat) (fill : BitVec 32) (d : Nat)
  | evwait (quad line : Nat)
deriving DecidableEq, Repr

/-- A record that takes its number when the tick ends in which it was made (R341): the tick and the kind of its event (0 fault, 1
bound event, 2 mark, 3 stipple, 4 proof), the core or quad, the slot, and the words after the head. -/
structure Rec where
  tick : Nat
  kind : Nat
  core : Nat
  slot : Nat
  part : Nat
  body : List Word64
deriving DecidableEq, Repr

/-- An outstanding tagged operation. -/
structure Op where
  act : Nat
  tag : Nat
  bank : Bool
  num : Nat
  opcode : Nat
  word : BitVec 32
  offCore : Bool
  memWord : Bool
  /-- acquire: it blocks later memory words (R153) -/
  acq : Bool := false
  /-- an acquire or FENCE at a scope wider than core: its completion invalidates the L1 (R50) -/
  wide : Bool := false
  /-- registers it will write (R105) -/
  dsts : List RegName := []
  kind : OpKind
  /-- the fields a replay slot keeps (R300) -/
  replay : Replay := {}
  /-- a bound event that it records at write-back: register and count (R335) -/
  bound : Option (Nat × Nat) := none
  /-- the stipple sample of a word that may still fault, recorded when it has not (R344) -/
  sample : List Rec := []
deriving DecidableEq, Repr

/-! ## Cores, quads, dies -/

/-- A line of the L1 read cache (R50). -/
structure L1Line where
  fill : Nat
  data : List Byte
deriving DecidableEq, Repr

/-- An entry of the object translation cache (R308). -/
structure OtcEntry where
  object : Nat
  page : Nat
  psize : Nat
  size : Nat
  frame : Nat
  w : Bool
  cow : Bool
  ro : Bool
  path : Path
  gp : Bool
  owner : Nat := 0
  peer : Nat := 0
deriving DecidableEq, Repr

/-- An entry of a mould buffer or journal (R330): whose, in which epoch, which line, and what it held. -/
structure MouldEntry where
  gang : Nat
  space : Nat
  line : Nat
  data : List Byte
  tags : List Bool := []
  poison : Bool := false
deriving DecidableEq, Repr

/-- A core. Compute cores are 0..2047; the armature cores A and B are 2048 and 2049. -/
structure Core where
  /-- slot to activity -/
  slots : Table Nat := []
  /-- origin slots held for parties that are away (R236) -/
  held : Table Nat := []
  holder : Option Nat := none
  last : Nat := 7
  lastIssue : Nat := 0
  cycle : Nat := 0
  blockedUntil : Nat := 0
  lm : Sparse Byte := []
  lmPoison : Sparse Bool := []
  tiles : Table Tile := []
  /-- accumulator lines that hold poison, by tile · 256 + line (R334) -/
  tilePoison : Sparse Bool := []
  l1 : Table L1Line := []
  /-- most recently used first -/
  otc : List OtcEntry := []
  /-- the matrix unit's queue: operations, oldest first -/
  mqueue : List Nat := []
  mcstat : Word64 := 0
  /-- the parties for which the visitor slots are reserved (R235) -/
  visitors : List Nat := []
  mould : List MouldEntry := []
  frozen : Bool := false
  alarm : Option (BitVec 16) := none
  /-- lines of the visitor halves that a gang has written in its epoch: gang and line (R332) -/
  halfLines : List (Nat × Nat) := []
  /-- an armature core's own instruction memory, and its lines that hold poison (R334) -/
  imem : Sparse Byte := []
  imemPoison : Sparse Bool := []
deriving DecidableEq, Repr

/-- A stage ring (R45). -/
structure Ring where
  count : Nat := 0
  size : Nat := 0
  base : Nat := 0
  f : BitVec 32 := 0
  e : BitVec 32 := 0
  gen : Sparse (BitVec 16) := []
  /-- fills commanded since STGSET (R231) -/
  commanded : BitVec 32 := 0
  /-- fills that ended in a fault or a cancellation, with channel and cause (R249) -/
  badFills : List (BitVec 32 × Nat × Nat) := []
  /-- fills that have ended but wait for an earlier one to land (R249): number, and channel and cause of a bad end -/
  landing : List (BitVec 32 × Option (Nat × Nat)) := []
deriving DecidableEq, Repr

/-- What a transfer does (R248), with its command's operands read at issue. Widths are in bits. -/
inductive Xfer where
  /-- CPY: length -/
  | cpy (len : Nat)
  | cpyt (w rows cols sd ss : Nat)
  | cpyw (w p0 images ch wd ht p stride ow oh : Nat) (tx ty x0 y0 : Int) (pad : BitVec 32)
  /-- CPYG and CPYS: the index list's place, element bytes, elements -/
  | gather (idx e m : Nat)
  | scatter (idx e m : Nat)
  | cpyp (len peer dataObj dataOff sigObj sigOff : Nat)
  /-- CPYR: the destination object and the bytes in it of the values and the scales -/
  | cpyr (fmt stride obj values scales : Nat) (budget span : Nat) (gen : Gen)
  /-- CUTB: first row, rows, bytes of a row, row stride -/
  | rows (kb rows bytes stride : Nat)
deriving DecidableEq, Repr

/-- A transfer of a channel (R245). -/
structure Transfer where
  id : BitVec 32
  act : Nat
  gang : Nat
  part : Nat
  crew : Nat
  core : Nat
  /-- dynamic number of its command (R247) -/
  num : Nat
  cap : KReg
  /-- byte in the capability's object at which the command's offset stands -/
  off : Int
  /-- direction code of R268 -/
  dir : Nat
  /-- byte of local memory or scratchpad at which its slots, rows or lines stand -/
  loc : Nat
  what : Xfer
  ring : Option (Nat × BitVec 32) := none
  line : Option Nat := none
  /-- the next line or element to perform -/
  pos : Nat := 0
  /-- CPYP: the counter at the peer has been incremented -/
  signalled : Bool := false
  /-- requests of its activity whose writes had been accepted when the command issued and were not performed: they come first
  (R282) -/
  behind : List Nat := []
deriving DecidableEq, Repr

/-- A channel (R246). -/
structure Chan where
  queue : List Transfer := []
  faulted : Bool := false
  cause : BitVec 8 := 0
  vcount : BitVec 16 := 0
  wm : BitVec 32 := 1
  fid : BitVec 32 := 0
  nx : BitVec 32 := 1
  addr : BitVec 48 := 0
deriving DecidableEq, Repr

/-- An event line (R276). -/
structure EvLine where
  set : Bool := false
  bad : Bool := false
deriving DecidableEq, Repr

/-- A party in a meeting-table entry (R234). -/
structure MeetArr where
  act : Nat
  tick : Nat
  order : Nat
  deadline : Option Nat
deriving DecidableEq, Repr

/-- A meeting-table entry: WAITING with one arrival, QUEUED with two (R234). -/
structure MeetEntry where
  gang : Nat
  key : Word64
  sid : Word64
  first : MeetArr
  second : Option MeetArr := none
  /-- order of pairing, for retries (R235) -/
  paired : Nat := 0
deriving DecidableEq, Repr

/-- A quad. -/
structure Quad where
  qs : Sparse Byte := []
  qsPoison : Sparse Bool := []
  rings : Table Ring := []
  chans : Table Chan := []
  lines : Table EvLine := []
  /-- the channel that performed the last line (R245) -/
  lastChan : Nat := 15
  meet : List MeetEntry := []
  /-- the last arrival served: tick, origin core, slot; and the tick of the last withdrawal (R234) -/
  lastArrival : Option (Nat × Nat × Nat) := none
  lastWithdraw : Option Nat := none
  qdctl : Word64 := 0
  qdstat : Word64 := 0
  mould : List MouldEntry := []
  gated : List Nat := []
  /-- a halt is in progress or reached (R340) -/
  halting : Bool := false
deriving DecidableEq, Repr

/-- A copy of a device line in a plate's memory-side cache (R1, R7, R332). The memory behind the port holds the line's
value; of a copy only these two marks can be told from it. -/
structure McLine where
  /-- written since the stack was -/
  dirty : Bool := false
  /-- a clean copy with an uncorrectable error -/
  bad : Bool := false
deriving DecidableEq, Repr

/-- A compute die with its plate (R346..R352). -/
structure Die where
  /-- the plate's memory-side cache by line (home address / 64), at most 2^19 lines -/
  mcache : Table McLine := []
  /-- its ways that are gated (R349; line / 64 modulo 16 names a line's way) -/
  gatedWays : List Nat := []
  /-- the tick until which an array of the die wakes (R349, R352) -/
  wakeUntil : Nat := 0
  /-- passes of the scrubber so far, and the tick at which the running one ends (R334, R352) -/
  passes : Nat := 0
  passEnd : Nat := 0
  step : Nat := 0
  reqStep : Nat := 0
  /-- a step change in progress: the step and the tick by which it must switch -/
  change : Option (Nat × Nat) := none
  /-- a request that waits for the change in progress -/
  nextReq : Option Nat := none
  pauseUntil : Option Nat := none
  dropped : Bool := false
  off : Bool := false
  ueCount : Nat := 0
  ceCount : Nat := 0
  rails : Nat := 0
  plateGone : Bool := false
deriving DecidableEq, Repr

/-- What asked for a walk (R307): the next word of its context, its fetch included; a transfer of a channel; or a PFETCH, into the
memory-side cache or the L1. -/
inductive WalkFor where
  | word
  | engine (quad chan : Nat) (id : BitVec 32)
  | ahead (msc : Bool)
deriving DecidableEq, Repr

/-- A request for a walk, of an activity for its partition and core: the access, and what asked. -/
structure WalkReq where
  act : Nat
  part : Nat
  core : Nat
  object : Nat
  offset : Nat
  bytes : Nat
  write : Bool
  atom : Nat := 0
  who : WalkFor := .word
deriving DecidableEq, Repr

/-! ## Gangs, partitions, the package -/

/-- A launch record's fields (R265). -/
structure LaunchRec where
  entry : BitVec 32 := 0
  codeObj : Nat := 0
  cls : Nat := 0
  bsp : Bool := false
  cyclecheck : Bool := false
  argPresent : Bool := false
  rectPresent : Bool := false
  depPresent : Bool := false
  donePresent : Bool := false
  argObj : Nat := 0
  argRights : BitVec 7 := 0
  crews : Nat := 1
  cores : Nat := 1
  acts : Nat := 1
  tiles : Nat := 0
  mode : Nat := 0
  chunk : Nat := 1
  lmem : Nat := 0
  qsmem : Nat := 0
  rings : BitVec 16 := 0
  podGroup : Nat := 0
  pool : Nat := 0
  threshold : Nat := 0
  rect : Word64 := 0
  seed : Word64 := 0
  depObj : Nat := 0
  depOff : Nat := 0
  doneObj : Nat := 0
  doneOff : Nat := 0
deriving DecidableEq, Repr

/-- What a swapped-out crew keeps (R302): the home address of its image in device memory, which holds its allocations, ring
descriptors and counters and channel registers; and beside it what the image has no place for. -/
structure CrewSave where
  image : Nat := 0
  /-- its part of the mould buffers -/
  lmMould : List (Nat × List MouldEntry) := []
  qsMould : List MouldEntry := []
  rings : Table Ring := []
  chans : Table Chan := []
  lines : Table EvLine := []
deriving DecidableEq, Repr

/-- A crew that has been placed (R18). -/
structure Crew where
  quad : Nat
  cores : List Nat
  slots : List (Nat × Nat)
  /-- physical tiles it holds: core and tile -/
  tiles : List (Nat × Nat) := []
  acts : List Nat
  lmBase : List (Nat × Nat)
  qsBase : Nat
  swapped : Bool := false
  evacuated : Bool := false
  finished : Bool := false
  save : CrewSave := {}
deriving DecidableEq, Repr

/-- A share snapshot entry (R27). -/
structure ShareEntry where
  rank : Nat
  core : Nat
  freq : Nat
deriving DecidableEq, Repr

/-- What an epoch's start keeps for a replay, beside the register moulds (R329): the pool position, the share snapshot, the
activities with their arrivals so far, the crews, and the engine's state. -/
structure EpochSnap where
  poolLeft : Nat := 0
  share : Option (List ShareEntry) := none
  acts : Table Act := []
  crews : Table Crew := []
  /-- by crew and number -/
  rings : List (Nat × Nat × Ring) := []
  chans : List (Nat × Nat × Chan) := []
  lines : List (Nat × Nat × EvLine) := []
  /-- a crew that has ended in the epoch has given its place to another since (R33) -/
  given : Bool := false
deriving DecidableEq, Repr

/-- A gang's stage of life. -/
inductive GangStage where
  /-- its ACCEPT entry is on its way to the journal -/
  | accepting
  /-- in the waiting-launch table (R314) -/
  | waiting
  | eligible
  | ended
  | completed
deriving DecidableEq, Repr

/-- A gang (R17). -/
structure Gang where
  part : Nat := 0
  lrec : LaunchRec := {}
  code : KReg := {}
  arg : KReg := {}
  stage : GangStage := .accepting
  /-- queue and slot of the kick, for a host launch -/
  kick : Option (Nat × Nat) := none
  acceptSeq : Nat := 0
  /-- its record's index in the record store -/
  recIx : Nat := 0
  owner : Nat := 0
  crews : Table Crew := []
  poolLeft : Nat := 0
  share : Option (List ShareEntry) := none
  /-- epoch 0 has opened: its first word has issued (R329) -/
  opened : Bool := false
  epoch : Nat := 0
  replayable : Bool := true
  /-- cores that made the superstep not replayable by a write, and quads of which a mould overflowed (R277, R331) -/
  badCores : List Nat := []
  badQuads : List Nat := []
  replays : Nat := 0
  /-- lines whose consumption was judged in this epoch: (detail, addr, restorable) (R332) -/
  judged : List (Word64 × Word64 × Bool) := []
  /-- a consumption or RETLOST calls for a replay or an end (R332, R333) -/
  faultPend : Option TrapReq := none
  faultCore : Nat := 0
  /-- tick at which it was detected (R327) -/
  faultTick : Nat := 0
  /-- an allocation of a dropped die could not be read (R337) -/
  evacErr : Bool := false
  /-- a request to end it: LAUNCH kind and grade -/
  endPend : Option (Nat × Nat) := none
  snap : EpochSnap := {}
  watch : Nat := 0
  /-- the barrier watchdog's count has reached its limit (R303) -/
  watchHit : Bool := false
  /-- the home address of a host launch's status word, as its acceptance found it (R320) -/
  statusAt : Nat := 0
  /-- a package reset has kept the gang in its save areas, and no crew of it has resumed since (R350) -/
  unresumed : Bool := false
  waitWatch : Bool := false
  /-- the watched counter has been at its threshold since registration (R314) -/
  depHit : Bool := false
deriving DecidableEq, Repr

/-- An arrival at a barrier instance (R30). -/
structure Arrival where
  act : Nat
  core : Nat
  pkg : Nat
  tick : Nat
  operand : Word64
  style : Nat
deriving DecidableEq, Repr

/-- A barrier instance (R260). -/
structure Inst where
  part : Nat
  gang : Nat
  kind : Nat
  sid : Word64
  num : Nat
  /-- the rectangle of a rectangle scope -/
  rect : Word64 := 0
  /-- origin core of the first arrival, which fixes a level scope's members -/
  origin : Nat := 0
  arrivals : List Arrival := []
  /-- the completion: tick, report, reduction (R30, R262) -/
  done : Option (Nat × Word64 × Word64) := none
  /-- activities whose tags have been released -/
  released : List Nat := []
  /-- member packages that have reported, for a pod group (R316) -/
  reports : List Nat := []
  /-- the tick at which an SSTEP's copies and matrix words had finished, while its moulds are still to be written (R329, R348) -/
  early : Option Nat := none
  /-- PWRCTL of each partition as sampled at the completion: D and the stagger (R348) -/
  pwr : Table Word64 := []
  /-- ticks since T0 that each die has run at each of its steps, by die · 8 + step: they give every core's own cycles (R31) -/
  ran : Table Nat := []
deriving DecidableEq, Repr

/-- A pending merge of reductions in a home port's write queue (R162). -/
structure Merge where
  addr : Nat
  bytes : Nat
  op : Nat
  sub : Nat
  p : Word64
  first : Nat
  gp : Bool
  owner : Nat
  gang : Nat
  core : Nat
  /-- the translations through which it was reached: partition, object, page (R309) -/
  uses : List (Nat × Nat × Nat) := []
deriving DecidableEq, Repr

/-- A launch queue (R311). -/
structure Queue where
  lqbase : Word64 := 0
  lqstat : Word64 := 0
  /-- the status word that the journal gives each slot of the open queue (R318) -/
  slots : Table Word64 := []
deriving DecidableEq, Repr

/-- A journal entry's content (R317), less its sequence number. -/
structure JEntry where
  kind : Nat
  queue : Nat := 0xFF
  slot : Nat := 0xFF
  code : Nat := 0
  gang : Nat := 0
  arg : Word64 := 0
deriving DecidableEq, Repr

/-- The action that takes effect when its journal entry is accepted (R317). -/
inductive JAction where
  | none
  /-- a kicked record is accepted or refused: bit, gang, status word -/
  | kick (n : Nat) (gang : Nat) (status : Word64)
  /-- a LAUNCH is answered: operation, gang, refusal code -/
  | launched (op gang refusal : Nat)
  | eligible (gang : Nat)
  /-- a waiting launch is refused as the partition drains -/
  | refuse (gang : Nat)
  | complete (gang : Nat)
  | end_ (gang : Nat) (grade : Nat) (detail : Word64)
  | qopen (queue : Nat) (value : Word64)
  | qclose (queue : Nat) (value : Word64)
  /-- the record of a kick is discarded as its queue closes: bit, and home address of the slot's status word (R320) -/
  | discard (n : Nat) (addr : Nat)
  | drain (value : Bool)
  | takeover
deriving DecidableEq, Repr

/-- A copy of a kicked slot in progress (R312). -/
structure KickCopy where
  n : Nat
  bytes : List Byte
  drainBefore : Bool
deriving DecidableEq, Repr

/-- An enrolment entry (R316). -/
structure PodEntry where
  pgenr : Word64 := 0
  pgmem : Word64 := 0
  bitmap : List Byte := []
  accepted : Nat := 0
deriving DecidableEq, Repr

/-- A partition (R351). -/
structure Part where
  otbase : Word64 := 0
  /-- pending invalidations: activity (none for the model's own) and value -/
  otinv : List (Nat × Word64) := []
  queues : Table Queue := []
  kickset : Sparse Word64 := []
  scan : List Nat := []
  /-- where the running scan stands: kicks below it come in the next (R312) -/
  scanPos : Nat := 0
  lastScan : Nat := 0
  copy : Option KickCopy := none
  /-- DRAIN's bit 0: the partition drains (R319) -/
  drain : Bool := false
  jbase : Nat := 0
  jlen : Nat := 1
  jckpt : Word64 := 1
  jseq : Nat := 1
  jpend : List (JEntry × JAction) := []
  tovec : Word64 := 0
  records : Table (List Byte) := []
  waiting : List Nat := []
  /-- LAUNCH operations whose records have been submitted, oldest first -/
  submits : List Nat := []
  c0res : Word64 := 0
  pwrctl : Word64 := 0
  pods : Table PodEntry := []
  sbbase : Word64 := 0
  sblen : Word64 := 0
  sbptr : Word64 := 0
  sblost : Word64 := 0
  sbStopped : Bool := false
  sbWrapped : Bool := false
  proof : Option Nat := none
  faultRing : List (List Word64) := []
  /-- EXTINT line 0 raised toward the host: count of raises -/
  hostIrq : Nat := 0
  /-- defective plates are applied, firmware launched -/
  firmware : Bool := false
deriving DecidableEq, Repr

/-- A link (R325): 0..7 die-to-die links by die, 16..31 peer links. -/
structure Link where
  failedRails : Nat := 0
  retries : Nat := 0
  down : Bool := false
deriving DecidableEq, Repr

/-- Which agent moves next (log 1). -/
inductive Move where
  /-- the reference tick advances -/
  | tick
  /-- one cycle of a core -/
  | cycle (core : Nat)
  /-- a core fetches the word after those it has fetched ahead (R143) -/
  | prefetch (core : Nat)
  /-- a device event happens -/
  | event (i : Instr)
  /-- the host writes bytes of device or host memory, by home address (R314) -/
  | hostWrite (addr : Nat) (bytes : List Byte)
deriving DecidableEq, Repr

/-- Attestation in progress (R355). -/
structure AttReq where
  addr : Nat
  nonce : List Word64
deriving DecidableEq, Repr

/-- The machine. -/
structure State where
  /-- the moves that come next; with none left, the core `focus` moves (log 1) -/
  schedule : List Move := []
  focus : Nat := 0
  /-- free values drawn so far (log 3) -/
  draws : Nat := 0
  /-- fresh numbers for operations, requests, arrivals, activities and gangs -/
  fresh : Nat := 1
  tick : Nat := 0
  acts : Table Act := []
  ops : Table Op := []
  reqs : Table Req := []
  cores : Table Core := []
  quads : Table Quad := []
  dies : Table Die := []
  parts : Table Part := []
  gangs : Table Gang := []
  insts : Table Inst := []
  /-- memory behind the home ports by home address: device memory, host memory, peer packages (Machine/Mem.lean) -/
  mem : Sparse Byte := []
  /-- hidden tags by granule (home address / 16) -/
  memTags : Sparse Bool := []
  /-- lines (home address / 64) that hold poison -/
  memPoison : Sparse Bool := []
  merges : List Merge := []
  /-- the mould journals of the memory ports (R330), each entry with its port -/
  journals : List (Nat × MouldEntry) := []
  /-- what the pod's other packages answer (R305) -/
  peerObjs : Table Config.PeerObj := []
  /-- requests for walks, in order (R307) -/
  walks : List WalkReq := []
  partmap : BitVec 32 := 0
  partmapNext : BitVec 32 := 0
  thwarn : BitVec 8 := 120
  triprec : Word64 := 0
  bootstat : Word64 := 0
  tamper : Word64 := 0
  nonce : List Word64 := [0, 0, 0, 0]
  attgo : Word64 := 0
  att : Option AttReq := none
  seq : BitVec 48 := 0
  /-- records that take their numbers when this tick ends (R341) -/
  recs : List Rec := []
  /-- bits of TIP, MG and AP that a debugger tried to change: context and bits (R304) -/
  debugRefused : List (Nat × Word64) := []
  /-- what halts have reported of origin slots held for parties that are away: quad, slot bit, meeting core and MG (R243) -/
  haltAway : List (Nat × Nat × Nat × Nat) := []
  links : Table Link := []
  /-- the active armature core; it may be frozen with no successor (R359) -/
  armature : Nat := 2048
  /-- machine-check notices posted to the active armature core: core and code (R149) -/
  notices : List (Nat × BitVec 16) := []
  resets : Nat := 0
  /-- the emergency save is running, and it has committed (R350) -/
  saving : Bool := false
  committed : Bool := false
deriving DecidableEq, Repr

/-! ## Stops -/

/-- Why a step stops. -/
inductive Fault where
  /-- `exec` is asked to run an instruction word while the core in focus has no context that holds its port. No step
  raises it: `step` fetches only for a context. Safe. -/
  | noContext
deriving DecidableEq, Repr

/-- Why the model refuses a step. -/
inductive Refusal where
  /-- An instruction whose meaning has not been written yet, by mnemonic; raised by `exec` only. Safe. -/
  | notModelled (mnemonic : String)
deriving DecidableEq, Repr

/-! ## Reset -/

/-- The machine right after package reset: no gang, no activity, memories with nothing listed, one partition of all
eight dies (log 5). -/
def State.reset : State :=
  { cores := [(2048, {}), (2049, {})]
    dies := (List.range 8).map (fun d => (d, {}))
    peerObjs := Config.peerTables
    parts := [(0, {})] }

end Sys2Proof.Machine
end

