-- ==== Sys2Proof/Machine/Ops.lean ====
section
/-! DEFINITION. The named operations over maps, records, registers and memory; the redirect queue; outstanding
operations; records; taking a trap, reporting to the armature, and returning from a trap. -/
namespace Sys2Proof.Machine

/-! ## Sparse maps and tables -/

/-- Reading a sparse map: `d` at a key that is not listed. -/
def sparseGet {α : Type} (d : α) : Sparse α → Nat → α
  | [], _ => d
  | (k, v) :: r, n => if n = k then v else sparseGet d r n

/-- Writing a sparse map, which keeps its keys rising and drops a value equal to `d`. -/
def sparseSet {α : Type} [DecidableEq α] (d : α) : Sparse α → Nat → α → Sparse α
  | [], n, x => if x = d then [] else [(n, x)]
  | (k, v) :: r, n, x =>
    if n < k then (if x = d then (k, v) :: r else (n, x) :: (k, v) :: r)
    else if n = k then (if x = d then r else (n, x) :: r)
    else (k, v) :: sparseSet d r n x

/-- The canonical form of a sparse map: keys strictly rising, no value equal to `d`. -/
def sparseWf {α : Type} [DecidableEq α] (d : α) : Sparse α → Bool
  | [] => true
  | [(_, v)] => decide (v ≠ d)
  | (k, v) :: (k', v') :: r => decide (v ≠ d) && decide (k < k') && sparseWf d ((k', v') :: r)

/-- The record with a number. -/
def tableGet? {α : Type} : Table α → Nat → Option α
  | [], _ => none
  | (k, v) :: r, n => if n = k then some v else tableGet? r n

/-- Writing a record. -/
def tableSet {α : Type} : Table α → Nat → α → Table α
  | [], n, x => [(n, x)]
  | (k, v) :: r, n, x =>
    if n < k then (n, x) :: (k, v) :: r else if n = k then (n, x) :: r else (k, v) :: tableSet r n x

/-- Removing a record. -/
def tableErase {α : Type} : Table α → Nat → Table α
  | [], _ => []
  | (k, v) :: r, n => if n = k then tableErase r n else (k, v) :: tableErase r n

/-- The numbers of a table's records. -/
def tableKeys {α : Type} (t : Table α) : List Nat := t.map (·.1)

/-- Writing consecutive bytes. -/
def sparseWrite : Sparse Byte → Nat → List Byte → Sparse Byte
  | m, _, [] => m
  | m, a, b :: bs => sparseWrite (sparseSet 0 m a b) (a + 1) bs

/-- Reading consecutive bytes. -/
def sparseRead (m : Sparse Byte) (a n : Nat) : List Byte := (List.range n).map (fun i => sparseGet 0 m (a + i))

/-- Writing the bytes that a mask selects. -/
def sparseWriteMasked : Sparse Byte → Nat → List Byte → List Bool → Sparse Byte
  | m, _, [], _ => m
  | m, a, b :: bs, k :: ks => sparseWriteMasked (if k then sparseSet 0 m a b else m) (a + 1) bs ks
  | m, a, b :: bs, [] => sparseWriteMasked (sparseSet 0 m a b) (a + 1) bs []

/-- Inserting before the first element with a larger key. -/
def insertBy {α : Type} (f : α → Nat) (x : α) : List α → List α
  | [] => [x]
  | y :: r => if f x < f y then x :: y :: r else y :: insertBy f x r

/-- Sorting by a key, equal keys in their order. -/
def sortBy {α : Type} (f : α → Nat) (l : List α) : List α := l.foldl (fun r x => insertBy f x r) []

/-! ## Records of the package -/

def State.core (s : State) (c : Nat) : Core := (tableGet? s.cores c).getD {}
def State.setCore (s : State) (c : Nat) (x : Core) : State := { s with cores := tableSet s.cores c x }
def State.act (s : State) (a : Nat) : Act := (tableGet? s.acts a).getD {}
def State.setAct (s : State) (a : Nat) (x : Act) : State := { s with acts := tableSet s.acts a x }
def State.quad (s : State) (q : Nat) : Quad := (tableGet? s.quads q).getD {}
def State.setQuad (s : State) (q : Nat) (x : Quad) : State := { s with quads := tableSet s.quads q x }
def State.die (s : State) (d : Nat) : Die := (tableGet? s.dies d).getD {}
def State.setDie (s : State) (d : Nat) (x : Die) : State := { s with dies := tableSet s.dies d x }
def State.part (s : State) (p : Nat) : Part := (tableGet? s.parts p).getD {}
def State.setPart (s : State) (p : Nat) (x : Part) : State := { s with parts := tableSet s.parts p x }
def State.gang (s : State) (g : Nat) : Gang := (tableGet? s.gangs g).getD {}
def State.setGang (s : State) (g : Nat) (x : Gang) : State := { s with gangs := tableSet s.gangs g x }
def State.op? (s : State) (o : Nat) : Option Op := tableGet? s.ops o
def State.req? (s : State) (r : Nat) : Option Req := tableGet? s.reqs r
def State.inst? (s : State) (i : Nat) : Option Inst := tableGet? s.insts i

/-- A fresh number and the state after it. -/
def State.take (s : State) : Nat × State := (s.fresh, { s with fresh := s.fresh + 1 })

/-! ## Bits -/

/-- Bits [hi:lo] of a word as a number. -/
def bits (x : Word64) (hi lo : Nat) : Nat := x.toNat / 2 ^ lo % 2 ^ (hi + 1 - lo)

/-- A number as a 64-bit word. -/
def w64 (n : Nat) : Word64 := BitVec.ofNat 64 n

/-- The sign-extended value of the low `n` bits. -/
def sextNat (x n : Nat) : Int :=
  let y := x % 2 ^ n
  if n = 0 then 0 else if 2 ^ (n - 1) ≤ y then (y : Int) - 2 ^ n else y

/-- An exact integer narrowed to 64 bits. -/
def wOfInt (i : Int) : Word64 := BitVec.ofInt 64 i

/-- All ones or zero: a lane mask from a condition. -/
def maskOf (c : Bool) : Word64 := if c then BitVec.allOnes 64 else 0

/-- Ceiling division. -/
def cdiv (a b : Nat) : Nat := (a + b - 1) / b

/-- The little-endian number of a list of bytes, as a word. -/
def bytesWord (bs : List Byte) : Word64 := w64 (bytesToNat bs)

/-- A word's `n` bytes, least significant first. -/
def wordBytes64 (n : Nat) (x : Word64) : List Byte := natToBytes n x.toNat

/-! ## Coordinates (R4, R5) -/

def coreX (c : Nat) : Nat := c % 64
def coreY (c : Nat) : Nat := c / 64
def coreDie (c : Nat) : Nat := coreY c / 16 * 4 + coreX c / 16
def coreQuad (c : Nat) : Nat := coreY c / 2 * 32 + coreX c / 2
def coreMember (c : Nat) : Nat := coreY c % 2 * 2 + coreX c % 2
/-- The core that is member `m` of a quad. -/
def quadCore (q m : Nat) : Nat := (q / 32 * 2 + m / 2) * 64 + (q % 32 * 2 + m % 2)
def quadCores (q : Nat) : List Nat := (List.range 4).map (quadCore q)
def quadDie (q : Nat) : Nat := coreDie (quadCore q 0)

/-- The armature cores (log 13). -/
def isArmature (c : Nat) : Bool := 2048 ≤ c

/-- A live core: a compute core whose die has not been dropped or switched off (R5). -/
def State.live (s : State) (c : Nat) : Bool :=
  decide (c < 2048) && !(s.die (coreDie c)).dropped && !(s.die (coreDie c)).off

/-- A quad with at least one live core. -/
def State.liveQuad (s : State) (q : Nat) : Bool := decide (q < 512) && s.live (quadCore q 0)

/-- The partition of a die (R351). -/
def State.diePart (s : State) (d : Nat) : Nat := s.partmap.toNat / 2 ^ (4 * d) % 16

/-- A rectangle clipped to the mesh: x0, y0, x1, y1 inclusive; none if it is empty (R5, R151). -/
def rectBounds (r : Word64) : Option (Nat × Nat × Nat × Nat) :=
  let x0 := bits r 15 0
  let y0 := bits r 31 16
  let x1 := min (bits r 47 32) 63
  let y1 := min (bits r 63 48) 31
  if x0 ≤ x1 ∧ y0 ≤ y1 then some (x0, y0, x1, y1) else none

/-- A core lies in a rectangle. -/
def inRect (r : Word64) (c : Nat) : Bool :=
  match rectBounds r with
  | none => false
  | some (x0, y0, x1, y1) =>
    decide (x0 ≤ coreX c) && decide (coreX c ≤ x1) && decide (y0 ≤ coreY c) && decide (coreY c ≤ y1)

/-- A rectangle scope holds the core, live, or it acts as core scope (R151, R255). -/
def State.rectActs (s : State) (r : Word64) (c : Nat) : Bool := inRect r c && s.live c

/-- The frequency of a core at its die's current step; 0 for a core that is not live (R141, R346), and for an armature core, which
has no speed table (the model's choice; log 75). -/
def State.freq (s : State) (c : Nat) : Nat :=
  if s.live c then Config.speed c (s.die (coreDie c)).step else 0

/-- mix of R196. -/
def mix (x : BitVec 32) : BitVec 32 :=
  let x := x ^^^ (x >>> 16)
  let x := x * 0x7FEB352D
  let x := x ^^^ (x >>> 15)
  let x := x * 0x846CA68B
  x ^^^ (x >>> 16)

/-! ## Status word (R130) -/

def Act.mode (a : Act) : Nat := bits a.asw 1 0
def Act.ap (a : Act) : Bool := a.asw.getLsbD 2
def Act.mg (a : Act) : Nat := bits a.asw 5 3
def Act.ie (a : Act) : Bool := a.asw.getLsbD 6
def Act.tip (a : Act) : Bool := a.asw.getLsbD 7
def Act.rm (a : Act) : Nat := bits a.asw 9 8
/-- A field of ASW that the Lorpel keeps changes; while a trap is in service the saved copy changes with it (log 10). -/
def Act.setStatus (a : Act) (mask val : Word64) : Act :=
  { a with
    asw := (a.asw &&& ~~~mask) ||| val
    trap := if a.tip then { a.trap with svasw := (a.trap.svasw &&& ~~~mask) ||| val } else a.trap }
def Act.setAp (a : Act) (v : Bool) : Act := a.setStatus 4 (if v then 4 else 0)
def Act.setMg (a : Act) (v : Nat) : Act := a.setStatus 0x38 (w64 (v % 8 * 8))
/-- The reserved bits of ASW read as zero. -/
def aswMask : Word64 := 0xFBFF

/-- The activity is in a visitor slot (R18). -/
def Act.visitor (a : Act) : Bool := decide (6 ≤ a.slot) && decide (a.core < 2048)

/-! ## Registers -/

/-- The bank holds s56..s63, k14 and k15 (R294). -/
def bankReg (r : RegName) : Bool :=
  (decide (r.file = .s) && decide (56 ≤ r.num)) || (decide (r.file = .k) && decide (14 ≤ r.num))

def sreg (n : Nat) : RegName := ⟨.s, n⟩
def vreg (n : Nat) : RegName := ⟨.v, n⟩
def preg (n : Nat) : RegName := ⟨.p, n⟩
def breg (n : Nat) : RegName := ⟨.b, n⟩
def kreg (n : Nat) : RegName := ⟨.k, n⟩

/-- The file's code in a DEADREG detail (R296). -/
def RegFile.code : RegFile → Nat
  | .s => 0 | .v => 1 | .p => 2 | .b => 3 | .k => 4

/-- The number of registers of a file (R22). -/
def RegFile.size : RegFile → Nat
  | .s => 64 | .v => 32 | .p => 8 | .b => 8 | .k => 16

def regKey (r : RegName) : Nat := r.file.code * 64 + r.num

/-- The live bit of a register. -/
def Regs.live (g : Regs) (r : RegName) : Bool :=
  match r.file with
  | .s => g.liveS.getLsbD r.num
  | .v => g.liveV.getLsbD r.num
  | .p => g.liveP.getLsbD r.num
  | .b => g.liveB.getLsbD r.num
  | .k => g.liveK.getLsbD r.num

/-- Setting or clearing one bit. -/
def setBit {n : Nat} (x : BitVec n) (i : Nat) (v : Bool) : BitVec n :=
  if v then x ||| (1#n <<< i) else x &&& ~~~(1#n <<< i)

/-- Setting a live bit; those of s0 and p0 stay set (R110). -/
def Regs.setLive (g : Regs) (r : RegName) (v : Bool) : Regs :=
  match r.file with
  | .s => if r.num = 0 then g else { g with liveS := setBit g.liveS r.num v }
  | .v => { g with liveV := setBit g.liveV r.num v }
  | .p => if r.num = 0 then g else { g with liveP := setBit g.liveP r.num v }
  | .b => { g with liveB := setBit g.liveB r.num v }
  | .k => { g with liveK := setBit g.liveK r.num v }

/-- Writing a register: s0 and p0 discard the write (R110); the register is live, its poison as the write says
(R107, R155). -/
def Regs.put (g : Regs) (w : RegWrite) : Regs :=
  let n := w.reg.num
  if n = 0 ∧ (w.reg.file = .s ∨ w.reg.file = .p) then g
  else
    let g := g.setLive w.reg true
    let g := { g with poison := match w.poison with
      | some x => tableSet g.poison (regKey w.reg) x
      | none => tableErase g.poison (regKey w.reg) }
    match w.reg.file, w.val with
    | .s, .w x => { g with s := sparseSet 0 g.s n x }
    | .p, .w x => { g with p := sparseSet 0 g.p n x }
    | .b, .w x => { g with b := sparseSet 0 g.b n (x.setWidth 32) }
    | .v, .v x => { g with v := sparseSet {} g.v n x }
    | .k, .k x => { g with k := sparseSet {} g.k n x }
    | _, _ => g

/-- The file set that a name reaches (R294). -/
def Act.regsFor (a : Act) (r : RegName) : Regs := if a.tip && bankReg r then a.bank else a.regs

def Act.s (a : Act) (n : Nat) : Word64 := sparseGet 0 (a.regsFor (sreg n)).s n
def Act.v (a : Act) (n : Nat) : VReg := sparseGet {} a.regs.v n
/-- p0 is all ones (R22, R110). -/
def Act.p (a : Act) (n : Nat) : Word64 := if n = 0 then BitVec.allOnes 64 else sparseGet 0 a.regs.p n
def Act.b (a : Act) (n : Nat) : BitVec 32 := sparseGet 0 a.regs.b n
def Act.k (a : Act) (n : Nat) : KReg := sparseGet {} (a.regsFor (kreg n)).k n
def Act.bound (a : Act) (n : Nat) : BoundReg := sparseGet {} a.bd n
def Act.live (a : Act) (r : RegName) : Bool := (a.regsFor r).live r
def Act.poison? (a : Act) (r : RegName) : Option Poison := tableGet? (a.regsFor r).poison (regKey r)

/-- Writing a register of the bank or of the activity's own, as the word that issued it named it. -/
def Act.putIn (a : Act) (bank : Bool) (w : RegWrite) : Act :=
  if bank && bankReg w.reg then { a with bank := a.bank.put w } else { a with regs := a.regs.put w }

/-- Several writes, in order. -/
def Act.putAll (a : Act) (bank : Bool) (ws : List RegWrite) : Act := ws.foldl (fun a w => a.putIn bank w) a

/-- Clearing a live bit (R106, R144). -/
def Act.release (a : Act) (r : RegName) : Act :=
  if a.tip && bankReg r then { a with bank := a.bank.setLive r false } else { a with regs := a.regs.setLive r false }

/-- The current value of a register as a write would carry it. -/
def Act.valOf (a : Act) (r : RegName) : RegVal :=
  match r.file with
  | .s => .w (a.s r.num)
  | .v => .v (a.v r.num)
  | .p => .w (a.p r.num)
  | .b => .w ((a.b r.num).setWidth 64)
  | .k => .k (a.k r.num)

def wS (n : Nat) (x : Word64) : RegWrite := { reg := sreg n, val := .w x }
def wP (n : Nat) (x : Word64) : RegWrite := { reg := preg n, val := .w x }
def wB (n : Nat) (x : BitVec 32) : RegWrite := { reg := breg n, val := .w (x.setWidth 64) }
def wV (n : Nat) (x : VReg) : RegWrite := { reg := vreg n, val := .v x }
def wK (n : Nat) (x : KReg) : RegWrite := { reg := kreg n, val := .k x }

/-- The live bits of a file as LIVEQ shows them (R145), the bank's names while a trap is in progress (R294). -/
def Act.liveBits (a : Act) (f : RegFile) : Word64 :=
  match f with
  | .s =>
    if a.tip then (a.regs.liveS &&& 0x00FFFFFFFFFFFFFF) ||| (a.bank.liveS &&& 0xFF00000000000000) else a.regs.liveS
  | .v => a.regs.liveV.setWidth 64
  | .p => a.regs.liveP.setWidth 64
  | .b => a.regs.liveB.setWidth 64
  | .k =>
    (if a.tip then (a.regs.liveK &&& 0x3FFF) ||| (a.bank.liveK &&& 0xC000) else a.regs.liveK).setWidth 64

/-! ## Fixed-latency results (R99, R105, R132) -/

/-- Landing one result: its registers and its flags. -/
def Act.land (a : Act) (w : FixedWrite) : Act :=
  let a := a.putAll a.tip w.writes
  { a with asw := a.asw ||| (w.flags.setWidth 64 <<< 11) }

/-- Landing every result that is due by a cycle, in issue order. -/
def Act.landDue (a : Act) (cycle : Nat) : Act :=
  let due := a.fixed.filter (fun w => decide (w.due ≤ cycle))
  { due.foldl Act.land a with fixed := a.fixed.filter (fun w => !decide (w.due ≤ cycle)) }

/-- Landing every result in flight (R25, R100). -/
def Act.landAll (a : Act) : Act := { a.fixed.foldl Act.land a with fixed := [] }

/-- The cycle after the last write in flight. -/
def Act.landEnd (a : Act) : Nat := a.fixed.foldl (fun m w => max m w.due) 0

/-- The results of a context in flight are written, and the cycles until then pass (R25, R100). -/
def State.settle (s : State) (c aid : Nat) : State :=
  let a := s.act aid
  let core := s.core c
  (s.setAct aid a.landAll).setCore c { core with cycle := max core.cycle a.landEnd }

/-- The earliest cycle at which a write in flight lands. -/
def Act.nextDue (a : Act) : Option Nat :=
  a.fixed.foldl (fun m w => match m with | none => some w.due | some x => some (min x w.due)) none

/-- A fixed-latency write of a register is in flight. -/
def Act.inFlight (a : Act) (r : RegName) : Bool := a.fixed.any (fun w => w.writes.any (fun x => x.reg == r))

/-- The cycle at which a new write may land: not before an earlier one of the same register (R105). -/
def Act.dueFor (a : Act) (rs : List RegName) (due : Nat) : Nat :=
  a.fixed.foldl (fun m w => if w.writes.any (fun x => rs.contains x.reg) then max m w.due else m) due

/-! ## The redirect queue (R95, R97) -/

/-- The layout of R97. -/
def RdqEntry.toBits (e : RdqEntry) : Word64 :=
  if e.valid then
    w64 (2 ^ 63 + (if e.taken then 2 ^ 62 else 0) + (if e.annul then 2 ^ 61 else 0) + e.rem.toNat * 2 ^ 59
      + e.target.toNat)
  else
    w64 ((if e.taken then 2 ^ 62 else 0) + (if e.annul then 2 ^ 61 else 0) + e.rem.toNat * 2 ^ 59 + e.target.toNat)

/-- Reading an entry: an entry with valid set and rem 0 or 3 is stored with valid cleared (R129). -/
def RdqEntry.ofBits (x : Word64) : RdqEntry :=
  let r : BitVec 2 := x.extractLsb' 59 2
  { valid := x.getLsbD 63 && (r == 1 || r == 2), taken := x.getLsbD 62, annul := x.getLsbD 61, rem := r
    target := x.extractLsb' 0 32 }

/-- An SVQ0 or SVQ1 value as stored (R129). -/
def normQueue (x : Word64) : Word64 := (RdqEntry.ofBits x).toBits

/-- The next word is annulled: some valid entry says so (R95). -/
def Act.annulled (a : Act) : Bool := (a.rdq0.valid && a.rdq0.annul) || (a.rdq1.valid && a.rdq1.annul)

/-- One entry as an issue ages it: the entry that stays, and the target it redirects to. -/
def RdqEntry.age (e : RdqEntry) : Option RdqEntry × Option (BitVec 32) :=
  if e.valid then
    if e.rem = 1 then (none, if e.taken then some e.target else none) else (some { e with rem := e.rem - 1 }, none)
  else (none, none)

/-- The queue and the next word after an issue, with the redirect the word appends (R95). An entry that matures is stored as
all zeros; R95 says only that its valid bit clears (the model's choice; log 66). -/
def Act.advance (a : Act) (new : Option RdqEntry) : Act :=
  let e0 := a.rdq0.age
  let e1 := a.rdq1.age
  let next := a.pc + 1
  let next := match e0.2 with | some t => t | none => next
  let next := match e1.2 with | some t => t | none => next
  let left := e0.1.toList ++ e1.1.toList ++ new.toList
  { a with pc := next, rdq0 := left[0]?.getD {}, rdq1 := left[1]?.getD {} }

/-- Registers that a word released are live again, as the word had not issued. -/
def Act.relive (a : Act) (rs : List RegName) : Act :=
  rs.foldl (fun (a : Act) r =>
    if a.tip && bankReg r then { a with bank := a.bank.setLive r true } else { a with regs := a.regs.setLive r true }) a

/-- Undoing the issue of a word that waits and was the last one issued (R261, R300). -/
def Act.undoIssue (a : Act) : Act :=
  ({ a with pc := a.lastPc, rdq0 := a.lastQ0, rdq1 := a.lastQ1, lk := a.lastLk, lc := a.lastLc
            words := a.words - 1, lastOp := none } : Act).relive a.lastFreed

/-! ## Outstanding operations (R102, R104, R105) -/

/-- The operations of an activity. -/
def State.opsOf (s : State) (aid : Nat) : List (Nat × Op) := s.ops.filter (fun x => x.2.act == aid)

/-- Tag `t` of the name space in use is busy. -/
def State.tagBusy (s : State) (aid : Nat) (bank : Bool) (t : Nat) : Bool :=
  s.ops.any (fun x => x.2.act == aid && x.2.bank == bank && x.2.tag == t)

/-- Two operations name the same register by `r`: a name of the trap bank is another register for a handler (R294). -/
def Op.sameReg (x o : Op) (r : RegName) : Bool := x.bank == o.bank || !bankReg r

/-- The operation's results may land now: no earlier tagged write and no fixed-latency write of the same register is
outstanding (R105). -/
def State.canLand (s : State) (o : Op) : Bool :=
  !(s.ops.any (fun x => x.2.act == o.act && decide (x.2.num < o.num)
      && x.2.dsts.any (fun r => o.dsts.contains r && x.2.sameReg o r)))
  && !((s.act o.act).fixed.any (fun w => w.writes.any (fun x => o.dsts.contains x.reg)))

/-- Recording the tick from which a context with no ready word waits is the scheduler's; a tag that clears ends it. -/
def State.finishOp (s : State) (oid : Nat) (o : Op) (ws : List RegWrite) : State :=
  let s := { s with ops := tableErase s.ops oid }
  s.setAct o.act ((s.act o.act).putAll o.bank ws)

/-- Invalidating a core's L1 read cache (R50). -/
def State.l1Clear (s : State) (c : Nat) : State := s.setCore c { s.core c with l1 := [] }

/-- Restartable waits (R299): WAITMEM, BAR, BARW, BARRED, SSTEP, TAKE, SHARE, CPWAIT, STGWAIT, EVWAIT. -/
def restartable (opcode : Nat) : Bool :=
  [0x54, 0xA6, 0xA8, 0xAA, 0xA9, 0xAB, 0xAC, 0xB5, 0xB7, 0xBA].contains opcode

/-- The operation is a restartable wait that still waits: one on the copy engine has been decided when it issues (log 8). -/
def Op.restarts (o : Op) : Bool :=
  restartable o.opcode && (match o.kind with | .fixedTime _ => false | _ => true)

/-- Every tag of the activity that is not a restartable wait is free (R295). -/
def State.quiet (s : State) (aid : Nat) : Bool :=
  !(s.ops.any (fun x => x.2.act == aid && !x.2.restarts))

/-! ## Memory behind the home ports -/

/-- Home addresses: device memory below 2^48; host memory from 2^48; peer packages from 2^96; the management window
from 2^112 (log 12). -/
def hostBase : Nat := 2 ^ 48
def peerBase : Nat := 2 ^ 96
def windowBase : Nat := 2 ^ 112
def peerAddr (pkg object offset : Nat) : Nat := peerBase + pkg * 2 ^ 72 + object * 2 ^ 48 + offset

def State.memRead (s : State) (a n : Nat) : List Byte := sparseRead s.mem a n
/-- A bare write of bytes, hidden tags and poison aside. -/
def State.memPut (s : State) (a : Nat) (bs : List Byte) : State := { s with mem := sparseWrite s.mem a bs }
def State.memWord (s : State) (a : Nat) : Word64 := bytesWord (s.memRead a 8)

/-- Physical addresses that a stack of the partition holds: plate p's stack is [p·2^37, p·2^37 + 96 GiB), the plate
under a die of the partition and present (R357, R338). -/
def State.inStacks (s : State) (part a : Nat) : Bool :=
  let p := a / 2 ^ 37
  decide (p < 8) && decide (a % 2 ^ 37 < 96 * 2 ^ 30) && (s.diePart p == part) && !(s.die p).plateGone

/-- An object table entry (R305). -/
structure OtEntry where
  valid : Bool
  path : Nat
  psize : Nat
  gp : Bool
  ro : Bool
  size : Nat
  root : Nat
  owner : Nat
  peer : Nat
  /-- a reserved bit or the reserved path is set -/
  bad : Bool
deriving DecidableEq, Repr

/-- Reading an object table entry; none beyond the table (R305, R307 step 1). -/
def State.otEntry (s : State) (part obj : Nat) : Option OtEntry :=
  let base := (s.part part).otbase
  if bits base 63 40 < obj then none
  else
    let a := bits base 39 12 * 4096 + 32 * obj
    let w0 := s.memWord a
    let w1 := s.memWord (a + 8)
    let w2 := s.memWord (a + 16)
    let w3 := s.memWord (a + 24)
    some { valid := w0.getLsbD 63, path := bits w0 62 61, psize := bits w0 60 60, gp := w0.getLsbD 59
           ro := w0.getLsbD 58, size := bits w0 47 0, root := bits w1 39 12 * 4096, owner := bits w2 63 48
           peer := bits w3 9 0
           bad := decide (bits w0 57 48 ≠ 0) || decide (bits w1 63 40 ≠ 0) || decide (bits w1 11 0 ≠ 0)
             || decide (bits w2 47 0 ≠ 0) || decide (bits w3 63 10 ≠ 0) || decide (bits w0 62 61 = 3) }

/-- An object's length in words (R295). -/
def State.objectWords (s : State) (part obj : Nat) : Nat :=
  match s.otEntry part obj with
  | some e => if e.valid then e.size / 10 else 0
  | none => 0

/-- The CODE value of an object: [63:40] object, [31:0] length in words (R129, R295). An armature core runs code of
its own 1 MiB instruction memory (log 13). -/
def State.codeOf (s : State) (core part obj : Nat) : Word64 :=
  let n := if isArmature core then 2 ^ 20 / 10 else s.objectWords part obj
  w64 (obj % 2 ^ 24 * 2 ^ 40 + n % 2 ^ 32)

/-! ## Records (R327, R341) -/

/-- The head word of a record with the package's next sequence number. -/
def recordHead (seq : BitVec 48) (len : Nat) : Word64 := w64 (seq.toNat * 2 ^ 16 + len * 2 ^ 8 + 0xD5)

/-- A record is made; it is numbered and written when the tick ends (R341). -/
def State.record (s : State) (kind core slot part : Nat) (body : List Word64) : State :=
  { s with recs := s.recs ++ [{ tick := s.tick, kind := kind, core := core, slot := slot, part := part, body := body }] }

/-- A fault record (R327): the event's tick is its word 3, its core stands in word 1. -/
def State.faultRecord (s : State) (part : Nat) (body : List Word64) : State :=
  { s with recs := s.recs ++ [{ tick := (body[2]?.getD 0).toNat, kind := 0, core := bits (body[0]?.getD 0) 10 0, slot := 0
                                part := part, body := body }] }

/-- Appending to the partition's fault ring, with the next number. -/
def State.ringAppend (s : State) (part : Nat) (body : List Word64) : State :=
  let p := s.part part
  let s := { s with seq := s.seq + 1 }
  s.setPart part { p with faultRing := p.faultRing ++ [recordHead (s.seq - 1) (body.length + 1) :: body] }

/-- Word 1 of a fault record (R327). -/
def faultWord1 (gang grade : Nat) (absorbed : Bool) (unit cause core : Nat) : Word64 :=
  w64 (gang % 2 ^ 32 * 2 ^ 32 + grade % 4 * 2 ^ 30 + (if absorbed then 2 ^ 29 else 0) + unit % 32 * 2 ^ 24
    + cause % 256 * 2 ^ 16 + core % 2048)

/-! ## Traps (R295, R296, R297) -/

/-- Cause codes (R296). -/
def cILLOP : Nat := 0x01
def cDEADREG : Nat := 0x02
def cPRIV : Nat := 0x03
def cMISALIGN : Nat := 0x04
def cCAPTAG : Nat := 0x05
def cCAPBOUND : Nat := 0x06
def cCAPRIGHTS : Nat := 0x07
def cOBJMISS : Nat := 0x08
def cOBJPROT : Nat := 0x09
def cATOMPATH : Nat := 0x0A
def cFORMAT : Nat := 0x0B
def cBOUND : Nat := 0x0C
def cLUGGAGE : Nat := 0x0D
def cPARTNER : Nat := 0x0E
def cSTAGE : Nat := 0x0F
def cPATTERN : Nat := 0x10
def cCUTTER : Nat := 0x11
def cUNCORR : Nat := 0x12
def cRETLOST : Nat := 0x13
def cTRAPI : Nat := 0x14
def cTIMER : Nat := 0x15
def cEXTINT : Nat := 0x16
def cDEBUG : Nat := 0x17
def cMCHECK : Nat := 0x18
def cPEER : Nat := 0x19
def cCOPY : Nat := 0x1A
def cLAUNCH : Nat := 0x1B

/-- Causes that stop the context for the armature (R296). -/
def armatureCause (c : Nat) : Bool := c == cUNCORR || c == cRETLOST || c == cMCHECK

/-- Interrupts, which are never nested faults (R297, R298). -/
def interruptCause (c : Nat) : Bool := c == cTIMER || c == cEXTINT

/-- The registers a trap writes together (R129, R295). -/
def Act.saveTrap (a : Act) (t : TrapReq) : Act :=
  { a with trap := { a.trap with
      tcause := w64 t.cause, tdetail := t.detail, taddr := t.addr, tword := t.word.setWidth 64
      svpc := a.pc.setWidth 64, svq0 := a.rdq0.toBits, svq1 := a.rdq1.toBits, svasw := a.asw, svcode := a.code } }

/-- The mode a trap enters: M from M, else S (R295). -/
def Act.trapMode (a : Act) : Nat := if a.mode = 2 then 2 else 1

/-- The vector of that mode. -/
def Act.trapVec (a : Act) : Word64 := if a.mode = 2 then a.trap.mtvec else a.trap.stvec

/-- Entering the handler, once the saved registers are written (R295): mode, TIP, IE, CODE, an empty queue, the pc. A trap ends a
WFI's wait (the model's choice; log 74). -/
def State.enterHandler (s : State) (a : Act) : Act :=
  let vec := a.trapVec
  { a with
    asw := (a.asw &&& ~~~(0xC3 : Word64)) ||| 0x80 ||| w64 a.trapMode
    code := s.codeOf a.core a.part (bits vec 63 40)
    rdq0 := {}, rdq1 := {}, pc := vec.setWidth 32, trapPend := a.traps.head?, traps := a.traps.tail, block := none }

/-- The pending trap that the context takes next: one that a wait of its own tags raised is not taken while a handler
runs (log 8). -/
def Act.duePend (a : Act) : Option TrapReq :=
  match a.trapPend with
  | some t => if t.late && a.tip then none else some t
  | none => none

/-- A gang's fault is reported to the armature with the core and the tick of its detection; the first one stands (R327). A
context of the armature's own belongs to no gang. -/
def State.noteFault (s : State) (gid : Nat) (t : TrapReq) (core : Nat) : State :=
  match tableGet? s.gangs gid with
  | none => s
  | some g => if g.faultPend.isSome then s
    else s.setGang gid { g with faultPend := some t, faultCore := core, faultTick := s.tick }

/-- Stopping for the armature (R295): the report is the gang's pending fault. -/
def State.reportStop (s : State) (aid : Nat) (t : TrapReq) : State :=
  let a := s.act aid
  (s.setAct aid { a with run := .stopped, trapPend := none }).noteFault a.gang t a.core

/-- A synchronous fault while a trap is in service: the context stops, the saved registers keep their values and the gang
is to be ended, graded requeue-never (R297). -/
def State.nestedFault (s : State) (aid : Nat) (t : TrapReq) : State :=
  let a := s.act aid
  let s := s.setAct aid { a with run := .stopped, trapPend := none }
  match tableGet? s.gangs a.gang with
  | none => s
  | some g => s.setGang a.gang { g with
      faultPend := some t, faultCore := a.core, faultTick := s.tick, endPend := some (0, 3) }

/-- RETLOST and MCHECK report an error of the machine, not of a word: they are no synchronous faults (R297, R336). -/
def machineCause (c : Nat) : Bool := c == cRETLOST || c == cMCHECK

/-- Taking a trap whose tags are free (R295). The fixed-latency results are written first, and the cycles until then pass
(R25, R100). A report of the machine
while a handler runs stops the context and leaves the registers of the trap in service (R297; log 8). -/
def State.enterTrap (s : State) (aid : Nat) (t : TrapReq) : State :=
  let s := s.settle (s.act aid).core aid
  let a := s.act aid
  if a.tip && machineCause t.cause then s.reportStop aid t
  else if a.tip && !interruptCause t.cause then s.nestedFault aid t
  else
    let a := a.saveTrap t
    let s := s.setAct aid a
    if armatureCause t.cause then s.reportStop aid t else s.setAct aid (s.enterHandler a)

/-- A trap becomes the pending one; one that is pending already comes after it. -/
def Act.pend (a : Act) (t : TrapReq) : Act :=
  { a with trapPend := some t, traps := a.trapPend.toList ++ a.traps, block := none }

/-- TAKING A TRAP: at once if every tag that is not a restartable wait is free, else it stays pending and TRAP_ENTRY
takes it (R295). -/
def State.takeTrap (s : State) (aid : Nat) (t : TrapReq) : State :=
  if s.quiet aid then s.enterTrap aid t else s.setAct aid ((s.act aid).pend t)

/-- RETURNING FROM A TRAP (R135), when it is permitted. -/
def Act.trapReturn (a : Act) : Act :=
  { a with asw := a.trap.svasw &&& aswMask, code := a.trap.svcode
           rdq0 := RdqEntry.ofBits a.trap.svq0, rdq1 := RdqEntry.ofBits a.trap.svq1, pc := a.trap.svpc.setWidth 32 }

/-! ## Interrupts (R298) -/

/-- The lowest pending external line. -/
def Act.extLine (a : Act) : Option Nat := (List.range 16).find? (fun n => a.trap.extpend.getLsbD n)

/-- TIMER is pending: recorded by TIMER_MATCH, or due now. -/
def State.timerDue (s : State) (a : Act) : Bool :=
  decide (a.trap.timecmp ≠ 0) && decide (a.trap.timecmp.toNat ≤ s.tick)

/-- An interrupt is pending, whether or not it will be taken (R138). -/
def State.intPending (s : State) (a : Act) : Bool := a.timerPend || s.timerDue a || a.extLine.isSome

/-- The interrupt that will be taken: IE set, TIP clear, TIMER first, then the lowest line. -/
def State.interruptOf (s : State) (a : Act) : Option TrapReq :=
  if a.ie && !a.tip then
    if a.timerPend || s.timerDue a then some { cause := cTIMER, detail := 0, addr := 0, word := a.pc }
    else match a.extLine with
      | some n => some { cause := cEXTINT, detail := w64 n, addr := 0, word := a.pc }
      | none => none
  else none

end Sys2Proof.Machine
end

