-- ==== Sys2Proof/Machine/Float.lean ====
section
/-! DEFINITION. Number formats: exact values, the one rounding, and the floating-point functions (R57..R73, R178). A
finite value is a sign, a natural number and a power of two, so every sum and product is exact until it is rounded. -/
namespace Sys2Proof.Machine

/-- An exact value: NaN, an infinity, or (-1)^neg · m · 2^e; zero keeps its sign. -/
inductive Val where
  | nan
  | inf (neg : Bool)
  | fin (neg : Bool) (m : Nat) (e : Int)
deriving DecidableEq, Repr

/-- A binary floating-point format (R58). -/
structure Fmt where
  width : Nat
  frac : Nat
  bias : Nat
  /-- E4M3: the top exponent encodes normal values, one code is NaN, and there is no infinity -/
  e4m3 : Bool := false
  nan : Nat
deriving DecidableEq, Repr

def fp32 : Fmt := { width := 32, frac := 23, bias := 127, nan := 0x7FC00000 }
def fp16 : Fmt := { width := 16, frac := 10, bias := 15, nan := 0x7E00 }
def bf16 : Fmt := { width := 16, frac := 7, bias := 127, nan := 0x7FC0 }
def fE4M3 : Fmt := { width := 8, frac := 3, bias := 7, e4m3 := true, nan := 0x7F }
def fE5M2 : Fmt := { width := 8, frac := 2, bias := 15, nan := 0x7E }

/-- Bits of the exponent field. -/
def Fmt.ebits (f : Fmt) : Nat := f.width - 1 - f.frac
/-- The largest significand, as an integer. -/
def Fmt.maxSig (f : Fmt) : Nat := if f.e4m3 then 14 else 2 ^ (f.frac + 1) - 1
/-- The exponent of the largest significand's last bit. -/
def Fmt.maxQ (f : Fmt) : Int := (if f.e4m3 then 8 else (2 ^ f.ebits - 2 - f.bias : Int)) - f.frac
/-- The exponent of the last bit of a subnormal. -/
def Fmt.minQ (f : Fmt) : Int := 1 - f.bias - f.frac
/-- The code of infinity, for the formats that have one. -/
def Fmt.infCode (f : Fmt) : Nat := (2 ^ f.ebits - 1) * 2 ^ f.frac
/-- The code of the largest finite value. -/
def Fmt.maxCode (f : Fmt) : Nat := if f.e4m3 then 0x7E else f.infCode - 1

/-- The value of a code (R58). -/
def Fmt.decode (f : Fmt) (x : Nat) : Val :=
  let neg := decide (x / 2 ^ (f.width - 1) % 2 = 1)
  let e := x / 2 ^ f.frac % 2 ^ f.ebits
  let m := x % 2 ^ f.frac
  if e = 0 then .fin neg m f.minQ
  else if f.e4m3 then
    if e = 15 ∧ m = 7 then .nan else .fin neg (2 ^ f.frac + m) (e - f.bias - f.frac)
  else if e = 2 ^ f.ebits - 1 then (if m = 0 then .inf neg else .nan)
  else .fin neg (2 ^ f.frac + m) (e - f.bias - f.frac)

/-- The number of bits of a natural number. -/
def bitLen (n : Nat) : Nat := if n = 0 then 0 else Nat.log2 n + 1

/-- The flags of R60 as five bits: NX, UF, OF, DZ, NV from bit 0. -/
def fNX : BitVec 5 := 1
def fUF : BitVec 5 := 2
def fOF : BitVec 5 := 4
def fDZ : BitVec 5 := 8
def fNV : BitVec 5 := 16

/-- A rounded result and the flags it raises. -/
structure FRes where
  code : Nat
  flags : BitVec 5 := 0
deriving DecidableEq, Repr

/-- What a result beyond the largest finite value becomes (R68). -/
inductive Overflow where
  | ieee
  | saturate
deriving DecidableEq, Repr

/-- m·2^e over the unit 2^q, with its remainder: (t, q, r, u), the value being (t + r/u)·2^q with r < u. -/
def splitAt (m : Nat) (e q : Int) : Nat × Int × Nat × Nat :=
  if q ≤ e then (m * 2 ^ (e - q).toNat, q, 0, 1)
  else
    let u := 2 ^ (q - e).toNat
    (m / u, q, m % u, u)

/-- The exponent of the unit of m·2^e at a format's precision, were the exponent unbounded. -/
def Fmt.freeQ (f : Fmt) (m : Nat) (e : Int) : Int := e + bitLen m - 1 - f.frac

/-- The significand, exponent and remainder of m·2^e at a format's precision. -/
def Fmt.split (f : Fmt) (m : Nat) (e : Int) : Nat × Int × Nat × Nat := splitAt m e (max (f.freeQ m e) f.minQ)

/-- Whether a mode rounds away from zero: RNE, RTZ, RUP, RDN, or SR with a 24-bit draw (R66, R67). -/
def roundUp (rm : Nat) (draw : Nat) (neg : Bool) (t r u : Nat) : Bool :=
  match rm with
  | 0 => decide (u < 2 * r) || (decide (2 * r = u) && decide (t % 2 = 1))
  | 1 => false
  | 2 => !neg && decide (0 < r)
  | 3 => neg && decide (0 < r)
  | _ => decide (0 < r) && decide (draw < 2 ^ 24 * r / u)

/-- The code of t·2^q, a value the format represents. -/
def Fmt.encode (f : Fmt) (neg : Bool) (t : Nat) (q : Int) : Nat :=
  let s := if neg then 2 ^ (f.width - 1) else 0
  if t < 2 ^ f.frac then s + t
  else
    let (t, q) := if 2 ^ (f.frac + 1) ≤ t then (t / 2, q + 1) else (t, q)
    s + (q + f.frac + f.bias).toNat * 2 ^ f.frac + t % 2 ^ f.frac

/-- The value t·2^q exceeds the largest finite magnitude. -/
def Fmt.exceeds (f : Fmt) (t : Nat) (q : Int) : Bool :=
  if q ≤ f.maxQ then decide (f.maxSig < t / 2 ^ (f.maxQ - q).toNat) || (decide (f.maxSig = t / 2 ^ (f.maxQ - q).toNat)
    && decide (t % 2 ^ (f.maxQ - q).toNat ≠ 0))
  else decide (0 < t) && decide (f.maxSig < t * 2 ^ (min (q - f.maxQ).toNat 64))

/-- Overflow by mode (R68). -/
def Fmt.overflow (f : Fmt) (ov : Overflow) (rm : Nat) (neg : Bool) : Nat :=
  let s := if neg then 2 ^ (f.width - 1) else 0
  let toInf := match rm with
    | 1 => false
    | 2 => !neg
    | 3 => neg
    | _ => true
  match ov with
  | .saturate => s + f.maxCode
  | .ieee => if toInf then (if f.e4m3 then f.nan else s + f.infCode) else s + f.maxCode

/-- Tiny after rounding (R60 UF): rounded at the format's precision with the exponent unbounded, as the OF row rounds, the
value lies below the smallest normal. -/
def Fmt.tiny (f : Fmt) (rm draw : Nat) (neg : Bool) (m : Nat) (e : Int) : Bool :=
  let q := f.freeQ m e
  if q < f.minQ then
    let (t, _, r, u) := splitAt m e q
    let t := if roundUp rm draw neg t r u then t + 1 else t
    decide (t < 2 ^ (f.frac + (f.minQ - q).toNat))
  else false

/-- THE ROUNDING: an exact non-zero value, once, to a format, with the flags of R60. -/
def Fmt.roundFin (f : Fmt) (ov : Overflow) (rm draw : Nat) (neg : Bool) (m : Nat) (e : Int) : FRes :=
  let (t, q, r, u) := f.split m e
  let t := if roundUp rm draw neg t r u then t + 1 else t
  if f.exceeds t q then { code := f.overflow ov rm neg, flags := fOF ||| fNX }
  else
    let nx : BitVec 5 := if r = 0 then 0 else fNX
    let uf : BitVec 5 := if r ≠ 0 ∧ f.tiny rm draw neg m e then fUF else 0
    { code := f.encode neg t q, flags := nx ||| uf }

/-- Rounding any value; NaN gives the canonical NaN, an infinity itself or R68's substitute. Under SR an infinity stays one
where the format has it, whatever the overflow rule (R67; log 56); an infinity raises no flag (log 55). -/
def Fmt.round (f : Fmt) (ov : Overflow) (rm draw : Nat) (x : Val) : FRes :=
  match x with
  | .nan => { code := f.nan }
  | .inf neg =>
    let s := if neg then 2 ^ (f.width - 1) else 0
    match ov with
    | .saturate => { code := s + (if rm = 4 ∧ f.e4m3 = false then f.infCode else f.maxCode) }
    | .ieee => { code := if f.e4m3 then f.nan else s + f.infCode }
  | .fin neg 0 _ => { code := if neg then 2 ^ (f.width - 1) else 0 }
  | .fin neg m e => f.roundFin ov rm draw neg m e

/-! ## Exact arithmetic -/

def Val.isNan : Val → Bool
  | .nan => true
  | _ => false
def Val.isInf : Val → Bool
  | .inf _ => true
  | _ => false
def Val.isZero : Val → Bool
  | .fin _ 0 _ => true
  | _ => false
def Val.neg? : Val → Bool
  | .nan => false
  | .inf n => n
  | .fin n _ _ => n
def Val.negate : Val → Val
  | .nan => .nan
  | .inf n => .inf (!n)
  | .fin n m e => .fin (!n) m e

/-- A finite value as an integer multiple of 2^q, for q at most its exponent. -/
def finAt (neg : Bool) (m : Nat) (e q : Int) : Int :=
  let x : Int := (m * 2 ^ (e - q).toNat : Nat)
  if neg then -x else x

/-- An integer multiple of 2^q as a value; zero is +0. -/
def Val.ofScaled (x q : Int) : Val := .fin (decide (x < 0)) x.natAbs q

/-- An integer as a value. -/
def Val.ofInt (x : Int) : Val := Val.ofScaled x 0

/-- Exact addition. The flag is NV. An exact zero sum takes its sign from the mode, but two zeros of one sign keep it
(R176). -/
def Val.add (rm : Nat) (x y : Val) : Val × BitVec 5 :=
  match x, y with
  | .nan, _ => (.nan, 0)
  | _, .nan => (.nan, 0)
  | .inf a, .inf b => if a = b then (.inf a, 0) else (.nan, fNV)
  | .inf a, .fin _ _ _ => (.inf a, 0)
  | .fin _ _ _, .inf b => (.inf b, 0)
  | .fin a m e, .fin b n g =>
    let q := min e g
    let z := finAt a m e q + finAt b n g q
    if z = 0 then
      if m = 0 ∧ n = 0 ∧ a = b then (.fin a 0 0, 0) else (.fin (decide (rm = 3)) 0 0, 0)
    else (Val.ofScaled z q, 0)

/-- Exact multiplication; 0 · ∞ is NaN with NV. -/
def Val.mul (x y : Val) : Val × BitVec 5 :=
  match x, y with
  | .nan, _ => (.nan, 0)
  | _, .nan => (.nan, 0)
  | .inf a, .inf b => (.inf (a != b), 0)
  | .inf a, .fin b n _ => if n = 0 then (.nan, fNV) else (.inf (a != b), 0)
  | .fin a m _, .inf b => if m = 0 then (.nan, fNV) else (.inf (a != b), 0)
  | .fin a m e, .fin b n g => (.fin (a != b) (m * n) (e + g), 0)

/-- Scaling by a power of two. -/
def Val.scale (x : Val) (k : Int) : Val :=
  match x with
  | .fin n m e => .fin n m (e + k)
  | v => v

/-- Order of two finite or infinite values; zeros are equal. -/
def Val.lt (x y : Val) : Bool :=
  match x, y with
  | .nan, _ => false
  | _, .nan => false
  | .inf a, .inf b => a && !b
  | .inf a, .fin _ _ _ => a
  | .fin _ _ _, .inf b => !b
  | .fin a m e, .fin b n g => decide (finAt a m e (min e g) < finAt b n g (min e g))

/-- Equality by value. -/
def Val.eq (x y : Val) : Bool :=
  match x, y with
  | .nan, _ => false
  | _, .nan => false
  | x, y => !x.lt y && !y.lt x

/-- The order of VMIN, VMAX and the trees: −0.0 below +0.0 (R72, R177). -/
def Val.ltTotal (x y : Val) : Bool := x.lt y || (x.isZero && y.isZero && x.neg? && !y.neg?)

/-! ## Scalar functions (R178) -/

/-- The integer square root by successive bits, most significant first. -/
def isqrtBits : Nat → Nat → Nat → Nat
  | 0, _, r => r
  | k + 1, n, r =>
    let t := r + 2 ^ k
    isqrtBits k n (if t * t ≤ n then t else r)

/-- The integer square root. -/
def isqrt (n : Nat) : Nat := isqrtBits (bitLen n / 2 + 1) n 0

/-- A positive value known to lie strictly between m and m + 1 units of 2^e, or to be exactly m units. -/
def sticky (m : Nat) (exact : Bool) (e : Int) : Val := .fin false (2 * m + (if exact then 0 else 1)) (e - 1)

/-- 1/(m·2^e) for m ≠ 0. -/
def recipMag (m : Nat) (e : Int) : Val :=
  let k := bitLen m + 64
  sticky (2 ^ k / m) (decide (2 ^ k % m = 0)) (-e - k)

/-- 1/√(m·2^e) for m ≠ 0. -/
def rsqrtMag (m : Nat) (e : Int) : Val :=
  let (m, e) := if e % 2 = 0 then (m, e) else (2 * m, e - 1)
  let k := bitLen m + 64
  let r := isqrt (2 ^ (2 * k) / m)
  sticky r (decide (r * r * m = 2 ^ (2 * k))) (-(e / 2) - k)

/-- Fractional bits of the working precision of 2^x and log₂ x (log 20). -/
def workBits : Nat := 320

/-- ln 2 in units of 2^-workBits: the sum of 1/(k·2^k). -/
def ln2Scaled : Nat := (List.range 340).foldl (fun acc k => acc + 2 ^ workBits / ((k + 1) * 2 ^ (k + 1))) 0

/-- The Taylor sum of e^y, y in units of 2^-workBits: terms left, index, term, sum. -/
def expTerms : Nat → Nat → Nat → Nat → Nat → Nat
  | 0, _, _, _, sum => sum
  | n + 1, k, y, term, sum =>
    let term := term * y / 2 ^ workBits / (k + 1)
    expTerms n (k + 1) y term (sum + term)

/-- 2^x for a finite x ≠ 0. Beyond ±2^10 the result is far outside every format. -/
def exp2Val (neg : Bool) (m : Nat) (e : Int) : Val :=
  if 10 < e + bitLen m then (if neg then sticky 1 false (-1000) else sticky 1 true 1000)
  else
    -- x in units of 2^-200 is exact: every format's least exponent is above
    let x : Int := finAt neg m e (-200)
    let n := x / 2 ^ 200
    let f := (x % 2 ^ 200).toNat
    if f = 0 then .fin false 1 n
    else
      let y := f * ln2Scaled / 2 ^ 200
      sticky (expTerms 80 0 y (2 ^ workBits) (2 ^ workBits)) false (n - workBits)

/-- Bits of log₂ g after the point, g in units of 2^-400 with 1 ≤ g < 2. -/
def log2Bits : Nat → Nat → Nat → Nat
  | 0, _, acc => acc
  | n + 1, g, acc =>
    let g := g * g / 2 ^ 400
    if 2 ^ 401 ≤ g then log2Bits n (g / 2) (2 * acc + 1) else log2Bits n g (2 * acc)

/-- log₂(m·2^e) for m ≠ 0. -/
def log2Val (m : Nat) (e : Int) : Val :=
  let l := bitLen m - 1
  let n : Int := e + l
  if m = 2 ^ l then Val.ofInt n
  else
    let t := log2Bits 160 (m * 2 ^ (400 - l)) 0
    let x : Int := n * 2 ^ 160 + t
    if x < 0 then .fin true (2 * x.natAbs - 1) (-161) else .fin false (2 * x.natAbs + 1) (-161)

/-- VRCP, VRSQ, VEXP2, VLOG2: 0, 1, 2, 3 (R178). -/
def fpUnary (fn : Nat) (f : Fmt) (rm : Nat) (x : Val) : FRes :=
  let done (v : Val) : FRes := f.round .ieee rm 0 v
  match fn, x with
  | _, .nan => done .nan
  | 0, .inf n => done (.fin n 0 0)
  | 0, .fin n 0 _ => { done (.inf n) with flags := fDZ }
  | 0, .fin n m e => done (if n then (recipMag m e).negate else recipMag m e)
  | 1, .inf false => done (.fin false 0 0)
  | 1, .inf true => { code := f.nan, flags := fNV }
  | 1, .fin n 0 _ => done (.inf n)
  | 1, .fin true _ _ => { code := f.nan, flags := fNV }
  | 1, .fin false m e => done (rsqrtMag m e)
  | 2, .inf false => done (.inf false)
  | 2, .inf true => done (.fin false 0 0)
  | 2, .fin _ 0 _ => done (.fin false 1 0)
  | 2, .fin n m e => done (exp2Val n m e)
  | _, .inf false => done (.inf false)
  | _, .inf true => { code := f.nan, flags := fNV }
  | _, .fin _ 0 _ => { done (.inf true) with flags := fDZ }
  | _, .fin true _ _ => { code := f.nan, flags := fNV }
  | _, .fin false m e => done (log2Val m e)

/-! ## Format tags (R65) -/

/-- The element width of a tag in bits; 0 for RAW and reserved tags. -/
def tagWidth (t : Nat) : Nat :=
  match t with
  | 1 => 8 | 2 => 8 | 3 => 16 | 4 => 32 | 5 => 64 | 6 => 32 | 7 => 16 | 8 => 16
  | 9 => 8 | 10 => 8 | 11 => 8 | 12 => 8
  | 16 => 8 | 17 => 8 | 18 => 8 | 19 => 8 | 20 => 8 | 21 => 8 | 22 => 8
  | _ => 0

/-- A tag that R65 lists. -/
def tagKnown (t : Nat) : Bool := t = 0 || tagWidth t ≠ 0
def tagInt (t : Nat) : Bool := 1 ≤ t && t ≤ 5
/-- FP32, FP16, BF16. -/
def tagFloat (t : Nat) : Bool := 6 ≤ t && t ≤ 8
def tagFp8 (t : Nat) : Bool := t = 9 || t = 10
def tagScaled (t : Nat) : Bool := t = 11 || t = 12
def tagBp (t : Nat) : Bool := 16 ≤ t && t ≤ 22
/-- The plane count of a BPk tag. -/
def bpK (t : Nat) : Nat := t - 14
def tagUnsigned (t : Nat) : Bool := t = 2
/-- The tag has a block word. -/
def tagBlock (t : Nat) : Bool := tagScaled t || tagBp t

/-- The floating-point format of a tag's elements. -/
def tagFmt (t : Nat) : Fmt :=
  match t with
  | 6 => fp32 | 7 => fp16 | 8 => bf16 | 9 => fE4M3 | 11 => fE4M3 | _ => fE5M2

/-- Elements per register. -/
def tagCount (t : Nat) : Nat := if tagWidth t = 0 then 64 else 512 / tagWidth t

/-- A block word with only the bits its tag defines (R62, R63); any word is legal for a tag without one, which then
holds zero. -/
def bwOk (t : Nat) (bw : BitVec 32) : Bool :=
  if tagScaled t then bw &&& 0xFE00FE00 == 0
  else if tagBp t then bw &&& 0xFFFE0000 == 0
  else true

/-- A register may hold the tag, and with it the block word: zero for a tag without one (R62, R63, R65). -/
def VReg.legal (x : VReg) : Bool :=
  tagKnown x.tag.toNat && bwOk x.tag.toNat x.bw && (tagBlock x.tag.toNat || x.bw == 0)

/-- An integer element's value. -/
def intVal (t x : Nat) : Int := if tagUnsigned t then (x % 256 : Nat) else sextNat x (tagWidth t)

/-- The least and greatest integers of a tag. -/
def intMin (t : Nat) : Int := if tagUnsigned t then 0 else -(2 ^ (tagWidth t - 1) : Int)
def intMax (t : Nat) : Int := if tagUnsigned t then 255 else 2 ^ (tagWidth t - 1) - 1
def clampInt (t : Nat) (x : Int) : Int := if x < intMin t then intMin t else if intMax t < x then intMax t else x
/-- An integer's bits in w bits. -/
def intBits (w : Nat) (x : Int) : Nat := (x % (2 ^ w : Int)).toNat

/-- The value of a scaled or bit-plane element: block scale applied exactly (R61, R64). -/
def scaledVal (t x e : Nat) : Val := if e = 511 then .nan else ((tagFmt t).decode x).scale ((e : Int) - 255)
def bpVal (k x z e : Nat) : Val :=
  if e = 511 then .nan
  else (Val.ofInt ((x % 2 ^ k : Nat) - (z / 2 ^ (8 - k) : Nat) : Int)).scale ((8 - k : Nat) + (e : Int) - 255)

/-- The exact value of element i of a register with tag t and block word bw, whose code is x. -/
def elemVal (t : Nat) (bw : BitVec 32) (i x : Nat) : Val :=
  if tagInt t then Val.ofInt (intVal t x)
  else if tagScaled t then scaledVal t x (if i < 32 then bw.toNat % 512 else bw.toNat / 2 ^ 16 % 512)
  else if tagBp t then bpVal (bpK t) x (bw.toNat / 2 ^ 9 % 256) (bw.toNat % 512)
  else (tagFmt t).decode x

/-! ## Conversions (R68) -/

/-- A finite value rounded to an integer by the mode: the integer and whether it is exact. -/
def roundInt (rm draw : Nat) (neg : Bool) (m : Nat) (e : Int) : Int × Bool :=
  if 0 ≤ e then (finAt neg m e 0, true)
  else
    let u := 2 ^ (-e).toNat
    let t := m / u
    let r := m % u
    let t := if roundUp rm draw neg t r u then t + 1 else t
    ((if neg then -(t : Int) else t), decide (r = 0))

/-- Float (or bit-plane) to integer: rounded, then saturated; NaN gives 0 (R68). -/
def toIntElem (t rm draw : Nat) (x : Val) : FRes :=
  let w := tagWidth t
  match x with
  | .nan => { code := 0, flags := fNV }
  | .inf n => { code := intBits w (if n then intMin t else intMax t), flags := fNV }
  | .fin n m e =>
    let (i, exact) := roundInt rm draw n m e
    if i < intMin t ∨ intMax t < i then { code := intBits w (clampInt t i), flags := fNV }
    else { code := intBits w i, flags := if exact then 0 else fNX }

/-- One element converted to a destination tag (R68). `e` is the destination block's scale for a scaled format. -/
def convElem (src dst rm draw : Nat) (ieee : Bool) (e : Nat) (x : Val) : FRes :=
  if tagInt dst then
    if tagInt src then
      match x with
      | .fin n m _ => { code := intBits (tagWidth dst) (clampInt dst (if n then -(m : Int) else m)) }
      | _ => { code := 0 }
    else toIntElem dst rm draw x
  else
    let f := tagFmt dst
    let fp8 := tagFp8 dst || tagScaled dst
    let x := if tagScaled dst then x.scale (255 - (e : Int)) else x
    f.round (if fp8 && !ieee then .saturate else .ieee) rm draw x

/-- SRSTATE's advance (R67). -/
def srNext (x : Word64) : Word64 :=
  let x := if x = 0 then 1 else x
  let x := x ^^^ (x <<< 13)
  let x := x ^^^ (x >>> 7)
  x ^^^ (x <<< 17)

/-- The 24-bit draw of a state (R67). -/
def srDraw (x : Word64) : Nat := bits x 63 40

/-! ## Sums of matrix products (R69, R70) -/

/-- The exact sum of a chunk's products: NaN, an infinity, or a finite sum whose zero is −0.0 only when every product is
−0.0 (R70). -/
def chunkSum (ps : List Val) : Val :=
  let anyNan := ps.any Val.isNan
  let pos := ps.any (fun v => v.isInf && !v.neg?)
  let neg := ps.any (fun v => v.isInf && v.neg?)
  if anyNan || (pos && neg) then .nan
  else if pos then .inf false
  else if neg then .inf true
  else
    let q : Int := ps.foldl (fun q v => match v with | .fin _ _ e => min q e | _ => q) 0
    let z : Int := ps.foldl (fun z v => match v with | .fin n m e => z + finAt n m e q | _ => z) 0
    if z = 0 then .fin (!ps.isEmpty && ps.all (fun v => v.isZero && v.neg?)) 0 0 else Val.ofScaled z q

/-- Rounding to FP32 by RNE, no flags. -/
def toFp32 (x : Val) : Nat := (fp32.round .ieee 0 0 x).code

/-- FP32 addition by RNE of codes. -/
def addFp32 (x y : Nat) : Nat := toFp32 ((fp32.decode x).add 0 (fp32.decode y)).1

/-- FP32 arithmetic by RNE in a format. -/
def addFmt (f : Fmt) (x y : Val) : Nat := (f.round .ieee 0 0 (x.add 0 y).1).code

/-! ## Trees and scans (R72, R73) -/

/-- One node over FP32 codes: 0 sum, 1 max, 2 min. -/
def fpNode (op rm : Nat) (x y : Nat) : FRes :=
  let a := fp32.decode x
  let b := fp32.decode y
  match op with
  | 0 =>
    let (v, nv) := a.add rm b
    let r := fp32.round .ieee rm 0 v
    { r with flags := r.flags ||| nv }
  | 1 => if a.isNan || b.isNan then { code := fp32.nan } else { code := if a.ltTotal b then y else x }
  | _ => if a.isNan || b.isNan then { code := fp32.nan } else { code := if b.ltTotal a then y else x }

/-- One node over integers of tag t: codes of width w. -/
def intNode (t op : Nat) (x y : Nat) : FRes :=
  let a := intVal t x
  let b := intVal t y
  match op with
  | 0 => { code := intBits (tagWidth t) (a + b) }
  | 1 => { code := if a < b then y else x }
  | _ => { code := if b < a then y else x }

/-- The identity of an operation (R72). -/
def treeIdentity (t op : Nat) : Nat :=
  if tagInt t then
    match op with
    | 0 => 0
    | 1 => intBits (tagWidth t) (intMin t)
    | _ => intBits (tagWidth t) (intMax t)
  else match op with
    | 0 => 0x80000000
    | 1 => 0xFF800000
    | _ => 0x7F800000

/-- One level of the tree: neighbours combined. -/
def treeLevel (node : Nat → Nat → FRes) : List Nat → List Nat × BitVec 5
  | a :: b :: r =>
    let n := node a b
    let (l, f) := treeLevel node r
    (n.code :: l, f ||| n.flags)
  | l => (l, 0)

/-- The whole tree, level by level. -/
def treeAll (node : Nat → Nat → FRes) : Nat → List Nat → BitVec 5 → List Nat × BitVec 5
  | 0, l, f => (l, f)
  | n + 1, l, f =>
    match l with
    | _ :: _ :: _ =>
      let (l', g) := treeLevel node l
      treeAll node n l' (f ||| g)
    | _ => (l, f)

/-- The reduction of a list in the fixed tree. -/
def treeReduce (node : Nat → Nat → FRes) (l : List Nat) : Nat × BitVec 5 :=
  let (r, f) := treeAll node 7 l 0
  (r.headD 0, f)

/-- One step of the scan at distance d. -/
def scanStep (node : Nat → Nat → FRes) (d : Nat) (l : List Nat) : List Nat × BitVec 5 :=
  let n := (List.zip l (l.drop d)).map (fun x => node x.1 x.2)
  (l.take d ++ n.map (·.code), n.foldl (fun f r => f ||| r.flags) 0)

/-- Inclusive prefixes in log₂ steps. -/
def scanAll (node : Nat → Nat → FRes) : Nat → Nat → List Nat → BitVec 5 → List Nat × BitVec 5
  | 0, _, l, f => (l, f)
  | n + 1, d, l, f =>
    if d < l.length then
      let (l', g) := scanStep node d l
      scanAll node n (2 * d) l' (f ||| g)
    else (l, f)

end Sys2Proof.Machine
end

