-- ==== Sys2Proof/Machine/Mem.lean ====
section
/-! DEFINITION. Memories: capability checks, local memory and scratchpad, translation, home-port accesses with hidden
tags, poison, mould logging and merged reductions, the L1 read cache, and requests (R39..R50, R152..R155, R161..R165,
R305..R308, R330, R331, R357). -/
namespace Sys2Proof.Machine

/-! ## Capabilities (R47, R48) -/

def KReg.object (k : KReg) : Nat := k.bits.toNat / 2 ^ 104
def KReg.reserved (k : KReg) : Bool := k.bits.getLsbD 103
/-- Rights in the order of bits [102:96]: S 64, G 32, C 16, A 8, X 4, W 2, R 1. -/
def KReg.rights (k : KReg) : Nat := k.bits.toNat / 2 ^ 96 % 128
def KReg.hi (k : KReg) : Nat := k.bits.toNat / 2 ^ 48 % 2 ^ 48
def KReg.lo (k : KReg) : Nat := k.bits.toNat % 2 ^ 48
def rR : Nat := 1
def rW : Nat := 2
def rX : Nat := 4
def rA : Nat := 8
def rC : Nat := 16
def rG : Nat := 32
def rS : Nat := 64

/-- A capability from its fields. -/
def KReg.make (object rights hi lo : Nat) (valid : Bool) : KReg :=
  { bits := BitVec.ofNat 128 (object % 2 ^ 24 * 2 ^ 104 + rights % 128 * 2 ^ 96 + hi % 2 ^ 48 * 2 ^ 48 + lo % 2 ^ 48)
    valid := valid }

/-- Rights `need` are all held. -/
def hasRights (have_ need : Nat) : Bool := have_ &&& need == need

/-- A fault of a word: cause, detail, address. -/
structure Trap where
  cause : Nat
  detail : Word64 := 0
  addr : Word64 := 0
deriving DecidableEq, Repr

def mkTrap (cause detail : Nat) (addr : Word64 := 0) : Trap := { cause := cause, detail := w64 detail, addr := addr }

/-- The checks of R48 for an access of n bytes at the signed offset o through k[kn]; the byte within the object. -/
def capCheck (k : KReg) (kn need opcode : Nat) (o : Word64) (n : Nat) : Except Trap Nat :=
  let a : Int := k.lo + o.toInt
  if !k.valid then .error (mkTrap cCAPTAG kn)
  else if k.reserved || !hasRights k.rights need then .error (mkTrap cCAPRIGHTS (kn + need * 256))
  else if a < k.lo ∨ (k.hi : Int) < a + n then .error (mkTrap cCAPBOUND (opcode * 256) o)
  else .ok a.toNat

/-! ## Local memory and scratchpad (R41, R42, R44) -/

/-- The first byte of a visitor slot's half. -/
def visitorBase (slot : Nat) : Nat := if slot = 6 then 0x60000 else 0x70000

def Party.l0 (p : Party) : Nat := bits p.luggage 18 0
def Party.len (p : Party) : Nat := bits p.luggage 35 20

/-- Where [o, o + n) of the activity's local memory lies in the executing core's memory: its allocation at home, its luggage
in a visitor slot; none when it lies outside. -/
def Act.lmAddr (a : Act) (o n : Nat) : Option Nat :=
  if a.visitor then
    match a.party with
    | some p => if p.l0 ≤ o ∧ o + n ≤ p.l0 + p.len then some (visitorBase a.slot + (o - p.l0)) else none
    | none => none
  else if a.lmBase ≤ o ∧ o + n ≤ a.lmBase + a.lmLen then some o else none

/-- [o, o + n) lies in the scratchpad allocation (R44). -/
def Act.qsOk (a : Act) (o n : Nat) : Bool := decide (a.qsBase ≤ o) && decide (o + n ≤ a.qsBase + a.qsLen)

/-- The quad whose scratchpad the activity reaches. -/
def Act.quad (a : Act) : Nat := coreQuad a.core

/-- Alignment, then range, of a local access (R152): the offset in the core's memory. -/
def Act.lmCheck (a : Act) (opcode : Nat) (o : Word64) (n align : Nat) : Except Trap Nat :=
  if o.toNat % align ≠ 0 then .error (mkTrap cMISALIGN opcode o)
  else match a.lmAddr o.toNat n with
    | some x => .ok x
    | none => .error (mkTrap cCAPBOUND (1 + opcode * 256) o)

/-- The same for the scratchpad. -/
def Act.qsCheck (a : Act) (opcode : Nat) (o : Word64) (n align : Nat) : Except Trap Nat :=
  if o.toNat % align ≠ 0 then .error (mkTrap cMISALIGN opcode o)
  else if a.qsOk o.toNat n then .ok o.toNat else .error (mkTrap cCAPBOUND (2 + opcode * 256) o)

/-- A range of bytes touches a poisoned line. -/
def poisoned (m : Sparse Bool) (a n : Nat) : Bool :=
  (List.range (n / 64 + 2)).any (fun i => decide ((a / 64 + i) * 64 < a + n) && sparseGet false m (a / 64 + i))

/-- The first byte of a range that lies in a poisoned line: the address of the bad data (R215, R296). -/
def badByte (m : Sparse Bool) (a n : Nat) : Option Nat :=
  ((List.range (n / 64 + 2)).find? (fun i => decide ((a / 64 + i) * 64 < a + n) && sparseGet false m (a / 64 + i))).map
    (fun i => max a ((a / 64 + i) * 64))

/-- UNCORR's detail (R296). -/
def uncorrDetail (unit space object : Nat) : Word64 := w64 (unit + space * 32 + object % 2 ^ 24 * 256)

/-- The poison a read of local memory picks up. TADDR is the bad data's offset in the core's local memory: for a party in a visitor slot,
the one in its visitor area and not the one its program used (the model's choice; log 68). -/
def State.lmPoisonOf (s : State) (c a n : Nat) : Option Poison :=
  (badByte (s.core c).lmPoison a n).map (fun b => { detail := uncorrDetail 1 1 0, addr := w64 b })

/-- The poison a read of the scratchpad picks up. -/
def State.qsPoisonOf (s : State) (q a n : Nat) : Option Poison :=
  (badByte (s.quad q).qsPoison a n).map (fun b => { detail := uncorrDetail 2 2 0, addr := w64 b })

/-- The lines that [a, a + n) touches. -/
def linesOf (a n : Nat) : List Nat := if n = 0 then [] else (List.range ((a + n - 1) / 64 + 1 - a / 64)).map (a / 64 + ·)

/-- The gang's supersteps are logged and replayed: it is flagged BSP and still runs (R329). -/
def Gang.logs (g : Gang) : Bool := g.lrec.bsp && g.stage == .eligible

/-- A BSP gang's superstep becomes not replayable (R331). -/
def State.unreplayable (s : State) (g : Nat) : State :=
  let x := s.gang g
  if x.logs then s.setGang g { x with replayable := false } else s

/-- The same by a write of a core, and by a full mould of a quad (R277, R331). -/
def State.badWrite (s : State) (g core : Nat) : State :=
  let x := s.gang g
  if x.logs then s.setGang g { x with replayable := false, badCores := core :: x.badCores } else s
def State.badMould (s : State) (g quad : Nat) : State :=
  let x := s.gang g
  if x.logs then s.setGang g { x with replayable := false, badQuads := quad :: x.badQuads } else s

/-- Logging a local-memory line before a gang's first write to it in the epoch (R330, R331). -/
def State.lmLog (s : State) (g c line : Nat) : State :=
  let core := s.core c
  if !(s.gang g).logs || core.mould.any (fun e => e.gang == g && e.line == line) then s
  else if 2048 ≤ core.mould.length then s.badMould g (coreQuad c)
  else
    let e : MouldEntry := { gang := g, space := 1, line := line, data := sparseRead core.lm (line * 64) 64
                            poison := sparseGet false core.lmPoison line }
    s.setCore c { core with mould := e :: core.mould }

/-- Logging a scratchpad line. -/
def State.qsLog (s : State) (g q line : Nat) : State :=
  let quad := s.quad q
  if !(s.gang g).logs || quad.mould.any (fun e => e.gang == g && e.line == line) then s
  else if 16384 ≤ quad.mould.length then s.badMould g q
  else
    let e : MouldEntry := { gang := g, space := 2, line := line, data := sparseRead quad.qs (line * 64) 64
                            poison := sparseGet false quad.qsPoison line }
    s.setQuad q { quad with mould := e :: quad.mould }

/-- A line of a visitor half, which lies in no allocation and is not logged: that the gang wrote it in its epoch is kept
(R332). -/
def State.halfLog (s : State) (g c line : Nat) : State :=
  let core := s.core c
  if !(s.gang g).logs || core.halfLines.contains (g, line) then s
  else s.setCore c { core with halfLines := (g, line) :: core.halfLines }

/-- Clearing poison of the lines that a write covers whole (R155). -/
def cleanWhole (m : Sparse Bool) (a n : Nat) : Sparse Bool :=
  (linesOf a n).foldl (fun m l => if a ≤ l * 64 ∧ l * 64 + 64 ≤ a + n then sparseSet false m l false else m) m

/-- Writing local memory for a gang, logged; `whole` writes each line as one access. -/
def State.lmWrite (s : State) (g c a : Nat) (bs : List Byte) (mask : List Bool) (whole : Bool) : State :=
  let s := (linesOf a bs.length).foldl (fun (s : State) l => if l * 64 < 0x60000 then s.lmLog g c l else s.halfLog g c l) s
  let core := s.core c
  s.setCore c { core with
    lm := sparseWriteMasked core.lm a bs mask
    lmPoison := if whole && mask.all id then cleanWhole core.lmPoison a bs.length else core.lmPoison }

/-- Writing the scratchpad. -/
def State.qsWrite (s : State) (g q a : Nat) (bs : List Byte) (mask : List Bool) (whole : Bool) : State :=
  let s := (linesOf a bs.length).foldl (fun (s : State) l => s.qsLog g q l) s
  let quad := s.quad q
  s.setQuad q { quad with
    qs := sparseWriteMasked quad.qs a bs mask
    qsPoison := if whole && mask.all id then cleanWhole quad.qsPoison a bs.length else quad.qsPoison }

def State.lmRead (s : State) (c a n : Nat) : List Byte := sparseRead (s.core c).lm a n
def State.qsRead (s : State) (q a n : Nat) : List Byte := sparseRead (s.quad q).qs a n

/-- The unit that reads an uncorrectable line records it for the gang and judges whether it is restorable (R332): a line
written in the current epoch has a log entry of the gang. -/
def State.noteUncorr (s : State) (g : Nat) (p : Poison) (restorable : Bool) : State :=
  let x := s.gang g
  s.setGang g { x with judged := x.judged ++ [(p.detail, p.addr, restorable)] }

def State.lmLogged (s : State) (g c a : Nat) : Bool :=
  (s.core c).mould.any (fun e => e.gang == g && e.line == a / 64) || (s.core c).halfLines.contains (g, a / 64)
def State.qsLogged (s : State) (g q a : Nat) : Bool := (s.quad q).mould.any (fun e => e.gang == g && e.line == a / 64)

/-! ## Translation (R305..R308, R357) -/

/-- An access as translation checks it. `atom`: 0 plain, 1 an atomic that a host object allows, 2 another atomic, SIGNAL
or WAITMEM, 3 a CST (R164). -/
structure Access where
  object : Nat
  offset : Nat
  bytes : Nat
  write : Bool
  atom : Nat := 0
deriving DecidableEq, Repr

/-- OBJMISS or OBJPROT with the detail of R296. -/
def objTrap (cause : Nat) (x : Access) : Trap :=
  mkTrap cause (x.object % 2 ^ 24 + (if x.write then 2 ^ 24 else 0)) (w64 x.offset)

/-- Steps 2 and 5 of R307 with the rules of R164, on a translation. -/
def accessFault (e : OtcEntry) (x : Access) : Option Trap :=
  if e.size < x.offset + x.bytes then some (objTrap cOBJPROT x)
  else if x.write ∧ (e.ro = true ∨ e.w = false ∨ e.cow = true) then some (objTrap cOBJPROT x)
  else match e.path, x.atom with
    | .device, _ => none
    | .window, _ => none
    | _, 0 => none
    | _, 3 => some (objTrap cOBJPROT x)
    | .host, 1 => none
    | .host, _ => some (mkTrap cATOMPATH 1 (w64 x.offset))
    | .peer, _ => some (mkTrap cATOMPATH 2 (w64 x.offset))

/-- The page size's shift. -/
def pageShift (psize : Nat) : Nat := if psize = 1 then 21 else 16

/-- The indexes into the levels of a page table, root first (R306). -/
def levelIndexes (psize o : Nat) : List Nat :=
  if psize = 1 then [o / 2 ^ 39 % 512, o / 2 ^ 30 % 512, o / 2 ^ 21 % 512]
  else [o / 2 ^ 43 % 32, o / 2 ^ 34 % 512, o / 2 ^ 25 % 512, o / 2 ^ 16 % 512]

/-- The entries on the path of a walk: each one's address and value. A node outside the stacks ends the path. -/
def State.walkPath (s : State) (part : Nat) : List Nat → Nat → List (Nat × Word64)
  | [], _ => []
  | i :: is, node =>
    let a := node + 8 * i
    if s.inStacks part a then
      let e := s.memWord a
      (a, e) :: (if e.getLsbD 63 then s.walkPath part is (bits e 47 12 * 4096) else [])
    else [(a, 0x1000000000000 ||| 0x8000000000000000)]

/-- A present entry that step 4 of R307 rejects: reserved bits, or an interior address off its alignment. -/
def entryBad (leaf : Bool) (e : Word64) : Bool :=
  decide (bits e 60 48 ≠ 0) || (!leaf && decide (bits e 11 0 ≠ 0))

/-- A walk: the translation, or the first failing step's outcome (R307). A peer object is translated by its own package's
tables (R305); only a device object is gang-private (R330, R331). -/
def State.walk (s : State) (part : Nat) (x : Access) : Except Trap (OtcEntry × Nat) :=
  match s.otEntry part x.object with
  | none => .error (objTrap cOBJPROT x)
  | some t =>
    if t.valid = false ∨ t.bad = true then .error (objTrap cOBJPROT x)
    else if t.size < x.offset + x.bytes then .error (objTrap cOBJPROT x)
    else
      let sh := pageShift t.psize
      let page := x.offset / 2 ^ sh
      if t.path = 2 then
        match tableGet? s.peerObjs (t.peer * 2 ^ 24 + x.object) with
        | none => .error (objTrap cOBJPROT x)
        | some po =>
          let page := x.offset / 2 ^ pageShift po.psize
          if po.size < x.offset + x.bytes then .error (objTrap cOBJPROT x)
          else match tableGet? po.pages page with
          | none => .error (objTrap cOBJMISS x)
          | some pg =>
            let e : OtcEntry :=
              { object := x.object, page := page, psize := po.psize, size := min t.size po.size, frame := 0, w := pg.w
                cow := pg.cow, ro := t.ro || po.ro, path := .peer, gp := false, peer := t.peer }
            match accessFault e x with
            | some f => .error f
            | none => .ok (e, 0)
      else
        let idx := levelIndexes t.psize x.offset
        let path := s.walkPath part idx t.root
        let leaf := path.getLastD (0, 0)
        let full := decide (path.length = idx.length)
        if path.any (fun p => !p.2.getLsbD 63) then .error (objTrap cOBJMISS x)
        else if !full || path.dropLast.any (fun p => entryBad false p.2) || entryBad true leaf.2 then
          .error (objTrap cOBJPROT x)
        else
          let frame := bits leaf.2 47 0
          let inside := t.path ≠ 0 || (s.inStacks part frame && s.inStacks part (frame + 2 ^ sh - 1))
          if frame % 2 ^ sh ≠ 0 ∨ inside = false then .error (objTrap cOBJPROT x)
          else
            let e : OtcEntry :=
              { object := x.object, page := page, psize := t.psize, size := t.size, frame := frame
                w := leaf.2.getLsbD 62, cow := leaf.2.getLsbD 61, ro := t.ro
                path := if t.path = 1 then .host else .device, gp := t.gp && decide (t.path = 0), owner := t.owner }
            match accessFault e x with
            | some f => .error f
            | none => .ok (e, leaf.1)

/-- The home address of an access under a translation. -/
def OtcEntry.addr (e : OtcEntry) (o : Nat) : Nat :=
  match e.path with
  | .device => e.frame + o % 2 ^ pageShift e.psize
  | .host => hostBase + e.frame + o % 2 ^ pageShift e.psize
  | .peer => peerAddr e.peer e.object o
  | .window => windowBase + o

/-- A cached translation for an access, if there is one (R308). -/
def Core.otcFind (c : Core) (x : Access) : Option OtcEntry :=
  c.otc.find? (fun e => e.object == x.object && e.page == x.offset / 2 ^ pageShift e.psize)

/-- Using or filling an entry: most recently used first, at most 128 (R308). -/
def Core.otcUse (c : Core) (e : OtcEntry) : Core :=
  { c with otc := (e :: c.otc.filter (fun f => !(f.object == e.object && f.page == e.page && f.psize == e.psize))).take 128 }

/-- What a lookup finds: a translation, a fault, or a miss that needs a walk (R152 steps 3, 4). -/
inductive Lookup where
  | hit (e : OtcEntry)
  | fault (t : Trap)
  | miss
deriving DecidableEq, Repr

/-- The lookup of a core's access. An armature core keeps no cached translations here: each of its accesses walks at
once, and its window object needs none (log 12). -/
def State.lookup (s : State) (c part : Nat) (x : Access) : Lookup :=
  if isArmature c then
    if x.object = Config.windowObject.toNat then
      .hit { object := x.object, page := 0, psize := 0, size := 2 ^ 24, frame := part * 2 ^ 24, w := true, cow := false
             ro := false, path := .window, gp := false }
    else match s.walk part x with
      | .ok (e, _) => .hit e
      | .error t => .fault t
  else match (s.core c).otcFind x with
    | some e => (match accessFault e x with | some t => .fault t | none => .hit e)
    | none => .miss

/-! ## The home ports -/

/-- The home port of a device line: port number within the package (R357). -/
def homePort (a : Nat) : Nat := a / 2 ^ 37 * 16 + a / 64 % 16

/-- The memory ports of a partition in increasing port index (R307, R338). -/
def State.partPorts (s : State) (part : Nat) : List Nat :=
  ((List.range 8).filter (fun d => s.diePart d == part && !(s.die d).plateGone)).flatMap
    (fun d => (List.range 16).map (16 * d + ·))

/-- The port at which a page's 2 MiB region is walked (R307). -/
def State.walkPort (s : State) (part object offset : Nat) : Option Nat :=
  let ports := s.partPorts part
  let h := mix (BitVec.ofNat 32 object ^^^ mix (BitVec.ofNat 32 (offset / 2 ^ 21 % 2 ^ 27)))
  ports[h.toNat % max ports.length 1]?

/-- The port of this package at which a request is performed: its line's home, for a host object the walk port of its region
(R357). A peer object's line is performed in its package, the window on the I/O die. -/
def State.reqPort (s : State) (r : Req) : Option Nat :=
  match r.path with
  | .device => some (homePort r.addr)
  | .host => s.walkPort r.part r.object r.offset
  | _ => none

/-! ## The memory-side caches (R1, R7, R332, R334) -/

/-- The plate whose cache may hold a line. -/
def mcDie (line : Nat) : Option Nat := if line < 2 ^ 34 then some (line / 2 ^ 31) else none

/-- The copy of a line. -/
def State.mcLine? (s : State) (line : Nat) : Option McLine :=
  match mcDie line with
  | some d => tableGet? (s.die d).mcache line
  | none => none

/-- Bytes of which a clean copy carries an uncorrectable error. -/
def State.copyBad (s : State) (a n : Nat) : Bool :=
  (linesOf a n).any (fun l => match s.mcLine? l with | some x => x.bad | none => false)

/-- The unit that reports an uncorrectable error at home addresses: 7 the stack, 6 the memory-side cache (R326). -/
def State.badUnit (s : State) (a n : Nat) : Option Nat :=
  if poisoned s.memPoison a n then some 7 else if s.copyBad a n then some 6 else none

/-- The first byte that such an error holds. -/
def State.badAt (s : State) (a n : Nat) : Nat :=
  match badByte s.memPoison a n with
  | some b => b
  | none => max a (64 * ((linesOf a n).find? (fun l => s.copyBad (64 * l) 1)).getD 0)

/-- Placing a copy; a full cache writes back and drops one, a free value saying which (log 44). -/
def State.mcPut (s : State) (line : Nat) (x : McLine) : State :=
  match mcDie line with
  | none => s
  | some d =>
    if (s.die d).gatedWays.contains (line % 16) then s
    else
    let t := tableErase (s.die d).mcache line
    if (s.die d).plateGone then s
    else if t.length < 2 ^ 19 then s.setDie d { s.die d with mcache := tableSet t line x }
    else
      let t := t.eraseIdx ((Config.freeWord s.draws).toNat % t.length)
      ({ s with draws := s.draws + 1 }).setDie d { s.die d with mcache := tableSet t line x }

/-- A read at a home port leaves a copy of its line. -/
def State.mcRead (s : State) (line : Nat) : State :=
  match s.mcLine? line with
  | some _ => s
  | none => s.mcPut line {}

/-- A write makes the copy dirty. One that does not cover the line leaves an uncorrectable copy's line poisoned (R155). -/
def State.mcWrite (s : State) (line : Nat) (whole : Bool) : State :=
  let s := if s.copyBad (64 * line) 1 && !whole then { s with memPoison := sparseSet false s.memPoison line true } else s
  s.mcPut line { dirty := true }

/-- An uncorrectable clean copy that has been read is dropped: the line is fetched again (log 44). -/
def State.mcRefetch (s : State) (a n : Nat) : State :=
  (linesOf a n).foldl (fun (s : State) l =>
    match mcDie l, s.mcLine? l with
    | some d, some x => if x.bad then s.setDie d { s.die d with mcache := tableErase (s.die d).mcache l } else s
    | _, _ => s) s

/-- Logging a device line of a gang-private object before the gang's first write to it in the epoch; a write of the gang
elsewhere makes the superstep not replayable (R330, R331). -/
def State.devLog (s : State) (g core line : Nat) (gp : Bool) (owner : Nat) : State :=
  let x := s.gang g
  if !x.logs then s
  else if !(gp && owner == x.owner && owner != 0) then s.badWrite g core
  else if s.journals.any (fun e => e.2.gang == g && e.2.line == line) then s
  else
    let port := homePort (line * 64)
    if 65536 ≤ (s.journals.filter (fun e => e.1 == port)).length then s.badWrite g core
    else
      { s with journals := (port, { gang := g, space := 0, line := line, data := s.memRead (line * 64) 64
                                    tags := (List.range 4).map (fun i => sparseGet false s.memTags (line * 4 + i))
                                    poison := sparseGet false s.memPoison line }) :: s.journals }

/-- A read at a home address compared with a wait's condition: 0 eq, 1 ne, 2 geu, 3 ltu, 4 ge, 5 lt (R165). -/
def waitHolds (cond n : Nat) (x y : Nat) : Bool :=
  let x := x % 2 ^ (8 * n)
  let y := y % 2 ^ (8 * n)
  match cond with
  | 0 => decide (x = y)
  | 1 => decide (x ≠ y)
  | 2 => decide (y ≤ x)
  | 3 => decide (x < y)
  | 4 => decide (sextNat y (8 * n) ≤ sextNat x (8 * n))
  | _ => decide (sextNat x (8 * n) < sextNat y (8 * n))

/-- The poison a read of a home line picks up: reporting unit, object, byte. -/
def State.devPoisonOf (s : State) (r : Req) : Option Poison :=
  match s.badUnit r.addr r.bytes with
  | some u => some { detail := uncorrDetail u (if r.path = .device then 0 else 3) r.object, addr := w64 r.offset }
  | none => none

/-- The uncorrectable line that a request reads is restorable: its gang wrote and logged it in the current epoch, or it is
a clean copy (R8, R332). -/
def State.restorable (s : State) (r : Req) : Bool :=
  s.journals.any (fun e => e.2.gang == r.gang && e.2.line == r.addr / 64) || !poisoned s.memPoison r.addr r.bytes

/-- The port records an uncorrectable line for the gang that reads it, and judges it, at the read (R332). -/
def State.noteRead (s : State) (r : Req) (p : Option Poison) : State :=
  match p with
  | some q => (s.noteUncorr r.gang q (s.restorable r)).mcRefetch r.addr r.bytes
  | none => s

/-- A wait that is comparing at its home: it holds no other access up. -/
def Req.compares (r : Req) : Bool :=
  match r.kind with
  | .wait _ _ => decide (r.arrived ≠ 0)
  | _ => false

/-- A comparison of one wait (R165): a satisfying value or uncorrectable data answers it. -/
def State.compareWait (s : State) (r : Req) : Option Reply :=
  match r.kind with
  | .wait cond y =>
    match s.devPoisonOf r with
    | some p => some { poison := some p }
    | none =>
      let bs := s.memRead r.addr r.bytes
      if waitHolds cond r.bytes (bytesToNat bs) y.toNat then some { data := bs } else none
  | _ => none

/-- A wait compares at its home, and is answered if that ends it (R165). -/
def State.answerWait (s : State) (rid : Nat) (r : Req) : State :=
  match s.compareWait r with
  | some rep => ({ s with reqs := tableSet s.reqs rid { r with performed := some rep } }).noteRead r rep.poison
  | none => s

/-- After a write to [a, a + n): every wait that has arrived there compares (R165). -/
def State.notifyWaits (s : State) (a n : Nat) : State :=
  (s.reqs.filter (fun x => x.2.compares && x.2.performed == none && decide (x.2.addr < a + n)
    && decide (a < x.2.addr + x.2.bytes))).foldl (fun (s : State) x => s.answerWait x.1 x.2) s

/-- The home address of a partition's object byte, translated by a walk that no core caches (scheduler accesses). -/
def State.objAddr (s : State) (part object offset bytes : Nat) (write : Bool) : Option Nat :=
  match s.walk part { object := object, offset := offset, bytes := bytes, write := write } with
  | .ok (e, _) => some (e.addr offset)
  | .error _ => none

/-- A launch's dependence counter is at its threshold. -/
def State.depReached (s : State) (g : Gang) : Bool :=
  match s.objAddr g.part g.lrec.depObj g.lrec.depOff 8 false with
  | some a => decide (g.lrec.threshold ≤ (s.memWord a).toNat)
  | none => false

/-- After a write to [a, a + n): every registered dependence on it is compared (R314). -/
def State.notifyDeps (s : State) (a n : Nat) : State :=
  { s with gangs := s.gangs.map (fun x =>
      let g := x.2
      if g.waitWatch && !g.depHit then
        match s.objAddr g.part g.lrec.depObj g.lrec.depOff 8 false with
        | some d => if d < a + n ∧ a < d + 8 ∧ g.lrec.threshold ≤ (s.memWord d).toNat
            then (x.1, { g with depHit := true }) else x
        | none => x
      else x) }

/-- A running migration marks the lines written in the old frame (R310). -/
def State.markDirty (s : State) (a n : Nat) : State :=
  { s with acts := s.acts.map (fun x =>
      match x.2.mig with
      | some m =>
        let sz := 2 ^ pageShift m.psize
        if m.oldFrame < a + n ∧ a < m.oldFrame + sz then
          let ls := (linesOf a n).filter (fun l => !m.dirty.contains l)
          (x.1, { x.2 with mig := some { m with dirty := m.dirty ++ ls } })
        else x
      | none => x) }

/-- Bytes that a mask selects: the first and one past the last offset written. -/
def maskSpan (mask : List Bool) : Nat × Nat :=
  let idx := (List.range mask.length).filter (fun i => mask[i]?.getD false)
  (idx.headD 0, idx.getLastD 0 + 1)

/-- ONE WRITE at the home ports, for a gang and its core: logged, tags of the touched granules cleared unless `tag` sets one, poison
cleared only by a whole line, waits and dependences compared (R49, R155, R165, R314, R330). -/
def State.homeWrite (s : State) (g : Option (Nat × Nat)) (a : Nat) (bs : List Byte) (mask : List Bool) (whole : Bool)
    (tag : Bool) (gp : Bool) (owner : Nat) : State :=
  if mask.any id = false then s
  else
    let s := match g with
      | some g => (linesOf a bs.length).foldl (fun (s : State) l => s.devLog g.1 g.2 l gp owner) s
      | none => s
    let touched := (List.range bs.length).filter (fun i => mask[i]?.getD true)
    let tags := touched.foldl (fun t i => sparseSet false t ((a + i) / 16) tag) s.memTags
    let s := { s with
      mem := sparseWriteMasked s.mem a bs mask
      memTags := tags
      memPoison := if whole && mask.all id then cleanWhole s.memPoison a bs.length else s.memPoison }
    let covers (l : Nat) : Bool := whole && mask.all id && decide (a ≤ l * 64) && decide (l * 64 + 64 ≤ a + bs.length)
    let s := (linesOf a bs.length).foldl (fun (s : State) l =>
      if touched.any (fun i => (a + i) / 64 == l) then s.mcWrite l (covers l) else s) s
    ((s.markDirty a bs.length).notifyWaits a bs.length).notifyDeps a bs.length

/-- A write of every byte by the scheduler or another agent outside a gang. -/
def State.plainWrite (s : State) (a : Nat) (bs : List Byte) : State :=
  s.homeWrite none a bs (bs.map (fun _ => true)) false false false 0

/-! ## Atomics and merging (R161..R163) -/

/-- The new value of an integer atomic: AADD 0x4E, ALOG 0x4F, AMNX 0x50, ASWP 0x51, ACAS 0x52, SIGNAL 0x5D. -/
def atomicInt (op sub n : Nat) (old y new : Nat) : Nat :=
  let m := 2 ^ (8 * n)
  let y := y % m
  match op with
  | 0x4E => (old + y) % m
  | 0x4F => if sub = 0 then old &&& y else if sub = 1 then old ||| y else old ^^^ y
  | 0x50 =>
    let lt := if sub ≤ 1 then decide (sextNat old (8 * n) < sextNat y (8 * n)) else decide (old < y)
    if sub % 2 = 0 then (if lt then old else y) else (if lt then y else old)
  | 0x51 => y
  | 0x52 => if old = y then new % m else old
  | _ => (old + y) % m

/-- The format of an AFADD: 4 bytes FP32, 2 bytes BF16. -/
def afFmt (n : Nat) : Fmt := if n = 4 then fp32 else bf16

/-- The new value of any atomic. -/
def atomicNew (op sub n old y new : Nat) : Nat :=
  if op = 0x53 then addFmt (afFmt n) ((afFmt n).decode old) ((afFmt n).decode (y % 2 ^ (8 * n)))
  else atomicInt op sub n old y new

/-- Starting and combining a pending reduction's partial value: AFADD keeps p in FP32 (R163). -/
def mergeStart (op n y : Nat) : Nat :=
  if op = 0x53 then toFp32 ((afFmt n).decode (y % 2 ^ (8 * n))) else y % 2 ^ (8 * n)
def mergeCombine (op sub n p y : Nat) : Nat :=
  if op = 0x53 then addFmt fp32 (fp32.decode p) ((afFmt n).decode (y % 2 ^ (8 * n)))
  else if op = 0x51 then y % 2 ^ (8 * n) else atomicInt op sub n p y 0

/-- Applying a partial value to memory: the element's new value. -/
def mergeApply (op sub n old p : Nat) : Nat :=
  if op = 0x53 then addFmt (afFmt n) ((afFmt n).decode old) (fp32.decode p) else atomicInt op sub n old p 0

/-- Applying one pending merge as one write; an uncorrectable target is left unchanged (R155). -/
def State.applyMerge (s : State) (m : Merge) : State :=
  if (s.badUnit m.addr m.bytes).isSome then s
  else
    let old := bytesToNat (s.memRead m.addr m.bytes)
    let new := mergeApply m.op m.sub m.bytes old m.p.toNat
    let bs := natToBytes m.bytes new
    s.homeWrite (some (m.gang, m.core)) m.addr bs (bs.map (fun _ => true)) false false m.gp m.owner

/-- Applying every pending merge of a line, in order (R162). -/
def State.applyLine (s : State) (line : Nat) : State :=
  let ms := s.merges.filter (fun m => m.addr / 64 == line)
  let s := { s with merges := s.merges.filter (fun m => !(m.addr / 64 == line)) }
  ms.foldl State.applyMerge s

/-- Applying every pending merge of a gang, with all that is pending on its lines. -/
def State.flushMerges (s : State) (gid : Nat) : State :=
  (s.merges.filter (fun m => m.gang == gid)).foldl (fun (s : State) m => s.applyLine (m.addr / 64)) s

/-- A request is a write at its home (R286). -/
def ReqKind.isWrite : ReqKind → Bool
  | .store _ _ | .cstore _ _ | .atomic _ _ _ _ => true
  | _ => false

/-- A request reads (R286). -/
def ReqKind.isRead : ReqKind → Bool
  | .store _ _ | .cstore _ _ => false
  | _ => true

/-! ## The L1 read cache (R50) -/

/-- The line that an activity may still use: filled at most 4,096 ticks ago, and free of stores that another activity of the
core has issued and that have not been performed (R50, R285; log 14). -/
def State.l1Find (s : State) (c aid line : Nat) : Option L1Line :=
  match tableGet? (s.core c).l1 line with
  | some l => if s.tick ≤ l.fill + 4096 ∧ s.reqs.any (fun x => x.2.core == c && x.2.act != aid && x.2.addr / 64 == line
      && x.2.kind.isWrite && x.2.performed == none) = false then some l else none
  | none => none

/-- Dropping a line. -/
def State.l1Drop (s : State) (c line : Nat) : State :=
  s.setCore c { s.core c with l1 := tableErase (s.core c).l1 line }

/-- Overlaying bytes of a line, at an offset, where a mask selects them. -/
def overlay (l : List Byte) (off : Nat) (bs : List Byte) (mask : List Bool) : List Byte :=
  (List.range l.length).map (fun i =>
    if off ≤ i ∧ i < off + bs.length ∧ mask[i - off]?.getD true = true then bs[i - off]?.getD 0 else l[i]?.getD 0)

/-- A store updates a line it hits, at issue. -/
def State.l1Store (s : State) (c a : Nat) (bs : List Byte) (mask : List Bool) : State :=
  match tableGet? (s.core c).l1 (a / 64) with
  | some l =>
    s.setCore c { s.core c with
      l1 := tableSet (s.core c).l1 (a / 64) { l with data := overlay l.data (a % 64) bs mask } }
  | none => s

/-- Room for one more line: a full cache of 64 KiB, 1,024 lines, drops one, a free value saying which (R7, R50; log 3). -/
def State.l1Room (s : State) (c line : Nat) : State :=
  let l1 := tableErase (s.core c).l1 line
  if l1.length < 1024 then s
  else
    let n := (Config.freeWord s.draws).toNat % l1.length
    { s with draws := s.draws + 1 }.setCore c { s.core c with l1 := l1.eraseIdx n }

/-- A line as a core's fill sees it: memory, with the core's own stores that are still outstanding. There is no fill while
any other access of the core to the line than the filling request `rid` is outstanding (R285; log 14). -/
def State.l1Fill (s : State) (c line : Nat) (rid : Nat := 0) : State :=
  let mine := s.reqs.filter (fun x => x.1 != rid && x.2.core == c && x.2.addr / 64 == line && x.2.performed == none)
  if (s.badUnit (line * 64) 64).isSome then s
  else if mine.any (fun x => match x.2.kind with | .store _ _ => false | _ => true) then s
  else
    let data := mine.foldl (fun d x => match x.2.kind with
      | .store bs mask => overlay d (x.2.addr % 64) bs mask
      | _ => d) (s.memRead (line * 64) 64)
    let s := s.l1Room c line
    s.setCore c { s.core c with l1 := tableSet (s.core c).l1 line { fill := s.tick, data := data } }

/-! ## Requests -/

/-- Sending a request. -/
def State.send (s : State) (r : Req) : State :=
  let (n, s) := s.take
  { s with reqs := tableSet s.reqs n r }

/-- The earlier accesses of its own activity to its line have been performed, or compare at the home (R154). -/
def State.inOrder (s : State) (rid : Nat) (r : Req) : Bool :=
  !(s.reqs.any (fun x => x.1 != rid && x.2.act == r.act && x.2.addr / 64 == r.addr / 64 && x.2.performed == none
    && !x.2.compares && (decide (x.2.num < r.num) || (x.2.num == r.num && decide (x.1 < rid)))))

/-- Every read that precedes a write in its activity has been performed, those of waits that a pre-emption backed out
included (R286, R299). -/
def State.readsDone (s : State) (r : Req) : Bool :=
  !r.kind.isWrite || (!(s.reqs.any (fun x => x.2.act == r.act && decide (x.2.num < r.num) && x.2.kind.isRead
    && x.2.performed == none)) && !((s.act r.act).backed.any (fun x => decide (x.2 < r.num))))

/-- Nothing holds a write back that will not be performed before it anyway: every read that precedes it in its activity has
been performed, or is an atomic whose tag has cleared on its acceptance (R153, R286). -/
def State.readsPlaced (s : State) (r : Req) : Bool :=
  !r.kind.isWrite || (!(s.reqs.any (fun x => x.2.act == r.act && decide (x.2.num < r.num) && x.2.kind.isRead
    && x.2.performed == none && !x.2.accepted)) && !((s.act r.act).backed.any (fun x => decide (x.2 < r.num))))

/-- A write that stands in its home's write queue with nothing to hold it back: whatever reaches the line later comes
after it (R153, R154, R286). -/
def State.queued (s : State) (r : Req) : Bool := r.accepted && r.performed == none && s.readsPlaced r

/-- A standing write, and one that an access of some lines finds there or that comes before such a one: of its line, or an
accepted atomic before it in its activity. The list rises in arrival order, which keeps both orders. -/
def State.standing (s : State) (lines : List Nat) : List (Nat × Req) :=
  ((sortBy (fun x => x.2.arrived) (s.reqs.filter (fun x => s.queued x.2))).reverse).foldl (fun l x =>
    if lines.contains (x.2.addr / 64) || l.any (fun y => y.2.addr / 64 == x.2.addr / 64
        || (y.2.act == x.2.act && x.2.kind.isRead && decide (x.2.num < y.2.num))) then x :: l else l) []

/-- No access that reached the line before it is still to be performed. A wait that is comparing holds nothing up, nor
does a write that is held back itself. -/
def State.lineFree (s : State) (rid : Nat) (r : Req) : Bool :=
  !(s.reqs.any (fun x => x.1 != rid && x.2.addr / 64 == r.addr / 64 && decide (x.2.arrived ≠ 0)
    && (r.arrived == 0 || decide (x.2.arrived < r.arrived)) && s.queued x.2))

/-- The writes of an activity that have been accepted and not performed. -/
def State.pendingWrites (s : State) (aid : Nat) : List Nat :=
  (s.reqs.filter (fun x => x.2.act == aid && x.2.accepted && x.2.performed == none)).map (·.1)

/-- Writes that had been accepted have been performed or stand in their queues, so that every access from now on comes after
them. -/
def State.placed (s : State) (rids : List Nat) : Bool :=
  rids.all (fun n => match s.req? n with | some r => r.performed.isSome || s.queued r | none => true)

end Sys2Proof.Machine
end

