-- ==== Sys2Proof/Machine/Rings.lean ====
section
/-! DEFINITION. Stage rings, channels and event lines of a quad, and what a wait on them finds (R45, R46, R244, R245, R249,
R253, R255, R274..R276). -/
namespace Sys2Proof.Machine

/-! ## Rings, channels, event lines -/

/-- A number modulo 2^32, as ring and transfer counters are compared. -/
def sub32 (a b : Nat) : Nat := (a + 2 ^ 32 - b % 2 ^ 32) % 2 ^ 32

def State.ring (s : State) (q n : Nat) : Ring := (tableGet? (s.quad q).rings n).getD {}
def State.setRing (s : State) (q n : Nat) (r : Ring) : State :=
  s.setQuad q { s.quad q with rings := tableSet (s.quad q).rings n r }

/-- Bytes of a ring's stage, stages of a ring, and a stage's scratchpad offset (R45). -/
def Ring.stageBytes (r : Ring) : Nat := (r.size + 1) * 64
def Ring.stages (r : Ring) : Nat := r.count + 1
def Ring.stageOff (r : Ring) (i : Nat) : Nat := r.base + i * r.stageBytes

/-- COPY's detail (R255). -/
def copyTrap (n reason cause : Nat) : Trap := mkTrap cCOPY (n % 16 + reason * 256 + cause * 2 ^ 16)

def State.chan (s : State) (q n : Nat) : Chan := (tableGet? (s.quad q).chans n).getD {}
def State.setChan (s : State) (q n : Nat) (c : Chan) : State :=
  s.setQuad q { s.quad q with chans := tableSet (s.quad q).chans n c }
def State.line (s : State) (q n : Nat) : EvLine := (tableGet? (s.quad q).lines n).getD {}
def State.setLine (s : State) (q n : Nat) (l : EvLine) : State :=
  s.setQuad q { s.quad q with lines := tableSet (s.quad q).lines n l }

/-! ## Waits on the engine (R245, R249, R253, R276) -/

/-- a − b modulo 2^32 lies in 1..2^31. -/
def passed (a b : Nat) : Bool := let d := sub32 a b; decide (1 ≤ d) && decide (d ≤ 2 ^ 31)

/-- What a CPWAIT finds: nothing yet, a fault, or that it may end. -/
def State.cpState (s : State) (q n : Nat) (id : BitVec 32) : Option (Except Trap (List RegWrite)) :=
  let c := s.chan q n
  if id = 0 then some (.ok [])
  else if c.faulted ∧ sub32 id.toNat c.fid.toNat < 2 ^ 31 then some (.error (copyTrap n 4 c.cause.toNat))
  else if passed c.wm.toNat id.toNat then some (.ok []) else none

/-- What a STGWAIT finds. -/
def State.stgState (s : State) (q n : Nat) (fill : BitVec 32) (d : Nat) : Option (Except Trap (List RegWrite)) :=
  let r := s.ring q n
  if !passed r.f.toNat fill.toNat then none
  else match r.badFills.find? (fun b => b.1 == fill) with
    | some (_, c, cause) => some (.error (copyTrap c 4 cause))
    | none =>
      let i := fill.toNat % r.stages
      let v := w64 (r.stageOff i % 2 ^ 22 + (sparseGet 0 r.gen i).toNat * 2 ^ 32)
      some (.ok (if d = 0 then [] else [wS d v]))

/-- What an EVWAIT finds. -/
def State.evState (s : State) (q n : Nat) : Option (Except Trap (List RegWrite)) :=
  let l := s.line q n
  if !l.set then none else if l.bad then some (.error (copyTrap n 4 0)) else some (.ok [])

/-- What a wait of a quad's engine finds. -/
def State.engineWait (s : State) (k : OpKind) : Option (Nat × Except Trap (List RegWrite)) :=
  match k with
  | .cpwait q n id => (s.cpState q n id).map (q, ·)
  | .stgwait q n fill d => (s.stgState q n fill d).map (q, ·)
  | .evwait q n => (s.evState q n).map (q, ·)
  | _ => none

/-- The condition of a word that waits for the engine is decided, so that it may issue or raise COPY. -/
def State.engineDue (s : State) (kind q n : Nat) (id : BitVec 32) : Bool :=
  match kind with
  | 0 => (s.cpState q n id).isSome
  | 1 => (s.stgState q n id 0).isSome
  | _ => (s.evState q n).isSome

end Sys2Proof.Machine
end

