-- ==== Sys2Proof/Machine/Home.lean ====
section
/-! DEFINITION. What a request does at its home port, and the turn of an access that reaches a line there: the writes that
stand in the home's queue, and the reductions merged there, come first (R153..R155, R161..R163, R286). -/
namespace Sys2Proof.Machine

/-- Keeping a request's reply. -/
def State.reply (s : State) (rid : Nat) (r : Req) (rep : Reply) : State :=
  { s with reqs := tableSet s.reqs rid { r with performed := some rep, arrived := max r.arrived 1 } }

/-- What a request reads at its home, and that it read an uncorrectable line (R155, R332). -/
def State.readAt (s : State) (rid : Nat) (r : Req) (tag : Bool) : State :=
  let p := s.devPoisonOf r
  (s.noteRead r p).reply rid r { data := s.memRead r.addr r.bytes, tag := tag, poison := p }

/-- A plain load fills a line of the core's cache, unless it is an acquire (R50). -/
def State.loadFill (s : State) (rid : Nat) (r : Req) : State :=
  let acq := match s.op? r.op with | some o => o.acq | none => true
  if acq || isArmature r.core then s else s.l1Fill r.core (r.addr / 64) rid

/-- The atomic is a reduction that may merge: its d is 0, and it is neither ACAS nor SIGNAL (R162, R171). -/
def State.mergeable (s : State) (r : Req) (opcode : Nat) : Bool :=
  opcode != 0x52 && opcode != 0x5D && (match s.op? r.op with
    | some o => o.kind == .device none false
    | none => false)

/-- A reduction joins the pending entry of its line (R162): with its element's partial value if there is one. -/
def State.mergeIn (s : State) (r : Req) (opcode sub : Nat) (y : Word64) : State :=
  let line := r.addr / 64
  let same (m : Merge) : Bool := m.op == opcode && m.sub == sub && m.bytes == r.bytes
  let s := if (s.merges.filter (fun m => m.addr / 64 == line)).all same then s else s.applyLine line
  let here (m : Merge) : Bool := m.addr == r.addr && same m
  let use := (r.part, r.object, r.offset / 2 ^ pageShift r.psize)
  if s.merges.any here then
    { s with merges := s.merges.map (fun m =>
        if here m then { m with p := w64 (mergeCombine opcode sub r.bytes m.p.toNat y.toNat), uses := use :: m.uses }
        else m) }
  else
    { s with merges := s.merges ++ [{ addr := r.addr, bytes := r.bytes, op := opcode, sub := sub
                                      p := w64 (mergeStart opcode r.bytes y.toNat), first := s.tick, gp := r.gp
                                      owner := r.owner, gang := r.gang, core := r.core, uses := [use] }] }

/-- An atomic performed on its own (R161, R163): an uncorrectable target is not changed (R155). -/
def State.atomicAt (s : State) (rid : Nat) (r : Req) (opcode sub : Nat) (y new : Word64) : State :=
  match s.devPoisonOf r with
  | some q => (s.noteRead r (some q)).reply rid r { data := s.memRead r.addr r.bytes, poison := some q }
  | none =>
    let old := s.memRead r.addr r.bytes
    let v := atomicNew opcode sub r.bytes (bytesToNat old) y.toNat new.toNat
    let bs := natToBytes r.bytes v
    let s := if opcode = 0x52 ∧ bs = old then s
      else s.homeWrite (some (r.gang, r.core)) r.addr bs (bs.map (fun _ => true)) false false r.gp r.owner
    s.reply rid r { data := old }

/-- An access at a home port of memory. Every access but a merging reduction first applies what is pending on its line
(R162), and finds or leaves a copy of it in the plate's cache. -/
def State.performMem (s : State) (rid : Nat) (r : Req) : State :=
  let s1 := (s.applyLine (r.addr / 64)).mcRead (r.addr / 64)
  match r.kind with
  | .load _ => (s1.loadFill rid r).readAt rid r false
  | .vload _ _ => (s1.loadFill rid r).readAt rid r false
  | .cload => s1.readAt rid r (r.path == .device && sparseGet false s1.memTags (r.addr / 16))
  | .tileLine _ => s1.readAt rid r false
  | .store bs mask =>
    (s1.homeWrite (some (r.gang, r.core)) r.addr bs mask (bs.length == 64) false r.gp r.owner).reply rid r {}
  | .cstore bs valid =>
    (s1.homeWrite (some (r.gang, r.core)) r.addr bs (bs.map (fun _ => true)) false valid r.gp r.owner).reply rid r {}
  | .atomic opcode sub y new =>
    if s.mergeable r opcode then (s.mergeIn r opcode sub y).reply rid r {} else s1.atomicAt rid r opcode sub y new
  | .wait _ _ =>
    let (n, s1) := s1.take
    let r := { r with arrived := n }
    ({ s1 with reqs := tableSet s1.reqs rid r }).answerWait rid r

/-- An accepted write that has now been performed leaves nothing behind. -/
def State.dropDone (s : State) (rid : Nat) : State :=
  match s.req? rid with
  | some r => if r.accepted && r.performed.isSome then { s with reqs := tableErase s.reqs rid } else s
  | none => s

/-- The writes that stand in the write queues of lines are performed, and what comes before them, in arrival order (R154, R286,
R310). -/
def State.performQueued (s : State) (lines : List Nat) : State :=
  (s.standing lines).foldl
    (fun (s : State) x =>
      match s.req? x.1 with
      | some r => if s.queued r then (s.performMem x.1 r).dropDone x.1 else s
      | none => s) s

/-- AN ACCESS'S TURN at a line: what arrived there before it is performed (R154, R162). -/
def State.portTurn (s : State) (line : Nat) : State := (s.performQueued [line]).applyLine line

end Sys2Proof.Machine
end

