-- ==== Sys2Proof/Machine/Operands.lean ====
section
/-! DEFINITION. Operands: elements of vector registers and lane masks, the sources of every word, effective offsets,
order words and scopes (R55, R56, R93, R106, R107, R150, R151, R233, R255). -/
namespace Sys2Proof.Machine

/-! ## Elements (R55, R56) -/

/-- Element i at width w. -/
def elem (x : BitVec 512) (w i : Nat) : Nat := x.toNat / 2 ^ (w * i) % 2 ^ w

/-- The first n elements at width w. -/
def elems (x : BitVec 512) (w n : Nat) : List Nat := (List.range n).map (elem x w)

/-- A register's data from its elements. -/
def ofElems (w : Nat) : List Nat → Nat
  | [] => 0
  | x :: xs => x % 2 ^ w + 2 ^ w * ofElems w xs

def vecOf (w : Nat) (l : List Nat) : BitVec 512 := BitVec.ofNat 512 (ofElems w l)

/-- A result under a tag: bits above k of every byte are zero under BPk (R64, R189). -/
def retagData (t : Nat) (x : BitVec 512) : BitVec 512 :=
  if tagBp t then vecOf 8 ((elems x 8 64).map (· % 2 ^ bpK t)) else x

/-- An element is active when the mask bit of its lowest byte is set. -/
def active (mask : Word64) (w i : Nat) : Bool := mask.getLsbD (i * (w / 8))

/-- The mask with every byte of a selected element set. -/
def maskOfElems (w : Nat) (sel : List Bool) : Word64 :=
  w64 (ofElems (w / 8) (sel.map (fun b => if b then 2 ^ (w / 8) - 1 else 0)))

/-- The 64 bytes of a register, lowest first. -/
def vecBytes (x : BitVec 512) : List Byte := natToBytes 64 x.toNat
def bytesVec (bs : List Byte) : BitVec 512 := BitVec.ofNat 512 (bytesToNat bs)

/-- The width by which a register is masked: bytes for RAW (R56). -/
def maskWidth (tag : Nat) : Nat := if tagWidth tag = 0 then 8 else tagWidth tag

/-- The byte mask of a store of a register under a lane mask: a byte is written when its element is active. -/
def storeMask (mask : Word64) (tag : Nat) : List Bool :=
  let n := maskWidth tag / 8
  (List.range 64).map (fun j => mask.getLsbD (j / n * n))

def VReg.t (v : VReg) : Nat := v.tag.toNat

/-! ## Fields and sources -/

/-- The fields of a word; zero fields for an event. -/
def fieldsOf (i : Instr) : Fields := (toFields i).getD (Fields.base 0 (Clauses.ofWord 0))

/-- The opcode of a word. -/
def opcodeOf (i : Instr) : Nat := (fieldsOf i).op.toNat

/-- The register a field names, for the files with live bits. -/
def useReg (u : FieldUse) (n : BitVec 6) : Option RegName :=
  match u with
  | .s | .sPair => some (sreg n.toNat)
  | .v | .vEven => some (vreg n.toNat)
  | .p | .pDst => some (preg n.toNat)
  | .b => some (breg n.toNat)
  | .k => some (kreg n.toNat)
  | _ => none

/-- The registers that the fields a, b and c name (R93): what a last-use bit releases (R106). -/
def fieldRegs (i : Instr) : Option RegName × Option RegName × Option RegName :=
  match layout i, toFields i with
  | some l, some f =>
    (useReg l.a f.a, if l.form = .L then none else useReg l.b f.b, if l.form = .R then useReg l.c f.c else none)
  | _, _ => (none, none, none)

/-- The registers the sequencing fields read (R94). -/
def seqSources (cl : Clauses) : List RegName :=
  let b := if cl.seqMode = 1 ∨ cl.seqMode = 2 ∨ cl.seqMode = 3 ∨ cl.seqMode = 4 ∨ cl.seqMode = 6
    then [breg cl.seqB.toNat] else []
  let p := if cl.seqMode = 2 ∨ cl.seqMode = 3 then [preg cl.seqP.toNat] else []
  b ++ p

/-- The rectangle register of an order word (R151). -/
def orderRect (imm : BitVec 16) : List RegName :=
  if imm.toNat % 8 = 5 then [sreg (imm.toNat / 256 % 64)] else []

/-- The rectangle register of a scope field (R255). -/
def scopeRect (mod : BitVec 4) (imm : BitVec 16) : List RegName := if mod = 5 then [sreg (imm.toNat % 64)] else []

/-- The lane mask of mod[2:0]. -/
def modMask (mod : BitVec 4) : List RegName := [preg (mod.toNat % 8)]

/-- The mask and, with merge, the destination of a vector word (R174). -/
def vecExtra (mod : BitVec 4) (d : BitVec 6) : List RegName :=
  modMask mod ++ (if mod.getLsbD 3 then [vreg d.toNat] else [])

/-- Sources that are not in the fields a, b, c. VCVT with part ≠ 0 and a fmt that is no tag counts it as narrow, so that v[d] is one
(the model's choice; log 78). -/
def extraSources (a : Act) (i : Instr) : List RegName :=
  match i with
  | .vstl mod _ _ _ _ => modMask mod
  | .vstq mod _ _ _ _ => modMask mod
  | .vst mod _ _ _ _ _ => modMask mod
  | .vgathl mod _ _ _ _ _ => modMask mod
  | .vscatl mod _ _ _ _ => modMask mod
  | .ld mod _ _ _ imm _ => if mod.getLsbD 3 then orderRect imm else []
  | .st mod _ _ _ imm _ => if mod.getLsbD 3 then orderRect imm else []
  | .aadd _ _ _ _ _ imm _ => orderRect imm
  | .alog _ _ _ _ _ imm _ => orderRect imm
  | .amnx _ _ _ _ _ imm _ => orderRect imm
  | .aswp _ _ _ _ _ imm _ => orderRect imm
  | .acas _ d _ _ _ imm _ => sreg d.toNat :: orderRect imm
  | .afadd _ _ _ _ _ imm _ => orderRect imm
  | .waitmem _ _ _ _ _ imm _ => orderRect imm
  | .fence imm _ => orderRect imm
  | .signal _ _ _ imm _ => orderRect imm
  | .vadd mod d _ _ _ _ => vecExtra mod d
  | .vsub mod d _ _ _ _ => vecExtra mod d
  | .vmul mod d _ _ _ _ => vecExtra mod d
  | .vfma mod d _ _ _ _ _ => vecExtra mod d
  | .vfms mod d _ _ _ _ _ => vecExtra mod d
  | .vmin mod d _ _ _ => vecExtra mod d
  | .vmax mod d _ _ _ => vecExtra mod d
  | .vabs mod d _ _ _ => vecExtra mod d
  | .vneg mod d _ _ _ => vecExtra mod d
  | .vrcp mod d _ _ => vecExtra mod d
  | .vrsq mod d _ _ => vecExtra mod d
  | .vexp2 mod d _ _ => vecExtra mod d
  | .vlog2 mod d _ _ => vecExtra mod d
  | .vand mod d _ _ _ => vecExtra mod d
  | .vor mod d _ _ _ => vecExtra mod d
  | .vxor mod d _ _ _ => vecExtra mod d
  | .vshl mod d _ _ _ _ => vecExtra mod d
  | .vshr mod d _ _ _ _ => vecExtra mod d
  | .vperm mod d _ _ _ => vecExtra mod d
  | .vins _ d _ _ _ _ => [vreg d.toNat]
  | .vreduce mod _ _ _ _ => modMask mod
  | .vscan mod _ _ _ _ => modMask mod
  | .vqscale mod _ _ _ _ => modMask mod
  | .vcvt _ d va _ imm _ =>
    let ns := tagCount (a.v va.toNat).t
    let nd := tagCount (imm.toNat % 32)
    if imm.toNat / 32 % 8 ≠ 0 ∧ ns < nd then [vreg d.toNat] else []
  | .vplane mod d _ _ _ _ => if mod = 1 then [vreg d.toNat] else []
  | .meet mod _ _ _ _ imm _ => scopeRect mod imm
  | .bar mod _ imm _ => scopeRect mod imm
  | .bara mod imm _ => scopeRect mod imm
  | .barred mod _ _ imm _ => scopeRect mod imm
  | .cpyr _ _ _ _ imm _ => [kreg (imm.toNat / 256 % 16)]
  | _ => []

/-- Every source of a word, in the order in which DEADREG and poison are looked for (log 7): a, b, c, then the others,
then those of the sequencing fields. The a field of an exchange names the partner's register, and a LAUNCH reads its c
field only with an argument (R258, R266). -/
def sources (a : Act) (i : Instr) (cl : Clauses) : List RegName :=
  let (ra, rb, rc) := fieldRegs i
  let ra := match i with | .xreg _ _ _ _ => none | .xvreg _ _ _ => none | _ => ra
  let rc := match i with | .launch _ _ _ _ _ => none | .launchq _ _ _ _ _ => none | _ => rc
  ra.toList ++ rb.toList ++ rc.toList ++ extraSources a i ++ seqSources cl

/-- The registers a word's last-use bits release. -/
def releases (i : Instr) (cl : Clauses) : List RegName :=
  let (ra, rb, rc) := fieldRegs i
  (if cl.last.getLsbD 0 then ra.toList else []) ++ (if cl.last.getLsbD 1 then rb.toList else [])
    ++ (if cl.last.getLsbD 2 then rc.toList else [])

/-! ## Offsets (R150, R156, R158) -/

/-- base + sext(imm, 16), modulo 2^64. -/
def offImm (base : Word64) (imm : BitVec 16) : Word64 := base + imm.signExtend 64

/-- base + sext(imm[15:5], 11) · 64, modulo 2^64. -/
def offVec (base : Word64) (imm : BitVec 16) : Word64 := base + ((imm.extractLsb' 5 11).signExtend 64 <<< 6)

/-- The access size of a load or store. -/
def sizeOf (mod : BitVec 4) : Nat := 2 ^ (mod.toNat % 4)

/-- A loaded value, sign- or zero-extended from n bytes. -/
def extendLoad (sx : Bool) (bs : List Byte) : Word64 :=
  let x := bytesToNat bs
  if sx then wOfInt (sextNat x (8 * bs.length)) else w64 x

/-! ## Scopes -/

def ordOf (imm : BitVec 16) : Nat := imm.toNat / 16 % 4
def scopeOf (imm : BitVec 16) : Nat := imm.toNat % 8

/-- An order word's scope is wider than core for the executing core: a rectangle that does not hold it acts as core scope
(R151). -/
def State.wideScope (s : State) (a : Act) (imm : BitVec 16) : Bool :=
  match scopeOf imm with
  | 0 => false
  | 5 =>
    s.rectActs (a.s (imm.toNat / 256 % 64)) a.core
  | _ => true

/-- A scope field's kind and rectangle: a rectangle that does not hold the origin core acts as core scope (R233, R255). -/
def State.scopeField (s : State) (a : Act) (mod : BitVec 4) (imm : BitVec 16) : Nat × Word64 :=
  if mod = 5 then
    let r := a.s (imm.toNat % 64)
    if s.rectActs r a.homeCore then (5, r) else (0, 0)
  else (mod.toNat, 0)

/-- The scope identity for an origin core (R233); `pod` is the pod group (R260). -/
def scopeSid (kind : Nat) (rect : Word64) (origin pod : Nat) : Word64 :=
  match kind with
  | 0 => w64 origin
  | 1 => w64 (2 ^ 16 + coreQuad origin)
  | 2 => w64 (2 * 2 ^ 16 + coreDie origin)
  | 3 => w64 (3 * 2 ^ 16)
  | 4 => w64 (4 * 2 ^ 16 + pod)
  | _ => rect

/-- The quads in a meeting's scope, in increasing index, those with a live core only (R233). -/
def State.scopeQuads (s : State) (kind : Nat) (rect : Word64) (origin : Nat) : List Nat :=
  let qs := match kind with
    | 0 => [coreQuad origin]
    | 1 => [coreQuad origin]
    | 2 => (List.range 512).filter (fun q => quadDie q == coreDie origin)
    | 3 => List.range 512
    | _ => (List.range 512).filter (fun q => (quadCores q).any (fun c => inRect rect c))
  qs.filter s.liveQuad

end Sys2Proof.Machine
end

