-- ==== Sys2Proof/Machine/Flags.lean ====
section
/-! DEFINITION. Flags and conditions: the scalar conditions of CMP, the element conditions of VCMP, lane-mask logic, and
the rules by which software may write ASW (R60, R119, R120, R130, R181). -/
namespace Sys2Proof.Machine

/-- The conditions of CMP and CMPI (R119). -/
def cmpHolds (cond : Nat) (x y : Word64) : Bool :=
  match cond with
  | 0 => x == y
  | 1 => x != y
  | 2 => x.slt y
  | 3 => !x.slt y
  | 4 => x.ult y
  | 5 => !x.ult y
  | 6 => x.sle y
  | 7 => !x.sle y
  | 8 => x.ule y
  | 9 => !x.ule y
  | 10 => x &&& y != 0
  | _ => x &&& y == 0

/-- Lane-mask logic (R120). -/
def plogic (op : Nat) (x y : Word64) : Word64 :=
  match op with
  | 0 => x &&& y
  | 1 => x ||| y
  | 2 => x ^^^ y
  | 3 => x &&& ~~~y
  | 4 => x ||| ~~~y
  | 5 => ~~~(x &&& y)
  | 6 => ~~~(x ||| y)
  | _ => ~~~(x ^^^ y)

/-- An element condition of VCMP and the flag it raises: 0 eq, 1 ne, 2 lt, 3 le, 4 gt, 5 ge, 6 un, 7 ord (R181). -/
def vcmpHolds (cond : Nat) (x y : Val) : Bool × BitVec 5 :=
  if x.isNan || y.isNan then
    (cond == 1 || cond == 6, if 2 ≤ cond ∧ cond ≤ 5 then fNV else 0)
  else
    let r := match cond with
      | 0 => x.eq y
      | 1 => !x.eq y
      | 2 => x.lt y
      | 3 => !y.lt x
      | 4 => y.lt x
      | 5 => !x.lt y
      | 6 => false
      | _ => true
    (r, 0)

/-- The fields of ASW that a mode may change: RM and the flags in U, IE as well in S and M (R130). -/
def aswWritable (mode : Nat) : Word64 := if mode = 0 then 0xFB00 else 0xFB40

/-- A write to ASW: none when it would change a field that the mode may not change; reserved bits are ignored (R130). -/
def writeAsw (mode : Nat) (old new : Word64) : Option Word64 :=
  let new := new &&& aswMask
  if (old ^^^ new) &&& ~~~(aswWritable mode) = 0 then some new else none

/-- The five flags as ASW holds them (R130). -/
def aswFlags (a : Act) : BitVec 5 := a.asw.extractLsb' 11 5

end Sys2Proof.Machine
end

