-- ==== Sys2Proof/Machine/Records.lean ====
section
/-! DEFINITION. Records of the sample buffer and of the fault ring: the writer of R342, marks, stipple samples, bound
events (R335, R341..R344). -/
namespace Sys2Proof.Machine

/-- A sample-buffer word's home address. -/
def Part.sbAddr (p : Part) (w : Nat) : Nat := bits p.sbbase 47 6 * 64 + 8 * w

/-- Writing words at a word offset of the buffer. -/
def State.sbPut (s : State) (part w : Nat) (ws : List Word64) : State :=
  s.plainWrite ((s.part part).sbAddr w) (ws.flatMap (fun x => wordBytes64 8 x))

/-- SBOLD after the words [w, w + len) have been overwritten in a buffer that has wrapped: it passes every record that
lost a word, and starts the new lap past the last one, which a LOST record ends (R342). -/
def State.sbPass (s : State) (part w len words : Nat) : Nat → Nat → Nat
  | 0, old => old
  | n + 1, old =>
    if old < w ∨ w + len ≤ old then old
    else
      let l := bits (s.memWord ((s.part part).sbAddr old)) 15 8
      let next := old + max l 1
      if l = 1 ∨ words ≤ next then 0 else s.sbPass part w len words n next

/-- Writing one record at WP. -/
def State.sbAppend (s : State) (part : Nat) (ws : List Word64) : State :=
  let p := s.part part
  let wp := bits p.sbptr 31 0
  let old := bits p.sbptr 63 32
  let words := bits p.sblen 31 3
  let old' := if p.sbWrapped then s.sbPass part wp ws.length words (ws.length + 1) old else old
  let s := s.sbPut part wp ws
  s.setPart part { s.part part with sbptr := w64 (old' * 2 ^ 32 + (wp + ws.length)) }

/-- Writing a record of the sample buffer (R342): it is written whole at WP, or a LOST record, numbered `lost`, is written and
the buffer stops or wraps. A buffer that has not been set up takes none. The second result is the next LOST record's number. -/
def State.sampleWrite (s : State) (part : Nat) (body : List Word64) (lost : BitVec 48) : State × BitVec 48 :=
  let p := s.part part
  let len := body.length + 1
  let words := bits p.sblen 31 3
  if words < 8 then (s, lost)
  else if p.sbStopped then
    (s.setPart part { p with sblost := if p.sblost = BitVec.allOnes 64 then p.sblost else p.sblost + 1 }, lost)
  else if bits p.sbptr 31 0 + len + 1 ≤ words then
    (({ s with seq := s.seq + 1 }).sbAppend part (recordHead s.seq len :: body), lost)
  else
    let s1 := s.sbAppend part [recordHead lost 1]
    let p1 := s1.part part
    if p1.sbbase.getLsbD 63 then
      let s2 := s1.setPart part { p1 with
        sbptr := w64 (bits p1.sbptr 63 32 * 2 ^ 32), sbWrapped := true }
      (({ s2 with seq := s2.seq + 1 }).sbAppend part (recordHead s2.seq len :: body), lost + 1)
    else
      (s1.setPart part { p1 with
        sbStopped := true
        sblost := if p1.sblost = BitVec.allOnes 64 then p1.sblost else p1.sblost + 1 }, lost + 1)

/-- The place of a record among those of the package: by tick, kind, core or quad, and slot (R341). -/
def Rec.order (r : Rec) : Nat := ((r.tick * 8 + r.kind) * 4096 + r.core % 4096) * 16 + r.slot % 16

/-- Records numbered and written in order, their LOST records numbered from `lost` on. -/
def State.writeList (s : State) (l : List Rec) (lost : BitVec 48) : State × BitVec 48 :=
  l.foldl (fun (x : State × BitVec 48) r =>
    if r.kind ≤ 1 then (x.1.ringAppend r.part r.body, x.2) else x.1.sampleWrite r.part r.body x.2) (s, lost)

/-- The records of a tick are numbered and written in their order, LOST records last of all (R341). -/
def State.writeRecords (s : State) : State :=
  let s0 := { s with recs := [] }
  let l := sortBy Rec.order s.recs
  let (t, n) := s0.writeList l (s0.writeList l 0).1.seq
  { t with seq := n }

/-- A mark record (R343). -/
def State.markRecord (s : State) (a : Act) (code : Nat) (x : Word64) (word : BitVec 32) : State :=
  s.record 2 a.core a.slot a.part
    [w64 (code % 2 ^ 16 * 2 ^ 48 + a.slot % 8 * 2 ^ 40 + word.toNat), x, w64 s.tick]

/-- The stipple rate of a core's quad (R339). -/
def State.stip (s : State) (c : Nat) : Nat :=
  if isArmature c then 0 else min (bits (s.quad (coreQuad c)).qdctl 26 22) 20

/-- Drawing free values: the first number, and the state after n draws. -/
def State.draw (s : State) (n : Nat) : Nat × State := (s.draws, { s with draws := s.draws + n })

/-- A stipple sample of a word that issues (R344): the draw and the counts of what the model does not time are free values.
`exec` is the count from issue to result, where it is known: 0 for a word with no result and for an annulled one. -/
def State.stipple (s : State) (c : Nat) (a : Act) (op : Nat) (annulled : Bool) (exec : Option Nat) : State :=
  let n := s.stip c
  if n = 0 then s
  else
    let (d, s) := s.draw 6
    if !Config.stippleDraw d n then s
    else
      let cnt (i : Nat) : Nat := (Config.freeWord (d + i)).toNat % 2 ^ 16
      let x := match exec with | some n => min n 0xFFFF | none => cnt 4
      s.record 3 a.core a.slot a.part
        [w64 (bits a.code 63 40 * 2 ^ 40 + op % 256 * 2 ^ 32 + a.pc.toNat)
         , w64 (cnt 1 * 2 ^ 48 + cnt 2 * 2 ^ 32 + cnt 3 * 2 ^ 16 + x)
         , w64 ((if exec = some 0 then 0 else cnt 5 * 2 ^ 48) + (if annulled then 2 ^ 47 else 0) + a.slot % 8 * 2 ^ 40
             + s.tick % 2 ^ 32)]

/-- A bound event record (R335). -/
def State.boundEvent (s : State) (a : Act) (bd opcode count : Nat) (word : BitVec 32) : State :=
  s.record 1 a.core a.slot a.part
    [w64 (a.gang % 2 ^ 32 * 2 ^ 32 + 0x42 * 2 ^ 24 + bd % 16 * 2 ^ 20 + a.core % 2048)
     , w64 (opcode % 256 * 2 ^ 56 + count % 256 * 2 ^ 48 + word.toNat)
     , w64 s.tick]

end Sys2Proof.Machine
end

