-- ==== Sys2Proof/Machine/Trip.lean ====
section
/-! DEFINITION. Trips of meetings: a key's home, the meeting core, setting out and going home (R233..R243). -/
namespace Sys2Proof.Machine

/-- Removing a context from its core's slot. -/
def State.freeSlot (s : State) (c slot : Nat) : State :=
  let core := s.core c
  s.setCore c { core with
    slots := tableErase core.slots slot
    holder := if core.holder = some slot then none else core.holder
    last := if core.holder = some slot then slot else core.last }

/-! ## Homes and meeting cores -/

/-- The hash of a key and a scope identity (R233). -/
def meetHash (key sid : Word64) : Nat :=
  let lo (x : Word64) : BitVec 32 := x.extractLsb' 0 32
  let hi (x : Word64) : BitVec 32 := x.extractLsb' 32 32
  (mix (lo key ^^^ mix (hi key ^^^ mix (lo sid ^^^ mix (hi sid))))).toNat

/-- The home quad of a party (R233). -/
def State.meetHome (s : State) (a : Act) (p : Party) : Nat :=
  let qs := s.scopeQuads p.kind p.rect a.homeCore
  qs[meetHash p.key p.sid % max qs.length 1]?.getD (coreQuad a.homeCore)

/-- Twice the distance of a core to the midpoint of two cores (R235). -/
def midDistance (c c1 c2 : Nat) : Nat :=
  let d (x y z : Nat) : Nat := ((2 * x : Int) - (y + z)).natAbs
  d (coreX c) (coreX c1) (coreX c2) + d (coreY c) (coreY c1) (coreY c2)

/-- The cores from which a meeting core is drawn (R235). -/
def State.meetCores (s : State) (p : Party) (origin : Nat) : List Nat :=
  let cs := if p.kind = 5 then (List.range 2048).filter (inRect p.rect)
    else (s.scopeQuads p.kind p.rect origin).flatMap quadCores
  cs.filter s.live

/-- The better of two candidates: the nearer, then the lower index. -/
def nearer (f : Nat → Nat) (a b : Nat) : Nat := if f b < f a ∨ (f b = f a ∧ b < a) then b else a

/-- The meeting core of a pair with origin cores c1 and c2, if there is a candidate (R235). -/
def State.meetCore? (s : State) (p : Party) (origin c1 c2 : Nat) : Option Nat :=
  let f := fun c => midDistance c c1 c2
  match (s.meetCores p origin).filter (fun c => (s.core c).visitors.isEmpty && decide (f c ≤ 16)) with
  | [] => none
  | c :: cs => some (cs.foldl (nearer f) c)

/-! ## Luggage and trips -/

/-- Lines of a range that hold poison, by number within the range. -/
def State.badLocal (s : State) (c a n : Nat) : List Nat :=
  (List.range (n / 64)).filter (fun i => sparseGet false (s.core c).lmPoison (a / 64 + i))

/-- Marking lines of local memory as poisoned. -/
def State.markBad (s : State) (c a : Nat) (ls : List Nat) : State :=
  let core := s.core c
  s.setCore c { core with lmPoison := ls.foldl (fun m i => sparseSet false m (a / 64 + i) true) core.lmPoison }

/-- A party leaves its origin slot, which stays held for it, with its luggage (R236). -/
def State.departOut (s : State) (aid partner partnerCore role core : Nat) : State :=
  let s := s.settle (s.act aid).core aid
  let a := s.act aid
  match a.party with
  | none => s
  | some p =>
    let bytes := s.lmRead a.core p.l0 p.len
    let bad := s.badLocal a.core p.l0 p.len
    let s := s.setAct aid { a.setMg 3 with
      party := some { p with partner := partner, partnerCore := partnerCore, role := role, meetCore := core
                             bytes := bytes, badLines := bad } }
    let s := s.freeSlot a.core a.slot
    s.setCore a.core { s.core a.core with held := tableSet (s.core a.core).held a.slot aid }

/-- Both parties of a pair set out for their meeting core; role 0 has the lower origin core, or the lower slot (R235). -/
def State.startPair (s : State) (q : Nat) (e : MeetEntry) (b : MeetArr) (core : Nat) : State :=
  let x := s.act e.first.act
  let y := s.act b.act
  let firstIs0 := decide (x.homeCore < y.homeCore) || (x.homeCore == y.homeCore && decide (x.homeSlot < y.homeSlot))
  let (a0, a1) := if firstIs0 then (e.first.act, b.act) else (b.act, e.first.act)
  let s := s.setQuad q { s.quad q with meet := (s.quad q).meet.filter (fun z => z != e) }
  let s := s.setCore core { s.core core with visitors := [a0, a1] }
  let c0 := (s.act a0).homeCore
  let c1 := (s.act a1).homeCore
  (s.departOut a0 a1 c1 0 core).departOut a1 a0 c0 1 core

/-- A QUEUED pair tries to find its meeting core (R235). -/
def State.tryPair (s : State) (q : Nat) (e : MeetEntry) : State :=
  match e.second with
  | none => s
  | some b =>
    let x := s.act e.first.act
    match x.party with
    | none => s
    | some p =>
      match s.meetCore? p x.homeCore x.homeCore (s.act b.act).homeCore with
      | none => s
      | some core => s.startPair q e b core

/-- The QUEUED pairs of the package, oldest pairing first: home and entry. -/
def State.queuedPairs (s : State) : List (Nat × MeetEntry) :=
  sortBy (fun x => x.2.paired)
    (s.quads.flatMap (fun x => (x.2.meet.filter (fun e => e.second.isSome)).map (x.1, ·)))

/-- Every home retries its QUEUED pairs (R235). -/
def State.retryPairs (s : State) : State := s.queuedPairs.foldl (fun s x => s.tryPair x.1 x.2) s

/-- A reservation of a visitor slot ends; with the last of the pair every home retries (R235, R241). -/
def State.leaveVisitor (s : State) (core aid : Nat) : State :=
  let s := s.setCore core { s.core core with visitors := (s.core core).visitors.filter (fun z => z != aid) }
  if (s.core core).visitors.isEmpty then s.retryPairs else s

/-- THE TRIP HOME STARTS (R241): the visitor slot is freed and the luggage travels with the party. -/
def State.startPart (s : State) (aid : Nat) (op : Option Nat) (exiting : Bool) : State :=
  let a := s.act aid
  match a.party with
  | none => s
  | some p =>
    let base := visitorBase a.slot
    let s := s.setAct aid { a.setMg 5 with
      party := some { p with parted := true, partOp := op, exiting := exiting
                             bytes := s.lmRead a.core base p.len, badLines := s.badLocal a.core base p.len } }
    let b := s.act p.partner
    let s := match b.party with
      | some q => if q.partner = aid ∧ (tableGet? s.acts p.partner).isSome then
            s.setAct p.partner { b with party := some { q with partnerParted := true } } else s
      | none => s
    let s := s.freeSlot a.core a.slot
    s.leaveVisitor a.core aid

end Sys2Proof.Machine
end

