-- ==== Sys2Proof/Machine/Issue.lean ====
section
/-! DEFINITION. Issue: fetching a word, which slot is ready, how the port passes, and the one pipeline every word goes
through: encoding checks that depend on the state, waits, live bits, poison, the word's own effect, and what issuing
does to the context and its core (R23..R25, R94..R108, R143). -/
namespace Sys2Proof.Machine

/-! ## Fetch (R97, R143) -/

/-- The parts of a word of a code object, offset and bytes: two where it crosses a page. -/
def codeParts (off : Nat) : List (Nat × Nat) :=
  let n := min 10 (65536 - off % 65536)
  if n = 10 then [(off, 10)] else [(off, n), (off + n, 10 - n)]

/-- The home address of bytes of a code object, by the core's cached translation or as a walk would give it. -/
def State.codeAddr (s : State) (a : Act) (obj off n : Nat) : Except Trap Nat :=
  let x : Access := { object := obj, offset := off, bytes := n, write := false }
  match (s.core a.core).otcFind x with
  | some e => (match accessFault e x with | some t => .error t | none => .ok (e.addr off))
  | none => (match s.walk a.part x with | .ok (e, _) => .ok (e.addr off) | .error t => .error t)

/-- Bytes of a code object within a page. A fetch is a read at the lines' home: it takes its turn there (R143, R154). -/
def State.codePart (s : State) (a : Act) (obj off n : Nat) : Except Trap (List Byte) :=
  match s.codeAddr a obj off n with
  | .error t => .error t
  | .ok p =>
    let v := (linesOf p n).foldl State.portTurn s
    match v.badUnit p n with
    | some u => .error { cause := cUNCORR, detail := uncorrDetail u 0 obj, addr := w64 (off + (v.badAt p n - p)) }
    | none => .ok (v.memRead p n)

/-- Ten bytes of a code object, which may cross a page. -/
def State.codeBytes (s : State) (a : Act) (obj off : Nat) : Except Trap (List Byte) :=
  (codeParts off).foldl (fun (r : Except Trap (List Byte)) x =>
    match r with
    | .error t => .error t
    | .ok bs => (match s.codePart a obj x.1 x.2 with | .error t => .error t | .ok cs => .ok (bs ++ cs))) (.ok [])

/-- The word read from memory at an index of the code object. -/
def State.codeWord (s : State) (a : Act) (pc : Nat) : Except Trap Word80 :=
  if isArmature a.core then .ok (BitVec.ofNat 80 (bytesToNat (sparseRead (s.core a.core).imem (10 * pc) 10)))
  else match s.codeBytes a (bits a.code 63 40) (10 * pc) with
    | .error t => .error t
    | .ok bs => .ok (BitVec.ofNat 80 (bytesToNat bs))

/-- The key of a word fetched ahead. -/
def Act.fetchKey (a : Act) (pc : Nat) : Nat := bits a.code 63 40 * 2 ^ 32 + pc

/-- FETCHING the context's next word: beyond the code object it raises CAPBOUND; a word fetched ahead is used as it was
fetched. -/
def State.fetch (s : State) (a : Act) : Except Trap Word80 :=
  if bits a.code 31 0 ≤ a.pc.toNat then .error (mkTrap cCAPBOUND 3 (a.pc.setWidth 64))
  else match tableGet? a.fetched (a.fetchKey a.pc.toNat) with
    | some w => .ok w
    | none => s.codeWord a a.pc.toNat

/-- The access whose translation the fetch of the context's next word misses: it needs a walk (R307). -/
def State.codeMiss (s : State) (a : Act) : Option Access :=
  if isArmature a.core ∨ bits a.code 31 0 ≤ a.pc.toNat ∨ (tableGet? a.fetched (a.fetchKey a.pc.toNat)).isSome = true then none
  else
    ((codeParts (10 * a.pc.toNat)).map (fun (x : Nat × Nat) =>
      ({ object := bits a.code 63 40, offset := x.1, bytes := x.2, write := false } : Access))).find?
      (fun x => ((s.core a.core).otcFind x).isNone)

/-- The fetch uses its translations, and it reads its lines at their homes. -/
def State.fetchTouch (s : State) (a : Act) : State :=
  if isArmature a.core ∨ (tableGet? a.fetched (a.fetchKey a.pc.toNat)).isSome = true then s
  else (codeParts (10 * a.pc.toNat)).foldl (fun (s : State) x =>
    match (s.core a.core).otcFind { object := bits a.code 63 40, offset := x.1, bytes := x.2, write := false } with
    | some e => s.setCore a.core ((s.core a.core).otcUse e)
    | none => s) s

/-- A fetch that meets uncorrectable data records it for its gang, as a load does: code is written by no mould's owner, so that
only a bad clean copy is restorable, and it is dropped (R8, R332; log 44). -/
def State.noteFetch (s : State) (a : Act) (t : Trap) : State :=
  if t.cause = cUNCORR then
    match s.codeAddr a (bits a.code 63 40) t.addr.toNat 1 with
    | .ok p => (s.noteUncorr a.gang { detail := t.detail, addr := t.addr }
        (s.journals.any (fun e => e.2.gang == a.gang && e.2.line == p / 64) || !poisoned s.memPoison p 1)).mcRefetch p 1
    | .error _ => s
  else s

/-! ## Readiness and the port (R23..R25) -/

/-- The context that holds a core's port. -/
def State.portAct (s : State) (c : Nat) : Option Nat :=
  match (s.core c).holder with
  | some h => tableGet? (s.core c).slots h
  | none => none

/-- The quad's debug module holds the core back (R340). -/
def State.haltedCore (s : State) (c : Nat) : Bool := !isArmature c && (s.quad (coreQuad c)).halting

/-- An SSTEP of the gang is complete but for its moulds: no participant issues a word while they are written (R329). -/
def State.moulding (s : State) (gid : Nat) : Bool :=
  s.insts.any (fun x => x.2.gang == gid && x.2.kind == 6 && x.2.early.isSome && x.2.done.isNone)

/-- The context is held back, by the debug module or for its mould: a handler runs on to its TRET first (R299, R304; log 64). -/
def State.heldBack? (s : State) (a : Act) : Bool := (s.haltedCore a.core || s.moulding a.gang) && !a.tip

/-- A memory word of the activity has not completed, or a write of it that has been accepted is held back (R153, R286). -/
def State.memBusy (s : State) (aid : Nat) : Bool :=
  s.ops.any (fun x => x.2.act == aid && x.2.memWord)
    || s.reqs.any (fun x => x.2.act == aid && x.2.accepted && x.2.performed == none)

/-- Earlier memory words of an activity than one have completed. -/
def State.memDone (s : State) (aid num : Nat) : Bool :=
  !(s.ops.any (fun x => x.2.act == aid && x.2.memWord && decide (x.2.num < num)))
    && !(s.reqs.any (fun x => x.2.act == aid && x.2.accepted && x.2.performed == none && decide (x.2.num < num)))

/-- The operations that the tags of a word make it wait for (R102, R103). -/
def State.heldTags (s : State) (aid : Nat) (a : Act) (alloc wait park : Nat) : List Op :=
  let mine := (s.ops.filter (fun x => x.2.act == aid && x.2.bank == a.tip)).map (·.2)
  if park = 1 then mine else mine.filter (fun o => o.tag == alloc || (wait / 2 ^ (o.tag - 1) % 2 == 1))

/-- A wait on operations, for a word that parks or not: none, a switch (true) or a stall (false) (R23, R24). -/
def waitKind (parks : Bool) (l : List Op) : Option Bool :=
  if l.isEmpty then none else some (parks || l.any (·.offCore))

/-- What the tags of a word make it wait for. -/
def State.tagWait (s : State) (aid : Nat) (a : Act) (alloc wait park : Nat) : Option Bool :=
  waitKind (park == 1) (s.heldTags aid a alloc wait park)

/-- MEET and PART wait for every tag as if they carried park (R236, R257). -/
def parksAll (opcode : Nat) : Bool := opcode == 0xA0 || opcode == 0xA1

/-- What a context's next word waits for, read from the word itself: whether it parks, and the operations; an annulled word
waits for nothing (R96). -/
def State.nextTags (s : State) (aid : Nat) (a : Act) : Bool × List Op :=
  if a.annulled || (s.codeMiss a).isSome then (false, [])
  else match s.fetch a with
    | .error _ => (false, [])
    | .ok w =>
      let cl := Clauses.ofWord w
      if parksAll (w.toNat / 2 ^ 72) then (true, (s.opsOf aid).map (·.2))
      else (cl.park == 1, s.heldTags aid a cl.alloc.toNat cl.wait.toNat cl.park.toNat)

/-- The wait of a context's next word. -/
def State.nextWait (s : State) (aid : Nat) (a : Act) : Option Bool :=
  waitKind (s.nextTags aid a).1 (s.nextTags aid a).2

/-- The operation of a word that may fault after its issue. -/
def OpKind.mayFault (k : OpKind) : Bool :=
  match k with
  | .matrix _ (.restDev _ _) => true
  | .launch _ _ _ _ => true
  | _ => false

/-- An acquire of the activity is outstanding off-core (R153). -/
def State.acquiring (s : State) (aid : Nat) : Bool := s.ops.any (fun x => x.2.act == aid && x.2.acq && x.2.offCore)

/-- Why a blocked context may go on. -/
def State.unblocked (s : State) (aid : Nat) (a : Act) : Bool :=
  match a.block with
  | none => true
  | some (.walk _ _ _ _ _) => false
  | some .release => !s.memBusy aid
  | some .acquire => !s.acquiring aid
  | some .exit => (s.opsOf aid).isEmpty
  | some (.engine k q n id) => s.engineDue k q n id
  | some .verdict => !(s.ops.any (fun x => x.2.act == aid && x.2.kind.mayFault))
  | some .wfi => s.intPending a
  | some .partner => (match a.party with | some p => (s.act p.partner).run != .saved | none => true)
  | some .yielded => true

/-- A slot is ready (R25). A pending trap makes it ready once its tags allow the entry (R295). -/
def State.ready (s : State) (c slot : Nat) : Bool :=
  match tableGet? (s.core c).slots slot with
  | none => false
  | some aid =>
    let a := s.act aid
    a.run == .inService && !s.heldBack? a &&
      (match a.duePend with
        | some _ => s.quiet aid
        | none => (s.interruptOf a).isSome || (s.unblocked aid a && (s.nextWait aid a).isNone))

/-- The context of a slot gives up the port (R23): it has left service, a trap of it waits for its tags (log 8), or its next
word waits as an off-core wait or park does. A wait on on-quad tags alone stalls (R24), and a core that the debug module
holds passes nothing. -/
def State.givesUp (s : State) (c slot : Nat) : Bool :=
  match tableGet? (s.core c).slots slot with
  | none => true
  | some aid =>
    let a := s.act aid
    !s.heldBack? a && (a.run != .inService ||
      (match a.duePend with
        | some _ => !s.quiet aid
        | none => (s.interruptOf a).isNone && (!s.unblocked aid a || s.nextWait aid a == some true)))

/-- The next ready slot in ring order after a slot, looking at n slots. -/
def State.ringFind (s : State) (c start n : Nat) : Option Nat :=
  ((List.range n).map (fun i => (start + 1 + i) % 8)).find? (s.ready c)

/-- THE PORT PASSES (R25): the leaving context's fixed-latency results are written, and the incoming context's first word
issues no earlier than the cycle after the last of them and the second cycle after the last issued word. -/
def State.passPort (s : State) (c : Nat) (dest : Option Nat) : State :=
  let core := s.core c
  let (landed, s) := match s.portAct c with
    | some aid => ((s.act aid).landEnd, s.setAct aid (s.act aid).landAll)
    | none => (0, s)
  let last := match core.holder with | some h => h | none => core.last
  let core := s.core c
  s.setCore c { core with
    holder := dest, last := last
    cycle := match dest with
      | some _ => max core.cycle (max landed (core.lastIssue + 2))
      | none => max core.cycle landed }

/-- A context gives up the port and the search runs over all eight slots. -/
def State.switchPort (s : State) (c : Nat) : State :=
  let start := match (s.core c).holder with | some h => h | none => (s.core c).last
  let s := match s.portAct c with
    | some aid => s.setAct aid { s.act aid with parkTick := s.tick }
    | none => s
  s.passPort c (s.ringFind c start 8)

/-- One cycle of a core in which no word issues: results that fall due are written. -/
def State.idle (s : State) (c : Nat) : State :=
  let core := s.core c
  let s := s.setCore c { core with cycle := core.cycle + 1 }
  match s.portAct c with
  | some aid => s.setAct aid ((s.act aid).landDue (core.cycle + 1))
  | none => s

/-- The port waits until the next fixed-latency result is written (R99). -/
def State.awaitWrite (s : State) (c aid : Nat) : State :=
  match (s.act aid).nextDue with
  | some d =>
    let d := max d (s.core c).cycle
    (s.setCore c { s.core c with cycle := d }).setAct aid ((s.act aid).landDue d)
  | none => s

/-! ## Leaving a slot -/

/-- The activity ceases to exist: its slot is freed and its crew may end (R33, R136). -/
def State.endActivity (s : State) (aid : Nat) : State :=
  let a := s.act aid
  let s := s.freeSlot a.core a.slot
  let s := { s with acts := tableErase s.acts aid }
  let g := s.gang a.gang
  match tableGet? g.crews a.crew with
  | none => s
  | some cr =>
    let acts := cr.acts.filter (fun x => x != aid)
    s.setGang a.gang { g with
      crews := tableSet g.crews a.crew { cr with acts := acts, finished := acts.isEmpty } }

/-! ## The effect of a word -/

/-- What follows a word's issue. -/
inductive Post where
  | none
  /-- a trap taken before the next word (R133, R134) -/
  | trap (t : Trap)
  /-- a return from a trap (R135) -/
  | ret
  | exit
  /-- a party sets out for home: PART with its operation, EXIT in a visitor slot without one (R33, R241) -/
  | part (op : Option Nat)
  | yield
  | wfi
  /-- the word may still fault: no later word issues before it has ended (log 8) -/
  | verdict
  /-- BRK with the quad's brk bit set: the quad halts (R134, R340) -/
  | halt
deriving DecidableEq, Repr

/-- A word's effect: the state with its memory and unit effects, its fixed-latency results, and what follows. -/
structure Eff where
  st : State
  writes : List RegWrite := []
  lat : Nat := 1
  flags : BitVec 5 := 0
  lk : Option (BitVec 32) := none
  lc : Option Word64 := none
  op : Option Nat := none
  post : Post := .none
deriving DecidableEq, Repr

/-- How a word's own part ends: a precise fault; nothing issues and the state moves on; it gives up the port; or it
issues. -/
inductive Res where
  | trap (t : Trap)
  | hold (s : State)
  | wait (b : Block)
  | go (e : Eff)
deriving DecidableEq, Repr

/-- What a word waits for beyond its tags and pd. -/
structure Need where
  /-- every tag of the activity (MEET, PART) -/
  allTags : Bool := false
  /-- every tag of the activity, once it has issued (EXIT) -/
  exit : Bool := false
  /-- every earlier memory word (a release, a barrier arrival) -/
  release : Bool := false
  /-- a memory word, held by an outstanding acquire -/
  memWord : Bool := false
  /-- the core's divider -/
  divider : Bool := false
  /-- a place in the matrix unit's queue, and the tags of the tiles -/
  matrix : Bool := false
deriving DecidableEq, Repr

/-- The redirect a word appends and the new lk and lc (R94), from the values read at issue. -/
def Act.sequence (a : Act) (cl : Clauses) : Option RdqEntry × BitVec 32 × Word64 :=
  let m := cl.seqMode.toNat
  if m = 0 ∨ m = 7 then (none, a.lk, a.lc)
  else
    let lc := if m = 6 then a.lc - 1 else a.lc
    let pbit := (a.p cl.seqP.toNat).getLsbD 0
    let taken := match m with
      | 2 => pbit
      | 3 => !pbit
      | 6 => decide (lc ≠ 0)
      | _ => true
    let target := if m = 5 then a.lk else a.b cl.seqB.toNat
    let ann := (decide (cl.annul = 1) && !taken) || (decide (cl.annul = 2) && taken)
    (some { valid := true, taken := taken, annul := ann, rem := 2, target := target },
      if m = 4 then a.pc + 3 else a.lk, lc)

/-- What an issue, executed or annulled, does to the counts of its context. -/
def Act.counted (a : Act) (op : Option Nat) : Act :=
  { a with words := a.words + 1, num := a.num + 1, lastOp := op, lastPc := a.pc, lastQ0 := a.rdq0, lastQ1 := a.rdq1 }

/-- What undoing the issue of a waiting word needs (R300). -/
def Act.remember (a a0 : Act) (freed : List RegName) : Act :=
  { a with lastLk := a0.lk, lastLc := a0.lc, lastFreed := freed }

/-- The core's side of an issue: the cycle passes. -/
def State.clocked (s : State) (c : Nat) : State :=
  let core := s.core c
  s.setCore c { core with cycle := core.cycle + 1, lastIssue := core.cycle }

/-- The order of an issue's effects on its context: sequencing, releases, results on their way, the queue, then the end of
the cycle, when results of latency 1 are written (R94, R95, R99, R106). A result that lands in the cycle in which its register is
released leaves it live (R107; for DEADMK the model's choice, log 76). -/
def Act.retire (a0 a : Act) (i : Instr) (cl : Clauses) (cycle : Nat) (e : Eff) : Act :=
  let (new, lk, lc) := a0.sequence cl
  let a := { a with lk := e.lk.getD lk, lc := e.lc.getD lc }
  let a := (releases i cl).foldl Act.release a
  let regs := e.writes.map (·.reg)
  let a := if e.writes.isEmpty ∧ e.flags = 0 then a
    else { a with fixed := a.fixed ++
      [{ due := a.dueFor regs (cycle + e.lat), pos := a0.num, writes := e.writes, flags := e.flags }] }
  (((a.counted e.op).remember a0 ((releases i cl).filter a0.live)).advance new).landDue (cycle + 1)

/-- A quad is halted, and with it, if it drives the cross-trigger, every quad that listens (R339, R340). -/
def State.haltQuad (s : State) (q : Nat) : State :=
  let s := s.setQuad q { s.quad q with halting := true }
  if (s.quad q).qdstat.getLsbD 62 then
    { s with quads := s.quads.map (fun (x : Nat × Quad) =>
        if x.2.qdctl.getLsbD 2 then (x.1, { x.2 with halting := true }) else x) }
  else s

/-- What follows the issue. -/
def State.after (s : State) (c aid : Nat) (word : BitVec 32) (p : Post) : State :=
  match p with
  | .none => s
  | .trap t => s.takeTrap aid { cause := t.cause, detail := t.detail, addr := t.addr, word := word }
  | .ret =>
    let s := s.settle c aid
    s.setAct aid (s.act aid).trapReturn
  | .exit =>
    let a := s.act aid
    let s := (s.settle c aid).endActivity aid
    s.passPort c (s.ringFind c a.slot 8)
  | .part op =>
    let a := s.act aid
    let s := (s.settle c aid).startPart aid op op.isNone
    s.passPort c (s.ringFind c a.slot 8)
  | .yield =>
    match s.ringFind c (s.act aid).slot 7 with
    | some n => s.passPort c (some n)
    | none => s
  | .wfi =>
    if s.intPending (s.act aid) then s
    else (s.setAct aid { s.act aid with block := some .wfi }).switchPort c
  | .verdict => (s.setAct aid { s.act aid with block := some .verdict }).switchPort c
  | .halt => s.haltQuad (coreQuad c)

/-- The sample that issuing an operation's word has made, from the state `s` before it to `t`, is kept with the operation. -/
def State.keepSample (s : State) (op : Option Nat) (t : State) : State :=
  match op with
  | none => t
  | some oid =>
    match t.op? oid with
    | none => t
    | some o => { t with recs := s.recs, ops := tableSet t.ops oid { o with sample := t.recs.drop s.recs.length } }

/-- Issuing a word with its effect. A word that may still fault is sampled when it has not (R344). -/
def State.issue (s : State) (c aid : Nat) (i : Instr) (cl : Clauses) (e : Eff) : State :=
  let a0 := s.act aid
  let cycle := (s.core c).cycle
  let s := e.st
  let s := s.setAct aid (a0.retire (s.act aid) i cl cycle e)
  let s := s.clocked c
  let t := s.stipple c a0 (opcodeOf i) false (if e.op.isSome then none
    else some (if e.writes.isEmpty then 0 else a0.dueFor (e.writes.map (·.reg)) (cycle + e.lat) - cycle))
  (if e.post = .verdict then s.keepSample e.op t else t).after c aid a0.pc e.post

/-- An annulled word (R96). -/
def State.issueAnnulled (s : State) (c aid : Nat) : State :=
  let a := s.act aid
  let cycle := (s.core c).cycle
  let op := match s.fetch a with | .ok w => w.toNat / 2 ^ 72 | .error _ => 0
  let s := s.setAct aid (((a.counted none).advance none).landDue (cycle + 1))
  let s := s.clocked c
  s.stipple c a op true (some 0)

/-- A precise fault of the next word (R98). -/
def State.raise (s : State) (aid : Nat) (t : Trap) : State :=
  s.takeTrap aid { cause := t.cause, detail := t.detail, addr := t.addr, word := (s.act aid).pc }

/-- A request for a walk queues in arrival order, once (R307). -/
def State.askWalk (s : State) (w : WalkReq) : State :=
  if s.walks.contains w then s else { s with walks := s.walks ++ [w] }

/-- A word that waits for a walk asks for it, and for no other. -/
def State.joinWalks (s : State) (aid : Nat) (b : Block) : State :=
  match b with
  | .walk obj off n write atom =>
    let a := s.act aid
    { s with walks := s.walks.filter (fun x => !(x.act == aid && x.who == WalkFor.word)) }.askWalk
      { act := aid, part := a.part, core := a.core, object := obj, offset := off, bytes := n, write := write, atom := atom }
  | _ => s

/-- A blocked word gives up the port. -/
def State.blockOn (s : State) (c aid : Nat) (b : Block) : State :=
  ((s.joinWalks aid b).setAct aid { s.act aid with block := some b }).switchPort c

/-- A tile's image is on its way from device memory, so that the tile's tag is not known yet (R208). -/
def OpKind.restoresOn (k : OpKind) (c : Nat) : Bool :=
  match k with
  | .matrix x (.restDev _ _) => x == c
  | _ => false
def State.restoring (s : State) (c : Nat) : Bool := s.ops.any (fun x => x.2.kind.restoresOn c)

/-- The operation occupies a core's divider (R113). -/
def OpKind.divOn (k : OpKind) (c : Nat) : Bool :=
  match k with
  | .div x _ _ => x == c
  | _ => false

/-- EXIT ISSUES WHILE TAGS ARE BUSY (R33): its cycle passes, a mark of it is sampled (R344), its port passes on, and it ends with
its last tag. -/
def State.exitParks (s : State) (c aid : Nat) : State :=
  let a := s.act aid
  (((s.clocked c).stipple c a 0x2F false (some 0)).setAct aid { a with block := some .exit, lastOp := none }).switchPort c

/-- The waits of R108 step 2; none when the word may go on. MEET and PART give up the port for any busy tag, as a word that
parks does (R103, R236, R257). -/
def State.waits (s : State) (c aid : Nat) (a : Act) (cl : Clauses) (n : Need) : Option State :=
  if n.allTags = true ∧ (s.opsOf aid).isEmpty = false then some (s.switchPort c)
  else match s.tagWait aid a cl.alloc.toNat cl.wait.toNat cl.park.toNat with
  | some true => some (s.switchPort c)
  | some false => some (s.idle c)
  | none =>
    if a.fixed.any (fun w => decide (a.num ≤ w.pos + cl.pd.toNat)) then some (s.awaitWrite c aid)
    else if n.exit = true ∧ (s.opsOf aid).isEmpty = false then some (s.exitParks c aid)
    else if n.release = true ∧ s.memBusy aid = true then some (s.blockOn c aid .release)
    else if n.memWord = true ∧ s.ops.any (fun x => x.2.act == aid && x.2.acq) = true then
      (if s.acquiring aid then some (s.blockOn c aid .acquire) else some (s.idle c))
    else if n.divider = true ∧ s.ops.any (fun x => x.2.kind.divOn c) = true then some (s.idle c)
    else if n.matrix = true ∧ (4 ≤ (s.core c).mqueue.length ∨ s.restoring c = true) then some (s.idle c)
    else none

/-- The first source that is not live, with DEADREG's detail (R107, R296). -/
def deadTrap (a : Act) (rs : List RegName) : Option Trap :=
  match rs.find? (fun r => !a.live r) with
  | some r => some (mkTrap cDEADREG (r.num + r.file.code * 256))
  | none => none

/-- The first source that carries poison (R155). -/
def poisonTrap (a : Act) (rs : List RegName) : Option Trap :=
  match rs.findSome? a.poison? with
  | some p => some { cause := cUNCORR, detail := p.detail, addr := p.addr }
  | none => none

/-- The context whose word `exec` runs: the one that holds the port of the core in focus. -/
def State.current (s : State) : Option (Nat × Nat) :=
  match s.portAct s.focus with
  | some aid => some (s.focus, aid)
  | none => none

/-- EVERY WORD goes through here, in the order of R108: encoding checks that depend on the state (`pre`), waits, live
bits, poison, then the word's own checks and effect. What it waits for may depend on the context. -/
def runWith (i : Instr) (cl : Clauses) (need : Act → Need) (pre : Act → State → Option Trap)
    (body : Nat → Nat → Act → State → Res) (s : State) : Host.Outcome State Fault Refusal :=
  match s.current with
  | none => .fault .noContext
  | some (c, aid) =>
    let a := s.act aid
    match pre a s with
    | some t => .next (s.raise aid t)
    | none =>
      match s.waits c aid a cl (need a) with
      | some s' => .next s'
      | none =>
        let rs := sources a i cl
        match deadTrap a rs with
        | some t => .next (s.raise aid t)
        | none =>
          match poisonTrap a rs with
          | some t => .next (s.raise aid t)
          | none =>
            match body c aid a s with
            | .trap t => .next (s.raise aid t)
            | .hold s' => .next s'
            | .wait b => .next (s.blockOn c aid b)
            | .go e => .next (s.issue c aid i cl e)

/-- A word whose waits do not depend on the context. -/
def run (i : Instr) (cl : Clauses) (n : Need) (pre : Act → State → Option Trap)
    (body : Nat → Nat → Act → State → Res) (s : State) : Host.Outcome State Fault Refusal :=
  runWith i cl (fun _ => n) pre body s

/-- No encoding check of its own. -/
def noPre (_ : Act) (_ : State) : Option Trap := none

/-- A word that writes registers after a fixed latency and has no other effect. -/
def fixedRes (s : State) (lat : Nat) (ws : List RegWrite) (flags : BitVec 5 := 0) : Res :=
  .go { st := s, writes := ws, lat := lat, flags := flags }

/-- A word without a register result. -/
def effectRes (s : State) : Res := .go { st := s }

/-- Adding a tagged operation: its number and the state with it. -/
def State.addOp (s : State) (o : Op) : Nat × State :=
  let (n, s) := s.take
  (n, { s with ops := tableSet s.ops n o })

/-- An operation of a word, with the fields every one has. -/
def mkOp (aid : Nat) (a : Act) (i : Instr) (cl : Clauses) (offCore memWord : Bool) (dsts : List RegName) (k : OpKind) :
    Op :=
  { act := aid, tag := cl.alloc.toNat, bank := a.tip, num := a.num, opcode := opcodeOf i, word := a.pc
    offCore := offCore, memWord := memWord, dsts := dsts, kind := k }

/-- A scalar destination as an operation's; s0 discards the write (R110). -/
def dstS (d : Nat) : List RegName := if d = 0 then [] else [sreg d]

/-- A word whose only effect is an operation. -/
def opRes (s : State) (o : Op) : Res :=
  let (n, s) := s.addOp o
  .go { st := s, op := some n }

/-- An activity that has issued EXIT ends with its last tag: at home its slot is freed, in a visitor slot it parts (R33,
R136). -/
def State.endExit (s : State) (aid : Nat) : State :=
  let a := s.act aid
  if a.block == some .exit && (s.opsOf aid).isEmpty && a.run == .inService && a.trapPend.isNone && !s.heldBack? a then
    if a.visitor then s.startPart aid none true else s.endActivity aid
  else s

/-- The sample of a word that has not faulted is recorded (R344). -/
def State.sampled (s : State) (o : Op) : State :=
  if o.sample.isEmpty then s else { s with recs := s.recs ++ o.sample }

/-- A tag clears with its results; the tag of an acquire or FENCE at a scope wider than core invalidates the L1 read
cache (R50, R153). -/
def State.clearTag (s : State) (oid : Nat) (o : Op) (ws : List RegWrite) : State :=
  let s := if o.wide then s.l1Clear (s.act o.act).core else s
  ((s.sampled o).finishOp oid o ws).endExit o.act

/-- A trap of a word that has issued and behind which none has (an MREST from device memory, LAUNCH), or of a wait that a save
area brought back: the tag clears and the trap comes before the next word. The word is taken back first, so that it is the
resume word (R98, R300; log 8). -/
def State.lateTrap (s : State) (oid : Nat) (o : Op) (t : Trap) : State :=
  let s := { s with ops := tableErase s.ops oid }
  let a := s.act o.act
  let a := if a.lastOp = some oid ∧ a.tip = o.bank then { a.undoIssue with block := none } else a
  let t : TrapReq := { cause := t.cause, detail := t.detail, addr := t.addr, word := o.word, late := !o.bank }
  s.setAct o.act (match a.trapPend with
    | some _ => { a with traps := a.traps ++ [t] }
    | none => { a with trapPend := some t })

end Sys2Proof.Machine
end

