-- ==== Sys2Proof/Machine/Scalar.lean ====
section
/-! DEFINITION. Scalar arithmetic, logic, shifts, bit fields, constants, compares, lane masks and selection
(0x00..0x24, R112..R122) and CRC32C (R147). -/
namespace Sys2Proof.Machine

/-- A word of two scalar sources and a scalar result of fixed latency. -/
def scalar2 (i : Instr) (cl : Clauses) (lat : Nat) (d a b : BitVec 6) (f : Word64 → Word64 → Word64) (s : State) :
    Host.Outcome State Fault Refusal :=
  run i cl {} noPre (fun _ _ x st => fixedRes st lat [wS d.toNat (f (x.s a.toNat) (x.s b.toNat))]) s

/-- A word of one scalar source and a scalar result of latency 1. -/
def scalar1 (i : Instr) (cl : Clauses) (d a : BitVec 6) (f : Word64 → Word64) (s : State) :
    Host.Outcome State Fault Refusal :=
  run i cl {} noPre (fun _ _ x st => fixedRes st 1 [wS d.toNat (f (x.s a.toNat))]) s

/-- The upper half of a signed product (R112). -/
def mulhS (x y : Word64) : Word64 := wOfInt (x.toInt * y.toInt / 2 ^ 64)
/-- The upper half of an unsigned product (R112). -/
def mulhU (x y : Word64) : Word64 := w64 (x.toNat * y.toNat / 2 ^ 64)

/-- Quotient and remainder, signed: truncation toward zero, y = 0 and the one overflow as R113 states. -/
def divS (x y : Word64) : Word64 × Word64 :=
  if y = 0 then (BitVec.allOnes 64, x)
  else if x = 0x8000000000000000 ∧ y = BitVec.allOnes 64 then (0x8000000000000000, 0)
  else (wOfInt (x.toInt.tdiv y.toInt), wOfInt (x.toInt.tmod y.toInt))

/-- Quotient and remainder, unsigned (R113). -/
def divU (x y : Word64) : Word64 × Word64 :=
  if y = 0 then (BitVec.allOnes 64, x) else (w64 (x.toNat / y.toNat), w64 (x.toNat % y.toNat))

/-- A divide word: it waits for the core's divider, and its result comes under its tag (R113). -/
def divide (i : Instr) (cl : Clauses) (d a b : BitVec 6) (f : Word64 → Word64 → Word64) (s : State) :
    Host.Outcome State Fault Refusal :=
  run i cl { divider := true } noPre (fun c aid x st =>
    opRes st (mkOp aid x i cl false false (dstS d.toNat)
      (.div c d.toNat (f (x.s a.toNat) (x.s b.toNat))))) s

/-- Number of leading zero bits (R116). -/
def clz (x : Word64) : Word64 := w64 (64 - bitLen x.toNat)
/-- Number of set bits (R116). -/
def popcount (x : Word64) : Word64 := w64 ((List.range 64).foldl (fun n i => if x.getLsbD i then n + 1 else n) 0)

/-- A bit field, zero- or sign-extended (R117). -/
def bfExtract (sx : Bool) (lo wd : Nat) (x : Word64) : Word64 :=
  let f := x.toNat / 2 ^ lo % 2 ^ wd
  if sx then wOfInt (sextNat f wd) else w64 f

/-- A bit field replaced (R117). -/
def bfInsert (lo wd : Nat) (x y : Word64) : Word64 :=
  let m := w64 ((2 ^ wd - 1) * 2 ^ lo)
  (y &&& ~~~m) ||| (w64 (x.toNat % 2 ^ wd * 2 ^ lo) &&& m)

/-- One bit of CRC-32C in reflected form (R147). -/
def crcBit (crc : BitVec 32) : BitVec 32 := if crc.getLsbD 0 then (crc >>> 1) ^^^ 0x82F63B78 else crc >>> 1
/-- One byte. -/
def crcByte (crc : BitVec 32) (b : Byte) : BitVec 32 :=
  (List.range 8).foldl (fun c _ => crcBit c) (crc ^^^ b.setWidth 32)
/-- The bytes of a list, first first. -/
def crcBytes (crc : BitVec 32) (bs : List Byte) : BitVec 32 := bs.foldl crcByte crc

/-- ADD (R112). -/
def execAdd (d a b : BitVec 6) (cl : Clauses) (s : State) : Host.Outcome State Fault Refusal :=
  scalar2 (.add d a b cl) cl 1 d a b (fun x y => x + y) s

/-- SUB (R112). -/
def execSub (d a b : BitVec 6) (cl : Clauses) (s : State) : Host.Outcome State Fault Refusal :=
  scalar2 (.sub d a b cl) cl 1 d a b (fun x y => x - y) s

/-- ADDI (R112). -/
def execAddi (d a : BitVec 6) (imm : BitVec 16) (cl : Clauses) (s : State) : Host.Outcome State Fault Refusal :=
  scalar1 (.addi d a imm cl) cl d a (fun x => x + imm.signExtend 64) s

/-- MUL (R112). -/
def execMul (d a b : BitVec 6) (cl : Clauses) (s : State) : Host.Outcome State Fault Refusal :=
  scalar2 (.mul d a b cl) cl 3 d a b (fun x y => x * y) s

/-- MULH (R112). -/
def execMulh (d a b : BitVec 6) (cl : Clauses) (s : State) : Host.Outcome State Fault Refusal :=
  scalar2 (.mulh d a b cl) cl 3 d a b mulhS s

/-- MULHU (R112). -/
def execMulhu (d a b : BitVec 6) (cl : Clauses) (s : State) : Host.Outcome State Fault Refusal :=
  scalar2 (.mulhu d a b cl) cl 3 d a b mulhU s

/-- DIV (R113). -/
def execDiv (d a b : BitVec 6) (cl : Clauses) (s : State) : Host.Outcome State Fault Refusal :=
  divide (.div d a b cl) cl d a b (fun x y => (divS x y).1) s

/-- DIVU (R113). -/
def execDivu (d a b : BitVec 6) (cl : Clauses) (s : State) : Host.Outcome State Fault Refusal :=
  divide (.divu d a b cl) cl d a b (fun x y => (divU x y).1) s

/-- REM (R113). -/
def execRem (d a b : BitVec 6) (cl : Clauses) (s : State) : Host.Outcome State Fault Refusal :=
  divide (.rem d a b cl) cl d a b (fun x y => (divS x y).2) s

/-- REMU (R113). -/
def execRemu (d a b : BitVec 6) (cl : Clauses) (s : State) : Host.Outcome State Fault Refusal :=
  divide (.remu d a b cl) cl d a b (fun x y => (divU x y).2) s

/-- AND (R114). -/
def execAnd (d a b : BitVec 6) (cl : Clauses) (s : State) : Host.Outcome State Fault Refusal :=
  scalar2 (.and d a b cl) cl 1 d a b (fun x y => x &&& y) s

/-- OR (R114). -/
def execOr (d a b : BitVec 6) (cl : Clauses) (s : State) : Host.Outcome State Fault Refusal :=
  scalar2 (.or d a b cl) cl 1 d a b (fun x y => x ||| y) s

/-- XOR (R114). -/
def execXor (d a b : BitVec 6) (cl : Clauses) (s : State) : Host.Outcome State Fault Refusal :=
  scalar2 (.xor d a b cl) cl 1 d a b (fun x y => x ^^^ y) s

/-- ANDI (R114). -/
def execAndi (d a : BitVec 6) (imm : BitVec 16) (cl : Clauses) (s : State) : Host.Outcome State Fault Refusal :=
  scalar1 (.andi d a imm cl) cl d a (fun x => x &&& imm.signExtend 64) s

/-- ORI (R114). -/
def execOri (d a : BitVec 6) (imm : BitVec 16) (cl : Clauses) (s : State) : Host.Outcome State Fault Refusal :=
  scalar1 (.ori d a imm cl) cl d a (fun x => x ||| imm.signExtend 64) s

/-- XORI (R114). -/
def execXori (d a : BitVec 6) (imm : BitVec 16) (cl : Clauses) (s : State) : Host.Outcome State Fault Refusal :=
  scalar1 (.xori d a imm cl) cl d a (fun x => x ^^^ imm.signExtend 64) s

/-- SLL (R114): the count is s[b][5:0]. -/
def execSll (d a b : BitVec 6) (cl : Clauses) (s : State) : Host.Outcome State Fault Refusal :=
  scalar2 (.sll d a b cl) cl 1 d a b (fun x y => x <<< (y.toNat % 64)) s

/-- SRL (R114). -/
def execSrl (d a b : BitVec 6) (cl : Clauses) (s : State) : Host.Outcome State Fault Refusal :=
  scalar2 (.srl d a b cl) cl 1 d a b (fun x y => x >>> (y.toNat % 64)) s

/-- SRA (R114). -/
def execSra (d a b : BitVec 6) (cl : Clauses) (s : State) : Host.Outcome State Fault Refusal :=
  scalar2 (.sra d a b cl) cl 1 d a b (fun x y => x.sshiftRight (y.toNat % 64)) s

/-- SLLI (R114). -/
def execSlli (d a : BitVec 6) (imm : BitVec 16) (cl : Clauses) (s : State) : Host.Outcome State Fault Refusal :=
  scalar1 (.slli d a imm cl) cl d a (fun x => x <<< (imm.toNat % 64)) s

/-- SRLI (R114). -/
def execSrli (d a : BitVec 6) (imm : BitVec 16) (cl : Clauses) (s : State) : Host.Outcome State Fault Refusal :=
  scalar1 (.srli d a imm cl) cl d a (fun x => x >>> (imm.toNat % 64)) s

/-- SRAI (R114). -/
def execSrai (d a : BitVec 6) (imm : BitVec 16) (cl : Clauses) (s : State) : Host.Outcome State Fault Refusal :=
  scalar1 (.srai d a imm cl) cl d a (fun x => x.sshiftRight (imm.toNat % 64)) s

/-- MIN (R115). -/
def execMin (d a b : BitVec 6) (cl : Clauses) (s : State) : Host.Outcome State Fault Refusal :=
  scalar2 (.min d a b cl) cl 1 d a b (fun x y => if x.slt y then x else y) s

/-- MAX (R115). -/
def execMax (d a b : BitVec 6) (cl : Clauses) (s : State) : Host.Outcome State Fault Refusal :=
  scalar2 (.max d a b cl) cl 1 d a b (fun x y => if x.slt y then y else x) s

/-- MINU (R115). -/
def execMinu (d a b : BitVec 6) (cl : Clauses) (s : State) : Host.Outcome State Fault Refusal :=
  scalar2 (.minu d a b cl) cl 1 d a b (fun x y => if x.ult y then x else y) s

/-- MAXU (R115). -/
def execMaxu (d a b : BitVec 6) (cl : Clauses) (s : State) : Host.Outcome State Fault Refusal :=
  scalar2 (.maxu d a b cl) cl 1 d a b (fun x y => if x.ult y then y else x) s

/-- CLZ (R116). -/
def execClz (d a : BitVec 6) (cl : Clauses) (s : State) : Host.Outcome State Fault Refusal :=
  scalar1 (.clz d a cl) cl d a clz s

/-- POPC (R116). -/
def execPopc (d a : BitVec 6) (cl : Clauses) (s : State) : Host.Outcome State Fault Refusal :=
  scalar1 (.popc d a cl) cl d a popcount s

/-- BFX (R117): imm[5:0] lo, imm[11:6] width − 1, mod 1 sign-extends. -/
def execBfx (mod : BitVec 4) (d a : BitVec 6) (imm : BitVec 16) (cl : Clauses) (s : State) :
    Host.Outcome State Fault Refusal :=
  scalar1 (.bfx mod d a imm cl) cl d a (bfExtract (mod == 1) (imm.toNat % 64) (imm.toNat / 64 % 64 + 1)) s

/-- BFI (R117): the unchanged bits come from s[b]. -/
def execBfi (d a b : BitVec 6) (imm : BitVec 16) (cl : Clauses) (s : State) : Host.Outcome State Fault Refusal :=
  scalar2 (.bfi d a b imm cl) cl 1 d a b (bfInsert (imm.toNat % 64) (imm.toNat / 64 % 64 + 1)) s

/-- LI (R118). -/
def execLi (d : BitVec 6) (imm32 : BitVec 32) (cl : Clauses) (s : State) : Host.Outcome State Fault Refusal :=
  run (.li d imm32 cl) cl {} noPre (fun _ _ _ st => fixedRes st 1 [wS d.toNat (imm32.signExtend 64)]) s

/-- LIH (R118). -/
def execLih (d a : BitVec 6) (imm32 : BitVec 32) (cl : Clauses) (s : State) : Host.Outcome State Fault Refusal :=
  scalar1 (.lih d a imm32 cl) cl d a (fun x => (x &&& 0xFFFFFFFF) ||| (imm32.setWidth 64 <<< 32)) s

/-- CMP (R119). -/
def execCmp (mod : BitVec 4) (d a b : BitVec 6) (cl : Clauses) (s : State) : Host.Outcome State Fault Refusal :=
  run (.cmp mod d a b cl) cl {} noPre (fun _ _ x st =>
    fixedRes st 1 [wP d.toNat (maskOf (cmpHolds mod.toNat (x.s a.toNat) (x.s b.toNat)))]) s

/-- CMPI (R119). -/
def execCmpi (mod : BitVec 4) (d a : BitVec 6) (imm : BitVec 16) (cl : Clauses) (s : State) :
    Host.Outcome State Fault Refusal :=
  run (.cmpi mod d a imm cl) cl {} noPre (fun _ _ x st =>
    fixedRes st 1 [wP d.toNat (maskOf (cmpHolds mod.toNat (x.s a.toNat) (imm.signExtend 64)))]) s

/-- PLOG (R120). -/
def execPlog (mod : BitVec 4) (d a b : BitVec 6) (cl : Clauses) (s : State) : Host.Outcome State Fault Refusal :=
  run (.plog mod d a b cl) cl {} noPre (fun _ _ x st =>
    fixedRes st 1 [wP d.toNat (plogic mod.toNat (x.p a.toNat) (x.p b.toNat))]) s

/-- PMOV (R121): mod 0 p from s, 1 s from p, 2 p from p. -/
def execPmov (mod : BitVec 4) (d a : BitVec 6) (cl : Clauses) (s : State) : Host.Outcome State Fault Refusal :=
  run (.pmov mod d a cl) cl {} noPre (fun _ _ x st =>
    fixedRes st 1 [if mod = 0 then wP d.toNat (x.s a.toNat) else if mod = 1 then wS d.toNat (x.p a.toNat)
      else wP d.toNat (x.p a.toNat)]) s

/-- SEL (R122). -/
def execSel (d a b c : BitVec 6) (cl : Clauses) (s : State) : Host.Outcome State Fault Refusal :=
  run (.sel d a b c cl) cl {} noPre (fun _ _ x st =>
    fixedRes st 1 [wS d.toNat (if (x.p c.toNat).getLsbD 0 then x.s a.toNat else x.s b.toNat)]) s

/-- CRC32C (R147): 2^mod bytes of s[b], lowest first. -/
def execCrc32c (mod : BitVec 4) (d a b : BitVec 6) (cl : Clauses) (s : State) : Host.Outcome State Fault Refusal :=
  scalar2 (.crc32c mod d a b cl) cl 3 d a b
    (fun x y => (crcBytes (x.setWidth 32) (wordBytes64 (2 ^ (mod.toNat % 4)) y)).setWidth 64) s

end Sys2Proof.Machine
end

