-- ==== Sys2Proof/Machine/Control.lean ====
section
/-! DEFINITION. Branch targets, loop counter, link, NOP, ending and giving way (R123..R128, R136..R138), traps, breaks and
the return from a trap (R133..R135), time, identity, speed and random numbers (R139..R142), instruction refetch (R143),
liveness (R144, R145), checks (R146). -/
namespace Sys2Proof.Machine

/-- TGT (R124). -/
def execTgt (d : BitVec 6) (imm26 : BitVec 26) (cl : Clauses) (s : State) : Host.Outcome State Fault Refusal :=
  run (.tgt d imm26 cl) cl {} noPre (fun _ _ x st =>
    fixedRes st 1 [wB d.toNat (x.pc + imm26.signExtend 32)]) s

/-- TGTR (R124). -/
def execTgtr (d a : BitVec 6) (cl : Clauses) (s : State) : Host.Outcome State Fault Refusal :=
  run (.tgtr d a cl) cl {} noPre (fun _ _ x st =>
    fixedRes st 1 [wB d.toNat (x.pc + (x.s a.toNat).setWidth 32)]) s

/-- MOVB (R125): mod 0 b from s, 1 s from b, 2 b from b. -/
def execMovb (mod : BitVec 4) (d a : BitVec 6) (cl : Clauses) (s : State) : Host.Outcome State Fault Refusal :=
  run (.movb mod d a cl) cl {} noPre (fun _ _ x st =>
    fixedRes st 1 [if mod = 0 then wB d.toNat ((x.s a.toNat).setWidth 32)
      else if mod = 1 then wS d.toNat ((x.b a.toNat).setWidth 64)
      else wB d.toNat (x.b a.toNat)]) s

/-- LCSET (R126). -/
def execLcset (a : BitVec 6) (imm26 : BitVec 26) (cl : Clauses) (s : State) : Host.Outcome State Fault Refusal :=
  run (.lcset a imm26 cl) cl {} noPre (fun _ _ x st =>
    .go { st := st, lc := some (x.s a.toNat + imm26.signExtend 64) }) s

/-- LKMOV (R127): mod 0 reads lk, 1 writes lk, 2 reads lc, 3 writes lc. -/
def execLkmov (mod : BitVec 4) (d a : BitVec 6) (cl : Clauses) (s : State) : Host.Outcome State Fault Refusal :=
  run (.lkmov mod d a cl) cl {} noPre (fun _ _ x st =>
    if mod = 0 then fixedRes st 1 [wS d.toNat (x.lk.setWidth 64)]
    else if mod = 1 then .go { st := st, lk := some ((x.s a.toNat).setWidth 32) }
    else if mod = 2 then fixedRes st 1 [wS d.toNat x.lc]
    else .go { st := st, lc := some (x.s a.toNat) }) s

/-- NOP (R128): its clauses only. -/
def execNop (cl : Clauses) (s : State) : Host.Outcome State Fault Refusal :=
  run (.nop cl) cl {} noPre (fun _ _ _ st => effectRes st) s

/-- TRAP (R133): it issues, then a TRAPI trap is taken before the next word. -/
def execTrap (imm : BitVec 16) (cl : Clauses) (s : State) : Host.Outcome State Fault Refusal :=
  run (.trap imm cl) cl {} noPre (fun _ _ _ st =>
    .go { st := st, post := .trap (mkTrap cTRAPI imm.toNat) }) s

/-- BRK (R134): the quad halts if its brk bit is set, else a DEBUG trap is taken. -/
def execBrk (imm : BitVec 16) (cl : Clauses) (s : State) : Host.Outcome State Fault Refusal :=
  run (.brk imm cl) cl {} noPre (fun c _ _ st =>
    .go { st := st
          post := if !isArmature c && (st.quad (coreQuad c)).qdctl.getLsbD 1 then .halt
            else .trap (mkTrap cDEBUG imm.toNat) }) s

/-- TRET (R135). -/
def execTret (cl : Clauses) (s : State) : Host.Outcome State Fault Refusal :=
  run (.tret cl) cl {} noPre (fun _ _ x st =>
    let sv := bits x.trap.svasw 1 0
    if x.mode = 0 then .trap (mkTrap cPRIV 0x2E)
    else if x.mode < sv ∨ sv = 3 then .trap (mkTrap cPRIV 0x2E)
    else .go { st := st, post := .ret }) s

/-- YIELD (R137). -/
def execYield (cl : Clauses) (s : State) : Host.Outcome State Fault Refusal :=
  run (.yield cl) cl {} noPre (fun _ _ _ st => .go { st := st, post := .yield }) s

/-- WFI (R138). -/
def execWfi (cl : Clauses) (s : State) : Host.Outcome State Fault Refusal :=
  run (.wfi cl) cl {} noPre (fun _ _ x st =>
    if x.mode = 0 then .trap (mkTrap cPRIV 0x33) else .go { st := st, post := .wfi }) s

/-- TIME (R139): ticks, cycles, words counting this one. -/
def execTime (mod : BitVec 4) (d : BitVec 6) (cl : Clauses) (s : State) : Host.Outcome State Fault Refusal :=
  run (.time mod d cl) cl {} noPre (fun c _ x st =>
    fixedRes st 1 [wS d.toNat (if mod = 0 then w64 st.tick else if mod = 1 then w64 (st.core c).cycle
      else x.words + 1)]) s

/-- The value IDENT reads (R140). An armature core lies in no quad and on no die: its quad and die are computed from its core
number, which gives 512 and 8 (the model's choice; log 67). -/
def identValue (s : State) (c : Nat) (a : Act) (what : Nat) : Word64 :=
  let g := s.gang a.gang
  match what with
  | 0 => w64 a.rank
  | 1 => w64 a.size
  | 2 => w64 a.crew
  | 3 => w64 a.index
  | 4 => w64 g.lrec.crews
  | 5 => w64 c
  | 6 => w64 a.homeCore
  | 7 => w64 a.slot
  | 8 => w64 (coreQuad c)
  | 9 => w64 (coreDie c)
  | 10 => Config.packageNumber.setWidth 64
  | _ => w64 (a.gang % 2 ^ 32)

/-- IDENT (R140). -/
def execIdent (mod : BitVec 4) (d : BitVec 6) (cl : Clauses) (s : State) : Host.Outcome State Fault Refusal :=
  run (.ident mod d cl) cl {} noPre (fun c _ x st => fixedRes st 1 [wS d.toNat (identValue st c x mod.toNat)]) s

/-- SPDRD (R141): a core that is not live, or an index of 2,048 or above, gives 0. -/
def execSpdrd (mod : BitVec 4) (d a : BitVec 6) (imm : BitVec 16) (cl : Clauses) (s : State) :
    Host.Outcome State Fault Refusal :=
  run (.spdrd mod d a imm cl) cl {} noPre (fun c _ x st =>
    let k := (x.s a.toNat).toNat
    let v := if mod = 0 then st.freq c
      else if mod = 1 then st.freq k
      else if st.live k then Config.speed k (imm.toNat % 8) else 0
    fixedRes st 1 [wS d.toNat (w64 v)]) s

/-- RAND (R142): SRSTATE advances at issue (R132). -/
def execRand (mod : BitVec 4) (d a : BitVec 6) (cl : Clauses) (s : State) : Host.Outcome State Fault Refusal :=
  run (.rand mod d a cl) cl {} noPre (fun _ aid x st =>
    let n := srNext x.srstate
    let st := st.setAct aid { st.act aid with srstate := n }
    let v := if mod = 0 then n else w64 (bits n 63 32 * bits (x.s a.toNat) 31 0 / 2 ^ 32)
    fixedRes st 1 [wS d.toNat v]) s

/-- IFLUSH (R143): the words fetched ahead are discarded. -/
def execIflush (cl : Clauses) (s : State) : Host.Outcome State Fault Refusal :=
  run (.iflush cl) cl {} noPre (fun _ aid _ st =>
    effectRes (st.setAct aid { st.act aid with fetched := [] })) s

/-- The file a mod of DEADMK or LIVEQ names, and its size. -/
def fileOfMod (mod : Nat) : RegFile × Nat :=
  match mod with
  | 0 => (.s, 64)
  | 1 => (.v, 32)
  | 2 => (.p, 8)
  | 3 => (.b, 8)
  | _ => (.k, 16)

/-- DEADMK (R144). -/
def execDeadmk (mod : BitVec 4) (a : BitVec 6) (cl : Clauses) (s : State) : Host.Outcome State Fault Refusal :=
  run (.deadmk mod a cl) cl {} noPre (fun _ aid x st =>
    let (f, n) := fileOfMod mod.toNat
    let m := x.s a.toNat
    let act := (List.range n).foldl (fun y i => if m.getLsbD i then Act.release y ⟨f, i⟩ else y) (st.act aid)
    effectRes (st.setAct aid act)) s

/-- LIVEQ (R145). -/
def execLiveq (mod : BitVec 4) (d : BitVec 6) (cl : Clauses) (s : State) : Host.Outcome State Fault Refusal :=
  run (.liveq mod d cl) cl {} noPre (fun _ _ x st =>
    fixedRes st 1 [wS d.toNat (x.liveBits (fileOfMod mod.toNat).1)]) s

/-- CHK (R146). -/
def execChk (d a b : BitVec 6) (imm : BitVec 16) (cl : Clauses) (s : State) : Host.Outcome State Fault Refusal :=
  run (.chk d a b imm cl) cl {} noPre (fun _ _ x st =>
    if (x.s a.toNat).ult (x.s b.toNat) then fixedRes st 1 [wS d.toNat (x.s a.toNat)]
    else .trap (mkTrap cTRAPI (0x10000 + imm.toNat))) s

end Sys2Proof.Machine
end

