-- ==== Sys2Proof/Machine/Journal.lean ====
section
/-! DEFINITION. The scheduler's tables as every armature core reaches them: status words, the journal and its entries, the
scan of the kick bitmap, and what a take-over reads back (R311..R313, R317, R318). -/
namespace Sys2Proof.Machine

/-! ## Status words and the journal (R311, R313, R317) -/

/-- The home address of bytes of a queue's page or status area, by its path. -/
def Queue.addr (q : Queue) (a : Nat) : Nat := if bits q.lqbase 62 61 = 1 then hostBase + a else a

def State.queue (s : State) (part q : Nat) : Queue := (tableGet? (s.part part).queues q).getD {}
def State.setQueue (s : State) (part q : Nat) (x : Queue) : State :=
  s.setPart part { s.part part with queues := tableSet (s.part part).queues q x }

/-- The queue is open. -/
def Queue.isOpen (q : Queue) : Bool := q.lqbase.getLsbD 63

/-- A slot's status word: gang, state, code and the entry's number. -/
def statusWord (gang state code jseq : Nat) : Word64 :=
  w64 (gang % 2 ^ 32 * 2 ^ 32 + state % 16 * 2 ^ 28 + code % 256 * 2 ^ 16 + jseq % 2 ^ 16)

/-- A write of the scheduler's, after what arrived at its lines before it. -/
def State.schedWrite (s : State) (a : Nat) (bs : List Byte) : State :=
  ((linesOf a bs.length).foldl (fun (s : State) l => s.portTurn l) s).plainWrite a bs

/-- The home address of a slot's status word. -/
def Queue.statusAddr (q : Queue) (slot : Nat) : Nat := q.addr (bits q.lqstat 47 9 * 512 + 8 * slot)

/-- Writing a slot's status word at a home address; the slot table keeps it while the queue's status area is still there
(R318, R320). -/
def State.writeStatus (s : State) (part q slot addr : Nat) (w : Word64) : State :=
  let x := s.queue part q
  let s := if x.statusAddr slot = addr then s.setQueue part q { x with slots := tableSet x.slots slot w } else s
  s.schedWrite addr (wordBytes64 8 w)

/-- A journal entry's 64 bytes. -/
def JEntry.bytes (e : JEntry) (n : Nat) : List Byte :=
  let body := natToBytes 8 n ++ [BitVec.ofNat 8 e.kind, BitVec.ofNat 8 e.queue, BitVec.ofNat 8 e.slot, BitVec.ofNat 8 e.code]
    ++ natToBytes 4 e.gang ++ wordBytes64 8 e.arg ++ List.replicate 36 0
  body ++ natToBytes 4 (~~~ crcBytes 0xFFFFFFFF body).toNat

/-- An entry is accepted at its home; its number becomes the next one's predecessor and JCKPT follows once its effects
are in the tables. -/
def State.jaccept (s : State) (part : Nat) (e : JEntry) : State :=
  let p := s.part part
  let s := s.schedWrite (p.jbase + 64 * ((p.jseq - 1) % max p.jlen 1)) (e.bytes p.jseq)
  s.setPart part { s.part part with jseq := p.jseq + 1, jckpt := w64 (p.jseq + 1) }

/-- EXTINT line 0 is raised toward the host. -/
def State.raiseHost (s : State) (part : Nat) : State :=
  s.setPart part { s.part part with hostIrq := (s.part part).hostIrq + 1 }

/-- Queueing a journal entry with the action that takes effect when it is accepted (R317). -/
def State.journal (s : State) (part : Nat) (e : JEntry) (act : JAction) : State :=
  let p := s.part part
  s.setPart part { p with jpend := p.jpend ++ [(e, act)] }

/-! ## The scan of the kick bitmap (R312) -/

/-- Queue q of a partition is open. -/
def Part.openQueue (p : Part) (q : Nat) : Bool := ((tableGet? p.queues q).getD {}).isOpen

/-- The kick bits of open queues that are set, lowest first. -/
def Part.kicks (p : Part) : List Nat :=
  p.kickset.flatMap (fun x => if p.openQueue x.1 then ((List.range 64).filter (fun i => x.2.getLsbD i)).map (64 * x.1 + ·)
    else [])

/-- A kick is being taken: its record is copied, or the entry of its outcome is on its way. -/
def Part.taking (p : Part) (n : Nat) : Bool :=
  (match p.copy with | some k => k.n == n | none => false)
    || p.jpend.any (fun x => match x.2 with
      | .kick k _ _ => k == n
      | .discard k _ => k == n
      | _ => false)

/-- Where a scan that begins now stands: where the running one does, or at the lowest kick if that has none left to take in its
pass. -/
def Part.scanStart (p : Part) : Nat :=
  if p.scan.any (fun n => decide (p.scanPos ≤ n) && p.kicks.contains n && !p.taking n) then p.scanPos else 0

/-- A scan begins: kicks at or above where a running scan stands come in this pass, the others in the next. -/
def Part.rescan (p : Part) : Part :=
  let pos := p.scanStart
  let ks := p.kicks.filter (fun n => !p.taking n)
  { p with scanPos := pos, scan := ks.filter (fun n => decide (pos ≤ n)) ++ ks.filter (fun n => decide (n < pos)) }

/-- A kick has been taken: the scan stands past it. -/
def Part.scanned (p : Part) (n : Nat) : Part := { p with scan := p.scan.filter (fun k => k != n), scanPos := n + 1 }

/-- Clearing kick bits. -/
def Part.clearKicks (p : Part) (q : Nat) (x : Word64) : Part :=
  { p with kickset := sparseSet 0 p.kickset q (sparseGet 0 p.kickset q &&& ~~~x) }

/-! ## Take-over (R318) -/

/-- The 64 bytes at entry n's place in the ring. -/
def State.jread (s : State) (part n : Nat) : List Byte :=
  let p := s.part part
  s.memRead (p.jbase + 64 * ((n - 1) % max p.jlen 1)) 64

/-- Entry n is valid (R317): its number, its checksum, and zero in its reserved bytes. -/
def State.jvalid (s : State) (part n : Nat) : Bool :=
  let bs := s.jread part n
  bytesWord (bs.take 8) == w64 n && bytesToNat (bs.drop 60) == (~~~ crcBytes 0xFFFFFFFF (bs.take 60)).toNat
    && ((bs.drop 24).take 36).all (fun b => b == 0)

/-- The first entry from n on that is not valid, of at most k. -/
def State.jfirst (s : State) (part : Nat) : Nat → Nat → Nat
  | 0, n => n
  | k + 1, n => if s.jvalid part n then s.jfirst part k (n + 1) else n

/-- The slots of a partition's open queues whose status word does not show the journal's number: queue, slot, and the word
that the journal gives it. -/
def State.staleSlots (s : State) (part : Nat) : List (Nat × Nat × Word64) :=
  (s.part part).queues.flatMap (fun x =>
    if x.2.isOpen then
      (x.2.slots.filter (fun y => bits y.2 15 0 != bits (s.memWord (x.2.statusAddr y.1)) 15 0)).map (fun y => (x.1, y.1, y.2))
    else [])

/-- Steps 2 and 4 of a take-over: a set bit whose slot does not show what the journal says has been taken already; it is
cleared. The journal's status words are written, and the host is told of those that say completed or ended. -/
def State.reconcile (s : State) (part : Nat) : State :=
  let l := s.staleSlots part
  let s := l.foldl (fun (s : State) x =>
    (s.setPart part ((s.part part).clearKicks x.1 (w64 (2 ^ (x.2.1 % 64))))).writeStatus part x.1 x.2.1
      ((s.queue part x.1).statusAddr x.2.1) x.2.2) s
  if l.any (fun x => decide (3 ≤ bits x.2.2 31 28)) then s.raiseHost part else s

end Sys2Proof.Machine
end

