-- ==== Sys2Proof/Machine/System.lean ====
section
/-! DEFINITION. System registers (R129..R132, R293, R305, R309, R310, R322), the machine-check record (R148) and the
cross-alarm with take-over (R149, R318, R359). -/
namespace Sys2Proof.Machine

/-! ## The system registers -/

/-- A register some chapter lists; JCKPT and TOVEC exist on armature cores only (R129, R293, R305, R322). -/
def sysKnown (c n : Nat) : Bool :=
  decide (n ≤ 8) || (decide (0x10 ≤ n) && decide (n ≤ 0x1C)) || n == 0x20 || n == 0x30
    || (decide (0x32 ≤ n) && decide (n ≤ 0x35)) || ((n == 0x40 || n == 0x41) && isArmature c)

/-- Registers whose Write column says None. -/
def sysReadOnly (n : Nat) : Bool := n == 1 || (decide (3 ≤ n) && decide (n ≤ 8)) || n == 0x20 || n == 0x35

/-- The least mode that may read: 0 U, 1 S, 2 M, 3 no mode. -/
def sysReadMode (n : Nat) : Nat :=
  if n ≤ 8 then 0 else if n = 0x1A ∨ n = 0x40 ∨ n = 0x41 then 2 else if n = 0x34 then 3 else 1

/-- The least mode that may write. -/
def sysWriteMode (n : Nat) : Nat :=
  if n ≤ 8 then 0 else if n = 0x18 ∨ n = 0x1A ∨ n = 0x30 ∨ n = 0x40 ∨ n = 0x41 then 2 else 1

/-- Reading a system register. -/
def sysRead (s : State) (c aid : Nat) (a : Act) (n : Nat) : Word64 :=
  match n with
  | 0x00 => a.asw
  | 0x01 => a.code
  | 0x02 => a.srstate
  | 0x03 => w64 a.lmBase
  | 0x04 => w64 a.lmLen
  | 0x05 => w64 a.qsBase
  | 0x06 => w64 a.qsLen
  | 0x07 => a.rdq0.toBits
  | 0x08 => a.rdq1.toBits
  | 0x10 => a.trap.tcause
  | 0x11 => a.trap.tword
  | 0x12 => a.trap.tdetail
  | 0x13 => a.trap.taddr
  | 0x14 => a.trap.svpc
  | 0x15 => a.trap.svq0
  | 0x16 => a.trap.svq1
  | 0x17 => a.trap.svasw
  | 0x18 => a.trap.svcode
  | 0x19 => a.trap.stvec
  | 0x1A => a.trap.mtvec
  | 0x1B => a.trap.timecmp
  | 0x1C => a.trap.extpend
  | 0x20 => (s.core c).mcstat
  | 0x30 => (s.part a.part).otbase
  | 0x32 => if (s.part a.part).otinv.any (fun x => x.1 == aid) then 1 else 0
  | 0x33 => a.migdst
  | 0x35 => a.migstat
  | 0x40 => (s.part a.part).jckpt
  | 0x41 => (s.part a.part).tovec
  | _ => 0

/-- Migrations running in a partition. -/
def State.migrations (s : State) (part : Nat) : List Migration :=
  s.acts.filterMap (fun x => if x.2.part == part then x.2.mig else none)

/-- A refusal of a migration with a result code (R310). -/
def Act.migRefuse (a : Act) (r : Nat) : Act := { a with migstat := w64 (r * 2 ^ 60) }

/-- A write to MIGREQ starts or refuses a migration; it is ignored while this context's migration runs (R310). -/
def State.migRequest (s : State) (aid : Nat) (x : Word64) : State :=
  let a := s.act aid
  match a.mig with
  | some _ => s
  | none =>
    let obj := bits x 63 40
    let page := bits x 31 0
    match s.otEntry a.part obj with
    | none => s.setAct aid (a.migRefuse 1)
    | some t =>
      let sh := pageShift t.psize
      let running := s.migrations a.part
      match s.walk a.part { object := obj, offset := page * 2 ^ sh, bytes := 0, write := false } with
      | .error _ => s.setAct aid (a.migRefuse 1)
      | .ok (e, leaf) =>
        if e.path ≠ .device ∨ running.any (fun m => m.object == obj && m.page == page) = true then
          s.setAct aid (a.migRefuse 1)
        else if a.migdst.toNat % 2 ^ sh ≠ 0 then s.setAct aid (a.migRefuse 2)
        else if 16 ≤ running.length then s.setAct aid (a.migRefuse 3)
        else s.setAct aid { a with
          mig := some { object := obj, page := page, psize := t.psize, oldFrame := e.frame
                        newFrame := bits a.migdst 39 0, leaf := leaf }
          migstat := w64 (2 ^ 63) }

/-- A write to OTINV queues one invalidation (R309). -/
def State.otinvPut (s : State) (aid : Nat) (x : Word64) : State :=
  let part := (s.act aid).part
  let p := s.part part
  s.setPart part { p with otinv := p.otinv ++ [(aid, x &&& 0xC0FFFFFFFFFFFFFF)] }

/-- A write to TIMECMP clears a pending timer (R298). -/
def Act.setTimecmp (a : Act) (x : Word64) : Act := { a with trap := { a.trap with timecmp := x }, timerPend := false }

/-- A write to EXTPEND sets or clears external lines (R293, R298). -/
def Act.setExtpend (a : Act) (x : Word64) : Act := { a with trap := { a.trap with extpend := x &&& 0xFFFF } }

/-- Writing a context's register with the masks of R129 and R293; ASW is not among these. The bits that R129 and R135 leave open,
SVASW's reserved ones and SVCODE's [39:32], are stored as written (the model's choice; log 70). -/
def Act.sysWrite (a : Act) (n : Nat) (x : Word64) : Act :=
  match n with
  | 0x02 => { a with srstate := x }
  | 0x10 => { a with trap := { a.trap with tcause := x &&& 0xFF } }
  | 0x11 => { a with trap := { a.trap with tword := x } }
  | 0x12 => { a with trap := { a.trap with tdetail := x } }
  | 0x13 => { a with trap := { a.trap with taddr := x } }
  | 0x14 => { a with trap := { a.trap with svpc := x &&& 0xFFFFFFFF } }
  | 0x15 => { a with trap := { a.trap with svq0 := normQueue x } }
  | 0x16 => { a with trap := { a.trap with svq1 := normQueue x } }
  | 0x17 => { a with trap := { a.trap with svasw := x } }
  | 0x18 => { a with trap := { a.trap with svcode := x } }
  | 0x19 => { a with trap := { a.trap with stvec := x &&& 0xFFFFFF00FFFFFFFF } }
  | 0x1A => { a with trap := { a.trap with mtvec := x &&& 0xFFFFFF00FFFFFFFF } }
  | 0x1B => a.setTimecmp x
  | 0x1C => a.setExtpend x
  | 0x33 => { a with migdst := x &&& 0xFFFFFFFFFF }
  | _ => a

/-- Writing a system register (R131). A full OTINV queue holds the port (R309). -/
def sysWriteRes (s : State) (c aid : Nat) (a : Act) (opcode n : Nat) (x : Word64) : Res :=
  match n with
  | 0x00 =>
    match writeAsw a.mode a.asw x with
    | some v => effectRes (s.setAct aid { s.act aid with asw := v })
    | none => .trap (mkTrap cPRIV (opcode + n * 2 ^ 16))
  | 0x30 => effectRes (s.setPart a.part { s.part a.part with otbase := x &&& 0xFFFFFFFFFFFFF000 })
  | 0x32 => if 16 ≤ (s.part a.part).otinv.length then .hold (s.idle c) else effectRes (s.otinvPut aid x)
  | 0x34 => effectRes (s.migRequest aid x)
  | 0x40 => effectRes (s.setPart a.part { s.part a.part with jckpt := x })
  | 0x41 => effectRes (s.setPart a.part { s.part a.part with tovec := x &&& 0xFFFFFF00FFFFFFFF })
  | _ => effectRes (s.setAct aid ((s.act aid).sysWrite n x))

/-- The register number, checked: one that no chapter lists raises ILLOP with detail 28 (R129). -/
def sysPre (c : Nat) (n : Nat) (write : Bool) : Option Trap :=
  if !sysKnown c n || (write && sysReadOnly n) then some (mkTrap cILLOP 28) else none

def sysNum (imm : BitVec 16) : Nat := imm.toNat % 4096

/-- SRD (R131). -/
def execSrd (d : BitVec 6) (imm : BitVec 16) (cl : Clauses) (s : State) : Host.Outcome State Fault Refusal :=
  run (.srd d imm cl) cl {} (fun a _ => sysPre a.core (sysNum imm) false) (fun c aid x st =>
    if x.mode < sysReadMode (sysNum imm) then .trap (mkTrap cPRIV (0x2B + sysNum imm * 2 ^ 16))
    else fixedRes st 1 [wS d.toNat (sysRead st c aid x (sysNum imm))]) s

/-- SWR (R131). -/
def execSwr (a : BitVec 6) (imm : BitVec 16) (cl : Clauses) (s : State) : Host.Outcome State Fault Refusal :=
  run (.swr a imm cl) cl {} (fun y _ => sysPre y.core (sysNum imm) true) (fun c aid x st =>
    if x.mode < sysWriteMode (sysNum imm) then .trap (mkTrap cPRIV (0x2C + sysNum imm * 2 ^ 16))
    else sysWriteRes st c aid x 0x2C (sysNum imm) (x.s a.toNat)) s

/-- SRSET (R131); a register that no mode reads counts as 0 (log 25). -/
def execSrset (a : BitVec 6) (imm : BitVec 16) (cl : Clauses) (s : State) : Host.Outcome State Fault Refusal :=
  run (.srset a imm cl) cl {} (fun y _ => sysPre y.core (sysNum imm) true) (fun c aid x st =>
    if x.mode < sysWriteMode (sysNum imm) then .trap (mkTrap cPRIV (0x36 + sysNum imm * 2 ^ 16))
    else sysWriteRes st c aid x 0x36 (sysNum imm) (sysRead st c aid x (sysNum imm) ||| x.s a.toNat)) s

/-- SRCLR (R131); a register that no mode reads counts as 0 (log 25). -/
def execSrclr (a : BitVec 6) (imm : BitVec 16) (cl : Clauses) (s : State) : Host.Outcome State Fault Refusal :=
  run (.srclr a imm cl) cl {} (fun y _ => sysPre y.core (sysNum imm) true) (fun c aid x st =>
    if x.mode < sysWriteMode (sysNum imm) then .trap (mkTrap cPRIV (0x37 + sysNum imm * 2 ^ 16))
    else sysWriteRes st c aid x 0x37 (sysNum imm) (sysRead st c aid x (sysNum imm) &&& ~~~(x.s a.toNat))) s

/-- MCHK (R148). -/
def execMchk (mod : BitVec 4) (d : BitVec 6) (cl : Clauses) (s : State) : Host.Outcome State Fault Refusal :=
  run (.mchk mod d cl) cl {} noPre (fun c _ x st =>
    if x.mode = 0 then .trap (mkTrap cPRIV 0x3C)
    else
      let v := (st.core c).mcstat
      let st := if mod = 1 then st.setCore c { st.core c with mcstat := 0 } else st
      fixedRes st 1 [wS d.toNat v]) s

/-! ## The cross-alarm (R318, R359) -/

/-- The other armature core. -/
def otherArmature (c : Nat) : Nat := if c = 2048 then 2049 else 2048

/-- The boot checks and the tamper policy let the package run: with a non-zero code only the window is served (R354,
R356). -/
def State.running (s : State) : Bool := bits s.bootstat 63 56 == 0

/-- The active armature core acts (R359). -/
def State.armatureLive (s : State) : Bool := !(s.core s.armature).frozen && s.running

/-- The take-over context of an armature core becomes ready: its first word is TOVEC's, its queue empty (R321). -/
def State.wakeStandby (s : State) (c : Nat) : State :=
  { s with acts := s.acts.map (fun x =>
      if x.2.core = c ∧ x.2.run = .standby then
        let tv := (s.part x.2.part).tovec
        (x.1, { x.2 with run := .inService, code := s.codeOf c x.2.part (bits tv 63 40), pc := tv.setWidth 32
                         rdq0 := {}, rdq1 := {} })
      else x) }

/-- What becomes of the actions whose entries the frozen core had not got accepted: they never happened (R317, R318). A
record that was being accepted is taken or submitted again; what a register write, a closing queue or DRAIN called for is
journaled by the standby; everything else is found again from the tables. -/
def redoable (x : JEntry × JAction) : Bool :=
  match x.2 with
  | .qopen _ _ | .qclose _ _ | .drain _ | .discard _ _ | .refuse _ => true
  | _ => false

/-- The launches among them. -/
def lostLaunch (x : JEntry × JAction) : Option Nat :=
  match x.2 with
  | .launched op _ _ => some op
  | _ => none

/-- The gangs they would have created. -/
def lostGang (x : JEntry × JAction) : Option Nat :=
  match x.2 with
  | .launched _ g _ => some g
  | .kick _ g _ => some g
  | _ => none

/-- A partition is taken over: the standby reads its journal from JCKPT to the first entry that is not valid (what the valid
ones did is in the tables; log 61) and writes its own from there on, beginning with TAKEOVER; the kick bitmap and the status
words are set right once that is accepted (R318). -/
def State.takeoverPart (s : State) (part : Nat) : State :=
  let p := s.part part
  let n := s.jfirst part p.jlen p.jckpt.toNat
  s.setPart part { p with
    jseq := n, jckpt := w64 n, copy := none, submits := p.jpend.filterMap lostLaunch ++ p.submits
    jpend := ({ kind := 12 }, .takeover) :: p.jpend.filter redoable }

/-- TAKE-OVER by the standby core (R318, R321). -/
def State.takeover (s : State) (c : Nat) : State :=
  let s := ({ s with armature := c }).wakeStandby c
  let gone := s.gangs.filter (fun x => x.2.stage == .accepting && s.parts.any (fun y =>
    (y.2.jpend.filterMap lostGang).contains x.1))
  let s := gone.foldl (fun (s : State) x =>
    let p := s.part x.2.part
    { s.setPart x.2.part { p with records := tableErase p.records x.2.recIx } with gangs := tableErase s.gangs x.1 }) s
  (s.parts.map (·.1)).foldl State.takeoverPart s

/-- An armature core asserts the cross-alarm: it is frozen, the other core records the alarm, and the standby takes over
from an active core if it is live (R359). -/
def State.crossAlarm (s : State) (c : Nat) (code : BitVec 16) : State :=
  let o := otherArmature c
  let s := s.setCore c { s.core c with frozen := true }
  let s := s.setCore o { s.core o with alarm := some code }
  if s.armature = c ∧ (s.core o).frozen = false then s.takeover o else s

/-- XALM (R149): on an armature core mod 0 asserts the alarm and mod 1 clears the record of one received; on a compute
core mod 0 posts a notice to the active armature core and mod 1 is reserved. -/
def execXalm (mod : BitVec 4) (imm : BitVec 16) (cl : Clauses) (s : State) : Host.Outcome State Fault Refusal :=
  run (.xalm mod imm cl) cl {} (fun a _ => if mod = 1 ∧ isArmature a.core = false then some (mkTrap cILLOP 44) else none)
    (fun c _ x st =>
      if x.mode ≠ 2 then .trap (mkTrap cPRIV 0x3D)
      else if isArmature c then
        if mod = 1 then effectRes (st.setCore c { st.core c with alarm := none })
        else effectRes (st.crossAlarm c imm)
      else effectRes { st with notices := st.notices ++ [(c, imm)] }) s

end Sys2Proof.Machine
end

