-- ==== Sys2Proof/Machine/Memory.lean ====
section
/-! DEFINITION. Loads and stores of the three addressed spaces, gathers and scatters, fences, capabilities, cache control
and ZEROL (0x40..0x4D, 0x55..0x5F, R150..R160, R166..R172). -/
namespace Sys2Proof.Machine

/-! ## Order of local accesses (R43) -/

/-- Bytes of an element of a tile format: 0 FP32, 1 I32, 2 FP16, 3 BF16, 4 I8, 5 U8 (R216). -/
def tileWidth (fmt : Nat) : Nat := if fmt ≤ 1 then 4 else if fmt ≤ 3 then 2 else 1

/-- The local-memory bytes of a core that an outstanding tagged operation will read or write when its tag clears: first
byte, length, whether it writes. -/
def OpKind.localFoot (k : OpKind) (c : Nat) : List (Nat × Nat × Bool) :=
  match k with
  | .gather x offs _ _ => if x = c then offs.map (fun o => (o.2, 4, false)) else []
  | .scatter x items => if x = c then items.map (fun o => (o.1, 4, true)) else []
  | .xlug x dst src len => if x = c then [(dst, len, true), (src, len, false)] else []
  | .matrix x w =>
    if x = c then
      match w with
      | .load _ fmt offs cols => offs.map (fun o => (o, cols * tileWidth fmt, false))
      | .store _ fmt false offs cols _ => offs.map (fun o => (o, cols * tileWidth fmt, true))
      | .saveTile _ _ false off => [(off, 16448, true)]
      | .bias _ _ off _ _ => [(off, 256, false)]
      | _ => []
    else []
  | _ => []

/-- An access of a core must wait for an earlier-issued tagged access to the same bytes, of which one writes (R43; the
order is kept by holding the later word, log 9). -/
def State.lmBusy (s : State) (c a n : Nat) (write : Bool) : Bool :=
  s.ops.any (fun x => (x.2.kind.localFoot c).any (fun f =>
    decide (f.1 < a + n) && decide (a < f.1 + f.2.1) && (write || f.2.2)))

/-- An operation of the activity on the scratchpad is outstanding (R44: its accesses go in program order). -/
def OpKind.onScratch (k : OpKind) : Bool :=
  match k with
  | .ldq _ _ _ _ _ | .stq _ _ _ _ | .vldq _ _ _ _ _ => true
  | .matrix _ (.store _ _ true _ _ _) => true
  | .matrix _ (.saveTile _ _ true _) => true
  | _ => false

def State.qsBusy (s : State) (aid : Nat) : Bool := s.ops.any (fun x => x.2.act == aid && x.2.kind.onScratch)

/-! ## Bound checks (R54) -/

/-- An element is out of range. -/
def boundOut (b : BoundReg) (x : Val) : Bool :=
  let lo := fp32.decode b.lo.toNat
  let hi := fp32.decode b.hi.toNat
  x.isNan || x.lt lo || hi.lt x || hi.lt lo

/-- The clamped element: lo below it or for NaN, else hi, rounded by RNE. An 8-bit format saturates (R68's default). With
lo > hi an element between them is below lo and above hi: lo is stored (DESIGN CHOICE, log 58). -/
def boundClamp (b : BoundReg) (t : Nat) (x : Val) : Nat :=
  let lo := fp32.decode b.lo.toNat
  let hi := fp32.decode b.hi.toNat
  let v := if x.isNan || x.lt lo then lo else hi
  ((tagFmt t).round (if tagFp8 t then .saturate else .ieee) 0 0 v).code

/-- The elements of a store under a bound register: what is stored, and how many elements are out of range. -/
def boundElems (b : BoundReg) (t : Nat) (mask : Word64) (es : List Nat) : List Nat × Nat :=
  let w := tagWidth t
  let out (i x : Nat) : Bool := active mask w i && boundOut b ((tagFmt t).decode x)
  let idx := es.zipIdx
  (idx.map (fun p => if out p.2 p.1 && b.mode == 2 then boundClamp b t ((tagFmt t).decode p.1) else p.1),
    (idx.filter (fun p => out p.2 p.1)).length)

/-- A bound register after a store found elements out of range under flag or clamp (R54). -/
def State.boundSticky (s : State) (aid bd count : Nat) : State :=
  if count = 0 then s
  else
    let a := s.act aid
    s.setAct aid { a with bd := sparseSet {} a.bd bd { a.bound bd with sticky := true } }

/-- The event record that a store under a bound register in flag mode owes: register and count (R54, R335). -/
def Act.boundOwed (a : Act) (bd count : Nat) : Option (Nat × Nat) :=
  if (a.bound bd).mode = 1 ∧ count ≠ 0 then some (bd, count) else none

/-- The record at write-back. -/
def State.boundRecord (s : State) (a : Act) (opcode : Nat) (word : BitVec 32) (b : Option (Nat × Nat)) : State :=
  match b with
  | some (bd, n) => s.boundEvent a bd opcode n word
  | none => s

/-- A bound store that is written back at once: sticky, and its record. -/
def State.boundDone (s : State) (aid bd opcode count : Nat) (word : BitVec 32) : State :=
  (s.boundSticky aid bd count).boundRecord (s.act aid) opcode word ((s.act aid).boundOwed bd count)

/-- The record of a tagged store, when its tag clears. -/
def State.boundOf (s : State) (o : Op) : State := s.boundRecord (s.act o.act) o.opcode o.word o.bound

/-- The bound field of a store's immediate (R150). -/
def boundField (imm : BitVec 16) : Option Nat := if imm.getLsbD 4 then some (imm.toNat % 16) else none

/-! ## Local and scratchpad words -/

/-- LDL (R156). -/
def execLdl (mod : BitVec 4) (d a : BitVec 6) (imm : BitVec 16) (cl : Clauses) (s : State) :
    Host.Outcome State Fault Refusal :=
  run (.ldl mod d a imm cl) cl { memWord := true } noPre (fun c _ x st =>
    let n := sizeOf mod
    match x.lmCheck 0x40 (offImm (x.s a.toNat) imm) n n with
    | .error t => .trap t
    | .ok p =>
      if st.lmBusy c p n false then .hold (st.idle c)
      else
        let po := st.lmPoisonOf c p n
        let st := match po with | some q => st.noteUncorr x.gang q (st.lmLogged x.gang c p) | none => st
        fixedRes st 3 [{ wS d.toNat (extendLoad (mod.getLsbD 2) (st.lmRead c p n)) with poison := po }]) s

/-- STL (R157). -/
def execStl (mod : BitVec 4) (a c : BitVec 6) (imm : BitVec 16) (cl : Clauses) (s : State) :
    Host.Outcome State Fault Refusal :=
  run (.stl mod a c imm cl) cl { memWord := true } noPre (fun k _ x st =>
    let n := sizeOf mod
    match x.lmCheck 0x41 (offImm (x.s a.toNat) imm) n n with
    | .error t => .trap t
    | .ok p =>
      if st.lmBusy k p n true then .hold (st.idle k)
      else
        let bs := wordBytes64 n (x.s c.toNat)
        effectRes (st.lmWrite x.gang k p bs (bs.map (fun _ => true)) false)) s

/-- LDQ (R156). -/
def execLdq (mod : BitVec 4) (d a : BitVec 6) (imm : BitVec 16) (cl : Clauses) (s : State) :
    Host.Outcome State Fault Refusal :=
  run (.ldq mod d a imm cl) cl { memWord := true } noPre (fun _ aid x st =>
    let n := sizeOf mod
    match x.qsCheck 0x42 (offImm (x.s a.toNat) imm) n n with
    | .error t => .trap t
    | .ok p => opRes st (mkOp aid x (.ldq mod d a imm cl) cl false true (dstS d.toNat)
        (.ldq x.quad p n (mod.getLsbD 2) d.toNat))) s

/-- STQ (R157). -/
def execStq (mod : BitVec 4) (a c : BitVec 6) (imm : BitVec 16) (cl : Clauses) (s : State) :
    Host.Outcome State Fault Refusal :=
  run (.stq mod a c imm cl) cl { memWord := true } noPre (fun _ aid x st =>
    let n := sizeOf mod
    match x.qsCheck 0x43 (offImm (x.s a.toNat) imm) n n with
    | .error t => .trap t
    | .ok p =>
      let bs := wordBytes64 n (x.s c.toNat)
      opRes st (mkOp aid x (.stq mod a c imm cl) cl false true []
        (.stq x.quad p bs (bs.map (fun _ => true))))) s

/-- The tag and block word of a vector load: a reserved tag, or a block word with a reserved bit, raises FORMAT (R158). -/
def vloadFormat (a : Act) (imm : BitVec 16) (c : BitVec 6) : Except Trap (BitVec 5 × BitVec 32) :=
  let t := imm.toNat % 32
  let bw : BitVec 32 := if tagBlock t then (a.s c.toNat).setWidth 32 else 0
  if !tagKnown t then .error (mkTrap cFORMAT (t + 3 * 32))
  else if !bwOk t bw then .error (mkTrap cFORMAT (t + 4 * 32))
  else .ok (BitVec.ofNat 5 t, bw)

/-- VLDL (R158). -/
def execVldl (d a c : BitVec 6) (imm : BitVec 16) (cl : Clauses) (s : State) : Host.Outcome State Fault Refusal :=
  run (.vldl d a c imm cl) cl { memWord := true } noPre (fun k _ x st =>
    match vloadFormat x imm c with
    | .error t => .trap t
    | .ok (tag, bw) =>
      match x.lmCheck 0x46 (offVec (x.s a.toNat) imm) 64 64 with
      | .error t => .trap t
      | .ok p =>
        if st.lmBusy k p 64 false then .hold (st.idle k)
        else
          let po := st.lmPoisonOf k p 64
          let st := match po with | some q => st.noteUncorr x.gang q (st.lmLogged x.gang k p) | none => st
          fixedRes st 3 [{ wV d.toNat { data := bytesVec (st.lmRead k p 64), tag := tag, bw := bw } with poison := po }])
    s

/-- VLDQ (R158). -/
def execVldq (d a c : BitVec 6) (imm : BitVec 16) (cl : Clauses) (s : State) : Host.Outcome State Fault Refusal :=
  run (.vldq d a c imm cl) cl { memWord := true } noPre (fun _ aid x st =>
    match vloadFormat x imm c with
    | .error t => .trap t
    | .ok (tag, bw) =>
      match x.qsCheck 0x48 (offVec (x.s a.toNat) imm) 64 64 with
      | .error t => .trap t
      | .ok p => opRes st (mkOp aid x (.vldq d a c imm cl) cl false true [vreg d.toNat]
          (.vldq x.quad p tag bw d.toNat))) s

/-- A masked vector store's bytes and mask, its bound applied: the register's FORMAT check, BOUND in trap mode, and the
number of elements out of range (R54, R159). -/
def vstoreData (a : Act) (v : VReg) (mask : Word64) (imm : BitVec 16) : Except Trap (List Byte × List Bool × Nat) :=
  let bytes := vecBytes v.data
  let m := storeMask mask v.t
  match boundField imm with
  | none => .ok (bytes, m, 0)
  | some n =>
    let b := a.bound n
    if b.mode = 0 then .ok (bytes, m, 0)
    else
      let w := tagWidth v.t
      let (es, count) := boundElems b v.t mask (elems v.data w (512 / w))
      if b.mode = 3 ∧ count ≠ 0 then .error (mkTrap cBOUND n)
      else .ok (vecBytes (vecOf w es), m, count)

/-- The bound check accepts FP32, FP16, BF16, E4M3 and E5M2, whatever the register's mode (R54, R159). -/
def vstoreFormat (v : VReg) (imm : BitVec 16) : Option Trap :=
  match boundField imm with
  | none => none
  | some _ => if tagFloat v.t || tagFp8 v.t then none else some (mkTrap cFORMAT (v.t + 2 * 32))

/-- VSTL (R159). -/
def execVstl (mod : BitVec 4) (a c : BitVec 6) (imm : BitVec 16) (cl : Clauses) (s : State) :
    Host.Outcome State Fault Refusal :=
  run (.vstl mod a c imm cl) cl { memWord := true } noPre (fun k aid x st =>
    let v := x.v c.toNat
    match vstoreFormat v imm with
    | some t => .trap t
    | none =>
      match x.lmCheck 0x47 (offVec (x.s a.toNat) imm) 64 64 with
      | .error t => .trap t
      | .ok p =>
        match vstoreData x v (x.p (mod.toNat % 8)) imm with
        | .error t => .trap t
        | .ok (bs, m, count) =>
          if st.lmBusy k p 64 true then .hold (st.idle k)
          else
            let st := st.boundDone aid (imm.toNat % 16) 0x47 count x.pc
            effectRes (st.lmWrite x.gang k p bs m true)) s

/-- VSTQ (R159). -/
def execVstq (mod : BitVec 4) (a c : BitVec 6) (imm : BitVec 16) (cl : Clauses) (s : State) :
    Host.Outcome State Fault Refusal :=
  run (.vstq mod a c imm cl) cl { memWord := true } noPre (fun _ aid x st =>
    let v := x.v c.toNat
    match vstoreFormat v imm with
    | some t => .trap t
    | none =>
      match x.qsCheck 0x49 (offVec (x.s a.toNat) imm) 64 64 with
      | .error t => .trap t
      | .ok p =>
        match vstoreData x v (x.p (mod.toNat % 8)) imm with
        | .error t => .trap t
        | .ok (bs, m, count) =>
          let n := imm.toNat % 16
          opRes (st.boundSticky aid n count) { mkOp aid x (.vstq mod a c imm cl) cl false true [] (.stq x.quad p bs m) with
            bound := x.boundOwed n count }) s

/-- The offsets of the active elements of an indexed access, all checked; the lowest failing one raises CAPBOUND
(R160). An element is 32 bits wide here even for RAW data: the mask bit of its lowest byte selects it (DESIGN CHOICE,
log 59). -/
def indexedOffs (a : Act) (opcode : Nat) (base : Word64) (idx : List Nat) (mask : Word64) :
    Except Trap (List (Nat × Nat)) :=
  let act := (List.range 16).filter (active mask 32)
  act.foldr (fun i acc =>
    let o := base + wOfInt (sextNat (idx[i]?.getD 0) 32 * 4)
    match a.lmAddr o.toNat 4 with
    | none => .error (mkTrap cCAPBOUND (1 + opcode * 256) o)
    | some p => (match acc with | .error t => .error t | .ok l => .ok ((i, p) :: l))) (.ok [])

/-- VGATHL (R160). -/
def execVgathl (mod : BitVec 4) (d a b : BitVec 6) (imm : BitVec 16) (cl : Clauses) (s : State) :
    Host.Outcome State Fault Refusal :=
  run (.vgathl mod d a b imm cl) cl { memWord := true } noPre (fun c aid x st =>
    let vb := x.v b.toNat
    let t := imm.toNat % 32
    if t ≠ 0 ∧ t ≠ 4 ∧ t ≠ 6 then .trap (mkTrap cFORMAT (t + 3 * 32))
    else if vb.t ≠ 4 then .trap (mkTrap cFORMAT (vb.t + 32))
    else if (x.s a.toNat).toNat % 4 ≠ 0 then .trap (mkTrap cMISALIGN 0x4C (x.s a.toNat))
    else match indexedOffs x 0x4C (x.s a.toNat) (elems vb.data 32 16) (x.p (mod.toNat % 8)) with
      | .error tr => .trap tr
      | .ok offs =>
        if offs.any (fun o => st.lmBusy c o.2 4 false) then .hold (st.idle c)
        else opRes st (mkOp aid x (.vgathl mod d a b imm cl) cl false true [vreg d.toNat]
          (.gather c offs (BitVec.ofNat 5 t) d.toNat))) s

/-- VSCATL (R160). -/
def execVscatl (mod : BitVec 4) (a b c : BitVec 6) (cl : Clauses) (s : State) : Host.Outcome State Fault Refusal :=
  run (.vscatl mod a b c cl) cl { memWord := true } noPre (fun k aid x st =>
    let vb := x.v b.toNat
    let vc := x.v c.toNat
    if vb.t ≠ 4 then .trap (mkTrap cFORMAT (vb.t + 32))
    else if vc.t ≠ 0 ∧ tagWidth vc.t ≠ 32 then .trap (mkTrap cFORMAT (vc.t + 2 * 32))
    else if (x.s a.toNat).toNat % 4 ≠ 0 then .trap (mkTrap cMISALIGN 0x4D (x.s a.toNat))
    else match indexedOffs x 0x4D (x.s a.toNat) (elems vb.data 32 16) (x.p (mod.toNat % 8)) with
      | .error tr => .trap tr
      | .ok offs =>
        if offs.any (fun o => st.lmBusy k o.2 4 true) then .hold (st.idle k)
        else opRes st (mkOp aid x (.vscatl mod a b c cl) cl false true []
          (.scatter k (offs.map (fun o => (o.2, BitVec.ofNat 32 (elem vc.data 32 o.1))))))) s

/-- ZEROL (R172): complete at issue, poison of its lines untouched (R155; log 46); a length off its alignment is what
MISALIGN's TADDR holds when the start is on it (the model's choice; log 77); the core issues no word for ⌈len/256⌉ − 1 further cycles. -/
def execZerol (a b : BitVec 6) (cl : Clauses) (s : State) : Host.Outcome State Fault Refusal :=
  run (.zerol a b cl) cl { memWord := true } noPre (fun c _ x st =>
    let o := x.s a.toNat
    let n := (x.s b.toNat).toNat
    if o.toNat % 64 ≠ 0 ∨ n % 64 ≠ 0 then
      .trap (mkTrap cMISALIGN 0x5E (if o.toNat % 64 ≠ 0 then o else x.s b.toNat))
    else if 65536 < n then .trap (mkTrap cCAPBOUND (1 + 0x5E * 256) o)
    else if n = 0 then effectRes st
    else match x.lmAddr o.toNat n with
      | none => .trap (mkTrap cCAPBOUND (1 + 0x5E * 256) o)
      | some p =>
        if st.lmBusy c p n true then .hold (st.idle c)
        else
          let bs : List Byte := List.replicate n 0
          let st := st.lmWrite x.gang c p bs (bs.map (fun _ => true)) false
          effectRes (st.setCore c { st.core c with blockedUntil := (st.core c).cycle + cdiv n 256 })) s

/-! ## Device words (R152) -/

/-- The checks of a device-memory word in R152's order: capability, alignment, translation. -/
def State.devCheck (s : State) (c : Nat) (x : Act) (kn need opcode : Nat) (o : Word64) (n : Nat) (write : Bool)
    (atom : Nat) : Except Res (OtcEntry × Nat) :=
  let k := x.k kn
  match capCheck k kn need opcode o n with
  | .error t => .error (.trap t)
  | .ok a =>
    if a % n ≠ 0 then .error (.trap (mkTrap cMISALIGN opcode (w64 a)))
    else
      let acc : Access := { object := k.object, offset := a, bytes := n, write := write, atom := atom }
      match s.lookup c x.part acc with
      | .fault t => .error (.trap t)
      | .miss => .error (.wait (.walk acc.object acc.offset acc.bytes acc.write acc.atom))
      | .hit e => .ok (e, a)

/-- Using a translation (R308). -/
def State.touch (s : State) (c : Nat) (e : OtcEntry) : State :=
  if isArmature c then s else s.setCore c ((s.core c).otcUse e)

/-- A request of a word. -/
def mkReq (aid : Nat) (x : Act) (c op : Nat) (e : OtcEntry) (off n : Nat) (k : ReqKind) : Req :=
  { act := aid, gang := x.gang, part := x.part, core := c, op := op, num := x.num, path := e.path, object := e.object
    offset := off, addr := e.addr off + (if e.path = .window then x.part * 2 ^ 24 else 0), bytes := n, kind := k
    gp := e.gp, owner := e.owner, psize := e.psize }

/-- Issuing a device word: one operation, one request. -/
def devIssue (st : State) (o : Op) (r : Nat → Req) : Res :=
  let (n, st) := st.addOp o
  .go { st := st.send (r n), op := some n }

/-- A plain load of n bytes: from the L1 if the line is there, else from the home (R50, R156, R286). -/
def loadIssue (st : State) (o : Op) (r : Nat → Req) : Res :=
  let (n, st) := st.addOp o
  let q := r n
  match st.l1Find q.core q.act (q.addr / 64) with
  | some l =>
    .go { st := st.send { q with performed := some { data := (l.data.drop (q.addr % 64)).take q.bytes } }, op := some n }
  | none => .go { st := st.send q, op := some n }

/-- LD (R156). -/
def execLd (mod : BitVec 4) (d a b : BitVec 6) (imm : BitVec 16) (cl : Clauses) (s : State) :
    Host.Outcome State Fault Refusal :=
  run (.ld mod d a b imm cl) cl { memWord := true } noPre (fun c aid x st =>
    let n := sizeOf mod
    let ordered := mod.getLsbD 3
    let o := if ordered then x.s b.toNat else offImm (x.s b.toNat) imm
    match st.devCheck c x a.toNat rR 0x44 o n false 0 with
    | .error r => r
    | .ok (e, p) =>
      let st := st.touch c e
      let op := mkOp aid x (.ld mod d a b imm cl) cl true true (dstS d.toNat) (.device (some (sreg d.toNat)) true)
      let r := fun k => mkReq aid x c k e p n (.load (mod.getLsbD 2))
      if ordered then
        let st := st.l1Drop c (e.addr p / 64)
        devIssue st { op with acq := true, wide := st.wideScope x imm } (fun k => { r k with kind := .load (mod.getLsbD 2) })
      else loadIssue st op r) s

/-- ST (R157). -/
def execSt (mod : BitVec 4) (a b c : BitVec 6) (imm : BitVec 16) (cl : Clauses) (s : State) :
    Host.Outcome State Fault Refusal :=
  run (.st mod a b c imm cl) cl { memWord := true, release := mod.getLsbD 3 } noPre (fun k aid x st =>
    let n := sizeOf mod
    let o := if mod.getLsbD 3 then x.s b.toNat else offImm (x.s b.toNat) imm
    match st.devCheck k x a.toNat rW 0x45 o n true 0 with
    | .error r => r
    | .ok (e, p) =>
      let bs := wordBytes64 n (x.s c.toNat)
      let m := bs.map (fun _ => true)
      let st := (st.touch k e).l1Store k (e.addr p) bs m
      devIssue st (mkOp aid x (.st mod a b c imm cl) cl true true [] (.device none false))
        (fun q => mkReq aid x k q e p n (.store bs m))) s

/-- VLD (R158). -/
def execVld (d a b c : BitVec 6) (imm : BitVec 16) (cl : Clauses) (s : State) : Host.Outcome State Fault Refusal :=
  run (.vld d a b c imm cl) cl { memWord := true } noPre (fun k aid x st =>
    match vloadFormat x imm c with
    | .error t => .trap t
    | .ok (tag, bw) =>
      match st.devCheck k x a.toNat rR 0x4A (offVec (x.s b.toNat) imm) 64 false 0 with
      | .error r => r
      | .ok (e, p) =>
        loadIssue (st.touch k e)
          (mkOp aid x (.vld d a b c imm cl) cl true true [vreg d.toNat] (.device (some (vreg d.toNat)) true))
          (fun q => mkReq aid x k q e p 64 (.vload tag bw))) s

/-- VST (R159). -/
def execVst (mod : BitVec 4) (a b c : BitVec 6) (imm : BitVec 16) (cl : Clauses) (s : State) :
    Host.Outcome State Fault Refusal :=
  run (.vst mod a b c imm cl) cl { memWord := true } noPre (fun k aid x st =>
    let v := x.v c.toNat
    match vstoreFormat v imm with
    | some t => .trap t
    | none =>
      match st.devCheck k x a.toNat rW 0x4B (offVec (x.s b.toNat) imm) 64 true 0 with
      | .error r => r
      | .ok (e, p) =>
        match vstoreData x v (x.p (mod.toNat % 8)) imm with
        | .error t => .trap t
        | .ok (bs, m, count) =>
          let n := imm.toNat % 16
          let st := (st.touch k e).boundSticky aid n count
          let st := st.l1Store k (e.addr p) bs m
          devIssue st { mkOp aid x (.vst mod a b c imm cl) cl true true [] (.device none false) with
            bound := x.boundOwed n count }
            (fun q => mkReq aid x k q e p 64 (.store bs m))) s

/-- FENCE (R153, R166): with a release part its tag clears when every earlier memory word has completed; with acquire
alone it clears one cycle after issue; the acquire part holds later memory words. Completing at a scope wider than core
invalidates the L1 (R50). -/
def execFence (imm : BitVec 16) (cl : Clauses) (s : State) : Host.Outcome State Fault Refusal :=
  run (.fence imm cl) cl { memWord := true } noPre (fun _ aid x st =>
    let rel := decide (2 ≤ ordOf imm)
    let acq := ordOf imm % 2 = 1
    let o := mkOp aid x (.fence imm cl) cl rel true [] (if rel then .fence else .fixedTime [])
    opRes st { o with acq := acq, wide := st.wideScope x imm }) s

/-! ## Capabilities (R167..R169) -/

/-- CLD (R167). -/
def execCld (d a b : BitVec 6) (imm : BitVec 16) (cl : Clauses) (s : State) : Host.Outcome State Fault Refusal :=
  run (.cld d a b imm cl) cl { memWord := true } noPre (fun c aid x st =>
    match st.devCheck c x a.toNat (rR + rC) 0x56 (offImm (x.s b.toNat) imm) 16 false 0 with
    | .error r => r
    | .ok (e, p) =>
      devIssue ((st.touch c e).l1Drop c (e.addr p / 64))
        (mkOp aid x (.cld d a b imm cl) cl true true [kreg d.toNat] (.device (some (kreg d.toNat)) true))
        (fun q => mkReq aid x c q e p 16 .cload)) s

/-- CST (R167). -/
def execCst (a b c : BitVec 6) (imm : BitVec 16) (cl : Clauses) (s : State) : Host.Outcome State Fault Refusal :=
  run (.cst a b c imm cl) cl { memWord := true } noPre (fun k aid x st =>
    match st.devCheck k x a.toNat (rW + rC) 0x57 (offImm (x.s b.toNat) imm) 16 true 3 with
    | .error r => r
    | .ok (e, p) =>
      let v := x.k c.toNat
      let bs := natToBytes 16 v.bits.toNat
      let st := (st.touch k e).l1Store k (e.addr p) bs (bs.map (fun _ => true))
      devIssue st (mkOp aid x (.cst a b c imm cl) cl true true [] (.device none false))
        (fun q => mkReq aid x k q e p 16 (.cstore bs v.valid))) s

/-- CNARROW (R168); it needs no right, so a set reserved bit (R47) is all its CAPRIGHTS check looks for. -/
def execCnarrow (d a b c : BitVec 6) (imm : BitVec 16) (cl : Clauses) (s : State) : Host.Outcome State Fault Refusal :=
  run (.cnarrow d a b c imm cl) cl {} noPre (fun _ _ x st =>
    let k := x.k a.toNat
    let nlo := k.lo + (x.s b.toNat).toNat
    let nhi := nlo + (x.s c.toNat).toNat
    if !k.valid then .trap (mkTrap cCAPTAG a.toNat)
    else if k.reserved then .trap (mkTrap cCAPRIGHTS a.toNat)
    else if k.hi < nhi then .trap (mkTrap cCAPBOUND (0x58 * 256) (x.s b.toNat))
    else fixedRes st 1 [wK d.toNat (KReg.make k.object (k.rights &&& imm.toNat % 128) nhi nlo true)]) s

/-- The value CGET reads (R169). -/
def cgetValue (k : KReg) (what : Nat) : Word64 :=
  match what with
  | 0 => w64 k.lo
  | 1 => w64 k.hi
  | 2 => w64 (k.bits.toNat / 2 ^ 96 % 256)
  | 3 => w64 k.object
  | 4 => if k.valid then 1 else 0
  | 5 => w64 (k.hi - k.lo)
  | 6 => k.bits.extractLsb' 0 64
  | _ => k.bits.extractLsb' 64 64

/-- CGET (R169). -/
def execCget (mod : BitVec 4) (d a : BitVec 6) (cl : Clauses) (s : State) : Host.Outcome State Fault Refusal :=
  run (.cget mod d a cl) cl {} noPre (fun _ _ x st => fixedRes st 1 [wS d.toNat (cgetValue (x.k a.toNat) mod.toNat)]) s

/-- CSETC (R169). -/
def execCsetc (d a b : BitVec 6) (cl : Clauses) (s : State) : Host.Outcome State Fault Refusal :=
  run (.csetc d a b cl) cl {} noPre (fun _ _ x st =>
    fixedRes st 1 [wK d.toNat { bits := x.s b.toNat ++ x.s a.toNat, valid := false }]) s

/-- MOVK (R169). -/
def execMovk (mod : BitVec 4) (d a : BitVec 6) (cl : Clauses) (s : State) : Host.Outcome State Fault Refusal :=
  run (.movk mod d a cl) cl {} noPre (fun _ _ x st =>
    let k := x.k a.toNat
    fixedRes st 1 [wK d.toNat { k with valid := k.valid && mod != 1 }]) s

/-! ## Cache control (R170) -/

/-- The translation of the line that CINV names, which needs no walk of its own: it drops what the cache holds; none when a check
would fail. -/
def State.lineOf (s : State) (c : Nat) (x : Act) (kn : Nat) (o : Word64) (need : Nat) : Option (OtcEntry × Nat) :=
  let k := x.k kn
  match capCheck k kn need 0x5B o 1 with
  | .error _ => none
  | .ok a =>
    let acc : Access := { object := k.object, offset := a, bytes := 1, write := false }
    match s.lookup c x.part acc with
    | .hit e => some (e, a)
    | .fault _ => none
    | .miss => (match s.walk x.part acc with | .ok (e, _) => some (e, a) | .error _ => none)

/-- A line is requested ahead of use, into the core's L1 or its home's memory-side cache: by its translation. -/
def State.lineAhead (s : State) (c : Nat) (msc : Bool) (e : OtcEntry) (p : Nat) : State :=
  let s := s.touch c e
  let line := e.addr p / 64
  let free := !(s.reqs.any (fun r => r.2.addr / 64 == line && r.2.performed == none && decide (r.2.arrived ≠ 0)))
  if e.path = .window then s
  else if msc then s.mcRead line
  else if free then (s.applyLine line).l1Fill c line else s

/-- PFETCH (R170): a request for a line, or nothing when a check would fail. A missing translation starts a walk, whose end
requests the line; the word does not wait. -/
def execPfetch (mod : BitVec 4) (a b : BitVec 6) (cl : Clauses) (s : State) : Host.Outcome State Fault Refusal :=
  run (.pfetch mod a b cl) cl {} noPre (fun c aid x st =>
    let k := x.k a.toNat
    match capCheck k a.toNat rR 0x5B (x.s b.toNat) 1 with
    | .error _ => effectRes st
    | .ok p =>
      match st.lookup c x.part { object := k.object, offset := p, bytes := 1, write := false } with
      | .hit e => effectRes (st.lineAhead c (mod == 1) e p)
      | .fault _ => effectRes st
      | .miss => effectRes (st.askWalk { act := aid, part := x.part, core := c, object := k.object, offset := p, bytes := 1
                                         write := false, who := .ahead (mod == 1) })) s

/-- CINV (R170). -/
def execCinv (mod : BitVec 4) (a b : BitVec 6) (cl : Clauses) (s : State) : Host.Outcome State Fault Refusal :=
  run (.cinv mod a b cl) cl {} noPre (fun c _ x st =>
    if mod = 0 then effectRes (st.l1Clear c)
    else match st.lineOf c x a.toNat (x.s b.toNat) 0 with
      | none => effectRes st
      | some (e, p) => effectRes (st.l1Drop c (e.addr p / 64))) s

end Sys2Proof.Machine
end

