-- ==== Sys2Proof/Machine/Atomic.lean ====
section
/-! DEFINITION. Atomics, the wait on a memory value, and SIGNAL (0x4E..0x54, 0x5D, R161..R165, R171). -/
namespace Sys2Proof.Machine

/-- The access class of an atomic for R164: a host object allows AADD.d, ASWP.d and ACAS.d at scope sys. -/
def atomClass (opcode n scope : Nat) : Nat :=
  if (opcode = 0x4E ∨ opcode = 0x51 ∨ opcode = 0x52) ∧ n = 8 ∧ scope = 6 then 1 else 2

/-- The rights of an atomic or a SIGNAL: A and W, and S at scope sys (R152, R161). -/
def atomRights (scope : Nat) : Nat := rA + rW + (if scope = 6 then rS else 0)

/-- Issuing an atomic of n bytes: y its operand, new the value a matching ACAS writes. With d = 0 it is a reduction,
which answers nothing (R153, R162). -/
def atomicRes (st : State) (c aid : Nat) (x : Act) (i : Instr) (cl : Clauses) (d a b : BitVec 6) (imm : BitVec 16)
    (n sub : Nat) (y new : Word64) : Res :=
  let opcode := opcodeOf i
  match st.devCheck c x a.toNat (atomRights (scopeOf imm)) opcode (x.s b.toNat) n true (atomClass opcode n (scopeOf imm))
    with
  | .error r => r
  | .ok (e, p) =>
    let st := (st.touch c e).l1Drop c (e.addr p / 64)
    let acq := decide (ordOf imm % 2 = 1)
    let o := mkOp aid x i cl true true (dstS d.toNat)
      (.device (if d = 0 then none else some (sreg d.toNat)) (decide (d ≠ 0)))
    devIssue st { o with acq := acq, wide := acq && st.wideScope x imm }
      (fun q => mkReq aid x c q e p n (.atomic opcode sub y new))

/-- What an atomic waits for: a memory word, and with ord 2 or 3 a release. -/
def atomNeed (imm : BitVec 16) : Need := { memWord := true, release := decide (2 ≤ ordOf imm) }

/-- The size of an integer atomic: mod[3]. -/
def atomSize (mod : BitVec 4) : Nat := if mod.getLsbD 3 then 8 else 4

/-- AADD (R161). -/
def execAadd (mod : BitVec 4) (d a b c : BitVec 6) (imm : BitVec 16) (cl : Clauses) (s : State) :
    Host.Outcome State Fault Refusal :=
  run (.aadd mod d a b c imm cl) cl (atomNeed imm) noPre (fun k aid x st =>
    atomicRes st k aid x (.aadd mod d a b c imm cl) cl d a b imm (atomSize mod) 0 (x.s c.toNat) 0) s

/-- ALOG (R161): 0 and, 1 or, 2 xor. -/
def execAlog (mod : BitVec 4) (d a b c : BitVec 6) (imm : BitVec 16) (cl : Clauses) (s : State) :
    Host.Outcome State Fault Refusal :=
  run (.alog mod d a b c imm cl) cl (atomNeed imm) noPre (fun k aid x st =>
    atomicRes st k aid x (.alog mod d a b c imm cl) cl d a b imm (atomSize mod) (mod.toNat % 4) (x.s c.toNat) 0) s

/-- AMNX (R161): 0 min, 1 max, 2 minu, 3 maxu. -/
def execAmnx (mod : BitVec 4) (d a b c : BitVec 6) (imm : BitVec 16) (cl : Clauses) (s : State) :
    Host.Outcome State Fault Refusal :=
  run (.amnx mod d a b c imm cl) cl (atomNeed imm) noPre (fun k aid x st =>
    atomicRes st k aid x (.amnx mod d a b c imm cl) cl d a b imm (atomSize mod) (mod.toNat % 4) (x.s c.toNat) 0) s

/-- ASWP (R161). -/
def execAswp (mod : BitVec 4) (d a b c : BitVec 6) (imm : BitVec 16) (cl : Clauses) (s : State) :
    Host.Outcome State Fault Refusal :=
  run (.aswp mod d a b c imm cl) cl (atomNeed imm) noPre (fun k aid x st =>
    atomicRes st k aid x (.aswp mod d a b c imm cl) cl d a b imm (atomSize mod) 0 (x.s c.toNat) 0) s

/-- ACAS (R161): the comparand in s[c], the new value in s[d]. -/
def execAcas (mod : BitVec 4) (d a b c : BitVec 6) (imm : BitVec 16) (cl : Clauses) (s : State) :
    Host.Outcome State Fault Refusal :=
  run (.acas mod d a b c imm cl) cl (atomNeed imm) noPre (fun k aid x st =>
    atomicRes st k aid x (.acas mod d a b c imm cl) cl d a b imm (atomSize mod) 0 (x.s c.toNat) (x.s d.toNat)) s

/-- AFADD (R163): FP32 or BF16. -/
def execAfadd (mod : BitVec 4) (d a b c : BitVec 6) (imm : BitVec 16) (cl : Clauses) (s : State) :
    Host.Outcome State Fault Refusal :=
  run (.afadd mod d a b c imm cl) cl (atomNeed imm) noPre (fun k aid x st =>
    atomicRes st k aid x (.afadd mod d a b c imm cl) cl d a b imm (if mod = 0 then 4 else 2) 0 (x.s c.toNat) 0) s

/-- WAITMEM's replay slot (R300): destination, mod, ord, scope and object; offset; comparand; rectangle. -/
def waitmemReplay (x : Act) (mod : BitVec 4) (d : BitVec 6) (imm : BitVec 16) (object off : Nat) (y : Word64) : Replay :=
  { w0 := w64 (0x54 * 2 ^ 56 + d.toNat * 2 ^ 50 + mod.toNat * 2 ^ 46 + ordOf imm * 2 ^ 44 + scopeOf imm * 2 ^ 41
      + object % 2 ^ 24)
    w1 := w64 off, w2 := y, w3 := if scopeOf imm = 5 then x.s (imm.toNat / 256 % 64) else 0 }

/-- WAITMEM (R165). -/
def execWaitmem (mod : BitVec 4) (d a b c : BitVec 6) (imm : BitVec 16) (cl : Clauses) (s : State) :
    Host.Outcome State Fault Refusal :=
  run (.waitmem mod d a b c imm cl) cl { memWord := true } noPre (fun k aid x st =>
    let n := atomSize mod
    match st.devCheck k x a.toNat rR 0x54 (x.s b.toNat) n false 2 with
    | .error r => r
    | .ok (e, p) =>
      let st := (st.touch k e).l1Drop k (e.addr p / 64)
      let acq := decide (ordOf imm = 1)
      let o := mkOp aid x (.waitmem mod d a b c imm cl) cl true true (dstS d.toNat) (.device (some (sreg d.toNat)) true)
      devIssue st { o with
          acq := acq, wide := acq && st.wideScope x imm
          replay := waitmemReplay x mod d imm e.object p (x.s c.toNat) }
        (fun q => mkReq aid x k q e p n (.wait (mod.toNat % 8) (x.s c.toNat)))) s

/-- SIGNAL (R171): a release that adds s[c] to an 8-byte counter. -/
def execSignal (a b c : BitVec 6) (imm : BitVec 16) (cl : Clauses) (s : State) : Host.Outcome State Fault Refusal :=
  run (.signal a b c imm cl) cl { memWord := true, release := true } noPre (fun k aid x st =>
    atomicRes st k aid x (.signal a b c imm cl) cl 0 a b imm 8 0 (x.s c.toNat) 0) s

end Sys2Proof.Machine
end

