-- ==== Sys2Proof/Machine/Vector.lean ====
section
/-! DEFINITION. Vector arithmetic, logic, shifts, comparison, selection, element moves, reductions, scans, conversion, bit
planes, block scales and bound tests (0x60..0x7F, R173..R192). -/
namespace Sys2Proof.Machine

/-! ## Shared by the group -/

/-- FORMAT with its tag and operand: 0 a, 1 b, 2 c, 3 d, 4 block word (R296). -/
def formatTrap (t operand : Nat) : Trap := mkTrap cFORMAT (t % 32 + operand * 32)

/-- The merge rule's tag check (R174). -/
def mergeFault (x : Act) (mod : BitVec 4) (d : BitVec 6) (t : BitVec 5) : Option Trap :=
  if mod.getLsbD 3 ∧ (x.v d.toNat).tag ≠ t then some (formatTrap (x.v d.toNat).t 3) else none

/-- The elements of a masked result at width w: computed where active, else the old element under merge, else zero; and
the flags of the active ones (R174). -/
def maskedElems (x : Act) (mod : BitVec 4) (d : BitVec 6) (w : Nat) (f : Nat → FRes) : List Nat × BitVec 5 :=
  let mask := x.p (mod.toNat % 8)
  let old := (x.v d.toNat).data
  let rs : List FRes := (List.range (512 / w)).map (fun i =>
    if active mask w i then f i else { code := if mod.getLsbD 3 then elem old w i else 0 })
  (rs.map (·.code), rs.foldl (fun g r => g ||| r.flags) 0)

/-- A masked word's effect: v[d] with the tag and block word given (R64, R173, R174). -/
def maskedRes (st : State) (x : Act) (mod : BitVec 4) (d : BitVec 6) (lat w : Nat) (t : BitVec 5) (bw : BitVec 32)
    (f : Nat → FRes) : Res :=
  match mergeFault x mod d t with
  | some tr => .trap tr
  | none =>
    let (es, fl) := maskedElems x mod d w f
    fixedRes st lat [wV d.toNat { data := retagData t.toNat (vecOf w es), tag := t, bw := bw }] fl

/-- The tags of arithmetic: I8..I64, FP32, FP16, BF16 (R176). -/
def arithTag (t : Nat) : Bool := tagInt t || tagFloat t

/-- An integer result: wrapped, or clamped with sat (R57, R176). -/
def intRes (t : Nat) (sat : Bool) (v : Int) : FRes :=
  { code := intBits (tagWidth t) (if sat then clampInt t v else v) }

/-- Source tags: an accepted tag in a, the same tag in the others (R175). `vs` lists the operand's position and tag. -/
def tagsFault (ok : Nat → Bool) (ta : Nat) (vs : List (Nat × Nat)) : Option Trap :=
  if !ok ta then some (formatTrap ta 0)
  else match vs.find? (fun v => v.2 != ta) with
    | some v => some (formatTrap v.2 v.1)
    | none => none

/-- Sums and products (R176): the exact integer and the exact value with its flag, from the elements' codes. -/
structure ArithOp where
  onInt : Int → Int → Int → Int
  onVal : Nat → Val → Val → Val → Val × BitVec 5

def opAdd : ArithOp := { onInt := fun x y _ => x + y, onVal := fun rm x y _ => x.add rm y }
def opSub : ArithOp := { onInt := fun x y _ => x - y, onVal := fun rm x y _ => x.add rm y.negate }
def opMul : ArithOp := { onInt := fun x y _ => x * y, onVal := fun _ x y _ => x.mul y }
/-- The fused product and sum: an invalid product sets NV even when z is NaN. -/
def fusedVal (rm : Nat) (x y z : Val) : Val × BitVec 5 :=
  let (p, f) := x.mul y
  let (s, g) := p.add rm z
  (s, f ||| g)
def opFma : ArithOp := { onInt := fun x y z => x * y + z, onVal := fusedVal }
def opFms : ArithOp := { onInt := fun x y z => x * y - z, onVal := fun rm x y z => fusedVal rm x y z.negate }

/-- VADD, VSUB, VMUL, VFMA, VFMS on their registers; a word without a c operand gives v[b] for it (R176). -/
def arithRes (st : State) (x : Act) (o : ArithOp) (mod : BitVec 4) (d : BitVec 6) (sat : Bool) (a b c : VReg)
    (useC : Bool) : Res :=
  match tagsFault arithTag a.t ((1, b.t) :: (if useC then [(2, c.t)] else [])) with
  | some tr => .trap tr
  | none =>
    if sat ∧ tagFloat a.t then .trap (formatTrap a.t 0)
    else
      let w := tagWidth a.t
      if tagInt a.t then
        maskedRes st x mod d 2 w a.tag 0 (fun i => intRes a.t sat
          (o.onInt (intVal a.t (elem a.data w i)) (intVal a.t (elem b.data w i)) (intVal a.t (elem c.data w i))))
      else
        let f := tagFmt a.t
        maskedRes st x mod d 4 w a.tag 0 (fun i =>
          let (v, nv) := o.onVal x.rm (f.decode (elem a.data w i)) (f.decode (elem b.data w i))
            (f.decode (elem c.data w i))
          let r := f.round .ieee x.rm 0 v
          { r with flags := r.flags ||| nv })

/-- VADD (R176). -/
def execVadd (mod : BitVec 4) (d a b : BitVec 6) (imm : BitVec 16) (cl : Clauses) (s : State) :
    Host.Outcome State Fault Refusal :=
  run (.vadd mod d a b imm cl) cl {} noPre (fun _ _ x st =>
    arithRes st x opAdd mod d (imm.getLsbD 0) (x.v a.toNat) (x.v b.toNat) (x.v b.toNat) false) s

/-- VSUB (R176). -/
def execVsub (mod : BitVec 4) (d a b : BitVec 6) (imm : BitVec 16) (cl : Clauses) (s : State) :
    Host.Outcome State Fault Refusal :=
  run (.vsub mod d a b imm cl) cl {} noPre (fun _ _ x st =>
    arithRes st x opSub mod d (imm.getLsbD 0) (x.v a.toNat) (x.v b.toNat) (x.v b.toNat) false) s

/-- VMUL (R176). -/
def execVmul (mod : BitVec 4) (d a b : BitVec 6) (imm : BitVec 16) (cl : Clauses) (s : State) :
    Host.Outcome State Fault Refusal :=
  run (.vmul mod d a b imm cl) cl {} noPre (fun _ _ x st =>
    arithRes st x opMul mod d (imm.getLsbD 0) (x.v a.toNat) (x.v b.toNat) (x.v b.toNat) false) s

/-- VFMA (R176). -/
def execVfma (mod : BitVec 4) (d a b c : BitVec 6) (imm : BitVec 16) (cl : Clauses) (s : State) :
    Host.Outcome State Fault Refusal :=
  run (.vfma mod d a b c imm cl) cl {} noPre (fun _ _ x st =>
    arithRes st x opFma mod d (imm.getLsbD 0) (x.v a.toNat) (x.v b.toNat) (x.v c.toNat) true) s

/-- VFMS (R176). -/
def execVfms (mod : BitVec 4) (d a b c : BitVec 6) (imm : BitVec 16) (cl : Clauses) (s : State) :
    Host.Outcome State Fault Refusal :=
  run (.vfms mod d a b c imm cl) cl {} noPre (fun _ _ x st =>
    arithRes st x opFms mod d (imm.getLsbD 0) (x.v a.toNat) (x.v b.toNat) (x.v c.toNat) true) s

/-- The lesser or greater element: canonical NaN if either is NaN, −0.0 below +0.0, no flags (R177). -/
def extremeElem (t : Nat) (isMax : Bool) (x y : Nat) : FRes :=
  if tagInt t then
    let lt := decide (intVal t x < intVal t y)
    { code := if lt = isMax then y else x }
  else
    let f := tagFmt t
    let a := f.decode x
    let b := f.decode y
    if a.isNan || b.isNan then { code := f.nan }
    else { code := if a.ltTotal b = isMax then y else x }

/-- VMIN and VMAX. -/
def extremeRes (st : State) (x : Act) (isMax : Bool) (mod : BitVec 4) (d : BitVec 6) (a b : VReg) : Res :=
  match tagsFault arithTag a.t [(1, b.t)] with
  | some tr => .trap tr
  | none =>
    let w := tagWidth a.t
    maskedRes st x mod d 2 w a.tag 0 (fun i => extremeElem a.t isMax (elem a.data w i) (elem b.data w i))

/-- VMIN (R176, R177). -/
def execVmin (mod : BitVec 4) (d a b : BitVec 6) (cl : Clauses) (s : State) : Host.Outcome State Fault Refusal :=
  run (.vmin mod d a b cl) cl {} noPre (fun _ _ x st =>
    extremeRes st x false mod d (x.v a.toNat) (x.v b.toNat)) s

/-- VMAX (R176, R177). -/
def execVmax (mod : BitVec 4) (d a b : BitVec 6) (cl : Clauses) (s : State) : Host.Outcome State Fault Refusal :=
  run (.vmax mod d a b cl) cl {} noPre (fun _ _ x st =>
    extremeRes st x true mod d (x.v a.toNat) (x.v b.toNat)) s

/-- The sign of a floating-point element cleared or inverted; canonical NaN for NaN (R177). -/
def signElem (t : Nat) (neg : Bool) (x : Nat) : FRes :=
  let f := tagFmt t
  let top := 2 ^ (f.width - 1)
  if (f.decode x).isNan then { code := f.nan }
  else { code := if neg then (x + top) % 2 ^ f.width else x % top }

/-- VABS and VNEG. -/
def signRes (st : State) (x : Act) (neg : Bool) (mod : BitVec 4) (d : BitVec 6) (sat : Bool) (a : VReg) : Res :=
  if !arithTag a.t then .trap (formatTrap a.t 0)
  else if sat ∧ tagFloat a.t then .trap (formatTrap a.t 0)
  else
    let w := tagWidth a.t
    maskedRes st x mod d 2 w a.tag 0 (fun i =>
      let e := elem a.data w i
      if tagInt a.t then intRes a.t sat (if neg then -(intVal a.t e) else ((intVal a.t e).natAbs : Int))
      else signElem a.t neg e)

/-- VABS (R176, R177). -/
def execVabs (mod : BitVec 4) (d a : BitVec 6) (imm : BitVec 16) (cl : Clauses) (s : State) :
    Host.Outcome State Fault Refusal :=
  run (.vabs mod d a imm cl) cl {} noPre (fun _ _ x st =>
    signRes st x false mod d (imm.getLsbD 0) (x.v a.toNat)) s

/-- VNEG (R176, R177). -/
def execVneg (mod : BitVec 4) (d a : BitVec 6) (imm : BitVec 16) (cl : Clauses) (s : State) :
    Host.Outcome State Fault Refusal :=
  run (.vneg mod d a imm cl) cl {} noPre (fun _ _ x st =>
    signRes st x true mod d (imm.getLsbD 0) (x.v a.toNat)) s

/-- The transcendental words: function, mask, registers (R178). -/
def unaryRes (st : State) (x : Act) (fn : Nat) (mod : BitVec 4) (d : BitVec 6) (a : VReg) : Res :=
  if !tagFloat a.t then .trap (formatTrap a.t 0)
  else
    let w := tagWidth a.t
    let f := tagFmt a.t
    maskedRes st x mod d 6 w a.tag 0 (fun i => fpUnary fn f x.rm (f.decode (elem a.data w i)))

/-- VRCP (R178). -/
def execVrcp (mod : BitVec 4) (d a : BitVec 6) (cl : Clauses) (s : State) : Host.Outcome State Fault Refusal :=
  run (.vrcp mod d a cl) cl {} noPre (fun _ _ x st => unaryRes st x 0 mod d (x.v a.toNat)) s

/-- VRSQ (R178). -/
def execVrsq (mod : BitVec 4) (d a : BitVec 6) (cl : Clauses) (s : State) : Host.Outcome State Fault Refusal :=
  run (.vrsq mod d a cl) cl {} noPre (fun _ _ x st => unaryRes st x 1 mod d (x.v a.toNat)) s

/-- VEXP2 (R178). -/
def execVexp2 (mod : BitVec 4) (d a : BitVec 6) (cl : Clauses) (s : State) : Host.Outcome State Fault Refusal :=
  run (.vexp2 mod d a cl) cl {} noPre (fun _ _ x st => unaryRes st x 2 mod d (x.v a.toNat)) s

/-- VLOG2 (R178). -/
def execVlog2 (mod : BitVec 4) (d a : BitVec 6) (cl : Clauses) (s : State) : Host.Outcome State Fault Refusal :=
  run (.vlog2 mod d a cl) cl {} noPre (fun _ _ x st => unaryRes st x 3 mod d (x.v a.toNat)) s

/-! ## Logic and shifts -/

/-- Byte logic: every tag, masked per byte; the result carries v[a]'s tag and block word (R179). -/
def vlogicRes (st : State) (x : Act) (f : Nat → Nat → Nat) (mod : BitVec 4) (d : BitVec 6) (a b : VReg) : Res :=
  maskedRes st x mod d 2 8 a.tag a.bw (fun i => { code := f (elem a.data 8 i) (elem b.data 8 i) })

/-- VAND (R179). -/
def execVand (mod : BitVec 4) (d a b : BitVec 6) (cl : Clauses) (s : State) : Host.Outcome State Fault Refusal :=
  run (.vand mod d a b cl) cl {} noPre (fun _ _ x st =>
    vlogicRes st x (· &&& ·) mod d (x.v a.toNat) (x.v b.toNat)) s

/-- VOR (R179). -/
def execVor (mod : BitVec 4) (d a b : BitVec 6) (cl : Clauses) (s : State) : Host.Outcome State Fault Refusal :=
  run (.vor mod d a b cl) cl {} noPre (fun _ _ x st =>
    vlogicRes st x (· ||| ·) mod d (x.v a.toNat) (x.v b.toNat)) s

/-- VXOR (R179). -/
def execVxor (mod : BitVec 4) (d a b : BitVec 6) (cl : Clauses) (s : State) : Host.Outcome State Fault Refusal :=
  run (.vxor mod d a b cl) cl {} noPre (fun _ _ x st =>
    vlogicRes st x (· ^^^ ·) mod d (x.v a.toNat) (x.v b.toNat)) s

/-- A shift of one element: left; right logical for U8 or with lg, else arithmetic (R180). -/
def shiftElem (t : Nat) (right lg : Bool) (x n : Nat) : Nat :=
  let w := tagWidth t
  if !right then (if w ≤ n then 0 else x * 2 ^ n % 2 ^ w)
  else if lg || tagUnsigned t then (if w ≤ n then 0 else x % 2 ^ w / 2 ^ n)
  else intBits w (sextNat x w / (2 ^ (min n w) : Int))

/-- VSHL and VSHR. -/
def shiftRes (st : State) (x : Act) (right : Bool) (mod : BitVec 4) (d : BitVec 6) (a b : VReg) (imm : BitVec 16) : Res :=
  let useB := !imm.getLsbD 15
  match tagsFault tagInt a.t (if useB then [(1, b.t)] else []) with
  | some tr => .trap tr
  | none =>
    let w := tagWidth a.t
    maskedRes st x mod d 2 w a.tag 0 (fun i =>
      { code := shiftElem a.t right (imm.getLsbD 6) (elem a.data w i)
          (if useB then elem b.data w i else imm.toNat % 64) })

/-- VSHL (R180). -/
def execVshl (mod : BitVec 4) (d a b : BitVec 6) (imm : BitVec 16) (cl : Clauses) (s : State) :
    Host.Outcome State Fault Refusal :=
  run (.vshl mod d a b imm cl) cl {} noPre (fun _ _ x st =>
    shiftRes st x false mod d (x.v a.toNat) (x.v b.toNat) imm) s

/-- VSHR (R180). -/
def execVshr (mod : BitVec 4) (d a b : BitVec 6) (imm : BitVec 16) (cl : Clauses) (s : State) :
    Host.Outcome State Fault Refusal :=
  run (.vshr mod d a b imm cl) cl {} noPre (fun _ _ x st =>
    shiftRes st x true mod d (x.v a.toNat) (x.v b.toNat) imm) s

/-! ## Comparison, selection, masks -/

/-- VCMP (R181): integers by value, floats with NaN rules. -/
def execVcmp (mod : BitVec 4) (d a b c : BitVec 6) (cl : Clauses) (s : State) : Host.Outcome State Fault Refusal :=
  run (.vcmp mod d a b c cl) cl {} noPre (fun _ _ x st =>
    let va := x.v a.toNat
    let vb := x.v b.toNat
    match tagsFault (fun t => arithTag t || tagFp8 t) va.t [(1, vb.t)] with
    | some tr => .trap tr
    | none =>
      if tagInt va.t ∧ 6 ≤ mod.toNat then .trap (formatTrap va.t 0)
      else
        let w := tagWidth va.t
        let mask := x.p c.toNat
        let rs := (List.range (512 / w)).map (fun i =>
          if active mask w i then vcmpHolds mod.toNat (elemVal va.t 0 i (elem va.data w i)) (elemVal vb.t 0 i (elem vb.data w i))
          else (false, 0))
        fixedRes st 2 [wP d.toNat (maskOfElems w (rs.map (·.1)))] (rs.foldl (fun g r => g ||| r.2) 0)) s

/-- VSEL (R182). -/
def execVsel (d a b c : BitVec 6) (cl : Clauses) (s : State) : Host.Outcome State Fault Refusal :=
  run (.vsel d a b c cl) cl {} noPre (fun _ _ x st =>
    let va := x.v a.toNat
    let vb := x.v b.toNat
    if vb.tag ≠ va.tag then .trap (formatTrap vb.t 1)
    else if tagBlock va.t ∧ va.bw ≠ vb.bw then .trap (formatTrap vb.t 4)
    else
      let w := maskWidth va.t
      let mask := x.p c.toNat
      fixedRes st 2 [wV d.toNat { va with data := retagData va.t (vecOf w ((List.range (512 / w)).map (fun i =>
        if active mask w i then elem va.data w i else elem vb.data w i))) }]) s

/-- VMOVP (R183): mod 0 the top bits of the bytes, mod 1 bytes from a mask. -/
def execVmovp (mod : BitVec 4) (d a : BitVec 6) (cl : Clauses) (s : State) : Host.Outcome State Fault Refusal :=
  run (.vmovp mod d a cl) cl {} noPre (fun _ _ x st =>
    if mod = 0 then
      fixedRes st 2 [wP d.toNat (maskOfElems 8 ((List.range 64).map (fun j => (x.v a.toNat).data.getLsbD (8 * j + 7))))]
    else
      fixedRes st 2 [wV d.toNat { data := vecOf 8 ((List.range 64).map (fun j =>
        if (x.p a.toNat).getLsbD j then 0xFF else 0)) }]) s

/-! ## Moving elements -/

/-- VBCAST (R184). -/
def execVbcast (mod : BitVec 4) (d a : BitVec 6) (imm : BitVec 16) (cl : Clauses) (s : State) :
    Host.Outcome State Fault Refusal :=
  run (.vbcast mod d a imm cl) cl {} noPre (fun _ _ x st =>
    if mod = 0 then
      let t := imm.toNat % 32
      if !(arithTag t || tagFp8 t) then .trap (formatTrap t 3)
      else
        let w := tagWidth t
        fixedRes st 2 [wV d.toNat
          { data := vecOf w (List.replicate (512 / w) (x.s a.toNat).toNat), tag := BitVec.ofNat 5 t }]
    else
      let va := x.v a.toNat
      if va.t = 0 then .trap (formatTrap 0 0)
      else
        let w := tagWidth va.t
        let i := imm.toNat % 64 % (512 / w)
        let sc := if i < 32 then va.bw.toNat % 512 else va.bw.toNat / 2 ^ 16 % 512
        let bw := if tagScaled va.t then BitVec.ofNat 32 (sc + sc * 2 ^ 16) else va.bw
        fixedRes st 2 [wV d.toNat
          { data := retagData va.t (vecOf w (List.replicate (512 / w) (elem va.data w i))), tag := va.tag, bw := bw }]) s

/-- The index of an element form: the immediate, or s[b], modulo the count (R185). -/
def elemIndex (x : Act) (byReg : Bool) (b : BitVec 6) (imm : BitVec 16) (n : Nat) : Nat :=
  (if byReg then (x.s b.toNat).toNat else imm.toNat % 64) % n

/-- VEXTR (R185). -/
def execVextr (mod : BitVec 4) (d a b : BitVec 6) (imm : BitVec 16) (cl : Clauses) (s : State) :
    Host.Outcome State Fault Refusal :=
  run (.vextr mod d a b imm cl) cl {} noPre (fun _ _ x st =>
    let va := x.v a.toNat
    if mod = 4 then fixedRes st 2 [wS d.toNat (if va.t = 0 then 0 else va.bw.setWidth 64)]
    else if va.t = 0 then .trap (formatTrap 0 0)
    else
      let w := tagWidth va.t
      let e := elem va.data w (elemIndex x (decide (2 ≤ mod.toNat)) b imm (512 / w))
      fixedRes st 2 [wS d.toNat (if mod.getLsbD 0 then wOfInt (sextNat e w) else w64 e)]) s

/-- VINS (R185). -/
def execVins (mod : BitVec 4) (d a b : BitVec 6) (imm : BitVec 16) (cl : Clauses) (s : State) :
    Host.Outcome State Fault Refusal :=
  run (.vins mod d a b imm cl) cl {} noPre (fun _ _ x st =>
    let vd := x.v d.toNat
    let y := x.s a.toNat
    if mod = 2 then
      let bw : BitVec 32 := y.setWidth 32
      if !tagBlock vd.t then .trap (formatTrap vd.t 3)
      else if !bwOk vd.t bw then .trap (formatTrap vd.t 4)
      else fixedRes st 2 [wV d.toNat { vd with bw := bw }]
    else if vd.t = 0 then .trap (formatTrap 0 3)
    else
      let w := tagWidth vd.t
      let j := elemIndex x (mod == 1) b imm (512 / w)
      fixedRes st 2 [wV d.toNat { vd with data := vecOf w ((List.range (512 / w)).map (fun i =>
        if i = j then y.toNat else elem vd.data w i)) }]) s

/-- VPERM (R186). -/
def execVperm (mod : BitVec 4) (d a b : BitVec 6) (cl : Clauses) (s : State) : Host.Outcome State Fault Refusal :=
  run (.vperm mod d a b cl) cl {} noPre (fun _ _ x st =>
    let va := x.v a.toNat
    let vb := x.v b.toNat
    if va.t = 0 then .trap (formatTrap 0 0)
    else if 2 < vb.t then .trap (formatTrap vb.t 1)
    else if tagScaled va.t ∧ va.bw.toNat % 512 ≠ va.bw.toNat / 2 ^ 16 % 512 then .trap (formatTrap va.t 4)
    else
      let w := tagWidth va.t
      maskedRes st x mod d 4 w va.tag va.bw (fun i => { code := elem va.data w (elem vb.data 8 i % (512 / w)) })) s

/-! ## Reductions and scans (R187) -/

/-- The node of a tag. -/
def nodeOf (t op rm : Nat) : Nat → Nat → FRes := if tagInt t then intNode t op else fpNode op rm

/-- The elements of a register as the tree takes them: widened to FP32, a NaN as the canonical one (R59, which R73's first
step would otherwise let through in a scan; log 57), inactive ones replaced by the identity. -/
def treeElems (x : Act) (mod : BitVec 4) (op : Nat) (v : VReg) : List Nat :=
  let w := tagWidth v.t
  let mask := x.p (mod.toNat % 8)
  (List.range (512 / w)).map (fun i =>
    if active mask w i then
      (if tagInt v.t then elem v.data w i else toFp32 ((tagFmt v.t).decode (elem v.data w i)))
    else treeIdentity v.t op)

/-- VREDUCE (R187). -/
def execVreduce (mod : BitVec 4) (d a : BitVec 6) (imm : BitVec 16) (cl : Clauses) (s : State) :
    Host.Outcome State Fault Refusal :=
  run (.vreduce mod d a imm cl) cl {} noPre (fun _ _ x st =>
    let va := x.v a.toNat
    let op := imm.toNat % 4
    if !arithTag va.t then .trap (formatTrap va.t 0)
    else
      let (r, fl) := treeReduce (nodeOf va.t op x.rm) (treeElems x mod op va)
      fixedRes st 4 [wS d.toNat (if tagInt va.t then wOfInt (intVal va.t r) else w64 r)] fl) s

/-- VSCAN (R187). -/
def execVscan (mod : BitVec 4) (d a : BitVec 6) (imm : BitVec 16) (cl : Clauses) (s : State) :
    Host.Outcome State Fault Refusal :=
  run (.vscan mod d a imm cl) cl {} noPre (fun _ _ x st =>
    let va := x.v a.toNat
    let op := imm.toNat % 4
    if !(tagInt va.t || va.t = 6) then .trap (formatTrap va.t 0)
    else
      let (l, fl) := scanAll (nodeOf va.t op x.rm) 7 1 (treeElems x mod op va) 0
      fixedRes st 4 [wV d.toNat { data := vecOf (tagWidth va.t) l, tag := va.tag }] fl) s

/-! ## Conversion (R188, R189) -/

/-- SRSTATE after n advances, and the draws (R67). -/
def srRun : Nat → Word64 → List Nat × Word64
  | 0, x => ([], x)
  | n + 1, x =>
    let y := srNext x
    let (l, z) := srRun n y
    (srDraw y :: l, z)

/-- The source indexes that a conversion reads, and where its results start (R188); none when part is out of range. -/
def cvtParts (ns nd part : Nat) : Option (List Nat × Nat) :=
  if ns < nd then (if nd / ns ≤ part then none else some (List.range ns, part * ns))
  else if nd < ns then (if ns / nd ≤ part then none else some ((List.range nd).map (part * nd + ·), 0))
  else if part ≠ 0 then none else some (List.range nd, 0)

/-- A destination tag VCVT accepts. -/
def cvtDst (t : Nat) : Bool := tagKnown t && t ≠ 0 && !tagBp t

/-- VCVT (R188). -/
def execVcvt (mod : BitVec 4) (d a b : BitVec 6) (imm : BitVec 16) (cl : Clauses) (s : State) :
    Host.Outcome State Fault Refusal :=
  run (.vcvt mod d a b imm cl) cl {} noPre (fun _ aid x st =>
    let va := x.v a.toNat
    let vd := x.v d.toNat
    let t := imm.toNat % 32
    let part := imm.toNat / 32 % 8
    let bw : BitVec 32 := if tagScaled t then (x.s b.toNat).setWidth 32 else 0
    if va.t = 0 then .trap (formatTrap 0 0)
    else if !cvtDst t then .trap (formatTrap t 3)
    else match cvtParts (tagCount va.t) (tagCount t) part with
      | none => .trap (formatTrap t 3)
      | some (src, start) =>
        let keep := decide (tagCount va.t < tagCount t) && decide (part ≠ 0)
        if keep = true ∧ vd.t ≠ t then .trap (formatTrap vd.t 3)
        else if !bwOk t bw then .trap (formatTrap t 4)
        else
          let m := mod.toNat % 8
          let rm := if m = 5 then x.rm else m
          let sr := decide (rm = 4)
          let (draws, srs) := if sr then srRun src.length x.srstate else ([], x.srstate)
          let ws := tagWidth va.t
          let wd := tagWidth t
          let rs : List FRes := src.zipIdx.map (fun p =>
            let i := start + p.2
            let e := if i < 32 then bw.toNat % 512 else bw.toNat / 2 ^ 16 % 512
            convElem va.t t rm (draws[p.2]?.getD 0) (mod.getLsbD 3) e (elemVal va.t va.bw p.1 (elem va.data ws p.1)))
          let out := (List.range (512 / wd)).map (fun i =>
            if start ≤ i ∧ i < start + rs.length then (rs[i - start]?.getD { code := 0 }).code
            else if keep then elem vd.data wd i else 0)
          let st := if sr then st.setAct aid { st.act aid with srstate := srs } else st
          fixedRes st 3 [wV d.toNat { data := vecOf wd out, tag := BitVec.ofNat 5 t, bw := bw }]
            (rs.foldl (fun g r => g ||| r.flags) 0)) s

/-- VRETAG (R189). -/
def execVretag (d a b : BitVec 6) (imm : BitVec 16) (cl : Clauses) (s : State) : Host.Outcome State Fault Refusal :=
  run (.vretag d a b imm cl) cl {} noPre (fun _ _ x st =>
    let t := imm.toNat % 32
    let bw : BitVec 32 := if tagBlock t then (x.s b.toNat).setWidth 32 else 0
    if !tagKnown t then .trap (formatTrap t 3)
    else if !bwOk t bw then .trap (formatTrap t 4)
    else fixedRes st 2 [wV d.toNat { data := retagData t (x.v a.toNat).data, tag := BitVec.ofNat 5 t, bw := bw }]) s

/-! ## Bit planes, block scales, bounds -/

/-- RAW, I8, U8 and BPk: what VPLANE's get and put accept (R190). -/
def planeTag (t : Nat) : Bool := t ≤ 2 || tagBp t

/-- VPLANE (R190). -/
def execVplane (mod : BitVec 4) (d a b : BitVec 6) (imm : BitVec 16) (cl : Clauses) (s : State) :
    Host.Outcome State Fault Refusal :=
  run (.vplane mod d a b imm cl) cl {} noPre (fun _ _ x st =>
    let j := imm.toNat % 8
    if mod = 0 then
      let va := x.v a.toNat
      if !planeTag va.t then .trap (formatTrap va.t 0)
      else fixedRes st 4 [wS d.toNat (w64 (ofElems 1 ((List.range 64).map (fun i => elem va.data 1 (8 * i + j)))))]
    else if mod = 1 then
      let vd := x.v d.toNat
      if !planeTag vd.t ∨ (tagBp vd.t ∧ bpK vd.t ≤ j) then .trap (formatTrap vd.t 3)
      else
        let y := x.s a.toNat
        fixedRes st 4 [wV d.toNat { vd with data := vecOf 8 ((List.range 64).map (fun i =>
          let e := elem vd.data 8 i
          e - e / 2 ^ j % 2 * 2 ^ j + (if y.getLsbD i then 2 ^ j else 0))) }]
    else
      let va := x.v a.toNat
      let t := imm.toNat % 32
      let bw : BitVec 32 := (x.s b.toNat).setWidth 32
      if va.t ≠ 0 ∧ va.t ≠ 2 then .trap (formatTrap va.t 0)
      else if !tagBp t then .trap (formatTrap t 3)
      else if !bwOk t bw then .trap (formatTrap t 4)
      else fixedRes st 4 [wV d.toNat { data := vecOf 8 ((elems va.data 8 64).map (· / 2 ^ (8 - bpK t)))
                                       tag := BitVec.ofNat 5 t, bw := bw }]) s

/-- The magnitude's floor(log₂), for a finite non-zero value. -/
def floorLog2 (m : Nat) (e : Int) : Int := e + bitLen m - 1

/-- The block scale of one register (R191): emax is 8 for E4M3, 15 for E5M2. -/
def blockScale (emax : Int) (vs : List Val) : Nat :=
  if vs.any Val.isNan then 511
  else if vs.any Val.isInf then 510
  else
    let ls : List Int := vs.filterMap (fun v => match v with
      | .fin _ m e => if m = 0 then none else some (floorLog2 m e)
      | _ => none)
    match ls with
    | [] => 0
    | l :: r => (min 510 (max 0 (r.foldl max l - emax + 255))).toNat

/-- VQSCALE (R191). -/
def execVqscale (mod : BitVec 4) (d a c : BitVec 6) (cl : Clauses) (s : State) : Host.Outcome State Fault Refusal :=
  run (.vqscale mod d a c cl) cl {} noPre (fun _ _ x st =>
    let va := x.v a.toNat
    if !tagFloat va.t then .trap (formatTrap va.t 0)
    else
      let w := tagWidth va.t
      let mask := x.p (mod.toNat % 8)
      let vs := ((List.range (512 / w)).filter (active mask w)).map (fun i => (tagFmt va.t).decode (elem va.data w i))
      let e := blockScale (if mod.getLsbD 3 then 15 else 8) vs
      fixedRes st 4 [wS d.toNat (w64 (max e (bits (x.s c.toNat) 8 0)))]) s

/-- VBND (R192): the bound register's mode and sticky bit play no part. -/
def execVbnd (mod : BitVec 4) (d a b c : BitVec 6) (cl : Clauses) (s : State) : Host.Outcome State Fault Refusal :=
  run (.vbnd mod d a b c cl) cl {} noPre (fun _ _ x st =>
    let va := x.v a.toNat
    if !(tagFloat va.t || tagFp8 va.t) then .trap (formatTrap va.t 0)
    else
      let w := tagWidth va.t
      let mask := x.p c.toNat
      let bd := x.bound b.toNat
      let out (i : Nat) : Bool := active mask w i && boundOut bd ((tagFmt va.t).decode (elem va.data w i))
      if mod = 0 then fixedRes st 2 [wP d.toNat (maskOfElems w ((List.range (512 / w)).map out))]
      else fixedRes st 2 [wV d.toNat { va with data := vecOf w ((List.range (512 / w)).map (fun i =>
        if out i then boundClamp bd va.t ((tagFmt va.t).decode (elem va.data w i)) else elem va.data w i)) }]) s

end Sys2Proof.Machine
end

