-- ==== Sys2Proof/Machine/Pattern.lean ====
section
/-! DEFINITION. Computed sparsity: Hatch programs, the pattern generator and the tile cutter (R194..R202, 0x90..0x97,
R224..R230). Generator and cutter words act on their state at issue; their results are written when their tag clears. -/
namespace Sys2Proof.Machine

/-! ## Hatch programs (R194..R197) -/

/-- A snapshot of a pattern: program, parameters, extent of M rows by N columns (R200). -/
structure Pat where
  prog : List (BitVec 32)
  pp : Sparse (BitVec 32)
  m : Nat
  n : Nat
deriving DecidableEq, Repr

def Gen.rows (g : Gen) : Nat := g.extent.toNat % 2 ^ 24 + 1
def Gen.cols (g : Gen) : Nat := g.extent.toNat / 2 ^ 24 % 2 ^ 24 + 1
def Gen.pat (g : Gen) : Pat := { prog := g.prog, pp := g.pp, m := g.rows, n := g.cols }

/-- Fields of an instruction: op, and the slots x, y, z (R194). -/
def hOp (w : BitVec 32) : Nat := w.toNat / 2 ^ 28
def hX (w : BitVec 32) : Nat := w.toNat / 2 ^ 18 % 512
def hY (w : BitVec 32) : Nat := w.toNat / 2 ^ 9 % 512
def hZ (w : BitVec 32) : Nat := w.toNat % 512

/-- What a slot of a primitive is. -/
inductive SlotUse where
  | num | ref | none
deriving DecidableEq, Repr

/-- The slots of a primitive; none for END and the reserved codes (R194, R195). -/
def slotUses (op : Nat) : Option (SlotUse × SlotUse × SlotUse) :=
  match op with
  | 1 => some (.num, .num, .none)
  | 2 => some (.num, .ref, .none)
  | 3 => some (.num, .none, .none)
  | 4 => some (.ref, .ref, .num)
  | 5 => some (.num, .num, .none)
  | 6 => some (.num, .num, .num)
  | 7 => some (.ref, .ref, .none)
  | 8 => some (.ref, .ref, .none)
  | 9 => some (.num, .num, .ref)
  | 10 => some (.num, .num, .ref)
  | _ => none

/-- A slot that breaks reason 1: an unused one that is not zero, or a parameter with a reserved bit (R194, R199). -/
def slotBad (u : SlotUse) (s : Nat) : Bool :=
  match u with
  | .none => decide (s ≠ 0)
  | .num => decide (256 ≤ s) && decide (s / 8 % 32 ≠ 0)
  | .ref => false

/-- A reference that breaks reason 2. -/
def refBad (u : SlotUse) (s idx last : Nat) : Bool :=
  match u with
  | .ref => decide (256 ≤ s) || decide (s ≤ idx) || decide (last ≤ s)
  | _ => false

/-- The reason an instruction before END fails, if it does (R199). -/
def instrFault (w : BitVec 32) (idx last : Nat) : Option Nat :=
  match slotUses (hOp w) with
  | none => some 1
  | some (x, y, z) =>
    if w.getLsbD 27 || slotBad x (hX w) || slotBad y (hY w) || slotBad z (hZ w) then some 1
    else if refBad x (hX w) idx last || refBad y (hY w) idx last || refBad z (hZ w) idx last then some 2
    else none

/-- PATTERN's detail: reason and index (R199). -/
def patternTrap (reason idx : Nat) : Trap := mkTrap cPATTERN (reason * 256 + idx % 256)

/-- The first failing instruction before END. -/
def firstFault (last : Nat) : Nat → List (BitVec 32) → Option (Nat × Nat)
  | _, [] => none
  | idx, w :: ws =>
    if last ≤ idx then none
    else match instrFault w idx last with
      | some r => some (r, idx)
      | none => firstFault last (idx + 1) ws

/-- Validation of the instructions read, up to and including the first END or 32 of them (R199). -/
def hatchFault (ws : List (BitVec 32)) : Option Trap :=
  match ws.findIdx? (fun w => hOp w == 0) with
  | none => some (patternTrap 3 31)
  | some 0 => some (patternTrap 3 0)
  | some last =>
    match firstFault last 0 ws with
    | some (r, i) => some (patternTrap r i)
    | none => none

/-- A program without HASH before END (R197). -/
def invertible (ws : List (BitVec 32)) : Bool := (ws.takeWhile (fun w => hOp w != 0)).all (fun w => hOp w != 5)

/-- A numeric operand: the immediate, or the parameter, signed (R194). -/
def Pat.num (p : Pat) (s : Nat) : Int :=
  if 256 ≤ s then sextNat (sparseGet 0 p.pp (s % 8)).toNat 32 else sextNat s 8

/-- The same modulo 2^32. -/
def Pat.num32 (p : Pat) (s : Nat) : BitVec 32 := BitVec.ofInt 32 (p.num s)

/-! ## HASH and HASHP (R196) -/

def hj (n i t : Nat) (seed : BitVec 32) : Nat :=
  (mix (BitVec.ofNat 32 i * 0x9E3779B9 + BitVec.ofNat 32 t * 0x85EBCA6B + seed)).toNat % n

/-- The least g ≥ 2 with 2^g ≥ n. -/
def hatchG (n : Nat) : Nat := max 2 (if n ≤ 1 then 0 else Nat.log2 (n - 1) + 1)

def hashF (h r : Nat) (seed : BitVec 32) (b : Nat) : Nat :=
  (mix (BitVec.ofNat 32 b + seed + BitVec.ofNat 32 r * 0x9E3779B9)).toNat % 2 ^ h

/-- The four Feistel rounds from round r on. -/
def hashRounds (h : Nat) (seed : BitVec 32) : Nat → Nat → Nat → Nat → Nat
  | 0, _, a, b => a * 2 ^ h + b
  | k + 1, r, a, b => hashRounds h seed k (r + 1) b (a ^^^ hashF h r seed b)

def hashPerm (h : Nat) (seed : BitVec 32) (u : Nat) : Nat := hashRounds h seed 4 0 (u / 2 ^ h) (u % 2 ^ h)

/-- Cycle-walking; perm is a bijection on 2^(2h) values, so that many steps suffice. -/
def hashWalk (n h : Nat) (seed : BitVec 32) : Nat → Nat → Nat
  | 0, u => u
  | k + 1, u =>
    let y := hashPerm h seed u
    if n ≤ y then hashWalk n h seed k y else y

def walkOf (n : Nat) (seed : BitVec 32) (u : Nat) : Nat :=
  let h := (hatchG n + 1) / 2
  hashWalk n h seed (2 ^ (2 * h)) u

/-! ## Membership (R195) -/

/-- (i, j) belongs to a node in an extent of m by n. The program is acyclic: references go to later instructions. -/
def Pat.member (p : Pat) : Nat → Nat → Nat → Nat → Int → Int → Bool
  | 0, _, _, _, _, _ => false
  | fuel + 1, k, m, n, i, j =>
    if i < 0 ∨ j < 0 ∨ (m : Int) ≤ i ∨ (n : Int) ≤ j then false
    else
      let w := p.prog[k]?.getD 0
      let x := p.num (hX w)
      let y := p.num (hY w)
      let z := p.num (hZ w)
      match hOp w with
      | 1 => decide (y ≤ j - i) && decide (j - i ≤ y + x - 1)
      | 2 => decide ((j - i) % x = 0) && p.member fuel (hY w) m n i (i + (j - i) / x)
      | 3 => decide (i / x = j / x)
      | 4 =>
        p.member fuel (hX w) (cdiv m z.toNat) (cdiv n z.toNat) (i / z) (j / z)
          && p.member fuel (hY w) z.toNat z.toNat (i % z) (j % z)
      | 5 => (List.range x.toNat).any (fun t => decide (j = (hj n i.toNat t (p.num32 (hY w)) : Nat)))
      | 6 => (List.range x.toNat).any (fun t =>
          decide (j = (walkOf n (p.num32 (hZ w)) ((i + t * y) % n).toNat : Nat)))
      | 7 => p.member fuel (hX w) m n i j || p.member fuel (hY w) m n i j
      | 8 => p.member fuel (hX w) m n i j && p.member fuel (hY w) m n i j
      | 9 => p.member fuel (hZ w) m n (i - x) (j - y)
      | 10 => decide (x ≤ j) && decide (j < y) && p.member fuel (hZ w) m n i j
      | _ => false

/-- (i, j) is a member of the pattern: node 0 in the generator's extent. -/
def Pat.mem (p : Pat) (i j : Nat) : Bool := p.member 32 0 p.m p.n i j

/-- A node's numeric operand is outside its limits (R195). -/
def Pat.limitBad (p : Pat) (w : BitVec 32) : Bool :=
  match hOp w with
  | 1 => decide (p.num (hX w) < 1)
  | 2 => decide (p.num (hX w) < 1)
  | 3 => decide (p.num (hX w) < 1)
  | 4 => decide (p.num (hZ w) < 1)
  | 5 => decide (p.num (hX w) < 1) || decide (64 < p.num (hX w))
  | 6 => decide (p.num (hX w) < 1) || decide (64 < p.num (hX w))
  | _ => false

/-- PATTERN(4) when an enumeration starts (R199). -/
def Pat.limits (p : Pat) : Option Trap :=
  match (p.prog.takeWhile (fun w => hOp w != 0)).findIdx? p.limitBad with
  | some i => some (patternTrap 4 i)
  | none => none

/-! ## Enumeration (R200) -/

/-- The numbers from lo below hi. -/
def span (lo hi : Nat) : List Nat := (List.range (hi - lo)).map (lo + ·)

/-- The members of a line from a position on: a row's columns, or a column's rows. -/
def Pat.line (p : Pat) (col : Bool) (l pos : Nat) : List Nat :=
  if col then (span pos p.m).filter (fun i => p.mem i l) else (span pos p.n).filter (fun j => p.mem l j)

/-- The members with rows in [i0, i1) and columns in [j0, j1), in forward order. -/
def Pat.forward (p : Pat) (i0 i1 j0 j1 : Nat) : List (Nat × Nat) :=
  (span i0 (min i1 p.m)).flatMap (fun i => ((span j0 (min j1 p.n)).filter (fun j => p.mem i j)).map (i, ·))

/-- The same in transposed order. -/
def Pat.transposed (p : Pat) (i0 i1 j0 j1 : Nat) : List (Nat × Nat) :=
  (span j0 (min j1 p.n)).flatMap (fun j => ((span i0 (min i1 p.m)).filter (fun i => p.mem i j)).map (·, j))

/-- The next members, at most `need`, over `lines` lines from one on, each as (line, position). -/
def Pat.emit (p : Pat) (col : Bool) : Nat → Nat → Nat → Nat → List (Nat × Nat)
  | 0, _, _, _ => []
  | k + 1, l, pos, need =>
    let ms := ((p.line col l pos).take need).map (l, ·)
    if ms.length = need then ms else ms ++ p.emit col k (l + 1) 0 (need - ms.length)

/-! ## The generator's words -/

/-- PATTERN(6) in a visitor slot, and without a program where one is needed (R198, R199). -/
def genFault (x : Act) (needProg : Bool) : Option Trap :=
  if x.visitor || (needProg && !x.gen.loaded) then some (patternTrap 6 0) else none

/-- A word that only has results, on a tag of the generator and cutter. -/
def genRes (st : State) (c aid : Nat) (x : Act) (i : Instr) (cl : Clauses) (ws : List RegWrite) : Res :=
  opRes st (mkOp aid x i cl false false (ws.map (·.reg)) (.gen c ws))

/-- The results of a scalar destination; s0 discards the write. -/
def toS (d : BitVec 6) (v : Word64) : List RegWrite := if d = 0 then [] else [wS d.toNat v]

/-- PLOAD's read of instructions: up to the first END, at most n, each one range-checked; their addresses and words
(R224). -/
def hatchRead (st : State) (c : Nat) (x : Act) (quad : Bool) : Nat → Word64 → Except Trap (List (Nat × BitVec 32))
  | 0, _ => .ok []
  | n + 1, o =>
    match (if quad then x.qsCheck 0x90 o 4 4 else x.lmCheck 0x90 o 4 4) with
    | .error t => .error t
    | .ok p =>
      let w : BitVec 32 := BitVec.ofNat 32 (bytesToNat (if quad then st.qsRead x.quad p 4 else st.lmRead c p 4))
      if hOp w = 0 then .ok [(p, w)]
      else match hatchRead st c x quad n (o + 4) with
        | .error t => .error t
        | .ok l => .ok ((p, w) :: l)

/-- The poison of what PLOAD read. -/
def hatchPoison (st : State) (c : Nat) (x : Act) (quad : Bool) (ps : List Nat) : Option Poison :=
  ps.findSome? (fun p => if quad then st.qsPoisonOf x.quad p 4 else st.lmPoisonOf c p 4)

/-- A unit reads uncorrectable data before its word issues: the line is recorded and UNCORR raised (R215, R332). -/
def uncorrRes (st : State) (aid : Nat) (x : Act) (q : Poison) (restorable : Bool) : Res :=
  .hold ((st.noteUncorr x.gang q restorable).raise aid { cause := cUNCORR, detail := q.detail, addr := q.addr })

/-- The poison of a 64-byte descriptor or record in local memory. -/
def blockPoison (st : State) (c : Nat) (x : Act) (o : Word64) : Option Poison :=
  match x.lmCheck 0 o 64 64 with
  | .ok p => st.lmPoisonOf c p 64
  | .error _ => none

/-- A word whose descriptor or record carries poison raises UNCORR, recorded as the core's read of it; any other word goes
on (R332). -/
def cleanBlock (st : State) (c aid : Nat) (x : Act) (o : Word64) (r : Res) : Res :=
  match blockPoison st c x o with
  | some q => uncorrRes st aid x q (st.lmLogged x.gang c q.addr.toNat)
  | none => r

/-- PLOAD (R224). It reads once the earlier stores that can reach its 128 bytes are done. -/
def execPload (mod : BitVec 4) (a : BitVec 6) (cl : Clauses) (s : State) : Host.Outcome State Fault Refusal :=
  run (.pload mod a cl) cl {} noPre (fun c aid x st =>
    let quad := mod == 1
    match genFault x false with
    | some t => .trap t
    | none =>
      match hatchRead st c x quad 1 (x.s a.toNat) with
      | .error t => .trap t
      | .ok h =>
      if (if quad then st.qsBusy aid else st.lmBusy c ((h.map (·.1)).headD 0) 128 false) = true then .hold (st.idle c)
      else match hatchRead st c x quad 32 (x.s a.toNat) with
      | .error t => .trap t
      | .ok l =>
        match hatchPoison st c x quad (l.map (·.1)) with
          | some q => uncorrRes st aid x q (quad && st.qsLogged x.gang x.quad q.addr.toNat
              || !quad && st.lmLogged x.gang c q.addr.toNat)
          | none =>
            let ws := l.map (·.2)
            match hatchFault ws with
            | some t => .trap t
            | none =>
              let y := st.act aid
              let st := st.setAct aid { y with
                gen := { y.gen with loaded := true, inv := invertible ws, prog := ws, cursor := 0 }
                cut := { y.cut with isSet := false } }
              genRes st c aid x (.pload mod a cl) cl []) s

/-- PSET (R225). -/
def execPset (a : BitVec 6) (imm : BitVec 16) (cl : Clauses) (s : State) : Host.Outcome State Fault Refusal :=
  run (.pset a imm cl) cl {} noPre (fun _ aid x st =>
    match genFault x false with
    | some t => .trap t
    | none =>
      let n := imm.toNat % 16
      let v := x.s a.toNat
      let y := st.act aid
      if n = 8 then
        if bits v 63 48 ≠ 0 then .trap (patternTrap 7 0)
        else effectRes (st.setAct aid { y with
          gen := { y.gen with extent := v.setWidth 48, cursor := 0 }, cut := { y.cut with isSet := false } })
      else effectRes (st.setAct aid { y with
        gen := { y.gen with pp := sparseSet 0 y.gen.pp n (v.setWidth 32), cursor := 0 } })) s

/-- PGET (R225). -/
def execPget (d : BitVec 6) (imm : BitVec 16) (cl : Clauses) (s : State) : Host.Outcome State Fault Refusal :=
  run (.pget d imm cl) cl {} noPre (fun _ _ x st =>
    match genFault x false with
    | some t => .trap t
    | none =>
      let n := imm.toNat % 16
      fixedRes st 1 [wS d.toNat (if n = 8 then x.gen.extent.setWidth 64 else (sparseGet 0 x.gen.pp n).setWidth 64)]) s

/-- PCOUNT (R226). -/
def execPcount (d a b : BitVec 6) (cl : Clauses) (s : State) : Host.Outcome State Fault Refusal :=
  run (.pcount d a b cl) cl {} noPre (fun c aid x st =>
    let ra := x.s a.toNat
    let rb := x.s b.toNat
    match genFault x true with
    | some t => .trap t
    | none =>
      if bits ra 63 48 ≠ 0 ∨ bits rb 63 48 ≠ 0 then .trap (patternTrap 7 0)
      else match x.gen.pat.limits with
        | some t => .trap t
        | none =>
          let n := (x.gen.pat.forward (bits ra 23 0) (bits ra 47 24) (bits rb 23 0) (bits rb 47 24)).length
          genRes st c aid x (.pcount d a b cl) cl (toS d (w64 n))) s

/-- The cursor's fields (R227). -/
def mkCursor (order left line pos : Nat) : Word64 :=
  w64 (order % 4 * 2 ^ 62 + left % 2 ^ 14 * 2 ^ 48 + line % 2 ^ 24 * 2 ^ 24 + pos % 2 ^ 24)

/-- An emission from a cursor: the members as (line, position), and the cursor after it. -/
def Pat.step (p : Pat) (order lines line pos : Nat) : List (Nat × Nat) × Word64 :=
  let col := decide (order = 2)
  let width := if col then p.m else p.n
  let ms := p.emit col lines line pos 16
  match ms.getLast? with
  | none => (ms, 0)
  | some (l, q) =>
    -- past the last member: the next position, or the start of the next line
    let (l', q') := if q + 1 < width then (l, q + 1) else (l + 1, 0)
    let left := line + lines - l'
    if (p.emit col left l' q' 1).isEmpty then (ms, 0) else (ms, mkCursor order (left - 1) l' q')

/-- Sixteen I32 elements, all ones past the last. -/
def emitVec (l : List Nat) : VReg :=
  { data := vecOf 32 ((List.range 16).map (fun i => l[i]?.getD 0xFFFFFFFF)), tag := 4 }

/-- PGEN (R227). -/
def execPgen (mod : BitVec 4) (d a : BitVec 6) (cl : Clauses) (s : State) : Host.Outcome State Fault Refusal :=
  run (.pgen mod d a cl) cl {} noPre (fun c aid x st =>
    let v := x.s a.toNat
    match genFault x true with
    | some t => .trap t
    | none =>
      if mod ≠ 2 ∧ bits v 63 38 ≠ 0 then .trap (patternTrap 7 0)
      else if mod = 1 ∧ x.gen.inv = false then .trap (patternTrap 5 0)
      else match (if mod = 2 then none else x.gen.pat.limits) with
        | some t => .trap t
        | none =>
          let cur := x.gen.cursor
          let order := if mod = 2 then bits cur 63 62 else mod.toNat + 1
          let (ms, cur') :=
            if order = 0 then ([], 0)
            else if mod = 2 then x.gen.pat.step order (bits cur 61 48 + 1) (bits cur 47 24) (bits cur 23 0)
            else x.gen.pat.step order (bits v 37 24 + 1) (bits v 23 0) 0
          let y := st.act aid
          let st := st.setAct aid { y with gen := { y.gen with cursor := cur' } }
          let ls := ms.map (·.1)
          let qs := ms.map (·.2)
          genRes st c aid x (.pgen mod d a cl) cl
            [wV d.toNat (emitVec (if order = 2 then qs else ls)), wV (d.toNat + 1) (emitVec (if order = 2 then ls else qs))])
    s

/-- PINV (R228). -/
def execPinv (mod : BitVec 4) (d a b : BitVec 6) (cl : Clauses) (s : State) : Host.Outcome State Fault Refusal :=
  run (.pinv mod d a b cl) cl {} noPre (fun c aid x st =>
    let p := x.gen.pat
    let i := (x.s a.toNat).toNat
    let j := (x.s b.toNat).toNat
    match genFault x true with
    | some t => .trap t
    | none =>
      match p.limits with
      | some t => .trap t
      | none =>
        if !(decide (i < p.m) && decide (j < p.n) && p.mem i j) then
          genRes st c aid x (.pinv mod d a b cl) cl (toS d (BitVec.allOnes 64))
        else if mod = 1 ∧ x.gen.inv = false then .trap (patternTrap 5 0)
        else
          let n := if mod = 0 then ((List.range j).filter (fun k => p.mem i k)).length
            else ((List.range i).filter (fun k => p.mem k j)).length
          genRes st c aid x (.pinv mod d a b cl) cl (toS d (w64 n))) s

/-! ## The cutter (R201, R202) -/

/-- Fields of a cut descriptor. -/
def Cut.row0 (c : Cut) : Nat := bits c.desc 23 0
def Cut.budget (c : Cut) : Nat := bits c.desc 47 36
def Cut.spanLimit (c : Cut) : Nat := bits c.desc 55 48 + 1

def cutterTrap (reason : Nat) : Trap := mkTrap cCUTTER reason

/-- A descriptor that breaks R201's table. -/
def cutDescBad (d : Word64) (m : Nat) : Bool :=
  decide (bits d 63 56 ≠ 0) || decide (bits d 35 24 ≠ 0) || decide (bits d 47 36 < 64) || decide (2048 < bits d 47 36)
    || decide (bits d 23 0 % 64 ≠ 0) || decide (m ≤ bits d 23 0)

/-- CUTSET (R229); it reads M, so it needs a loaded program (R199, R225). -/
def execCutset (a b : BitVec 6) (cl : Clauses) (s : State) : Host.Outcome State Fault Refusal :=
  run (.cutset a b cl) cl {} noPre (fun _ aid x st =>
    match genFault x true with
    | some t => .trap t
    | none =>
      let d := x.s a.toNat
      if cutDescBad d x.gen.rows then .trap (cutterTrap 1)
      else effectRes (st.setAct aid { st.act aid with
        cut := { desc := d, kcur := 0, vcur := x.s b.toNat, isSet := true } })) s

/-- cnt(k) of R202. -/
def Pat.cnt (p : Pat) (row0 k : Nat) : Nat :=
  ((span row0 (min (row0 + 64) p.m)).filter (fun i => p.mem i k)).length

/-- A gap at k. -/
def Pat.gap (p : Pat) (row0 k : Nat) : Bool := (span k (min (k + 16) p.n)).all (fun c => p.cnt row0 c == 0)

/-- The first column at or after k, below N, that is not empty; N if there is none. -/
def Pat.nextCol (p : Pat) (row0 k : Nat) : Nat :=
  ((span k p.n).find? (fun c => p.cnt row0 c != 0)).getD (max k p.n)

/-- Columns taken from ke on: at most `left` more. -/
def Pat.takeCols (p : Pat) (row0 budget kb : Nat) : Nat → Nat → Nat → Nat × Nat
  | 0, ke, nnz => (ke, nnz)
  | left + 1, ke, nnz =>
    if ke < p.n ∧ nnz + p.cnt row0 ke ≤ budget ∧ ¬(kb < ke ∧ p.gap row0 ke = true) then
      p.takeCols row0 budget kb left (ke + 1) (nnz + p.cnt row0 ke)
    else (ke, nnz)

/-- Trailing empty columns trimmed. -/
def Pat.trim (p : Pat) (row0 kb : Nat) : Nat → Nat → Nat
  | 0, ke => ke
  | k + 1, ke => if kb < ke ∧ p.cnt row0 (ke - 1) = 0 then p.trim row0 kb k (ke - 1) else ke

/-- A cut (R202): kb, ke, nnz, skipped, end. -/
def Pat.cut (p : Pat) (c : Cut) : Nat × Nat × Nat × Bool × Bool :=
  let r := c.row0
  let kb := p.nextCol r c.kcur
  let (ke, nnz) := p.takeCols r c.budget kb c.spanLimit kb 0
  let ke := p.trim r kb (ke - kb) ke
  (kb, ke, nnz, decide (c.kcur < kb), (span ke p.n).all (fun k => p.cnt r k == 0))

/-- CUT (R230): the state advances at issue. A column of 2^24 does not fit its field, which holds it modulo 2^24 (log 50). -/
def execCut (mod : BitVec 4) (d : BitVec 6) (imm : BitVec 16) (cl : Clauses) (s : State) :
    Host.Outcome State Fault Refusal :=
  run (.cut mod d imm cl) cl {} noPre (fun c aid x st =>
    match genFault x true with
    | some t => .trap t
    | none =>
      if x.cut.isSet = false then .trap (cutterTrap 2)
      else match x.gen.pat.limits with
        | some t => .trap t
        | none =>
          let (kb, ke, nnz, skipped, fin) := x.gen.pat.cut x.cut
          let y := st.act aid
          let st := st.setAct aid { y with cut := { y.cut with kcur := ke, vcur := y.cut.vcur + w64 nnz } }
          genRes st c aid x (.cut mod d imm cl) cl
            [wS d.toNat (w64 (nnz % 2 ^ 12 * 2 ^ 48 + ke % 2 ^ 24 * 2 ^ 24 + kb % 2 ^ 24))
             , wS (d.toNat + 1) (w64 (x.cut.row0 * 2 ^ 40 + x.cut.vcur.toNat % 2 ^ 40))
             , wP (mod.toNat % 8) (maskOf skipped), wP (imm.toNat % 8) (maskOf fin)]) s

end Sys2Proof.Machine
end

