-- ==== Sys2Proof/Machine/Matrix.lean ====
section
/-! DEFINITION. The matrix unit: operand formats and fetch, products, moves and tile arithmetic (0x80..0x8F, 0x99..0x9F,
R207..R223, R232, R69..R71). A word enters the unit's queue at issue with what it captured; the unit performs words in
the order in which they issued (`matPerform`). -/
namespace Sys2Proof.Machine

/-! ## Tiles (R51) -/

/-- A tile from its elements. -/
def tileOf (i32 : Bool) (f : Nat → Nat → BitVec 32) : Tile :=
  { i32 := i32
    elems := (List.range 4096).filterMap (fun p => let v := f (p / 64) (p % 64); if v = 0 then none else some (p, v)) }

def Tile.get (t : Tile) (i j : Nat) : BitVec 32 := sparseGet 0 t.elems (64 * i + j)

def State.tile (s : State) (c n : Nat) : Tile := (tableGet? (s.core c).tiles n).getD {}
def State.setTile (s : State) (c n : Nat) (t : Tile) : State :=
  s.setCore c { s.core c with tiles := tableSet (s.core c).tiles n t }
/-- A tile is written whole: no line of it holds poison any more (R334; log 46). -/
def State.newTile (s : State) (c n : Nat) (t : Tile) : State :=
  let s := s.setTile c n t
  s.setCore c { s.core c with tilePoison := (s.core c).tilePoison.filter (fun x => x.1 / 256 != n) }
/-- The poison that a read of whole tiles meets: the first poisoned line of them (R296, R334). -/
def State.tilePoisonOf (s : State) (c : Nat) (ns : List Nat) : Option Poison :=
  ((s.core c).tilePoison.find? (fun x => ns.contains (x.1 / 256))).map (fun x =>
    { detail := uncorrDetail 3 3 0, addr := w64 (64 * x.1) })
/-- Changing a tile's format tag, at the issue of the word that sets it (R208). -/
def State.tagTile (s : State) (c n : Nat) (i32 : Bool) : State := s.setTile c n { s.tile c n with i32 := i32 }

/-- The physical tile that mN names. -/
def Act.tile (x : Act) (n : BitVec 6) : Nat := x.tiles[n.toNat]?.getD 0

/-- A field that names a tile beyond the activity's own: ILLOP with the position of the lowest such field (R51, R108). -/
def tileFault (x : Act) (i : Instr) : Option Nat :=
  match layout i, toFields i with
  | some l, some f =>
    let t := if x.visitor then 0 else x.tiles.length
    if l.b = .m ∧ t ≤ f.b.toNat then some 54
    else if l.a = .m ∧ t ≤ f.a.toNat then some 60
    else if l.d = .m ∧ t ≤ f.d.toNat then some 66
    else none
  | _, _ => none

/-- The check as an encoding check of a word. -/
def tilePre (i : Instr) (x : Act) (_ : State) : Option Trap := (tileFault x i).map (mkTrap cILLOP ·)

/-- Every word of the chapter that names no tile raises PATTERN(6) in a visitor slot (R207). -/
def homeFault (x : Act) : Option Trap := if x.visitor then some (patternTrap 6 0) else none

/-- The format tag of a tile as a register's tag. -/
def tileTag (i32 : Bool) : Nat := if i32 then 4 else 6

/-! ## The matrix registers (R207) -/

def Act.mr (x : Act) : Nat := bits x.msh 5 0 + 1
def Act.nc (x : Act) : Nat := bits x.msh 13 8 + 1
def Act.kLen (x : Act) : Nat := bits x.msh 27 20 + 1
def Act.fa (x : Act) : Nat := bits x.mfm 4 0
def Act.fb (x : Act) : Nat := bits x.mfm 12 8
def Act.aax (x : Act) : Nat := bits x.mfm 39 16
def Act.apx (x : Act) : Nat := bits x.mfm 63 40
def Act.msbValid (x : Act) : Bool := x.msb.getLsbD 4
def Act.msbRing (x : Act) : Nat := bits x.msb 3 0
def Act.msbStage (x : Act) : Nat := bits x.msb 15 8
def Act.msbGen (x : Act) : Nat := bits x.msb 31 16
def Act.msbFill (x : Act) : Nat := bits x.msb 63 32

/-- A ring, channel or event line the activity's gang was not granted (R45, R244). -/
def Act.granted (x : Act) (n : Nat) : Bool := x.rings.getLsbD n

/-- The rows of a stage under fb (R211). -/
def stageRows (r : Ring) (fb : Nat) : Nat :=
  let sz := r.stageBytes
  let wb := tagWidth fb / 8
  if tagScaled fb then ((List.range (sz / 64 + 1)).filter (fun n => 64 * n + 128 * cdiv n 32 ≤ sz)).getLastD 0
  else sz / (64 * wb)

/-- The checks of the bound stage (R212). -/
def stageFault (s : State) (x : Act) : Option Trap :=
  let r := s.ring x.quad x.msbRing
  if !x.msbValid then some (mkTrap cSTAGE 4)
  else if (sparseGet 0 r.gen x.msbStage).toNat ≠ x.msbGen then some (mkTrap cSTAGE 2)
  else if 2 ^ 31 ≤ sub32 x.msbFill r.e.toNat then some (mkTrap cSTAGE 3)
  else none

/-! ## Formats (R210) -/

def isF16 (t : Nat) : Bool := t = 7 || t = 8
def isFp8 (t : Nat) : Bool := tagFp8 t || tagScaled t
def isByte (t : Nat) : Bool := t = 1 || t = 2

/-- The tile tag of an accepted pair: true for I32. -/
def pairTag (fa fb : Nat) : Option Bool :=
  if isF16 fa && fa == fb then some false
  else if isFp8 fa && isFp8 fb then some false
  else if tagBp fa && (isByte fb || isFp8 fb) then some false
  else if isByte fa && isByte fb then some true
  else none

/-- The formats MMAT accepts. -/
def plainFmt (t : Nat) : Bool := isF16 t || tagFp8 t || isByte t

/-- FORMAT of a product on a tile with tag `i32`; `dense` adds the shape, `plain` MMAT's restriction. -/
def productFormat (x : Act) (i32 dense plain : Bool) : Option Trap :=
  let fa := x.fa
  let fb := x.fb
  if plain && !plainFmt fa then some (formatTrap fa 0)
  else if plain && !plainFmt fb then some (formatTrap fb 1)
  else match pairTag fa fb with
    | none => some (if isF16 fa || isFp8 fa || tagBp fa || isByte fa then formatTrap fb 1 else formatTrap fa 0)
    | some t =>
      if t ≠ i32 then some (formatTrap (tileTag i32) 3)
      else if dense ∧ x.kLen % (if tagBp fa then 64 else 32) ≠ 0 then some (formatTrap fa 0)
      else none

/-! ## Operand fetch (R209, R211) -/

/-- An operand's source: local memory or scratchpad, base, format, first element, count; where its scales or headers
stand, and the byte distance of its planes. `rows` is the rows read of a B that stands in a stage by rows, whose scales go
by column. -/
structure Opnd where
  quad : Bool
  base : Word64
  fmt : Nat
  first : Nat
  count : Nat
  side : Nat
  planes : Nat := 0
  rows : Option Nat := none
deriving DecidableEq, Repr

/-- The byte ranges the fetch reads: elements or planes, then scales or headers, in address order of each. -/
def Opnd.ranges (o : Opnd) : List (Nat × Nat) :=
  let base := o.base.toNat
  if o.count = 0 then []
  else if tagBp o.fmt then
    (List.range (bpK o.fmt)).map (fun j => (base + j * o.planes + o.first / 8, (o.first + o.count - 1) / 8 - o.first / 8 + 1))
      ++ [(o.side + o.first / 64 * 4, ((o.first + o.count - 1) / 64 - o.first / 64 + 1) * 4)]
  else
    let w := tagWidth o.fmt / 8
    (base + o.first * w, o.count * w) ::
      (if tagScaled o.fmt then
        (match o.rows with
          | some r => [(o.side, 128 * cdiv r 32)]
          | none => [(o.side + o.first / 32 * 2, ((o.first + o.count - 1) / 32 - o.first / 32 + 1) * 2)])
      else [])

/-- The address of element i's scale or header. -/
def Opnd.sideAt (o : Opnd) (i : Nat) : Nat :=
  if tagBp o.fmt then o.side + i / 64 * 4
  else match o.rows with
    | some r => o.side + 2 * (i % 64 * cdiv r 32 + i / 64 / 32)
    | none => o.side + i / 32 * 2

/-- Bytes of a space as the executing core sees it. -/
def State.spaceRead (s : State) (x : Act) (c : Nat) (quad : Bool) (a n : Nat) : List Byte :=
  if quad then s.qsRead x.quad a n else s.lmRead c a n

/-- The code of element i: a number of the format's width, or k plane bits (R63, R211). -/
def Opnd.code (o : Opnd) (s : State) (x : Act) (c i : Nat) : Nat :=
  let base := o.base.toNat
  if tagBp o.fmt then
    (List.range (bpK o.fmt)).foldl (fun acc j =>
      let b := (s.spaceRead x c o.quad (base + j * o.planes + i / 8) 1).headD 0
      acc * 2 + b.toNat / 2 ^ (i % 8) % 2) 0
  else
    let w := tagWidth o.fmt / 8
    bytesToNat (s.spaceRead x c o.quad (base + i * w) w)

/-- The scale or header of element i; 255 for a format without one. -/
def Opnd.sideVal (o : Opnd) (s : State) (x : Act) (c i : Nat) : Nat :=
  if tagBp o.fmt then bytesToNat (s.spaceRead x c o.quad (o.sideAt i) 4)
  else if tagScaled o.fmt then bytesToNat (s.spaceRead x c o.quad (o.sideAt i) 2)
  else 255

/-- A scale or header with a reserved bit (R62, R63). -/
def Opnd.sideBad (o : Opnd) (v : Nat) : Bool :=
  if tagBp o.fmt then decide (2 ^ 17 ≤ v) else if tagScaled o.fmt then decide (512 ≤ v) else false

/-- The addresses of the scales or headers read, each once, in address order. -/
def Opnd.sides (o : Opnd) : List Nat :=
  if o.count = 0 ∨ ¬(tagBp o.fmt = true ∨ tagScaled o.fmt = true) then []
  else
    let w := if tagBp o.fmt then 4 else 2
    match o.ranges.getLast? with
    | some (a, n) => (List.range (n / w)).map (fun i => a + i * w)
    | none => []

/-- The first range that leaves the activity's allocation. -/
def Opnd.outside (o : Opnd) (x : Act) : Option Nat :=
  (o.ranges.find? (fun r => if o.quad then !x.qsOk r.1 r.2 else (x.lmAddr r.1 r.2).isNone)).map (·.1)

/-- The first scale or header with a reserved bit. -/
def Opnd.badSide (o : Opnd) (s : State) (x : Act) (c : Nat) : Option Nat :=
  let w := if tagBp o.fmt then 4 else 2
  o.sides.find? (fun a => o.sideBad (bytesToNat (s.spaceRead x c o.quad a w)))

/-- The first poison that the fetch meets. -/
def Opnd.poison (o : Opnd) (s : State) (x : Act) (c : Nat) : Option Poison :=
  o.ranges.findSome? (fun r => if o.quad then s.qsPoisonOf x.quad r.1 r.2 else s.lmPoisonOf c r.1 r.2)

/-- The fetch must wait for an earlier access that is outstanding (R209). -/
def Opnd.busy (o : Opnd) (s : State) (aid c : Nat) : Bool :=
  if o.quad then s.qsBusy aid else o.ranges.any (fun r => s.lmBusy c r.1 r.2 false)

/-- The elements fetched, each with its scale or header. -/
def Opnd.elems (o : Opnd) (s : State) (x : Act) (c : Nat) : List (Nat × Nat) :=
  (List.range o.count).map (fun i => (o.code s x c (o.first + i), o.sideVal s x c (o.first + i)))

/-! ## Sums (R69..R71) -/

/-- An operand element: its value without its block scale, NaN for E = 511, and its scale exponent (R69 step 3). -/
def opVal (t : Nat) (e : Nat × Nat) : Val × Nat :=
  if tagInt t then (Val.ofInt (intVal t e.1), 255)
  else if tagScaled t then (if e.2 % 512 = 511 then .nan else (tagFmt t).decode e.1, e.2 % 512)
  else if tagBp t then
    let k := bpK t
    let ex := e.2 % 512
    (if ex = 511 then .nan else (Val.ofInt ((e.1 : Int) - (e.2 / 2 ^ 9 % 256 / 2 ^ (8 - k) : Nat))).scale (8 - k : Nat), ex)
  else ((tagFmt t).decode e.1, 255)

/-- The chunks of a list of products with their scale exponents: at most 32 products, one exponent per operand. -/
def chunks : List (Val × Nat × Nat) → List (List Val × Nat × Nat)
  | [] => []
  | (v, ea, eb) :: r => chunks.go ea eb [v] r
where
  /-- Extending the chunk in `acc`, newest first. -/
  go (ea eb : Nat) (acc : List Val) : List (Val × Nat × Nat) → List (List Val × Nat × Nat)
    | [] => [(acc.reverse, ea, eb)]
    | (v, ea', eb') :: r =>
      if acc.length < 32 ∧ ea' = ea ∧ eb' = eb then go ea eb (v :: acc) r
      else (acc.reverse, ea, eb) :: go ea' eb' [v] r

/-- A chunk's value in FP32 (R69 step 4). -/
def chunkValue (ch : List Val × Nat × Nat) : Nat :=
  toFp32 ((chunkSum ch.1).scale ((ch.2.1 : Int) + ch.2.2 - 510))

/-- An FP32 output element: each chunk, rounded, is added with RNE (R69 step 5). -/
def fpElem (c : Nat) (ts : List (Val × Nat × Nat)) : Nat := (chunks ts).foldl (fun acc ch => addFp32 acc (chunkValue ch)) c

/-- The terms of an output element. -/
def termsOf (fa fb : Nat) (a b : List (Nat × Nat)) (ts : List (Nat × Nat)) (j : Nat) : List (Val × Nat × Nat) :=
  ts.map (fun t =>
    let x := opVal fa (a[t.1]?.getD (0, 255))
    let y := opVal fb (b[t.2 * 64 + j]?.getD (0, 255))
    ((x.1.mul y.1).1, x.2, y.2))

/-- An I32 output element: exact products and sums modulo 2^32 (R71). -/
def intElem (fa fb : Nat) (a b : List (Nat × Nat)) (ts : List (Nat × Nat)) (j : Nat) (c : BitVec 32) : BitVec 32 :=
  let s := ts.foldl (fun (acc : Int) t =>
    acc + intVal fa (a[t.1]?.getD (0, 0)).1 * intVal fb (b[t.2 * 64 + j]?.getD (0, 0)).1) 0
  c + BitVec.ofInt 32 s

/-- A product's new tile: only the rows and columns written change (R213, R214). -/
def productTile (t : Tile) (cols fa fb : Nat) (i32 : Bool) (a b : List (Nat × Nat)) (rows : List (Nat × List (Nat × Nat))) :
    Tile :=
  tileOf t.i32 (fun i j =>
    let old := t.get i j
    if cols ≤ j then old
    else match rows.find? (fun r => r.1 == i) with
      | none => old
      | some (_, ts) =>
        if i32 then intElem fa fb a b ts j old
        else BitVec.ofNat 32 (fpElem old.toNat (termsOf fa fb a b ts j)))

/-! ## The unit's queue (R208) -/

/-- The register tag of a move's format. -/
def moveTag (fmt : Nat) : Nat :=
  match fmt with
  | 0 => 6 | 1 => 4 | 2 => 7 | 3 => 8 | 4 => 1 | _ => 2

/-- A stored element: its code in the stored format (R217). -/
def storeElem (fmt : Nat) (v : BitVec 32) : Nat :=
  match fmt with
  | 2 => (fp16.round .ieee 0 0 (fp32.decode v.toNat)).code
  | 3 => (bf16.round .ieee 0 0 (fp32.decode v.toNat)).code
  | 4 => intBits 8 (clampInt 1 (sextNat v.toNat 32))
  | _ => v.toNat

/-- An MSTA or MSTQ at write-back: the rows' codes, and how many are out of range (R54, R217). -/
def storeRows (b : BoundReg) (bounded : Bool) (t : Tile) (fmt rows cols : Nat) : List (List Nat) × Nat :=
  let tag := moveTag fmt
  let codes := (List.range rows).map (fun i => (List.range cols).map (fun j => storeElem fmt (t.get i j)))
  if bounded && b.mode != 0 then
    let out (x : Nat) : Bool := boundOut b ((tagFmt tag).decode x)
    (codes.map (fun r => r.map (fun x =>
        if out x && b.mode == 2 then boundClamp b tag ((tagFmt tag).decode x) else x)),
      (codes.map (fun r => (r.filter out).length)).foldl (· + ·) 0)
  else (codes, 0)

/-- The tiles whose elements a word reads. -/
def MatWord.reads (w : MatWord) : List Nat :=
  match w with
  | .product d _ _ _ _ _ _ _ => [d]
  | .store a _ _ _ _ _ => [a]
  | .vFromRow _ a _ _ _ => [a]
  | .saveTile a _ _ _ => [a]
  | .addT _ a b _ _ => [a, b]
  | .scale _ a _ _ _ => [a]
  | .bias _ a _ _ _ => [a]
  | .clamp _ a _ _ _ => [a]
  | .transpose _ a => [a]
  | .reduce _ a _ _ _ => [a]
  | .dot _ a b _ _ => [a, b]
  | .zero _ | .load _ _ _ _ | .rowFromV _ _ _ _ | .restTile _ _ | .restDev _ _ => []

/-- The poison that a word would read, were it performed now: a line of a tile, or of local memory; and whether the line is
logged in the current epoch (R155, R332, R334). -/
def State.matPoison (s : State) (g c : Nat) (w : MatWord) : Option (Poison × Bool) :=
  let own (q : Poison) : Poison × Bool := (q, s.lmLogged g c q.addr.toNat)
  match s.tilePoisonOf c w.reads with
  | some q => some (q, true)
  | none =>
    match w with
    | .load _ fmt offs cols => (offs.findSome? (fun p => s.lmPoisonOf c p (cols * tileWidth fmt))).map own
    | .bias _ _ off _ _ => (s.lmPoisonOf c off 256).map own
    | _ => none

/-- A bound register in trap mode that a word names, by number (R54). -/
def MatWord.trapBound (w : MatWord) : Option Nat :=
  match w with
  | .store _ _ _ _ _ (some (n, b)) => if b.mode = 3 then some n else none
  | _ => none

/-- The bound check of a word under a bound register in trap mode, on the tile as it stands: nothing is stored (R54, R217). -/
def State.matBound (s : State) (c : Nat) (w : MatWord) : Option Trap :=
  match w with
  | .store a fmt _ offs cols (some (n, b)) =>
    if b.mode = 3 ∧ (storeRows b true (s.tile c a) fmt offs.length cols).2 ≠ 0 then some (mkTrap cBOUND n) else none
  | _ => none

/-- Entering the unit's queue, the tag of the tile that the word sets changed (R208). What the word would read is judged before
it issues, once the unit has finished every earlier word: poison raises UNCORR, and a bound register in trap mode BOUND
(R54, R98; log 8). -/
def matRes (st : State) (c aid : Nat) (x : Act) (i : Instr) (cl : Clauses) (mem : Bool) (dsts : List RegName)
    (w : MatWord) (tag : Option (Nat × Bool) := none) : Res :=
  let idle := (st.core c).mqueue.isEmpty
  match st.matPoison x.gang c w with
  | some (q, logged) => if idle then uncorrRes st aid x q logged else .hold (st.idle c)
  | none =>
    if w.trapBound.isSome && !idle then .hold (st.idle c)
    else match st.matBound c w with
      | some t => .trap t
      | none =>
        let st := match tag with | some (d, i32) => st.tagTile c d i32 | none => st
        let (n, st) := st.addOp (mkOp aid x i cl false mem dsts (.matrix c w))
        .go { st := st.setCore c { st.core c with mqueue := (st.core c).mqueue ++ [n] }, op := some n }

/-- The unit's queue holds a product. -/
def OpKind.isProduct : OpKind → Bool
  | .matrix _ (.product _ _ _ _ _ _ _ _) => true
  | _ => false

/-- Both operand buffer pairs are in use (R209). -/
def State.pairsBusy (s : State) (c : Nat) : Bool :=
  decide (2 ≤ ((s.core c).mqueue.filter (fun n => match s.op? n with | some o => o.kind.isProduct | none => false)).length)

/-- An earlier access of the activity is outstanding off-core. -/
def State.farBusy (s : State) (aid : Nat) : Bool :=
  s.ops.any (fun x => x.2.act == aid && x.2.memWord && x.2.offCore)
    || s.reqs.any (fun x => x.2.act == aid && x.2.accepted && x.2.performed == none)

/-- The last two steps of R215 and the issue of a product, whose fetch comes after every earlier access of the activity (R209): alignment, range, reserved bits, poison; then the operands are
captured. `bIdx` gives the place of B's element (k, j) among those fetched. -/
def fetchRes (st : State) (c aid : Nat) (x : Act) (i : Instr) (cl : Clauses) (a b : Opnd) (bRows : Nat)
    (bIdx : Nat → Nat → Nat) (d : Nat) (i32 : Bool) (rows : List (Nat × List (Nat × Nat))) : Res :=
  let op := opcodeOf i
  if a.base.toNat % 64 ≠ 0 then .trap (mkTrap cMISALIGN op a.base)
  else if b.base.toNat % 64 ≠ 0 then .trap (mkTrap cMISALIGN op b.base)
  else match a.outside x with
  | some o => .trap (mkTrap cCAPBOUND ((if a.quad then 2 else 1) + op * 256) (w64 o))
  | none =>
  match b.outside x with
  | some o => .trap (mkTrap cCAPBOUND ((if b.quad then 2 else 1) + op * 256) (w64 o))
  | none =>
  if st.memBusy aid then (if st.farBusy aid then .wait .release else .hold (st.idle c))
  else if st.pairsBusy c || a.busy st aid c || b.busy st aid c then .hold (st.idle c)
  else match a.badSide st x c with
  | some o => .trap { formatTrap a.fmt 5 with addr := w64 o }
  | none =>
  match b.badSide st x c with
  | some o => .trap { formatTrap b.fmt 5 with addr := w64 o }
  | none =>
  let logged (o : Opnd) (q : Poison) : Bool :=
    if o.quad then st.qsLogged x.gang x.quad q.addr.toNat else st.lmLogged x.gang c q.addr.toNat
  match a.poison st x c with
  | some q => uncorrRes st aid x q (logged a q)
  | none =>
  match b.poison st x c with
  | some q => uncorrRes st aid x q (logged b q)
  | none =>
    let eb := b.elems st x c
    let bl := (List.range (bRows * 64)).map (fun p => eb[bIdx (p / 64) (p % 64)]?.getD (0, 255))
    matRes st c aid x i cl false [] (.product d x.nc x.fa x.fb i32 (a.elems st x c) bl rows)

/-! ## Products -/

/-- MMA and MMAT on their operands (R213). -/
def denseRes (st : State) (c aid : Nat) (x : Act) (i : Instr) (cl : Clauses) (mod : BitVec 4) (d a b : BitVec 6)
    (kMajor : Bool) : Res :=
  let i32 := (st.tile c (x.tile d)).i32
  match productFormat x i32 true kMajor with
  | some t => .trap t
  | none =>
    let src := mod.toNat / 2 % 4
    match (if src = 2 then stageFault st x else none) with
    | some t => .trap t
    | none =>
      let k := x.kLen
      let r := st.ring x.quad x.msbRing
      let bBase := if src = 2 then w64 (r.stageOff x.msbStage) else x.s b.toNat
      let aBase := x.s a.toNat
      let oa : Opnd := { quad := mod.getLsbD 0, base := aBase, fmt := x.fa, first := 0, count := 64 * k
                         side := aBase.toNat + 64 * k, planes := 8 * k }
      let ob : Opnd := { quad := decide (src ≠ 0), base := bBase, fmt := x.fb, first := 0, count := 64 * k
                         side := bBase.toNat + 64 * k }
      let rows := (List.range x.mr).map (fun i =>
        (i, (List.range k).map (fun kk => (if kMajor then kk * 64 + i else i * k + kk, kk))))
      fetchRes st c aid x i cl oa ob k (fun kk j => if kMajor then kk * 64 + j else j * k + kk) (x.tile d) i32 rows

/-- MMA (R213). -/
def execMma (mod : BitVec 4) (d a b : BitVec 6) (cl : Clauses) (s : State) : Host.Outcome State Fault Refusal :=
  run (.mma mod d a b cl) cl { matrix := true } (tilePre (.mma mod d a b cl)) (fun c aid x st =>
    denseRes st c aid x (.mma mod d a b cl) cl mod d a b false) s

/-- MMAT (R213). -/
def execMmat (mod : BitVec 4) (d a b : BitVec 6) (cl : Clauses) (s : State) : Host.Outcome State Fault Refusal :=
  run (.mmat mod d a b cl) cl { matrix := true } (tilePre (.mmat mod d a b cl)) (fun c aid x st =>
    denseRes st c aid x (.mmat mod d a b cl) cl mod d a b true) s

/-- Step 3 of R215 for a sparse product: the cut's members in forward order, or the fault. -/
def cutMembers (s : State) (x : Act) (tr : Bool) (ck cp : Word64) : Except Trap (List (Nat × Nat)) :=
  let p := x.gen.pat
  let kb := bits ck 23 0
  let ke := bits ck 47 24
  let nnz := bits ck 59 48
  let row0 := bits cp 63 40
  if !x.gen.loaded then .error (patternTrap 6 0)
  else if bits ck 63 60 ≠ 0 ∨ ke < kb ∨ p.n < ke ∨ 2048 < nnz ∨ row0 % 64 ≠ 0 ∨ p.m ≤ row0 then .error (cutterTrap 5)
  else if tr ∧ x.gen.inv = false then .error (patternTrap 5 0)
  else match p.limits with
    | some t => .error t
    | none =>
      let ms := p.forward row0 (row0 + 64) kb ke
      let rows := stageRows (s.ring x.quad x.msbRing) x.fb
      if ms.length ≠ nnz then .error (cutterTrap 3)
      else if tr ∧ 64 < ke - kb then .error (cutterTrap 4)
      else if x.msbValid ∧ rows < (if tr then min 64 (p.m - row0) else ke - kb) then .error (cutterTrap 4)
      else .ok ms

/-- MMAS and MMAST on their operands (R214). -/
def sparseRes (st : State) (c aid : Nat) (x : Act) (i : Instr) (cl : Clauses) (mod : BitVec 4) (d a b vb : BitVec 6)
    (tr : Bool) : Res :=
  let i32 := (st.tile c (x.tile d)).i32
  let ck := x.s a.toNat
  let cp := x.s b.toNat
  match productFormat x i32 false false with
  | some t => .trap t
  | none =>
    match cutMembers st x tr ck cp with
    | .error t => .trap t
    | .ok ms =>
      match stageFault st x with
      | some t => .trap t
      | none =>
        let kb := bits ck 23 0
        let ke := bits ck 47 24
        let row0 := bits cp 63 40
        let voff := bits cp 39 0
        let r := st.ring x.quad x.msbRing
        let base := x.s vb.toNat
        let sBase := w64 (r.stageOff x.msbStage)
        let bRows := if tr then min 64 (x.gen.pat.m - row0) else ke - kb
        let read := if tr then 64 else ke - kb
        let oa : Opnd := { quad := mod.getLsbD 0, base := base, fmt := x.fa, first := voff, count := ms.length
                           side := base.toNat + 64 * x.aax, planes := 64 * x.apx }
        let ob : Opnd := { quad := true, base := sBase, fmt := x.fb, first := 0, count := 64 * bRows
                           side := sBase.toNat + 64 * read * (tagWidth x.fb / 8), rows := some read }
        let idx := ms.zipIdx
        let rows := (List.range x.mr).map (fun o =>
          (o, (idx.filter (fun q => (if tr then q.1.2 - kb else q.1.1 - row0) == o)).map (fun q =>
            (q.2, if tr then q.1.1 - row0 else q.1.2 - kb))))
        fetchRes st c aid x i cl oa ob bRows (fun k j => k * 64 + j) (x.tile d) i32 rows

/-- MMAS (R214). -/
def execMmas (mod : BitVec 4) (d a b c : BitVec 6) (cl : Clauses) (s : State) : Host.Outcome State Fault Refusal :=
  run (.mmas mod d a b c cl) cl { matrix := true } (tilePre (.mmas mod d a b c cl)) (fun k aid x st =>
    sparseRes st k aid x (.mmas mod d a b c cl) cl mod d a b c false) s

/-- MMAST (R214). -/
def execMmast (mod : BitVec 4) (d a b c : BitVec 6) (cl : Clauses) (s : State) : Host.Outcome State Fault Refusal :=
  run (.mmast mod d a b c cl) cl { matrix := true } (tilePre (.mmast mod d a b c cl)) (fun k aid x st =>
    sparseRes st k aid x (.mmast mod d a b c cl) cl mod d a b c true) s

/-! ## Moves -/

/-- The offsets of a tile's rows in a space, from a base and a stride in registers; the first row outside raises
CAPBOUND (R216, R217). -/
def rowOffs (x : Act) (opcode : Nat) (quad : Bool) (base stride : Word64) (w : Nat) : Except Trap (List Nat) :=
  if base.toNat % 64 ≠ 0 then .error (mkTrap cMISALIGN opcode base)
  else if stride.toNat % 64 ≠ 0 then .error (mkTrap cMISALIGN opcode stride)
  else
    let offs := (List.range x.mr).map (fun i => base + w64 i * stride)
    match offs.find? (fun o => if quad then !x.qsOk o.toNat (x.nc * w) else (x.lmAddr o.toNat (x.nc * w)).isNone) with
    | some o => .error (mkTrap cCAPBOUND ((if quad then 2 else 1) + opcode * 256) o)
    | none => .ok (offs.map (·.toNat))

/-- The tile tag a move's format means: true for I32 (R216, R217). -/
def moveI32 (fmt : Nat) : Bool := fmt = 1 || fmt = 4 || fmt = 5
/-- MLDA (R216). -/
def execMlda (mod : BitVec 4) (d a b : BitVec 6) (cl : Clauses) (s : State) : Host.Outcome State Fault Refusal :=
  run (.mlda mod d a b cl) cl { memWord := true, matrix := true } (tilePre (.mlda mod d a b cl)) (fun c aid x st =>
    let w := tileWidth mod.toNat
    match rowOffs x 0x85 false (x.s a.toNat) (x.s b.toNat) w with
    | .error t => .trap t
    | .ok offs =>
      if offs.any (fun o => st.lmBusy c o (x.nc * w) false) then .hold (st.idle c)
      else matRes st c aid x (.mlda mod d a b cl) cl true []
        (.load (x.tile d) mod.toNat offs x.nc) (some (x.tile d, moveI32 mod.toNat))) s

/-- MSTA and MSTQ on their operands (R217). -/
def storeTileRes (st : State) (c aid : Nat) (x : Act) (i : Instr) (cl : Clauses) (mod : BitVec 4) (a b r : BitVec 6)
    (imm : BitVec 16) (quad : Bool) : Res :=
  let i32 := (st.tile c (x.tile a)).i32
  let w := tileWidth mod.toNat
  if i32 ≠ moveI32 mod.toNat then .trap (formatTrap (tileTag i32) 0)
  else if (boundField imm).isSome ∧ i32 = true then .trap (formatTrap (moveTag mod.toNat) 3)
  else match rowOffs x (opcodeOf i) quad (x.s b.toNat) (x.s r.toNat) w with
    | .error t => .trap t
    | .ok offs =>
      if !quad && offs.any (fun o => st.lmBusy c o (x.nc * w) true) then .hold (st.idle c)
      else matRes st c aid x i cl true [] (.store (x.tile a) mod.toNat quad offs x.nc
        ((boundField imm).map (fun n => (n, x.bound n))))

/-- MSTA (R217). -/
def execMsta (mod : BitVec 4) (a b c : BitVec 6) (imm : BitVec 16) (cl : Clauses) (s : State) :
    Host.Outcome State Fault Refusal :=
  run (.msta mod a b c imm cl) cl { memWord := true, matrix := true } (tilePre (.msta mod a b c imm cl))
    (fun k aid x st => storeTileRes st k aid x (.msta mod a b c imm cl) cl mod a b c imm false) s

/-- MSTQ (R217). -/
def execMstq (mod : BitVec 4) (a b c : BitVec 6) (imm : BitVec 16) (cl : Clauses) (s : State) :
    Host.Outcome State Fault Refusal :=
  run (.mstq mod a b c imm cl) cl { memWord := true, matrix := true } (tilePre (.mstq mod a b c imm cl))
    (fun k aid x st => storeTileRes st k aid x (.mstq mod a b c imm cl) cl mod a b c imm true) s

/-- MROWV (R218). -/
def execMrowv (d a : BitVec 6) (imm : BitVec 16) (cl : Clauses) (s : State) : Host.Outcome State Fault Refusal :=
  run (.mrowv d a imm cl) cl { memWord := true, matrix := true } (tilePre (.mrowv d a imm cl)) (fun c aid x st =>
    let va := x.v a.toNat
    if va.t ≠ tileTag (st.tile c (x.tile d)).i32 then .trap (formatTrap va.t 0)
    else matRes st c aid x (.mrowv d a imm cl) cl true []
      (.rowFromV (x.tile d) va.data (imm.toNat % 64) (imm.toNat / 64 % 4))) s

/-- MVROW (R218). -/
def execMvrow (d a : BitVec 6) (imm : BitVec 16) (cl : Clauses) (s : State) : Host.Outcome State Fault Refusal :=
  run (.mvrow d a imm cl) cl { memWord := true, matrix := true } (tilePre (.mvrow d a imm cl)) (fun c aid x st =>
    matRes st c aid x (.mvrow d a imm cl) cl true [vreg d.toNat]
      (.vFromRow d.toNat (x.tile a) (imm.toNat % 64) (imm.toNat / 64 % 4) (st.tile c (x.tile a)).i32)) s

/-- The image of a tile (R219). -/
def tileImage (t : Tile) (i32 : Bool) : List Byte :=
  (List.range 4096).flatMap (fun p => natToBytes 4 (t.get (p / 64) (p % 64)).toNat)
    ++ (BitVec.ofNat 8 (if i32 then 1 else 0) :: List.replicate 63 0)

/-- A tile from an image; none when the tag code exceeds 1 or a reserved byte is not zero. -/
def tileFromImage (bs : List Byte) : Option Tile :=
  let tail := bs.drop 16384
  if 1 < (tail.headD 0).toNat ∨ (tail.drop 1).any (· != 0) = true then none
  else some (tileOf (decide ((tail.headD 0).toNat = 1)) (fun i j =>
    BitVec.ofNat 32 (bytesToNat ((bs.drop (4 * (64 * i + j))).take 4))))

def imageBytes : Nat := 16448

/-- The place of an image in local memory or the scratchpad: alignment, then range. -/
def imageOff (x : Act) (opcode : Nat) (quad : Bool) (o : Word64) : Except Trap Nat :=
  if o.toNat % 64 ≠ 0 then .error (mkTrap cMISALIGN opcode o)
  else if quad then
    (if x.qsOk o.toNat imageBytes then .ok o.toNat else .error (mkTrap cCAPBOUND (2 + opcode * 256) o))
  else match x.lmAddr o.toNat imageBytes with
    | some p => .ok p
    | none => .error (mkTrap cCAPBOUND (1 + opcode * 256) o)

/-- The lines of an image in device memory: capability, alignment, then the translation of each line in turn (R152,
R219). -/
def State.imageLines (s : State) (c : Nat) (x : Act) (kn need opcode : Nat) (o : Word64) (write : Bool) :
    Except Res (List (OtcEntry × Nat)) :=
  let k := x.k kn
  match capCheck k kn need opcode o imageBytes with
  | .error t => .error (.trap t)
  | .ok a =>
    if a % 64 ≠ 0 then .error (.trap (mkTrap cMISALIGN opcode (w64 a)))
    else
      (List.range 257).foldr (fun i acc =>
        let l : Access := { object := k.object, offset := a + 64 * i, bytes := 64, write := write }
        match s.lookup c x.part l with
        | .fault t => .error (.trap t)
        | .miss => .error (.wait (.walk l.object l.offset l.bytes l.write l.atom))
        | .hit e => (match acc with | .error r => .error r | .ok r => .ok ((e, l.offset) :: r))) (.ok [])

/-- Sending one request for each line of an image. -/
def State.sendLines (s : State) (ls : List (OtcEntry × Nat)) (r : OtcEntry → Nat → Nat → Req) : State :=
  ls.zipIdx.foldl (fun s l => s.send (r l.1.1 l.1.2 l.2)) s

/-- MSAVE (R219). An image in device memory is taken and sent when the unit has finished every earlier word (log 15). -/
def execMsave (mod : BitVec 4) (a b c : BitVec 6) (cl : Clauses) (s : State) : Host.Outcome State Fault Refusal :=
  run (.msave mod a b c cl) cl { memWord := true, matrix := true } (tilePre (.msave mod a b c cl)) (fun k aid x st =>
    let t := x.tile a
    let i32 := (st.tile k t).i32
    if mod = 2 then
      match st.imageLines k x c.toNat rW 0x9B (x.s b.toNat) true with
      | .error r => r
      | .ok ls =>
        if (st.core k).mqueue ≠ [] then .hold (st.idle k)
        else match st.tilePoisonOf k [t] with
        | some q => uncorrRes st aid x q true
        | none =>
          let img := tileImage (st.tile k t) i32
          let piece (j : Nat) : List Byte := (img.drop (64 * j)).take 64
          let st := ls.zipIdx.foldl (fun (st : State) l =>
            (st.touch k l.1.1).l1Store k (l.1.1.addr l.1.2) (piece l.2) (List.replicate 64 true)) st
          let (n, st) := st.addOp (mkOp aid x (.msave mod a b c cl) cl true true [] .tileImage)
          let st := st.sendLines ls (fun e off j => mkReq aid x k n e off 64
            (.store (piece j) (List.replicate 64 true)))
          .go { st := st, op := some n }
    else match imageOff x 0x9B (mod == 1) (x.s b.toNat) with
      | .error t => .trap t
      | .ok o =>
        if mod = 0 ∧ st.lmBusy k o imageBytes true = true then .hold (st.idle k)
        else matRes st k aid x (.msave mod a b c cl) cl true [] (.saveTile t i32 (mod == 1) o)) s

/-- An image that stands in local memory or the scratchpad, as MREST judges it before it issues (R98, R208). -/
def imageRes (st : State) (k aid : Nat) (x : Act) (i : Instr) (cl : Clauses) (t : Nat) (quad : Bool) (o : Nat) : Res :=
  match (if quad then st.qsPoisonOf x.quad o imageBytes else st.lmPoisonOf k o imageBytes) with
  | some q => uncorrRes st aid x q
      (if quad then st.qsLogged x.gang x.quad q.addr.toNat else st.lmLogged x.gang k q.addr.toNat)
  | none =>
    let bs := st.spaceRead x k quad o imageBytes
    match tileFromImage bs with
    | none => .trap (formatTrap (bs[16384]?.getD 0).toNat 3)
    | some u => matRes st k aid x i cl true [] (.restTile t u) (some (t, u.i32))

/-- MREST (R219). Since FORMAT comes before issue (R98) and the tile's tag changes at issue (R208), an image in local memory or
the scratchpad is read before the word issues; one in device memory is read while the unit and the
context wait for it (logs 8, 15). -/
def execMrest (mod : BitVec 4) (d b c : BitVec 6) (cl : Clauses) (s : State) : Host.Outcome State Fault Refusal :=
  run (.mrest mod d b c cl) cl { memWord := true, matrix := true } (tilePre (.mrest mod d b c cl)) (fun k aid x st =>
    let t := x.tile d
    if mod = 2 then
      match st.imageLines k x c.toNat rR 0x9C (x.s b.toNat) false with
      | .error r => r
      | .ok ls =>
        if (st.core k).mqueue ≠ [] then .hold (st.idle k)
        else
          let st := ls.foldl (fun (st : State) l => (st.touch k l.1).l1Drop k (l.1.addr l.2 / 64)) st
          let (n, st) := st.addOp (mkOp aid x (.mrest mod d b c cl) cl true true [] (.matrix k (.restDev t [])))
          let st := st.setCore k { st.core k with mqueue := [n] }
          let st := st.sendLines ls (fun e off j => mkReq aid x k n e off 64 (.tileLine j))
          .go { st := st, op := some n, post := .verdict }
    else match imageOff x 0x9C (mod == 1) (x.s b.toNat) with
      | .error t => .trap t
      | .ok o =>
        if (if mod = 0 then st.lmBusy k o imageBytes false else st.qsBusy aid) = true then .hold (st.idle k)
        else imageRes st k aid x (.mrest mod d b c cl) cl t (mod == 1) o) s

/-! ## Tile arithmetic -/

/-- MZERO (R220). -/
def execMzero (mod : BitVec 4) (d : BitVec 6) (cl : Clauses) (s : State) : Host.Outcome State Fault Refusal :=
  run (.mzero mod d cl) cl { matrix := true } (tilePre (.mzero mod d cl)) (fun c aid x st =>
    matRes st c aid x (.mzero mod d cl) cl false [] (.zero (x.tile d)) (some (x.tile d, mod == 1))) s

/-- MADDT (R221). -/
def execMaddt (mod : BitVec 4) (d a b : BitVec 6) (cl : Clauses) (s : State) : Host.Outcome State Fault Refusal :=
  run (.maddt mod d a b cl) cl { matrix := true } (tilePre (.maddt mod d a b cl)) (fun c aid x st =>
    let i32 := (st.tile c (x.tile a)).i32
    if (st.tile c (x.tile b)).i32 ≠ i32 then .trap (formatTrap (tileTag !i32) 1)
    else matRes st c aid x (.maddt mod d a b cl) cl false []
      (.addT (x.tile d) (x.tile a) (x.tile b) (mod == 1) i32) (some (x.tile d, i32))) s

/-- MSCL (R221). -/
def execMscl (mod : BitVec 4) (d a b : BitVec 6) (cl : Clauses) (s : State) : Host.Outcome State Fault Refusal :=
  run (.mscl mod d a b cl) cl { matrix := true } (tilePre (.mscl mod d a b cl)) (fun c aid x st =>
    let i32 := (st.tile c (x.tile a)).i32
    if mod = 1 ∧ i32 = false then .trap (formatTrap 6 0)
    else matRes st c aid x (.mscl mod d a b cl) cl false []
      (.scale (x.tile d) (x.tile a) ((x.s b.toNat).setWidth 32) i32 (mod == 1)) (some (x.tile d, i32 && mod == 0))) s

/-- MBIAS (R221). -/
def execMbias (mod : BitVec 4) (d a b : BitVec 6) (cl : Clauses) (s : State) : Host.Outcome State Fault Refusal :=
  run (.mbias mod d a b cl) cl { matrix := true } (tilePre (.mbias mod d a b cl)) (fun c aid x st =>
    let i32 := (st.tile c (x.tile a)).i32
    match x.lmCheck 0x9E (x.s b.toNat) 256 64 with
    | .error t => .trap t
    | .ok o =>
      if st.lmBusy c o 256 false then .hold (st.idle c)
      else matRes st c aid x (.mbias mod d a b cl) cl false []
        (.bias (x.tile d) (x.tile a) o (mod == 1) i32) (some (x.tile d, i32))) s

/-- MCLAMP (R221). -/
def execMclamp (d a b c : BitVec 6) (cl : Clauses) (s : State) : Host.Outcome State Fault Refusal :=
  run (.mclamp d a b c cl) cl { matrix := true } (tilePre (.mclamp d a b c cl)) (fun k aid x st =>
    let i32 := (st.tile k (x.tile a)).i32
    matRes st k aid x (.mclamp d a b c cl) cl false []
      (.clamp (x.tile d) (x.tile a) ((x.s b.toNat).setWidth 32) ((x.s c.toNat).setWidth 32) i32) (some (x.tile d, i32))) s

/-- MTRN (R222). -/
def execMtrn (d a : BitVec 6) (cl : Clauses) (s : State) : Host.Outcome State Fault Refusal :=
  run (.mtrn d a cl) cl { matrix := true } (tilePre (.mtrn d a cl)) (fun c aid x st =>
    matRes st c aid x (.mtrn d a cl) cl false []
      (.transpose (x.tile d) (x.tile a)) (some (x.tile d, (st.tile c (x.tile a)).i32))) s

/-- MREDR (R222). -/
def execMredr (mod : BitVec 4) (d a : BitVec 6) (cl : Clauses) (s : State) : Host.Outcome State Fault Refusal :=
  run (.mredr mod d a cl) cl { matrix := true } (tilePre (.mredr mod d a cl)) (fun c aid x st =>
    matRes st c aid x (.mredr mod d a cl) cl false [vreg d.toNat]
      (.reduce d.toNat (x.tile a) (mod.toNat % 4) (mod.toNat / 4) (st.tile c (x.tile a)).i32)) s

/-- MDOT (R222). -/
def execMdot (mod : BitVec 4) (d a b : BitVec 6) (cl : Clauses) (s : State) : Host.Outcome State Fault Refusal :=
  run (.mdot mod d a b cl) cl { matrix := true } (tilePre (.mdot mod d a b cl)) (fun c aid x st =>
    let i32 := (st.tile c (x.tile a)).i32
    if (st.tile c (x.tile b)).i32 ≠ i32 then .trap (formatTrap (tileTag !i32) 1)
    else matRes st c aid x (.mdot mod d a b cl) cl false [vreg d.toNat]
      (.dot d.toNat (x.tile a) (x.tile b) (mod.toNat % 4) i32)) s

/-! ## Shape, format, status, stage binding (R223, R232) -/

/-- FORMAT for a register value written into unit state: tag, operand 6, lowest offending bit (R223). -/
def stateFormat (tag bit : Nat) : Trap := mkTrap cFORMAT (tag % 32 + 6 * 32 + bit * 256)

/-- The lowest set bit of a word. -/
def lowBit (x : Word64) : Option Nat := (List.range 64).find? (fun n => x.getLsbD n)

/-- MSHAPE (R223). -/
def execMshape (a : BitVec 6) (cl : Clauses) (s : State) : Host.Outcome State Fault Refusal :=
  run (.mshape a cl) cl {} noPre (fun _ aid x st =>
    match homeFault x with
    | some t => .trap t
    | none =>
      let v := x.s a.toNat
      match lowBit (v &&& 0xFFFFFFFFF00FC0C0) with
      | some n => .trap (stateFormat 0 n)
      | none => effectRes (st.setAct aid { st.act aid with msh := v })) s

/-- The lowest offending bit of a value for MFM, and the tag value that is reserved there (R207, R223). -/
def mfmBad (v : Word64) : Option (Nat × Nat) :=
  let fa := bits v 4 0
  let fb := bits v 12 8
  if !tagKnown fa then some (0, fa)
  else match lowBit (v &&& 0xE0) with
    | some n => some (n, if tagKnown fb then 0 else fb)
    | none =>
      if !tagKnown fb then some (8, fb)
      else (lowBit (v &&& 0xE000)).map (·, 0)

/-- MFMT (R223). -/
def execMfmt (a : BitVec 6) (cl : Clauses) (s : State) : Host.Outcome State Fault Refusal :=
  run (.mfmt a cl) cl {} noPre (fun _ aid x st =>
    match homeFault x with
    | some t => .trap t
    | none =>
      let v := x.s a.toNat
      match mfmBad v with
      | some (n, t) => .trap (stateFormat t n)
      | none => effectRes (st.setAct aid { st.act aid with mfm := v })) s

/-- The value MSTAT reads (R223). -/
def mstatValue (s : State) (c : Nat) (x : Act) (what : Nat) : Word64 :=
  match what with
  | 0 => x.msh
  | 1 => x.mfm
  | 2 => x.msb
  | 3 => w64 (ofElems 1 (x.tiles.map (fun n => if (s.tile c n).i32 then 1 else 0)))
  | 4 => w64 (x.cut.kcur % 2 ^ 24 + (if x.cut.isSet then 2 ^ 63 else 0))
  | 5 => x.cut.vcur
  | _ => x.gen.cursor

/-- MSTAT (R223); the generator cursor needs a loaded program (R199). -/
def execMstat (mod : BitVec 4) (d : BitVec 6) (cl : Clauses) (s : State) : Host.Outcome State Fault Refusal :=
  run (.mstat mod d cl) cl {} noPre (fun c _ x st =>
    match genFault x (mod == 6) with
    | some t => .trap t
    | none =>
      if mod = 3 ∧ st.restoring c = true then .hold (st.idle c)
      else fixedRes st 1 [wS d.toNat (mstatValue st c x mod.toNat)]) s

/-- MSTAGE (R232). -/
def execMstage (a : BitVec 6) (cl : Clauses) (s : State) : Host.Outcome State Fault Refusal :=
  run (.mstage a cl) cl {} noPre (fun _ aid x st =>
    match homeFault x with
    | some t => .trap t
    | none =>
      let v := x.s a.toNat
      let n := bits v 3 0
      let fill := bits v 63 32
      let r := st.ring x.quad n
      let d := sub32 r.f.toNat fill
      if bits v 31 4 ≠ 0 then .trap (mkTrap cSTAGE 5)
      else if !x.granted n then .trap (copyTrap n 1 0)
      else if d = 0 ∨ 2 ^ 31 < d then .trap (mkTrap cSTAGE 1)
      else if 2 ^ 31 ≤ sub32 fill r.e.toNat then .trap (mkTrap cSTAGE 3)
      else
        let i := fill % r.stages
        effectRes (st.setAct aid { st.act aid with
          msb := w64 (fill * 2 ^ 32 + (sparseGet 0 r.gen i).toNat * 2 ^ 16 + i * 2 ^ 8 + 16 + n) })) s

/-! ## What the unit does (R208, R216..R222) -/

/-- A loaded element, widened exactly (R216). -/
def loadElem (fmt x : Nat) : BitVec 32 :=
  match fmt with
  | 2 => BitVec.ofNat 32 (toFp32 (fp16.decode x))
  | 3 => BitVec.ofNat 32 (toFp32 (bf16.decode x))
  | 4 => BitVec.ofInt 32 (sextNat x 8)
  | _ => BitVec.ofNat 32 x

/-- An element-wise operation on FP32 codes or I32 values. -/
def lift2 (i32 : Bool) (fi : BitVec 32 → BitVec 32 → BitVec 32) (ff : Val → Val → Val) (x y : BitVec 32) : BitVec 32 :=
  if i32 then fi x y else BitVec.ofNat 32 (toFp32 (ff (fp32.decode x.toNat) (fp32.decode y.toNat)))

/-- The clamp of one element (R54, R221). -/
def clampElem (i32 : Bool) (lo hi x : BitVec 32) : BitVec 32 :=
  if i32 then (if x.slt lo then lo else if hi.slt x then hi else x)
  else
    let b : BoundReg := { lo := lo, hi := hi }
    let v := fp32.decode x.toNat
    if boundOut b v then BitVec.ofNat 32 (boundClamp b 6 v) else x

/-- Sixteen elements as a vector with the tile's tag. -/
def tileVec (i32 : Bool) (f : Nat → Nat) : VReg :=
  { data := vecOf 32 ((List.range 16).map f), tag := BitVec.ofNat 5 (tileTag i32) }

/-- A tile word ends: it leaves the queue, its tag clears, its registers are written. -/
def State.matDone (s : State) (c oid : Nat) (o : Op) (ws : List RegWrite) : State :=
  let s := s.setCore c { s.core c with mqueue := (s.core c).mqueue.erase oid }
  s.clearTag oid o ws

/-- An MREST from device memory ends with a trap (log 8). -/
def State.matTrap (s : State) (c oid : Nat) (o : Op) (t : Trap) : State :=
  (s.setCore c { s.core c with mqueue := (s.core c).mqueue.erase oid }).lateTrap oid o t

/-- The rows of an MLDA. -/
def loadTile (s : State) (c d fmt : Nat) (offs : List Nat) (cols : Nat) : Tile :=
  let w := tileWidth fmt
  let rows := offs.map (fun o => s.lmRead c o (cols * w))
  tileOf (s.tile c d).i32 (fun i j =>
    match rows[i]? with
    | some bs => if j < cols then loadElem fmt (bytesToNat ((bs.drop (j * w)).take w)) else 0
    | none => 0)

/-- The count of a bound event record lies in 1..64; beyond 64 elements of one tile it is a free value in that range
(log 3). -/
def State.eventCount (s : State) (n : Nat) : Nat × State :=
  if n ≤ 64 then (n, s)
  else
    let (d, s) := s.draw 1
    (1 + (Config.freeWord d).toNat % 64, s)

/-- Storing rows. -/
def State.putRows (s : State) (x : Act) (c w : Nat) (quad : Bool) (offs : List Nat) (rows : List (List Nat)) : State :=
  (List.zip offs rows).foldl (fun (s : State) r =>
    let bs := r.2.flatMap (natToBytes w)
    let m := bs.map (fun _ => true)
    if quad then s.qsWrite x.gang (coreQuad c) r.1 bs m false else s.lmWrite x.gang c r.1 bs m false) s

/-- THE UNIT PERFORMS ONE WORD and its tag clears (R208). -/
def State.matPerform (s : State) (c oid : Nat) (o : Op) (w : MatWord) : State :=
  let x := s.act o.act
  let put (s : State) (d : Nat) (t : Tile) : State := (s.newTile c d { t with i32 := (s.tile c d).i32 }).matDone c oid o []
  match w with
  | .zero d => put s d {}
  | .product d cols fa fb i32 a b rows => put s d (productTile (s.tile c d) cols fa fb i32 a b rows)
  | .load d fmt offs cols => put s d (loadTile s c d fmt offs cols)
  | .store a fmt quad offs cols bound =>
    let (n, b) := bound.getD (0, {})
    let (rows, out) := storeRows b bound.isSome (s.tile c a) fmt offs.length cols
    let (cnt, s) := s.eventCount out
    let s := (s.boundSticky o.act n cnt).boundRecord x o.opcode o.word (if b.mode = 1 ∧ cnt ≠ 0 then some (n, cnt) else none)
    (s.putRows x c (tileWidth fmt) quad offs rows).matDone c oid o []
  | .rowFromV d data row q =>
    let t := s.tile c d
    (s.setTile c d (tileOf t.i32 (fun i j =>
      if i = row ∧ 16 * q ≤ j ∧ j < 16 * q + 16 then BitVec.ofNat 32 (elem data 32 (j - 16 * q)) else t.get i j))).matDone c oid o []
  | .vFromRow d a row q i32 =>
    let t := s.tile c a
    s.matDone c oid o [wV d (tileVec i32 (fun i => (t.get row (16 * q + i)).toNat))]
  | .saveTile a i32 quad off =>
    let bs := tileImage (s.tile c a) i32
    let m := bs.map (fun _ => true)
    (if quad then s.qsWrite x.gang (coreQuad c) off bs m false else s.lmWrite x.gang c off bs m false).matDone c oid o []
  | .restTile d t => put s d t
  | .restDev d image =>
    let bs := (List.range 257).flatMap (fun i => (tableGet? image i).getD (List.replicate 64 0))
    match tileFromImage bs with
    | none => s.matTrap c oid o (formatTrap (bs[16384]?.getD 0).toNat 3)
    | some t => (s.newTile c d t).matDone c oid o []
  | .addT d a b sub i32 =>
    let ta := s.tile c a
    let tb := s.tile c b
    put s d (tileOf i32 (fun i j => lift2 i32 (if sub then (· - ·) else (· + ·))
      (fun u v => (u.add 0 (if sub then v.negate else v)).1) (ta.get i j) (tb.get i j)))
  | .scale d a k i32 cvt =>
    let t := s.tile c a
    put s d (tileOf i32 (fun i j =>
      if cvt then BitVec.ofNat 32 (toFp32 ((Val.ofInt (t.get i j).toInt).mul (fp32.decode k.toNat)).1)
      else lift2 i32 (· * ·) (fun u v => (u.mul v).1) (t.get i j) k))
  | .bias d a off row i32 =>
    let t := s.tile c a
    let u := s.lmRead c off 256
    put s d (tileOf i32 (fun i j =>
      let k := if row then i else j
      lift2 i32 (· + ·) (fun u v => (u.add 0 v).1) (t.get i j) (BitVec.ofNat 32 (bytesToNat ((u.drop (4 * k)).take 4)))))
  | .clamp d a lo hi i32 =>
    let t := s.tile c a
    put s d (tileOf i32 (fun i j => clampElem i32 lo hi (t.get i j)))
  | .transpose d a =>
    let t := s.tile c a
    put s d (tileOf t.i32 (fun i j => t.get j i))
  | .reduce d a op q i32 =>
    let t := s.tile c a
    s.matDone c oid o [wV d (tileVec i32 (fun i =>
      (treeReduce (nodeOf (tileTag i32) op 0) ((List.range 64).map (fun j => (t.get (16 * q + i) j).toNat))).1))]
  | .dot d a b q i32 =>
    let ta := s.tile c a
    let tb := s.tile c b
    s.matDone c oid o [wV d (tileVec i32 (fun i =>
      let r := 16 * q + i
      if i32 then ((List.range 64).foldl (fun (z : BitVec 32) j => z + ta.get r j * tb.get r j) 0).toNat
      else toFp32 (chunkSum ((List.range 64).map (fun j =>
        ((fp32.decode (ta.get r j).toNat).mul (fp32.decode (tb.get r j).toNat)).1)))))]

end Sys2Proof.Machine
end

