-- ==== Sys2Proof/Machine/Meet.lean ====
section
/-! DEFINITION. The words of meetings: MEET, PART, XREG, XVREG, XLUG, MEETQ and
EXIT (0xA0..0xA5, 0x2F; R33, R233..R243,
R256..R259). -/
namespace Sys2Proof.Machine

def luggageTrap (n : Nat) : Trap := mkTrap cLUGGAGE n
def partnerTrap (n : Nat) : Trap := mkTrap cPARTNER n

/-- The activity stands in a met visitor slot. -/
def Act.met (a : Act) : Option Party := if a.visitor && a.mg == 4 then a.party else none

/-! ## MEET and PART -/

/-- The luggage descriptor's checks, the lowest detail first (R237). -/
def luggageFault (x : Act) (d : Word64) : Option Nat :=
  let l0 := bits d 18 0
  let len := bits d 35 20
  if l0 % 64 ≠ 0 ∨ len % 64 ≠ 0 then some 1
  else if bits d 63 36 ≠ 0 ∨ d.getLsbD 19 = true then some 2
  else if l0 < x.lmBase ∨ x.lmBase + x.lmLen < l0 + len then some 3
  else none

/-- MEET (R256). -/
def execMeet (mod : BitVec 4) (d a b c : BitVec 6) (imm : BitVec 16) (cl : Clauses) (s : State) :
    Host.Outcome State Fault Refusal :=
  run (.meet mod d a b c imm cl) cl { allTags := true } noPre (fun _ aid x st =>
    if x.visitor then .trap (luggageTrap 4)
    else match luggageFault x (x.s b.toNat) with
      | some n => .trap (luggageTrap n)
      | none =>
        let (kind, rect) := st.scopeField x mod imm
        let (n, st) := st.addOp (mkOp aid x (.meet mod d a b c imm cl) cl true false (dstS d.toNat) .meet)
        let p : Party :=
          { key := x.s a.toNat, sid := scopeSid kind rect x.homeCore 0, luggage := x.s b.toNat, timeout := x.s c.toNat
            kind := kind, rect := rect, op := n, pc := x.pc, q0 := x.rdq0, q1 := x.rdq1
            freed := (releases (.meet mod d a b c imm cl) cl).filter x.live, lk := x.lk, lc := x.lc }
        .go { st := st.setAct aid { (st.act aid).setMg 1 with party := some p }, op := some n }) s

/-- PART (R257). -/
def execPart (cl : Clauses) (s : State) : Host.Outcome State Fault Refusal :=
  run (.part cl) cl { allTags := true } noPre (fun _ aid x st =>
    match x.met with
    | none => .trap (partnerTrap 1)
    | some _ =>
      let (n, st) := st.addOp (mkOp aid x (.part cl) cl true false [] .part)
      .go { st := st, op := some n, post := .part (some n) }) s

/-- EXIT (R33, R136): it waits for every tag. At home its slot is freed; in a visitor slot it parts first and its slot at
home is freed when it lands. -/
def execExit (cl : Clauses) (s : State) : Host.Outcome State Fault Refusal :=
  run (.exit cl) cl { exit := true } noPre (fun _ _ x st =>
    .go { st := st, post := if x.visitor then .part none else .exit }) s

/-! ## Exchanges -/

/-- The partner of an exchange: PARTNER(1) outside a met visitor slot, PARTNER(0) once it has parted, a wait while it is
saved (R240, R243, R258). -/
def exchangePartner (st : State) (x : Act) : Except Res (Party × Act) :=
  match x.met with
  | none => .error (.trap (partnerTrap 1))
  | some p =>
    if p.partnerParted then .error (.trap (partnerTrap 0))
    else if (st.act p.partner).run = .saved then .error (.wait .partner)
    else .ok (p, st.act p.partner)

/-- Copying a partner's register: DEADREG with bit 16 if it is not live (R258). -/
def exchangeRes (st : State) (aid : Nat) (x : Act) (i : Instr) (cl : Clauses) (own theirs : RegName) : Res :=
  match exchangePartner st x with
  | .error r => r
  | .ok (_, y) =>
    if !y.live theirs then .trap (mkTrap cDEADREG (theirs.num + theirs.file.code * 256 + 2 ^ 16))
    else
      let w : RegWrite := { reg := own, val := y.valOf theirs, poison := y.poison? theirs }
      opRes st (mkOp aid x i cl true false (if own = sreg 0 then [] else [own]) (.fixedTime [w]))

/-- XREG (R258): s, p, b or k. -/
def execXreg (mod : BitVec 4) (d a : BitVec 6) (cl : Clauses) (s : State) : Host.Outcome State Fault Refusal :=
  run (.xreg mod d a cl) cl {} noPre (fun _ aid x st =>
    let f : RegFile := if mod = 0 then .s else if mod = 1 then .p else if mod = 2 then .b else .k
    exchangeRes st aid x (.xreg mod d a cl) cl ⟨f, d.toNat⟩ ⟨f, a.toNat⟩) s

/-- XVREG (R258). -/
def execXvreg (d a : BitVec 6) (cl : Clauses) (s : State) : Host.Outcome State Fault Refusal :=
  run (.xvreg d a cl) cl {} noPre (fun _ aid x st =>
    exchangeRes st aid x (.xvreg d a cl) cl (vreg d.toNat) (vreg a.toNat)) s

/-- XLUG (R258). -/
def execXlug (a b c : BitVec 6) (cl : Clauses) (s : State) : Host.Outcome State Fault Refusal :=
  run (.xlug a b c cl) cl {} noPre (fun k aid x st =>
    match exchangePartner st x with
    | .error r => r
    | .ok (_, y) =>
      let o := x.s a.toNat
      let from_ := x.s b.toNat
      let n := x.s c.toNat
      let i : Instr := .xlug a b c cl
      match [o, from_, n].find? (fun v => v.toNat % 64 ≠ 0) with
      | some v => .trap (mkTrap cMISALIGN 0xA4 v)
      | none =>
        if n = 0 then opRes st (mkOp aid x i cl true false [] (.fixedTime []))
        else match x.lmAddr o.toNat n.toNat with
          | none => .trap (mkTrap cCAPBOUND (1 + 0xA4 * 256) o)
          | some dst =>
            let len := match y.party with | some q => q.len | none => 0
            if len < from_.toNat + n.toNat then .trap (mkTrap cCAPBOUND (1 + 0xA4 * 256) from_)
            else
              let src := visitorBase y.slot + from_.toNat
              if st.lmBusy k dst n.toNat true || st.lmBusy k src n.toNat false then .hold (st.idle k)
              else opRes st (mkOp aid x i cl true false [] (.xlug k dst src n.toNat))) s

/-- The value MEETQ reads in a met visitor slot (R259). -/
def meetqValue (s : State) (p : Party) (what : Nat) : Word64 :=
  let y := s.act p.partner
  match what with
  | 0 => w64 (p.partnerCore * 2 ^ 32 + p.role * 2 ^ 8 + (if !p.partnerParted && y.run == .saved then 4 else 0)
      + (if p.partnerParted then 0 else 2) + 1)
  | n => if p.partnerParted then 0
    else y.liveBits (match n with | 1 => .s | 2 => .v | 3 => .p | 4 => .b | _ => .k)

/-- MEETQ (R259). -/
def execMeetq (mod : BitVec 4) (d : BitVec 6) (cl : Clauses) (s : State) : Host.Outcome State Fault Refusal :=
  run (.meetq mod d cl) cl {} noPre (fun _ aid x st =>
    let o (v : Word64) : Op := mkOp aid x (.meetq mod d cl) cl false false (dstS d.toNat) (.fixedTime [wS d.toNat v])
    match x.met with
    | some p => opRes st (o (meetqValue st p mod.toNat))
    | none => if mod = 0 then opRes st (o 0) else .trap (partnerTrap 1)) s

end Sys2Proof.Machine
end

