-- ==== Sys2Proof/Machine/Barrier.lean ====
section
/-! DEFINITION. Barriers, supersteps, and the words that take or share work (0xA6..0xAC, R26..R32, R260..R264). -/
namespace Sys2Proof.Machine

/-- A barrier arrival is a release; a word that sends none does not wait (R261). -/
def arriveNeed (a : Act) : Need := { release := !a.ap }

/-- Arrivals so far of an activity at a kind and sid (R260). -/
def Act.arrivalCount (a : Act) (kind : Nat) (sid : Word64) : Nat :=
  match a.arrivals.find? (fun x => x.1 == kind && x.2.1 == sid) with
  | some x => x.2.2
  | none => 0

/-- Counting an arrival. -/
def Act.countArrival (a : Act) (kind : Nat) (sid : Word64) : Act :=
  { a with arrivals := (kind, sid, a.arrivalCount kind sid + 1)
      :: a.arrivals.filter (fun x => !(x.1 == kind && x.2.1 == sid)) }

/-- Sending an arrival: AP is set, the instance is held, and the arrival sets out for the sync tree (R261). The rectangle
of a rectangle scope is its sid. -/
def State.sendArrival (s : State) (aid : Nat) (kind : Nat) (sid : Word64) (op : Option Nat) (operand : Word64)
    (style : Nat) : State :=
  let a := s.act aid
  let h : Held := { kind := kind, sid := sid, num := a.arrivalCount kind sid + 1 }
  s.setAct aid { ((a.countArrival kind sid).setAp true) with
    held := some h, sent := some { op := op, operand := operand, style := style } }

/-- The replay slot of a barrier wait (R300). -/
def barReplay (opcode : Nat) (x : Act) (d : BitVec 6) (mod : BitVec 4) (h : Option Held) (operand : Word64) : Replay :=
  let (kind, sid, num) := match h with | some h => (h.kind, h.sid, h.num) | none => (0, 0, 0)
  { w0 := w64 (opcode * 2 ^ 56 + d.toNat * 2 ^ 50 + mod.toNat * 2 ^ 46 + kind % 8 * 2 ^ 41)
    w1 := sid, w2 := w64 num
    w3 := if opcode = 0xAA then operand else if kind = 5 then sid else 0 }

/-- A barrier word that waits for its instance, arriving first when AP = 0 (R262, R263). -/
def barRes (st : State) (aid : Nat) (x : Act) (i : Instr) (cl : Clauses) (d : BitVec 6) (mod : BitVec 4) (pair : Bool)
    (kind : Nat) (sid operand : Word64) (style : Nat) : Res :=
  let dsts := if pair then [sreg d.toNat, sreg (d.toNat + 1)] else dstS d.toNat
  let o := mkOp aid x i cl true false dsts (.bar d.toNat pair)
  let st' := if x.ap then st else st.sendArrival aid kind sid none operand style
  let o := { o with replay := barReplay o.opcode x d mod (st'.act aid).held operand }
  opRes st' o

/-- The pod group of an activity's gang. -/
def State.podGroup (s : State) (x : Act) : Nat := (s.gang x.gang).lrec.podGroup

/-- BAR (R262). -/
def execBar (mod : BitVec 4) (d : BitVec 6) (imm : BitVec 16) (cl : Clauses) (s : State) :
    Host.Outcome State Fault Refusal :=
  runWith (.bar mod d imm cl) cl arriveNeed noPre (fun _ aid x st =>
    let (kind, rect) := st.scopeField x mod imm
    barRes st aid x (.bar mod d imm cl) cl d mod false kind (scopeSid kind rect x.homeCore (st.podGroup x)) 0 0) s

/-- BARA (R262): its tag clears when the sync tree accepts the arrival, or one cycle after issue when AP = 1. -/
def execBara (mod : BitVec 4) (imm : BitVec 16) (cl : Clauses) (s : State) : Host.Outcome State Fault Refusal :=
  runWith (.bara mod imm cl) cl arriveNeed noPre (fun _ aid x st =>
    let (kind, rect) := st.scopeField x mod imm
    if x.ap then opRes st (mkOp aid x (.bara mod imm cl) cl true false [] (.fixedTime []))
    else
      let (n, st) := st.addOp (mkOp aid x (.bara mod imm cl) cl true false [] .bara)
      .go { st := st.sendArrival aid kind (scopeSid kind rect x.homeCore (st.podGroup x)) (some n) 0 0, op := some n }) s

/-- BARW (R262): LAUNCH kind 2 when no arrival is pending. -/
def execBarw (d : BitVec 6) (cl : Clauses) (s : State) : Host.Outcome State Fault Refusal :=
  run (.barw d cl) cl {} noPre (fun _ aid x st =>
    if x.ap = false then .trap (mkTrap cLAUNCH 2)
    else barRes st aid x (.barw d cl) cl d 0 false 0 0 0 0) s

/-- BARRED (R262): the operand is captured at arrival. -/
def execBarred (mod : BitVec 4) (d a : BitVec 6) (imm : BitVec 16) (cl : Clauses) (s : State) :
    Host.Outcome State Fault Refusal :=
  runWith (.barred mod d a imm cl) cl arriveNeed noPre (fun _ aid x st =>
    let (kind, rect) := st.scopeField x mod imm
    barRes st aid x (.barred mod d a imm cl) cl d mod true kind (scopeSid kind rect x.homeCore (st.podGroup x))
      (x.s a.toNat) (1 + imm.toNat / 64 % 4)) s

/-- SSTEP (R263): LAUNCH kind 3 in a gang not flagged BSP. -/
def execSstep (d : BitVec 6) (cl : Clauses) (s : State) : Host.Outcome State Fault Refusal :=
  runWith (.sstep d cl) cl arriveNeed noPre (fun _ aid x st =>
    if (st.gang x.gang).lrec.bsp = false then .trap (mkTrap cLAUNCH 3)
    else barRes st aid x (.sstep d cl) cl d 0 false 6 (w64 (x.gang % 2 ^ 32)) 0 0) s

/-- TAKE (R26, R264): served by the work distributor. -/
def execTake (d : BitVec 6) (cl : Clauses) (s : State) : Host.Outcome State Fault Refusal :=
  run (.take d cl) cl {} noPre (fun c aid x st =>
    let o := mkOp aid x (.take d cl) cl true false (dstS d.toNat) (.take d.toNat c)
    opRes st { o with replay := { w0 := w64 (0xAB * 2 ^ 56 + d.toNat * 2 ^ 50) } }) s

/-- SHARE (R27, R28, R264). -/
def execShare (d a : BitVec 6) (cl : Clauses) (s : State) : Host.Outcome State Fault Refusal :=
  run (.share d a cl) cl {} noPre (fun _ aid x st =>
    let t := bits (x.s a.toNat) 31 0
    let o := mkOp aid x (.share d a cl) cl true false (dstS d.toNat) (.share d.toNat t)
    opRes st { o with replay := { w0 := w64 (0xAC * 2 ^ 56 + d.toNat * 2 ^ 50), w1 := w64 t } }) s

/-! ## What the distributor answers (R26..R28) -/

/-- TAKE's answer and the tiles left: start, count (R26). -/
def takeAnswer (pool left chunk freq : Nat) : Nat × Nat :=
  (pool - left, min left (max 1 (chunk * freq / 1000)))

/-- The share of each entry (R28): the floor, and one more for the largest remainders. -/
def shareOf (t : Nat) (l : List ShareEntry) (e : ShareEntry) : Nat :=
  let w := (l.map (·.freq)).foldl (· + ·) 0
  let floor (x : ShareEntry) : Nat := t * x.freq / w
  let rem (x : ShareEntry) : Nat := t * x.freq % w
  let spare := t - (l.map floor).foldl (· + ·) 0
  let before (x y : ShareEntry) : Bool :=
    decide (rem y < rem x) || (rem x == rem y && (decide (x.core < y.core) || (x.core == y.core && decide (x.rank < y.rank))))
  floor e + (if (l.filter (fun x => before x e)).length < spare then 1 else 0)

/-- SHARE's answer: offset and share. -/
def shareAnswer (t rank : Nat) (l : List ShareEntry) : Nat × Nat :=
  match l.find? (fun e => e.rank == rank) with
  | none => (0, 0)
  | some e => (((l.filter (fun x => decide (x.rank < rank))).map (shareOf t l)).foldl (· + ·) 0, shareOf t l e)

end Sys2Proof.Machine
end

