-- ==== Sys2Proof/Machine/Launch.lean ====
section
/-! DEFINITION. Launch records and the words LAUNCH and LAUNCHQ (0xAD, 0xBF, R265..R267, R312, R316). -/
namespace Sys2Proof.Machine

/-- Bytes [a, a + n) of a record as a number. -/
def recNat (bs : List Byte) (a n : Nat) : Nat := bytesToNat ((bs.drop a).take n)

/-- Bits [hi:lo] of one byte of a record. -/
def recBits (bs : List Byte) (a hi lo : Nat) : Nat := recNat bs a 1 / 2 ^ lo % 2 ^ (hi + 1 - lo)

/-- The fields of a launch record (R265). -/
def LaunchRec.ofBytes (bs : List Byte) : LaunchRec :=
  { entry := BitVec.ofNat 32 (recNat bs 0 4), codeObj := recNat bs 4 3
    cls := recBits bs 7 1 0, bsp := recBits bs 7 2 2 == 1, cyclecheck := recBits bs 7 3 3 == 1
    argPresent := recBits bs 7 4 4 == 1, rectPresent := recBits bs 7 5 5 == 1
    depPresent := recBits bs 7 6 6 == 1, donePresent := recBits bs 7 7 7 == 1
    argObj := recNat bs 8 3, argRights := BitVec.ofNat 7 (recBits bs 11 6 0)
    crews := recNat bs 12 2, cores := recBits bs 14 1 0 + 1, acts := recBits bs 14 4 2 + 1
    tiles := recBits bs 15 3 0, mode := recBits bs 15 5 4, chunk := recNat bs 16 2
    lmem := recNat bs 18 1, qsmem := recNat bs 19 1, rings := BitVec.ofNat 16 (recNat bs 20 2)
    podGroup := recNat bs 22 2, pool := recNat bs 24 4, threshold := recNat bs 28 4
    rect := w64 (recNat bs 32 8), seed := w64 (recNat bs 40 8)
    depOff := recNat bs 48 5, depObj := recNat bs 53 3
    doneOff := recNat bs 56 5, doneObj := recNat bs 61 3 }

/-- The object is valid in the partition's object table. -/
def State.objectValid (s : State) (part obj : Nat) : Bool :=
  match s.otEntry part obj with
  | some e => e.valid
  | none => false

/-- A gang of the pod group may be accepted: a valid enrolment that is not full (R316). -/
def State.podAccepts (s : State) (part group : Nat) : Bool :=
  (s.part part).pods.any (fun e => e.2.pgenr.getLsbD 63 && bits e.2.pgenr 47 32 == group
    && decide (e.2.accepted < bits e.2.pgenr 15 0))

/-- The faults of a record that any submitter shares, as (offset, reason) (R265, R316): reserved bits, absent fields, and
limits. -/
def State.recordFaults (s : State) (part : Nat) (bs : List Byte) (r : LaunchRec) : List (Nat × Nat) :=
  let chk (c : Bool) (off reason : Nat) : List (Nat × Nat) := if c then [(off, reason)] else []
  let absent (present : Bool) (a n : Nat) : List (Nat × Nat) := chk (!present && recNat bs a n != 0) a 1
  chk (recBits bs 11 7 7 != 0) 11 1 ++ chk (recBits bs 14 7 5 != 0) 14 1 ++ chk (recBits bs 15 7 6 != 0) 15 1
    ++ absent r.argPresent 8 3 ++ absent r.argPresent 11 1 ++ absent r.depPresent 28 4
    ++ absent r.rectPresent 32 8 ++ absent r.depPresent 48 5 ++ absent r.depPresent 53 3
    ++ absent r.donePresent 56 5 ++ absent r.donePresent 61 3
    ++ chk (r.crews == 0) 12 2 ++ chk (decide (6 < r.acts)) 14 2
    ++ chk (decide (8 < r.acts * r.tiles) || r.mode == 3) 15 2 ++ chk (r.chunk == 0) 16 2
    ++ chk (decide (96 < r.lmem)) 18 2 ++ chk (decide (64 < r.qsmem)) 19 2
    ++ chk (r.podGroup != 0 && !s.podAccepts part r.podGroup) 22 2
    ++ chk (r.depPresent && r.depOff % 8 != 0) 48 2
    ++ chk (r.depPresent && !s.objectValid part r.depObj) 53 2
    ++ chk (r.donePresent && r.doneOff % 8 != 0) 56 2
    ++ chk (r.donePresent && !s.objectValid part r.doneObj) 61 2

/-- The faults of a record given to LAUNCH: class, objects and rights that differ from the capabilities', mode
(R265). -/
def launchFaults (x : Act) (cls : Nat) (r : LaunchRec) (code arg : KReg) : List (Nat × Nat) :=
  let chk (c : Bool) (off reason : Nat) : List (Nat × Nat) := if c then [(off, reason)] else []
  chk (decide (r.cls < cls)) 7 3
    ++ chk (r.codeObj != 0 && r.codeObj != code.object) 4 4
    ++ chk (r.argPresent && r.argObj != 0 && r.argObj != arg.object) 8 4
    ++ chk (r.argPresent && r.argRights.toNat != 0 && r.argRights.toNat != arg.rights) 11 4
    ++ chk (r.mode != 3 && decide (x.mode < r.mode)) 15 5

/-- The faults of a record that the host kicks: the queue's lowest class, and the mode it may grant (R265, R312). -/
def kickFaults (lqbase : Word64) (r : LaunchRec) : List (Nat × Nat) :=
  let chk (c : Bool) (off reason : Nat) : List (Nat × Nat) := if c then [(off, reason)] else []
  chk (decide (r.cls < bits lqbase 57 56)) 7 2
    ++ chk (r.mode != 3 && decide ((if lqbase.getLsbD 58 then 1 else 0) < r.mode)) 15 5

/-- The fault that is reported: the lowest offset, and at it the lowest reason. -/
def recordFault : List (Nat × Nat) → Option (Nat × Nat)
  | [] => none
  | f :: fs =>
    match recordFault fs with
    | none => some f
    | some g => if g.1 < f.1 ∨ (g.1 = f.1 ∧ g.2 < f.2) then some g else some f

/-- LAUNCH's detail for a malformed record (R255): kind 1, offset, reason. -/
def malformedDetail (f : Nat × Nat) : Nat := 1 + f.1 * 2 ^ 8 + f.2 * 2 ^ 16

/-- A record at s[a] and what LAUNCH says of it: MISALIGN and CAPBOUND on its own address, the record's lines, then k[c]
when there is an argument (R266). -/
def launchRecord (s : State) (c : Nat) (x : Act) (opcode : Nat) (a kc : BitVec 6) :
    Except Trap (List Byte × LaunchRec) :=
  match x.lmCheck opcode (x.s a.toNat) 64 64 with
  | .error t => .error t
  | .ok p =>
    match s.lmPoisonOf c p 64 with
    | some q => .error { cause := cUNCORR, detail := q.detail, addr := q.addr }
    | none =>
      let bs := s.lmRead c p 64
      let r := LaunchRec.ofBytes bs
      let ks := if r.argPresent then [kreg kc.toNat] else []
      match deadTrap x ks with
      | some t => .error t
      | none => (match poisonTrap x ks with | some t => .error t | none => .ok (bs, r))

/-- LAUNCH's first complaint about a record. -/
def State.launchDetail (s : State) (x : Act) (bs : List Byte) (r : LaunchRec) (code arg : KReg) : Option Nat :=
  (recordFault (s.recordFaults x.part bs r ++ launchFaults x (s.gang x.gang).lrec.cls r code arg)).map malformedDetail

/-- The code capability lacks validity or X. -/
def launchCap (code : KReg) (kb : Nat) : Option Trap :=
  if !code.valid then some (mkTrap cCAPTAG kb)
  else if code.reserved || !hasRights code.rights rX then some (mkTrap cCAPRIGHTS (kb + rX * 256))
  else none

/-- The record is read while a tagged access to its bytes is outstanding. -/
def launchHeld (s : State) (c : Nat) (x : Act) (a : BitVec 6) : Bool :=
  match x.lmCheck 0xAD (x.s a.toNat) 64 64 with
  | .ok p => s.lmBusy c p 64 false
  | .error _ => false

/-- LAUNCH (R266): the record is read at issue and submitted to the armature. A launch into a pod group may still be found
malformed there, so that no later word issues before its answer (R316; log 49). -/
def execLaunch (d a b c : BitVec 6) (cl : Clauses) (s : State) : Host.Outcome State Fault Refusal :=
  run (.launch d a b c cl) cl {} noPre (fun k aid x st =>
    if launchHeld st k x a then .hold (st.idle k)
    else cleanBlock st k aid x (x.s a.toNat) (match launchRecord st k x 0xAD a c with
      | .error t => .trap t
      | .ok (bs, r) =>
        let code := x.k b.toNat
        let arg := x.k c.toNat
        match st.launchDetail x bs r code arg with
        | some n => .trap (mkTrap cLAUNCH n)
        | none =>
          match launchCap code b.toNat with
          | some t => .trap t
          | none =>
            let arg := if r.argPresent then arg else {}
            let (n, st) := st.addOp (mkOp aid x (.launch d a b c cl) cl true false (dstS d.toNat)
              (.launch d.toNat bs code arg))
            let p := st.part x.part
            .go { st := st.setPart x.part { p with submits := p.submits ++ [n] }, op := some n
                  post := if r.podGroup = 0 then .none else .verdict })) s

/-- LAUNCHQ (R267): the same checks, without raising them. -/
def execLaunchq (d a b c : BitVec 6) (cl : Clauses) (s : State) : Host.Outcome State Fault Refusal :=
  run (.launchq d a b c cl) cl {} noPre (fun k aid x st =>
    if launchHeld st k x a then .hold (st.idle k)
    else cleanBlock st k aid x (x.s a.toNat) (match launchRecord st k x 0xBF a c with
      | .error t => .trap t
      | .ok (bs, r) =>
        let code := x.k b.toNat
        let v := match st.launchDetail x bs r code (x.k c.toNat) with
          | some n => n
          | none => if (launchCap code b.toNat).isSome then 0xFF else 0
        opRes st (mkOp aid x (.launchq d a b c cl) cl false false (dstS d.toNat)
          (.fixedTime [wS d.toNat (w64 v)])))) s

end Sys2Proof.Machine
end

