-- ==== Sys2Proof/Machine/Engine.lean ====
section
/-! DEFINITION. The quad copy engine: what a transfer reads and writes, one line or element at a time, how it ends, and
the waits that observe it (R205, R206, R244..R254). -/
namespace Sys2Proof.Machine

/-- Why a transfer does not go on: a fault in flight, by cause and offset in its object or space (R253); or a byte of an object
whose translation the issuing core's cache misses, so that a walk comes first (R307, R308). -/
inductive Stop where
  | fault (cause off : Nat)
  | miss (object off : Nat) (write : Bool)
deriving DecidableEq, Repr

/-- The link to a package, and whether it is down (R325; log 12). -/
def peerLink (pkg : Nat) : Nat := 16 + Config.peerLinkRaw pkg % 16
def State.peerDown (s : State) (pkg : Nat) : Bool :=
  match tableGet? s.links (peerLink pkg) with
  | some l => l.down
  | none => false

/-! ## Lines -/

/-- The 64-byte lines that [base, base + total) touches, by count, and the part of line i: first byte within the range,
bytes. -/
def lineCount (base total : Nat) : Nat := if total = 0 then 0 else (base + total - 1) / 64 + 1 - base / 64
def lineSpan (base total i : Nat) : Nat × Nat :=
  let lo := (base / 64 + i) * 64 - base
  (lo, min total ((base / 64 + i + 1) * 64 - base) - lo)

/-! ## Device memory as the engine reaches it (R247, R308) -/

/-- The home address of a byte, by the cached translation of the issuing core; over a link that is down no access goes
(R325). -/
def State.engAddr (s : State) (t : Transfer) (obj : Nat) (a : Int) (write : Bool) : Except Stop (Nat × OtcEntry) :=
  let x : Access := { object := obj, offset := a.toNat, bytes := 1, write := write }
  match (s.core t.core).otcFind x with
  | none => .error (.miss obj a.toNat write)
  | some e =>
    match accessFault e x with
    | some f => .error (.fault f.cause a.toNat)
    | none =>
      if e.path = .peer ∧ s.peerDown e.peer = true then .error (.fault cPEER a.toNat) else .ok (e.addr a.toNat, e)

/-- Before an access: it takes its turn at its lines, and the translation is cached. -/
def State.engTouch (s : State) (t : Transfer) (obj : Nat) (a : Int) (n : Nat) (write : Bool) : State :=
  (List.range n).foldl (fun (s : State) i =>
    if i ≠ 0 ∧ (a.toNat + i) % 64 ≠ 0 then s
    else match s.engAddr t obj (a + i) write with
      | .error _ => s
      | .ok (p, e) =>
        let s := s.portTurn (p / 64)
        s.setCore t.core ((s.core t.core).otcUse e)) s

/-- One byte of device memory. -/
def State.engByte (s : State) (t : Transfer) (obj : Nat) (a : Int) : Except Stop Byte :=
  match s.engAddr t obj a false with
  | .error f => .error f
  | .ok (p, _) => if (s.badUnit p 1).isSome then .error (.fault cUNCORR a.toNat) else .ok (sparseGet 0 s.mem p)

/-- Several results, the first failure instead of them. -/
def allOk {α : Type} : List (Except Stop α) → Except Stop (List α)
  | [] => .ok []
  | .error f :: _ => .error f
  | .ok x :: r => match allOk r with | .error f => .error f | .ok l => .ok (x :: l)

/-- Bytes of device memory. -/
def State.engRead (s : State) (t : Transfer) (obj : Nat) (a : Int) (n : Nat) : Except Stop (List Byte) :=
  allOk ((List.range n).map (fun (i : Nat) => s.engByte t obj (a + (i : Int))))

/-- Writing bytes of device memory, line by line, when every one of them may be written. -/
def State.engWrite (s : State) (t : Transfer) (obj : Nat) (a : Int) (bs : List Byte) (mask : List Bool) :
    Except Stop State :=
  let on := (List.range bs.length).filter (fun i => mask[i]?.getD false)
  match allOk (on.map (fun (i : Nat) => s.engAddr t obj (a + (i : Int)) true)) with
  | .error f => .error f
  | .ok _ =>
    let b := a.toNat
    .ok ((List.range (lineCount b bs.length)).foldl (fun (s : State) i =>
      let (lo, n) := lineSpan b bs.length i
      let m := (mask.drop lo).take n
      match ((List.range n).find? (fun j => m[j]?.getD false)) with
      | none => s
      | some j =>
        match s.engAddr t obj (a + (lo + j : Nat)) true with
        | .error _ => s
        | .ok (p, e) =>
          let s := s.engTouch t obj (a + (lo + j : Nat)) 1 true
          s.homeWrite (some (t.gang, t.core)) (p - j) ((bs.drop lo).take n) m true false e.gp e.owner) s)

/-! ## The quad's own storage -/

/-- The transfer's local side is the issuing core's local memory; else the scratchpad. -/
def Transfer.local? (t : Transfer) : Bool := t.dir == 0 || t.dir == 2

/-- It writes device memory from the quad's storage. -/
def Transfer.out (t : Transfer) : Bool := t.dir == 2 || t.dir == 3

/-- One byte of it. -/
def State.ownByte (s : State) (q : Nat) (t : Transfer) (a : Nat) : Except Stop Byte :=
  if t.local? then
    if poisoned (s.core t.core).lmPoison a 1 then .error (.fault cUNCORR a) else .ok (sparseGet 0 (s.core t.core).lm a)
  else if poisoned (s.quad q).qsPoison a 1 then .error (.fault cUNCORR a) else .ok (sparseGet 0 (s.quad q).qs a)

/-- Writing bytes of it. -/
def State.ownWrite (s : State) (q : Nat) (t : Transfer) (a : Nat) (bs : List Byte) (mask : List Bool) : State :=
  if t.local? then s.lmWrite t.gang t.core a bs mask true else s.qsWrite t.gang q a bs mask true

/-! ## What each byte of a destination is (R250, R251, R231) -/

/-- A destination byte: it keeps its value; it is a pad; it is a source byte, or two source nibbles. -/
inductive Src where
  | keep
  | val (b : Byte)
  | byte (o : Nat)
  | nib (lo hi : Nat)
deriving DecidableEq, Repr

/-- CPYW's element at position g of the grid: its index in the batch, or none for the pad (R251). -/
def windowIndex (images ch wd ht stride ow oh : Nat) (tx ty x0 y0 : Int) (g k : Nat) : Option Nat :=
  if images * oh * ow ≤ g then none
  else
    let n := g / (oh * ow)
    let y := ((g % (oh * ow) / ow * stride : Nat) : Int) + y0 + ty
    let x := ((g % ow * stride : Nat) : Int) + x0 + tx
    if 0 ≤ y ∧ y < ht ∧ 0 ≤ x ∧ x < wd then some (((n * ht + y.toNat) * wd + x.toNat) * ch + k) else none

/-- The valid positions of a CPYW (R251). -/
def windowCount (images ow oh p0 p : Nat) : Nat := min p (images * oh * ow - p0)

/-- What byte t of the destination is; more than one answer where elements overlap. -/
def Xfer.src (x : Xfer) (t : Nat) : List Src :=
  match x with
  | .cpy _ => [.byte t]
  | .cpyt w rs cols sd ss =>
    let cs := (List.range cols).filter (fun c => decide (c * sd ≤ t) && decide (t < c * sd + rs * w / 8))
    if cs.isEmpty then [.keep]
    else cs.map (fun c =>
      let u := t - c * sd
      if w = 4 then .nib (2 * (2 * u) * ss + c) (2 * (2 * u + 1) * ss + c)
      else
        let eb := w / 8
        .byte (u / eb * ss + c * eb + u % eb))
  | .cpyw w p0 images ch wd ht _ stride ow oh tx ty x0 y0 pad =>
    let eb := w / 8
    let e := t / eb
    match windowIndex images ch wd ht stride ow oh tx ty x0 y0 (p0 + e / ch) (e % ch) with
    | some i => [.byte (i * eb + t % eb)]
    | none => [.val (BitVec.ofNat 8 (pad.toNat / 2 ^ (8 * (t % eb))))]
  | .rows kb _ bytes stride => [.byte ((kb + t / bytes) * stride + t % bytes)]
  | _ => [.keep]

/-- Bytes from the first to the last of the destination. -/
def Xfer.total (x : Xfer) : Nat :=
  match x with
  | .cpy len => len
  | .cpyt w rs cols sd _ => (cols - 1) * sd + rs * w / 8
  | .cpyw w _ _ ch _ _ p _ _ _ _ _ _ _ _ => p * ch * (w / 8)
  | .rows _ rs bytes _ => rs * bytes
  | .gather _ e m => m * e
  | _ => 0

/-- One source byte. -/
def State.srcByte (s : State) (q : Nat) (t : Transfer) (o : Nat) : Except Stop Byte :=
  if t.out then s.ownByte q t (t.loc + o) else s.engByte t t.cap.object (t.off + o)

/-- The value of a destination byte; none where it keeps its own. -/
def State.srcValue (s : State) (q : Nat) (t : Transfer) (x : Src) : Except Stop (Option Byte) :=
  match x with
  | .keep => .ok none
  | .val b => .ok (some b)
  | .byte o => (match s.srcByte q t o with | .error f => .error f | .ok b => .ok (some b))
  | .nib lo hi =>
    match s.srcByte q t (lo / 2), s.srcByte q t (hi / 2) with
    | .ok a, .ok b =>
      .ok (some (BitVec.ofNat 8 (a.toNat / 2 ^ (4 * (lo % 2)) % 16 + b.toNat / 2 ^ (4 * (hi % 2)) % 16 * 16)))
    | .error f, _ => .error f
    | _, .error f => .error f

/-- Merges pending on the source lines are applied before they are read. -/
def State.srcTouch (s : State) (t : Transfer) (xs : List Src) : State :=
  if t.out then s
  else xs.foldl (fun (s : State) x => match x with
    | .byte o => s.engTouch t t.cap.object (t.off + o) 1 false
    | .nib lo hi => (s.engTouch t t.cap.object (t.off + (lo / 2 : Nat)) 1 false).engTouch t t.cap.object
        (t.off + (hi / 2 : Nat)) 1 false
    | _ => s) s

/-- One line of CPY, CPYT, CPYW or CUTB. Where elements overlap at a byte, which one it is is a free value. -/
def State.copyLineOf (s : State) (q : Nat) (t : Transfer) (base i : Nat) : Except (State × Stop) State :=
  let (lo, n) := lineSpan base t.what.total i
  let cands := (List.range n).map (fun j => t.what.src (lo + j))
  let (d, s) := if cands.any (fun l => decide (1 < l.length)) then s.draw 1 else (0, s)
  let r := (Config.freeWord d).toNat
  let xs := cands.zipIdx.map (fun c => c.1[r / 2 ^ c.2 % max c.1.length 1]?.getD .keep)
  let s := s.srcTouch t xs
  match allOk (xs.map (s.srcValue q t)) with
  | .error f => .error (s, f)
  | .ok vs =>
    let bs := vs.map (fun v => v.getD 0)
    let mask := vs.map (fun v => v.isSome)
    if t.out then
      match s.engWrite t t.cap.object (t.off + lo) bs mask with
      | .error f => .error (s, f)
      | .ok s => .ok s
    else if mask.any id then .ok (s.ownWrite q t (base + lo) bs mask) else .ok s

/-! ## Gather and scatter (R252) -/

/-- The byte of the object at which element i stands, its index read and checked when the engine reaches it. -/
def State.indexed (s : State) (t : Transfer) (idx e i : Nat) : Except Stop Int :=
  let a := idx + 4 * i
  if poisoned (s.core t.core).lmPoison a 4 then .error (.fault cUNCORR a)
  else
    let o := t.off + (bytesToNat (s.lmRead t.core a 4) * e : Nat)
    if o < t.cap.lo ∨ (t.cap.hi : Int) < o + e then .error (.fault cCAPBOUND ((o % 2 ^ 48).toNat)) else .ok o

/-- The bytes of element i of a gather. -/
def State.gatherElem (s : State) (t : Transfer) (idx e i : Nat) : Except Stop (List Byte) :=
  match s.indexed t idx e i with
  | .error f => .error f
  | .ok o => s.engRead t t.cap.object o e

/-- The elements up to the first that fails, and that failure. -/
def gatherUpTo : List (Except Stop (List Byte)) → List Byte × Option Stop
  | [] => ([], none)
  | .error f :: _ => ([], some f)
  | .ok bs :: r => let (l, f) := gatherUpTo r; (bs ++ l, f)

/-- One destination line of a gather: the elements before a failing one are written. -/
def State.gatherLine (s : State) (q : Nat) (t : Transfer) (idx e m i : Nat) : Except (State × Stop) State :=
  let (lo, n) := lineSpan t.loc (m * e) i
  let first := lo / e
  let is := (List.range ((lo + n - 1) / e + 1 - first)).map (first + ·)
  let s := is.foldl (fun (s : State) k => match s.indexed t idx e k with
    | .ok o => s.engTouch t t.cap.object o e false
    | .error _ => s) s
  let (bs, f) := gatherUpTo (is.map (s.gatherElem t idx e))
  let part := (bs.drop (lo - first * e)).take n
  let s := if part.isEmpty then s else s.ownWrite q t (t.loc + lo) part (part.map (fun _ => true))
  match f with
  | some f => .error (s, f)
  | none => .ok s

/-- One element of a scatter. -/
def State.scatterElem (s : State) (q : Nat) (t : Transfer) (idx e i : Nat) : Except (State × Stop) State :=
  match allOk ((List.range e).map (fun j => s.ownByte q t (t.loc + i * e + j))) with
  | .error f => .error (s, f)
  | .ok bs =>
    match s.indexed t idx e i with
    | .error f => .error (s, f)
    | .ok o =>
      match s.engWrite t t.cap.object o bs (bs.map (fun _ => true)) with
      | .error f => .error (s, f)
      | .ok s => .ok s

/-! ## Peer copies (R252, R272) -/

/-- A write of n bytes of a peer's object, as that package's tables answer it (R272, R305). -/
def State.peerWritable (s : State) (pkg obj off n : Nat) : Except Stop Nat :=
  if s.peerDown pkg then .error (.fault cPEER off)
  else match tableGet? s.peerObjs (pkg * 2 ^ 24 + obj) with
    | none => .error (.fault cOBJPROT off)
    | some o =>
      if o.size < off + n then .error (.fault cOBJPROT off)
      else match tableGet? o.pages (off / 2 ^ pageShift o.psize) with
        | none => .error (.fault cOBJMISS off)
        | some g => if o.ro = true ∨ g.w = false ∨ g.cow = true then .error (.fault cOBJPROT off) else .ok (peerAddr pkg obj off)

/-- One line to the peer. -/
def State.peerLine (s : State) (t : Transfer) (peer obj off i : Nat) : Except (State × Stop) State :=
  let a := t.off + (64 * i : Nat)
  let s := s.engTouch t t.cap.object a 64 false
  match s.engRead t t.cap.object a 64 with
  | .error f => .error (s, f)
  | .ok bs =>
    match s.peerWritable peer obj (off + 64 * i) 64 with
    | .error f => .error (s, f)
    | .ok p =>
      .ok ((s.portTurn (p / 64)).homeWrite (some (t.gang, t.core)) p bs (bs.map (fun _ => true)) true false false 0)

/-- The counter at the peer is incremented; an uncorrectable one keeps its value (R155). -/
def State.peerCount (s : State) (t : Transfer) (peer obj off : Nat) : Except Stop State :=
  match s.peerWritable peer obj off 8 with
  | .error f => .error f
  | .ok p =>
    let s := s.portTurn (p / 64)
    if (s.badUnit p 8).isSome then .ok s
    else
      let bs := wordBytes64 8 (s.memWord p + 1)
      .ok (s.homeWrite (some (t.gang, t.core)) p bs (bs.map (fun _ => true)) false false false 0)

/-! ## Re-cast (R205, R206) -/

/-- The members of a row block from a cut on, in cut-major order. -/
def Pat.cutsFrom (p : Pat) (row0 : Nat) : Nat → Cut → List (Nat × Nat)
  | 0, _ => []
  | n + 1, c =>
    let (kb, ke, _, _, fin) := p.cut c
    p.forward row0 (row0 + 64) kb ke ++ (if fin then [] else p.cutsFrom row0 n { c with kcur := ke })

/-- The whole pattern in cut-major order for a budget and a span limit (R205). -/
def Pat.cutMajor (p : Pat) (budget span : Nat) : List (Nat × Nat) :=
  (List.range (cdiv p.m 64)).flatMap (fun b =>
    p.cutsFrom (64 * b) (p.n + 1) { desc := w64 ((span - 1) * 2 ^ 48 + budget * 2 ^ 36 + 64 * b) })

/-- Values to a block of an output format. -/
def recastBlock (fmt : Nat) : Nat := if tagScaled fmt then 32 else 64

/-- Bytes of the value array and of the scale or header array for n values (R62, R63). -/
def recastPlane (n : Nat) : Nat := cdiv (cdiv n 64 * 64) 512 * 64
def recastSizes (fmt n : Nat) : Nat × Nat :=
  if tagScaled fmt then (n, 2 * cdiv n 32) else (8 * recastPlane n, 4 * cdiv n 64)

/-- The header exponent of a BPk block: ⌈log₂(A/127)⌉ + 255, limited to 0..510 (R206). -/
def bpExponent (vs : List Val) : Nat :=
  if vs.any Val.isNan then 511
  else if vs.any Val.isInf then 510
  else
    let es : List Int := vs.filterMap (fun v => match v with
      | .fin _ m e =>
        if m = 0 then none
        else
          let fl := floorLog2 m e
          some ((if m * 128 ≤ 127 * 2 ^ bitLen m then fl - 6 else fl - 5) + 255)
      | _ => none)
    match es with
    | [] => 0
    | x :: r => (min 510 (max 0 (r.foldl max x))).toNat

/-- A BPk code, clamped to 1..255; that of a NaN is a free value of that range (log 3). -/
def bpCode (free e : Nat) (v : Val) : Nat :=
  match v.scale (255 - (e : Int)) with
  | .nan => 1 + (Config.freeByte free).toNat % 255
  | .inf n => if n then 1 else 255
  | .fin n m x => (min 255 (max 1 ((roundInt 0 0 n m x).1 + 128))).toNat

/-- Bit j of eight codes, as a byte. -/
def planeByte (j : Nat) (cs : List Nat) : Byte :=
  BitVec.ofNat 8 (((List.range 8).map (fun i => (cs[i]?.getD 0) / 2 ^ j % 2 * 2 ^ i)).foldl (· + ·) 0)

/-- What a block writes: (byte of the object, bytes) (R206). The last BPk block also clears its planes' ends. -/
def recastWrites (fmt values scales n i free : Nat) (vs : List Val) : List (Nat × List Byte) :=
  if tagScaled fmt then
    let v := blockScale (if fmt = 11 then 8 else 15) vs
    let e := if v = 511 then 511 else min 510 (v + 1)
    [(values + 32 * i, vs.map (fun x => BitVec.ofNat 8 (convElem 6 fmt 0 0 false e x).code))
      , (scales + 2 * i, natToBytes 2 e)]
  else
    let e := bpExponent vs
    let codes := vs.zipIdx.map (fun x => bpCode (free + x.2) e x.1) ++ List.replicate (64 - vs.length) 128
    let p := recastPlane n
    let nb := cdiv n 64
    (List.range 8).map (fun k =>
        let j := 7 - k
        (values + k * p + 8 * i, (List.range 8).map (fun b => planeByte j ((codes.drop (8 * b)).take 8))
          ++ (if i + 1 = nb then List.replicate (p - 8 * nb) 0 else [])))
      ++ [(scales + 4 * i, natToBytes 4 (128 * 2 ^ 9 + e))]

/-- Writing several runs, all of which may be written, or none. -/
def State.engWrites (s : State) (t : Transfer) (obj : Nat) (ws : List (Nat × List Byte)) : Except (State × Stop) State :=
  match allOk (ws.map (fun w => s.engWrite t obj w.1 w.2 (w.2.map (fun _ => true)))) with
  | .error f => .error (s, f)
  | .ok _ => .ok (ws.foldl (fun (s : State) w =>
      match s.engWrite t obj w.1 w.2 (w.2.map (fun _ => true)) with | .ok s => s | .error _ => s) s)

/-- One block of a re-cast. -/
def State.recastPiece (s : State) (t : Transfer) (fmt stride obj values scales budget span : Nat) (g : Gen) (i : Nat) :
    Except (State × Stop) State :=
  let all := g.pat.cutMajor budget span
  let k := recastBlock fmt
  let ms := (all.drop (k * i)).take k
  let place (m : Nat × Nat) : Int := t.off + (m.1 * stride + 4 * m.2 : Nat)
  let s := ms.foldl (fun (s : State) m => s.engTouch t t.cap.object (place m) 4 false) s
  match allOk (ms.map (fun m => s.engRead t t.cap.object (place m) 4)) with
  | .error f => .error (s, f)
  | .ok vs =>
    let (d, s) := s.draw 64
    s.engWrites t obj (recastWrites fmt values scales all.length i d (vs.map (fun b => fp32.decode (bytesToNat b))))

/-! ## A transfer's pieces -/

/-- How many lines, elements or blocks a transfer has. -/
def Transfer.count (t : Transfer) : Nat :=
  match t.what with
  | .scatter _ _ m => m
  | .cpyp len _ _ _ _ _ => len / 64
  | .cpyr fmt _ _ _ _ budget span g => cdiv (g.pat.cutMajor budget span).length (recastBlock fmt)
  | x => lineCount (if t.out then t.off.toNat else t.loc) x.total

/-- One piece: the state after it, or after what a failing piece wrote, with the stop. -/
def State.piece (s : State) (q : Nat) (t : Transfer) : Except (State × Stop) State :=
  match t.what with
  | .gather idx e m => s.gatherLine q t idx e m t.pos
  | .scatter idx e _ => s.scatterElem q t idx e t.pos
  | .cpyp _ peer obj off _ _ => s.peerLine t peer obj off t.pos
  | .cpyr fmt stride obj values scales budget span g => s.recastPiece t fmt stride obj values scales budget span g t.pos
  | _ => s.copyLineOf q t (if t.out then t.off.toNat else t.loc) t.pos

/-- The stage of a fill is free: the ring has released the fill before it there (R46, R249). -/
def State.stageFree (s : State) (q : Nat) (t : Transfer) : Bool :=
  match t.ring with
  | none => true
  | some (n, fill) => let r := s.ring q n; decide (sub32 fill.toNat r.e.toNat ≤ r.count)

/-- Every earlier local access of the issuing activity has been performed (R247). -/
def State.sourcesReady (s : State) (t : Transfer) : Bool :=
  !(s.ops.any (fun x => x.2.act == t.act && decide (x.2.num < t.num)
    && (x.2.kind.onScratch || !(x.2.kind.localFoot t.core).isEmpty)))

/-- The transfer that a channel performs now; none while it has to wait (for its stage, for its activity's earlier local
accesses, for writes that had been accepted before its command issued and are still held back) or the engine is frozen
(R245, R247, R282, R340). -/
def State.channelHead (s : State) (q n : Nat) : Option Transfer :=
  if (s.quad q).halting then none
  else match (s.chan q n).queue with
    | t :: _ => if s.stageFree q t && s.sourcesReady t && s.placed t.behind then some t else none
    | [] => none

/-- A channel whose transfer has a line, element or block to perform now. -/
def State.lineDue (s : State) (q n : Nat) : Bool :=
  match s.channelHead q n with
  | some t => decide (t.pos < t.count) && (match s.piece q t with | .error (_, .miss _ _ _) => false | _ => true)
  | none => false

/-- The channel whose turn it is: round-robin in order of channel number, line by line (R245). -/
def State.turnOf (s : State) (q : Nat) : Option Nat :=
  ((List.range 16).map (fun i => ((s.quad q).lastChan + 1 + i) % 16)).find? (s.lineDue q)

/-! ## How a transfer ends (R245, R249, R253, R254) -/

/-- Fills that have ended land in order, each once its stage is released: F − E never passes count + 1 (R46, R249). -/
def Ring.land (r : Ring) : Nat → Ring
  | 0 => r
  | n + 1 =>
    match r.landing.find? (fun x => x.1 == r.f && decide (sub32 r.f.toNat r.e.toNat ≤ r.count)) with
    | none => r
    | some (f, bad) =>
      let i := f.toNat % r.stages
      Ring.land { r with
        gen := sparseSet 0 r.gen i (sparseGet 0 r.gen i + 1)
        f := r.f + 1
        badFills := r.badFills ++ (match bad with | some b => [(f, b.1, b.2)] | none => [])
        landing := r.landing.filter (fun x => x.1 != f) } n

/-- A transfer ends: its watermark, its fill and its event line, whose bad bit only EVCLR clears (R276); `bad` is the cause of a fault, 0 for a cancellation. -/
def State.endTransfer (s : State) (q n : Nat) (t : Transfer) (bad : Option Nat) : State :=
  let c := s.chan q n
  let c := { c with queue := c.queue.filter (fun x => x.id != t.id), wm := t.id + 1 }
  let c := match t.what, bad with
    | .cpyw _ p0 images _ _ _ p _ ow oh _ _ _ _ _, none =>
      { c with vcount := BitVec.ofNat 16 (windowCount images ow oh p0 p) }
    | _, _ => c
  let s := s.setChan q n c
  let s := match t.ring with
    | some (rn, fill) =>
      let r := s.ring q rn
      let r := { r with landing := r.landing ++ [(fill, bad.map (n, ·))] }
      s.setRing q rn (r.land r.landing.length)
    | none => s
  match t.line with
  | some l => s.setLine q l { set := true, bad := (s.line q l).bad || bad.isSome }
  | none => s

/-- Every transfer still queued on a channel is cancelled. -/
def State.cancelChan (s : State) (q n : Nat) : State :=
  (s.chan q n).queue.foldl (fun (s : State) t => s.endTransfer q n t (some 0)) s

/-- A fault in flight: the channel is faulted, the transfer ends, later ones are cancelled (R253). -/
def State.faultChan (s : State) (q n : Nat) (t : Transfer) (cause off : Nat) : State :=
  let c := s.chan q n
  let s := s.setChan q n { c with
    faulted := true, cause := BitVec.ofNat 8 cause, fid := t.id, addr := BitVec.ofNat 48 off }
  (s.endTransfer q n t (some cause)).cancelChan q n

/-- CPCAN's effect on a channel (R254). -/
def State.clearChan (s : State) (q n : Nat) : State :=
  let s := s.cancelChan q n
  let c := s.chan q n
  s.setChan q n { c with faulted := false, cause := 0, fid := 0, addr := 0, wm := c.nx }

/-! ## Waits on the engine that a save area brought back (R245, R249, R276, R300) -/

/-- A wait that may end does: its core's L1 read cache is invalidated and its tag clears, or it raises COPY (log 8). -/
def State.endWait (s : State) (oid : Nat) : State :=
  match s.op? oid with
  | none => s
  | some o =>
    match s.engineWait o.kind with
    | some (_, .ok ws) => if s.canLand o then (s.l1Clear (s.act o.act).core).clearTag oid o ws else s
    | some (_, .error t) => s.lateTrap oid o t
    | none => s

/-- Every wait on a quad's engine looks again. -/
def State.settleWaits (s : State) (q : Nat) : State :=
  (s.ops.filter (fun x => match x.2.kind with
    | .cpwait p _ _ => p == q
    | .stgwait p _ _ _ => p == q
    | .evwait p _ => p == q
    | _ => false)).foldl (fun (s : State) x => s.endWait x.1) s

end Sys2Proof.Machine
end

