-- ==== Sys2Proof/Machine/Copy.lean ====
section
/-! DEFINITION. The words of the copy engine: the seven copy commands and CUTB, waits, status, stage rings, event lines,
MOULD and TMARK (0x98, 0xAE..0xBE, R231, R244..R254, R268..R277). -/
namespace Sys2Proof.Machine

/-- The engine fields of an immediate (R255). -/
def ringOf (imm : BitVec 16) : Nat := imm.toNat % 16
def chanOf (imm : BitVec 16) : Nat := imm.toNat / 16 % 16
def lineNum (imm : BitVec 16) : Nat := imm.toNat / 256 % 16

/-! ## Checks before acceptance (R268) -/

/-- The first of some rings, channels or event lines that is not granted. -/
def grantFault (x : Act) (ns : List Nat) : Option Trap := (ns.find? (fun n => !x.granted n)).map (copyTrap · 1 0)

/-- A faulted channel (R253). -/
def chanFault (st : State) (x : Act) (n : Nat) : Option Trap :=
  let c := st.chan x.quad n
  if c.faulted then some (copyTrap n 3 c.cause.toNat) else none

/-- Grants, then the channel. -/
def engineFault (st : State) (x : Act) (n : Nat) (others : List Nat) : Option Trap :=
  match grantFault x (n :: others) with
  | some t => some t
  | none => chanFault st x n

/-- The words of a descriptor, read from local memory at issue. -/
def descWords (st : State) (c : Nat) (x : Act) (opcode : Nat) (o : Word64) : Except Trap (List Word64) :=
  match x.lmCheck opcode o 64 64 with
  | .error t => .error t
  | .ok p =>
    match st.lmPoisonOf c p 64 with
    | some q => .error { cause := cUNCORR, detail := q.detail, addr := q.addr }
    | none => .ok ((List.range 8).map (fun i => bytesWord (st.lmRead c (p + 8 * i) 8)))

/-- A tagged access to the descriptor's bytes is outstanding. -/
def descBusy (st : State) (c : Nat) (x : Act) (o : Word64) : Bool :=
  match x.lmCheck 0 o 64 64 with
  | .ok p => st.lmBusy c p 64 false
  | .error _ => false

/-- Where the local side of a transfer stands: the issuing core's local memory, the scratchpad, or the stage that the
ring's next fill takes; inside its allocation (R41, R44, R45). Beyond 2^32 fills the number is taken modulo 2^32 before the stage is
(the model's choice; log 71). -/
def localBase (st : State) (x : Act) (opcode dir loc total ring : Nat) : Except Trap Nat :=
  if dir = 4 then
    let r := st.ring x.quad ring
    let base := r.stageOff (r.commanded.toNat % r.stages) + loc
    if total = 0 ∨ x.qsOk base total = true then .ok base else .error (mkTrap cCAPBOUND (2 + opcode * 256) (w64 base))
  else if total = 0 then .ok loc
  else if dir = 0 ∨ dir = 2 then
    match x.lmAddr loc total with
    | some p => .ok p
    | none => .error (mkTrap cCAPBOUND (1 + opcode * 256) (w64 loc))
  else if x.qsOk loc total then .ok loc else .error (mkTrap cCAPBOUND (2 + opcode * 256) (w64 loc))

/-- A stage holds the range [loc, loc + total). -/
def inStage (st : State) (x : Act) (dir loc total ring : Nat) : Bool :=
  dir != 4 || decide (loc + total ≤ (st.ring x.quad ring).stageBytes)

/-- What a command hands to the engine. -/
structure Command where
  cap : KReg
  off : Int
  dir : Nat
  loc : Nat
  what : Xfer
  ring : Option Nat := none
  line : Option Nat := none
deriving DecidableEq, Repr

/-- ACCEPTANCE (R245, R268): a full queue, and an engine that a halt has frozen (R340), stalls the port; else the transfer takes
the channel's next id and, into a ring, the ring's next fill. The tag clears on acceptance. -/
def acceptRes (st : State) (c aid : Nat) (x : Act) (i : Instr) (cl : Clauses) (d : BitVec 6) (n : Nat) (m : Command) :
    Res :=
  let q := x.quad
  let ch := st.chan q n
  if 16 ≤ ch.queue.length ∨ (st.quad q).halting = true then .hold (st.idle c)
  else
    let fill := match m.ring with | some r => (st.ring q r).commanded | none => 0
    let t : Transfer :=
      { id := ch.nx, act := aid, gang := x.gang, part := x.part, crew := x.crew, core := c, num := x.num, cap := m.cap
        off := m.off, dir := m.dir, loc := m.loc, what := m.what, ring := m.ring.map (·, fill), line := m.line
        behind := st.pendingWrites aid }
    let st := st.setChan q n { ch with queue := ch.queue ++ [t], nx := ch.nx + 1 }
    let st := match m.ring with
      | some r => st.setRing q r { st.ring q r with commanded := (st.ring q r).commanded + 1 }
      | none => st
    opRes st (mkOp aid x i cl false false (dstS d.toNat)
      (.fixedTime (if d = 0 then [] else [wS d.toNat (w64 (ch.nx.toNat + fill.toNat * 2 ^ 32))])))

/-- The device range of a command through k[kn]: its first byte. -/
def devRange (x : Act) (kn need opcode : Nat) (o : Word64) (n : Nat) : Except Trap Nat :=
  capCheck (x.k kn) kn need opcode o n

/-- The tag and the rights of a capability alone. -/
def capHeld (k : KReg) (kn need : Nat) : Option Trap :=
  if !k.valid then some (mkTrap cCAPTAG kn)
  else if k.reserved || !hasRights k.rights need then some (mkTrap cCAPRIGHTS (kn + need * 256))
  else none

/-- The rights a direction needs. -/
def dirRights (dir : Nat) : Nat := if dir = 2 ∨ dir = 3 then rW else rR

/-- The last checks of a command with one contiguous device range, and its acceptance. -/
def rangeRes (st : State) (c aid : Nat) (x : Act) (i : Instr) (cl : Clauses) (d a : BitVec 6) (n dir : Nat)
    (ring : Option Nat) (o : Word64) (dev loc own : Nat) (what : Xfer) : Res :=
  match devRange x a.toNat (dirRights dir) (opcodeOf i) o dev with
  | .error t => .trap t
  | .ok p =>
    match localBase st x (opcodeOf i) dir loc own (ring.getD 0) with
    | .error t => .trap t
    | .ok base => acceptRes st c aid x i cl d n
        { cap := x.k a.toNat, off := p, dir := dir, loc := base, what := what, ring := ring }

/-! ## The copy commands -/

/-- The ring of a direction. -/
def dirRing (mod : BitVec 4) (imm : BitVec 16) : Option Nat := if mod = 4 then some (ringOf imm) else none

/-- CPY (R268): offsets and length are multiples of 64; a length of 0 copies nothing. -/
def execCpy (mod : BitVec 4) (d a b c : BitVec 6) (imm : BitVec 16) (cl : Clauses) (s : State) :
    Host.Outcome State Fault Refusal :=
  run (.cpy mod d a b c imm cl) cl {} noPre (fun k aid x st =>
    let n := chanOf imm
    let ring := dirRing mod imm
    match engineFault st x n ring.toList with
    | some t => .trap t
    | none =>
      let w := x.s c.toNat
      let loc := bits w 21 0
      let len := bits w 63 32
      let o := x.s b.toNat
      if bits w 31 22 ≠ 0 ∨ inStage st x mod.toNat loc len (ringOf imm) = false then .trap (copyTrap n 2 0)
      else if o.toNat % 64 ≠ 0 then .trap (mkTrap cMISALIGN 0xAE (w64 (x.k a.toNat).lo + o))
      else if loc % 64 ≠ 0 then .trap (mkTrap cMISALIGN 0xAE (w64 loc))
      else if len % 64 ≠ 0 then .trap (mkTrap cMISALIGN 0xAE (w64 len))
      else rangeRes st k aid x (.cpy mod d a b c imm cl) cl d a n mod.toNat ring o len loc len (.cpy len)) s

/-- A command's descriptor once its grants and its channel allow it. -/
def withDesc (st : State) (k aid : Nat) (x : Act) (opcode : Nat) (c : BitVec 6) (n : Nat) (others : List Nat)
    (f : List Word64 → Res) : Res :=
  match engineFault st x n others with
  | some t => .trap t
  | none =>
    if descBusy st k x (x.s c.toNat) then .hold (st.idle k)
    else cleanBlock st k aid x (x.s c.toNat) (match descWords st k x opcode (x.s c.toNat) with
      | .error t => .trap t
      | .ok ws => f ws)

/-- Bits of word i of a descriptor. -/
def dbits (ws : List Word64) (i hi lo : Nat) : Nat := bits (ws[i]?.getD 0) hi lo

/-- CPYT (R269). -/
def execCpyt (mod : BitVec 4) (d a b c : BitVec 6) (imm : BitVec 16) (cl : Clauses) (s : State) :
    Host.Outcome State Fault Refusal :=
  run (.cpyt mod d a b c imm cl) cl {} noPre (fun k aid x st =>
    let n := chanOf imm
    let ring := dirRing mod imm
    withDesc st k aid x 0xAF c n ring.toList (fun ws =>
      let w := 4 * 2 ^ dbits ws 0 57 56
      let cols := dbits ws 0 55 44 + 1
      let rows := dbits ws 0 43 32 + 1
      let loc := dbits ws 0 21 0
      let sd := dbits ws 1 63 32
      let ss := dbits ws 1 31 0
      let src := (rows - 1) * ss + cdiv (cols * w) 8
      let dst := (cols - 1) * sd + rows * w / 8
      let (dev, own) := if mod = 2 ∨ mod = 3 then (dst, src) else (src, dst)
      if dbits ws 0 63 58 ≠ 0 ∨ dbits ws 0 31 22 ≠ 0 ∨ (w = 4 ∧ rows % 2 = 1)
          ∨ inStage st x mod.toNat loc own (ringOf imm) = false then .trap (copyTrap n 2 0)
      else rangeRes st k aid x (.cpyt mod d a b c imm cl) cl d a n mod.toNat ring (x.s b.toNat) dev loc own
        (.cpyt w rows cols sd ss))) s

/-- CPYW (R270): the whole batch is checked at issue. -/
def execCpyw (mod : BitVec 4) (d a b c : BitVec 6) (imm : BitVec 16) (cl : Clauses) (s : State) :
    Host.Outcome State Fault Refusal :=
  run (.cpyw mod d a b c imm cl) cl {} noPre (fun k aid x st =>
    let n := chanOf imm
    let ring := dirRing mod imm
    withDesc st k aid x 0xB0 c n ring.toList (fun ws =>
      let w := 4 * 2 ^ dbits ws 0 23 22
      let loc := dbits ws 0 21 0
      let images := dbits ws 1 63 48
      let ch := dbits ws 1 47 32
      let wd := dbits ws 1 31 16
      let ht := dbits ws 1 15 0
      let p := dbits ws 2 47 40 + 1
      let stride := dbits ws 2 39 32
      let ow := dbits ws 2 31 16
      let oh := dbits ws 2 15 0
      let sx (hi lo : Nat) : Int := sextNat (dbits ws 3 hi lo) 16
      let own := p * ch * (w / 8)
      if dbits ws 0 31 24 ≠ 0 ∨ dbits ws 2 63 48 ≠ 0 ∨ dbits ws 4 63 32 ≠ 0 ∨ w = 4 ∨ images = 0 ∨ ch = 0 ∨ 4096 < ch
          ∨ wd = 0 ∨ ht = 0 ∨ stride = 0 ∨ ow = 0 ∨ oh = 0 ∨ inStage st x mod.toNat loc own (ringOf imm) = false then
        .trap (copyTrap n 2 0)
      else rangeRes st k aid x (.cpyw mod d a b c imm cl) cl d a n mod.toNat ring (x.s b.toNat)
        (images * ht * wd * ch * (w / 8)) loc own
        (.cpyw w (dbits ws 0 63 32) images ch wd ht p stride ow oh (sx 63 48) (sx 47 32) (sx 31 16) (sx 15 0)
          (BitVec.ofNat 32 (dbits ws 4 31 0))))) s

/-- CPYG and CPYS (R271): the index list and the slots are checked at issue, each element when the engine reaches it. -/
def indexedRes (st : State) (k aid : Nat) (x : Act) (i : Instr) (cl : Clauses) (mod : BitVec 4) (d a b c : BitVec 6)
    (imm : BitVec 16) (out : Bool) : Res :=
  let n := chanOf imm
  withDesc st k aid x (opcodeOf i) c n [lineNum imm] (fun ws =>
    let idx := dbits ws 0 50 32
    let e := 4 * 2 ^ dbits ws 0 24 22
    let slots := dbits ws 0 21 0
    let m := dbits ws 1 16 0
    let need := if out then rW else rR
    let cap := x.k a.toNat
    if dbits ws 0 63 51 ≠ 0 ∨ dbits ws 0 31 25 ≠ 0 ∨ dbits ws 1 63 17 ≠ 0 ∨ dbits ws 0 24 22 = 7 ∨ idx % 4 ≠ 0
        ∨ slots % e ≠ 0 ∨ m = 0 ∨ 65536 < m then .trap (copyTrap n 2 0)
    else match capHeld cap a.toNat need with
      | some t => .trap t
      | none =>
        match x.lmAddr idx (4 * m) with
        | none => .trap (mkTrap cCAPBOUND (1 + opcodeOf i * 256) (w64 idx))
        | some ip =>
          let dir := if mod = 0 then (if out then 2 else 0) else if out then 3 else 1
          match localBase st x (opcodeOf i) dir slots (m * e) 0 with
          | .error t => .trap t
          | .ok base => acceptRes st k aid x i cl d n
              { cap := cap, off := cap.lo + (x.s b.toNat).toInt, dir := dir, loc := base, line := some (lineNum imm)
                what := if out then .scatter ip e m else .gather ip e m })

/-- CPYG (R252, R271). -/
def execCpyg (mod : BitVec 4) (d a b c : BitVec 6) (imm : BitVec 16) (cl : Clauses) (s : State) :
    Host.Outcome State Fault Refusal :=
  run (.cpyg mod d a b c imm cl) cl {} noPre (fun k aid x st =>
    indexedRes st k aid x (.cpyg mod d a b c imm cl) cl mod d a b c imm false) s

/-- CPYS (R252, R271). -/
def execCpys (mod : BitVec 4) (d a b c : BitVec 6) (imm : BitVec 16) (cl : Clauses) (s : State) :
    Host.Outcome State Fault Refusal :=
  run (.cpys mod d a b c imm cl) cl {} noPre (fun k aid x st =>
    indexedRes st k aid x (.cpys mod d a b c imm cl) cl mod d a b c imm true) s

/-- CPYP (R252, R272): it needs R and G, and makes the superstep not replayable (R331). -/
def execCpyp (d a b c : BitVec 6) (imm : BitVec 16) (cl : Clauses) (s : State) : Host.Outcome State Fault Refusal :=
  run (.cpyp d a b c imm cl) cl {} noPre (fun k aid x st =>
    let n := chanOf imm
    withDesc st k aid x 0xB3 c n [] (fun ws =>
      let len := dbits ws 0 63 32
      let peer := dbits ws 0 9 0
      let dOff := dbits ws 1 39 0
      let sOff := dbits ws 2 39 0
      if dbits ws 0 31 10 ≠ 0 ∨ len % 64 ≠ 0 ∨ dOff % 64 ≠ 0 ∨ sOff % 8 ≠ 0 ∨ peer = Config.packageNumber.toNat then
        .trap (copyTrap n 2 0)
      else match devRange x a.toNat (rR + rG) 0xB3 (x.s b.toNat) len with
        | .error t => .trap t
        | .ok p =>
          match acceptRes st k aid x (.cpyp d a b c imm cl) cl d n
              { cap := x.k a.toNat, off := p, dir := 0, loc := 0
                what := .cpyp len peer (dbits ws 1 63 40) dOff (dbits ws 2 63 40) sOff } with
          | .go e => .go { e with st := e.st.unreplayable x.gang }
          | r => r)) s

/-- The smallest range of bytes, from the offset on, that holds every master read (R273). -/
def masterRange (ms : List (Nat × Nat)) (stride : Nat) : Nat × Nat :=
  let at_ := ms.map (fun m => m.1 * stride + 4 * m.2)
  let lo := at_.foldl min (at_.headD 0)
  (lo, if ms.isEmpty then 0 else at_.foldl max 0 + 4 - lo)

/-- CPYR (R206, R273): the pattern is a snapshot of the generator at issue. -/
def execCpyr (d a b c : BitVec 6) (imm : BitVec 16) (cl : Clauses) (s : State) : Host.Outcome State Fault Refusal :=
  run (.cpyr d a b c imm cl) cl {} noPre (fun k aid x st =>
    let n := chanOf imm
    match genFault x true with
    | some t => .trap t
    | none =>
      withDesc st k aid x 0xB4 c n [] (fun ws =>
        let fmt := dbits ws 0 36 32
        let stride := dbits ws 0 31 0
        let vals := dbits ws 1 47 0
        let scales := dbits ws 2 47 0
        let desc := ws[3]?.getD 0
        let kd := lineNum imm
        if dbits ws 0 63 37 ≠ 0 ∨ dbits ws 1 63 48 ≠ 0 ∨ dbits ws 2 63 48 ≠ 0 ∨ (!tagScaled fmt && !tagBp fmt) = true
            ∨ vals % 64 ≠ 0 ∨ scales % 64 ≠ 0 then .trap (copyTrap n 2 0)
        else match x.gen.pat.limits with
          | some t => .trap t
          | none =>
            if cutDescBad desc x.gen.rows ∨ bits desc 23 0 ≠ 0 then .trap (cutterTrap 1)
            else
              let budget := bits desc 47 36
              let sp := bits desc 55 48 + 1
              let ms := x.gen.pat.cutMajor budget sp
              let (lo, len) := masterRange ms stride
              let (nv, ns) := recastSizes fmt ms.length
              let o := x.s b.toNat
              match devRange x a.toNat rR 0xB4 (o + w64 lo) len with
              | .error t => .trap t
              | .ok p =>
                match devRange x kd rW 0xB4 (w64 vals) nv with
                | .error t => .trap t
                | .ok pv =>
                  match devRange x kd rW 0xB4 (w64 scales) ns with
                  | .error t => .trap t
                  | .ok ps => acceptRes st k aid x (.cpyr d a b c imm cl) cl d n
                      { cap := x.k a.toNat, off := (p : Int) - lo, dir := 2, loc := 0
                        what := .cpyr fmt stride (x.k kd).object pv ps budget sp x.gen })) s

/-- Every row of a CUTB through its capability: the first that fails. -/
def cutRows (x : Act) (kn : Nat) (col0 : Nat) (stride bytes : Nat) (rs : List Nat) : Option Trap :=
  rs.findSome? (fun r => match capCheck (x.k kn) kn rR 0x98 (w64 (col0 + r * stride)) bytes with
    | .error t => some t
    | .ok _ => none)

/-- CUTB (R231). -/
def execCutb (d a b c : BitVec 6) (imm : BitVec 16) (cl : Clauses) (s : State) : Host.Outcome State Fault Refusal :=
  run (.cutb d a b c imm cl) cl {} noPre (fun k aid x st =>
    let n := chanOf imm
    let rn := ringOf imm
    let fb := x.fb
    match genFault x true with
    | some t => .trap t
    | none =>
      if x.cut.isSet = false then .trap (cutterTrap 2)
      else match x.gen.pat.limits with
      | some t => .trap t
      | none =>
      if !plainFmt fb then .trap (formatTrap fb 1)
      else match engineFault st x n [rn] with
        | some t => .trap t
        | none =>
          let w := x.s a.toNat
          let kb := bits w 23 0
          let rows := bits w 47 24 - kb
          let bytes := 64 * (tagWidth fb / 8)
          let stride := bits (x.s c.toNat) 31 0
          let col0 := bits (x.s c.toNat) 63 32
          if stageRows (st.ring x.quad rn) fb < rows then .trap (cutterTrap 4)
          else match capHeld (x.k b.toNat) b.toNat rR with
            | some t => .trap t
            | none =>
              match cutRows x b.toNat col0 stride bytes ((List.range rows).map (kb + ·)) with
              | some t => .trap t
              | none =>
                match localBase st x 0x98 4 0 (rows * bytes) rn with
                | .error t => .trap t
                | .ok base => acceptRes st k aid x (.cutb d a b c imm cl) cl d n
                    { cap := x.k b.toNat, off := (x.k b.toNat).lo + col0, dir := 4, loc := base, ring := some rn
                      what := .rows kb rows bytes stride }) s

/-! ## Waits, status and control (R274..R276) -/

/-- A wait on the engine: a fault that it finds at issue is precise. -/
def waitRes (st : State) (o : Op) (b : Block) : Res :=
  match st.engineWait o.kind with
  | some (_, .error t) => .trap t
  | some (_, .ok ws) => opRes st { o with kind := .fixedTime ws, wide := true }
  | none => .wait b

/-- CPWAIT (R245, R253, R274). -/
def execCpwait (a : BitVec 6) (imm : BitVec 16) (cl : Clauses) (s : State) : Host.Outcome State Fault Refusal :=
  run (.cpwait a imm cl) cl {} noPre (fun _ aid x st =>
    let n := chanOf imm
    match grantFault x [n] with
    | some t => .trap t
    | none =>
      let id : BitVec 32 := (x.s a.toNat).setWidth 32
      let o := mkOp aid x (.cpwait a imm cl) cl true false [] (.cpwait x.quad n id)
      waitRes st o (.engine 0 x.quad n id)) s

/-- The value of a channel register (R246). -/
def chanValue (c : Chan) (reg : Nat) : Word64 :=
  match reg with
  | 0 => w64 ((if c.faulted then 2 ^ 63 else 0) + c.cause.toNat * 2 ^ 48 + c.vcount.toNat * 2 ^ 32 + c.wm.toNat)
  | 1 => w64 (c.fid.toNat * 2 ^ 32 + c.nx.toNat)
  | _ => c.addr.setWidth 64

/-- CPSTAT (R274). -/
def execCpstat (mod : BitVec 4) (d : BitVec 6) (imm : BitVec 16) (cl : Clauses) (s : State) :
    Host.Outcome State Fault Refusal :=
  run (.cpstat mod d imm cl) cl {} noPre (fun _ _ x st =>
    let n := chanOf imm
    match grantFault x [n] with
    | some t => .trap t
    | none => fixedRes st 1 [wS d.toNat (chanValue (st.chan x.quad n) mod.toNat)]) s

/-- What changes the engine of the context's quad waits while a halt has frozen it: no command is accepted, no fill lands and no
event line changes (R340). -/
def thawed (st : State) (c : Nat) (x : Act) (r : Res) : Res := if (st.quad x.quad).halting then .hold (st.idle c) else r

/-- CPCAN (R254): a transfer stops between two lines, so the cancelled ones complete at once. -/
def execCpcan (imm : BitVec 16) (cl : Clauses) (s : State) : Host.Outcome State Fault Refusal :=
  run (.cpcan imm cl) cl {} noPre (fun k aid x st =>
    let n := chanOf imm
    match grantFault x [n] with
    | some t => .trap t
    | none => thawed st k x (opRes ((st.clearChan x.quad n).settleWaits x.quad)
        (mkOp aid x (.cpcan imm cl) cl false false [] (.fixedTime [])))) s

/-- STGWAIT (R46, R249, R275). -/
def execStgwait (d a : BitVec 6) (imm : BitVec 16) (cl : Clauses) (s : State) : Host.Outcome State Fault Refusal :=
  run (.stgwait d a imm cl) cl {} noPre (fun _ aid x st =>
    let n := ringOf imm
    match grantFault x [n] with
    | some t => .trap t
    | none =>
      let fill : BitVec 32 := (x.s a.toNat).setWidth 32
      let o := mkOp aid x (.stgwait d a imm cl) cl true false (dstS d.toNat) (.stgwait x.quad n fill d.toNat)
      waitRes st o (.engine 1 x.quad n fill)) s

/-- STGREL (R46, R249, R275): fills that have ended and wait for the stage land. -/
def execStgrel (imm : BitVec 16) (cl : Clauses) (s : State) : Host.Outcome State Fault Refusal :=
  run (.stgrel imm cl) cl {} noPre (fun k _ x st =>
    let n := ringOf imm
    match grantFault x [n] with
    | some t => .trap t
    | none =>
      let r := st.ring x.quad n
      let freed : Ring := { r with e := r.e + 1 }
      if r.e = r.f then .trap (mkTrap cSTAGE 6)
      else thawed st k x (effectRes ((st.setRing x.quad n (freed.land r.landing.length)).settleWaits x.quad))) s

/-- A ring's bindings are cleared in every activity of the quad's crews, those that are saved among them, whose binding is
compared when they come back (R207). -/
def State.clearBindings (s : State) (q n : Nat) : State :=
  { s with acts := s.acts.map (fun a =>
      let x := a.2
      let crew := tableGet? (s.gang x.gang).crews x.crew
      let here := match crew with | some c => !c.swapped && !c.evacuated | none => true
      if coreQuad x.homeCore = q ∧ here = true ∧ x.msbValid = true ∧ x.msbRing = n then
        (a.1, { x with msb := x.msb &&& ~~~(0x10 : Word64) })
      else a) }

/-- STGSET (R45, R275). A fill that is complete and still waits to land counts as in flight (the model's choice; log 72). -/
def execStgset (a : BitVec 6) (imm : BitVec 16) (cl : Clauses) (s : State) : Host.Outcome State Fault Refusal :=
  run (.stgset a imm cl) cl {} noPre (fun _ _ x st =>
    let n := ringOf imm
    match grantFault x [n] with
    | some t => .trap t
    | none =>
      let v := x.s a.toNat
      let r : Ring := { count := bits v 43 36, size := bits v 35 22, base := bits v 21 0 }
      let old := st.ring x.quad n
      if bits v 63 44 ≠ 0 ∨ r.base % 64 ≠ 0 ∨ x.qsOk r.base (r.stages * r.stageBytes) = false then .trap (copyTrap n 2 0)
      else if old.commanded ≠ old.f then .trap (copyTrap n 5 0)
      else effectRes ((st.setRing x.quad n r).clearBindings x.quad n)) s

/-- EVWAIT (R276): the line is not cleared. -/
def execEvwait (imm : BitVec 16) (cl : Clauses) (s : State) : Host.Outcome State Fault Refusal :=
  run (.evwait imm cl) cl {} noPre (fun _ aid x st =>
    let n := lineNum imm
    match grantFault x [n] with
    | some t => .trap t
    | none =>
      let o := mkOp aid x (.evwait imm cl) cl true false [] (.evwait x.quad n)
      waitRes st o (.engine 2 x.quad n 0)) s

/-- EVCLR (R276). -/
def execEvclr (imm : BitVec 16) (cl : Clauses) (s : State) : Host.Outcome State Fault Refusal :=
  run (.evclr imm cl) cl {} noPre (fun k _ x st =>
    let n := lineNum imm
    match grantFault x [n] with
    | some t => .trap t
    | none => thawed st k x (effectRes (st.setLine x.quad n {}))) s

/-! ## MOULD and TMARK (R277) -/

/-- MOULD.stat's value. -/
def mouldValue (st : State) (c : Nat) (x : Act) : Word64 :=
  let g := st.gang x.gang
  if g.lrec.bsp then
    let fine := !g.badCores.contains c && !g.badQuads.contains (coreQuad c)
    w64 ((if fine then 2 ^ 32 else 0) + (st.quad (coreQuad c)).mould.length % 2 ^ 16 * 2 ^ 16
      + (st.core c).mould.length % 2 ^ 16)
  else 0

/-- MOULD (R277, R331). -/
def execMould (mod : BitVec 4) (d : BitVec 6) (cl : Clauses) (s : State) : Host.Outcome State Fault Refusal :=
  run (.mould mod d cl) cl {} noPre (fun c aid x st =>
    let i : Instr := .mould mod d cl
    if mod = 1 then opRes (st.unreplayable x.gang) (mkOp aid x i cl false false [] (.fixedTime []))
    else opRes st (mkOp aid x i cl false false (dstS d.toNat)
      (.fixedTime (if d = 0 then [] else [wS d.toNat (mouldValue st c x)])))) s

/-- Marks are traced for a slot (R339). -/
def State.traced (s : State) (c slot : Nat) : Bool :=
  !isArmature c && (s.quad (coreQuad c)).qdctl.getLsbD (32 + 8 * coreMember c + slot % 8)

/-- TMARK (R277, R343). -/
def execTmark (a : BitVec 6) (imm : BitVec 16) (cl : Clauses) (s : State) : Host.Outcome State Fault Refusal :=
  run (.tmark a imm cl) cl {} noPre (fun c _ x st =>
    effectRes (if st.traced c x.slot then st.markRecord x imm.toNat (x.s a.toNat) x.pc else st)) s

end Sys2Proof.Machine
end

