-- ==== Sys2Proof/Machine/EvCore.lean ====
section
/-! DEFINITION. Events of cores and contexts: units that finish, the port, traps and interrupts (R25, R44, R113, R148,
R200, R208, R258, R295, R298). An event that is not enabled leaves the state as it is. -/
namespace Sys2Proof.Machine

/-- No earlier scratchpad access of the activity is outstanding (R44). -/
def State.scratchTurn (s : State) (o : Op) : Bool :=
  !(s.ops.any (fun x => x.2.act == o.act && decide (x.2.num < o.num) && x.2.kind.onScratch))

/-- FIXED_LATENCY_WRITEBACK (R99): the results of the context that holds the port which are due at the core's cycle are
written. -/
def execFixedLatencyWriteback (core : Nat) (s : State) : Host.Outcome State Fault Refusal :=
  match s.portAct core with
  | some aid => .next (s.setAct aid ((s.act aid).landDue (s.core core).cycle))
  | none => .next s

/-- DIVIDE_COMPLETE (R113). -/
def execDivideComplete (core : Nat) (s : State) : Host.Outcome State Fault Refusal :=
  match s.ops.find? (fun x => x.2.kind.divOn core) with
  | some (oid, o) =>
    match o.kind with
    | .div _ d x => .next (if s.canLand o then s.clearTag oid o (if d = 0 then [] else [wS d x]) else s)
    | _ => .next s
  | none => .next s

/-- The oldest word of a core's matrix queue may be performed: its registers and, for a scratchpad word, its turn; an image
from device memory is whole. -/
def State.matReady (s : State) (o : Op) (w : MatWord) : Bool :=
  s.canLand o && (!o.kind.onScratch || s.scratchTurn o) && (match w with
    | .restDev _ image => decide (image.length = imageBytes / 64)
    | _ => true)

/-- MATRIX_UNIT_WORD_DONE (R208). -/
def execMatrixUnitWordDone (core : Nat) (s : State) : Host.Outcome State Fault Refusal :=
  match (s.core core).mqueue with
  | [] => .next s
  | oid :: _ =>
    match s.op? oid with
    | none => .next s
    | some o =>
      match o.kind with
      | .matrix _ w => .next (if s.matReady o w then s.matPerform core oid o w else s)
      | _ => .next s

/-- A register write that a load of the quad's own storage makes, poisoned or not; the unit records what it read
(R332). -/
def State.ownLoad (s : State) (g : Nat) (p : Option Poison) (logged : Bool) : State :=
  match p with
  | some q => s.noteUncorr g q logged
  | none => s

/-- ON_QUAD_ACCESS_DONE (R44): a tagged access of the scratchpad or of local memory is performed. -/
def execOnQuadAccessDone (op : Nat) (s : State) : Host.Outcome State Fault Refusal :=
  match s.op? op with
  | none => .next s
  | some o =>
    let g := (s.act o.act).gang
    if !s.canLand o then .next s
    else match o.kind with
      | .ldq q off n sx d =>
        if !s.scratchTurn o then .next s
        else
          let p := s.qsPoisonOf q off n
          let w : RegWrite := { wS d (extendLoad sx (s.qsRead q off n)) with poison := p }
          .next ((s.ownLoad g p (s.qsLogged g q off)).clearTag op o (if d = 0 then [] else [w]))
      | .stq q off bs mask =>
        if !s.scratchTurn o then .next s
        else .next (((s.boundOf o).qsWrite g q off bs mask (bs.length == 64)).clearTag op o [])
      | .vldq q off tag bw d =>
        if !s.scratchTurn o then .next s
        else
          let p := s.qsPoisonOf q off 64
          let w : RegWrite := { wV d { data := bytesVec (s.qsRead q off 64), tag := tag, bw := bw } with poison := p }
          .next ((s.ownLoad g p (s.qsLogged g q off)).clearTag op o [w])
      | .gather c offs tag d =>
        let bad := offs.filterMap (fun x => s.lmPoisonOf c x.2 4)
        let p := bad.head?
        let es := (List.range 16).map (fun i => match offs.find? (fun x => x.1 == i) with
          | some x => bytesToNat (s.lmRead c x.2 4)
          | none => 0)
        let w : RegWrite := { wV d { data := vecOf 32 es, tag := tag } with poison := p }
        let s := bad.foldl (fun (s : State) q => s.noteUncorr g q (s.lmLogged g c q.addr.toNat)) s
        .next (s.clearTag op o [w])
      | .scatter c items =>
        let s := items.foldl (fun (s : State) x =>
          let bs := natToBytes 4 x.2.toNat
          s.lmWrite g c x.1 bs (bs.map (fun _ => true)) false) s
        .next (s.clearTag op o [])
      | _ => .next s

/-- GENERATOR_CUTTER_DONE (R200). -/
def execGeneratorCutterDone (op : Nat) (s : State) : Host.Outcome State Fault Refusal :=
  match s.op? op with
  | none => .next s
  | some o =>
    match o.kind with
    | .gen _ ws => .next (if s.canLand o then s.clearTag op o ws else s)
    | _ => .next s

/-- XLUG's copy: from the partner's luggage into the activity's own (R258), poison with it; a poisoned line stays so
(R155; log 46). -/
def State.luggageCopy (s : State) (g core dst src len : Nat) : State :=
  let bs := s.lmRead core src len
  let bad := s.badLocal core src len
  let s := s.lmWrite g core dst bs (bs.map (fun _ => true)) false
  s.markBad core dst bad

/-- FIXED_TIME_TAG_CLEAR (R258): a result ready a fixed time after issue is written; a wait on the copy engine whose
condition held at issue ends the same way. -/
def execFixedTimeTagClear (op : Nat) (s : State) : Host.Outcome State Fault Refusal :=
  match s.op? op with
  | none => .next s
  | some o =>
    match o.kind with
    | .fixedTime ws => .next (if s.canLand o then s.clearTag op o ws else s)
    | .xlug core dst src len => .next ((s.luggageCopy (s.act o.act).gang core dst src len).clearTag op o [])
    | _ => .next (s.endWait op)

/-- CONTEXT_SWITCH (R23, R25): the port passes from a context that gives it up. -/
def execContextSwitch (core : Nat) (s : State) : Host.Outcome State Fault Refusal :=
  match (s.core core).holder with
  | none => .next s
  | some h => .next (if s.givesUp core h then s.switchPort core else s)

/-- PORT_RESUME (R25): an idle port passes to a slot that has become ready. -/
def execPortResume (core : Nat) (s : State) : Host.Outcome State Fault Refusal :=
  match (s.core core).holder with
  | some _ => .next s
  | none =>
    match s.ringFind core (s.core core).last 8 with
    | some n => .next (s.passPort core (some n))
    | none => .next s

/-- TRAP_ENTRY (R295): none while the debug module holds the context, which then keeps its trap for the resume (R304, R340). -/
def execTrapEntry (act : Nat) (s : State) : Host.Outcome State Fault Refusal :=
  let a := s.act act
  match a.duePend with
  | none => .next s
  | some t =>
    if a.run == .inService && s.quiet act && !(s.haltedCore a.core && !a.tip) then
      .next ((s.setAct act { a with trapPend := none }).enterTrap act t)
    else .next s

/-- TIMER_MATCH (R298). -/
def execTimerMatch (act : Nat) (s : State) : Host.Outcome State Fault Refusal :=
  let a := s.act act
  if (tableGet? s.acts act).isSome ∧ s.timerDue a = true then .next (s.setAct act { a with timerPend := true }) else .next s

/-- INTERRUPT_TAKEN (R298): between two issued words; it waits for the tags as every trap does. One that comes while EXIT waits for
its tags is taken, with EXIT as the resume word (the model's choice; log 73). -/
def execInterruptTaken (act : Nat) (s : State) : Host.Outcome State Fault Refusal :=
  let a := s.act act
  match s.interruptOf a, a.trapPend with
  | some t, none =>
    if a.run == .inService && !s.haltedCore a.core then .next (s.takeTrap act t) else .next s
  | _, _ => .next s

/-- TIMECMP_WRITE (R298). -/
def execTimecmpWrite (act : Nat) (value : BitVec 64) (s : State) : Host.Outcome State Fault Refusal :=
  if (tableGet? s.acts act).isSome then .next (s.setAct act ((s.act act).setTimecmp value)) else .next s

/-- EXTPEND_WRITE (R298). -/
def execExtpendWrite (act : Nat) (value : BitVec 64) (s : State) : Host.Outcome State Fault Refusal :=
  if (tableGet? s.acts act).isSome then .next (s.setAct act ((s.act act).setExtpend value)) else .next s

/-- Posting a machine-check record: the worse grade is kept, the first on a tie (R148). -/
def postCheck (old new : Word64) : Word64 :=
  let new := new ||| 0x8000000000000000
  if old.getLsbD 63 ∧ bits new 62 61 ≤ bits old 62 61 then old else new

/-- A MACHINE CHECK of a core (R148): the record is posted and the context that holds the port takes MCHECK. An error in an
armature core's instruction memory asserts the cross-alarm (R318, R359). -/
def State.machineCheck (s : State) (core : Nat) (record : Word64) : State :=
  let s := s.setCore core { s.core core with mcstat := postCheck (s.core core).mcstat record }
  let s := if isArmature core then s
    else
      let d := s.die (coreDie core)
      s.setDie (coreDie core) { d with ueCount := d.ueCount + 1 }
  let s := match s.portAct core with
    | some aid => s.takeTrap aid
        { cause := cMCHECK, detail := (s.core core).mcstat &&& 0x00FFFFFFFFFFFFFF, addr := 0, word := (s.act aid).pc }
    | none => s
  if isArmature core ∧ bits record 60 56 = 11 then s.crossAlarm core 0 else s

/-- MACHINE_CHECK_ERROR (R148). -/
def execMachineCheckError (core : Nat) (record : BitVec 64) (s : State) : Host.Outcome State Fault Refusal :=
  .next (if 2050 ≤ core then s else s.machineCheck core record)

end Sys2Proof.Machine
end

