-- ==== Sys2Proof/Machine/EvMeet.lean ====
section
/-! DEFINITION. Events of meetings: arrivals, pairs, timeouts, withdrawals and landings (R234..R243). -/
namespace Sys2Proof.Machine

/-- An operation is answered: its results are written and its tag clears; where an earlier write of the same register is
outstanding the answer is held until that has been written (R105). -/
def State.answerOp (s : State) (oid : Nat) (o : Op) (ws : List RegWrite) : State :=
  if s.canLand o then s.clearTag oid o ws else { s with ops := tableSet s.ops oid { o with kind := .fixedTime ws } }

/-- A status word as the writes of an operation. -/
def statusWrites (o : Op) (x : Word64) : List RegWrite := o.dsts.map (fun r => { reg := r, val := .w x })

/-- MEET's result (R239). -/
def meetStatus (partner role status : Nat) : Word64 := w64 (partner * 2 ^ 32 + role * 2 ^ 8 + status)

/-- A MEET that is still at a home completes without meeting: the party never left (R234, R242). -/
def State.completeMeet (s : State) (aid status : Nat) : State :=
  let a := s.act aid
  match a.party with
  | none => s
  | some p =>
    let s := s.setAct aid { a.setMg 0 with party := none }
    match s.op? p.op with
    | some o => s.answerOp p.op o (statusWrites o (meetStatus 0 0 status))
    | none => s

/-- An arrival that comes later in its tick than the last one served (R234): arrivals before withdrawals, in increasing
origin core and slot. -/
def Quad.serves (q : Quad) (tick core slot : Nat) : Bool :=
  q.lastWithdraw != some tick && (match q.lastArrival with
    | some (t, c, n) => decide (t < tick) || decide (c < core) || (c == core && decide (n < slot))
    | none => true)

/-- An entry's key. -/
def MeetEntry.under (e : MeetEntry) (gang : Nat) (key sid : Word64) : Bool :=
  e.gang == gang && e.key == key && e.sid == sid

/-- Every MEET of a gang that stands at a home completes ABANDONED, as the gang is being ended (R242); one still on its way
does so when it arrives. -/
def State.abandonMeets (s : State) (gid : Nat) : State :=
  let mine := s.acts.filter (fun x => x.2.gang == gid && x.2.mg == 2)
  let s := { s with quads := s.quads.map (fun (x : Nat × Quad) =>
    (x.1, { x.2 with meet := x.2.meet.filter (fun e => e.gang != gid) })) }
  mine.foldl (fun (s : State) x => s.completeMeet x.1 3) s

/-- MEET_ARRIVAL (R234): the home serves it as a second arrival, a first one, or FULL. -/
def execMeetArrival (act : Nat) (s : State) : Host.Outcome State Fault Refusal :=
  let a := s.act act
  match a.party with
  | none => .next s
  | some p =>
    let q := s.meetHome a p
    if a.mg ≠ 1 ∨ (s.quad q).serves s.tick a.homeCore a.homeSlot = false then .next s
    else
      let (order, s) := s.take
      let arr : MeetArr :=
        { act := act, tick := s.tick, order := order
          deadline := if p.timeout = 0 then none else some (s.tick + p.timeout.toNat) }
      let s := s.setQuad q { s.quad q with lastArrival := some (s.tick, a.homeCore, a.homeSlot) }
      let table := (s.quad q).meet
      match table.find? (fun e => e.under a.gang p.key p.sid && e.second.isNone) with
      | some e =>
        let e' : MeetEntry := { e with second := some arr, paired := order }
        let s := s.setAct act (a.setMg 2)
        let s := s.setQuad q { s.quad q with meet := table.map (fun z => if z = e then e' else z) }
        .next (s.tryPair q e')
      | none =>
        if 64 ≤ table.length then .next (s.completeMeet act 2)
        else
          let e : MeetEntry := { gang := a.gang, key := p.key, sid := p.sid, first := arr }
          .next ((s.setAct act (a.setMg 2)).setQuad q { s.quad q with meet := table ++ [e] })

/-- MEETING_CORE_CHOSEN (R235): a QUEUED pair is given a meeting core. -/
def execMeetingCoreChosen (quad : Nat) (entry : Nat) (s : State) : Host.Outcome State Fault Refusal :=
  match (s.quad quad).meet[entry]? with
  | some e => .next (s.tryPair quad e)
  | none => .next s

/-- The entry of a meeting table that holds a party. -/
def entryOf (l : List MeetEntry) (aid : Nat) : Option MeetEntry :=
  l.find? (fun e => e.first.act == aid || (match e.second with | some b => b.act == aid | none => false))

/-- The home at which a party is parked, with its entry. -/
def State.meetEntry? (s : State) (aid : Nat) : Option (Nat × MeetEntry) :=
  s.quads.findSome? (fun x => (entryOf x.2.meet aid).map (x.1, ·))

/-- A party is alone again: it keeps its order and deadline, and pairs at once with another that waits under its key,
the earlier arrival first (R234). -/
def State.backToWaiting (s : State) (q : Nat) (e : MeetEntry) (arr : MeetArr) : State :=
  let table := (s.quad q).meet
  match table.find? (fun z => z.under e.gang e.key e.sid && z.second.isNone) with
  | some w =>
    let (n, s) := s.take
    let (x, y) := if arr.order < w.first.order then (arr, w.first) else (w.first, arr)
    let w' : MeetEntry := { w with first := x, second := some y, paired := n }
    (s.setQuad q { s.quad q with meet := table.map (fun z => if z = w then w' else z) }).tryPair q w'
  | none => s.setQuad q { s.quad q with meet := table ++ [{ e with first := arr, second := none }] }

/-- A party leaves its entry; its partner, if it had one, waits again. -/
def State.leaveHome (s : State) (q aid : Nat) (e : MeetEntry) : State :=
  let s := s.setQuad q { s.quad q with meet := (s.quad q).meet.filter (fun z => z != e) }
  match e.second with
  | none => s
  | some b => s.backToWaiting q e (if e.first.act = aid then b else e.first)

/-- A deadline has passed at a tick. -/
def MeetArr.expired (a : MeetArr) (tick : Nat) : Bool :=
  match a.deadline with
  | some d => decide (d ≤ tick)
  | none => false

/-- MEET_TIMEOUT (R242): after the arrivals of its tick; a pair whose deadlines both pass gets NOSHOW twice. -/
def execMeetTimeout (act : Nat) (s : State) : Host.Outcome State Fault Refusal :=
  match s.meetEntry? act with
  | none => .next s
  | some (q, e) =>
    let mine := if e.first.act = act then some e.first else e.second
    let other := if e.first.act = act then e.second else some e.first
    match mine with
    | none => .next s
    | some x =>
      if x.expired s.tick = false then .next s
      else
        let s := s.setQuad q { s.quad q with lastWithdraw := some s.tick }
        match other with
        | some y =>
          if y.expired s.tick then
            let s := s.setQuad q { s.quad q with meet := (s.quad q).meet.filter (fun z => z != e) }
            .next ((s.completeMeet act 1).completeMeet y.act 1)
          else .next ((s.leaveHome q act e).completeMeet act 1)
        | none => .next ((s.leaveHome q act e).completeMeet act 1)

/-- The parties of an entry that stay when those of a list are withdrawn. -/
def MeetEntry.staying (e : MeetEntry) (l : List Nat) : List MeetArr :=
  (e.first :: e.second.toList).filter (fun x => !l.contains x.act)

/-- Withdrawals at a home: the entries of the parties go, and a partner that stays waits again (R243). -/
def State.withdrawHome (s : State) (q : Nat) (l : List Nat) : State :=
  let table := (s.quad q).meet
  let gone := table.filter (fun e => (e.staying l).length != 1 + e.second.toList.length)
  if gone.isEmpty then s
  else
    let s := s.setQuad q { s.quad q with
      meet := table.filter (fun e => !gone.contains e), lastWithdraw := some s.tick }
    gone.foldl (fun (s : State) e => (e.staying l).foldl (fun (s : State) x => s.backToWaiting q e x) s) s

/-- A MEET is treated as not issued (R243). -/
def State.unMeet (s : State) (aid : Nat) : State :=
  let a := s.act aid
  match a.party with
  | none => s
  | some p =>
    ({ s with ops := tableErase s.ops p.op }).setAct aid { (a.setMg 0).relive p.freed with
      party := none, pc := p.pc, rdq0 := p.q0, rdq1 := p.q1, lastOp := none, lk := p.lk, lc := p.lc
      words := if a.lastOp == some p.op then a.words - 1 else a.words }

/-- Parked parties are withdrawn together, so that none of them is paired with another meanwhile (R243). -/
def State.withdrawAll (s : State) (l : List Nat) : State :=
  let mine := l.filter (fun a => (s.act a).mg == 2)
  let s := s.quads.foldl (fun (s : State) x => s.withdrawHome x.1 mine) s
  mine.foldl State.unMeet s

/-- A withdrawal of a parked party. -/
def State.withdraw (s : State) (aid : Nat) : State := s.withdrawAll [aid]

/-- MEET_WITHDRAWAL (R243): it comes after the arrivals of its tick. -/
def execMeetWithdrawal (act : Nat) (s : State) : Host.Outcome State Fault Refusal := .next (s.withdraw act)

/-- A party lands at its meeting core: its luggage stands at the base of its visitor half (R42, R239). A line there that holds
poison keeps it, since luggage is none of the writes that replace a line (R155; log 46). -/
def State.landVisitor (s : State) (aid core slot : Nat) : State :=
  let a := s.act aid
  match a.party with
  | none => s
  | some p =>
    let s := s.lmWrite a.gang core (visitorBase slot) p.bytes (p.bytes.map (fun _ => true)) false
    let s := s.markBad core (visitorBase slot) p.badLines
    let s := s.setCore core { s.core core with slots := tableSet (s.core core).slots slot aid }
    s.setAct aid { (s.act aid).setMg 4 with
      core := core, slot := slot, party := some { p with landed := true, bytes := [], badLines := [] } }

/-- MET is written to a party (R239). -/
def State.writeMet (s : State) (aid : Nat) : State :=
  match (s.act aid).party with
  | none => s
  | some p =>
    match s.op? p.op with
    | some o => s.answerOp p.op o (statusWrites o (meetStatus p.partnerCore p.role 0))
    | none => s

/-- MEET_LANDED (R239): both parties have landed; MET is written and the L1 read cache is invalidated. -/
def execMeetLanded (core : Nat) (s : State) : Host.Outcome State Fault Refusal :=
  match (s.core core).visitors with
  | [x, y] =>
    if (s.act x).mg = 3 ∧ (s.act y).mg = 3 ∧ x ≠ y then
      let s := (s.landVisitor x core 6).landVisitor y core 7
      .next (((s.l1Clear core).writeMet x).writeMet y)
    else .next s
  | _ => .next s

/-- A party that travels home lands: the luggage is written back, its origin slot takes it, and PART's tag clears or the
activity ends (R33, R241). -/
def State.landHome (s : State) (aid : Nat) : State :=
  let a := s.act aid
  match a.party with
  | none => s
  | some p =>
    let s := if p.noWriteBack then s
      else (s.lmWrite a.gang a.homeCore p.l0 p.bytes (p.bytes.map (fun _ => true)) false).markBad a.homeCore p.l0 p.badLines
    let s := s.l1Clear a.homeCore
    let home := s.core a.homeCore
    let s := s.setCore a.homeCore { home with
      held := tableErase home.held a.homeSlot, slots := tableSet home.slots a.homeSlot aid }
    let s := s.setAct aid { a.setMg 0 with core := a.homeCore, slot := a.homeSlot, party := none }
    if p.exiting then s.endActivity aid
    else match p.partOp with
      | some oid => (match s.op? oid with | some o => s.answerOp oid o [] | none => s)
      | none => s

/-- PART_LANDED (R241). -/
def execPartLanded (act : Nat) (s : State) : Host.Outcome State Fault Refusal :=
  if (s.act act).mg = 5 then .next (s.landHome act) else .next s

end Sys2Proof.Machine
end

