-- ==== Sys2Proof/Machine/SaveArea.lean ====
section
/-! DEFINITION. The save area of a context: backing out its waits, the layout, writing it, reading it, and resuming
(R219, R261, R298..R301, R329). -/
namespace Sys2Proof.Machine

/-! ## Objects as the armature reaches them -/

/-- Writing bytes of an object line by line; none when a byte of it has no translation. Poison of its lines stays (R155; log
46). -/
def State.objWrite (s : State) (part obj off : Nat) (bs : List Byte) : Option State :=
  (List.range (lineCount off bs.length)).foldl (fun (s : Option State) i =>
    match s with
    | none => none
    | some s =>
      let (lo, n) := lineSpan off bs.length i
      match s.objAddr part obj (off + lo) n true with
      | none => none
      | some p =>
        let l := (bs.drop lo).take n
        some ((s.applyLine (p / 64)).homeWrite none p l (l.map (fun _ => true)) false false false 0)) (some s)

/-- Reading bytes of an object. -/
def State.objRead (s : State) (part obj off len : Nat) : Option (List Byte) :=
  (List.range (lineCount off len)).foldl (fun (r : Option (List Byte)) i =>
    match r with
    | none => none
    | some l =>
      let (lo, n) := lineSpan off len i
      match s.objAddr part obj (off + lo) n false with
      | none => none
      | some p => some (l ++ s.memRead p n)) (some [])

/-- A byte of an object lies in a line that holds poison. -/
def State.objBad (s : State) (part obj off len : Nat) : Bool :=
  (List.range (lineCount off len)).any (fun i =>
    let (lo, n) := lineSpan off len i
    match s.objAddr part obj (off + lo) n false with
    | none => false
    | some p => poisoned s.memPoison p n)

/-- Writing several runs of an object. -/
def State.objWrites (s : State) (part obj off : Nat) (ws : List (Nat × List Byte)) : Option State :=
  ws.foldl (fun (s : Option State) w =>
    match s with
    | none => none
    | some s => s.objWrite part obj (off + w.1) w.2) (some s)

/-- The runtime's object and the save area's offset in it, from the trap bank (R294). -/
def Act.saveObj (a : Act) : Nat := (sparseGet {} a.bank.k 15).object
def Act.saveOff (a : Act) : Nat := (sparseGet 0 a.bank.s 63).toNat

/-! ## Backing out waits (R299, R300) -/

/-- Every restartable wait leaves its tag: the last word issued is taken back, any other wait goes into the replay slot of
its tag and keeps its place in program order (R286). -/
def State.backOut (s : State) (aid : Nat) : State :=
  let a := s.act aid
  let waits := s.ops.filter (fun x => x.2.act == aid && x.2.restarts)
  let (a, waits') : Act × Table Op := match a.lastOp with
    | some oid => if waits.any (fun x => x.1 == oid) then (a.undoIssue, waits.filter (fun x => x.1 != oid)) else (a, waits)
    | none => (a, waits)
  let slots := waits'.foldl (fun (t : Table Replay) x => tableSet t x.2.tag x.2.replay) a.replay
  let nums := waits'.foldl (fun (t : Table Nat) x => tableSet t x.2.tag x.2.num) a.backed
  let gone := waits.map (·.1)
  let s := { s with
    ops := s.ops.filter (fun x => !gone.contains x.1)
    reqs := s.reqs.filter (fun x => !gone.contains x.2.op) }
  s.setAct aid { a with replay := slots, backed := nums, lastOp := none }

/-! ## The layout (R301) -/

/-- A bit mask of the registers of a file that a test holds of. -/
def fileMask (n : Nat) (f : Nat → Bool) : Nat :=
  ((List.range n).map (fun i => if f i then 2 ^ i else 0)).foldl (· + ·) 0

/-- The bytes of a vector register's entry: data, tag, block word. -/
def packV (v : VReg) : List Byte := vecBytes v.data ++ natToBytes 8 (v.t + v.bw.toNat * 2 ^ 32)

/-- The packed live registers, in the order k, v, s, p, b. -/
def packRegs (g : Regs) : List Byte :=
  let w (x : Word64) : List Byte := wordBytes64 8 x
  let idx (n : Nat) (f : RegFile) : List Nat := (List.range n).filter (fun i => g.live ⟨f, i⟩ && !(i == 0 && (f == .s || f == .p)))
  (idx 16 .k).flatMap (fun i => natToBytes 16 (sparseGet {} g.k i).bits.toNat)
    ++ (idx 32 .v).flatMap (fun i => packV (sparseGet {} g.v i))
    ++ (idx 64 .s).flatMap (fun i => w (sparseGet 0 g.s i))
    ++ (idx 8 .p).flatMap (fun i => w (sparseGet 0 g.p i))
    ++ (idx 8 .b).flatMap (fun i => w ((sparseGet 0 g.b i).setWidth 64))

/-- The words of a save area before the packed registers: (offset, word). -/
def saveWords (a : Act) : List (Nat × Word64) :=
  let g := a.regs
  let t := a.trap
  let pz (f : RegFile) (i : Nat) : Bool := (tableGet? g.poison (regKey ⟨f, i⟩)).isSome
  let (kind, num, sid) := match a.held with
    | some h => if a.ap then (h.kind, h.num, h.sid) else (0, 0, 0)
    | none => (0, 0, 0)
  let leg4 : Word64 := match a.met with | some _ => w64 (a.core * 2 ^ 32 + a.slot * 2 ^ 8) | none => 0
  let bankS (i : Nat) : Word64 := sparseGet 0 a.bank.s (56 + i)
  let bankK (i : Nat) : KReg := sparseGet ({} : KReg) a.bank.k (14 + i)
  [ (0x000, g.liveS &&& ~~~(1 : Word64))
  , (0x008, w64 (g.liveV.toNat + (g.liveP.toNat / 2 * 2) * 2 ^ 32 + g.liveB.toNat * 2 ^ 40 + g.liveK.toNat * 2 ^ 48))
  , (0x010, w64 (fileMask 64 (pz .s)))
  , (0x018, w64 (fileMask 32 (pz .v) + fileMask 16 (pz .k) * 2 ^ 32
      + fileMask 16 (fun i => (sparseGet ({} : KReg) g.k i).valid) * 2 ^ 48))
  , (0x020, w64 (a.pc.toNat + a.lk.toNat * 2 ^ 32)), (0x028, a.rdq0.toBits), (0x030, a.rdq1.toBits), (0x038, a.asw)
  , (0x040, a.code), (0x048, a.lc), (0x050, a.srstate), (0x058, t.timecmp)
  , (0x060, w64 (bits t.extpend 15 0 + kind % 8 * 2 ^ 16 + num % 2 ^ 32 * 2 ^ 32)), (0x068, t.stvec), (0x070, leg4)
  , (0x078, a.msh), (0x080, a.mfm), (0x088, a.msb), (0x090, a.cut.desc)
  , (0x098, w64 ((if a.cut.isSet then 2 ^ 63 else 0) + a.cut.kcur % 2 ^ 24)), (0x0A0, a.cut.vcur), (0x0A8, t.mtvec) ]
  ++ (List.range 16).map (fun n => (0x0B0 + 8 * n, w64 ((a.bound n).lo.toNat + (a.bound n).hi.toNat * 2 ^ 32)))
  ++ (List.range 7).flatMap (fun n =>
      let r := (tableGet? a.replay (n + 1)).getD {}
      [(0x140 + 32 * n, r.w0), (0x148 + 32 * n, r.w1), (0x150 + 32 * n, r.w2), (0x158 + 32 * n, r.w3)])
  ++ (List.range 8).map (fun i => (0x220 + 8 * i, bankS i))
  ++ (List.range 2).flatMap (fun i =>
      [(0x260 + 16 * i, (bankK i).bits.extractLsb' 0 64), (0x268 + 16 * i, (bankK i).bits.extractLsb' 64 64)])
  ++ [ (0x280, w64 (fileMask 8 (fun i => a.bank.liveS.getLsbD (56 + i))
        + fileMask 2 (fun i => a.bank.liveK.getLsbD (14 + i)) * 2 ^ 8
        + fileMask 2 (fun i => (bankK i).valid) * 2 ^ 10))
     , (0x288, t.tcause), (0x290, t.tword), (0x298, t.tdetail), (0x2A0, t.taddr), (0x2A8, t.svpc), (0x2B0, t.svq0)
     , (0x2B8, t.svq1), (0x2C0, t.svasw), (0x2C8, t.svcode)
     , (0x2D0, w64 ((if a.gen.loaded then 1 else 0) + (if a.gen.inv then 2 else 0)))
     , (0x2D8, a.gen.extent.setWidth 64), (0x2E0, a.gen.cursor), (0x388, sid) ]

/-- What is written to a save area: (offset, bytes). Only live registers are packed, and prog is written only when a
program is loaded. -/
def saveRuns (a : Act) : List (Nat × List Byte) :=
  (saveWords a).map (fun x => (x.1, wordBytes64 8 x.2))
    ++ [(0x130, (List.range 16).map (fun n =>
        BitVec.ofNat 8 ((a.bound n).mode.toNat + (if (a.bound n).sticky then 4 else 0))))]
    ++ [(0x2E8, (List.range 8).flatMap (fun n => natToBytes 4 (sparseGet 0 a.gen.pp n).toNat))]
    ++ (if a.gen.loaded then [(0x308, (List.range 32).flatMap (fun n => natToBytes 4 (a.gen.prog[n]?.getD 0).toNat))]
        else [])
    ++ [(0x390, packRegs a.regs)]

/-- The image of the tile behind mN as MSAVE writes it (R219). -/
def State.actTile (s : State) (a : Act) (n : Nat) : List Byte :=
  let t := s.tile a.homeCore (a.tiles[n]?.getD 0)
  tileImage t t.i32

/-- The tiles of a save, tile n at 4,096 + 16,448·n. -/
def State.tileRuns (s : State) (a : Act) : List (Nat × List Byte) :=
  (List.range a.tiles.length).map (fun n => (4096 + imageBytes * n, s.actTile a n))

/-- Writing a context's save area and, with it, its tiles. -/
def State.writeSave (s : State) (aid : Nat) (tiles : Bool) : Option State :=
  let a := s.act aid
  s.objWrites a.part a.saveObj a.saveOff (saveRuns a ++ (if tiles then s.tileRuns a else []))

/-- A register mould stands after the tiles of the save area (R329). -/
def Act.mouldOff (a : Act) : Nat := a.saveOff + 4096 + imageBytes * a.tiles.length

/-! ## Reading it back -/

/-- The packed registers read back: the registers that are live, each from its place. -/
structure Unpack where
  off : Nat
  regs : Regs
deriving DecidableEq, Repr

/-- One register read back. A vector entry with a reserved tag or block word, which only a write of the area can leave, comes
back as RAW (R65; log 37). -/
def unpackStep (bs : List Byte) (valid : Nat) (u : Unpack) (r : RegName) : Unpack :=
  let size := match r.file with | .k => 16 | .v => 72 | _ => 8
  let l := (bs.drop u.off).take size
  let val : RegVal := match r.file with
    | .k => .k { bits := BitVec.ofNat 128 (bytesToNat l), valid := valid / 2 ^ r.num % 2 == 1 }
    | .v =>
      let x := bytesToNat (l.drop 64)
      let v : VReg := { data := bytesVec (l.take 64), tag := BitVec.ofNat 5 x, bw := BitVec.ofNat 32 (x / 2 ^ 32) }
      .v (if v.legal then v else { data := v.data })
    | _ => .w (bytesWord l)
  { off := u.off + size, regs := u.regs.put { reg := r, val := val } }

/-- The registers of a save area. Poison comes back with what the context remembers of it, else with free values
(log 3). -/
def unpackRegs (bs : List Byte) (old : Table Poison) (free : Nat) : Regs :=
  let w (o : Nat) : Word64 := bytesWord ((bs.drop o).take 8)
  let liveS := w 0
  let x := w 8
  let names (n : Nat) (f : RegFile) (m : Nat) : List RegName :=
    ((List.range n).filter (fun i => m / 2 ^ i % 2 == 1)).map (⟨f, ·⟩)
  let order := names 16 .k (bits x 63 48) ++ names 32 .v (bits x 31 0) ++ names 64 .s (liveS.toNat / 2 * 2)
    ++ names 8 .p (bits x 39 32 / 2 * 2) ++ names 8 .b (bits x 47 40)
  let g := (order.foldl (unpackStep (bs.drop 0x390) (bits (w 0x18) 63 48)) { off := 0, regs := {} }).regs
  let bad := names 64 .s (w 0x10).toNat ++ names 32 .v (bits (w 0x18) 31 0) ++ names 16 .k (bits (w 0x18) 47 32)
  { g with poison := bad.foldl (fun (t : Table Poison) r =>
      tableSet t (regKey r) ((tableGet? old (regKey r)).getD
        { detail := Config.freeWord free, addr := Config.freeWord (free + 1) })) [] }

/-- The trap bank of a save area. -/
def unpackBank (bs : List Byte) (old : Regs) : Regs :=
  let w (o : Nat) : Word64 := bytesWord ((bs.drop o).take 8)
  let m := w 0x280
  let g := (List.range 8).foldl (fun (g : Regs) i =>
    ({ g with s := sparseSet 0 g.s (56 + i) (w (0x220 + 8 * i)) } : Regs).setLive (sreg (56 + i)) (m.getLsbD i)) old
  (List.range 2).foldl (fun (g : Regs) i =>
    ({ g with k := sparseSet {} g.k (14 + i) { bits := w (0x268 + 16 * i) ++ w (0x260 + 16 * i)
                                               valid := m.getLsbD (10 + i) } } : Regs).setLive (kreg (14 + i))
      (m.getLsbD (8 + i))) g

/-- What a context that leaves its core still waits for when it comes back: WFI's interrupt, or, once it has issued EXIT, its
tags. -/
def Act.keptBlock (a : Act) : Option Block := if a.block = some .wfi ∨ a.block = some .exit then a.block else none

/-- A context read back from the bytes of its save area. What the layout does not hold keeps its value, the waits of WFI and
EXIT among it (log 37). -/
def unpackAct (a : Act) (bs : List Byte) (free : Nat) : Act :=
  let w (o : Nat) : Word64 := bytesWord ((bs.drop o).take 8)
  let h := w 0x60
  let asw := w 0x38 &&& aswMask
  { a with
    regs := unpackRegs bs a.regs.poison free
    bank := unpackBank bs a.bank
    pc := (w 0x20).setWidth 32, lk := (w 0x20).extractLsb' 32 32
    rdq0 := RdqEntry.ofBits (w 0x28), rdq1 := RdqEntry.ofBits (w 0x30)
    asw := asw, code := w 0x40, lc := w 0x48, srstate := w 0x50
    held := if asw.getLsbD 2 then some { kind := bits h 18 16, sid := w 0x388, num := bits h 63 32 } else none
    msh := w 0x78, mfm := w 0x80, msb := w 0x88
    cut := { desc := w 0x90, isSet := (w 0x98).getLsbD 63, kcur := bits (w 0x98) 23 0, vcur := w 0xA0 }
    bd := (List.range 16).foldl (fun (t : Sparse BoundReg) n =>
      let x := w (0xB0 + 8 * n)
      let y := bytesToNat ((bs.drop (0x130 + n)).take 1)
      sparseSet {} t n { mode := BitVec.ofNat 2 y, sticky := y / 4 % 2 == 1, hi := x.extractLsb' 32 32
                         lo := x.extractLsb' 0 32 }) []
    replay := (List.range 7).foldl (fun (t : Table Replay) n =>
      let o := 0x140 + 32 * n
      if bits (w o) 63 56 = 0 then t
      else tableSet t (n + 1) { w0 := w o, w1 := w (o + 8), w2 := w (o + 16), w3 := w (o + 24) }) []
    trap := { a.trap with
      tcause := w 0x288, tword := w 0x290, tdetail := w 0x298, taddr := w 0x2A0, svpc := w 0x2A8, svq0 := w 0x2B0
      svq1 := w 0x2B8, svasw := w 0x2C0, svcode := w 0x2C8, stvec := w 0x68, mtvec := w 0xA8, timecmp := w 0x58
      extpend := w64 (bits h 15 0) }
    gen := { loaded := (w 0x2D0).getLsbD 0, inv := (w 0x2D0).getLsbD 1
             prog := if (w 0x2D0).getLsbD 0 then
                 ((List.range 32).map (fun n => BitVec.ofNat 32 (bytesToNat ((bs.drop (0x308 + 4 * n)).take 4))))
               else []
             pp := (List.range 8).foldl (fun (t : Sparse (BitVec 32)) n =>
               sparseSet 0 t n (BitVec.ofNat 32 (bytesToNat ((bs.drop (0x2E8 + 4 * n)).take 4)))) []
             extent := (w 0x2D8).setWidth 48, cursor := w 0x2E0 }
    fixed := [], fetched := [], trapPend := none, block := a.keptBlock, timerPend := false
    lastOp := none }

/-- The context of a save area, with its tiles if they are kept there. -/
def State.readSave (s : State) (aid : Nat) (off : Nat) (tiles : Bool) : Option State :=
  let a := s.act aid
  match s.objRead a.part a.saveObj off 4096 with
  | none => none
  | some bs =>
    let (d, s) := s.draw 2
    let s := s.setAct aid (unpackAct a bs d)
    if !tiles then some s
    else (List.range a.tiles.length).foldl (fun (r : Option State) n =>
      match r with
      | none => none
      | some s =>
        match s.objRead a.part a.saveObj (off + 4096 + imageBytes * n) imageBytes with
        | none => none
        | some img =>
          match tileFromImage img with
          | some t => some (s.newTile a.homeCore (a.tiles[n]?.getD 0) t)
          | none => some s) (some s)

/-! ## Resuming (R300) -/

/-- A wait kept in a replay slot is sent again, its tag busy; a served reply is written (R300). -/
def State.replaySlot (s : State) (aid tag : Nat) (r : Replay) : State :=
  let a := s.act aid
  let opcode := bits r.w0 63 56
  let d := bits r.w0 55 50
  let o (off : Bool) (mem : Bool) (ds : List RegName) (k : OpKind) : Op :=
    { act := aid, tag := tag, bank := false, num := (tableGet? a.backed tag).getD a.num, opcode := opcode, word := a.pc, offCore := off, memWord := mem
      dsts := ds, kind := k, replay := r }
  let ds := if d = 0 then [] else [sreg d]
  let q := a.quad
  let add (x : Op) : State := (s.addOp x).2
  let served := r.w0.getLsbD 40
  match opcode with
  | 0x54 =>
    let mod := bits r.w0 49 46
    let n := if 8 ≤ mod then 8 else 4
    let acc : Access := { object := bits r.w0 23 0, offset := r.w1.toNat, bytes := n, write := false, atom := 2 }
    let acq := decide (bits r.w0 45 44 = 1)
    let scope := bits r.w0 43 41
    let wide := acq && (if scope = 0 then false else if scope = 5 then s.rectActs r.w3 a.core else true)
    let (oid, s') := s.addOp { o true true ds (.device (some (sreg d)) true) with acq := acq, wide := wide }
    match s.walk a.part acc with
    | .error t => s'.lateTrap oid (o true true ds (.device (some (sreg d)) true)) t
    | .ok (e, _) => s'.send { mkReq aid a a.core oid e acc.offset n (.wait (mod % 8) r.w2) with
        num := (tableGet? a.backed tag).getD a.num }
  | 0xA6 => add (o true false ds (.bar d false))
  | 0xA8 => add (o true false ds (.bar d false))
  | 0xA9 => add (o true false ds (.bar d false))
  | 0xAA => add (o true false [sreg d, sreg (d + 1)] (.bar d true))
  | 0xAB => if served then s.setAct aid (a.putAll false (if d = 0 then [] else [wS d r.w2]))
            else add (o true false ds (.take d a.core))
  | 0xAC => if served then s.setAct aid (a.putAll false (if d = 0 then [] else [wS d r.w2]))
            else add (o true false ds (.share d r.w1.toNat))
  | 0xB5 => add (o true false [] (.cpwait q (bits r.w1 35 32) (r.w1.setWidth 32)))
  | 0xB7 => add (o true false ds (.stgwait q (bits r.w1 35 32) (r.w1.setWidth 32) d))
  | 0xBA => add (o true false [] (.evwait q (r.w1.toNat % 16)))
  | _ => s

/-- Every replay slot is processed before the resume word issues. -/
def State.replaySlots (s : State) (aid : Nat) : State :=
  let slots := (s.act aid).replay
  let s := slots.foldl (fun (s : State) x => s.replaySlot aid x.1 x.2) s
  s.setAct aid { s.act aid with replay := [], backed := [] }

/-- A context returns to a slot of its core, whose L1 read cache is invalidated first (R50). -/
def State.enterSlot (s : State) (aid c slot : Nat) : State :=
  let s := s.l1Clear c
  let s := s.setCore c { s.core c with slots := tableSet (s.core c).slots slot aid }
  s.setAct aid { s.act aid with core := c, slot := slot, run := .inService }

/-! ## Pre-emption of one context (R299) -/

/-- No handler runs, no tag is busy but those of the activity's restartable waits, and its meeting stands at a leg that allows
it; a party parked at its home can be withdrawn (R243, R299). -/
def State.settled (s : State) (aid : Nat) : Bool :=
  let a := s.act aid
  !a.tip && (a.mg == 0 || a.mg == 2 || a.mg == 4)
    && !(s.ops.any (fun x => x.2.act == aid && (!x.2.restarts || x.2.bank) && !(a.mg == 2 && x.2.kind == .meet)))

/-- The context may be taken off its core now: in service or halted between two words, and settled. -/
def State.canSave (s : State) (aid : Nat) : Bool :=
  let a := s.act aid
  (a.run == .inService || a.run == .halted) && a.trapPend.isNone && s.settled aid

/-- The context is off its core, or can be taken off it: one that stopped for the armature is saved as it stands, and its gang
is replayed or ended before it runs again. -/
def State.canLeave (s : State) (aid : Nat) : Bool := (s.act aid).run == .saved || (s.act aid).run == .stopped || s.canSave aid

/-- Its results are written, its waits are backed out, its area and tiles are written and, at home, its slot is freed;
a met party keeps its visitor slot reserved. None while its save area has no translation. -/
def State.saveContext (s : State) (aid : Nat) : Option State :=
  let s := s.withdraw aid
  let s := (s.settle (s.act aid).core aid).backOut aid
  match s.writeSave aid true with
  | none => none
  | some s =>
    let a := s.act aid
    let s := s.setAct aid { a with run := .saved, block := a.keptBlock }
    some (s.freeSlot a.core a.slot)

end Sys2Proof.Machine
end

