-- ==== Sys2Proof/Machine/Sched.lean ====
section
/-! DEFINITION. What the armature scheduler does: the journal and status words, where a crew fits, dispatching a crew,
swapping one out and in, snapshots of an epoch, and how a gang is accepted, completed and ended (R17..R22, R27, R29, R34,
R35, R299..R302, R311..R320, R327..R330, R333). -/
namespace Sys2Proof.Machine

/-- The same change to every core, quad or partition. -/
def State.mapCores (s : State) (f : Core → Core) : State := { s with cores := s.cores.map (fun (x : Nat × Core) => (x.1, f x.2)) }
def State.mapQuads (s : State) (f : Quad → Quad) : State := { s with quads := s.quads.map (fun (x : Nat × Quad) => (x.1, f x.2)) }
def State.mapParts (s : State) (f : Part → Part) : State := { s with parts := s.parts.map (fun (x : Nat × Part) => (x.1, f x.2)) }

/-! ## Where a crew fits (R18, R302) -/

/-- What a resident crew holds of a quad. -/
structure Holding where
  gang : Nat
  crew : Nat
  quad : Nat
  slots : List (Nat × Nat)
  tiles : List (Nat × Nat)
  lm : List (Nat × Nat × Nat)
  qs : Nat × Nat
  rings : BitVec 16
deriving DecidableEq, Repr

/-- A crew is resident: placed, not swapped out, not ended. -/
def Crew.resident (c : Crew) : Bool := !c.swapped && !c.finished

def Gang.lmLen (r : LaunchRec) : Nat := r.lmem * 4096
def Gang.qsLen (r : LaunchRec) : Nat := r.qsmem * 65536

/-- Every resident crew's holding. -/
def State.holdings (s : State) : List Holding :=
  s.gangs.flatMap (fun x => x.2.crews.filterMap (fun y =>
    if y.2.resident then
      some { gang := x.1, crew := y.1, quad := y.2.quad, slots := y.2.slots, tiles := y.2.tiles
             lm := y.2.lmBase.map (fun z => (z.1, z.2, Gang.lmLen x.2.lrec))
             qs := (y.2.qsBase, Gang.qsLen x.2.lrec), rings := x.2.lrec.rings }
    else none))

/-- A placement of a crew. -/
structure Place where
  quad : Nat
  cores : List Nat
  slots : List (Nat × Nat)
  tiles : List (Nat × Nat)
  lm : List (Nat × Nat)
  qs : Nat
deriving DecidableEq, Repr

/-- [b, b + n) is free of occupied ranges and inside the area. -/
def rangeFree (occ : List (Nat × Nat)) (limit b n : Nat) : Bool :=
  decide (b + n ≤ limit) && (n == 0 || occ.all (fun o => decide (b + n ≤ o.1) || decide (o.1 + o.2 ≤ b) || o.2 == 0))

/-- The lowest offset at which n bytes fit. -/
def lowestFit (occ : List (Nat × Nat)) (limit n : Nat) : Option Nat :=
  ((0 :: occ.map (fun o => o.1 + o.2)).filter (fun b => rangeFree occ limit b n)).foldl
    (fun m b => match m with | none => some b | some x => some (min x b)) none

/-- A slot of a core is free of contexts, of parties that are away and of crews. -/
def State.slotFree (s : State) (hs : List Holding) (c n : Nat) : Bool :=
  (tableGet? (s.core c).slots n).isNone && (tableGet? (s.core c).held n).isNone
    && !(hs.any (fun h => h.slots.contains (c, n)))

def lmOcc (hs : List Holding) (c : Nat) : List (Nat × Nat) :=
  hs.flatMap (fun h => h.lm.filterMap (fun x => if x.1 = c then some x.2 else none))

def tilesFree (hs : List Holding) (c : Nat) : List Nat :=
  (List.range 8).filter (fun n => !(hs.any (fun h => h.tiles.contains (c, n))))

/-- What an eligible core gives a crew: slots, tiles and local-memory base. -/
def State.coreRoom (s : State) (hs : List Holding) (r : LaunchRec) (c : Nat) : Option (List Nat × List Nat × Nat) :=
  if !s.live c then none
  else
    let sl := ((List.range 6).filter (s.slotFree hs c)).take r.acts
    let tl := (tilesFree hs c).take (r.acts * r.tiles)
    if sl.length < r.acts ∨ tl.length < r.acts * r.tiles then none
    else match lowestFit (lmOcc hs c) 0x60000 (Gang.lmLen r) with
      | some b => some (sl, tl, b)
      | none => none

/-- The quad belongs to the partition and its four cores lie inside the placement rectangle. -/
def State.quadAllowed (s : State) (part : Nat) (r : LaunchRec) (q : Nat) : Bool :=
  s.diePart (quadDie q) == part && (!r.rectPresent || (quadCores q).all (inRect r.rect))

/-- The scratchpad and the granted numbers of a quad are free. -/
def quadOcc (hs : List Holding) (q : Nat) : List (Nat × Nat) := (hs.filter (fun h => h.quad == q)).map (·.qs)
def ringsFree (hs : List Holding) (r : LaunchRec) (q : Nat) : Bool :=
  (hs.filter (fun h => h.quad == q)).all (fun h => h.rings &&& r.rings == 0)

/-- The crew on a quad, if the quad can take it (R18). -/
def State.place (s : State) (hs : List Holding) (part : Nat) (r : LaunchRec) (q : Nat) : Option Place :=
  if !s.quadAllowed part r q || !ringsFree hs r q then none
  else match lowestFit (quadOcc hs q) 0x400000 (Gang.qsLen r) with
    | none => none
    | some qb =>
      let rooms := ((quadCores q).filterMap (fun c => (s.coreRoom hs r c).map (c, ·))).take r.cores
      if rooms.length < r.cores then none
      else some
        { quad := q, cores := rooms.map (·.1)
          slots := rooms.flatMap (fun x => x.2.1.map (x.1, ·))
          tiles := rooms.flatMap (fun x => x.2.2.1.map (x.1, ·))
          lm := rooms.map (fun x => (x.1, x.2.2.2)), qs := qb }

/-- A swapped-out crew on a quad: the same bases, granted numbers, slots and member numbers (R302). Slots of activities
that have exited are not needed. -/
def State.placeBack (s : State) (hs : List Holding) (g : Gang) (cr : Crew) (q : Nat) : Option Place :=
  let r := g.lrec
  let move (c : Nat) : Nat := quadCore q (coreMember c)
  let need := cr.acts.map (fun a => ((s.act a).homeCore, (s.act a).homeSlot))
  let slots := cr.slots.map (fun x => (move x.1, x.2))
  let away := cr.acts.any (fun a => (s.act a).mg == 4 && (s.act a).run == .saved)
  if !s.quadAllowed g.part r q || !ringsFree hs r q || !rangeFree (quadOcc hs q) 0x400000 cr.qsBase (Gang.qsLen r)
  then none
  else if cr.cores.any (fun c => !s.live (move c)
      || decide ((tilesFree hs (move c)).length < r.acts * r.tiles)
      || !((cr.lmBase.filter (fun x => x.1 == c)).all (fun x => rangeFree (lmOcc hs (move c)) 0x60000 x.2 (Gang.lmLen r)))) then none
  else if need.any (fun x => !(s.slotFree hs (move x.1) x.2 || (away && move x.1 == x.1))) then none
  else some
    { quad := q, cores := cr.cores.map move, slots := slots
      tiles := cr.cores.flatMap (fun c => ((tilesFree hs (move c)).take (r.acts * r.tiles)).map (move c, ·))
      lm := cr.lmBase.map (fun x => (move x.1, x.2)), qs := cr.qsBase }

/-- Some quad could take a swapped-out crew if nothing else were resident: its cores there are live. -/
def State.canReturn (s : State) (g : Gang) (cr : Crew) : Bool :=
  (List.range 512).any (fun q => s.quadAllowed g.part g.lrec q && cr.cores.all (fun c => s.live (quadCore q (coreMember c))))

/-- The crew due next: swapped-out crews first, the lowest index first; then the next one never dispatched (R35, R21). -/
def Gang.due (g : Gang) : Option (Nat × Bool) :=
  match g.crews.find? (fun x => x.2.swapped) with
  | some (n, _) => some (n, true)
  | none => if g.crews.length < g.lrec.crews then some (g.crews.length, false) else none

/-- A gang's due crew on a quad. -/
def State.placeDue (s : State) (hs : List Holding) (g : Gang) (q : Nat) : Option Place :=
  match g.due with
  | none => none
  | some (n, true) => (match tableGet? g.crews n with | some cr => s.placeBack hs g cr q | none => none)
  | some (_, false) => s.place hs g.part g.lrec q

/-- Gangs of a partition that have a crew due. -/
def State.waitingGangs (s : State) (part : Nat) : List (Nat × Gang) :=
  s.gangs.filter (fun x => x.2.part == part && x.2.stage == .eligible && x.2.due.isSome)

/-- The head of a class: its oldest gang (R315). -/
def State.head (s : State) (part cls : Nat) : Option (Nat × Gang) :=
  ((s.waitingGangs part).filter (fun x => x.2.lrec.cls == cls)).foldl (fun m x =>
    match m with
    | none => some x
    | some y => if x.2.acceptSeq < y.2.acceptSeq then some x else some y) none

/-- A gang that is not a head may not take a quad that a head of an equal or lower class number could use (R315). -/
def State.reserved (s : State) (hs : List Holding) (gid : Nat) (g : Gang) (q : Nat) : Bool :=
  match s.head g.part g.lrec.cls with
  | some (h, _) =>
    if h = gid then false
    else (List.range (g.lrec.cls + 1)).any (fun k => match s.head g.part k with
      | some (_, x) => (s.placeDue hs x q).isSome
      | none => false)
  | none => false

/-- The lowest quad that can take the due crew of a gang. -/
def State.findPlace (s : State) (hs : List Holding) (gid : Nat) (g : Gang) : Option Place :=
  (List.range 512).findSome? (fun q => match s.placeDue hs g q with
    | some p => if s.reserved hs gid g q then none else some p
    | none => none)

/-- What a placement adds to the holdings. -/
def Place.holding (p : Place) (gid n : Nat) (r : LaunchRec) : Holding :=
  { gang := gid, crew := n, quad := p.quad, slots := p.slots, tiles := p.tiles
    lm := p.lm.map (fun x => (x.1, x.2, Gang.lmLen r)), qs := (p.qs, Gang.qsLen r), rings := r.rings }

/-- All n crews of a BSP gang, or none of them (R21). -/
def State.placeAll (s : State) (gid : Nat) (g : Gang) : Nat → List Holding → Option (List Place)
  | 0, _ => some []
  | n + 1, hs =>
    match s.findPlace hs gid g with
    | none => none
    | some p =>
      match s.placeAll gid g n (p.holding gid n g.lrec :: hs) with
      | none => none
      | some ps => some (p :: ps)

/-- A quad could hold a crew if nothing else were resident; `all` takes every core as live (R20). -/
def State.able (s : State) (all : Bool) (part : Nat) (r : LaunchRec) (q : Nat) : Bool :=
  s.quadAllowed part r q && (all || decide (r.cores ≤ ((quadCores q).filter s.live).length))
    && decide (1 ≤ r.crews) && decide (1 ≤ r.cores) && decide (r.cores ≤ 4) && decide (1 ≤ r.acts) && decide (r.acts ≤ 6)
    && decide (r.acts * r.tiles ≤ 8) && decide (r.lmem ≤ 96) && decide (r.qsmem ≤ 64)

/-- The gang can be placed at all. -/
def State.placeable (s : State) (all : Bool) (part : Nat) (r : LaunchRec) : Bool :=
  if r.bsp then decide (r.crews ≤ ((List.range 512).filter (s.able all part r)).length)
  else (List.range 512).any (s.able all part r)

/-- R20's grade. -/
def State.unplaceableGrade (s : State) (part : Nat) (r : LaunchRec) : Nat := if s.placeable true part r then 1 else 3

/-! ## Journal entries of a gang (R317) -/

/-- The queue and slot of a gang as a journal entry names them. -/
def Gang.jqueue (g : Gang) : Nat := match g.kick with | some (q, _) => q | none => 0xFF
def Gang.jslot (g : Gang) : Nat := match g.kick with | some (_, n) => n | none => 0xFF

/-- An entry about a crew of a gang. -/
def Gang.crewEntry (g : Gang) (kind gid n : Nat) : JEntry :=
  { kind := kind, queue := g.jqueue, slot := g.jslot, gang := gid, arg := w64 n }

/-! ## The image of a swapped-out crew (R302; log 37) -/

/-- Where the armature keeps a crew's image: on the stack of the partition's first plate that is present. -/
def State.imageBase (s : State) (part gid n : Nat) : Nat :=
  let die := ((List.range 8).find? (fun d => s.diePart d == part && !(s.die d).plateGone)).getD 0
  die * 2 ^ 37 + Config.crewImage gid n % (2 ^ 30) * 64

/-- Places in an image: the local memory of each member, the scratchpad, then 16 rings and 16 channels. -/
def imgLm (r : LaunchRec) (member : Nat) : Nat := member * Gang.lmLen r
def imgQs (r : LaunchRec) : Nat := 4 * Gang.lmLen r
def imgRing (r : LaunchRec) (n : Nat) : Nat := imgQs r + Gang.qsLen r + 528 * n
def imgChan (r : LaunchRec) (n : Nat) : Nat := imgRing r 16 + 24 * n

/-- A ring's descriptor and counters in an image: STGSET's word, F and E, and the stages' generations. -/
def Ring.image (r : Ring) : List Byte :=
  natToBytes 8 (r.count * 2 ^ 36 + r.size * 2 ^ 22 + r.base) ++ natToBytes 8 (r.f.toNat + r.e.toNat * 2 ^ 32)
    ++ (List.range 256).flatMap (fun i => natToBytes 2 (sparseGet 0 r.gen i).toNat)

/-- A ring read back: what the image has no place for stays as it was kept. -/
def Ring.ofImage (r : Ring) (bs : List Byte) : Ring :=
  let w := bytesWord (bs.take 8)
  let x := bytesWord ((bs.drop 8).take 8)
  { r with
    count := bits w 43 36, size := bits w 35 22, base := bits w 21 0
    f := x.extractLsb' 0 32, e := x.extractLsb' 32 32
    gen := (List.range 256).foldl (fun (t : Sparse (BitVec 16)) i =>
      sparseSet 0 t i (BitVec.ofNat 16 (bytesToNat ((bs.drop (16 + 2 * i)).take 2)))) [] }

/-- A channel's registers, as CPSTAT reads them (R246). -/
def Chan.image (c : Chan) : List Byte := (List.range 3).flatMap (fun i => wordBytes64 8 (chanValue c i))
def Chan.ofImage (c : Chan) (bs : List Byte) : Chan :=
  let w (i : Nat) : Word64 := bytesWord ((bs.drop (8 * i)).take 8)
  { c with
    faulted := (w 0).getLsbD 63, cause := (w 0).extractLsb' 48 8, vcount := (w 0).extractLsb' 32 16
    wm := (w 0).extractLsb' 0 32, fid := (w 1).extractLsb' 32 32, nx := (w 1).extractLsb' 0 32
    addr := (w 2).extractLsb' 0 48 }

/-- Writing bytes of an image whole, the poison of its lines as given by their numbers: an image is what the armature keeps,
and holds the lines as the crew's allocations held them (log 37). -/
def State.imageWrite (s : State) (a : Nat) (bs : List Byte) (bad : List Nat) : State :=
  let s := s.schedWrite a bs
  { s with memPoison := bad.foldl (fun m l => sparseSet false m (a / 64 + l) true) (cleanWhole s.memPoison a bs.length) }

/-- Reading bytes of an image, and the numbers of its poisoned lines. -/
def State.imageRead (s : State) (a n : Nat) : List Byte × List Nat :=
  (s.memRead a n, (List.range (n / 64)).filter (fun l => sparseGet false s.memPoison (a / 64 + l)))

/-! ## Snapshots (R27, R329) -/

/-- The activities of a gang. -/
def State.gangActs (s : State) (gid : Nat) : List (Nat × Act) := s.acts.filter (fun x => x.2.gang == gid)

/-- It has issued EXIT and is on its way home. -/
def Act.leaving (a : Act) : Bool :=
  a.block == some .exit || (match a.party with | some p => p.exiting | none => false)

/-- The share snapshot of a gang. -/
def State.takeShare (s : State) (gid : Nat) : State :=
  let l := (s.gangActs gid).filterMap (fun x => if x.2.leaving then none
    else some ({ rank := x.2.rank, core := x.2.homeCore, freq := s.freq x.2.homeCore } : ShareEntry))
  s.setGang gid { s.gang gid with share := some l }

/-- The numbers that a launch record grants. -/
def granted (r : BitVec 16) : List Nat := (List.range 16).filter (fun n => r.getLsbD n)

/-- A crew's ring, channel or event line: in its quad, or, while it is swapped out, as its image and its record keep it. -/
def State.crewRing (s : State) (r : LaunchRec) (c : Crew) (n : Nat) : Ring :=
  if c.swapped then ((tableGet? c.save.rings n).getD {}).ofImage (s.memRead (c.save.image + imgRing r n) 528)
  else s.ring c.quad n
def State.crewChan (s : State) (r : LaunchRec) (c : Crew) (n : Nat) : Chan :=
  if c.swapped then ((tableGet? c.save.chans n).getD {}).ofImage (s.memRead (c.save.image + imgChan r n) 24)
  else s.chan c.quad n
def State.crewLine (s : State) (c : Crew) (n : Nat) : EvLine :=
  if c.swapped then (tableGet? c.save.lines n).getD {} else s.line c.quad n

/-- Putting them back, wherever the crew stands now. -/
def State.putCrewRing (s : State) (gid k n : Nat) (x : Ring) : State :=
  let g := s.gang gid
  match tableGet? g.crews k with
  | none => s
  | some c =>
    if c.swapped then
      (s.imageWrite (c.save.image + imgRing g.lrec n) x.image []).setGang gid { g with
        crews := tableSet g.crews k { c with save := { c.save with rings := tableSet c.save.rings n x } } }
    else s.setRing c.quad n x
def State.putCrewChan (s : State) (gid k n : Nat) (x : Chan) : State :=
  let g := s.gang gid
  match tableGet? g.crews k with
  | none => s
  | some c =>
    if c.swapped then
      (s.imageWrite (c.save.image + imgChan g.lrec n) x.image []).setGang gid { g with
        crews := tableSet g.crews k { c with save := { c.save with chans := tableSet c.save.chans n x } } }
    else s.setChan c.quad n x
def State.putCrewLine (s : State) (gid k n : Nat) (x : EvLine) : State :=
  let g := s.gang gid
  match tableGet? g.crews k with
  | none => s
  | some c =>
    if c.swapped then s.setGang gid { g with
      crews := tableSet g.crews k { c with save := { c.save with lines := tableSet c.save.lines n x } } }
    else s.setLine c.quad n x

/-- What an epoch's start keeps (R329). -/
def State.epochSnap (s : State) (gid : Nat) : EpochSnap :=
  let g := s.gang gid
  let ns := g.crews.flatMap (fun c => if c.2.finished then [] else (granted g.lrec.rings).map (c, ·))
  { poolLeft := g.poolLeft, share := g.share
    acts := s.gangActs gid, crews := g.crews
    rings := ns.map (fun x => (x.1.1, x.2, s.crewRing g.lrec x.1.2 x.2))
    chans := ns.map (fun x => (x.1.1, x.2, s.crewChan g.lrec x.1.2 x.2))
    lines := ns.map (fun x => (x.1.1, x.2, s.crewLine x.1.2 x.2)) }

/-- A superstep's wait that was taken back when its context was saved is issued again in the mould's copy: the word after
it is the resume word (R329). -/
def State.reissue (s : State) (a : Act) : Act :=
  match s.fetch a with
  | .error _ => a
  | .ok w =>
    let cl := Clauses.ofWord w
    let (new, lk, lc) := a.sequence cl
    { a with words := a.words + 1, lk := lk, lc := lc }.advance new

/-- The context as a mould holds it, the SSTEP complete with its report (R329). -/
def State.mouldView (s : State) (aid : Nat) (report : Option Word64) : Act :=
  let s := s.withdraw aid
  let a := (s.act aid).landAll
  match report, a.held with
  | some rep, some h =>
    if h.kind ≠ 6 then ((s.setAct aid a).backOut aid).act aid
    else
      let bars := s.ops.filter (fun x => x.2.act == aid && (match x.2.kind with | .bar _ _ => true | _ => false))
      let a1 := bars.foldl (fun (a : Act) x => a.putAll x.2.bank (x.2.dsts.map (fun r => { reg := r, val := .w rep }))) a
      let slot := a1.replay.find? (fun x => bits x.2.w0 63 56 == 0xA9)
      let a2 : Act := match slot with
        | some (n, r) =>
          let d := bits r.w0 55 50
          { a1.putAll false (if d = 0 then [] else [wS d rep]) with replay := tableErase a1.replay n }
        | none => if bars.isEmpty then s.reissue a1 else a1
      let gone := bars.map (·.1)
      let s' := ({ s with ops := s.ops.filter (fun x => !gone.contains x.1) }).setAct aid { a2.setAp false with held := none }
      (s'.backOut aid).act aid
  | _, _ => ((s.setAct aid a).backOut aid).act aid

/-- A register mould of an activity (R329); a mould that cannot be written makes the superstep not replayable. -/
def State.writeMould (s : State) (aid : Nat) (report : Option Word64) : State :=
  let a := s.mouldView aid report
  match s.objWrites a.part a.saveObj a.mouldOff (saveRuns a) with
  | some x => x
  | none => s.unreplayable a.gang

/-- A gang's mould entries and journal lines are discarded, with those that its swapped-out crews keep. -/
def State.dropMoulds (s : State) (gid : Nat) : State :=
  let keep (l : List MouldEntry) : List MouldEntry := l.filter (fun e => e.gang != gid)
  let s := (s.mapCores (fun c => { c with
    mould := keep c.mould, halfLines := c.halfLines.filter (fun x => x.1 != gid) })).mapQuads (fun q =>
      { q with mould := keep q.mould })
  let g := s.gang gid
  let crews : Table Crew := g.crews.map (fun (x : Nat × Crew) =>
    (x.1, { x.2 with save := { x.2.save with lmMould := [], qsMould := [] } }))
  { s with journals := s.journals.filter (fun e => e.2.gang != gid) }.setGang gid { g with crews := crews }

/-- A new epoch opens: the moulds of the last are discarded, and those of this one are written. -/
def State.openEpoch (s : State) (gid epoch : Nat) (report : Option Word64) : State :=
  let s := (s.flushMerges gid).dropMoulds gid
  let s := s.setGang gid { s.gang gid with
    opened := true, epoch := epoch, replayable := true, badCores := [], badQuads := [], replays := 0, judged := [] }
  let s := (s.gangActs gid).foldl (fun (s : State) x => s.writeMould x.1 report) s
  s.setGang gid { s.gang gid with snap := s.epochSnap gid }

/-! ## Dispatching a crew (R19, R22, R41, R44, R246, R294) -/

/-- Dropping what a sparse memory lists in [b, b + n). -/
def sparseClear {α : Type} (m : Sparse α) (b n : Nat) : Sparse α := m.filter (fun x => !(decide (b ≤ x.1) && decide (x.1 < b + n)))

/-- The capability that the armature leaves in bank k15: R, W and C. -/
def dispatchK15 (aid : Nat) : KReg :=
  let raw := (Config.dispatchBankK15 aid).toNat
  KReg.make (raw / 2 ^ 104) 19 (raw / 2 ^ 48 % 2 ^ 48) (raw % 2 ^ 48) true

/-- SRSTATE at dispatch. -/
def srStart (seed : Word64) (rank : Nat) : Word64 :=
  let x := seed ^^^ (w64 rank * 0x9E3779B97F4A7C15)
  if x = 0 then 1 else x

/-- A context as it starts. -/
def State.newAct (s : State) (aid gid n : Nat) (g : Gang) (p : Place) (idx core slot : Nat) : Act :=
  let r := g.lrec
  let per := r.cores * r.acts
  let rank := n * per + idx
  let mine := (p.tiles.filter (fun x => x.1 == core)).map (·.2)
  let regs : Regs := ((({} : Regs).put (wK 0 g.arg)).put (wS 1 (w64 rank))).put (wS 2 (w64 (r.crews * per)))
  { part := g.part, gang := gid, crew := n, index := idx, rank := rank, size := r.crews * per
    homeCore := core, homeSlot := slot, core := core, slot := slot
    pc := r.entry, asw := 0x40 ||| w64 (r.mode % 4), code := s.codeOf core g.part g.code.object
    srstate := srStart r.seed rank
    parkTick := s.tick
    lmBase := (p.lm.find? (fun x => x.1 == core)).elim 0 (·.2), lmLen := Gang.lmLen r
    qsBase := p.qs, qsLen := Gang.qsLen r, rings := r.rings
    tiles := (mine.drop (idx % r.acts * r.tiles)).take r.tiles
    regs := regs
    bank := (({ liveS := 0, liveP := 0 } : Regs).put (wK 15 (dispatchK15 aid))).put
      (wS 63 (w64 ((Config.dispatchBankS63 aid).toNat * 4096)))
    trap := { stvec := Config.dispatchStvec aid &&& 0xFFFFFF00FFFFFFFF
              mtvec := Config.dispatchMtvec aid &&& 0xFFFFFF00FFFFFFFF } }

/-- A core's side of a dispatch: its allocation is zero, its tiles are zero, its L1 read cache is empty. -/
def Core.prepare (c : Core) (base len : Nat) (tiles : List Nat) : Core :=
  { c with lm := sparseClear c.lm base len, lmPoison := sparseClear c.lmPoison (base / 64) (len / 64)
           tiles := tiles.foldl (fun t n => tableErase t n) c.tiles, l1 := []
           tilePoison := tiles.foldl (fun t n => t.filter (fun x => x.1 / 256 != n)) c.tilePoison }

/-- A quad's side: its allocation is zero, gated banks wake, and the granted rings, channels and event lines are reset. -/
def Quad.prepare (q : Quad) (base len : Nat) (ns : List Nat) : Quad :=
  { q with qs := sparseClear q.qs base len, qsPoison := sparseClear q.qsPoison (base / 64) (len / 64)
           gated := if len = 0 then q.gated else []
           rings := q.rings.filter (fun x => !ns.contains x.1), chans := q.chans.filter (fun x => !ns.contains x.1)
           lines := q.lines.filter (fun x => !ns.contains x.1) }

/-- An array of a die wakes: for at most 200 ticks (R349). -/
def State.wakes (s : State) (die : Nat) : State :=
  ({ s with draws := s.draws + 1 }).setDie die { s.die die with wakeUntil := s.tick + Config.wakeTicks s.draws }

/-- Two ranges overlap. -/
def overlaps (a m b n : Nat) : Bool := decide (a < b + n) && decide (b < a + m)

/-- A placement of a crew of record `r` takes what a crew of record `q` held: a slot, tile, local memory, scratchpad or a granted
number. -/
def Place.takes (p : Place) (r : LaunchRec) (y : Crew) (q : LaunchRec) : Bool :=
  p.slots.any y.slots.contains || p.tiles.any y.tiles.contains
    || p.lm.any (fun x => y.lmBase.any (fun z => z.1 == x.1 && overlaps x.2 (Gang.lmLen r) z.2 (Gang.lmLen q)))
    || (p.quad == y.quad && (overlaps p.qs (Gang.qsLen r) y.qsBase (Gang.qsLen q) || r.rings &&& q.rings != 0))

/-- Crews that have ended in their gangs' epochs give their places away (R33, R332; log 49). -/
def State.giveAway (s : State) (p : Place) (r : LaunchRec) : State :=
  { s with gangs := s.gangs.map (fun (x : Nat × Gang) =>
      if x.2.crews.any (fun y => y.2.finished && (tableGet? x.2.snap.crews y.1).isSome && p.takes r y.2 x.2.lrec) then
        (x.1, { x.2 with snap := { x.2.snap with given := true } })
      else x) }

/-- Memory, tiles and the engine's granted numbers before a crew's first word. -/
def State.prepare (s : State) (p : Place) (r : LaunchRec) : State :=
  let s := s.giveAway p r
  let s := p.cores.foldl (fun (s : State) c =>
    s.setCore c ((s.core c).prepare ((p.lm.find? (fun x => x.1 == c)).elim 0 (·.2)) (Gang.lmLen r)
      ((p.tiles.filter (fun x => x.1 == c)).map (·.2)))) s
  let s := if Gang.qsLen r ≠ 0 ∧ (s.quad p.quad).gated.isEmpty = false then s.wakes (quadDie p.quad) else s
  s.setQuad p.quad ((s.quad p.quad).prepare p.qs (Gang.qsLen r) (granted r.rings))

/-- A gang's owner index: the armature's choice from 1 to 65,535, or the lowest that no unfinished gang holds where that one is
held (R334). -/
def State.freshOwner (s : State) (gid : Nat) : Nat :=
  let raw := 1 + (Config.ownerRaw gid).toNat % 65535
  let held (n : Nat) : Bool := s.gangs.any (fun x => x.2.stage != .ended && x.2.stage != .completed && x.2.owner == n)
  if held raw = false then raw
  else (((List.range (s.gangs.length + 1)).map (· + 1)).find? (fun n => !held n)).getD 1

/-- DISPATCHING CREW n on a placement. -/
def State.dispatchCrew (s : State) (gid n : Nat) (p : Place) : State :=
  let g := s.gang gid
  let g := if n = 0 then { g with poolLeft := g.lrec.pool, owner := s.freshOwner gid } else g
  let s := s.prepare p g.lrec
  let first := s.fresh
  let s := { s with fresh := s.fresh + p.slots.length }
  let s := p.slots.zipIdx.foldl (fun (s : State) x =>
    let aid := first + x.2
    let s := s.setAct aid (s.newAct aid gid n g p x.2 x.1.1 x.1.2)
    s.setCore x.1.1 { s.core x.1.1 with slots := tableSet (s.core x.1.1).slots x.1.2 aid }) s
  let cr : Crew :=
    { quad := p.quad, cores := p.cores, slots := p.slots, tiles := p.tiles
      acts := (List.range p.slots.length).map (first + ·), lmBase := p.lm, qsBase := p.qs }
  let s := s.setGang gid { g with crews := tableSet g.crews n cr }
  s.jaccept g.part (g.crewEntry 4 gid n)

/-- After the last crew's first dispatch: the share snapshot (R27). -/
def State.afterDispatch (s : State) (gid : Nat) : State :=
  let g := s.gang gid
  if g.crews.length < g.lrec.crews then s else s.takeShare gid

/-! ## Swapping a crew out and in (R35, R247, R299, R302) -/

/-- A crew's transfers have ended. -/
def State.copiesDone (s : State) (gid : Nat) (n : Option Nat) : Bool :=
  !(s.quads.any (fun q => q.2.chans.any (fun c => c.2.queue.any (fun t =>
    t.gang == gid && (match n with | some k => t.crew == k | none => true)))))

/-- The part of a mould buffer that lies in a range of bytes. -/
def mouldIn (gid b n : Nat) (e : MouldEntry) : Bool := e.gang == gid && decide (b / 64 ≤ e.line) && decide (e.line < (b + n) / 64)

/-- Poisoned lines of a crew's allocations: unit, core, and line of local memory or the scratchpad. -/
def State.crewBad (s : State) (r : LaunchRec) (cr : Crew) : List (Nat × Nat × Nat) :=
  let inside (b n l : Nat) : Bool := decide (b / 64 ≤ l) && decide (l < (b + n) / 64)
  cr.lmBase.flatMap (fun x =>
      ((s.core x.1).lmPoison.filter (fun y => inside x.2 (Gang.lmLen r) y.1)).map (fun y => (1, x.1, y.1)))
    ++ ((s.quad cr.quad).qsPoison.filter (fun y => inside cr.qsBase (Gang.qsLen r) y.1)).map
      (fun y => (2, quadCore cr.quad 0, y.1))

/-- Writing a crew's image, and what it keeps beside it and its contexts' save areas. -/
def State.crewSave (s : State) (gid n : Nat) (r : LaunchRec) (cr : Crew) : CrewSave × State :=
  let base := s.imageBase (s.gang gid).part gid n
  let q := s.quad cr.quad
  let ns := granted r.rings
  let save : CrewSave :=
    { image := base
      lmMould := cr.lmBase.map (fun x => (coreMember x.1, (s.core x.1).mould.filter (mouldIn gid x.2 (Gang.lmLen r))))
      qsMould := q.mould.filter (mouldIn gid cr.qsBase (Gang.qsLen r))
      rings := q.rings.filter (fun x => ns.contains x.1), chans := q.chans.filter (fun x => ns.contains x.1)
      lines := q.lines.filter (fun x => ns.contains x.1) }
  let bad := s.crewBad r cr
  let s := cr.lmBase.foldl (fun (s : State) x =>
    s.imageWrite (base + imgLm r (coreMember x.1)) (sparseRead (s.core x.1).lm x.2 (Gang.lmLen r))
      ((bad.filter (fun y => y.1 == 1 && y.2.1 == x.1)).map (fun y => y.2.2 - x.2 / 64))) s
  let s := s.imageWrite (base + imgQs r) (sparseRead q.qs cr.qsBase (Gang.qsLen r))
    ((bad.filter (fun y => y.1 == 2)).map (fun y => y.2.2 - cr.qsBase / 64))
  let s := ns.foldl (fun (s : State) k => s.imageWrite (base + imgRing r k) (s.ring cr.quad k).image []) s
  (save, ns.foldl (fun (s : State) k => s.imageWrite (base + imgChan r k) (s.chan cr.quad k).image []) s)

/-- The crew's moulds leave the buffers of its quad. -/
def State.takeMoulds (s : State) (gid : Nat) (r : LaunchRec) (cr : Crew) : State :=
  let s := cr.lmBase.foldl (fun (s : State) x =>
    s.setCore x.1 { s.core x.1 with mould := (s.core x.1).mould.filter (fun e => !mouldIn gid x.2 (Gang.lmLen r) e) }) s
  s.setQuad cr.quad { s.quad cr.quad with
    mould := (s.quad cr.quad).mould.filter (fun e => !mouldIn gid cr.qsBase (Gang.qsLen r) e) }

/-- SWAPPING A CREW OUT: none while a context of it cannot be taken off its core or a transfer of it is in flight. -/
def State.swapOut (s : State) (gid n : Nat) : Option State :=
  let g := s.gang gid
  match tableGet? g.crews n with
  | none => none
  | some cr =>
    if !cr.resident || !s.copiesDone gid (some n)
        || !cr.acts.all s.canLeave then none
    else
      let s := s.withdrawAll cr.acts
      let saved := cr.acts.foldl (fun (r : Option State) a =>
        match r with
        | none => none
        | some s => if (s.act a).run = .saved then some s else s.saveContext a) (some s)
      match saved with
      | none => none
      | some s =>
        let (save, s) := s.crewSave gid n g.lrec cr
        let s := s.takeMoulds gid g.lrec cr
        let g := s.gang gid
        let s := s.setGang gid { g with crews := tableSet g.crews n { cr with swapped := true, save := save } }
        some (s.jaccept g.part (g.crewEntry 5 gid n))

/-- A meeting whose core is no longer live moves to a new meeting core chosen by R235 from the origins that are live, with its
luggage (R243). -/
def State.moveMeeting (s : State) (core : Nat) : State :=
  let vs := (s.core core).visitors
  match vs.find? (fun x => s.live (s.act x).homeCore) with
  | none => s
  | some x =>
    let a := s.act x
    match a.party with
    | none => s
    | some p =>
      match s.meetCore? p a.homeCore a.homeCore (if s.live p.partnerCore then p.partnerCore else a.homeCore) with
      | none => s
      | some c =>
        let s := vs.foldl (fun (s : State) aid =>
          let y := s.act aid
          let len := match y.party with | some q => q.len | none => 0
          let base := visitorBase y.slot
          let bs := s.lmRead core base len
          let bad := s.badLocal core base len
          let s := (s.lmWrite y.gang c base bs (bs.map (fun _ => true)) false).markBad c base bad
          s.setAct aid { s.act aid with core := c, party := y.party.map (fun q => { q with meetCore := c }) }) s
        let s := s.setCore c { s.core c with visitors := vs }
        s.setCore core { s.core core with visitors := [] }

/-- A context's home is a core and slot from now on: a party that is away has its origin slot held there, and its partner
finds its origin core there (R243, R259). -/
def State.newHome (s : State) (aid home homeSlot : Nat) (tiles : List Nat) : State :=
  let a := s.act aid
  if a.mg == 4 then
    let old := s.core a.homeCore
    let s := s.setCore a.homeCore { old with held := tableErase old.held a.homeSlot }
    let s := s.setCore home { s.core home with held := tableSet (s.core home).held homeSlot aid }
    let s := s.setAct aid { a with homeCore := home, homeSlot := homeSlot, tiles := tiles }
    match a.party with
    | none => s
    | some p =>
      let b := s.act p.partner
      match b.party with
      | some q => if q.partner = aid then s.setAct p.partner { b with party := some { q with partnerCore := home } } else s
      | none => s
  else s.setAct aid { a with homeCore := home, homeSlot := homeSlot, tiles := tiles, core := home, slot := homeSlot }

/-- A binding that STGSET cleared while the context was saved stays cleared (R207): the area still holds it valid. -/
def Act.unbind (a old : Act) : Act :=
  if old.msb.getLsbD 4 = false ∧ a.msb &&& ~~~(0x10 : Word64) = old.msb then { a with msb := old.msb } else a

/-- A context resumes on a core and slot: its area is read back, its waits are sent again (R300). A met party returns to
its visitor slot; while it has no live meeting core it stays saved. -/
def State.resumeContext (s : State) (aid home homeSlot : Nat) (tiles : List Nat) : State :=
  let s := s.newHome aid home homeSlot tiles
  let s := if (s.act aid).mg = 4 ∧ s.live (s.act aid).core = false then s.moveMeeting (s.act aid).core else s
  let a := s.act aid
  if a.mg = 4 ∧ s.live a.core = false then s
  else
    let s := (s.readSave aid a.saveOff true).getD s
    let s := s.setAct aid ((s.act aid).unbind a)
    (s.enterSlot aid a.core a.slot).replaySlots aid

/-- A crew's allocations and engine state read back from its image onto a placement. -/
def State.crewRestore (s : State) (r : LaunchRec) (cr : Crew) (p : Place) : State :=
  let sv := cr.save
  let s := p.lm.foldl (fun (s : State) x =>
    let m := coreMember x.1
    let (bs, bad) := s.imageRead (sv.image + imgLm r m) (Gang.lmLen r)
    let mould := (sv.lmMould.filter (fun y => y.1 == m)).flatMap (·.2)
    let c := s.core x.1
    s.setCore x.1 { c with
      lm := sparseWrite c.lm x.2 bs
      lmPoison := bad.foldl (fun t l => sparseSet false t (x.2 / 64 + l) true) c.lmPoison, mould := mould ++ c.mould }) s
  let (bs, bad) := s.imageRead (sv.image + imgQs r) (Gang.qsLen r)
  let ns := granted r.rings
  let rings := ns.map (fun k => (k, s.crewRing r cr k))
  let chans := ns.map (fun k => (k, s.crewChan r cr k))
  let q := s.quad p.quad
  s.setQuad p.quad { q with
    qs := sparseWrite q.qs p.qs bs
    qsPoison := bad.foldl (fun t l => sparseSet false t (p.qs / 64 + l) true) q.qsPoison, mould := sv.qsMould ++ q.mould
    rings := rings.foldl (fun t y => tableSet t y.1 y.2) q.rings
    chans := chans.foldl (fun t y => tableSet t y.1 y.2) q.chans
    lines := sv.lines.foldl (fun t y => tableSet t y.1 y.2) q.lines }

/-- SWAPPING A CREW IN on a placement. -/
def State.swapIn (s : State) (gid n : Nat) (p : Place) : State :=
  let g := s.gang gid
  match tableGet? g.crews n with
  | none => s
  | some cr =>
    let r := g.lrec
    let s := (s.prepare p r).crewRestore r cr p
    let cr' : Crew := { cr with
      quad := p.quad, cores := p.cores, slots := p.slots, tiles := p.tiles, lmBase := p.lm, swapped := false
      evacuated := false, save := {} }
    let s := s.setGang gid { s.gang gid with crews := tableSet g.crews n cr', unresumed := false }
    let s := cr.acts.foldl (fun (s : State) aid =>
      let a := s.act aid
      let home := quadCore p.quad (coreMember a.homeCore)
      let mine := (p.tiles.filter (fun x => x.1 == home)).map (·.2)
      s.resumeContext aid home a.homeSlot ((mine.drop (a.index % r.acts * r.tiles)).take r.tiles)) s
    s.jaccept g.part (g.crewEntry 6 gid n)

/-! ## Accepting, completing and ending a gang -/

/-- A gang identifier: the armature's choice, or the lowest free one if that is zero or taken (R140). -/
def State.freshGang (s : State) (n : Nat) : Nat :=
  let raw := (Config.gangIdRaw n).toNat
  if raw ≠ 0 ∧ (tableGet? s.gangs raw).isNone then raw
  else (((List.range (s.gangs.length + 1)).map (· + 1)).find? (fun x => (tableGet? s.gangs x).isNone)).getD 1

/-- A free index of the record store. -/
def Part.freeRecord (p : Part) : Nat :=
  ((List.range (p.records.length + 1)).find? (fun x => (tableGet? p.records x).isNone)).getD 0

/-- The status word of a host launch, where there is one; what becomes of its queue later does not affect where it stands
(R320). -/
def State.gangStatus (s : State) (gid state code jseq : Nat) : State :=
  let g := s.gang gid
  match g.kick with
  | some (q, n) => s.writeStatus g.part q n g.statusAt (statusWord gid state code jseq)
  | none => s

/-- A gang is to be ended: LAUNCH's kind (0 for another fault) and the grade; its END entry is journaled (R313, R317). -/
def State.requestEnd (s : State) (gid kind grade : Nat) : State :=
  let g := s.gang gid
  let tick := if kind = 0 ∧ g.faultPend.isSome then g.faultTick else s.tick
  let s := s.setGang gid { g with endPend := some (kind, grade), faultTick := tick }
  s.journal g.part { kind := 8, queue := g.jqueue, slot := g.jslot, code := grade, gang := gid, arg := w64 kind }
    (.end_ gid grade (w64 kind))

/-- Its END entry is on its way. -/
def State.ending (s : State) (gid : Nat) : Bool :=
  (s.part (s.gang gid).part).jpend.any (fun x => match x.2 with | .end_ g _ _ => g == gid | _ => false)

/-- A new gang, its ACCEPT entry on its way: the record, the capabilities, the kick, and the action. -/
def State.newGang (s : State) (part : Nat) (bytes : List Byte) (code arg : KReg) (kick : Option (Nat × Nat))
    (act : Nat → JAction) : State :=
  let (n, s) := s.take
  let gid := s.freshGang n
  let r := LaunchRec.ofBytes bytes
  let ix := (s.part part).freeRecord
  let g : Gang := { part := part, lrec := r, code := code, arg := arg, kick := kick, recIx := ix }
  let s := s.setGang gid g
  let s := s.setPart part { s.part part with records := tableSet (s.part part).records ix bytes }
  s.journal part { kind := 1, queue := g.jqueue, slot := g.jslot, code := r.cls, gang := gid, arg := w64 ix } (act gid)

/-- Registering a waiting launch's watch, and only then reading its counter, in that access's turn at its line (R314). -/
def State.watchCounter (s : State) (gid : Nat) : State :=
  let g := s.gang gid
  let s := s.setGang gid { g with waitWatch := true }
  let s := match s.objAddr g.part g.lrec.depObj g.lrec.depOff 8 false with
    | some a => s.portTurn (a / 64)
    | none => s
  s.setGang gid { s.gang gid with depHit := (s.gang gid).depHit || s.depReached g }

/-- A waiting launch is to be refused, its partition draining: the REFUSE entry is journaled (R319). -/
def State.refuseEntry (s : State) (gid : Nat) : State :=
  let g := s.gang gid
  s.journal g.part { kind := 2, queue := g.jqueue, slot := g.jslot, code := 1, gang := gid } (.refuse gid)

/-- The ACCEPT entry has been accepted: the gang waits for its counter, whose watch is registered before the counter is
read, or is eligible at once (R314); a gang that can never be placed is ended (R20), and one that would wait in a partition
that drains meanwhile is refused (R319). -/
def State.acceptGang (s : State) (gid n : Nat) : State :=
  let g := s.gang gid
  let p := s.part g.part
  let dep := g.lrec.depPresent
  let pods := if g.lrec.podGroup = 0 then p.pods else p.pods.map (fun (x : Nat × PodEntry) =>
    if x.2.pgenr.getLsbD 63 ∧ bits x.2.pgenr 47 32 = g.lrec.podGroup then (x.1, { x.2 with accepted := x.2.accepted + 1 })
    else x)
  let s := s.setPart g.part { p with pods := pods, waiting := if dep then p.waiting ++ [gid] else p.waiting }
  let s := s.setGang gid { g with acceptSeq := n, stage := if dep then .waiting else .eligible }
  let s := if dep then s.watchCounter gid else s
  if s.placeable false g.part g.lrec = false then s.requestEnd gid 4 (s.unplaceableGrade g.part g.lrec)
  else if dep && p.drain && !(s.gang gid).depHit then s.refuseEntry gid else s

/-- A gang's waiting-table entry is freed and its watch dropped. -/
def State.dropWait (s : State) (gid : Nat) : State :=
  let g := s.gang gid
  let p := s.part g.part
  (s.setPart g.part { p with waiting := p.waiting.filter (fun x => x != gid) }).setGang gid { g with waitWatch := false }

/-- A gang's record leaves the store. -/
def State.dropRecord (s : State) (gid : Nat) : State :=
  let g := s.gang gid
  s.setPart g.part { s.part g.part with records := tableErase (s.part g.part).records g.recIx }

/-- The counter at the completion signal is incremented (R34); an uncorrectable one keeps its value (R155). -/
def State.signalDone (s : State) (g : Gang) : State :=
  if g.lrec.donePresent = false then s
  else match s.objAddr g.part g.lrec.doneObj g.lrec.doneOff 8 true with
    | none => s
    | some a =>
      let s := s.portTurn (a / 64)
      if poisoned s.memPoison a 8 then s else s.plainWrite a (wordBytes64 8 (s.memWord a + 1))

/-- A gang completes (R34, R313). -/
def State.completeGang (s : State) (gid n : Nat) : State :=
  let g := s.gang gid
  let s := s.signalDone g
  let s := (s.gangStatus gid 3 0 n).dropRecord gid
  let s := s.dropMoulds gid
  let s := { s with insts := s.insts.filter (fun x => x.2.gang != gid) }
  let s := s.setGang gid { s.gang gid with stage := .completed, crews := [] }
  if g.kick.isSome then s.raiseHost g.part else s

/-- A core without a gang's contexts and operations. -/
def Core.without (c : Core) (mine ops : List Nat) : Core :=
  let slots := c.slots.filter (fun y => !mine.contains y.2)
  let gone := match c.holder with | some h => (tableGet? slots h).isNone | none => false
  { c with
    slots := slots, held := c.held.filter (fun y => !mine.contains y.2)
    holder := if gone then none else c.holder, last := if gone then c.holder.getD c.last else c.last
    mqueue := c.mqueue.filter (fun o => !ops.contains o), visitors := c.visitors.filter (fun y => !mine.contains y) }

/-- A quad without a gang's copies and meetings. -/
def Quad.without (q : Quad) (gid : Nat) : Quad :=
  { q with
    chans := q.chans.map (fun (c : Nat × Chan) => (c.1, { c.2 with queue := c.2.queue.filter (fun t => t.gang != gid) }))
    meet := q.meet.filter (fun e => e.gang != gid) }

/-- Every context, operation, copy, meeting and barrier of a gang is gone; its stores that are under way are still
performed (R333). -/
def State.clearGang (s : State) (gid : Nat) : State :=
  let mine := (s.gangActs gid).map (·.1)
  let ops := (s.ops.filter (fun x => mine.contains x.2.act)).map (·.1)
  let keep := s.reqs.filter (fun x => !mine.contains x.2.act || (x.2.kind.isWrite && x.2.performed.isNone))
  let s := { s with
    acts := s.acts.filter (fun x => !mine.contains x.1)
    ops := s.ops.filter (fun x => !ops.contains x.1)
    reqs := keep.map (fun (x : Nat × Req) => if mine.contains x.2.act then (x.1, { x.2 with accepted := true }) else x)
    insts := s.insts.filter (fun x => x.2.gang != gid) }
  let s := (s.mapCores (fun c => c.without mine ops)).mapQuads (fun q => q.without gid)
  let s := s.mapParts (fun p => { p with submits := p.submits.filter (fun o => !ops.contains o) })
  (s.dropMoulds gid).retryPairs

/-- The unit that reported a gang's fault (R326, R148, R296): as UNCORR's detail or the machine-check record names it. -/
def State.faultUnit (s : State) (t : TrapReq) (core : Nat) : Nat :=
  if t.cause = cUNCORR then t.detail.toNat % 32
  else if t.cause = cRETLOST then 14
  else if t.cause = cMCHECK then bits (s.core core).mcstat 60 56
  else 0

/-- The causes whose TADDR column names an address (R296). -/
def addressCause (c : Nat) : Bool := [cMISALIGN, cCAPBOUND, cOBJMISS, cOBJPROT, cATOMPATH, cUNCORR].contains c

/-- Where a fault happened: its address, or its detail where the cause has no address; FORMAT has one for operand 5 only
(R296, R327). -/
def TrapReq.where (t : TrapReq) : Word64 :=
  if addressCause t.cause || (t.cause == cFORMAT && bits t.detail 7 5 == 5) then t.addr else t.detail

/-- The fault record of an ending or a replay (R327): a LAUNCH ending carries its detail. -/
def State.gangRecord (s : State) (gid grade : Nat) (absorbed : Bool) (kind : Nat) : State :=
  let g := s.gang gid
  match kind, g.faultPend with
  | 0, some t => s.faultRecord g.part
      [faultWord1 gid grade absorbed (s.faultUnit t g.faultCore) t.cause g.faultCore, t.where, w64 g.faultTick]
  | _, _ => s.faultRecord g.part [faultWord1 gid grade absorbed 0 cLAUNCH 0, w64 kind, w64 g.faultTick]

/-- ENDING A GANG, its END entry being accepted (R313, R317, R333): its pending MEETs complete ABANDONED (R242), and its contexts
go. -/
def State.endGang (s : State) (gid grade kind n : Nat) : State :=
  let s := (s.gangRecord gid grade false kind).abandonMeets gid
  let s := (s.clearGang gid).dropWait gid
  let s := (s.gangStatus gid 4 grade n).dropRecord gid
  let g := s.gang gid
  let s := s.setGang gid { g with stage := .ended, crews := [], faultPend := none, endPend := none }
  if g.kick.isSome then s.raiseHost g.part else s

/-- A gang is unfinished. -/
def Gang.unfinished (g : Gang) : Bool := g.stage != .ended && g.stage != .completed

/-- Closing a queue (R320): a copy in progress is discarded, and an END entry of kind 7 is journaled next, with which its kick
bit is cleared and its slot refused with code 5 in the status area of the closing queue. -/
def State.closeQueue (s : State) (part q : Nat) : State :=
  let p := s.part part
  let p := { p with scan := p.scan.filter (fun n => n / 64 != q) }
  match p.copy with
  | none => s.setPart part p
  | some k =>
    if k.n / 64 ≠ q then s.setPart part p
    else s.setPart part { p with
      copy := none
      jpend := ({ kind := 8, queue := q, slot := k.n % 64, code := 5, arg := 7 },
        .discard k.n ((s.queue part q).statusAddr (k.n % 64))) :: p.jpend }

end Sys2Proof.Machine
end

