-- ==== Sys2Proof/Machine/EvSched.lean ====
section
/-! DEFINITION. Events of the armature scheduler (R18, R20, R34, R35, R37, R266, R299, R302, R303, R311..R320, R323). An
event that is not enabled leaves the state as it is; the scheduler acts while an armature core is live (R359), and one
journal entry at a time. -/
namespace Sys2Proof.Machine

/-- The scheduler may act for a partition: an armature core is live and no entry is on its way. -/
def State.schedFree (s : State) (part : Nat) : Bool := s.armatureLive && (s.part part).jpend.isEmpty

/-! ## The host's and the armature's register writes -/

/-- KICKSET_WRITE (R311, R312): bits are set and a scan begins. -/
def execKicksetWrite (part : Nat) (queue : Nat) (value : BitVec 64) (s : State) : Host.Outcome State Fault Refusal :=
  if 64 ≤ queue then .next s
  else
    let p := s.part part
    .next (s.setPart part ({ p with
      kickset := sparseSet 0 p.kickset queue (sparseGet 0 p.kickset queue ||| value) } : Part).rescan)

/-- KICKCLR_WRITE (R323). -/
def execKickclrWrite (part : Nat) (queue : Nat) (value : BitVec 64) (s : State) : Host.Outcome State Fault Refusal :=
  if 64 ≤ queue then .next s else .next (s.setPart part ((s.part part).clearKicks queue value))

/-- HOSTIRQ_WRITE (R323). -/
def execHostirqWrite (part : Nat) (s : State) : Host.Outcome State Fault Refusal := .next (s.raiseHost part)

/-- LQBASE as stored: reserved bits are zero, and priv is the armature's (R311). -/
def lqbaseStored (old value : Word64) (host : Bool) : Word64 :=
  let m : Word64 := 0xE300FFFFFFFFF000
  (value &&& m) ||| ((if host then old else value) &&& 0x0400000000000000)

/-- The value LQBASE has once the entries on their way are accepted. -/
def State.lqbaseLast (s : State) (part q : Nat) : Word64 :=
  (s.part part).jpend.foldl (fun v x => match x.2 with
    | .qopen k w => if k = q then w else v
    | .qclose k w => if k = q then w else v
    | _ => v) (s.queue part q).lqbase

/-- The fields of a closed queue change: an entry on its way that will store them stores the new ones (R311). -/
def State.lqbaseFields (s : State) (part q : Nat) (v : Word64) : State :=
  let p := s.part part
  let s := s.setPart part { p with jpend := p.jpend.map (fun x => match x.2 with
    | .qclose k _ => if k = q then (x.1, JAction.qclose k v) else x
    | _ => x) }
  if (s.queue part q).isOpen then s else s.setQueue part q { s.queue part q with lqbase := v }

/-- LQBASE_WRITE (R311, R320): it opens or closes the queue, or closes it under its old fields and reopens it under the new
ones, each journaled. -/
def execLqbaseWrite (part : Nat) (queue : Nat) (value : BitVec 64) (host : Bool) (s : State) :
    Host.Outcome State Fault Refusal :=
  if 64 ≤ queue then .next s
  else
    let old := s.lqbaseLast part queue
    let new := lqbaseStored old value host
    let shut (v : Word64) : Word64 := v &&& 0x7FFFFFFFFFFFFFFF
    let open_ (s : State) : State := s.journal part { kind := 9, queue := queue } (.qopen queue new)
    let close (s : State) (v : Word64) : State := s.journal part { kind := 10, queue := queue } (.qclose queue (shut v))
    if old = new then .next s
    else match old.getLsbD 63, new.getLsbD 63 with
      | false, false => .next (s.lqbaseFields part queue new)
      | false, true => .next (open_ s)
      | true, false => .next (close s new)
      | true, true => .next (open_ (close s old))

/-- DRAIN_WRITE (R319): setting or clearing DRAIN is journaled. -/
def execDrainWrite (part : Nat) (value : BitVec 64) (s : State) : Host.Outcome State Fault Refusal :=
  .next (s.journal part { kind := 11, code := if value.getLsbD 0 then 1 else 0 } (.drain (value.getLsbD 0)))

/-- A bitmap's bit. -/
def bitmapBit (bs : List Byte) (p : Nat) : Bool := (bs[p / 8]?.getD 0).getLsbD (p % 8)

/-- What makes an enrolment valid (R316). -/
def State.enrolled (s : State) (part entry : Nat) (v : Word64) (bs : List Byte) : Bool :=
  let g := bits v 47 32
  g != 0 && bitmapBit bs (Config.packageNumber.toNat)
    && !((List.range 1024).any (fun p => decide (Config.packagesMinus1.toNat < p) && bitmapBit bs p))
    && !((s.part part).pods.any (fun e => e.1 != entry && e.2.pgenr.getLsbD 63 && bits e.2.pgenr 47 32 == g))

/-- A valid entry of which a gang of the group is unfinished in the partition: writes that change it are ignored (R316). -/
def State.podBusy (s : State) (part : Nat) (e : PodEntry) : Bool :=
  e.pgenr.getLsbD 63
    && s.gangs.any (fun x => x.2.part == part && x.2.unfinished && x.2.lrec.podGroup == bits e.pgenr 47 32)

/-- PGENR_WRITE (R316): a write that sets valid copies the membership bitmap and counts afresh; while a gang of a valid
entry's group is unfinished no write changes the entry. -/
def execPgenrWrite (part : Nat) (entry : Nat) (value : BitVec 64) (s : State) : Host.Outcome State Fault Refusal :=
  if 16 ≤ entry then .next s
  else
    let e := (tableGet? (s.part part).pods entry).getD {}
    let v := value &&& 0x8000FFFF0000FFFF
    if s.podBusy part e then .next s
    else
      let a := bits e.pgmem 47 7 * 128
      let s := (linesOf a 128).foldl (fun (s : State) l => s.portTurn l) s
      let bs := s.memRead a 128
      let v := if v.getLsbD 63 ∧ s.enrolled part entry v bs = false then v &&& 0x7FFFFFFFFFFFFFFF else v
      let e' : PodEntry := { e with pgenr := v, bitmap := if v.getLsbD 63 then bs else e.bitmap, accepted := 0 }
      .next (s.setPart part { s.part part with pods := tableSet (s.part part).pods entry e' })

/-! ## Kicks (R312) -/

/-- KICK_SCAN (R312): every 100 ticks. -/
def execKickScan (part : Nat) (s : State) : Host.Outcome State Fault Refusal :=
  let p := s.part part
  if p.lastScan + 100 ≤ s.tick then .next (s.setPart part { p.rescan with lastScan := s.tick }) else .next s

/-- The next kick of a scan: its bit is still set and its queue is open. -/
def State.nextKick (s : State) (part : Nat) : Option Nat :=
  let p := s.part part
  p.scan.find? (fun n => (sparseGet 0 p.kickset (n / 64)).getLsbD (n % 64) && (s.queue part (n / 64)).isOpen)

/-- The capabilities that the armature makes of a host record (R265): a whole object with its rights. -/
def State.wholeCap (s : State) (part obj rights : Nat) : KReg :=
  KReg.make obj rights (match s.otEntry part obj with | some e => e.size | none => 0) 0 true

/-- A copied record is checked and its outcome journaled (R312 steps 3, 4). One that was taken while the partition drained is
refused, whatever DRAIN is by now (R319). -/
def State.kickCheck (s : State) (part : Nat) (k : KickCopy) : State :=
  let p := s.part part
  let q := k.n / 64
  let slot := k.n % 64
  let r := LaunchRec.ofBytes k.bytes
  let s := s.setPart part (({ p with copy := none } : Part).scanned k.n)
  let refuse (code : Nat) (arg : Word64) : State :=
    s.journal part { kind := 2, queue := q, slot := slot, code := code, arg := arg } (.kick k.n 0 (statusWord 0 2 code 0))
  if k.drainBefore = false then refuse 1 0
  else match recordFault (s.recordFaults part k.bytes r ++ kickFaults (s.queue part q).lqbase r) with
    | some f => refuse 4 (w64 (malformedDetail f))
    | none =>
      if r.depPresent ∧ 1024 ≤ p.waiting.length then refuse 2 0
      else
        s.newGang part k.bytes (s.wholeCap part r.codeObj (rR + rX))
          (if r.argPresent then s.wholeCap part r.argObj r.argRights.toNat else {}) (some (q, slot))
          (fun gid => .kick k.n gid (statusWord gid 1 0 0))

/-- KICK_TAKE (R312): first the slot is copied whole, each 8-byte part once; then the copy is checked and its outcome is
journaled, unless the queue has closed meanwhile (R320). -/
def execKickTake (part : Nat) (s : State) : Host.Outcome State Fault Refusal :=
  if s.schedFree part = false then .next s
  else
    let p := s.part part
    match p.copy with
    | some k => .next (s.kickCheck part k)
    | none =>
      match s.nextKick part with
      | none => .next s
      | some n =>
        let q := s.queue part (n / 64)
        let a := q.addr (bits q.lqbase 47 12 * 4096 + 64 * (n % 64))
        let s := s.portTurn (a / 64)
        .next (s.setPart part { s.part part with
          copy := some { n := n, bytes := s.memRead a 64, drainBefore := !(s.part part).drain } })

/-! ## The journal (R317) -/

/-- DRAIN set: every entry of the waiting-launch table is to be refused (R319). -/
def State.refuseWaiting (s : State) (part : Nat) : State :=
  (s.part part).waiting.foldl (fun (s : State) gid => s.refuseEntry gid) s

/-- A kick bit's status word at a home address fixed before: what a closing queue discards (R320). -/
def State.discardKick (s : State) (part n k addr : Nat) : State :=
  let s := s.setPart part ((s.part part).clearKicks (k / 64) (w64 (2 ^ (k % 64))))
  s.schedWrite addr (wordBytes64 8 (statusWord 0 2 5 n))

/-- The action of an accepted entry takes effect. -/
def State.perform (s : State) (part n : Nat) (x : JAction) : State :=
  match x with
  | .none => s
  | .takeover =>
    let s := s.reconcile part
    s.setPart part ({ s.part part with scanPos := 0 } : Part).rescan
  | .kick k gid status =>
    let s := s.setPart part ((s.part part).clearKicks (k / 64) (w64 (2 ^ (k % 64))))
    let addr := (s.queue part (k / 64)).statusAddr (k % 64)
    let s := s.writeStatus part (k / 64) (k % 64) addr (status ||| w64 (n % 2 ^ 16))
    if gid = 0 then s else (s.setGang gid { s.gang gid with statusAt := addr }).acceptGang gid n
  | .launched op gid refusal =>
    match s.op? op with
    | none => s.acceptGang gid n
    | some o =>
      let s := s.unreplayable (s.act o.act).gang
      (s.answerOp op o (statusWrites o (w64 (gid + refusal * 2 ^ 32)))).acceptGang gid n
  | .eligible gid => (s.dropWait gid).setGang gid { (s.dropWait gid).gang gid with stage := .eligible }
  | .refuse gid =>
    if (s.gang gid).stage = .waiting then
      let s := ((s.gangStatus gid 2 1 n).dropRecord gid).dropWait gid
      { s with gangs := tableErase s.gangs gid }
    else s
  | .complete gid => s.completeGang gid n
  | .end_ gid grade detail => s.endGang gid grade detail.toNat n
  | .qopen q v => s.setQueue part q { s.queue part q with lqbase := v, slots := [] }
  | .qclose q v =>
    let s := s.closeQueue part q
    s.setQueue part q { s.queue part q with lqbase := v }
  | .discard k addr => s.discardKick part n k addr
  | .drain v =>
    let s := s.setPart part { s.part part with drain := v }
    if v then s.refuseWaiting part else s

/-- JOURNAL_ENTRY_ACCEPTED (R317). -/
def execJournalEntryAccepted (part : Nat) (s : State) : Host.Outcome State Fault Refusal :=
  if s.armatureLive = false then .next s
  else
    let p := s.part part
    match p.jpend with
    | [] => .next s
    | (e, x) :: r =>
      let s := (s.setPart part { p with jpend := r }).jaccept part e
      .next (s.perform part p.jseq x)

/-! ## Launches (R266, R314) -/

/-- A LAUNCH is refused: its result is written at once. -/
def State.refuseLaunch (s : State) (op : Nat) (o : Op) (code : Nat) : State :=
  s.answerOp op o (statusWrites o (w64 (code * 2 ^ 32)))

/-- A LAUNCH is answered once the memory words before it have been performed: what they wrote is there for the gang it
launches (R281). -/
def State.launchReady (s : State) (op : Nat) : Bool :=
  match s.op? op with
  | some o => s.memDone o.act o.num
  | none => true

/-- LAUNCH_SUBMISSION (R266): the oldest submitted record that may be answered is refused, or its ACCEPT entry is
journaled; a record whose pod group has meanwhile accepted all that it expects is malformed (R316), which its LAUNCH takes as
its fault (log 49). -/
def execLaunchSubmission (part : Nat) (s : State) : Host.Outcome State Fault Refusal :=
  if s.schedFree part = false then .next s
  else
    let p := s.part part
    match p.submits.find? s.launchReady with
    | none => .next s
    | some op =>
      let s := s.setPart part { p with submits := p.submits.erase op }
      match s.op? op with
      | none => .next s
      | some o =>
        match o.kind with
        | .launch _ bytes code arg =>
          let r := LaunchRec.ofBytes bytes
          let g := s.gang (s.act o.act).gang
          if p.drain then .next (s.refuseLaunch op o 1)
          else if g.endPend.isSome ∨ g.stage ≠ .eligible then .next (s.refuseLaunch op o 3)
          else if r.depPresent ∧ 1024 ≤ p.waiting.length then .next (s.refuseLaunch op o 2)
          else if r.podGroup ≠ 0 ∧ s.podAccepts part r.podGroup = false then
            .next (s.lateTrap op o (mkTrap cLAUNCH (malformedDetail (22, 2))))
          else .next (s.newGang part bytes code arg none (fun gid => .launched op gid 0))
        | _ => .next s

/-- DEPENDENCE_THRESHOLD (R314): a waiting launch whose counter has reached its threshold becomes eligible. -/
def execDependenceThreshold (part : Nat) (gang : Nat) (s : State) : Host.Outcome State Fault Refusal :=
  let g := s.gang gang
  if s.schedFree part ∧ g.part = part ∧ g.stage = .waiting ∧ g.depHit = true ∧ g.endPend = none then
    .next (s.journal part { kind := 3, queue := g.jqueue, slot := g.jslot, gang := gang } (.eligible gang))
  else .next s

/-! ## Dispatch (R18, R20, R21, R315) -/

/-- The quads on which class 0 has resident crews. -/
def State.classZeroQuads (s : State) (part : Nat) : List Nat :=
  (s.gangs.flatMap (fun x => if x.2.part = part ∧ x.2.lrec.cls = 0 then
      (x.2.crews.filter (fun c => c.2.resident)).map (fun c => c.2.quad) else [])).eraseDups

/-- The crew that a class-0 head pre-empts: the highest class, then the newest gang, then its last crew (R315). -/
def State.victim (s : State) (part : Nat) : Option (Nat × Nat) :=
  let all := s.gangs.flatMap (fun x => if x.2.part = part ∧ x.2.lrec.cls ≠ 0 then
      (x.2.crews.filter (fun c => c.2.resident)).map (fun c => (x.2.lrec.cls, x.2.acceptSeq, c.1, x.1)) else [])
  let worse (a b : Nat × Nat × Nat × Nat) : Bool :=
    decide (a.1 < b.1) || (a.1 == b.1 && (decide (a.2.1 < b.2.1) || (a.2.1 == b.2.1 && decide (a.2.2.1 < b.2.2.1))))
  (all.foldl (fun m x => match m with
    | none => some x
    | some y => if worse y x then some x else some y) none).map (fun x => (x.2.2.2, x.2.2.1))

/-- The gang's next crew, or a BSP gang whole, has no room now. -/
def State.noRoom (s : State) (gid : Nat) (g : Gang) : Bool :=
  if g.lrec.bsp && g.crews.isEmpty then (s.placeAll gid g g.lrec.crews s.holdings).isNone
  else (s.findPlace s.holdings gid g).isNone

/-- The state as it would stand with no crew of classes 1 to 3 of a partition resident. -/
def State.classZeroOnly (s : State) (part : Nat) : State :=
  let keep (aid : Nat) : Bool :=
    let g := s.gang (s.act aid).gang
    g.part != part || g.lrec.cls == 0
  s.mapCores (fun c => { c with slots := c.slots.filter (fun y => keep y.2), held := c.held.filter (fun y => keep y.2) })

/-- How many quads class 0 would hold with its head placed as if no crew of another class were in its way (R315; log 62). -/
def State.wouldHold (s : State) (gid : Nat) (g : Gang) : Option Nat :=
  let hs := s.holdings.filter (fun h => (s.gang h.gang).part != g.part || (s.gang h.gang).lrec.cls == 0)
  let n := if g.lrec.bsp && g.crews.isEmpty then g.lrec.crews else 1
  ((s.classZeroOnly g.part).placeAll gid g n hs).map (fun ps =>
    (s.classZeroQuads g.part ++ ps.map (·.quad)).eraseDups.length)

/-- A class-0 head that cannot be placed is pre-empting: pre-emption is enabled, class 0 would hold no more quads than its
reservation, and a crew of another class is resident (R315). Classes are served in order, so no other class places a crew
meanwhile. -/
def State.preempting (s : State) (part : Nat) : Bool :=
  let c0 := (s.part part).c0res
  match s.head part 0 with
  | some (h, g) => c0.getLsbD 63 && (s.victim part).isSome && s.noRoom h g && (match s.wouldHold h g with
      | some n => decide (n ≤ bits c0 9 0)
      | none => false)
  | none => false

/-- A class-0 head that cannot be placed pre-empts one more crew. -/
def State.makeRoom (s : State) (gid : Nat) (g : Gang) : State :=
  if s.preempting g.part = true ∧ (s.head g.part 0).map (·.1) = some gid then
    match s.victim g.part with
    | some (v, n) => (s.swapOut v n).getD s
    | none => s
  else s

/-- The gang may have crews placed now. -/
def State.dispatchable (s : State) (gid : Nat) : Bool :=
  let g := s.gang gid
  s.schedFree g.part && g.stage == .eligible && g.endPend.isNone && g.faultPend.isNone && !s.saving

/-- A gang earlier in the order of R315 (by class, then by ACCEPT entry) can be placed now, or class 0 is making room: the
gang waits its turn. -/
def State.outranked (s : State) (g : Gang) : Bool :=
  (g.lrec.cls != 0 && s.preempting g.part)
    || (s.waitingGangs g.part).any (fun x =>
      (decide (x.2.lrec.cls < g.lrec.cls) || (x.2.lrec.cls == g.lrec.cls && decide (x.2.acceptSeq < g.acceptSeq)))
        && s.dispatchable x.1 && !s.noRoom x.1 x.2)

/-- CREW_DISPATCH (R18, R21): the next crew is placed on the lowest quad that can take it, a BSP gang whole or not at all;
a gang that can no longer be placed is ended (R20). -/
def execCrewDispatch (gang : Nat) (s : State) : Host.Outcome State Fault Refusal :=
  let g := s.gang gang
  match g.due with
  | some (n, false) =>
    if s.dispatchable gang = false ∨ s.outranked g = true then .next s
    else if s.placeable false g.part g.lrec = false ∧ g.crews.isEmpty = true then
      .next (s.requestEnd gang 4 (s.unplaceableGrade g.part g.lrec))
    else if g.lrec.bsp then
      match s.placeAll gang g g.lrec.crews s.holdings with
      | none => .next (s.makeRoom gang g)
      | some ps =>
        .next ((ps.zipIdx.foldl (fun (s : State) x => s.dispatchCrew gang x.2 x.1) s).afterDispatch gang)
    else match s.findPlace s.holdings gang g with
      | none => .next (s.makeRoom gang g)
      | some p => .next ((s.dispatchCrew gang n p).afterDispatch gang)
  | _ => .next s

/-- CREW_SWAP_IN (R302): a crew that no quad could take back any more ends its gang, requeue-elsewhere where it was evacuated
(R20, R328). -/
def execCrewSwapIn (gang : Nat) (crew : Nat) (s : State) : Host.Outcome State Fault Refusal :=
  let g := s.gang gang
  if g.due = some (crew, true) ∧ s.dispatchable gang = true ∧ s.outranked g = false then
    match s.findPlace s.holdings gang g with
    | some p => .next (s.swapIn gang crew p)
    | none =>
      match tableGet? g.crews crew with
      | none => .next s
      | some cr =>
        if s.canReturn g cr then .next (s.makeRoom gang g)
        else .next (s.requestEnd gang 4 (if cr.evacuated then 1 else s.unplaceableGrade g.part g.lrec))
  else .next s

/-- PREEMPTION (R299): a context is taken off its core and written to its save area, or a context so saved resumes in its
slot (R300). -/
def execPreemption (act : Nat) (s : State) : Host.Outcome State Fault Refusal :=
  let a := s.act act
  if a.run = .saved then
    let placed : Bool := match tableGet? (s.gang a.gang).crews a.crew with
      | some cr => cr.resident && s.live a.homeCore
      | none => isArmature a.core
    if placed = true ∧ s.saving = false then .next (s.resumeContext act a.homeCore a.homeSlot a.tiles) else .next s
  else if (tableGet? s.acts act).isSome ∧ s.canSave act = true then .next ((s.saveContext act).getD s)
  else .next s

/-! ## Parked crews (R35, R37) -/

/-- The activity is parked: not ready because it waits on an off-core tag, or for the copy engine (log 8). -/
def State.parkedAct (s : State) (aid : Nat) : Bool :=
  let a := s.act aid
  a.run == .inService && a.duePend.isNone && (s.interruptOf a).isNone
    && (match a.block with
      | some (.engine _ _ _ _) => !s.unblocked aid a
      | b => s.ops.any (fun x => x.2.act == aid && x.2.offCore)
        && (a.mg == 3 || a.mg == 5 || (match b with
          | some (.walk _ _ _ _ _) => false
          | some .wfi => false
          | some _ => !s.unblocked aid a
          | none => (s.nextTags aid a).2.any (·.offCore))))

/-- The tick since which a crew is parked. -/
def State.parkedSince (s : State) (cr : Crew) : Option Nat :=
  if cr.resident && !cr.acts.isEmpty && cr.acts.all s.parkedAct then
    some (cr.acts.foldl (fun m a => max m (s.act a).parkTick) 0)
  else none

/-- The gang's lowest-indexed unfinished crew. -/
def Gang.lowest (g : Gang) : Option (Nat × Crew) := g.crews.find? (fun x => !x.2.finished)

/-- The resident crew that has been parked longest, the lowest unfinished one apart. -/
def State.longestParked (s : State) (g : Gang) : Option Nat :=
  let low := g.lowest.map (·.1)
  ((g.crews.filter (fun x => x.2.resident && some x.1 != low)).foldl (fun m x =>
    match s.parkedSince x.2, m with
    | some t, none => some (t, x.1)
    | some t, some (u, n) => if t < u then some (t, x.1) else some (u, n)
    | none, m => m) none).map (·.2)

/-- The conditions of the stall sweep (R35). -/
def State.stalled (s : State) (g : Gang) : Bool :=
  g.due.isSome && (g.crews.filter (fun x => x.2.resident)).all (fun x => match s.parkedSince x.2 with
    | some t => decide (t + 5000 ≤ s.tick)
    | none => false)

/-- STALL_SWEEP (R35): a crew is swapped out unless the next one due already fits. The crew due is looked up at each step of
a sweep, so a crew that the sweep itself has swapped out is due before one never dispatched, and ends the sweep if it fits
its own place (the model's choice; log 63). -/
def execStallSweep (gang : Nat) (s : State) : Host.Outcome State Fault Refusal :=
  let g := s.gang gang
  if s.dispatchable gang ∧ s.stalled g = true ∧ s.findPlace s.holdings gang g = none then
    match s.longestParked g with
    | some n => .next ((s.swapOut gang n).getD s)
    | none => .next s
  else .next s

/-- CYCLE_CHECK_EXPIRY (R37). -/
def execCycleCheckExpiry (gang : Nat) (s : State) : Host.Outcome State Fault Refusal :=
  let g := s.gang gang
  match g.lowest with
  | none => .next s
  | some (_, cr) =>
    match s.parkedSince cr with
    | some t =>
      if g.lrec.cyclecheck ∧ t + 1000000 ≤ s.tick ∧ s.dispatchable gang = true then .next (s.requestEnd gang 5 3)
      else .next s
    | none => .next s

/-- An instance of the gang's own has an arrival and is not complete. -/
def State.watchWaits (s : State) (gid : Nat) : Bool :=
  s.insts.any (fun x => (x.2.gang == gid || x.2.arrivals.any (fun a => (s.act a.act).gang == gid))
    && !x.2.arrivals.isEmpty && x.2.done.isNone)

/-- The watchdog pauses while an activity of the gang is in a trap, stopped, halted or swapped out (R303). -/
def State.watchPaused (s : State) (gid : Nat) : Bool :=
  (s.gangActs gid).any (fun x => x.2.tip || x.2.run == .stopped || x.2.run == .halted || x.2.run == .saved)

/-- A gang after a tick: its watchdog's count, and that the count has reached the limit. -/
def State.watchGang (s : State) (gid : Nat) (g : Gang) : Gang :=
  if !s.watchWaits gid then { g with watch := 0 }
  else if s.watchPaused gid then g
  else { g with watch := g.watch + 1, watchHit := g.watchHit || decide (Config.watchdogLimit gid ≤ g.watch + 1) }

/-- BARRIER_WATCHDOG_EXPIRY (R303): requeue-safe. A gang whose count has reached the limit is ended as soon as an entry can be
journaled; the end of a tick lets it happen at once. -/
def execBarrierWatchdogExpiry (gang : Nat) (s : State) : Host.Outcome State Fault Refusal :=
  let g := s.gang gang
  if g.watchHit = true ∧ g.stage = .eligible ∧ g.endPend = none ∧ s.schedFree g.part = true then
    .next (s.requestEnd gang 6 0)
  else .next s

/-! ## Endings (R34, R313, R328, R333) -/

/-- Every activity has exited, every copy has completed and every store has been accepted (R34). -/
def State.complete? (s : State) (gid : Nat) : Bool :=
  let g := s.gang gid
  g.stage == .eligible && g.crews.length == g.lrec.crews && g.crews.all (fun x => x.2.finished)
    && (s.gangActs gid).isEmpty && s.copiesDone gid none
    && !(s.reqs.any (fun x => x.2.gang == gid && x.2.kind.isWrite && !x.2.accepted && x.2.performed.isNone))

/-- GANG_COMPLETION (R34): its COMPLETE entry is journaled; the counter is incremented when that is accepted (R317). -/
def execGangCompletion (gang : Nat) (s : State) : Host.Outcome State Fault Refusal :=
  let g := s.gang gang
  if s.complete? gang ∧ s.schedFree g.part = true ∧ g.endPend = none then
    .next (s.journal g.part { kind := 7, queue := g.jqueue, slot := g.jslot, gang := gang } (.complete gang))
  else .next s

/-- The gang's pending fault is one that a replay undoes, replays so far apart (R332): consumption or a scrubbed line whose
damaged lines are all restorable, or RETLOST, in a superstep that is replayable. -/
def Gang.restorable (g : Gang) : Bool :=
  g.lrec.bsp && g.opened && g.replayable && g.judged.all (fun x => x.2.2) && (match g.faultPend with
    | some t => t.cause == cUNCORR || t.cause == cRETLOST
    | none => true)

/-- The gang's pending fault leads to a replay (R332). -/
def Gang.canReplay (g : Gang) : Bool := g.restorable && decide (g.replays < 3)

/-- The grade of a gang that its fault ends (R328): requeue-elsewhere for what would need a fourth replay and for an
evacuation, else requeue-safe; MCHECK as its record says (R148; log 49). -/
def State.faultGrade (s : State) (g : Gang) : Nat :=
  if g.evacErr || (g.restorable && decide (3 ≤ g.replays)) then 1
  else match g.faultPend with
    | some t => if t.cause = cMCHECK then bits (s.core g.faultCore).mcstat 62 61 else 0
    | none => 0

/-- GANG_END (R313, R333): an ending that has been called for, a fault that no replay can undo, or a request of software
with its grade; a gang that an emergency save kept and that is not resumed is graded requeue-safe (R350). -/
def execGangEnd (gang : Nat) (grade : BitVec 2) (s : State) : Host.Outcome State Fault Refusal :=
  let g := s.gang gang
  if s.schedFree g.part = false ∨ g.unfinished = false ∨ g.stage = .accepting ∨ s.ending gang = true then .next s
  else match g.endPend with
    | some (kind, gr) => .next (s.requestEnd gang kind gr)
    | none =>
      if g.faultPend.isSome ∧ g.canReplay = false then .next (s.requestEnd gang 0 (s.faultGrade g))
      else .next (s.requestEnd gang 8 (if g.unresumed then 0 else grade.toNat))

end Sys2Proof.Machine
end

