-- ==== Sys2Proof/Machine/EvSync.lean ====
section
/-! DEFINITION. Events of the sync tree and the work distributor: arrivals, completion, release, pod groups, TAKE and SHARE
(R26..R32, R260..R264, R316, R329, R348). -/
namespace Sys2Proof.Machine

/-! ## Work distribution (R26..R28) -/

/-- TAKE_SERVED (R26): f is read when the distributor serves it. -/
def execTakeServed (op : Nat) (s : State) : Host.Outcome State Fault Refusal :=
  match s.op? op with
  | none => .next s
  | some o =>
    match o.kind with
    | .take _ core =>
      if s.canLand o = false then .next s
      else
        let gid := (s.act o.act).gang
        let g := s.gang gid
        let (start, count) := takeAnswer g.lrec.pool g.poolLeft g.lrec.chunk (s.freq core)
        let s := s.setGang gid { g with poolLeft := g.poolLeft - count }
        .next (s.clearTag op o (statusWrites o (w64 (start + count * 2 ^ 32))))
    | _ => .next s

/-- SHARE_SERVED (R27, R28): a SHARE that comes before the first snapshot stays parked. -/
def execShareServed (op : Nat) (s : State) : Host.Outcome State Fault Refusal :=
  match s.op? op with
  | none => .next s
  | some o =>
    match o.kind, (s.gang (s.act o.act).gang).share with
    | .share _ t, some l =>
      if s.canLand o = false then .next s
      else
        let (off, n) := shareAnswer t (s.act o.act).rank l
        .next (s.clearTag op o (statusWrites o (w64 (off + n * 2 ^ 32))))
    | _, _ => .next s

/-! ## Arrivals (R30, R260) -/

/-- The gang under which an instance is counted: a pod group's instances belong to no gang. -/
def State.instGang (s : State) (a : Act) (kind : Nat) : Nat := if kind = 4 ∧ s.podGroup a ≠ 0 then 0 else a.gang

/-- The instance of a kind, sid and number, if an arrival has reached it. -/
def State.findInst (s : State) (gang kind : Nat) (sid : Word64) (num : Nat) : Option (Nat × Inst) :=
  s.insts.find? (fun x => x.2.gang == gang && x.2.kind == kind && x.2.sid == sid && x.2.num == num)

/-- An arrival's answer at the tree: the tag of a BARA clears. -/
def State.arrivalTaken (s : State) (aid : Nat) (x : Sent) : State :=
  let s := s.setAct aid { s.act aid with sent := none }
  match x.op with
  | some oid => (match s.op? oid with | some o => s.answerOp oid o [] | none => s)
  | none => s

/-- BARRIER_ARRIVAL (R30): it is timestamped as it reaches the tree, and the core that the report may name is the one that
executed the word, for an arrival from a visitor slot the meeting core (the model's choice; log 69); arrivals of different kinds
in one instance end the gang (R260); one at a pod-scope barrier of a pod group makes the superstep not replayable (R331). -/
def execBarrierArrival (act : Nat) (s : State) : Host.Outcome State Fault Refusal :=
  let a := s.act act
  match a.sent, a.held with
  | some x, some h =>
    let gid := s.instGang a h.kind
    let num := a.arrivalCount h.kind h.sid
    let arr : Arrival :=
      { act := act, core := a.core, pkg := if h.kind = 4 then Config.packageNumber.toNat else 0, tick := s.tick
        operand := x.operand, style := x.style }
    let s := s.arrivalTaken act x
    let s := if gid = 0 then s.unreplayable a.gang else s
    match s.findInst gid h.kind h.sid num with
    | some (n, i) =>
      match i.arrivals.find? (fun y => y.act ≠ 0) with
      | some y =>
        if y.style ≠ x.style then .next (s.requestEnd a.gang 0 3)
        else .next { s with insts := tableSet s.insts n { i with arrivals := i.arrivals ++ [arr] } }
      | none => .next { s with insts := tableSet s.insts n { i with arrivals := i.arrivals ++ [arr] } }
    | none =>
      let (n, s) := s.take
      let i : Inst :=
        { part := a.part, gang := gid, kind := h.kind, sid := h.sid, num := num, rect := if h.kind = 5 then h.sid else 0
          origin := a.homeCore, arrivals := [arr] }
      .next { s with insts := tableSet s.insts n i }
  | _, _ => .next s

/-! ## Completion (R29, R30, R348) -/

/-- An activity takes part in an instance of its gang by its origin core's place (R29); cores that are not live are left
out (R337), but every activity takes part in a superstep (R32). -/
def State.takesPart (s : State) (i : Inst) (a : Act) : Bool :=
  match i.kind with
  | 0 => a.homeCore == i.origin && s.live a.homeCore
  | 1 => coreQuad a.homeCore == coreQuad i.origin && s.live a.homeCore
  | 2 => coreDie a.homeCore == coreDie i.origin && s.live a.homeCore
  | 5 => inRect i.rect a.homeCore && s.live a.homeCore
  | 6 => true
  | _ => s.live a.homeCore

/-- Every activity that takes part has arrived or issued EXIT. -/
def State.allArrived (s : State) (gid : Nat) (i : Inst) : Bool :=
  (s.gangActs gid).all (fun x => x.2.leaving || !s.takesPart i x.2 || i.arrivals.any (fun y => y.act == x.1))

/-- The later of two arrivals: by tick, then package, then core. -/
def laterArrival (x y : Arrival) : Arrival :=
  if x.tick < y.tick ∨ (x.tick = y.tick ∧ (x.pkg < y.pkg ∨ (x.pkg = y.pkg ∧ x.core < y.core))) then y else x

/-- The report (R30). -/
def barReport (l : List Arrival) : Word64 :=
  match l with
  | [] => 0
  | x :: r =>
    let last := r.foldl laterArrival x
    let first := r.foldl (fun m y => min m y.tick) x.tick
    w64 (last.pkg % 2 ^ 10 * 2 ^ 48 + last.core % 2 ^ 11 * 2 ^ 32 + min (last.tick - first) 0xFFFFFFFF)

/-- BARRED's reduction: sum modulo 2^64, signed maximum or minimum (R262). -/
def barReduce (style : Nat) (l : List Arrival) : Word64 :=
  match l with
  | [] => 0
  | x :: r => r.foldl (fun (m : Word64) y =>
      if style = 1 then m + y.operand
      else if style = 2 then (if m.toInt < y.operand.toInt then y.operand else m)
      else (if y.operand.toInt < m.toInt then y.operand else m)) x.operand

/-- An instance completes with a tick; each partition's release delay and stagger have been sampled then (R348). -/
def State.finishInst (s : State) (n : Nat) (i : Inst) (tick : Nat) : State :=
  let style := (i.arrivals.headD { act := 0, core := 0, pkg := 0, tick := 0, operand := 0, style := 0 }).style
  { s with insts := tableSet s.insts n { i with done := some (tick, barReport i.arrivals, barReduce style i.arrivals) } }

/-- PWRCTL of every partition, as a completion samples it. -/
def State.powers (s : State) : Table Word64 := s.parts.map (fun x => (x.1, x.2.pwrctl))

/-- BARRIER_COMPLETE (R29): with the share snapshot at package scope (R27). -/
def execBarrierComplete (inst : Nat) (s : State) : Host.Outcome State Fault Refusal :=
  match s.inst? inst with
  | none => .next s
  | some i =>
    if i.done.isSome ∨ i.kind = 6 ∨ i.gang = 0 ∨ i.arrivals.isEmpty = true ∨ s.allArrived i.gang i = false then .next s
    else
      let s := s.finishInst inst { i with pwr := s.powers } s.tick
      .next (if i.kind = 3 then s.takeShare i.gang else s)

/-- A participant may be moulded: its tags are free but for restartable waits and a MEET that can be withdrawn, and no
handler runs. -/
def State.mouldable (s : State) (aid : Nat) : Bool := (s.act aid).trapPend.isNone && s.settled aid

/-- Every tile of an activity reads as zero, tagged FP32; those of a saved one stand in its save area (R32). -/
def State.zeroTiles (s : State) (aid : Nat) : State :=
  let a := s.act aid
  if a.run = .saved then
    (s.objWrites a.part a.saveObj a.saveOff ((List.range a.tiles.length).map (fun n =>
      (4096 + imageBytes * n, tileImage {} false)))).getD s
  else a.tiles.foldl (fun (s : State) n => s.newTile a.homeCore n {}) s

/-- The matrix unit has finished the words of an activity that come before its SSTEP (R208, R263). -/
def State.matrixDone (s : State) (aid : Nat) : Bool :=
  let bars := s.ops.filter (fun x => x.2.act == aid && (match x.2.kind with | .bar _ _ => true | _ => false))
  !(s.ops.any (fun x => x.2.act == aid && (match x.2.kind with | .matrix _ _ => true | _ => false)
    && bars.all (fun y => decide (x.2.num < y.2.num))))

/-- An SSTEP's copies and matrix words have finished and no fault of its superstep is pending: it completes with this tick
(R348). -/
def State.sstepMet (s : State) (i : Inst) : Bool :=
  s.copiesDone i.gang none && (s.gangActs i.gang).all (fun x => s.matrixDone x.1) && (s.gang i.gang).faultPend.isNone

/-- SSTEP_COMPLETE (R32, R263, R329): after every copy of the gang and every earlier matrix word, whose tick is the instance's;
once every participant can be moulded the tiles are zero, the share snapshot is retaken, and a new epoch opens. -/
def execSstepComplete (inst : Nat) (s : State) : Host.Outcome State Fault Refusal :=
  match s.inst? inst with
  | none => .next s
  | some i =>
    let acts := (s.gangActs i.gang).map (·.1)
    if i.done.isSome ∨ i.kind ≠ 6 ∨ i.arrivals.isEmpty = true ∨ s.allArrived i.gang i = false
        ∨ (i.early.isNone = true ∧ s.sstepMet i = false) then .next s
    else
      let i := if i.early.isSome then i else { i with early := some s.tick, pwr := s.powers }
      let s := { s with insts := tableSet s.insts inst i }
      if acts.all s.mouldable = false then .next s
      else
        let s := s.finishInst inst i (i.early.getD s.tick)
        let s := acts.foldl (fun (s : State) a => s.zeroTiles a) s
        let s := s.takeShare i.gang
        .next (s.openEpoch i.gang ((s.gang i.gang).epoch + 1) (some (barReport i.arrivals)))

/-! ## Release (R31) -/

/-- The tick T0 of an instance for the participants of a partition: its completion, which for an SSTEP comes before its moulds are
written, and the partition's D (R348). -/
def Inst.t0 (i : Inst) (part : Nat) : Option Nat :=
  ((i.done.map (·.1)).or i.early).map (· + bits ((tableGet? i.pwr part).getD 0) 7 0)

/-- Hundredths of a core's own cycles that have passed since T0: its die's ticks at each step, at the core's speed there (R31,
R346). -/
def Inst.cycles (i : Inst) (core : Nat) : Nat :=
  ((List.range 8).map (fun n => (tableGet? i.ran (coreDie core * 8 + n)).getD 0 * Config.speed core n)).foldl (· + ·) 0

/-- A core releases its participants of a partition within the present tick: T0 has come, and by the end of the tick the
stagger in cycles of its own has passed (R31). -/
def State.releaseDue (s : State) (i : Inst) (part core : Nat) : Bool :=
  match i.t0 part with
  | none => false
  | some t =>
    let n := if i.kind = 0 then 0 else bits ((tableGet? i.pwr part).getD 0) 13 8 * (coreX core % 16)
    decide (t ≤ s.tick) && decide (100 * n < i.cycles core + max (s.freq core) 1)

/-- The instance is the one that an activity holds: a save area keeps its number modulo 2^32 (R261, R301). -/
def Inst.heldBy (i : Inst) (h : Held) : Bool :=
  i.kind == h.kind && i.sid == h.sid && i.num % 2 ^ 32 == h.num % 2 ^ 32

/-- The participants of an instance that still wait. -/
def State.waiters (s : State) (i : Inst) : List (Nat × Act) :=
  s.acts.filter (fun x => i.gang == s.instGang x.2 i.kind && !i.released.contains x.1 && (match x.2.held with
    | some h => i.heldBy h
    | none => false))

/-- A tick has passed since T0: every running die has counted it at its step, whoever waits there (R31). -/
def State.countCycles (s : State) (i : Inst) : Inst :=
  { i with ran := s.dies.foldl (fun (t : Table Nat) (x : Nat × Die) =>
      match i.t0 (s.diePart x.1) with
      | none => t
      | some n =>
        if s.tick < n ∨ x.2.dropped = true ∨ x.2.off = true then t
        else
          let k := x.1 * 8 + x.2.step
          tableSet t k ((tableGet? t k).getD 0 + 1)) i.ran }

/-- What a released wait writes; a BARRED that completes an instance of plain arrivals gets a free value as its reduction
(log 3). -/
def barWrites (o : Op) (rep red : Word64) : List RegWrite :=
  match o.dsts with
  | [x, y] => [{ reg := x, val := .w rep }, { reg := y, val := .w red }]
  | l => l.map (fun r => { reg := r, val := .w rep })

/-- A barrier wait. -/
def OpKind.isBar (k : OpKind) : Bool := match k with | .bar _ _ => true | _ => false

/-- BARRIER_RELEASE (R31, R261): the tags of the activity's barrier waits clear with the report, AP := 0, and at a scope
wider than core its L1 read cache is invalidated. -/
def execBarrierRelease (inst : Nat) (act : Nat) (s : State) : Host.Outcome State Fault Refusal :=
  let a := s.act act
  match s.inst? inst, a.held with
  | some i, some h =>
    let waits := s.ops.filter (fun x => x.2.act == act && x.2.kind.isBar)
    if i.gang ≠ s.instGang a h.kind ∨ i.heldBy h = false ∨ i.released.contains act = true ∨ a.ap = false ∨ waits.isEmpty = true
        ∨ waits.all (fun x => s.canLand x.2) = false ∨ s.releaseDue i a.part a.core = false then .next s
    else match i.done with
      | none => .next s
      | some (_, rep, red) =>
        let plain := i.arrivals.all (fun y => y.style == 0)
        let (d, s) := if plain && waits.any (fun x => x.2.dsts.length == 2) then s.draw 1 else (0, s)
        let red := if plain then Config.freeWord d else red
        let s := if i.kind = 0 then s else s.l1Clear a.core
        let s := waits.foldl (fun (s : State) x => s.clearTag x.1 x.2 (barWrites x.2 rep red)) s
        let s := s.setAct act { (s.act act).setAp false with held := none }
        .next { s with insts := tableSet s.insts inst { i with released := act :: i.released } }
  | _, _ => .next s

/-! ## Pod groups (R316) -/

/-- The valid enrolments of a group, by partition. -/
def State.enrolments (s : State) (group : Nat) : List (Nat × PodEntry) :=
  s.parts.flatMap (fun x => (x.2.pods.filter (fun e => e.2.pgenr.getLsbD 63 && bits e.2.pgenr 47 32 == group)).map (fun e =>
    (x.1, e.2)))

/-- This package may report an instance of a group: every enrolled partition has accepted its gangs, and every activity of
them has arrived or exited. -/
def State.podReady (s : State) (i : Inst) : Bool :=
  let group := bits i.sid 15 0
  (s.enrolments group).all (fun e => e.2.accepted == bits e.2.pgenr 15 0)
    && s.gangs.all (fun x => !(x.2.lrec.podGroup == group && x.2.unfinished)
      || (x.2.crews.length == x.2.lrec.crews && s.allArrived x.1 i))

/-- The member packages of a group. -/
def State.podMembers (s : State) (group : Nat) : List Nat :=
  match s.enrolments group with
  | [] => [Config.packageNumber.toNat]
  | (_, e) :: _ => (List.range 1024).filter (bitmapBit e.bitmap)

/-- POD_BARRIER_REPORT (R316): with the last member's report the instance completes. What another package's report says of
its arrivals is a free value (log 3). -/
def execPodBarrierReport (inst : Nat) (pkg : Nat) (s : State) : Host.Outcome State Fault Refusal :=
  match s.inst? inst with
  | none => .next s
  | some i =>
    let members := s.podMembers (bits i.sid 15 0)
    let own := Config.packageNumber.toNat
    if i.gang ≠ 0 ∨ i.done.isSome = true ∨ members.contains pkg = false ∨ i.reports.contains pkg = true
        ∨ (pkg = own ∧ s.podReady i = false) then .next s
    else
      let (d, s) := if pkg = own then (0, s) else s.draw 5
      let f (k : Nat) : Nat := (Config.freeWord (d + k)).toNat
      let style := (i.arrivals.headD { act := 0, core := 0, pkg := 0, tick := 0, operand := 0, style := 0 }).style
      let far (k : Nat) : Arrival :=
        { act := 0, core := f k % 2048, pkg := pkg, tick := f (k + 1) % (s.tick + 1), style := style
          operand := if k = 0 ∨ style = 1 then Config.freeWord (d + 4) else i.arrivals.head?.elim 0 (·.operand) }
      let i := { i with
        arrivals := if pkg = own then i.arrivals else i.arrivals ++ [far 0, far 2], reports := i.reports ++ [pkg] }
      let s := { s with insts := tableSet s.insts inst i }
      .next (if members.all i.reports.contains then s.finishInst inst { i with pwr := s.powers } s.tick else s)

end Sys2Proof.Machine
end

