-- ==== Sys2Proof/Machine/EvCopy.lean ====
section
/-! DEFINITION. Events of the copy engine and of the links (R245, R249, R252, R253, R325). -/
namespace Sys2Proof.Machine

/-- A transfer has performed its last line, and a peer copy its signal. -/
def Transfer.over (t : Transfer) : Bool :=
  decide (t.count ≤ t.pos) && (match t.what with | .cpyp _ _ _ _ _ _ => t.signalled | _ => true)

/-- Keeping a transfer of a channel at its new state. -/
def State.setTransfer (s : State) (q n : Nat) (t : Transfer) : State :=
  let c := s.chan q n
  s.setChan q n { c with queue := c.queue.map (fun x => if x.id = t.id then t else x) }

/-- The channel has had its turn (R245). -/
def State.served (s : State) (q n : Nat) : State := s.setQuad q { s.quad q with lastChan := n }

/-- The access that a transfer's next line misses the translation of. -/
def State.pieceMiss (s : State) (q : Nat) (t : Transfer) : Option (Nat × Nat × Bool) :=
  if t.pos < t.count then
    match s.piece q t with
    | .error (_, .miss obj off write) => some (obj, off, write)
    | _ => none
  else none

/-- COPY_LINE (R245): the transfer at the head of the channel whose turn it is performs its next line, element or block. A
transfer whose translation is missing asks for its walk first (R307). -/
def execCopyLine (quad : Nat) (chan : Nat) (s : State) : Host.Outcome State Fault Refusal :=
  match s.channelHead quad chan with
  | none => .next s
  | some t =>
    match s.pieceMiss quad t with
    | some (obj, off, write) => .next (s.askWalk
        { act := t.act, part := t.part, core := t.core, object := obj, offset := off, bytes := 1, write := write
          who := .engine quad chan t.id })
    | none =>
    if t.count ≤ t.pos ∨ s.turnOf quad ≠ some chan then .next s
    else match s.piece quad t with
      | .ok s' => .next ((s'.setTransfer quad chan { t with pos := t.pos + 1 }).served quad chan)
      | .error _ => .next s

/-- TRANSFER_COMPLETE (R245, R246, R249, R276): the watermark advances, the fill lands, the event line is set, and waits
look again. -/
def execTransferComplete (quad : Nat) (chan : Nat) (s : State) : Host.Outcome State Fault Refusal :=
  match s.channelHead quad chan with
  | none => .next s
  | some t => if t.over then .next ((s.endTransfer quad chan t none).settleWaits quad) else .next s

/-- What the next step of a transfer would fault with: the state with what the failing line wrote, cause and offset. -/
def State.nextFault (s : State) (q : Nat) (t : Transfer) : Option (State × Nat × Nat) :=
  if t.pos < t.count then
    match s.piece q t with
    | .error (s', .fault cause off) => some (s', cause, off)
    | _ => none
  else match t.what with
    | .cpyp _ peer _ _ sigObj sigOff =>
      if t.signalled then none
      else (match s.peerCount t peer sigObj sigOff with
        | .error (.fault cause off) => some (s, cause, off)
        | _ => none)
    | _ => none

/-- COPY_FAULT (R253): a fault in flight stops the transfer and faults its channel. -/
def execCopyFault (quad : Nat) (chan : Nat) (cause : BitVec 8) (s : State) : Host.Outcome State Fault Refusal :=
  match s.channelHead quad chan with
  | none => .next s
  | some t =>
    match s.nextFault quad t with
    | none => .next s
    | some (s', n, off) =>
      if n = cause.toNat then .next ((s'.faultChan quad chan t n off).settleWaits quad) else .next s

/-- PEER_SIGNAL (R252): after the data has landed the peer's counter is incremented. -/
def execPeerSignal (quad : Nat) (chan : Nat) (s : State) : Host.Outcome State Fault Refusal :=
  match s.channelHead quad chan with
  | none => .next s
  | some t =>
    match t.what with
    | .cpyp _ peer _ _ sigObj sigOff =>
      if t.pos < t.count ∨ t.signalled = true then .next s
      else (match s.peerCount t peer sigObj sigOff with
        | .ok s' => .next (s'.setTransfer quad chan { t with signalled := true })
        | .error _ => .next s)
    | _ => .next s

/-! ## Links (R325) -/

/-- The unit that reports a link's errors (R326). -/
def linkUnit (link : Nat) : Nat := if link < 8 then 9 else 10

def State.link (s : State) (n : Nat) : Link := (tableGet? s.links n).getD {}
def State.setLink (s : State) (n : Nat) (l : Link) : State := { s with links := tableSet s.links n l }

/-- The partition that a link's record goes to: that of its die, and partition 0 for a peer link. -/
def State.linkPart (s : State) (link : Nat) : Nat := if link < 8 then s.diePart link else 0

/-- LINK_RAIL_FAILURE (R325): the rail is marked failed and reported, grade requeue-safe; no gang is affected. -/
def execLinkRailFailure (link : Nat) (s : State) : Host.Outcome State Fault Refusal :=
  let l := s.link link
  if 32 ≤ link ∨ (8 ≤ link ∧ link < 16) ∨ l.down = true ∨ 5 ≤ l.failedRails then .next s
  else
    let s := s.setLink link { l with failedRails := l.failedRails + 1 }
    let s := if link < 8 then s.setDie link { s.die link with rails := (s.die link).rails + 1 } else s
    .next (s.faultRecord (s.linkPart link) [faultWord1 0 0 false (linkUnit link) 0 0, w64 link, w64 s.tick])

/-- LINK_FLIT_RETRY (R325): one retry of a flit, which succeeds or fails. -/
def execLinkFlitRetry (link : Nat) (ok : Bool) (s : State) : Host.Outcome State Fault Refusal :=
  let l := s.link link
  if 32 ≤ link ∨ (8 ≤ link ∧ link < 16) ∨ l.down = true ∨ 8 ≤ l.retries then .next s
  else .next (s.setLink link { l with retries := if ok then 0 else l.retries + 1 })

end Sys2Proof.Machine
end

