-- ==== Sys2Proof/Machine/EvRecover.lean ====
section
/-! DEFINITION. Events of containment and recovery: replay, the scrubber, retention, dropping a die, links that go down
and the cross-alarm (R325, R329..R337, R359). -/
namespace Sys2Proof.Machine

/-! ## Restoring what was logged (R330, R332 step 3) -/

/-- The lines of a gang in a list of entries, newest first. -/
def mouldsOf (gid : Nat) (l : List MouldEntry) : List MouldEntry := l.filter (fun e => e.gang == gid)

/-- A sparse memory and its poison with a line put back. -/
def putLine (m : Sparse Byte) (bad : Sparse Bool) (e : MouldEntry) : Sparse Byte × Sparse Bool :=
  (sparseWrite m (64 * e.line) e.data, sparseSet false bad e.line e.poison)

/-- A core's logged lines. -/
def Core.restoreLines (c : Core) (gid : Nat) : Core :=
  let (m, b) := (mouldsOf gid c.mould).foldl (fun x e => putLine x.1 x.2 e) (c.lm, c.lmPoison)
  { c with lm := m, lmPoison := b }

/-- A quad's logged lines. -/
def Quad.restoreLines (q : Quad) (gid : Nat) : Quad :=
  let (m, b) := (mouldsOf gid q.mould).foldl (fun x e => putLine x.1 x.2 e) (q.qs, q.qsPoison)
  { q with qs := m, qsPoison := b }

/-- The logged lines of a crew that is swapped out, put back in its image. -/
def State.restoreImage (s : State) (r : LaunchRec) (cr : Crew) : State :=
  let sv := cr.save
  let put (s : State) (b base : Nat) (e : MouldEntry) : State :=
    s.imageWrite (b + (64 * e.line - base)) e.data (if e.poison then [0] else [])
  let s := cr.lmBase.foldl (fun (s : State) x =>
    ((sv.lmMould.filter (fun y => y.1 == coreMember x.1)).flatMap (·.2)).foldl (fun (s : State) e =>
      put s (sv.image + imgLm r (coreMember x.1)) x.2 e) s) s
  sv.qsMould.foldl (fun (s : State) e => put s (sv.image + imgQs r) cr.qsBase e) s

/-- A device line put back with its hidden tags and poison. -/
def State.restoreDev (s : State) (e : MouldEntry) : State :=
  let s := s.schedWrite (64 * e.line) e.data
  { s with
    memTags := (List.range 4).foldl (fun t i => sparseSet false t (4 * e.line + i) (e.tags[i]?.getD false)) s.memTags
    memPoison := sparseSet false s.memPoison e.line e.poison }

/-- Every logged line of a gang, newest entry first. -/
def State.restoreLines (s : State) (gid : Nat) : State :=
  let s := (s.mapCores (fun c => c.restoreLines gid)).mapQuads (fun q => q.restoreLines gid)
  let s := (mouldsOf gid (s.journals.map (·.2))).foldl State.restoreDev s
  let g := s.gang gid
  (g.crews.foldl (fun (s : State) x => if x.2.swapped then s.restoreImage g.lrec x.2 else s) s).dropMoulds gid

/-! ## Replay (R332) -/

/-- Every activity of the gang can be stopped as a pre-emption stops it. -/
def State.stoppable (s : State) (gid : Nat) : Bool :=
  (s.gangActs gid).all (fun x =>
    let a := x.2
    (a.run == .stopped || a.run == .saved || !a.tip) && (a.mg == 0 || a.mg == 2 || a.mg == 4)
      && !(s.ops.any (fun y => y.2.act == x.1 && !y.2.restarts && !(a.mg == 2 && y.2.kind == .meet))))
    && !(s.reqs.any (fun y => y.2.gang == gid && y.2.kind.isWrite && y.2.performed.isNone))

/-- An instance all of whose arrivals were made before the epoch. -/
def EpochSnap.before (n : EpochSnap) (i : Inst) : Bool :=
  i.arrivals.all (fun y => match tableGet? n.acts y.act with
    | some a => decide (i.num ≤ a.arrivalCount i.kind i.sid)
    | none => true)

/-- An activity of the epoch that has ended since, at the place that its crew held last. -/
def State.lastPlace (s : State) (gid : Nat) (a : Act) : Act :=
  let g := s.gang gid
  match tableGet? g.crews a.crew with
  | none => a
  | some cr =>
    let home := quadCore cr.quad (coreMember a.homeCore)
    let mine := (cr.tiles.filter (fun x => x.1 == home)).map (·.2)
    { a with homeCore := home, core := home, slot := a.homeSlot
             tiles := (mine.drop (a.index % g.lrec.acts * g.lrec.tiles)).take g.lrec.tiles }

/-- The places that the epoch's activities held can be taken again: those of crews that have ended meanwhile have not been
given away. -/
def State.slotsBack (s : State) (gid : Nat) (n : EpochSnap) : Bool :=
  !n.given && n.acts.all (fun x => match tableGet? s.acts x.1 with
    | some _ => true
    | none =>
      let a := s.lastPlace gid x.2
      (tableGet? (s.core a.homeCore).slots a.homeSlot).isNone && s.live a.homeCore
        && !(s.holdings.any (fun h => h.gang != gid && h.slots.contains (a.homeCore, a.homeSlot))))

/-- Steps 1 and 2: the gang's contexts leave their slots, their waits, copies, meetings and arrivals are withdrawn, and a met
party is at home again, its luggage not written back. -/
def State.stopGang (s : State) (gid : Nat) : State :=
  let mine := (s.gangActs gid).map (·.1)
  let s := s.withdrawAll mine
  let ops := (s.ops.filter (fun x => mine.contains x.2.act)).map (·.1)
  let s := s.flushMerges gid
  let s := { s with
    ops := s.ops.filter (fun x => !ops.contains x.1)
    reqs := s.reqs.filter (fun x => !mine.contains x.2.act)
    insts := s.insts.filter (fun x => x.2.gang != gid || (s.gang gid).snap.before x.2) }
  let s := (s.mapCores (fun c => c.without mine ops)).mapQuads (fun q => q.without gid)
  let s := s.mapParts (fun p => { p with submits := p.submits.filter (fun o => !ops.contains o) })
  let s := mine.foldl (fun (s : State) a =>
    let x := s.act a
    s.setAct a { x with core := x.homeCore, slot := x.homeSlot, party := none, sent := none, trapPend := none }) s
  s.retryPairs

/-- Step 4 for one activity: its register mould, AP = 0 and MG = 0, its tiles zero; a context of a swapped-out crew keeps it
in its save area. None when the mould has no translation or cannot be read whole. -/
def State.restoreAct (s : State) (aid : Nat) (snap : Act) : Option State :=
  let a := match tableGet? s.acts aid with
    | some a => a
    | none => s.lastPlace snap.gang snap
  let s := s.setAct aid { a with arrivals := snap.arrivals, run := if a.run = .saved then .saved else .inService }
  if s.objBad a.part a.saveObj a.mouldOff 4096 then none
  else match s.readSave aid a.mouldOff false with
  | none => none
  | some s =>
    let b := s.act aid
    let s := s.setAct aid { (b.setAp false).setMg 0 with held := none, party := none, sent := none }
    let s := s.zeroTiles aid
    if a.run = .saved then s.writeSave aid false
    else some ((s.enterSlot aid a.homeCore a.homeSlot).replaySlots aid)

/-- Steps 3 and 4. -/
def State.rollBack (s : State) (gid : Nat) : Option State :=
  let snap := (s.gang gid).snap
  let s := (s.stopGang gid).restoreLines gid
  let s := snap.rings.foldl (fun (s : State) x => s.putCrewRing gid x.1 x.2.1 x.2.2) s
  let s := snap.chans.foldl (fun (s : State) x => s.putCrewChan gid x.1 x.2.1 x.2.2) s
  let s := snap.lines.foldl (fun (s : State) x => s.putCrewLine gid x.1 x.2.1 x.2.2) s
  let g := s.gang gid
  let crews := snap.crews.foldl (fun (t : Table Crew) x =>
    match tableGet? t x.1 with
    | some c => tableSet t x.1 { c with acts := x.2.acts, finished := x.2.finished }
    | none => tableSet t x.1 x.2) g.crews
  let s := s.setGang gid { g with poolLeft := snap.poolLeft, share := snap.share, crews := crews, judged := [] }
  snap.acts.foldl (fun (r : Option State) x =>
    match r with
    | none => none
    | some s => s.restoreAct x.1 x.2) (some s)

/-- SUPERSTEP_REPLAY (R332): once every activity can be stopped. A mould that cannot be read is an error during the replay: it
starts over, and counts as another. A gang whose slots are gone, with what its ended crews' allocations held, is ended. -/
def execSuperstepReplay (gang : Nat) (s : State) : Host.Outcome State Fault Refusal :=
  let g := s.gang gang
  if g.faultPend.isNone ∨ g.canReplay = false ∨ g.endPend.isSome = true ∨ s.armatureLive = false
      ∨ s.stoppable gang = false ∨ s.moulding gang = true then .next s
  else if s.slotsBack gang g.snap = false then .next (s.requestEnd gang 0 (s.faultGrade g))
  else match s.rollBack gang with
    | none => .next (s.setGang gang { g with replays := g.replays + 1 })
    | some s' =>
      let s' := s'.gangRecord gang 0 true 0
      let g' := s'.gang gang
      .next (s'.setGang gang { g' with replays := g'.replays + 1, faultPend := none, evacErr := false })

/-! ## Errors found outside consumption (R332, R334) -/

/-- A gang has an uncorrectable error in a line of its own. -/
def State.gangError (s : State) (gid : Nat) (detail addr : Word64) (core : Nat) (restorable : Bool) : State :=
  (s.noteUncorr gid { detail := detail, addr := addr } restorable).noteFault gid
    { cause := cUNCORR, detail := detail, addr := addr, word := 0 } core

/-- Page-table entries under a node that map a frame: the byte of the object at which it begins. -/
def State.frameIn (s : State) (part : Nat) (frame : Nat) : List Nat → Nat → Nat → Option Nat
  | [], _, _ => none
  | [sh], node, base =>
    (List.range 512).findSome? (fun i =>
      let a := node + 8 * i
      if s.inStacks part a then
        let e := s.memWord a
        if e.getLsbD 63 && bits e 47 0 == frame then some (base + i * 2 ^ sh) else none
      else none)
  | sh :: shs, node, base =>
    (List.range 512).findSome? (fun i =>
      let a := node + 8 * i
      if s.inStacks part a then
        let e := s.memWord a
        if e.getLsbD 63 then s.frameIn part frame shs (bits e 47 12 * 4096) (base + i * 2 ^ sh) else none
      else none)

/-- The object that a device line belongs to: number, entry, byte. -/
def State.lineObject (s : State) (part a : Nat) : Option (Nat × OtEntry × Nat) :=
  (List.range (bits (s.part part).otbase 63 40 + 1)).findSome? (fun o =>
    match s.otEntry part o with
    | none => none
    | some t =>
      if !t.valid || t.path != 0 then none
      else
        let sh := pageShift t.psize
        let shs := if t.psize = 1 then [39, 30, 21] else [43, 34, 25, 16]
        (s.frameIn part (a / 2 ^ sh * 2 ^ sh) shs t.root 0).map (fun b => (o, t, b + a % 2 ^ sh)))

/-- The gang that owns a device line by its object's owner tag, with UNCORR's detail and the byte of the object (R305, R334). -/
def State.lineOwner (s : State) (part unit line : Nat) : Option (Option Nat × Word64 × Word64) :=
  (s.lineObject part (line * 64)).map (fun x =>
    let (o, t, b) := x
    ((s.gangs.find? (fun x => x.2.stage == .eligible && x.2.part == part && x.2.owner == t.owner && t.owner != 0)).map (·.1)
      , uncorrDetail unit 0 o, w64 b))

/-- A gang logged a device line in this epoch. -/
def State.lineLogged (s : State) (own : Option Nat) (line : Nat) : Bool :=
  match own with
  | some g => s.journals.any (fun e => e.2.gang == g && e.2.line == line)
  | none => false

/-- The gang that holds a place, by a test of its crews. -/
def State.holder? (s : State) (f : Holding → Bool) : Option Nat := (s.holdings.find? f).map (·.gang)

/-- The scrubber's count for a die. -/
def State.scrubCount (s : State) (die : Nat) (uncorrectable : Bool) : State :=
  let d := s.die die
  s.setDie die (if uncorrectable then { d with ueCount := d.ueCount + 1 } else { d with ceCount := d.ceCount + 1 })

/-- A record of an error that affects no gang. -/
def State.errorRecord (s : State) (part unit core : Nat) (at_ : Nat) : State :=
  s.faultRecord part [faultWord1 0 0 false unit cUNCORR core, w64 at_, w64 s.tick]

/-- A line of a gang's own, or of nobody. -/
def State.scrubbed (s : State) (gid : Option Nat) (part unit core : Nat) (detail addr : Word64) (restorable : Bool) :
    State :=
  match gid with
  | some g => s.gangError g detail addr core restorable
  | none => s.errorRecord part unit core addr.toNat

/-- A line of a mould buffer is lost: the superstep of the gang whose entry stands there can no longer be restored, and the gang
is handled as R333 says (R334). -/
def State.mouldError (s : State) (l : List MouldEntry) (line part core : Nat) : State :=
  match l[line]? with
  | some e => (s.unreplayable e.gang).gangError e.gang (uncorrDetail 4 3 0) (w64 (line * 64)) core false
  | none => s.errorRecord part 4 core (line * 64)

/-- The machine-check record of a line of an armature core's instruction memory (R318, R326); its grade is a free value
(log 3). -/
def armatureCheck (line : Nat) (free : Word64) : Word64 :=
  w64 (bits free 1 0 * 2 ^ 61 + 11 * 2 ^ 56 + cUNCORR % 2 ^ 8 * 2 ^ 48 + line * 64 % 2 ^ 48)

/-- SCRUB_LINE (R334): an uncorrectable line is poisoned, and its owner alone is affected; a clean copy in a memory-side cache
is marked as such, and a dirty one was the line's only copy. -/
def execScrubLine (space : Nat) (inst : Nat) (line : Nat) (uncorrectable : Bool) (s : State) :
    Host.Outcome State Fault Refusal :=
  let die := match space with
    | 0 => line * 64 / 2 ^ 37
    | 1 => coreDie inst
    | 3 => coreDie inst
    | 4 => coreDie inst
    | 6 => inst
    | _ => quadDie inst
  let s := if space = 7 then s else s.scrubCount die uncorrectable
  let part := s.diePart die
  if !uncorrectable then .next s
  else match space with
  | 0 =>
    let s := { s with memPoison := sparseSet false s.memPoison line true }
    match s.lineOwner part 7 line with
    | none => .next (s.errorRecord part 7 0 (line * 64))
    | some (own, d, b) => .next (s.scrubbed own part 7 0 d b (s.lineLogged own line))
  | 1 =>
    let s := s.setCore inst { s.core inst with lmPoison := sparseSet false (s.core inst).lmPoison line true }
    let own := s.holder? (fun h => h.lm.any (fun x => x.1 == inst && decide (x.2.1 ≤ line * 64)
      && decide (line * 64 < x.2.1 + x.2.2)))
    .next (s.scrubbed own part 1 inst (uncorrDetail 1 1 0) (w64 (line * 64)) (match own with
      | some g => s.lmLogged g inst (line * 64) | none => false))
  | 2 =>
    let s := s.setQuad inst { s.quad inst with qsPoison := sparseSet false (s.quad inst).qsPoison line true }
    let own := s.holder? (fun h => h.quad == inst && decide (h.qs.1 ≤ line * 64) && decide (line * 64 < h.qs.1 + h.qs.2))
    .next (s.scrubbed own part 2 (quadCore inst 0) (uncorrDetail 2 2 0) (w64 (line * 64)) (match own with
      | some g => s.qsLogged g inst (line * 64) | none => false))
  | 3 =>
    let s := s.setCore inst { s.core inst with tilePoison := sparseSet false (s.core inst).tilePoison line true }
    let own := s.holder? (fun h => h.tiles.contains (inst, line / 256))
    .next (s.scrubbed own part 3 inst (uncorrDetail 3 3 0) (w64 (line * 64)) true)
  | 4 => .next (s.mouldError (s.core inst).mould line part inst)
  | 5 => .next (s.mouldError (s.quad inst).mould line part (quadCore inst 0))
  | 6 =>
    let d := s.die inst
    match tableGet? d.mcache line, s.lineOwner part 6 line with
    | some c, x =>
      let s := if c.dirty then { s with memPoison := sparseSet false s.memPoison line true }
        else s.setDie inst { d with mcache := tableSet d.mcache line { c with bad := true } }
      (match x with
        | some (own, d, b) => .next (s.scrubbed own part 6 0 d b (!c.dirty || s.lineLogged own line))
        | none => .next (s.errorRecord part 6 0 (line * 64)))
    | none, _ => .next (s.errorRecord part 6 0 (line * 64))
  | 7 =>
    if isArmature inst && decide (inst < 2050) then
      let (d, s) := s.draw 1
      let s := s.setCore inst { s.core inst with imemPoison := sparseSet false (s.core inst).imemPoison line true }
      let s := s.errorRecord ((s.parts.map (·.1)).headD 0) 11 inst (line * 64)
      .next (s.machineCheck inst (armatureCheck line (Config.freeWord d)))
    else .next s
  | _ => .next s

/-- RETENTION_EXIT (R336): if an element was lost, every resident and visitor context of the quad takes RETLOST. -/
def execRetentionExit (quad : Nat) (lost : Bool) (s : State) : Host.Outcome State Fault Refusal :=
  if !lost then .next s
  else
    let acts := (quadCores quad).flatMap (fun c => (s.core c).slots.map (·.2))
    .next (acts.foldl (fun (s : State) a =>
      s.takeTrap a { cause := cRETLOST, detail := w64 quad, addr := 0, word := (s.act a).pc }) s)

/-! ## Dropping a die (R337) -/

/-- The cores of a die. -/
def dieCores (die : Nat) : List Nat := (List.range 2048).filter (fun c => coreDie c == die)

/-- Contexts on a die. -/
def State.dieActs (s : State) (die : Nat) : List Nat :=
  (s.acts.filter (fun x => decide (x.2.core < 2048) && coreDie x.2.core == die)).map (·.1)

/-- Crews on a die that are resident: gang and number. -/
def State.dieCrews (s : State) (die : Nat) : List (Nat × Nat) :=
  s.holdings.filterMap (fun h => if quadDie h.quad = die then some (h.gang, h.crew) else none)

/-- Meeting-table entries move to their keys' homes among the quads that are left (R233). -/
def State.rehome (s : State) : State :=
  let all := s.quads.flatMap (fun x => x.2.meet.map (x.1, ·))
  all.foldl (fun (s : State) x =>
    let a := s.act x.2.first.act
    match a.party with
    | none => s
    | some p =>
      let q := s.meetHome a p
      if q = x.1 then s
      else
        let s := s.setQuad x.1 { s.quad x.1 with meet := (s.quad x.1).meet.filter (fun z => z != x.2) }
        s.setQuad q { s.quad q with meet := (s.quad q).meet ++ [x.2] }) s

/-- A crew whose allocation holds uncorrectable lines cannot be read: its gang replays, or is ended with grade
requeue-elsewhere. -/
def State.evacuationError (s : State) (gid n : Nat) : State :=
  let g := s.gang gid
  match tableGet? g.crews n with
  | none => s
  | some cr =>
    let bad := s.crewBad g.lrec cr
    let s := bad.foldl (fun (s : State) x => s.gangError gid (uncorrDetail x.1 x.1 0) (w64 (x.2.2 * 64)) x.2.1
      (if x.1 = 1 then s.lmLogged gid x.2.1 (x.2.2 * 64) else s.qsLogged gid cr.quad (x.2.2 * 64))) s
    if bad.isEmpty then s
    else
      let s := s.setGang gid { s.gang gid with evacErr := true }
      if (s.gang gid).canReplay || (s.gang gid).endPend.isSome then s else s.requestEnd gid 0 1

/-- Every context of a die can be pre-empted, and its crews' copies have ended. -/
def State.canEvacuate (s : State) (die : Nat) : Bool :=
  (s.dieActs die).all s.canLeave
    && (s.acts.filter (fun x => x.2.mg == 3 || x.2.mg == 5)).all (fun x =>
      coreDie x.2.homeCore != die && (match x.2.party with | some p => coreDie p.meetCore != die | none => true))
    && (s.dieCrews die).all (fun x => s.copiesDone x.1 (some x.2))

/-- A context that cannot be saved when its die drops, its save area having no translation, stops for the armature, and its gang
is ended, since it cannot be restored (R328, R337). -/
def State.unsaved (s : State) (aid : Nat) : State :=
  let a := s.act aid
  let s := s.setAct aid { a with run := .stopped }
  if (s.gang a.gang).endPend.isSome then s else s.requestEnd a.gang 4 1

/-- DROPPING A DIE: its contexts and crews are saved, its cores are not live from then on, and meetings on it move. -/
def State.dropDie (s : State) (die : Nat) : State :=
  let s := (s.dieCrews die).foldl (fun (s : State) x => s.evacuationError x.1 x.2) s
  let s := s.withdrawAll (s.dieActs die)
  let s := (s.dieActs die).foldl (fun (s : State) a =>
    if (s.act a).run = .saved then s
    else match s.saveContext a with
      | some t => t
      | none => s.unsaved a) s
  let s := (s.dieCrews die).foldl (fun (s : State) x =>
    match s.swapOut x.1 x.2 with
    | none => s
    | some s =>
      let g := s.gang x.1
      match tableGet? g.crews x.2 with
      | some cr => s.setGang x.1 { g with crews := tableSet g.crews x.2 { cr with evacuated := true } }
      | none => s) s
  let s := s.setDie die { s.die die with dropped := true }
  let s := (dieCores die).foldl (fun (s : State) c =>
    if (tableGet? s.cores c).isSome then
      let s := s.moveMeeting c
      s.setCore c { s.core c with l1 := [], otc := [], holder := none }
    else s) s
  s.rehome

/-- DIE_DROP (R337). -/
def execDieDrop (die : Nat) (s : State) : Host.Outcome State Fault Refusal :=
  if 8 ≤ die ∨ (s.die die).dropped = true ∨ s.armatureLive = false ∨ s.canEvacuate die = false then .next s
  else .next (s.dropDie die)

/-- LINK_DOWN (R325): after eight retries; every peer copy under way on the link faults with PEER, those of a frozen engine when
it goes on (R340), and a die behind its link is dropped by the armature (at once, or by DIE_DROP when its contexts can be
saved). -/
def execLinkDown (link : Nat) (s : State) : Host.Outcome State Fault Refusal :=
  let l := s.link link
  if 32 ≤ link ∨ (8 ≤ link ∧ link < 16) ∨ l.down = true ∨ l.retries < 8 then .next s
  else
    let s := s.setLink link { l with down := true }
    if link < 8 then .next (if (s.die link).dropped || !s.armatureLive || !s.canEvacuate link then s else s.dropDie link)
    else
      let heads := s.quads.flatMap (fun x => if x.2.halting then [] else x.2.chans.filterMap (fun c => match c.2.queue with
        | t :: _ => some (x.1, c.1, t)
        | [] => none))
      .next (heads.foldl (fun (s : State) x =>
        match s.nextFault x.1 x.2.2 with
        | some (u, cause, off) =>
          if cause = cPEER then (u.faultChan x.1 x.2.1 x.2.2 cause off).settleWaits x.1 else s
        | none => s) s)

/-- CROSS_ALARM (R359): an armature core asserts the alarm toward the other. -/
def execCrossAlarm (core : Nat) (code : BitVec 16) (s : State) : Host.Outcome State Fault Refusal :=
  if core = 2048 ∨ core = 2049 then .next (s.crossAlarm core code) else .next s

end Sys2Proof.Machine
end

