-- ==== Sys2Proof/Machine/EvDebug.lean ====
section
/-! DEFINITION. Events of the debug module, the sample buffer and proofs (R304, R339, R340, R342, R345). -/
namespace Sys2Proof.Machine

/-! ## Halting a quad (R304, R340) -/

/-- QUAD_HALT (R340): its cores stop issuing and its engine freezes. -/
def execQuadHalt (quad : Nat) (s : State) : Host.Outcome State Fault Refusal :=
  if 512 ≤ quad then .next s
  else
    let s := s.setQuad quad { s.quad quad with qdctl := (s.quad quad).qdctl ||| 1 }
    .next (s.haltQuad quad)

/-- The contexts in the slots of a quad. -/
def State.quadActs (s : State) (q : Nat) : List Nat := (quadCores q).flatMap (fun c => (s.core c).slots.map (·.2))

/-- A context has reached a point at which it can be halted: no handler runs, its non-restartable tags are free, and its
meeting stands at a leg that allows it (R243, R299, R304). -/
def State.canHalt (s : State) (aid : Nat) : Bool := s.settled aid

/-- A context halts in its slot: its results are written and its waits backed out. A met party is saved to its origin slot's save
area as well (R243). -/
def State.haltContext (s : State) (aid : Nat) : State :=
  if (s.act aid).run ≠ .inService then s
  else
    let s := (s.settle (s.act aid).core aid).backOut aid
    let s := if (s.act aid).mg = 4 then (s.writeSave aid false).getD s else s
    s.setAct aid { s.act aid with run := .halted, block := (s.act aid).keptBlock }

/-- The origin slots of a quad that are held for parties that are away, as a halt reports them (R243). -/
def State.awaySlots (s : State) (quad : Nat) : List (Nat × Nat × Nat × Nat) :=
  (List.range 32).filterMap (fun b => (tableGet? (s.core (quadCore quad (b / 8))).held (b % 8)).map (fun aid =>
    let a := s.act aid
    (quad, b, (match a.party with | some p => p.meetCore | none => 0), a.mg)))

/-- QUAD_HALTED (R340): every context has completed its halt, parked MEETs being withdrawn together, and halted is set. -/
def execQuadHalted (quad : Nat) (s : State) : Host.Outcome State Fault Refusal :=
  if (s.quad quad).halting = false ∨ (s.quadActs quad).all s.canHalt = false then .next s
  else
    let s := s.withdrawAll ((s.quadActs quad).filter (fun a => (s.act a).run == .inService))
    let s := (s.quadActs quad).foldl (fun (s : State) a => s.haltContext a) s
    let s := { s with haltAway := s.haltAway.filter (fun (x : Nat × Nat × Nat × Nat) => x.1 != quad) ++ s.awaySlots quad }
    .next (s.setQuad quad { s.quad quad with qdstat := (s.quad quad).qdstat ||| 0x8000000000000000 })

/-- The engine and the cores of a quad go on (R340); waits that were backed out are sent again first (R300). -/
def State.resumeQuad (s : State) (quad : Nat) : State :=
  let q := s.quad quad
  let s := s.setQuad quad { q with
    halting := false, qdctl := q.qdctl &&& ~~~(1 : Word64), qdstat := q.qdstat &&& 0x7FFFFFFFFFFFFFFF }
  (s.quadActs quad).foldl (fun (s : State) a =>
    if (s.act a).run = .halted then (s.setAct a { s.act a with run := .inService }).replaySlots a else s) s

/-- QUAD_RESUME (R340). -/
def execQuadResume (quad : Nat) (s : State) : Host.Outcome State Fault Refusal :=
  if 512 ≤ quad then .next s else .next (s.resumeQuad quad)

/-! ## Writing halted state (R304) -/

/-- Poison set by a debugger: what it remembers is a free value (log 3). -/
def State.debugPoison (s : State) (a : Act) (r : RegName) (on : Bool) : Act × State :=
  let put (g : Regs) (t : Table Poison) : Regs := { g with poison := t }
  let (d, s) := s.draw 2
  let p : Poison := { detail := Config.freeWord d, addr := Config.freeWord (d + 1) }
  let g := a.regsFor r
  let t := if on then tableSet g.poison (regKey r) p else tableErase g.poison (regKey r)
  (if a.tip && bankReg r then { a with bank := put a.bank t } else { a with regs := put a.regs t }, s)

/-- ASW as a debugger writes it: TIP, MG and AP keep their values, reserved bits are zero, and mode 3 is not a mode. -/
def debugAsw (old x : Word64) : Word64 :=
  let keep : Word64 := 0xBC
  let v := (x &&& aswMask &&& ~~~keep) ||| (old &&& keep)
  if bits v 1 0 = 3 then (v &&& ~~~(3 : Word64)) ||| (old &&& 3) else v

/-- The bits of MSH, MFM and MSB that hold fields (R207). -/
def matrixMask (which : Nat) : Word64 :=
  if which = 0 then 0x0FF03F3F else if which = 1 then 0xFFFFFFFFFFFF1F1F else 0xFFFFFFFFFFFFFF1F

/-- One item written into a halted context. A vector with a reserved tag is not written, since no register holds one (R65); a
change of TIP, MG or AP is not made and is reported. -/
def State.debugPut (s : State) (aid : Nat) (i : DebugItem) : State :=
  let a := s.act aid
  let reg (w : RegWrite) : State := s.setAct aid (a.putIn a.tip w)
  match i with
  | .scalar n x => reg (wS n.toNat x)
  | .vector n d t b =>
    let x : VReg := { data := d, tag := t, bw := b }
    if x.legal then reg (wV n.toNat x) else s
  | .mask n x => reg (wP n.toNat x)
  | .branch n x => reg (wB n.toNat x)
  | .cap n b v => reg (wK n.toNat { bits := b, valid := v })
  | .bound n x => s.setAct aid { a with
      bd := sparseSet {} a.bd n.toNat { mode := x.extractLsb' 64 2, sticky := x.getLsbD 66, hi := x.extractLsb' 32 32
                                        lo := x.extractLsb' 0 32 } }
  | .poison f n v =>
    let r : RegName := ⟨if f = 0 then .s else if f = 1 then .v else .k, n.toNat⟩
    let (a, s) := s.debugPoison a r v
    s.setAct aid a
  | .resume x => s.setAct aid { a with pc := x }
  | .queue newer x =>
    let e := RdqEntry.ofBits x
    s.setAct aid (if newer then { a with rdq1 := e } else { a with rdq0 := e })
  | .asw x =>
    let refused := (x ^^^ a.asw) &&& 0xBC
    let s := s.setAct aid { a with asw := debugAsw a.asw x }
    if refused = 0 then s else { s with debugRefused := s.debugRefused ++ [(aid, refused)] }
  | .code x => s.setAct aid { a with code := x }
  | .matrix w x =>
    let y := x &&& matrixMask w.toNat
    s.setAct aid (if w = 0 then { a with msh := y } else if w = 1 then { a with mfm := y } else { a with msb := y })
  | .tileElement t row col x =>
    match a.tiles[t.toNat]? with
    | none => s
    | some n =>
      let y := s.tile a.homeCore n
      s.setTile a.homeCore n { y with elems := sparseSet 0 y.elems (row.toNat * 64 + col.toNat) x }
  | .tileTag t i32 =>
    match a.tiles[t.toNat]? with
    | none => s
    | some n => s.setTile a.homeCore n { s.tile a.homeCore n with i32 := i32 }
  | .generator w x =>
    let g := a.gen
    s.setAct aid { a with gen :=
      if w.toNat < 8 then { g with pp := sparseSet 0 g.pp w.toNat (x.setWidth 32) }
      else if w = 8 then { g with extent := x.setWidth 48 }
      else if w = 9 then { g with cursor := x }
      else { g with loaded := x.getLsbD 0, inv := x.getLsbD 1 } }
  | .program n x =>
    let g := a.gen
    s.setAct aid { a with gen := { g with
      prog := (List.range 32).map (fun i => if i = n.toNat then x else g.prog[i]?.getD 0) } }
  | .cutter w x =>
    let c := a.cut
    s.setAct aid { a with cut :=
      if w = 0 then { c with kcur := bits x 23 0 } else if w = 1 then { c with vcur := x }
      else if w = 2 then { c with desc := x } else { c with isSet := x.getLsbD 0 } }
  | .replay t w x =>
    if t = 0 then s
    else
      let r := (tableGet? a.replay t.toNat).getD {}
      let r : Replay := if w = 0 then { r with w0 := x } else if w = 1 then { r with w1 := x }
        else if w = 2 then { r with w2 := x } else { r with w3 := x }
      let slots := if bits r.w0 63 56 = 0 then tableErase a.replay t.toNat else tableSet a.replay t.toNat r
      s.setAct aid { a with replay := slots }
  | .localByte o x =>
    match a.lmAddr o 1 with
    | none => s
    | some p => s.setCore a.core { s.core a.core with lm := sparseSet 0 (s.core a.core).lm p x }
  | .quadByte o x =>
    if a.qsOk o 1 then s.setQuad a.quad { s.quad a.quad with qs := sparseSet 0 (s.quad a.quad).qs o x } else s

/-- DEBUG_STATE_WRITE (R304): of a context that is halted; a party in leg 4 is one of its meeting core's quad. -/
def execDebugStateWrite (act : Nat) (item : DebugItem) (s : State) : Host.Outcome State Fault Refusal :=
  if (s.act act).run = .halted then .next (s.debugPut act item) else .next s

/-! ## The sample buffer (R342) -/

/-- SAMPLE_BUFFER_SETUP (R342): writing SBBASE or SBLEN sets SBPTR to 0. -/
def execSampleBufferSetup (part : Nat) (len : Bool) (value : BitVec 64) (s : State) : Host.Outcome State Fault Refusal :=
  let p := s.part part
  let p := if len then { p with sblen := value &&& 0xFFFFFFF8 } else { p with sbbase := value &&& 0x8000FFFFFFFFFFC0 }
  .next (s.setPart part { p with sbptr := 0, sbStopped := false, sbWrapped := false })

/-- SBPTR_WRITE (R342): a buffer that stopped takes records again. -/
def execSbptrWrite (part : Nat) (value : BitVec 64) (s : State) : Host.Outcome State Fault Refusal :=
  .next (s.setPart part { s.part part with sbptr := value, sbStopped := false })

/-! ## Proofs (R345) -/

/-- PROOF_ARM (R345): a tick fewer than 16 ahead becomes the tick 16 ahead. -/
def execProofArm (part : Nat) (value : BitVec 64) (s : State) : Host.Outcome State Fault Refusal :=
  .next (s.setPart part { s.part part with proof := some (max value.toNat (s.tick + 16)) })

/-- A context's run state. -/
def State.runState (s : State) (c slot aid : Nat) : Nat :=
  let a := s.act aid
  if a.run = .halted then 6
  else if a.tip || a.run == .stopped then 5
  else if s.ready c slot then (if (s.core c).holder = some slot then 1 else 2)
  else match a.duePend with
    | some _ => if s.ops.any (fun x => x.2.act == aid && !x.2.restarts && x.2.offCore) then 4 else 3
    | none => if a.block.isSome || s.nextWait aid a == some true then 4 else 3

/-- The present slots of a quad in bit order: bit, activity, run state. -/
def State.proofSlots (s : State) (q : Nat) : List (Nat × Nat × Nat) :=
  (List.range 32).filterMap (fun b =>
    let c := quadCore q (b / 8)
    if !s.live c then none
    else match tableGet? (s.core c).slots (b % 8), tableGet? (s.core c).held (b % 8) with
      | some aid, _ => some (b, aid, s.runState c (b % 8) aid)
      | none, some aid => some (b, aid, 7)
      | none, none => none)

/-- The halves of the entries, each against the one before it. -/
def proofHalves (s : State) : Option (Nat × Nat) → List (Nat × Nat × Nat) → List Nat
  | _, [] => []
  | prev, (_, aid, st) :: r =>
    let a := s.act aid
    let obj := bits a.code 63 40
    let pc := a.pc.toNat
    let full := [st * 2 ^ 29 + obj, pc]
    let here := match prev with
      | none => full
      | some (o, p) =>
        let d : Int := (pc : Int) - p
        if o = obj ∧ -(2 ^ 27 : Int) ≤ d ∧ d < 2 ^ 27 then [st * 2 ^ 29 + 2 ^ 28 + (d % 2 ^ 28).toNat] else full
    here ++ proofHalves s (some (obj, pc)) r

/-- Halves packed into words, the low half first. -/
def packHalves : List Nat → List Word64
  | [] => []
  | [x] => [w64 x]
  | x :: y :: r => w64 (x + y * 2 ^ 32) :: packHalves r

/-- Every quad of a partition writes its proof record (R345). -/
def State.takeProof (s : State) (part t : Nat) : State :=
  let body (q : Nat) : List Word64 :=
    let l := s.proofSlots q
    [w64 (q * 2 ^ 32 + (l.map (fun x => 2 ^ x.1)).foldl (· + ·) 0), w64 t] ++ packHalves (proofHalves s none l)
  ((List.range 512).filter (fun q => s.diePart (quadDie q) == part)).foldl (fun (x : State) q =>
    x.record 4 q 0 part (body q)) (s.setPart part { s.part part with proof := none })

/-- PROOF_SNAPSHOT (R345): at the armed tick. -/
def execProofSnapshot (part : Nat) (s : State) : Host.Outcome State Fault Refusal :=
  match (s.part part).proof with
  | some t => if t = s.tick then .next (s.takeProof part t) else .next s
  | none => .next s

end Sys2Proof.Machine
end

