-- ==== Sys2Proof/Machine/EvPower.lean ====
section
/-! DEFINITION. Events of power, partitions, resets, attestation and tamper (R338, R347..R356). -/
namespace Sys2Proof.Machine

/-! ## Voltage steps (R347) -/

/-- A change to a step begins: a raise must switch within 5,000 ticks, and a lowering switches first. -/
def Die.startChange (d : Die) (step tick : Nat) : Die :=
  { d with reqStep := step, change := some (step, tick + 5000), nextReq := none }

/-- DVREQ (R347): a request while a change is running takes effect when that completes. -/
def execDvreq (die : Nat) (value : BitVec 64) (s : State) : Host.Outcome State Fault Refusal :=
  if 8 ≤ die then .next s
  else
    let d := s.die die
    let n := bits value 2 0
    if d.change.isSome ∨ d.pauseUntil.isSome = true then .next (s.setDie die { d with reqStep := n, nextReq := some n })
    else .next (s.setDie die (d.startChange n s.tick))

/-- CLOCK_SWITCH (R347): at T_sw every core of the die runs at the new step, and none issues for 20 ticks. -/
def execClockSwitch (die : Nat) (s : State) : Host.Outcome State Fault Refusal :=
  let d := s.die die
  match d.change with
  | none => .next s
  | some (n, _) => .next (s.setDie die { d with step := n, change := none, pauseUntil := some (s.tick + 20) })

/-- DVFS_PAUSE_END (R347). -/
def execDvfsPauseEnd (die : Nat) (s : State) : Host.Outcome State Fault Refusal :=
  let d := s.die die
  match d.pauseUntil with
  | none => .next s
  | some t =>
    if s.tick < t then .next s
    else
      let d := { d with pauseUntil := none }
      .next (s.setDie die (match d.nextReq with
        | some n => d.startChange n s.tick
        | none => d))

/-! ## Gated arrays (R349) -/

/-- The bytes of a scratchpad bank. -/
def inBank (bank a : Nat) : Bool := a / 64 % 16 == bank

/-- A way of a die's memory-side cache is gated: its dirty lines have been written back, and it holds no copy. -/
def Die.gateWay (d : Die) (w : Nat) : Die :=
  { d with gatedWays := w :: d.gatedWays, mcache := d.mcache.filter (fun x => x.1 % 16 != w) }

/-- ARRAY_GATE (R349): a scratchpad bank outside every allocation, and every allocation lies in every bank; banks from 16 on
name the ways of the memory-side cache of the quad's die. -/
def execArrayGate (quad : Nat) (bank : Nat) (s : State) : Host.Outcome State Fault Refusal :=
  let q := s.quad quad
  let d := s.die (quadDie quad)
  if 512 ≤ quad ∨ 32 ≤ bank then .next s
  else if 16 ≤ bank then
    .next (if d.gatedWays.contains (bank - 16) then s else s.setDie (quadDie quad) (d.gateWay (bank - 16)))
  else if q.gated.contains bank = true ∨ s.holdings.any (fun h => h.quad == quad && h.qs.2 != 0) = true then .next s
  else .next (s.setQuad quad { q with gated := bank :: q.gated })

/-- ARRAY_WAKE (R349): the array is zero-filled, with correct check bits, before any access to it; the die shows for the time
that it takes that an array of it wakes (R352). -/
def execArrayWake (quad : Nat) (bank : Nat) (s : State) : Host.Outcome State Fault Refusal :=
  let q := s.quad quad
  let d := s.die (quadDie quad)
  if 16 ≤ bank then
    .next (if d.gatedWays.contains (bank - 16) then
      ({ s with draws := s.draws + 1 }).setDie (quadDie quad) { d with
        gatedWays := d.gatedWays.filter (fun w => w != bank - 16), wakeUntil := s.tick + Config.wakeTicks s.draws }
    else s)
  else if q.gated.contains bank then
    .next ((s.wakes (quadDie quad)).setQuad quad { q with
      gated := q.gated.filter (fun b => b != bank), qs := q.qs.filter (fun x => !inBank bank x.1)
      qsPoison := q.qsPoison.filter (fun x => x.1 % 16 != bank) })
  else .next s

/-! ## Thermal protection (R350) -/

/-- Crews that are resident: gang and number. -/
def State.residentCrews (s : State) : List (Nat × Nat) := s.holdings.map (fun h => (h.gang, h.crew))

/-- Every crew that can be taken off its cores now is saved. -/
def State.saveAll (s : State) : State :=
  s.residentCrews.foldl (fun (s : State) x => (s.swapOut x.1 x.2).getD s) s

/-- THERMAL_WARNING (R350): a die reaches THWARN and an emergency save starts, which has not committed; a trip that TRIPREC
keeps stays there. With no armature core live nothing is journaled, so that no crew is swapped out (R359). -/
def execThermalWarning (die : Nat) (s : State) : Host.Outcome State Fault Refusal :=
  if 8 ≤ die then .next s
  else .next { (if s.armatureLive then s.saveAll else s) with
    saving := true, committed := false
    triprec := if s.triprec.getLsbD 63 then s.triprec else s.triprec &&& ~~~(0x4000000000000000 : Word64) }

/-- No replay is in progress: a gang that can replay has none pending. -/
def State.replaysDone (s : State) : Bool := s.gangs.all (fun x => x.2.faultPend.isNone || !x.2.canReplay)

/-- Writing back what the memory side still holds: writes in the ports' queues, merges that are pending, and dirty copies. -/
def State.writeBack (s : State) : State :=
  let lines := s.merges.map (fun m => m.addr / 64) ++ (s.reqs.filter (fun x => x.2.accepted)).map (fun x => x.2.addr / 64)
  let s := lines.foldl (fun (s : State) l => s.portTurn l) s
  { s with dies := s.dies.map (fun (x : Nat × Die) =>
      (x.1, { x.2 with mcache := x.2.mcache.map (fun (y : Nat × McLine) => (y.1, { y.2 with dirty := false })) })) }

/-- TRIPREC with the commit word: a trip that it keeps stays, with its die and tick (R350). -/
def State.commitWord (s : State) : Word64 :=
  if s.triprec.getLsbD 63 then s.triprec ||| 0x4000000000000000 else w64 (2 ^ 62 + s.tick % 2 ^ 48)

/-- EMERGENCY_SAVE_COMMIT (R350): once every context is saved, caches are written back and the commit word is written. -/
def execEmergencySaveCommit (s : State) : Host.Outcome State Fault Refusal :=
  if s.saving = false ∨ s.replaysDone = false ∨ s.armatureLive = false then .next s
  else
    let s' := s.saveAll
    if s'.residentCrews.isEmpty = false then .next s
    else
      let s' := s'.writeBack
      .next { s' with triprec := s'.commitWord, committed := true }

/-- What a power cut leaves of a core or quad: nothing of it but the debug registers of the always-on domain. -/
def Quad.cut (q : Quad) : Quad := { qdctl := q.qdctl, qdstat := q.qdstat }

/-- The dirty copies of the memory-side caches are lost with their power: the bytes that the stacks hold for them are free
values. -/
def State.loseCopies (s : State) : State :=
  let lines := s.dies.flatMap (fun x => (x.2.mcache.filter (fun y => y.2.dirty)).map (·.1))
  lines.foldl (fun (s : State) l =>
    ({ s with draws := s.draws + 8 }).memPut (64 * l)
      ((List.range 8).flatMap (fun i => wordBytes64 8 (Config.freeWord (s.draws + i))))) s

/-- The compute dies and plates lose power: registers, local memories, scratchpads and caches are lost, and contexts that are
not in their save areas with them. -/
def State.powerCut (s : State) : State :=
  let gone := (s.acts.filter (fun x => decide (x.2.core < 2048) && x.2.run != .saved)).map (·.1)
  let s := s.loseCopies
  let s := { s with
    acts := s.acts.filter (fun x => !gone.contains x.1)
    ops := s.ops.filter (fun x => isArmature (s.act x.2.act).core)
    reqs := s.reqs.filter (fun x => isArmature x.2.core)
    cores := s.cores.filter (fun x => isArmature x.1)
    merges := [], insts := s.insts.filter (fun x => x.2.done.isSome || x.2.arrivals.all (fun y => !gone.contains y.act)) }
  let s := s.mapQuads Quad.cut
  { s with dies := s.dies.map (fun (x : Nat × Die) =>
      (x.1, { x.2 with off := true, change := none, nextReq := none, pauseUntil := none, mcache := [] })) }

/-- THERMAL_TRIP (R350): a die at 125 °C; TRIPREC records whether the save had committed. -/
def execThermalTrip (die : Nat) (s : State) : Host.Outcome State Fault Refusal :=
  if 8 ≤ die then .next s
  else
    let commit := s.saving && s.committed
    .next { s.powerCut with
      saving := false, committed := false
      triprec := w64 (2 ^ 63 + (if commit then 2 ^ 62 else 0) + die * 2 ^ 59 + s.tick % 2 ^ 48) }

/-- TRIPREC_CLEAR (R350). -/
def execTriprecClear (value : BitVec 64) (s : State) : Host.Outcome State Fault Refusal :=
  .next (if value.getLsbD 63 then { s with triprec := 0 } else s)

/-- Every crew that is swapped out and fits is restored, gang by gang. -/
def State.restoreAll (s : State) : State :=
  s.gangs.foldl (fun (s : State) x => x.2.crews.foldl (fun (s : State) c =>
    let g := s.gang x.1
    if g.due = some (c.1, true) then
      match s.findPlace s.holdings x.1 g with
      | some p => s.swapIn x.1 c.1 p
      | none => s
    else s) s) s

/-- TEMPERATURE_FALLS (R350): after a commit with no trip the saved gangs resume at once. -/
def execTemperatureFalls (die : Nat) (s : State) : Host.Outcome State Fault Refusal :=
  if die < 8 ∧ s.saving = true ∧ s.committed = true ∧ s.armatureLive = true then
    .next ({ s with saving := false, committed := false }).restoreAll
  else .next s

/-! ## Partitions and resets (R338, R351, R354) -/

/-- A set of dies is an aligned group. -/
def alignedGroup (ds : List Nat) : Bool :=
  let n := ds.length
  (n == 0 || n == 1 || n == 2 || n == 4 || n == 8) && (match ds with
    | [] => true
    | x :: _ => x % n == 0 && ds == (List.range n).map (x + ·))

/-- A partition map obeys the aligned-group rule. -/
def partmapOk (m : BitVec 32) : Bool :=
  (List.range 16).all (fun p => alignedGroup ((List.range 8).filter (fun d => m.toNat / 2 ^ (4 * d) % 16 == p)))

/-- PARTMAP_WRITE (R351): a valid map is held for the next package reset. -/
def execPartmapWrite (value : BitVec 64) (s : State) : Host.Outcome State Fault Refusal :=
  .next (if partmapOk (value.setWidth 32) then { s with partmapNext := value.setWidth 32 } else s)

/-- The partitions of a map. -/
def mapParts (m : BitVec 32) : List Nat :=
  (List.range 16).filter (fun p => (List.range 8).any (fun d => m.toNat / 2 ^ (4 * d) % 16 == p))

/-- What a partition keeps over a package reset: the journal in the always-on domain and in device memory, the scheduler's
tables there (its queues and its record store), and its fault ring. Its open queues are to be closed, each by its own QCLOSE
entry (R317; log 34). -/
def Part.keep (p : Part) : Part :=
  { jbase := p.jbase, jlen := p.jlen, jckpt := p.jckpt, jseq := p.jseq, records := p.records, waiting := p.waiting
    faultRing := p.faultRing, hostIrq := p.hostIrq, queues := p.queues
    jpend := (p.queues.filter (fun x => x.2.isOpen)).map (fun x =>
      ({ kind := 10, queue := x.1 }, .qclose x.1 (x.2.lqbase &&& 0x7FFFFFFFFFFFFFFF))) }

/-- BOOTSTAT after the boot checks (R354), or the halt that the tamper policy keeps (R356). -/
def State.bootWord (s : State) : Word64 :=
  let code := if s.tamper.getLsbD 63 ∧ Config.tamperPolicy = 2 then 4 else (Config.bootCode s.resets).toNat
  w64 (code * 2 ^ 56 + Config.firmwareVersion.toNat)

/-- The grade of a gang that a reset finds and that is not resumed: requeue-safe where TRIPREC shows that the save had
committed, else requeue-after-reset; `lost` says that a stack is gone (R328, R338, R350). -/
def State.resetGrade (s : State) (lost : Bool) : Nat := if !lost && s.triprec.getLsbD 62 then 0 else 2

/-- A gang ends at a reset: its fault record, its END entry, and for a host launch its status word and EXTINT (R313, R317). -/
def State.endAtReset (s : State) (gid : Nat) (lost : Bool) : State :=
  let g := s.gang gid
  let grade := s.resetGrade lost
  let n := (s.part g.part).jseq
  let s := s.faultRecord g.part [faultWord1 gid grade false 13 0 0, 0, w64 s.tick]
  let s := s.jaccept g.part { kind := 8, queue := g.jqueue, slot := g.jslot, code := grade, gang := gid }
  let s := (s.clearGang gid).dropWait gid
  let s := (s.gangStatus gid 4 grade n).dropRecord gid
  let s := s.setGang gid { s.gang gid with stage := .ended, crews := [], faultPend := none, endPend := none }
  if g.kick.isSome then s.raiseHost g.part else s

/-- PACKAGE_RESET (R354): the boot checks run, the partition map is applied, and both armature cores come back from
firmware; no die is released unless the checks pass. Device memory, what is saved in it, TRIPREC, TAMPER and the record
counter last; a gang of a partition whose dies change cannot be resumed and ends. -/
def execPackageReset (s : State) : Host.Outcome State Fault Refusal :=
  let commit := s.triprec.getLsbD 62
  let same := s.partmapNext == s.partmap
  let s := if same then s
    else s.gangs.foldl (fun (s : State) x => if x.2.unfinished then s.endAtReset x.1 false else s) s
  let s := s.writeRecords
  let kept := s.powerCut
  let s' : State :=
    { State.reset with
      schedule := s.schedule, focus := s.focus, draws := kept.draws, fresh := s.fresh
      cores := [(2048, { imem := (s.core 2048).imem }), (2049, { imem := (s.core 2049).imem })]
      acts := if commit && same then kept.acts.filter (fun x => x.2.run == .saved && decide (x.2.core < 2048)) else []
      gangs := if same then s.gangs.map (fun (x : Nat × Gang) => (x.1, { x.2 with endPend := none })) else []
      insts := if commit && same then kept.insts else []
      mem := kept.mem, memTags := s.memTags, memPoison := s.memPoison, peerObjs := s.peerObjs
      partmap := s.partmapNext, partmapNext := s.partmapNext, thwarn := s.thwarn, triprec := s.triprec
      tamper := s.tamper, seq := s.seq, resets := s.resets + 1
      parts := (mapParts s.partmapNext).map (fun p => (p, if same then (s.part p).keep
        else { faultRing := (s.part p).faultRing, hostIrq := (s.part p).hostIrq })) }
  let s' := { s' with bootstat := s'.bootWord }
  .next { s' with dies := s'.dies.map (fun (x : Nat × Die) => (x.1, { x.2 with off := !s'.running })) }

/-- Gangs that a partition reset finds (R338, R350): one whose crews all stand in their save areas after a committed trip may
be resumed; every other is ended. -/
def State.resetGangs (s : State) (part : Nat) (lost : Bool) : State :=
  let keep (g : Gang) : Bool := s.resetGrade lost == 0 && g.crews.all (fun c => c.2.swapped || c.2.finished)
  s.gangs.foldl (fun (s : State) x =>
    if x.2.part ≠ part ∨ x.2.unfinished = false then s
    else if keep x.2 then s.setGang x.1 { s.gang x.1 with unresumed := true }
    else s.endAtReset x.1 lost) s

/-- The one take-over context of the standby armature core, as firmware prepares it at a partition reset for that partition
(R321; log 13); none while there is no standby core (R359). -/
def State.prepareStandby (s : State) (part : Nat) : State :=
  let c := otherArmature s.armature
  if (s.core c).frozen then s
  else
    let obj := (Config.schedulerObject part s.resets).toNat
    let size := match s.otEntry part obj with | some e => e.size | none => 0
    let regs := (({} : Regs).put (wK 0 (KReg.make obj (rR + rW) size 0 true))).put
      (wK 1 (KReg.make Config.windowObject.toNat (rR + rW) (2 ^ 24) 0 true))
    let (aid, s) := s.take
    let a : Act := { part := part, homeCore := c, core := c, run := .standby, asw := 2, regs := regs }
    let s := { s with acts := s.acts.filter (fun x => !(x.2.run == Run.standby && x.2.core == c)) }
    let s := s.setAct aid a
    s.setCore c { s.core c with slots := tableSet (s.core c).slots 0 aid }

/-- A firmware gang, launched by the armature itself in M mode (R292). -/
def State.launchFirmware (s : State) (part n : Nat) : State :=
  let bytes := natToBytes 64 (Config.firmwareRecord part s.resets n).toNat
  let bytes := bytes.set 15 (BitVec.ofNat 8 ((bytes[15]?.getD 0).toNat % 16 + 32))
  let r := LaunchRec.ofBytes bytes
  s.newGang part bytes (s.wholeCap part r.codeObj (rR + rX))
    (if r.argPresent then s.wholeCap part r.argObj r.argRights.toNat else {}) none (fun gid => .launched 0 gid 0)

/-- PARTITION_RESET (R292, R305, R308, R317, R321, R338): defective plates are dropped with the dies above them, every cache
of the partition is emptied, and firmware sets up the partition and is launched. With both armature cores frozen none carries
it out until the next package reset (R359). MCSTAT is kept, since the spec names no reset but the package's that clears it (the
model's choice; log 65). -/
def execPartitionReset (part : Nat) (s : State) : Host.Outcome State Fault Refusal :=
  if s.running = false ∨ s.armatureLive = false then .next s else
  let mine := (List.range 8).filter (fun d => s.diePart d == part)
  let bad := mine.filter (fun d => (Config.defectivePlates s.resets).getLsbD d && !(s.die d).plateGone)
  let s := s.resetGangs part (!bad.isEmpty)
  let s := bad.foldl (fun (s : State) d => s.setDie d { s.die d with plateGone := true, dropped := true }) s
  let s := { s with
    cores := s.cores.map (fun (x : Nat × Core) =>
      if !isArmature x.1 && mine.contains (coreDie x.1) then (x.1, { x.2 with l1 := [], otc := [] }) else x)
    dies := s.dies.map (fun (x : Nat × Die) =>
      if mine.contains x.1 then (x.1, { x.2 with off := false, mcache := if x.2.plateGone then [] else x.2.mcache }) else x) }
  let n := s.resets
  let s := s.setPart part { s.part part with
    otbase := Config.firmwareOtbase part n &&& 0xFFFFFFFFFFFFF000
    jbase := (Config.firmwareJbase part n).toNat * 64, jlen := (Config.firmwareJlen part n).toNat + 1
    tovec := Config.firmwareTovec part n &&& 0xFFFFFF00FFFFFFFF, firmware := true }
  let s := s.prepareStandby part
  .next ((List.range (Config.firmwareGangs part n % 8)).foldl (fun (s : State) i => s.launchFirmware part i) s)

/-! ## Attestation and tamper (R355, R356) -/

/-- The device identity key has been erased. -/
def State.keyErased (s : State) : Bool := s.tamper.getLsbD 57

/-- ATTESTATION_REQUEST (R355): a write to ATTGO. A write while a request runs is ignored. -/
def execAttestationRequest (value : BitVec 64) (s : State) : Host.Outcome State Fault Refusal :=
  if s.att.isSome then .next s
  else
    let a := value &&& 0x0000FFFFFFFFFFC0
    if s.keyErased then .next { s with attgo := a ||| 2 }
    else .next { s with attgo := a ||| 1, att := some { addr := a.toNat, nonce := s.nonce } }

/-- The 1,536-byte report; its signature is a free value. -/
def State.attReport (s : State) (r : AttReq) : List Byte :=
  (List.range 64).map Config.firmwareDigest ++ r.nonce.flatMap (fun x => wordBytes64 8 x) ++ wordBytes64 8 s.bootstat
    ++ wordBytes64 8 Config.serial ++ (List.range 1280).map (Config.reportSignature s.draws) ++ List.replicate 144 0

/-- ATTESTATION_DONE (R355): the report is whole. -/
def execAttestationDone (s : State) : Host.Outcome State Fault Refusal :=
  match s.att with
  | none => .next s
  | some r =>
    let bs := s.attReport r
    let s := s.schedWrite (hostBase + r.addr) bs
    .next { s with att := none, attgo := s.attgo &&& ~~~(1 : Word64), draws := s.draws + 1 }

/-- TAMPER_ALARM (R356): recorded, and acted on by the fused policy; under policies 1 and 2 a request that runs ends with
ATTGO[1] set. -/
def execTamperAlarm (source : BitVec 3) (s : State) : Host.Outcome State Fault Refusal :=
  let first := !s.tamper.getLsbD 63
  let erase := decide (1 ≤ Config.tamperPolicy.toNat)
  let t := s.tamper ||| 0x8000000000000000 ||| (source.setWidth 64 <<< 60) ||| (if erase then 0x0200000000000000 else 0)
  let s := { s with tamper := if first then t ||| w64 (s.tick % 2 ^ 48) else t }
  let s := if erase && s.att.isSome then { s with att := none, attgo := (s.attgo &&& ~~~(1 : Word64)) ||| 2 } else s
  .next (if Config.tamperPolicy = 2 then { s with bootstat := (s.bootstat &&& 0x00FFFFFFFFFFFFFF) ||| 0x0400000000000000 }
    else s)

end Sys2Proof.Machine
end

