-- ==== Sys2Proof/Machine/Window.lean ====
section
/-! DEFINITION. The management window: reading and writing its registers by offset, for the host and for the armature
(R311, R316, R323, R339, R342, R345, R352, R353, R355), and the event REGISTER_WRITE (R13). -/
namespace Sys2Proof.Machine

/-- The state an event leaves. -/
def eventState (s : State) (o : Host.Outcome State Fault Refusal) : State :=
  match o with
  | .next t => t
  | _ => s

/-- A bit per die. -/
def dieBits (f : Nat → Bool) : Nat := fileMask 8 f

/-- TOPO (R352). -/
def State.topo (s : State) : Word64 :=
  let live := dieBits (fun d => !(s.die d).dropped && !(s.die d).off)
  let plates := dieBits (fun d => !(s.die d).plateGone)
  let gone := dieBits (fun d => (s.die d).dropped)
  w64 (live * 2 ^ 56 + plates * 2 ^ 48 + gone * 2 ^ 40 + Config.packageNumber.toNat * 2 ^ 12
    + Config.packagesMinus1.toNat)

/-- A count that saturates at 16 bits. -/
def sat16 (n : Nat) : Nat := min n 65535

/-- HEALTH (R352), with a temperature. -/
def State.health (s : State) (d : Nat) (temp : BitVec 8) : Word64 :=
  let x := s.die d
  w64 (temp.toNat * 2 ^ 56 + x.step % 8 * 2 ^ 53 + x.reqStep % 8 * 2 ^ 50 + (if s.tick < x.wakeUntil then 2 ^ 49 else 0)
    + (if x.dropped then 2 ^ 48 else 0)
    + sat16 x.ueCount * 2 ^ 32 + sat16 x.rails * 2 ^ 16 + sat16 x.ceCount)

/-- The partition holds no unfinished gang (R319). -/
def State.drained (s : State) (part : Nat) : Bool := !(s.gangs.any (fun x => x.2.part == part && x.2.unfinished))

/-- The window offset of feature record n, of ids 1..5 (R353; the offsets are the model's, log 12). -/
def featureOffset (n : Nat) : Nat := 0x81000 + 16 * n

/-- A word of the feature chain (R353). -/
def featureWord (n : Nat) : Word64 :=
  if n % 2 = 1 then 0
  else w64 ((n / 2 + 1) * 2 ^ 48 + 2 ^ 40 + 2 ^ 32 + (if n / 2 = 4 then 0 else featureOffset (n / 2 + 1)))

/-- QDSTAT (R339): halted and xout as stored, away from the held slots. -/
def State.qdstatWord (s : State) (q : Nat) : Word64 :=
  let away := fileMask 32 (fun b => (tableGet? (s.core (quadCore q (b / 8))).held (b % 8)).isSome)
  ((s.quad q).qdstat &&& 0xC000000000000000) ||| w64 away

/-- TAMPER (R356), with the fused policy. -/
def State.tamperWord (s : State) : Word64 :=
  (s.tamper &&& ~~~(0x0C00000000000000 : Word64)) ||| (Config.tamperPolicy.setWidth 64 <<< 58)

/-- A register of the partition's page or of the package's; none where no chapter lists one. A temperature is a free
value. -/
def State.windowReg (s : State) (part off : Nat) : Option Word64 :=
  let p := s.part part
  if 0x1000 ≤ off ∧ off < 0x1200 then some (sparseGet 0 p.kickset ((off - 0x1000) / 8))
  else if 0x1200 ≤ off ∧ off < 0x1400 then some (sparseGet 0 p.kickset ((off - 0x1200) / 8))
  else if 0x1400 ≤ off ∧ off < 0x1800 then
    let q := s.queue part ((off - 0x1400) / 16)
    some (if off % 16 = 0 then q.lqbase else q.lqstat)
  else if 0x2100 ≤ off ∧ off < 0x2200 then
    let e := (tableGet? p.pods ((off - 0x2100) / 16)).getD {}
    some (if off % 16 = 0 then e.pgenr else e.pgmem)
  else if 0x40000 ≤ off ∧ off < 0x42000 then
    let q := (off - 0x40000) / 16
    some (if off % 16 = 0 then (s.quad q).qdctl else s.qdstatWord q)
  else if 0x80100 ≤ off ∧ off < 0x80140 then some (s.health ((off - 0x80100) / 8) (Config.temperature s.draws))
  else if 0x80140 ≤ off ∧ off < 0x80180 then some (w64 (s.die ((off - 0x80140) / 8)).reqStep)
  else if 0x81000 ≤ off ∧ off < 0x81050 then some (featureWord ((off - 0x81000) / 8))
  else match off with
    | 0x1800 => some 0
    | 0x1900 => some p.sbbase
    | 0x1908 => some p.sblen
    | 0x1910 => some p.sbptr
    | 0x1918 => some p.sblost
    | 0x1920 => some (w64 (p.proof.getD 0))
    | 0x2000 => some p.pwrctl
    | 0x2008 => some p.c0res
    | 0x2010 => some (w64 ((if p.drain then 1 else 0) + (if s.drained part then 2 else 0)))
    | 0x80000 => some s.topo
    | 0x80008 => some (s.partmap.setWidth 64)
    | 0x80200 => some (s.thwarn.setWidth 64)
    | 0x80208 => some s.triprec
    | 0x80300 => some (w64 (featureOffset 0))
    | 0x80400 => some s.bootstat
    | 0x80408 => some s.tamperWord
    | 0x80520 => some (if s.keyErased then s.attgo ||| 2 else s.attgo)
    | _ => none

/-- Reading the eight bytes at an aligned offset: what no register holds is a free value (log 3). -/
def State.windowRead (s : State) (part off : Nat) : Word64 × State :=
  ((s.windowReg part off).getD (Config.freeWord s.draws), { s with draws := s.draws + 1 })

/-- QDCTL (R339, R340): the fields are stored, and halt starts or ends a halt. -/
def State.qdctlWrite (s : State) (q : Nat) (v : Word64) : State :=
  let x := s.quad q
  let s := s.setQuad q { x with qdctl := (v &&& 0xFFFFFFFF07C00006) ||| (x.qdctl &&& 1) }
  if v.getLsbD 0 then (if (s.quad q).qdctl.getLsbD 0 then s else eventState s (execQuadHalt q s))
  else eventState s (execQuadResume q s)

/-- Registers that store their writable fields and do nothing else (R13): none where the offset is not one of them.
`firmware` may write PWRCTL. -/
def State.plainReg (s : State) (part off : Nat) (v : Word64) (firmware : Bool) : Option State :=
  let p := s.part part
  if 0x1400 ≤ off ∧ off < 0x1800 ∧ off % 16 = 8 then
    let q := (off - 0x1400) / 16
    some (s.setQueue part q { s.queue part q with lqstat := v &&& 0x0000FFFFFFFFFE00 })
  else if 0x2100 ≤ off ∧ off < 0x2200 ∧ off % 16 = 8 then
    let i := (off - 0x2100) / 16
    let e := (tableGet? p.pods i).getD {}
    some (if s.podBusy part e then s
      else s.setPart part { p with pods := tableSet p.pods i { e with pgmem := v &&& 0x0000FFFFFFFFFF80 } })
  else if 0x40000 ≤ off ∧ off < 0x42000 ∧ off % 16 = 8 then
    let q := (off - 0x40000) / 16
    let x := s.quad q
    some (s.setQuad q { x with
      qdstat := (x.qdstat &&& ~~~(0x4000000000000000 : Word64)) ||| (v &&& 0x4000000000000000) })
  else if 0x80500 ≤ off ∧ off < 0x80520 then
    some { s with nonce := s.nonce.set ((off - 0x80500) / 8) v }
  else if off = 0x2000 then (if firmware then some (s.setPart part { p with pwrctl := v &&& 0x3FFF }) else none)
  else if off = 0x2008 then some (s.setPart part { p with c0res := v &&& 0x80000000000003FF })
  else if off = 0x80200 then
    some (if 60 ≤ bits v 7 0 ∧ bits v 7 0 ≤ 120 then { s with thwarn := v.setWidth 8 } else s)
  else none

/-- A write of a window register by the host or by the armature: what its own rule does, or its fields are stored; a
register that gives the writer no access, or that no chapter lists, is left as it is. -/
def State.windowWrite (s : State) (part off : Nat) (v : Word64) (host : Bool) : State :=
  match s.plainReg part off v (!host) with
  | some t => t
  | none =>
    if 0x1000 ≤ off ∧ off < 0x1200 then eventState s (execKicksetWrite part ((off - 0x1000) / 8) v s)
    else if 0x1200 ≤ off ∧ off < 0x1400 then
      (if host then s else eventState s (execKickclrWrite part ((off - 0x1200) / 8) v s))
    else if 0x1400 ≤ off ∧ off < 0x1800 then eventState s (execLqbaseWrite part ((off - 0x1400) / 16) v host s)
    else if 0x2100 ≤ off ∧ off < 0x2200 then eventState s (execPgenrWrite part ((off - 0x2100) / 16) v s)
    else if 0x40000 ≤ off ∧ off < 0x42000 then s.qdctlWrite ((off - 0x40000) / 16) v
    else if 0x80140 ≤ off ∧ off < 0x80180 then
      (if host then s else eventState s (execDvreq ((off - 0x80140) / 8) v s))
    else match off with
      | 0x1800 => if host then s else eventState s (execHostirqWrite part s)
      | 0x1900 => eventState s (execSampleBufferSetup part false v s)
      | 0x1908 => eventState s (execSampleBufferSetup part true v s)
      | 0x1910 => eventState s (execSbptrWrite part v s)
      | 0x1920 => eventState s (execProofArm part v s)
      | 0x2010 => eventState s (execDrainWrite part v s)
      | 0x80008 => eventState s (execPartmapWrite v s)
      | 0x80208 => if host then eventState s (execTriprecClear v s) else s
      | 0x80520 => eventState s (execAttestationRequest v s)
      | _ => s

/-- Reading n bytes of a partition's window at an offset. -/
def State.windowLoad (s : State) (part off n : Nat) : List Byte × State :=
  let ws := (List.range ((off + n - 1) / 8 + 1 - off / 8)).map (fun i => 8 * (off / 8 + i))
  let r := ws.foldl (fun (x : List Byte × State) a =>
    let (v, s) := x.2.windowRead part a
    (x.1 ++ wordBytes64 8 v, s)) ([], s)
  ((r.1.drop (off % 8)).take n, r.2)

/-- The registers whose write sets or clears the bits that are 1. -/
def bitRegister (off : Nat) : Bool := decide (0x1000 ≤ off) && decide (off < 0x1400)

/-- Storing bytes to a partition's window: each register that they touch is written once. A narrower store keeps the
register's other bytes, and writes zeros to a register of set or clear bits (log 12). -/
def State.windowStore (s : State) (part off : Nat) (bs : List Byte) (mask : List Bool) : State :=
  let n := bs.length
  let ws := (List.range ((off + n - 1) / 8 + 1 - off / 8)).map (fun i => 8 * (off / 8 + i))
  ws.foldl (fun (s : State) a =>
    let on (i : Nat) : Bool := decide (off ≤ a + i) && decide (a + i < off + n) && mask[a + i - off]?.getD true
    if (List.range 8).any on then
      let old := if bitRegister a then 0 else (s.windowReg part a).getD 0
      let bytes := (List.range 8).map (fun i => if on i then bs[a + i - off]?.getD 0 else old.extractLsb' (8 * i) 8)
      s.windowWrite part a (bytesWord bytes) false
    else s) s

/-- REGISTER_WRITE (R13): `reg` is a window offset, or 2^24 + n for the partition's system register n, which firmware
writes (R305, R317, R322). -/
def execRegisterWrite (part : Nat) (reg : Nat) (value : BitVec 64) (s : State) : Host.Outcome State Fault Refusal :=
  let p := s.part part
  if reg = 2 ^ 24 + 0x30 then .next (s.setPart part { p with otbase := value &&& 0xFFFFFFFFFFFFF000 })
  else if reg = 2 ^ 24 + 0x40 then .next (s.setPart part { p with jckpt := value })
  else if reg = 2 ^ 24 + 0x41 then .next (s.setPart part { p with tovec := value &&& 0xFFFFFF00FFFFFFFF })
  else match s.plainReg part reg value true with
    | some t => .next t
    | none => .next (s.windowWrite part reg value true)

end Sys2Proof.Machine
end

