-- ==== Sys2Proof/Machine/EvMem.lean ====
section
/-! DEFINITION. Events of device memory: accesses at the home ports, replies, merged reductions, the L1 read cache, walks,
invalidations and migration (R50, R153..R155, R161..R167, R219, R286, R307..R310). -/
namespace Sys2Proof.Machine

/-! ## Reaching the home port (R154, R286) -/

/-- The link of a peer request is up (R325). -/
def State.routeUp (s : State) (r : Req) : Bool :=
  match r.path with
  | .peer => !s.peerDown (r.addr / 2 ^ 72 % 1024)
  | _ => true

/-- A write that a frozen armature core had not got accepted is never performed (R318). -/
def State.dead (s : State) (r : Req) : Bool := isArmature r.core && (s.core r.core).frozen && !r.accepted

/-- The request may reach its home and be performed there: its activity's earlier accesses to the line have reached it,
and the reads that precede a write have been performed. -/
def State.mayPerform (s : State) (rid : Nat) (r : Req) : Bool :=
  r.performed.isNone && (r.arrived == 0 || r.accepted || r.path == .window) && s.inOrder rid r && s.readsDone r && s.lineFree rid r
    && s.routeUp r && !s.dead r && (r.path != .host || (s.reqPort r).isSome)

/-- An access of the management window (log 12): a wait there compares each time the event happens. -/
def State.performWindow (s : State) (rid : Nat) (r : Req) : State :=
  let (bs, s1) := s.windowLoad r.part r.offset r.bytes
  let put (s : State) (x : List Byte) (m : List Bool) : State := s.windowStore r.part r.offset x m
  match r.kind with
  | .store x m => (put s x m).reply rid r {}
  | .cstore x _ => (put s x (x.map (fun _ => true))).reply rid r {}
  | .atomic opcode sub y new =>
    let v := natToBytes r.bytes (atomicNew opcode sub r.bytes (bytesToNat bs) y.toNat new.toNat)
    let s := if opcode = 0x52 ∧ v = bs then s1 else put s1 v (v.map (fun _ => true))
    s.reply rid r { data := bs }
  | .wait cond y =>
    if waitHolds cond r.bytes (bytesToNat bs) y.toNat then s1.reply rid r { data := bs }
    else { s1 with reqs := tableSet s1.reqs rid { r with arrived := 1 } }
  | _ => s1.reply rid r { data := bs }

/-- HOME_PORT_ACCESS (R154): a request reaches its home and is performed, or begins to wait there. -/
def execHomePortAccess (req : Nat) (s : State) : Host.Outcome State Fault Refusal :=
  match s.req? req with
  | none => .next s
  | some r =>
    if s.mayPerform req r = false then .next s
    else
      let s := if r.path = .window then s.performWindow req r else s.performMem req r
      .next (s.dropDone req)

/-! ## Replies (R153, R155, R161, R165, R219) -/

/-- A request's operation ends: the request goes, the results are written and the tag clears. -/
def State.endReq (s : State) (rid oid : Nat) (o : Op) (ws : List RegWrite) : State :=
  ({ s with reqs := tableErase s.reqs rid }).clearTag oid o ws

/-- The write of an operation's destination. -/
def destWrite (o : Op) (v : RegVal) (p : Option Poison) : List RegWrite :=
  match o.kind with
  | .device (some r) _ => [{ reg := r, val := v, poison := p }]
  | _ => []

/-- A line of a tile image arrives (R219): uncorrectable data ends the word with UNCORR. -/
def State.imageLine (s : State) (rid : Nat) (r : Req) (rep : Reply) (line : Nat) (o : Op) : State :=
  let s' := { s with reqs := tableErase s.reqs rid }
  match o.kind with
  | .matrix c (.restDev d image) =>
    (match rep.poison with
      | some q =>
        let s' := { s' with reqs := s'.reqs.filter (fun x => x.2.op != r.op) }
        s'.matTrap c r.op o { cause := cUNCORR, detail := q.detail, addr := q.addr }
      | none => { s' with ops := tableSet s'.ops r.op { o with kind := .matrix c (.restDev d (tableSet image line rep.data)) } })
  | _ => s'

/-- DEVICE_LOAD_RETURN (R153). -/
def execDeviceLoadReturn (req : Nat) (s : State) : Host.Outcome State Fault Refusal :=
  match s.req? req with
  | none => .next s
  | some r =>
    match r.performed, s.op? r.op with
    | some rep, some o =>
      if !s.canLand o then .next s
      else (match r.kind with
        | .load sx => .next (s.endReq req r.op o (destWrite o (.w (extendLoad sx rep.data)) rep.poison))
        | .vload tag bw =>
          .next (s.endReq req r.op o (destWrite o (.v { data := bytesVec rep.data, tag := tag, bw := bw }) rep.poison))
        | .cload =>
          .next (s.endReq req r.op o (destWrite o (.k { bits := BitVec.ofNat 128 (bytesToNat rep.data), valid := rep.tag })
            rep.poison))
        | .tileLine line => .next (s.imageLine req r rep line o)
        | _ => .next s)
    | _, _ => .next s

/-- The write may be accepted: its activity's earlier accesses to the line have reached the home. -/
def State.mayAccept (s : State) (rid : Nat) (r : Req) : Bool :=
  r.kind.isWrite && !r.accepted && s.routeUp r && !s.dead r
    && !(s.reqs.any (fun x => x.1 != rid && x.2.act == r.act && x.2.addr / 64 == r.addr / 64 && x.2.performed == none
      && x.2.arrived == 0 && !x.2.accepted && (decide (x.2.num < r.num) || (x.2.num == r.num && decide (x.1 < rid)))))
    && (match s.op? r.op with
      | some o => o.kind == .device none false || o.kind == .tileImage
      | none => true)

/-- No line of an operation's image is still to be accepted. -/
def State.imageAccepted (s : State) (oid : Nat) : Bool := !(s.reqs.any (fun x => x.2.op == oid && !x.2.accepted))

/-- A write that was held back takes its place behind what has reached its line since. -/
def State.rearrive (s : State) (rid : Nat) : State :=
  match s.req? rid with
  | some r => let (n, s) := s.take; { s with reqs := tableSet s.reqs rid { r with arrived := n } }
  | none => s

/-- A write joins its home's write queue, where it has its place in the line's arrival order (R153, R154). The later writes of
its activity that an atomic has held back take their places behind it (R286; log 31). -/
def State.accept (s : State) (rid : Nat) (r : Req) : State :=
  let (n, s) := s.take
  let s := { s with reqs := tableSet s.reqs rid { r with accepted := true, arrived := if r.arrived = 0 then n else r.arrived } }
  if r.kind.isRead then
    (sortBy (fun x => x.2.num) (s.reqs.filter (fun x => x.2.act == r.act && x.2.accepted && x.2.performed == none
      && decide (r.num < x.2.num)))).foldl (fun (s : State) x => s.rearrive x.1) s
  else s

/-- STORE_ACCEPTED (R153, R219): the tag clears, whether or not the write has been performed (R286). -/
def execStoreAccepted (req : Nat) (s : State) : Host.Outcome State Fault Refusal :=
  match s.req? req with
  | none => .next s
  | some r =>
    if s.mayAccept req r = false then .next s
    else
      let s := (s.accept req r).dropDone req
      match s.op? r.op with
      | none => .next s
      | some o =>
        if o.kind = .tileImage ∧ s.imageAccepted r.op = false then .next s
        else .next ((s.boundOf o).clearTag r.op o [])

/-- ATOMIC_REPLY (R161): the old value, zero-extended. -/
def execAtomicReply (req : Nat) (s : State) : Host.Outcome State Fault Refusal :=
  match s.req? req with
  | none => .next s
  | some r =>
    match r.performed, s.op? r.op, r.kind with
    | some rep, some o, .atomic _ _ _ _ =>
      if s.canLand o ∧ o.kind ≠ .device none false then
        .next (s.endReq req r.op o (destWrite o (.w (extendLoad false rep.data)) rep.poison))
      else .next s
    | _, _, _ => .next s

/-- WAITMEM_SATISFIED (R165): the value that satisfied it, zero-extended; unchanged for a gang that is being ended. -/
def execWaitmemSatisfied (req : Nat) (s : State) : Host.Outcome State Fault Refusal :=
  match s.req? req with
  | none => .next s
  | some r =>
    match r.performed, s.op? r.op, r.kind with
    | some rep, some o, .wait _ _ =>
      if !s.canLand o then .next s
      else .next (s.endReq req r.op o
        (if rep.void then [] else destWrite o (.w (extendLoad false rep.data)) rep.poison))
    | _, _, _ => .next s

/-- REDUCTION_MERGE_APPLY (R162). -/
def execReductionMergeApply (line : Nat) (s : State) : Host.Outcome State Fault Refusal := .next (s.applyLine line)

/-- RELEASE_WAIT_DONE (R153): a release that held its context may issue, and a FENCE with a release part completes. -/
def execReleaseWaitDone (act : Nat) (s : State) : Host.Outcome State Fault Refusal :=
  let a := s.act act
  let s := if a.block = some .release ∧ s.memBusy act = false then s.setAct act { a with block := none } else s
  match s.ops.find? (fun x => x.2.act == act && x.2.kind == .fence && s.memDone act x.2.num) with
  | some (oid, o) => .next (s.clearTag oid o [])
  | none => .next s

/-- L1_LINE_EXPIRY (R50): the cache may drop any line at any moment. -/
def execL1LineExpiry (core : Nat) (line : Nat) (s : State) : Host.Outcome State Fault Refusal :=
  match tableGet? (s.core core).l1 line with
  | some _ => .next (s.l1Drop core line)
  | none => .next s

/-! ## Translation (R307..R309) -/

/-- What asked for a walk still waits for it. -/
def State.walkWanted (s : State) (w : WalkReq) : Bool :=
  let a := s.act w.act
  match w.who with
  | .word => a.block == some (.walk w.object w.offset w.bytes w.write w.atom) && a.run == .inService
  | .engine q n id => (match s.channelHead q n with | some t => t.id == id && t.act == w.act | none => false)
  | .ahead _ => (tableGet? s.acts w.act).isSome

/-- The page of a walk, and its port: partition, object, page number, port (R307). -/
def State.walkPage (s : State) (w : WalkReq) : Nat × Nat × Nat × Option Nat :=
  let sh := pageShift (match s.otEntry w.part w.object with | some t => t.psize | none => 0)
  (w.part, w.object, w.offset / 2 ^ sh, s.walkPort w.part w.object w.offset)

/-- The walks that are asked for, in the order of their requests. -/
def State.wanted (s : State) : List WalkReq := s.walks.filter s.walkWanted

/-- A page's walk has one of its port's 16 walkers: fewer than 16 other pages were asked for before it there (R307). -/
def State.walkRuns (s : State) (w : Nat × Nat × Nat × Option Nat) : Bool :=
  let pages := ((s.wanted.map s.walkPage).filter (fun x => x.2.2.2 == w.2.2.2)).foldl
    (fun l x => if l.contains x then l else l ++ [x]) []
  (pages.take 16).contains w

/-- The page whose walk an activity's oldest request awaits that has a walker. -/
def State.walkOf (s : State) (aid : Nat) : Option (Nat × Nat × Nat × Option Nat) :=
  (s.wanted.find? (fun w => w.act == aid && s.walkRuns (s.walkPage w))).map s.walkPage

/-- A walk ends in a translation, which the core caches, or in a fault: precise for a word, in flight for a transfer, nothing
for a PFETCH (R152, R170, R253, R307). -/
def State.endWalk (s : State) (w : WalkReq) : State :=
  let s := { s with walks := s.walks.filter (fun y => y != w) }
  let r := s.walk w.part { object := w.object, offset := w.offset, bytes := w.bytes, write := w.write, atom := w.atom }
  match w.who with
  | .word =>
    let s := s.setAct w.act { s.act w.act with block := none }
    (match r with
      | .ok (e, _) => s.setCore w.core ((s.core w.core).otcUse e)
      | .error t => s.raise w.act t)
  | .engine q n _ =>
    (match r, (s.chan q n).queue with
      | .ok (e, _), _ => s.setCore w.core ((s.core w.core).otcUse e)
      | .error t, x :: _ => (s.faultChan q n x t.cause w.offset).settleWaits q
      | .error _, [] => s)
  | .ahead msc =>
    (match r with
      | .ok (e, _) => s.lineAhead w.core msc e w.offset
      | .error _ => s)

/-- The requests that a page's walk ends, in their order. -/
def State.walkers (s : State) (w : Nat × Nat × Nat × Option Nat) : List WalkReq :=
  s.wanted.filter (fun x => s.walkPage x == w)

/-- TRANSLATION_WALK (R307): a walk that an activity awaits ends, for it and for every request that has joined it; each one's own
access decides between the translation and a fault. -/
def execTranslationWalk (act : Nat) (s : State) : Host.Outcome State Fault Refusal :=
  match s.walkOf act with
  | none => .next s
  | some w => .next ((s.walkers w).foldl State.endWalk s)

/-- OTINV_WRITE (R309). -/
def execOtinvWrite (act : Nat) (value : BitVec 64) (s : State) : Host.Outcome State Fault Refusal :=
  if (tableGet? s.acts act).isNone ∨ 16 ≤ (s.part (s.act act).part).otinv.length then .next s
  else .next (s.otinvPut act value)

/-- An invalidation names a page of an object. -/
def invMatches (v : Word64) (obj page : Nat) : Bool :=
  v.getLsbD 63 || (bits v 55 32 == obj && (v.getLsbD 62 || bits v 31 0 == page))

/-- Dropping cached translations of a partition's cores. -/
def State.dropOtc (s : State) (part : Nat) (f : Nat → Nat → Bool) : State :=
  { s with cores := s.cores.map (fun (x : Nat × Core) =>
      if !isArmature x.1 && s.diePart (coreDie x.1) == part then
        (x.1, { x.2 with otc := x.2.otc.filter (fun e => !f e.object e.page) })
      else x) }

/-- An access through a matching translation that has not been performed, or a reduction that has been merged and is still to
be applied to the frame (R162). -/
def State.usesPage (s : State) (part : Nat) (f : Nat → Nat → Bool) : Bool :=
  s.reqs.any (fun x => x.2.part == part && x.2.performed == none && x.2.path != .window
      && f x.2.object (x.2.offset / 2 ^ pageShift x.2.psize))
    || s.merges.any (fun m => m.uses.any (fun u => u.1 == part && f u.2.1 u.2.2))

/-- INVALIDATION_COMPLETE (R309): the oldest one's entries are dropped; it completes once every access that used one has
been performed. -/
def execInvalidationComplete (part : Nat) (s : State) : Host.Outcome State Fault Refusal :=
  match (s.part part).otinv with
  | [] => .next s
  | (_, v) :: rest =>
    let s := s.dropOtc part (invMatches v)
    if s.usesPage part (invMatches v) then .next s
    else .next (s.setPart part { s.part part with otinv := rest })

/-! ## Migration (R310) -/

/-- MIGREQ_WRITE (R310). -/
def execMigreqWrite (act : Nat) (value : BitVec 64) (s : State) : Host.Outcome State Fault Refusal :=
  if (tableGet? s.acts act).isSome then .next (s.migRequest act value) else .next s

/-- Copying one line of a page, with its hidden tags and its poison. A bad copy that the memory-side cache held of the new line
is replaced (R155). -/
def State.moveLine (s : State) (m : Migration) (line : Nat) : State :=
  let new := m.newFrame / 64 + (line - m.oldFrame / 64)
  let s := s.memPut (64 * new) (s.memRead (64 * line) 64)
  let s := s.mcRefetch (64 * new) 64
  { s with
    memTags := (List.range 4).foldl (fun t i =>
      sparseSet false t (4 * new + i) (sparseGet false s.memTags (4 * line + i))) s.memTags
    memPoison := sparseSet false s.memPoison new (sparseGet false s.memPoison line) }

/-- The lines of a page's old frame. -/
def Migration.lines (m : Migration) : List Nat := linesOf m.oldFrame (2 ^ pageShift m.psize)

/-- A migration's rounds are over. -/
def Migration.ready (m : Migration) : Bool := decide (1 ≤ m.rounds) && (decide (m.dirty.length ≤ 64) || decide (8 ≤ m.rounds))

/-- MIGRATION_ROUND (R310): the whole page first, then the lines written since. -/
def execMigrationRound (act : Nat) (s : State) : Host.Outcome State Fault Refusal :=
  let a := s.act act
  match a.mig with
  | none => .next s
  | some m =>
    if m.ready then .next s
    else
      let s := (if m.rounds = 0 then m.lines else m.dirty).foldl (fun (s : State) l => s.moveLine m l) s
      .next (s.setAct act { s.act act with mig := some { m with rounds := m.rounds + 1, dirty := [] } })

/-- Requests and journal entries of the old frame go to the new one. -/
def State.shiftFrame (s : State) (part : Nat) (m : Migration) : State :=
  let size := 2 ^ pageShift m.psize
  let old (a : Nat) : Bool := decide (m.oldFrame ≤ a) && decide (a < m.oldFrame + size)
  { s with
    reqs := s.reqs.map (fun (x : Nat × Req) =>
      if x.2.part == part && x.2.object == m.object && x.2.path == .device && x.2.performed == none && old x.2.addr then
        (x.1, { x.2 with addr := m.newFrame + (x.2.addr - m.oldFrame) })
      else x)
    journals := s.journals.map (fun (x : Nat × MouldEntry) =>
      if old (64 * x.2.line) then
        let line := m.newFrame / 64 + (x.2.line - m.oldFrame / 64)
        (homePort (64 * line), { x.2 with line := line })
      else x) }

/-- No core keeps a cached line of a frame. -/
def State.l1Forget (s : State) (frame size : Nat) : State :=
  { s with cores := s.cores.map (fun x =>
      (x.1, { x.2 with l1 := x.2.l1.filter (fun l => !(decide (frame ≤ 64 * l.1) && decide (64 * l.1 < frame + size))) })) }

/-- MIGRATION_FREEZE (R310): pending writes are performed and merged reductions are applied, the rest is copied, the leaf names the new frame, cached
translations are dropped, and held accesses go on at the new frame. -/
def execMigrationFreeze (act : Nat) (s : State) : Host.Outcome State Fault Refusal :=
  let a := s.act act
  match a.mig with
  | none => .next s
  | some m =>
    if m.ready = false then .next s
    else
      let s := s.performQueued m.lines
      let s := m.lines.foldl (fun (s : State) l => if s.merges.any (fun x => x.addr / 64 == l) then s.applyLine l else s) s
      let dirty := match (s.act act).mig with | some n => n.dirty | none => []
      let s := dirty.foldl (fun (s : State) l => s.moveLine m l) s
      let leaf := (s.memWord m.leaf &&& 0xE000000000000000) ||| w64 m.newFrame
      let s := s.schedWrite m.leaf (wordBytes64 8 leaf)
      let s := (s.dropOtc a.part (fun o p => o == m.object && p == m.page)).shiftFrame a.part m
      let s := s.l1Forget m.newFrame (2 ^ pageShift m.psize)
      .next (s.setAct act { s.act act with
        mig := none, migstat := w64 (dirty.length % 2 ^ 16 * 2 ^ 16 + m.rounds % 2 ^ 16) })

end Sys2Proof.Machine
end

