-- ==== Sys2Proof/Machine/Dispatch.lean ====
section
/-! DEFINITION. Dispatch: the meaning of every instruction, one arm per constructor of `Instr`. -/
namespace Sys2Proof.Machine

def exec (i : Instr) (s : State) : Host.Outcome State Fault Refusal :=
  match i with
  | .add d a b cl => Sys2Proof.Machine.execAdd d a b cl s
  | .sub d a b cl => Sys2Proof.Machine.execSub d a b cl s
  | .addi d a imm cl => Sys2Proof.Machine.execAddi d a imm cl s
  | .mul d a b cl => Sys2Proof.Machine.execMul d a b cl s
  | .mulh d a b cl => Sys2Proof.Machine.execMulh d a b cl s
  | .mulhu d a b cl => Sys2Proof.Machine.execMulhu d a b cl s
  | .div d a b cl => Sys2Proof.Machine.execDiv d a b cl s
  | .divu d a b cl => Sys2Proof.Machine.execDivu d a b cl s
  | .rem d a b cl => Sys2Proof.Machine.execRem d a b cl s
  | .remu d a b cl => Sys2Proof.Machine.execRemu d a b cl s
  | .and d a b cl => Sys2Proof.Machine.execAnd d a b cl s
  | .or d a b cl => Sys2Proof.Machine.execOr d a b cl s
  | .xor d a b cl => Sys2Proof.Machine.execXor d a b cl s
  | .andi d a imm cl => Sys2Proof.Machine.execAndi d a imm cl s
  | .ori d a imm cl => Sys2Proof.Machine.execOri d a imm cl s
  | .xori d a imm cl => Sys2Proof.Machine.execXori d a imm cl s
  | .sll d a b cl => Sys2Proof.Machine.execSll d a b cl s
  | .srl d a b cl => Sys2Proof.Machine.execSrl d a b cl s
  | .sra d a b cl => Sys2Proof.Machine.execSra d a b cl s
  | .slli d a imm cl => Sys2Proof.Machine.execSlli d a imm cl s
  | .srli d a imm cl => Sys2Proof.Machine.execSrli d a imm cl s
  | .srai d a imm cl => Sys2Proof.Machine.execSrai d a imm cl s
  | .min d a b cl => Sys2Proof.Machine.execMin d a b cl s
  | .max d a b cl => Sys2Proof.Machine.execMax d a b cl s
  | .minu d a b cl => Sys2Proof.Machine.execMinu d a b cl s
  | .maxu d a b cl => Sys2Proof.Machine.execMaxu d a b cl s
  | .clz d a cl => Sys2Proof.Machine.execClz d a cl s
  | .popc d a cl => Sys2Proof.Machine.execPopc d a cl s
  | .bfx mod d a imm cl => Sys2Proof.Machine.execBfx mod d a imm cl s
  | .bfi d a b imm cl => Sys2Proof.Machine.execBfi d a b imm cl s
  | .li d imm32 cl => Sys2Proof.Machine.execLi d imm32 cl s
  | .lih d a imm32 cl => Sys2Proof.Machine.execLih d a imm32 cl s
  | .cmp mod d a b cl => Sys2Proof.Machine.execCmp mod d a b cl s
  | .cmpi mod d a imm cl => Sys2Proof.Machine.execCmpi mod d a imm cl s
  | .plog mod d a b cl => Sys2Proof.Machine.execPlog mod d a b cl s
  | .pmov mod d a cl => Sys2Proof.Machine.execPmov mod d a cl s
  | .sel d a b c cl => Sys2Proof.Machine.execSel d a b c cl s
  | .tgt d imm26 cl => Sys2Proof.Machine.execTgt d imm26 cl s
  | .tgtr d a cl => Sys2Proof.Machine.execTgtr d a cl s
  | .movb mod d a cl => Sys2Proof.Machine.execMovb mod d a cl s
  | .lcset a imm26 cl => Sys2Proof.Machine.execLcset a imm26 cl s
  | .lkmov mod d a cl => Sys2Proof.Machine.execLkmov mod d a cl s
  | .nop cl => Sys2Proof.Machine.execNop cl s
  | .srd d imm cl => Sys2Proof.Machine.execSrd d imm cl s
  | .swr a imm cl => Sys2Proof.Machine.execSwr a imm cl s
  | .trap imm cl => Sys2Proof.Machine.execTrap imm cl s
  | .tret cl => Sys2Proof.Machine.execTret cl s
  | .exit cl => Sys2Proof.Machine.execExit cl s
  | .yield cl => Sys2Proof.Machine.execYield cl s
  | .time mod d cl => Sys2Proof.Machine.execTime mod d cl s
  | .ident mod d cl => Sys2Proof.Machine.execIdent mod d cl s
  | .wfi cl => Sys2Proof.Machine.execWfi cl s
  | .iflush cl => Sys2Proof.Machine.execIflush cl s
  | .brk imm cl => Sys2Proof.Machine.execBrk imm cl s
  | .srset a imm cl => Sys2Proof.Machine.execSrset a imm cl s
  | .srclr a imm cl => Sys2Proof.Machine.execSrclr a imm cl s
  | .deadmk mod a cl => Sys2Proof.Machine.execDeadmk mod a cl s
  | .liveq mod d cl => Sys2Proof.Machine.execLiveq mod d cl s
  | .chk d a b imm cl => Sys2Proof.Machine.execChk d a b imm cl s
  | .crc32c mod d a b cl => Sys2Proof.Machine.execCrc32c mod d a b cl s
  | .mchk mod d cl => Sys2Proof.Machine.execMchk mod d cl s
  | .xalm mod imm cl => Sys2Proof.Machine.execXalm mod imm cl s
  | .spdrd mod d a imm cl => Sys2Proof.Machine.execSpdrd mod d a imm cl s
  | .rand mod d a cl => Sys2Proof.Machine.execRand mod d a cl s
  | .ldl mod d a imm cl => Sys2Proof.Machine.execLdl mod d a imm cl s
  | .stl mod a c imm cl => Sys2Proof.Machine.execStl mod a c imm cl s
  | .ldq mod d a imm cl => Sys2Proof.Machine.execLdq mod d a imm cl s
  | .stq mod a c imm cl => Sys2Proof.Machine.execStq mod a c imm cl s
  | .ld mod d a b imm cl => Sys2Proof.Machine.execLd mod d a b imm cl s
  | .st mod a b c imm cl => Sys2Proof.Machine.execSt mod a b c imm cl s
  | .vldl d a c imm cl => Sys2Proof.Machine.execVldl d a c imm cl s
  | .vstl mod a c imm cl => Sys2Proof.Machine.execVstl mod a c imm cl s
  | .vldq d a c imm cl => Sys2Proof.Machine.execVldq d a c imm cl s
  | .vstq mod a c imm cl => Sys2Proof.Machine.execVstq mod a c imm cl s
  | .vld d a b c imm cl => Sys2Proof.Machine.execVld d a b c imm cl s
  | .vst mod a b c imm cl => Sys2Proof.Machine.execVst mod a b c imm cl s
  | .vgathl mod d a b imm cl => Sys2Proof.Machine.execVgathl mod d a b imm cl s
  | .vscatl mod a b c cl => Sys2Proof.Machine.execVscatl mod a b c cl s
  | .aadd mod d a b c imm cl => Sys2Proof.Machine.execAadd mod d a b c imm cl s
  | .alog mod d a b c imm cl => Sys2Proof.Machine.execAlog mod d a b c imm cl s
  | .amnx mod d a b c imm cl => Sys2Proof.Machine.execAmnx mod d a b c imm cl s
  | .aswp mod d a b c imm cl => Sys2Proof.Machine.execAswp mod d a b c imm cl s
  | .acas mod d a b c imm cl => Sys2Proof.Machine.execAcas mod d a b c imm cl s
  | .afadd mod d a b c imm cl => Sys2Proof.Machine.execAfadd mod d a b c imm cl s
  | .waitmem mod d a b c imm cl => Sys2Proof.Machine.execWaitmem mod d a b c imm cl s
  | .fence imm cl => Sys2Proof.Machine.execFence imm cl s
  | .cld d a b imm cl => Sys2Proof.Machine.execCld d a b imm cl s
  | .cst a b c imm cl => Sys2Proof.Machine.execCst a b c imm cl s
  | .cnarrow d a b c imm cl => Sys2Proof.Machine.execCnarrow d a b c imm cl s
  | .cget mod d a cl => Sys2Proof.Machine.execCget mod d a cl s
  | .csetc d a b cl => Sys2Proof.Machine.execCsetc d a b cl s
  | .pfetch mod a b cl => Sys2Proof.Machine.execPfetch mod a b cl s
  | .cinv mod a b cl => Sys2Proof.Machine.execCinv mod a b cl s
  | .signal a b c imm cl => Sys2Proof.Machine.execSignal a b c imm cl s
  | .zerol a b cl => Sys2Proof.Machine.execZerol a b cl s
  | .movk mod d a cl => Sys2Proof.Machine.execMovk mod d a cl s
  | .vadd mod d a b imm cl => Sys2Proof.Machine.execVadd mod d a b imm cl s
  | .vsub mod d a b imm cl => Sys2Proof.Machine.execVsub mod d a b imm cl s
  | .vmul mod d a b imm cl => Sys2Proof.Machine.execVmul mod d a b imm cl s
  | .vfma mod d a b c imm cl => Sys2Proof.Machine.execVfma mod d a b c imm cl s
  | .vfms mod d a b c imm cl => Sys2Proof.Machine.execVfms mod d a b c imm cl s
  | .vmin mod d a b cl => Sys2Proof.Machine.execVmin mod d a b cl s
  | .vmax mod d a b cl => Sys2Proof.Machine.execVmax mod d a b cl s
  | .vabs mod d a imm cl => Sys2Proof.Machine.execVabs mod d a imm cl s
  | .vneg mod d a imm cl => Sys2Proof.Machine.execVneg mod d a imm cl s
  | .vrcp mod d a cl => Sys2Proof.Machine.execVrcp mod d a cl s
  | .vrsq mod d a cl => Sys2Proof.Machine.execVrsq mod d a cl s
  | .vexp2 mod d a cl => Sys2Proof.Machine.execVexp2 mod d a cl s
  | .vlog2 mod d a cl => Sys2Proof.Machine.execVlog2 mod d a cl s
  | .vand mod d a b cl => Sys2Proof.Machine.execVand mod d a b cl s
  | .vor mod d a b cl => Sys2Proof.Machine.execVor mod d a b cl s
  | .vxor mod d a b cl => Sys2Proof.Machine.execVxor mod d a b cl s
  | .vshl mod d a b imm cl => Sys2Proof.Machine.execVshl mod d a b imm cl s
  | .vshr mod d a b imm cl => Sys2Proof.Machine.execVshr mod d a b imm cl s
  | .vcmp mod d a b c cl => Sys2Proof.Machine.execVcmp mod d a b c cl s
  | .vsel d a b c cl => Sys2Proof.Machine.execVsel d a b c cl s
  | .vbcast mod d a imm cl => Sys2Proof.Machine.execVbcast mod d a imm cl s
  | .vextr mod d a b imm cl => Sys2Proof.Machine.execVextr mod d a b imm cl s
  | .vins mod d a b imm cl => Sys2Proof.Machine.execVins mod d a b imm cl s
  | .vperm mod d a b cl => Sys2Proof.Machine.execVperm mod d a b cl s
  | .vreduce mod d a imm cl => Sys2Proof.Machine.execVreduce mod d a imm cl s
  | .vcvt mod d a b imm cl => Sys2Proof.Machine.execVcvt mod d a b imm cl s
  | .vretag d a b imm cl => Sys2Proof.Machine.execVretag d a b imm cl s
  | .vplane mod d a b imm cl => Sys2Proof.Machine.execVplane mod d a b imm cl s
  | .vqscale mod d a c cl => Sys2Proof.Machine.execVqscale mod d a c cl s
  | .vbnd mod d a b c cl => Sys2Proof.Machine.execVbnd mod d a b c cl s
  | .vscan mod d a imm cl => Sys2Proof.Machine.execVscan mod d a imm cl s
  | .vmovp mod d a cl => Sys2Proof.Machine.execVmovp mod d a cl s
  | .mzero mod d cl => Sys2Proof.Machine.execMzero mod d cl s
  | .mma mod d a b cl => Sys2Proof.Machine.execMma mod d a b cl s
  | .mmat mod d a b cl => Sys2Proof.Machine.execMmat mod d a b cl s
  | .mmas mod d a b c cl => Sys2Proof.Machine.execMmas mod d a b c cl s
  | .mmast mod d a b c cl => Sys2Proof.Machine.execMmast mod d a b c cl s
  | .mlda mod d a b cl => Sys2Proof.Machine.execMlda mod d a b cl s
  | .msta mod a b c imm cl => Sys2Proof.Machine.execMsta mod a b c imm cl s
  | .mstq mod a b c imm cl => Sys2Proof.Machine.execMstq mod a b c imm cl s
  | .maddt mod d a b cl => Sys2Proof.Machine.execMaddt mod d a b cl s
  | .mscl mod d a b cl => Sys2Proof.Machine.execMscl mod d a b cl s
  | .mrowv d a imm cl => Sys2Proof.Machine.execMrowv d a imm cl s
  | .mvrow d a imm cl => Sys2Proof.Machine.execMvrow d a imm cl s
  | .mtrn d a cl => Sys2Proof.Machine.execMtrn d a cl s
  | .mredr mod d a cl => Sys2Proof.Machine.execMredr mod d a cl s
  | .mshape a cl => Sys2Proof.Machine.execMshape a cl s
  | .mfmt a cl => Sys2Proof.Machine.execMfmt a cl s
  | .pload mod a cl => Sys2Proof.Machine.execPload mod a cl s
  | .pset a imm cl => Sys2Proof.Machine.execPset a imm cl s
  | .pget d imm cl => Sys2Proof.Machine.execPget d imm cl s
  | .pcount d a b cl => Sys2Proof.Machine.execPcount d a b cl s
  | .pgen mod d a cl => Sys2Proof.Machine.execPgen mod d a cl s
  | .pinv mod d a b cl => Sys2Proof.Machine.execPinv mod d a b cl s
  | .cutset a b cl => Sys2Proof.Machine.execCutset a b cl s
  | .cut mod d imm cl => Sys2Proof.Machine.execCut mod d imm cl s
  | .cutb d a b c imm cl => Sys2Proof.Machine.execCutb d a b c imm cl s
  | .mstat mod d cl => Sys2Proof.Machine.execMstat mod d cl s
  | .mstage a cl => Sys2Proof.Machine.execMstage a cl s
  | .msave mod a b c cl => Sys2Proof.Machine.execMsave mod a b c cl s
  | .mrest mod d b c cl => Sys2Proof.Machine.execMrest mod d b c cl s
  | .mdot mod d a b cl => Sys2Proof.Machine.execMdot mod d a b cl s
  | .mbias mod d a b cl => Sys2Proof.Machine.execMbias mod d a b cl s
  | .mclamp d a b c cl => Sys2Proof.Machine.execMclamp d a b c cl s
  | .meet mod d a b c imm cl => Sys2Proof.Machine.execMeet mod d a b c imm cl s
  | .part cl => Sys2Proof.Machine.execPart cl s
  | .xreg mod d a cl => Sys2Proof.Machine.execXreg mod d a cl s
  | .xvreg d a cl => Sys2Proof.Machine.execXvreg d a cl s
  | .xlug a b c cl => Sys2Proof.Machine.execXlug a b c cl s
  | .meetq mod d cl => Sys2Proof.Machine.execMeetq mod d cl s
  | .bar mod d imm cl => Sys2Proof.Machine.execBar mod d imm cl s
  | .bara mod imm cl => Sys2Proof.Machine.execBara mod imm cl s
  | .barw d cl => Sys2Proof.Machine.execBarw d cl s
  | .sstep d cl => Sys2Proof.Machine.execSstep d cl s
  | .barred mod d a imm cl => Sys2Proof.Machine.execBarred mod d a imm cl s
  | .take d cl => Sys2Proof.Machine.execTake d cl s
  | .share d a cl => Sys2Proof.Machine.execShare d a cl s
  | .launch d a b c cl => Sys2Proof.Machine.execLaunch d a b c cl s
  | .cpy mod d a b c imm cl => Sys2Proof.Machine.execCpy mod d a b c imm cl s
  | .cpyt mod d a b c imm cl => Sys2Proof.Machine.execCpyt mod d a b c imm cl s
  | .cpyw mod d a b c imm cl => Sys2Proof.Machine.execCpyw mod d a b c imm cl s
  | .cpyg mod d a b c imm cl => Sys2Proof.Machine.execCpyg mod d a b c imm cl s
  | .cpys mod d a b c imm cl => Sys2Proof.Machine.execCpys mod d a b c imm cl s
  | .cpyp d a b c imm cl => Sys2Proof.Machine.execCpyp d a b c imm cl s
  | .cpyr d a b c imm cl => Sys2Proof.Machine.execCpyr d a b c imm cl s
  | .cpwait a imm cl => Sys2Proof.Machine.execCpwait a imm cl s
  | .cpstat mod d imm cl => Sys2Proof.Machine.execCpstat mod d imm cl s
  | .stgwait d a imm cl => Sys2Proof.Machine.execStgwait d a imm cl s
  | .stgrel imm cl => Sys2Proof.Machine.execStgrel imm cl s
  | .stgset a imm cl => Sys2Proof.Machine.execStgset a imm cl s
  | .evwait imm cl => Sys2Proof.Machine.execEvwait imm cl s
  | .evclr imm cl => Sys2Proof.Machine.execEvclr imm cl s
  | .mould mod d cl => Sys2Proof.Machine.execMould mod d cl s
  | .tmark a imm cl => Sys2Proof.Machine.execTmark a imm cl s
  | .cpcan imm cl => Sys2Proof.Machine.execCpcan imm cl s
  | .launchq d a b c cl => Sys2Proof.Machine.execLaunchq d a b c cl s
  | .fixedLatencyWriteback core => Sys2Proof.Machine.execFixedLatencyWriteback core s
  | .divideComplete core => Sys2Proof.Machine.execDivideComplete core s
  | .matrixUnitWordDone core => Sys2Proof.Machine.execMatrixUnitWordDone core s
  | .onQuadAccessDone op => Sys2Proof.Machine.execOnQuadAccessDone op s
  | .generatorCutterDone op => Sys2Proof.Machine.execGeneratorCutterDone op s
  | .contextSwitch core => Sys2Proof.Machine.execContextSwitch core s
  | .portResume core => Sys2Proof.Machine.execPortResume core s
  | .trapEntry act => Sys2Proof.Machine.execTrapEntry act s
  | .timerMatch act => Sys2Proof.Machine.execTimerMatch act s
  | .interruptTaken act => Sys2Proof.Machine.execInterruptTaken act s
  | .timecmpWrite act value => Sys2Proof.Machine.execTimecmpWrite act value s
  | .extpendWrite act value => Sys2Proof.Machine.execExtpendWrite act value s
  | .homePortAccess req => Sys2Proof.Machine.execHomePortAccess req s
  | .deviceLoadReturn req => Sys2Proof.Machine.execDeviceLoadReturn req s
  | .storeAccepted req => Sys2Proof.Machine.execStoreAccepted req s
  | .atomicReply req => Sys2Proof.Machine.execAtomicReply req s
  | .waitmemSatisfied req => Sys2Proof.Machine.execWaitmemSatisfied req s
  | .reductionMergeApply line => Sys2Proof.Machine.execReductionMergeApply line s
  | .releaseWaitDone act => Sys2Proof.Machine.execReleaseWaitDone act s
  | .l1LineExpiry core line => Sys2Proof.Machine.execL1LineExpiry core line s
  | .translationWalk act => Sys2Proof.Machine.execTranslationWalk act s
  | .otinvWrite act value => Sys2Proof.Machine.execOtinvWrite act value s
  | .invalidationComplete part => Sys2Proof.Machine.execInvalidationComplete part s
  | .migreqWrite act value => Sys2Proof.Machine.execMigreqWrite act value s
  | .migrationRound act => Sys2Proof.Machine.execMigrationRound act s
  | .migrationFreeze act => Sys2Proof.Machine.execMigrationFreeze act s
  | .kicksetWrite part queue value => Sys2Proof.Machine.execKicksetWrite part queue value s
  | .kickclrWrite part queue value => Sys2Proof.Machine.execKickclrWrite part queue value s
  | .hostirqWrite part => Sys2Proof.Machine.execHostirqWrite part s
  | .lqbaseWrite part queue value host => Sys2Proof.Machine.execLqbaseWrite part queue value host s
  | .kickScan part => Sys2Proof.Machine.execKickScan part s
  | .kickTake part => Sys2Proof.Machine.execKickTake part s
  | .journalEntryAccepted part => Sys2Proof.Machine.execJournalEntryAccepted part s
  | .launchSubmission part => Sys2Proof.Machine.execLaunchSubmission part s
  | .dependenceThreshold part gang => Sys2Proof.Machine.execDependenceThreshold part gang s
  | .crewDispatch gang => Sys2Proof.Machine.execCrewDispatch gang s
  | .preemption act => Sys2Proof.Machine.execPreemption act s
  | .stallSweep gang => Sys2Proof.Machine.execStallSweep gang s
  | .crewSwapIn gang crew => Sys2Proof.Machine.execCrewSwapIn gang crew s
  | .cycleCheckExpiry gang => Sys2Proof.Machine.execCycleCheckExpiry gang s
  | .barrierWatchdogExpiry gang => Sys2Proof.Machine.execBarrierWatchdogExpiry gang s
  | .gangCompletion gang => Sys2Proof.Machine.execGangCompletion gang s
  | .takeServed op => Sys2Proof.Machine.execTakeServed op s
  | .shareServed op => Sys2Proof.Machine.execShareServed op s
  | .barrierArrival act => Sys2Proof.Machine.execBarrierArrival act s
  | .barrierComplete inst => Sys2Proof.Machine.execBarrierComplete inst s
  | .sstepComplete inst => Sys2Proof.Machine.execSstepComplete inst s
  | .barrierRelease inst act => Sys2Proof.Machine.execBarrierRelease inst act s
  | .podBarrierReport inst pkg => Sys2Proof.Machine.execPodBarrierReport inst pkg s
  | .meetArrival act => Sys2Proof.Machine.execMeetArrival act s
  | .meetingCoreChosen quad entry => Sys2Proof.Machine.execMeetingCoreChosen quad entry s
  | .meetLanded core => Sys2Proof.Machine.execMeetLanded core s
  | .partLanded act => Sys2Proof.Machine.execPartLanded act s
  | .meetTimeout act => Sys2Proof.Machine.execMeetTimeout act s
  | .meetWithdrawal act => Sys2Proof.Machine.execMeetWithdrawal act s
  | .copyLine quad chan => Sys2Proof.Machine.execCopyLine quad chan s
  | .transferComplete quad chan => Sys2Proof.Machine.execTransferComplete quad chan s
  | .copyFault quad chan cause => Sys2Proof.Machine.execCopyFault quad chan cause s
  | .peerSignal quad chan => Sys2Proof.Machine.execPeerSignal quad chan s
  | .linkRailFailure link => Sys2Proof.Machine.execLinkRailFailure link s
  | .linkFlitRetry link ok => Sys2Proof.Machine.execLinkFlitRetry link ok s
  | .linkDown link => Sys2Proof.Machine.execLinkDown link s
  | .superstepReplay gang => Sys2Proof.Machine.execSuperstepReplay gang s
  | .gangEnd gang grade => Sys2Proof.Machine.execGangEnd gang grade s
  | .scrubLine space inst line uncorrectable => Sys2Proof.Machine.execScrubLine space inst line uncorrectable s
  | .retentionExit quad lost => Sys2Proof.Machine.execRetentionExit quad lost s
  | .dieDrop die => Sys2Proof.Machine.execDieDrop die s
  | .crossAlarm core code => Sys2Proof.Machine.execCrossAlarm core code s
  | .drainWrite part value => Sys2Proof.Machine.execDrainWrite part value s
  | .pgenrWrite part entry value => Sys2Proof.Machine.execPgenrWrite part entry value s
  | .quadHalt quad => Sys2Proof.Machine.execQuadHalt quad s
  | .quadHalted quad => Sys2Proof.Machine.execQuadHalted quad s
  | .quadResume quad => Sys2Proof.Machine.execQuadResume quad s
  | .debugStateWrite act item => Sys2Proof.Machine.execDebugStateWrite act item s
  | .sampleBufferSetup part len value => Sys2Proof.Machine.execSampleBufferSetup part len value s
  | .proofArm part value => Sys2Proof.Machine.execProofArm part value s
  | .proofSnapshot part => Sys2Proof.Machine.execProofSnapshot part s
  | .dvreq die value => Sys2Proof.Machine.execDvreq die value s
  | .clockSwitch die => Sys2Proof.Machine.execClockSwitch die s
  | .dvfsPauseEnd die => Sys2Proof.Machine.execDvfsPauseEnd die s
  | .arrayGate quad bank => Sys2Proof.Machine.execArrayGate quad bank s
  | .arrayWake quad bank => Sys2Proof.Machine.execArrayWake quad bank s
  | .thermalWarning die => Sys2Proof.Machine.execThermalWarning die s
  | .emergencySaveCommit => Sys2Proof.Machine.execEmergencySaveCommit s
  | .thermalTrip die => Sys2Proof.Machine.execThermalTrip die s
  | .triprecClear value => Sys2Proof.Machine.execTriprecClear value s
  | .partmapWrite value => Sys2Proof.Machine.execPartmapWrite value s
  | .packageReset => Sys2Proof.Machine.execPackageReset s
  | .partitionReset part => Sys2Proof.Machine.execPartitionReset part s
  | .attestationRequest value => Sys2Proof.Machine.execAttestationRequest value s
  | .attestationDone => Sys2Proof.Machine.execAttestationDone s
  | .tamperAlarm source => Sys2Proof.Machine.execTamperAlarm source s
  | .registerWrite part reg value => Sys2Proof.Machine.execRegisterWrite part reg value s
  | .fixedTimeTagClear op => Sys2Proof.Machine.execFixedTimeTagClear op s
  | .machineCheckError core record => Sys2Proof.Machine.execMachineCheckError core record s
  | .temperatureFalls die => Sys2Proof.Machine.execTemperatureFalls die s
  | .sbptrWrite part value => Sys2Proof.Machine.execSbptrWrite part value s

end Sys2Proof.Machine
end

