-- ==== Sys2Proof/Machine/Encoding.lean ====
section
/-! DEFINITION. The encoding check of R108 step 1 with what it takes from the context: the tiles that exist for it (R207),
the opcodes of its core (R149), and the system registers that are listed there (R129). -/
namespace Sys2Proof.Machine

/-- XALM with mod 1 is reserved on a compute core (R149). -/
def xalmFault (a : Act) (i : Instr) : Bool :=
  match i with
  | .xalm mod _ _ => mod == 1 && !isArmature a.core
  | _ => false

/-- SRD, SWR, SRSET or SRCLR names a register that no chapter lists, or writes a read-only one (R129). -/
def sysFault (a : Act) (i : Instr) : Bool :=
  match i with
  | .srd _ imm _ => (sysPre a.core (sysNum imm) false).isSome
  | .swr _ imm _ => (sysPre a.core (sysNum imm) true).isSome
  | .srset _ imm _ => (sysPre a.core (sysNum imm) true).isSome
  | .srclr _ imm _ => (sysPre a.core (sysNum imm) true).isSome
  | _ => false

/-- The first check of R108 step 1 that fails for a context, as the bit position ILLOP carries. -/
def contextFault (a : Act) (i : Instr) (l : Layout) (f : Fields) : Option Nat :=
  let tiles := if a.visitor then 0 else a.tiles.length
  let tile (u : FieldUse) (n : BitVec 6) : Bool := u == .m && decide (tiles ≤ n.toNat)
  match l.mod.bad f.mod with
  | some n => some n
  | none =>
  if xalmFault a i = true then some 44
  else if l.modClash = true ∧ l.modP0 = false ∧ l.immP0 = false then some 28
  else if l.form = .R ∧ l.c.ok f.c = false then some 48
  else if l.form ≠ .L ∧ (l.b.ok f.b = false ∨ tile l.b f.b = true) then some 54
  else if l.a.ok f.a = false ∨ tile l.a f.a = true then some 60
  else if l.d.ok f.d = false ∨ tile l.d f.d = true then some 66
  else if sysFault a i then some 28
  else encodingFault l (tagged i) f

/-- The instruction that a context's word is, or the detail of its ILLOP. -/
def decodeIn (a : Act) (w : Word80) : Except Nat Instr :=
  let f := Fields.ofWord w
  match ofFields f with
  | none => .error 72
  | some i =>
    match layout i with
    | none => .error 72
    | some l =>
      match contextFault a i l f with
      | some n => .error n
      | none => .ok i

end Sys2Proof.Machine
end

