-- ==== Sys2Proof/Machine/Moves.lean ====
section
/-! DEFINITION. What each move of the machine does (log 1): a cycle of a core, a tick of the reference counter, fetching
ahead; and placing a program's first instruction. -/
namespace Sys2Proof.Machine

/-! ## A cycle of a core (R23, R25, R95..R98, R108, R295, R298) -/

/-- The context that holds the port runs a handler, which a halt lets run on to its TRET (R299, R304). -/
def State.inHandler (s : State) (c : Nat) : Bool := match s.portAct c with | some aid => (s.act aid).tip | none => false

/-- The core issues nothing in this cycle: nothing runs (R354, R356), ZEROL still holds it (R172), it is halted and its port
is not a running handler's (R340), its die is paused (R347), dropped or off, or it is a frozen armature core (R359). -/
def State.holdsIssue (s : State) (c : Nat) : Bool :=
  !s.running || decide ((s.core c).cycle < (s.core c).blockedUntil) || (if isArmature c then (s.core c).frozen
    else (s.haltedCore c && !s.inHandler c) || (s.die (coreDie c)).pauseUntil.isSome || !s.live c)

/-- The context's next word, as it decodes for it, issues, faults or waits; a fetch whose translation is missing waits for its walk
(R152, R307). -/
def issueWord (c aid : Nat) (s : State) : Host.Outcome State Fault Refusal :=
  let a := s.act aid
  if a.annulled then .next (s.issueAnnulled c aid)
  else match s.codeMiss a with
  | some x => .next (s.blockOn c aid (.walk x.object x.offset x.bytes x.write x.atom))
  | none =>
    let u := s.fetchTouch a
    match s.fetch a with
    | .error t => .next ((u.noteFetch a t).raise aid t)
    | .ok w =>
      match decodeIn a w with
      | .error n => .next (u.raise aid (mkTrap cILLOP n))
      | .ok i => exec i u

/-- The context's gang is a BSP gang that has issued no word yet (R329). -/
def State.unopened (s : State) (aid : Nat) : Bool :=
  match tableGet? s.gangs (s.act aid).gang with
  | some g => g.lrec.bsp && !g.opened
  | none => false

/-- A word of the context issued from one state to the next: it is counted, or the activity has ended. -/
def State.issuedTo (s t : State) (aid : Nat) : Bool :=
  match tableGet? t.acts aid with
  | some a => a.words != (s.act aid).words
  | none => true

/-- The context's next word; with a BSP gang's first word epoch 0 opens before it (R329). -/
def issueNext (c aid : Nat) (s : State) : Host.Outcome State Fault Refusal :=
  match issueWord c aid s with
  | .next t =>
    if s.unopened aid && s.issuedTo t aid then issueWord c aid (s.openEpoch (s.act aid).gang 0 none) else .next t
  | o => o

/-- The context that holds the port: a trap or an interrupt first, then its next word. -/
def portCycle (c aid : Nat) (s : State) : Host.Outcome State Fault Refusal :=
  let a := s.act aid
  if a.run ≠ .inService then .next (s.switchPort c)
  else match a.duePend with
    | some _ => if s.quiet aid then execTrapEntry aid s else .next (s.switchPort c)
    | none =>
      match s.interruptOf a with
      | some _ => execInterruptTaken aid s
      | none =>
        if s.moulding a.gang ∧ a.tip = false then .next (s.idle c)
        else if s.unblocked aid a = false then .next (s.switchPort c)
        else match a.block with
          | none => issueNext c aid s
          | some _ => issueNext c aid (s.setAct aid { a with block := none })

/-- One cycle of the core in focus; while its die is off none passes (R139). -/
def coreCycle (s : State) : Host.Outcome State Fault Refusal :=
  let c := s.focus
  if !isArmature c && (s.die (coreDie c)).off then .next s
  else if s.holdsIssue c then
    match s.ringFind c (s.core c).last 8 with
    | some n => if s.haltedCore c then .next (s.passPort c (some n)) else .next (s.idle c)
    | none => .next (s.idle c)
  else match s.portAct c with
    | some aid => portCycle c aid s
    | none =>
      match (s.core c).holder, s.ringFind c (s.core c).last 8 with
      | none, some n => .next (s.passPort c (some n))
      | some _, _ => .next (s.switchPort c)
      | none, none => .next (s.idle c)

/-! ## A tick (R31, R162, R242, R303, R312, R345, R347) -/

/-- Every wait at an instance that is due is released in this tick (R31). -/
def State.releases (s : State) : State :=
  s.insts.foldl (fun (s : State) x =>
    if x.2.done.isSome then (s.waiters x.2).foldl (fun (s : State) y => eventState s (execBarrierRelease x.1 y.1 s)) s
    else s) s

/-- What falls due at the end of the current tick: merged reductions (R162), deadlines of meetings (R242), clock switches and
pauses (R347), scans (R312), instances whose last participant has arrived or exited (R29), and releases (R31). -/
def State.dueEvents (s : State) : State :=
  let s := (s.merges.filter (fun m => decide (m.first + 1000 ≤ s.tick))).foldl (fun (s : State) m =>
    s.applyLine (m.addr / 64)) s
  let s := s.acts.foldl (fun (s : State) x =>
    if x.2.mg = 2 then eventState s (execMeetTimeout x.1 s) else s) s
  let s := s.dies.foldl (fun (s : State) x =>
    match x.2.change, x.2.pauseUntil with
    | some (_, t), _ => if t ≤ s.tick then eventState s (execClockSwitch x.1 s) else s
    | none, some _ => eventState s (execDvfsPauseEnd x.1 s)
    | none, none => s) s
  let s := s.parts.foldl (fun (s : State) x => eventState s (execKickScan x.1 s)) s
  let s := s.insts.foldl (fun (s : State) x =>
    if x.2.kind = 6 then eventState s (execSstepComplete x.1 s) else eventState s (execBarrierComplete x.1 s)) s
  s.releases

/-- The scrubber's counts restart with a pass (R334, R352). -/
def Die.scrubTurn (d : Die) (die tick : Nat) : Die :=
  if d.passEnd ≤ tick then
    { d with ueCount := 0, ceCount := 0, passes := d.passes + 1, passEnd := tick + Config.scrubPass die d.passes }
  else d

/-- What a tick counts: cores' own cycles since T0 (R31), passes of the scrubber. -/
def State.countTick (s : State) : State :=
  { s with
    insts := s.insts.map (fun (x : Nat × Inst) => (x.1, s.countCycles x.2))
    dies := s.dies.map (fun (x : Nat × Die) => (x.1, x.2.scrubTurn x.1 s.tick)) }

/-- The reference tick advances. -/
def State.advanceTick (s : State) : State :=
  let s := (if s.running then s.dueEvents else s).countTick.writeRecords
  let s := { s with acts := s.acts.map (fun (x : Nat × Act) =>
    (x.1, if s.parkedAct x.1 then x.2 else { x.2 with parkTick := s.tick + 1 })) }
  let s := { s with
    tick := s.tick + 1
    gangs := if s.running then s.gangs.map (fun (x : Nat × Gang) => (x.1, s.watchGang x.1 x.2)) else s.gangs }
  let s := if s.running then s.gangs.foldl (fun (s : State) x => eventState s (execBarrierWatchdogExpiry x.1 s)) s else s
  if s.running then s.parts.foldl (fun (s : State) x => eventState s (execProofSnapshot x.1 s)) s else s

/-! ## Fetching ahead (R143) -/

/-- The first of n words from an index on that the context has not fetched ahead. -/
def Act.fetchGap (a : Act) : Nat → Nat → Nat
  | 0, pc => pc
  | n + 1, pc => if (tableGet? a.fetched (a.fetchKey pc)).isSome then a.fetchGap n (pc + 1) else pc

/-- A core fetches ahead for the context that holds its port; a word that cannot be fetched is left. -/
def State.prefetch (s : State) (c : Nat) : State :=
  match s.portAct c with
  | none => s
  | some aid =>
    let a := s.act aid
    let n := a.fetchGap a.fetched.length a.pc.toNat
    if bits a.code 31 0 ≤ n ∨ (s.codeMiss { a with pc := BitVec.ofNat 32 n }).isSome = true then s
    else match s.codeWord a n with
      | .ok w => s.setAct aid { a with fetched := tableSet a.fetched (a.fetchKey n) w }
      | .error _ => s

/-! ## Moves -/

/-- Events that happen while the boot checks or the tamper policy keep the package from running: accesses to the window, and
what happens to the package from outside (R354, R356). -/
def served (i : Instr) : Bool :=
  match i with
  | .kicksetWrite _ _ _ | .kickclrWrite _ _ _ | .hostirqWrite _ | .lqbaseWrite _ _ _ _ | .drainWrite _ _ | .pgenrWrite _ _ _
  | .quadHalt _ | .quadResume _ | .sampleBufferSetup _ _ _ | .sbptrWrite _ _ | .proofArm _ _ | .dvreq _ _ | .triprecClear _
  | .partmapWrite _ | .attestationRequest _ | .attestationDone | .registerWrite _ _ _ | .packageReset
  | .thermalTrip _ | .tamperAlarm _ => true
  | _ => false

/-- A move of the machine. Only a device event moves on its own: an instruction word is issued by a core. The host writes
device and host memory; another package's it reaches through that package. While nothing runs its own memory alone is written:
of the package only the window is served (R354). -/
def runMove (m : Move) (s : State) : Host.Outcome State Fault Refusal :=
  match m with
  | .hostWrite a bs =>
    .next (if a + bs.length ≤ peerBase ∧ (s.running = true ∨ hostBase ≤ a) then s.schedWrite a bs else s)
  | .tick => .next s.advanceTick
  | .cycle c => coreCycle { s with focus := c }
  | .prefetch c => .next (s.prefetch c)
  | .event i => if (layout i).isSome || !(s.running || served i) then .next s else exec i s

/-! ## Placing an instruction (log 2) -/

/-- The bytes of an instruction as its code object holds them. -/
def wordImage (nbits w : Nat) : List Byte := natToBytes 10 (w % 2 ^ nbits)

/-- Object 0 of a partition is a code object of one page: its table entry, its page-table nodes and its frame stand at fixed
places of plate 0. -/
def codeImage (s : State) (bs : List Byte) : Sparse Byte :=
  let put (m : Sparse Byte) (a : Nat) (x : Nat) : Sparse Byte := sparseWrite m a (natToBytes 8 x)
  let m := put s.mem 0x1000 (2 ^ 63 + 2 ^ 60 + 10)
  let m := put (put (put m 0x1008 0x2000) 0x1010 0) 0x1018 0
  let m := put m 0x2000 (2 ^ 63 + 0x3000)
  let m := put m 0x3000 (2 ^ 63 + 0x4000)
  let m := put m 0x4000 (2 ^ 63 + 0x200000)
  sparseWrite m 0x200000 bs

/-- The context that runs the placed instruction: in M mode in slot 0 of core 0, with all eight tiles, at word 0 of object
0. -/
def placedAct (s : State) : Act :=
  { part := s.diePart 0, asw := 0x42, code := 1, tiles := List.range 8, gang := 0 }

/-- The translation of the placed code object's page, which core 0 caches so that the fetch finds it (R308). -/
def codeEntry : OtcEntry :=
  { object := 0, page := 0, psize := 1, size := 10, frame := 0x200000, w := false, cow := false, ro := false, path := .device
    gp := false }

/-- An instruction placed so that the next step runs it: a schedule that is empty, core 0 in focus and able to issue, and
a context in its slot 0 that holds the port; nothing is on its way to the code's line. -/
def State.place1 (s : State) (nbits w : Nat) : State :=
  let aid := s.fresh
  let core := s.core 0
  let d := s.die 0
  let q := s.quad 0
  let p := s.diePart 0
  let s := { s with
    schedule := [], focus := 0, fresh := aid + 1, mem := codeImage s (wordImage nbits w)
    memPoison := sparseSet false s.memPoison (0x200000 / 64) false
    bootstat := s.bootstat &&& 0x00FFFFFFFFFFFFFF, acts := tableSet s.acts aid (placedAct s)
    reqs := s.reqs.filter (fun x => x.2.addr / 64 != 0x8000), merges := s.merges.filter (fun m => m.addr / 64 != 0x8000) }
  let s := s.setCore 0 { core with
    slots := tableSet core.slots 0 aid, holder := some 0, blockedUntil := 0, otc := [codeEntry] }
  let s := s.setDie 0 { d with
    pauseUntil := none, dropped := false, off := false, plateGone := false, mcache := tableErase d.mcache 0x8000 }
  let s := if q.halting then s.setQuad 0 { q with halting := false } else s
  s.setPart p { s.part p with otbase := 0x1000 }

end Sys2Proof.Machine
end

