-- ==== Sys2Proof/Machine/Step.lean ====
section
/-! DEFINITION. Step: the machine makes the next move of its schedule, or, with none left, the core in focus makes a cycle
(log 1); and an instruction stored where the next step fetches. -/
namespace Sys2Proof.Machine

/-- One step. -/
def step (s : State) : Host.Outcome State Fault Refusal :=
  match s.schedule with
  | [] => coreCycle s
  | m :: rest => runMove m { s with schedule := rest }

/-- The state with an instruction stored where `step` fetches its next one (log 2). -/
def State.withFetchWord (s : State) (nbits w : Nat) : State := s.place1 nbits w

end Sys2Proof.Machine
end

