-- ==== Sys2Proof/Safety.lean ====
section
/-! DEFINITION. Safety: the canonical form of memories, which every operation keeps, and what counts as a safe step. -/
namespace Sys2Proof.Machine

/-- A memory's canonical form: addresses strictly rising, no entry equal to what an unlisted address reads as, which is
zero (log 4). -/
abbrev Memory.wf (m : Sparse Byte) : Bool := sparseWf 0 m

/-- The canonical form of a map of marks: the hidden tags and the poison. -/
abbrev Marks.wf (m : Sparse Bool) : Bool := sparseWf false m

/-- The memory behind the home ports, with its hidden tags and its poison, is in canonical form. -/
structure State.MemWf (s : State) : Prop where
  mem : Memory.wf s.mem = true
  tags : Marks.wf s.memTags = true
  poison : Marks.wf s.memPoison = true

/-- A core's memories are in canonical form. -/
structure Core.MemWf (c : Core) : Prop where
  lm : Memory.wf c.lm = true
  poison : Marks.wf c.lmPoison = true
  imem : Memory.wf c.imem = true
  imemPoison : Marks.wf c.imemPoison = true

/-- A quad's scratchpad is in canonical form. -/
structure Quad.MemWf (q : Quad) : Prop where
  qs : Memory.wf q.qs = true
  poison : Marks.wf q.qsPoison = true

/-- Register files are in canonical form, and s0, which nothing writes, is zero (R110). -/
structure Regs.Wf (g : Regs) : Prop where
  s : sparseWf 0 g.s = true
  v : sparseWf {} g.v = true
  p : sparseWf 0 g.p = true
  b : sparseWf 0 g.b = true
  k : sparseWf {} g.k = true
  zero : sparseGet 0 g.s 0 = 0

/-- A context's registers and its trap bank are in canonical form, and s0 and p0 are live (R110). -/
structure Act.Wf (a : Act) : Prop where
  regs : a.regs.Wf
  bank : a.bank.Wf
  s0 : a.regs.live (sreg 0) = true
  p0 : a.regs.live (preg 0) = true

/-- The units and contexts of the package are in canonical form: the memories of its cores and scratchpads, and the registers of
its contexts and of those that a gang's snapshot keeps (R329). -/
structure State.UnitsWf (s : State) : Prop where
  cores : ∀ x ∈ s.cores, x.2.MemWf
  quads : ∀ x ∈ s.quads, x.2.MemWf
  acts : ∀ x ∈ s.acts, x.2.Wf
  snaps : ∀ g ∈ s.gangs, ∀ x ∈ g.2.snap.acts, x.2.Wf

/-- A step is safe when the machine goes on: it neither faults nor refuses. -/
def Goes (o : Host.Outcome State Fault Refusal) : Prop := ∃ t, o = .next t

/-- The context `aid` of core `c`, in focus, holds the port. -/
def State.Holds (s : State) (c aid : Nat) : Prop := s.current = some (c, aid)

/-- The core's copy of a line, as a load of the context that holds the port finds it: written bytes that no load of the context
may pass stand in for no copy (R153). -/
def State.portLine (s : State) (k line : Nat) : Option L1Line :=
  match s.portAct k with
  | some aid => s.l1Find k aid line
  | none => none

/-- A word with its clauses has nothing to wait for, and every source is live and free of poison: R108 steps 1 to 4 let it
come to its own checks and effect. -/
structure State.Clear (s : State) (c aid : Nat) (i : Instr) (cl : Clauses) (n : Need) : Prop where
  holds : s.Holds c aid
  waits : s.waits c aid (s.act aid) cl n = none
  live : deadTrap (s.act aid) (sources (s.act aid) i cl) = none
  clean : poisonTrap (s.act aid) (sources (s.act aid) i cl) = none

/-! ## How statements say that a word completes -/

/-- `i` COMPLETES: in every state in which nothing holds it and its own conditions on the core, the context and the state
are met, executing it answers its issue with this effect. -/
def Completes (i : Instr) (cl : Clauses) (need : Act → Need) (ok : Nat → Act → State → Prop)
    (eff : Nat → Nat → Act → State → Eff) : Prop :=
  ∀ (s : State) (c aid : Nat), s.Clear c aid i cl (need (s.act aid)) → ok c (s.act aid) s →
    exec i s = .next (s.issue c aid i cl (eff c aid (s.act aid) s))

/-- `i` RAISES a trap and has no other effect, in every state in which nothing holds it and these conditions are met. -/
def Raises (i : Instr) (cl : Clauses) (need : Act → Need) (ok : Nat → Act → State → Prop)
    (t : Nat → Act → State → Trap) : Prop :=
  ∀ (s : State) (c aid : Nat), s.Clear c aid i cl (need (s.act aid)) → ok c (s.act aid) s →
    exec i s = .next (s.raise aid (t c (s.act aid) s))

/-- No condition of its own. -/
def always (_ : Nat) (_ : Act) (_ : State) : Prop := True

/-- No wait beyond tags and pd. -/
def plainNeed (_ : Act) : Need := {}

/-- A memory word's waits. -/
def memNeed (_ : Act) : Need := { memWord := true }

/-- A matrix word's waits. -/
def matNeed (_ : Act) : Need := { matrix := true }

/-- A matrix word that is a memory word. -/
def matMemNeed (_ : Act) : Need := { memWord := true, matrix := true }

/-- The effect of a word that writes one scalar register. -/
def writeS (s : State) (lat d : Nat) (v : Word64) : Eff := { st := s, writes := [wS d v], lat := lat }

/-- One lane mask. -/
def writeP (s : State) (lat d : Nat) (v : Word64) : Eff := { st := s, writes := [wP d v], lat := lat }

/-- One branch target register. -/
def writeB (s : State) (d : Nat) (v : BitVec 32) : Eff := { st := s, writes := [wB d v] }

/-- One vector register, with the flags its elements raise. -/
def writeV (s : State) (lat d : Nat) (v : VReg) (flags : BitVec 5 := 0) : Eff :=
  { st := s, writes := [wV d v], lat := lat, flags := flags }

/-- One capability register. -/
def writeK (s : State) (d : Nat) (v : KReg) : Eff := { st := s, writes := [wK d v] }

/-- The effect of a word without a register result. -/
def change (s : State) : Eff := { st := s }

/-- The effect of a word that starts one operation under its tag. -/
def start (s : State) (o : Op) : Eff := { st := (s.addOp o).2, op := some (s.addOp o).1 }

/-- A word of fixed latency that always completes and writes this scalar register. -/
def WritesS (i : Instr) (cl : Clauses) (lat : Nat) (d : BitVec 6) (v : Act → Word64) : Prop :=
  Completes i cl plainNeed always (fun _ _ x s => writeS s lat d.toNat (v x))

/-- The effect of a word that starts one operation and sends one request to a home. -/
def request (s : State) (o : Op) (r : Nat → Req) : Eff :=
  { st := (s.addOp o).2.send (r (s.addOp o).1), op := some (s.addOp o).1 }

/-- R48, R152: an access of n bytes at the signed offset o through k[kn] passes every check, and reaches byte p of the object
by the cached translation e: the capability is valid, grants the rights and covers the bytes; the byte is aligned; and the
translation allows the access. -/
structure State.Reaches (s : State) (c : Nat) (x : Act) (kn need : Nat) (o : Word64) (n : Nat) (write : Bool) (atom : Nat)
    (e : OtcEntry) (p : Nat) : Prop where
  valid : (x.k kn).valid = true
  clean : (x.k kn).reserved = false
  rights : hasRights (x.k kn).rights need = true
  low : 0 ≤ o.toInt
  high : ((x.k kn).lo : Int) + o.toInt + n ≤ (x.k kn).hi
  place : (p : Int) = (x.k kn).lo + o.toInt
  aligned : p % n = 0
  found : s.lookup c x.part { object := (x.k kn).object, offset := p, bytes := n, write := write, atom := atom } = .hit e

/-- R174: what a lane mask gives a result of width w with the tag t: computed elements where it is set, the old elements
elsewhere with merge, zeros without; bits above k of every byte are zero under a BPk tag (R64); with the flags of the
computed ones. -/
def maskedV (s : State) (x : Act) (mod : BitVec 4) (d : BitVec 6) (lat w : Nat) (t : BitVec 5) (f : Nat → FRes)
    (bw : BitVec 32 := 0) : Eff :=
  let on (i : Nat) : Bool := (x.p (mod.toNat % 8)).getLsbD (i * (w / 8))
  writeV s lat d.toNat
    { data := retagData t.toNat (vecOf w ((List.range (512 / w)).map (fun i =>
        if on i then (f i).code else if mod.getLsbD 3 then elem (x.v d.toNat).data w i else 0)))
      tag := t, bw := bw }
    (((List.range (512 / w)).filter on).foldl (fun g i => g ||| (f i).flags) 0)

/-- R174: with merge the destination's tag is the result's. -/
def MergeOk (x : Act) (mod : BitVec 4) (d : BitVec 6) (t : BitVec 5) : Prop :=
  mod.getLsbD 3 = true → (x.v d.toNat).tag = t

/-- R51: a context at home owns the tiles that these fields name. -/
def Act.Owns (x : Act) (ns : List (BitVec 6)) : Prop := x.visitor = false ∧ ∀ n ∈ ns, n.toNat < x.tiles.length

/-- The effect of a word that enters the matrix unit's queue with the operation it captured (R208). -/
def enqueue (s : State) (c : Nat) (o : Op) : Eff :=
  { st := (s.addOp o).2.setCore c { (s.addOp o).2.core c with mqueue := ((s.addOp o).2.core c).mqueue ++ [(s.addOp o).1] }
    op := some (s.addOp o).1 }

/-- R209, R211, R215: both operands of a product are aligned and lie in the activity's allocations, no earlier access of the
activity is outstanding, an operand buffer pair is free and no access must be waited for, no scale or header has a reserved
bit, and no byte carries poison. -/
structure State.Captures (s : State) (c aid : Nat) (x : Act) (a b : Opnd) : Prop where
  alignedA : a.base.toNat % 64 = 0
  alignedB : b.base.toNat % 64 = 0
  insideA : a.outside x = none
  insideB : b.outside x = none
  quiet : s.memBusy aid = false
  pair : s.pairsBusy c = false
  freeA : a.busy s aid c = false
  freeB : b.busy s aid c = false
  sidesA : a.badSide s x c = none
  sidesB : b.badSide s x c = none
  cleanA : a.poison s x c = none
  cleanB : b.poison s x c = none

/-- R54, R155, R208, R334: the unit finds nothing that stops a word of its queue: what it reads holds no poison and, under a
bound register in trap mode, which is judged when the queue is empty, nothing it stores is out of range. -/
structure State.Sound (s : State) (g c : Nat) (w : MatWord) : Prop where
  clean : s.matPoison g c w = none
  turn : w.trapBound ≠ none → (s.core c).mqueue = []
  inside : s.matBound c w = none

/-- R45, R245: a copy command may be accepted: its channel and ring are granted, the channel has no fault and its queue has
room; and the debug module is not halting its quad (R340). -/
def State.MayCopy (s : State) (x : Act) (n : Nat) (others : List Nat) : Prop :=
  x.granted n = true ∧ (∀ r ∈ others, x.granted r = true) ∧ (s.chan x.quad n).faulted = false
    ∧ (s.chan x.quad n).queue.length < 16 ∧ (s.quad x.quad).halting = false

/-- R245, R268: the effect of a copy command that is accepted: its transfer takes the channel's next id and, into a ring, the
ring's next fill, joins the channel's queue, and the id and the fill are written. -/
def accepted (s : State) (c aid : Nat) (x : Act) (i : Instr) (cl : Clauses) (d : BitVec 6) (n : Nat) (m : Command) : Eff :=
  let ch := s.chan x.quad n
  let fill := match m.ring with | some r => (s.ring x.quad r).commanded | none => 0
  let t : Transfer :=
    { id := ch.nx, act := aid, gang := x.gang, part := x.part, crew := x.crew, core := c, num := x.num, cap := m.cap
      off := m.off, dir := m.dir, loc := m.loc, what := m.what, ring := m.ring.map (·, fill), line := m.line
      behind := s.pendingWrites aid }
  let s1 := s.setChan x.quad n { ch with queue := ch.queue ++ [t], nx := ch.nx + 1 }
  let s2 := match m.ring with
    | some r => s1.setRing x.quad r { s1.ring x.quad r with commanded := (s1.ring x.quad r).commanded + 1 }
    | none => s1
  start s2 (mkOp aid x i cl false false (dstS d.toNat)
    (.fixedTime (if d = 0 then [] else [wS d.toNat (BitVec.ofNat 64 (ch.nx.toNat + fill.toNat * 2 ^ 32))])))

/-- A device event HAPPENS: in every state that enables it, it has this effect. -/
def Happens (i : Instr) (ok : State → Prop) (eff : State → State) : Prop := ∀ s, ok s → exec i s = .next (eff s)

/-! ## Faults of accesses, in their order -/

/-- R152: the order of the faults of an access of local memory (space 1) or of the scratchpad (space 2): a place o that is not
aligned to n raises MISALIGN, and one of whose n bytes some are outside raises CAPBOUND, once the word's own operands are
accepted. -/
def LocalOrder (i : Instr) (cl : Clauses) (op space n : Nat) (o : Act → Word64) (accepted : Act → Prop) : Prop :=
  let outside (x : Act) : Prop := if space = 1 then x.lmAddr (o x).toNat n = none
    else (o x).toNat < x.qsBase ∨ x.qsBase + x.qsLen < (o x).toNat + n
  Raises i cl memNeed (fun _ x _ => accepted x ∧ (o x).toNat % n ≠ 0) (fun _ x _ => mkTrap cMISALIGN op (o x)) ∧
  Raises i cl memNeed (fun _ x _ => accepted x ∧ (o x).toNat % n = 0 ∧ outside x)
    (fun _ x _ => mkTrap cCAPBOUND (space + op * 256) (o x))

/-- R48, R152: the order of the faults of an access of n bytes at the signed offset o through k[kn], once the word's own operands
are accepted: CAPTAG, CAPRIGHTS, CAPBOUND, MISALIGN, then what the translation finds; and one that the core does not hold makes
the word wait for a walk. -/
def AccessOrder (i : Instr) (cl : Clauses) (waits : Need) (op kn need n : Nat) (write : Bool) (atom : Nat) (o : Act → Word64)
    (accepted : Act → Prop) : Prop :=
  let k (x : Act) : KReg := x.k kn
  let rights (x : Act) : Prop := (k x).reserved = false ∧ hasRights (k x).rights need = true
  let range (x : Act) : Prop := 0 ≤ (o x).toInt ∧ ((k x).lo : Int) + (o x).toInt + n ≤ (k x).hi
  let inside (x : Act) : Prop := accepted x ∧ (k x).valid = true ∧ rights x ∧ range x
  let raises (ok : Nat → Act → State → Prop) (t : Act → Trap) : Prop := Raises i cl (fun _ => waits) ok (fun _ x _ => t x)
  raises (fun _ x _ => accepted x ∧ (k x).valid = false) (fun _ => mkTrap cCAPTAG kn) ∧
  raises (fun _ x _ => accepted x ∧ (k x).valid = true ∧ ¬ rights x) (fun _ => mkTrap cCAPRIGHTS (kn + need * 256)) ∧
  raises (fun _ x _ => accepted x ∧ (k x).valid = true ∧ rights x ∧ ¬ range x) (fun x => mkTrap cCAPBOUND (op * 256) (o x)) ∧
  ∀ p : Nat,
    let place (x : Act) : Prop := inside x ∧ (p : Int) = (k x).lo + (o x).toInt
    let found (c : Nat) (x : Act) (s : State) : Lookup :=
      s.lookup c x.part { object := (k x).object, offset := p, bytes := n, write := write, atom := atom }
    raises (fun _ x _ => place x ∧ p % n ≠ 0) (fun _ => mkTrap cMISALIGN op (BitVec.ofNat 64 p)) ∧
    (∀ t : Trap, raises (fun c x s => place x ∧ p % n = 0 ∧ found c x s = .fault t) (fun _ => t)) ∧
    (∀ (s : State) (c aid : Nat), s.Clear c aid i cl waits → place (s.act aid) → p % n = 0 → found c (s.act aid) s = .miss →
      exec i s = .next (s.blockOn c aid (.walk (k (s.act aid)).object p n write atom)))

/-! ## Frames -/

/-- The scalar words that compute from registers alone: they have no check of their own, start no operation and have no
result but registers, lk and lc (R112, R114..R128, R147). -/
def scalarWord (i : Instr) : Bool :=
  match i with
  | .add _ _ _ _ => true
  | .sub _ _ _ _ => true
  | .addi _ _ _ _ => true
  | .mul _ _ _ _ => true
  | .mulh _ _ _ _ => true
  | .mulhu _ _ _ _ => true
  | .and _ _ _ _ => true
  | .or _ _ _ _ => true
  | .xor _ _ _ _ => true
  | .andi _ _ _ _ => true
  | .ori _ _ _ _ => true
  | .xori _ _ _ _ => true
  | .sll _ _ _ _ => true
  | .srl _ _ _ _ => true
  | .sra _ _ _ _ => true
  | .slli _ _ _ _ => true
  | .srli _ _ _ _ => true
  | .srai _ _ _ _ => true
  | .min _ _ _ _ => true
  | .max _ _ _ _ => true
  | .minu _ _ _ _ => true
  | .maxu _ _ _ _ => true
  | .clz _ _ _ => true
  | .popc _ _ _ => true
  | .bfx _ _ _ _ _ => true
  | .bfi _ _ _ _ _ => true
  | .li _ _ _ => true
  | .lih _ _ _ _ => true
  | .cmp _ _ _ _ _ => true
  | .cmpi _ _ _ _ _ => true
  | .plog _ _ _ _ _ => true
  | .pmov _ _ _ _ => true
  | .sel _ _ _ _ _ => true
  | .tgt _ _ _ => true
  | .tgtr _ _ _ => true
  | .movb _ _ _ _ => true
  | .lcset _ _ _ => true
  | .lkmov _ _ _ _ => true
  | .nop _ => true
  | .crc32c _ _ _ _ _ => true
  | _ => false

/-- The register that a word's d field names. -/
def destOf (i : Instr) : Option RegName :=
  match layout i, toFields i with
  | some l, some f => useReg l.d f.d
  | _, _ => none

/-- The memories, tables and units that no scalar word reaches are the same in both states. -/
structure State.SameStore (s t : State) : Prop where
  mem : t.mem = s.mem
  tags : t.memTags = s.memTags
  poison : t.memPoison = s.memPoison
  ops : t.ops = s.ops
  reqs : t.reqs = s.reqs
  quads : t.quads = s.quads
  dies : t.dies = s.dies
  parts : t.parts = s.parts
  insts : t.insts = s.insts
  merges : t.merges = s.merges
  journals : t.journals = s.journals
  walks : t.walks = s.walks
  recs : t.recs = s.recs
  seq : t.seq = s.seq
  links : t.links = s.links
  tick : t.tick = s.tick

/-- A core keeps its local memory, tiles, caches, matrix queue and machine-check record. -/
structure Core.SameStore (x y : Core) : Prop where
  lm : y.lm = x.lm
  poison : y.lmPoison = x.lmPoison
  tiles : y.tiles = x.tiles
  tilePoison : y.tilePoison = x.tilePoison
  l1 : y.l1 = x.l1
  otc : y.otc = x.otc
  mqueue : y.mqueue = x.mqueue
  mcstat : y.mcstat = x.mcstat
  mould : y.mould = x.mould

/-- A core keeps its memories with their poison, its mould, its machine-check record and what its tiles hold. -/
structure Core.SameMemory (x y : Core) : Prop where
  lm : y.lm = x.lm
  poison : y.lmPoison = x.lmPoison
  imem : y.imem = x.imem
  imemPoison : y.imemPoison = x.imemPoison
  tilePoison : y.tilePoison = x.tilePoison
  mould : y.mould = x.mould
  mcstat : y.mcstat = x.mcstat
  tiles : ∀ n, ((tableGet? y.tiles n).getD {}).elems = ((tableGet? x.tiles n).getD {}).elems

/-- What a word leaves as it was that writes no memory when it issues: every memory, the units, what other agents own, every other
context, and every core but its own. -/
structure State.Keeps (s t : State) (c aid : Nat) : Prop where
  mem : t.mem = s.mem
  tags : t.memTags = s.memTags
  poison : t.memPoison = s.memPoison
  quads : t.quads = s.quads
  dies : t.dies = s.dies
  insts : t.insts = s.insts
  merges : t.merges = s.merges
  journals : t.journals = s.journals
  links : t.links = s.links
  recs : t.recs = s.recs
  seq : t.seq = s.seq
  tick : t.tick = s.tick
  home : (t.act aid).core = (s.act aid).core
  memory : ∀ k, (s.core k).SameMemory (t.core k)
  cores : ∀ k, k ≠ c → k ≠ (s.act aid).core → tableGet? t.cores k = tableGet? s.cores k
  acts : ∀ b, b ≠ aid → tableGet? t.acts b = tableGet? s.acts b

/-- The words beside `scalarWord` that write no memory when they issue: loads, and the stores, atomics and tile stores that only
start or send what writes later; capabilities; what reads or writes system registers; vector words; words of the matrix unit, of
the generator and of the cutter; exchanges. -/
def frameWord (i : Instr) : Bool :=
  match i with
  | .div .. | .divu .. | .rem .. | .remu .. => true
  | .srd .. | .swr .. | .srset .. | .srclr .. | .time .. | .ident .. | .iflush .. | .deadmk .. | .liveq .. | .chk ..
  | .spdrd .. | .rand .. => true
  | .ldl .. | .ldq .. | .stq .. | .ld .. | .st .. | .vldl .. | .vldq .. | .vstq .. | .vld .. | .vst .. | .vgathl .. | .vscatl ..
    => true
  | .aadd .. | .alog .. | .amnx .. | .aswp .. | .acas .. | .afadd .. | .waitmem .. | .signal .. | .fence .. => true
  | .cld .. | .cst .. | .cnarrow .. | .cget .. | .csetc .. | .movk .. | .cinv .. => true
  | .vadd .. | .vsub .. | .vmul .. | .vfma .. | .vfms .. | .vmin .. | .vmax .. | .vabs .. | .vneg .. | .vrcp .. | .vrsq ..
  | .vexp2 .. | .vlog2 .. | .vand .. | .vor .. | .vxor .. | .vshl .. | .vshr .. | .vcmp .. | .vsel .. | .vbcast .. | .vextr ..
  | .vins .. | .vperm .. | .vreduce .. | .vcvt .. | .vretag .. | .vplane .. | .vqscale .. | .vbnd .. | .vscan .. | .vmovp .. => true
  | .mzero .. | .mma .. | .mmat .. | .mmas .. | .mmast .. | .mlda .. | .msta .. | .mstq .. | .maddt .. | .mscl .. | .mrowv ..
  | .mvrow .. | .mtrn .. | .mredr .. | .mshape .. | .mfmt .. | .mstat .. | .mstage .. | .msave .. | .mrest .. | .mdot .. | .mbias ..
  | .mclamp .. => true
  | .pload .. | .pset .. | .pget .. | .pcount .. | .pgen .. | .pinv .. | .cutset .. | .cut .. => true
  | .xreg .. | .xvreg .. | .xlug .. | .meetq .. | .cpstat .. => true
  | _ => false

/-- SWR, SRSET and SRCLR write registers of the context or of its partition (R131). -/
def writesSystem (i : Instr) : Bool :=
  match i with
  | .swr .. | .srset .. | .srclr .. => true
  | _ => false

/-- The context after a word, `y`, with the special registers that the word itself writes put back as they were in `x`: SRSTATE
(R142, R188), a bound register's sticky bit (R54), MSH, MFM and MSB (R223, R232), the generator and the cutter (R224..R230), and
for SWR, SRSET and SRCLR the status word and the trap registers (R131). -/
def Act.putBack (x : Act) (i : Instr) (y : Act) : Act :=
  match i with
  | .rand .. | .vcvt .. => { y with srstate := x.srstate }
  | .vst .. | .vstq .. => { y with bd := x.bd }
  | .mshape .. => { y with msh := x.msh }
  | .mfmt .. => { y with mfm := x.mfm }
  | .mstage .. => { y with msb := x.msb }
  | .pset .. | .pgen .. | .pload .. | .cutset .. | .cut .. => { y with gen := x.gen, cut := x.cut }
  | .swr .. | .srset .. | .srclr .. => { y with asw := x.asw, srstate := x.srstate, trap := x.trap }
  | _ => y

/-- The tile whose elements a word of the matrix unit writes (R216..R222). -/
def MatWord.dest (w : MatWord) : Option Nat :=
  match w with
  | .zero d | .product d _ _ _ _ _ _ _ | .load d _ _ _ | .rowFromV d _ _ _ | .restTile d _ | .restDev d _ | .addT d _ _ _ _
  | .scale d _ _ _ _ | .bias d _ _ _ _ | .clamp d _ _ _ _ | .transpose d _ => some d
  | .store _ _ _ _ _ _ | .vFromRow _ _ _ _ _ | .saveTile _ _ _ _ | .reduce _ _ _ _ _ | .dot _ _ _ _ _ => none

/-- A word of the matrix unit that writes local memory or the scratchpad (R217, R219). -/
def MatWord.stores (w : MatWord) : Bool :=
  match w with
  | .store _ _ _ _ _ _ | .saveTile _ _ _ _ => true
  | _ => false

/-- A context keeps its status word, trap registers, bound registers, matrix registers, generator, cutter and meeting. -/
structure Act.SameSpecial (x y : Act) : Prop where
  asw : y.asw = x.asw
  code : y.code = x.code
  srstate : y.srstate = x.srstate
  trap : y.trap = x.trap
  traps : y.traps = x.traps
  bd : y.bd = x.bd
  msh : y.msh = x.msh
  mfm : y.mfm = x.mfm
  msb : y.msb = x.msb
  gen : y.gen = x.gen
  cut : y.cut = x.cut
  held : y.held = x.held
  party : y.party = x.party
  tiles : y.tiles = x.tiles

end Sys2Proof.Machine
end

