-- ==== Sys2Proof/WellFormed.lean ====
section
/-! DEFINITION. WellFormed: the instructions that have a word which R108 step 1 accepts. -/
namespace Sys2Proof

/-- An instruction is a word of the Burin set (and not a device event). -/
abbrev Instr.isWord (i : Instr) : Prop := (layout i).isSome = true

/-- The instruction passes every encoding check of R108 step 1 (R91-R94, R102, R106 and its entry's own limits). -/
def wellFormed (i : Instr) : Bool :=
  match layout i, toFields i with
  | some l, some f => encodingFault l (tagged i) f == none
  | _, _ => false

/-- `wellFormed` as a proposition. -/
abbrev WellFormed (i : Instr) : Prop := wellFormed i = true

end Sys2Proof
end

