-- ==== Sys2Proof/Certificates/Slice0/Obligations.lean ====
section
/-! DEFINITION. The statements for the provers. Each docstring names the rules of spec/ that it formalises, or the choice of
the model that it rests on. -/
open Sys2Proof Sys2Proof.Machine

/-! ## Completion of the words, with the effect of each -/

/-- R112..R114, R117, R147: integer arithmetic, logic, shifts, bit fields and CRC-32C complete and write these values after these
latencies; the divide words wait for the core's divider and start a division with this result, all ones and the dividend for
a zero divisor, and the one signed overflow without a trap. -/
def Obligations.ScalarArithmeticCompletes : Prop :=
  (∀ (d a b : BitVec 6) (imm : BitVec 16) (cl : Clauses),
     WritesS (.add d a b cl) cl 1 d (fun x => x.s a.toNat + x.s b.toNat) ∧
     WritesS (.sub d a b cl) cl 1 d (fun x => x.s a.toNat - x.s b.toNat) ∧
     WritesS (.addi d a imm cl) cl 1 d (fun x => x.s a.toNat + imm.signExtend 64) ∧
     WritesS (.mul d a b cl) cl 3 d (fun x => x.s a.toNat * x.s b.toNat) ∧
     WritesS (.mulh d a b cl) cl 3 d (fun x =>
       (((x.s a.toNat).signExtend 128 * (x.s b.toNat).signExtend 128) >>> 64).setWidth 64) ∧
     WritesS (.mulhu d a b cl) cl 3 d (fun x =>
       (((x.s a.toNat).setWidth 128 * (x.s b.toNat).setWidth 128) >>> 64).setWidth 64) ∧
     WritesS (.and d a b cl) cl 1 d (fun x => x.s a.toNat &&& x.s b.toNat) ∧
     WritesS (.or d a b cl) cl 1 d (fun x => x.s a.toNat ||| x.s b.toNat) ∧
     WritesS (.xor d a b cl) cl 1 d (fun x => x.s a.toNat ^^^ x.s b.toNat) ∧
     WritesS (.andi d a imm cl) cl 1 d (fun x => x.s a.toNat &&& imm.signExtend 64) ∧
     WritesS (.ori d a imm cl) cl 1 d (fun x => x.s a.toNat ||| imm.signExtend 64) ∧
     WritesS (.xori d a imm cl) cl 1 d (fun x => x.s a.toNat ^^^ imm.signExtend 64) ∧
     WritesS (.sll d a b cl) cl 1 d (fun x => x.s a.toNat <<< (x.s b.toNat).extractLsb' 0 6) ∧
     WritesS (.srl d a b cl) cl 1 d (fun x => x.s a.toNat >>> (x.s b.toNat).extractLsb' 0 6) ∧
     WritesS (.sra d a b cl) cl 1 d (fun x => (x.s a.toNat).sshiftRight' ((x.s b.toNat).extractLsb' 0 6)) ∧
     WritesS (.slli d a imm cl) cl 1 d (fun x => x.s a.toNat <<< imm.extractLsb' 0 6) ∧
     WritesS (.srli d a imm cl) cl 1 d (fun x => x.s a.toNat >>> imm.extractLsb' 0 6) ∧
     WritesS (.srai d a imm cl) cl 1 d (fun x => (x.s a.toNat).sshiftRight' (imm.extractLsb' 0 6))) ∧
  (∀ (mod : BitVec 4) (d a b : BitVec 6) (imm : BitVec 16) (cl : Clauses),
     WritesS (.bfx 0 d a imm cl) cl 1 d (fun x =>
       BitVec.ofNat 64 ((x.s a.toNat).toNat / 2 ^ (imm.extractLsb' 0 6).toNat % 2 ^ ((imm.extractLsb' 6 6).toNat + 1))) ∧
     WritesS (.bfx 1 d a imm cl) cl 1 d (fun x =>
       BitVec.ofInt 64 (sextNat ((x.s a.toNat).toNat / 2 ^ (imm.extractLsb' 0 6).toNat)
         ((imm.extractLsb' 6 6).toNat + 1))) ∧
     WritesS (.bfi d a b imm cl) cl 1 d (fun x =>
       let lo := (imm.extractLsb' 0 6).toNat
       let m := BitVec.ofNat 64 (2 ^ ((imm.extractLsb' 6 6).toNat + 1) - 1) <<< lo
       (x.s b.toNat &&& ~~~m) ||| ((x.s a.toNat <<< lo) &&& m)) ∧
     (mod.toNat ≤ 3 → WritesS (.crc32c mod d a b cl) cl 3 d (fun x =>
       (crcBytes ((x.s a.toNat).setWidth 32) (natToBytes (2 ^ mod.toNat) (x.s b.toNat).toNat)).setWidth 64))) ∧
  (∀ (d a b : BitVec 6) (cl : Clauses),
     let starts (i : Instr) (f : Word64 → Word64 → Word64) : Prop :=
       Completes i cl (fun _ => { divider := true }) always (fun c aid x s =>
         start s (mkOp aid x i cl false false (dstS d.toNat) (.div c d.toNat (f (x.s a.toNat) (x.s b.toNat)))))
     starts (.div d a b cl) (fun x y => if y = 0 then BitVec.allOnes 64 else x.sdiv y) ∧
     starts (.divu d a b cl) (fun x y => if y = 0 then BitVec.allOnes 64 else x / y) ∧
     starts (.rem d a b cl) (fun x y => if y = 0 then x else x.srem y) ∧
     starts (.remu d a b cl) (fun x y => if y = 0 then x else x % y))

/-- R119, R120, R121: compares, lane-mask logic and lane-mask moves: their encodings and reserved values of mod, the mask they
write, all ones or zero by the condition, and their latency of 1. -/
def Obligations.CompareAndMaskRules : Prop :=
  ∀ (m : BitVec 4) (d a b : BitVec 6) (imm : BitVec 16) (cl : Clauses),
    let r (op : BitVec 8) (b : BitVec 6) (imm : BitVec 16) : Option Fields :=
      some { op := op, d := d, a := a, b := b, c := 0, mod := m, imm := imm, cl := cl }
    let compare (mod : BitVec 4) (f : Word64 → Word64 → Bool) : Prop :=
      Completes (.cmp mod d a b cl) cl plainNeed always (fun _ _ x s =>
        writeP s 1 d.toNat (if f (x.s a.toNat) (x.s b.toNat) then BitVec.allOnes 64 else 0)) ∧
      Completes (.cmpi mod d a imm cl) cl plainNeed always (fun _ _ x s =>
        writeP s 1 d.toNat (if f (x.s a.toNat) (imm.signExtend 64) then BitVec.allOnes 64 else 0))
    let combine (mod : BitVec 4) (f : Word64 → Word64 → Word64) : Prop :=
      Completes (.plog mod d a b cl) cl plainNeed always (fun _ _ x s =>
        writeP s 1 d.toNat (f (x.p a.toNat) (x.p b.toNat)))
    toFields (.cmp m d a b cl) = r 0x20 b 0 ∧ toFields (.cmpi m d a imm cl) = r 0x21 0 imm ∧
    toFields (.plog m d a b cl) = r 0x22 b 0 ∧ toFields (.pmov m d a cl) = r 0x23 0 0 ∧
    (12 ≤ m.toNat → wellFormed (.cmp m d a b cl) = false ∧ wellFormed (.cmpi m d a imm cl) = false) ∧
    (8 ≤ m.toNat → wellFormed (.plog m d a b cl) = false) ∧ (3 ≤ m.toNat → wellFormed (.pmov m d a cl) = false) ∧
    compare 0 (fun x y => decide (x = y)) ∧ compare 1 (fun x y => decide (x ≠ y)) ∧
    compare 2 (fun x y => decide (x.toInt < y.toInt)) ∧ compare 3 (fun x y => decide (y.toInt ≤ x.toInt)) ∧
    compare 4 (fun x y => decide (x < y)) ∧ compare 5 (fun x y => decide (y ≤ x)) ∧
    compare 6 (fun x y => decide (x.toInt ≤ y.toInt)) ∧ compare 7 (fun x y => decide (y.toInt < x.toInt)) ∧
    compare 8 (fun x y => decide (x ≤ y)) ∧ compare 9 (fun x y => decide (y < x)) ∧
    compare 10 (fun x y => decide (x &&& y ≠ 0)) ∧ compare 11 (fun x y => decide (x &&& y = 0)) ∧
    combine 0 (fun x y => x &&& y) ∧ combine 1 (fun x y => x ||| y) ∧ combine 2 (fun x y => x ^^^ y) ∧
    combine 3 (fun x y => x &&& ~~~y) ∧ combine 4 (fun x y => x ||| ~~~y) ∧ combine 5 (fun x y => ~~~(x &&& y)) ∧
    combine 6 (fun x y => ~~~(x ||| y)) ∧ combine 7 (fun x y => ~~~(x ^^^ y)) ∧
    Completes (.pmov 0 d a cl) cl plainNeed always (fun _ _ x s => writeP s 1 d.toNat (x.s a.toNat)) ∧
    WritesS (.pmov 1 d a cl) cl 1 d (fun x => x.p a.toNat) ∧
    Completes (.pmov 2 d a cl) cl plainNeed always (fun _ _ x s => writeP s 1 d.toNat (x.p a.toNat))

/-- R124..R128, R139..R146: branch targets, loop counter, link, NOP, time, identity, random numbers, refetching, live bits, the
speed table and index checks complete with these effects. RAND advances SRSTATE once; SPDRD gives 0 for a core that is not
live; CHK raises TRAPI with detail bit 16 set for an index that is not below its bound. IDENT's quad and die on an armature core
are the model's choice (log 67). -/
def Obligations.ControlWordsComplete : Prop :=
  (∀ (mod : BitVec 4) (d a : BitVec 6) (imm26 : BitVec 26) (cl : Clauses),
     Completes (.tgt d imm26 cl) cl plainNeed always (fun _ _ x s => writeB s d.toNat (x.pc + imm26.signExtend 32)) ∧
     Completes (.tgtr d a cl) cl plainNeed always (fun _ _ x s =>
       writeB s d.toNat (x.pc + (x.s a.toNat).setWidth 32)) ∧
     Completes (.movb 0 d a cl) cl plainNeed always (fun _ _ x s => writeB s d.toNat ((x.s a.toNat).setWidth 32)) ∧
     WritesS (.movb 1 d a cl) cl 1 d (fun x => (x.b a.toNat).setWidth 64) ∧
     Completes (.movb 2 d a cl) cl plainNeed always (fun _ _ x s => writeB s d.toNat (x.b a.toNat)) ∧
     Completes (.lcset a imm26 cl) cl plainNeed always (fun _ _ x s =>
       { st := s, lc := some (x.s a.toNat + imm26.signExtend 64) }) ∧
     WritesS (.lkmov 0 d a cl) cl 1 d (fun x => x.lk.setWidth 64) ∧
     Completes (.lkmov 1 d a cl) cl plainNeed always (fun _ _ x s =>
       { st := s, lk := some ((x.s a.toNat).setWidth 32) }) ∧
     WritesS (.lkmov 2 d a cl) cl 1 d (fun x => x.lc) ∧
     Completes (.lkmov 3 d a cl) cl plainNeed always (fun _ _ x s => { st := s, lc := some (x.s a.toNat) }) ∧
     Completes (.nop cl) cl plainNeed always (fun _ _ _ s => change s) ∧
     Completes (.time 0 d cl) cl plainNeed always (fun _ _ _ s => writeS s 1 d.toNat (BitVec.ofNat 64 s.tick)) ∧
     Completes (.time 1 d cl) cl plainNeed always (fun c _ _ s => writeS s 1 d.toNat (BitVec.ofNat 64 (s.core c).cycle)) ∧
     Completes (.time 2 d cl) cl plainNeed always (fun _ _ x s => writeS s 1 d.toNat (x.words + 1)) ∧
     (mod.toNat ≤ 11 → Completes (.ident mod d cl) cl plainNeed always (fun c _ x s =>
       writeS s 1 d.toNat (match mod.toNat with
         | 0 => BitVec.ofNat 64 x.rank
         | 1 => BitVec.ofNat 64 x.size
         | 2 => BitVec.ofNat 64 x.crew
         | 3 => BitVec.ofNat 64 x.index
         | 4 => BitVec.ofNat 64 (s.gang x.gang).lrec.crews
         | 5 => BitVec.ofNat 64 c
         | 6 => BitVec.ofNat 64 x.homeCore
         | 7 => BitVec.ofNat 64 x.slot
         | 8 => BitVec.ofNat 64 (coreQuad c)
         | 9 => BitVec.ofNat 64 (coreDie c)
         | 10 => Config.packageNumber.setWidth 64
         | _ => BitVec.ofNat 64 (x.gang % 2 ^ 32)))) ∧
     Completes (.rand 0 d a cl) cl plainNeed always (fun _ aid x s =>
       writeS (s.setAct aid { x with srstate := srNext x.srstate }) 1 d.toNat (srNext x.srstate)) ∧
     Completes (.rand 1 d a cl) cl plainNeed always (fun _ aid x s =>
       writeS (s.setAct aid { x with srstate := srNext x.srstate }) 1 d.toNat
         (BitVec.ofNat 64 (bits (srNext x.srstate) 63 32 * bits (x.s a.toNat) 31 0 / 2 ^ 32))) ∧
     Completes (.iflush cl) cl plainNeed always (fun _ aid x s => change (s.setAct aid { x with fetched := [] })) ∧
     WritesS (.liveq 0 d cl) cl 1 d (fun x => x.liveBits .s) ∧ WritesS (.liveq 1 d cl) cl 1 d (fun x => x.liveBits .v) ∧
     WritesS (.liveq 2 d cl) cl 1 d (fun x => x.liveBits .p) ∧ WritesS (.liveq 3 d cl) cl 1 d (fun x => x.liveBits .b) ∧
     WritesS (.liveq 4 d cl) cl 1 d (fun x => x.liveBits .k)) ∧
  (∀ (d a b : BitVec 6) (imm : BitVec 16) (cl : Clauses),
     Completes (.spdrd 0 d a imm cl) cl plainNeed always (fun c _ _ s =>
       writeS s 1 d.toNat (BitVec.ofNat 64 (if s.live c then Config.speed c (s.die (coreDie c)).step else 0))) ∧
     Completes (.spdrd 1 d a imm cl) cl plainNeed always (fun _ _ x s =>
       writeS s 1 d.toNat (BitVec.ofNat 64 (if s.live (x.s a.toNat).toNat then
         Config.speed (x.s a.toNat).toNat (s.die (coreDie (x.s a.toNat).toNat)).step else 0))) ∧
     Completes (.spdrd 2 d a imm cl) cl plainNeed always (fun _ _ x s =>
       writeS s 1 d.toNat (BitVec.ofNat 64 (if s.live (x.s a.toNat).toNat then
         Config.speed (x.s a.toNat).toNat (imm.toNat % 8) else 0))) ∧
     (∀ (mod : BitVec 4) (f : RegFile) (n : Nat),
       (mod, f, n) ∈ ([(0, .s, 64), (1, .v, 32), (2, .p, 8), (3, .b, 8), (4, .k, 16)] : List (BitVec 4 × RegFile × Nat)) →
       Completes (.deadmk mod a cl) cl plainNeed always (fun _ aid x s =>
         change (s.setAct aid (((List.range n).filter (fun i => (x.s a.toNat).getLsbD i)).foldl
           (fun y i => y.release ⟨f, i⟩) x)))) ∧
     Completes (.chk d a b imm cl) cl plainNeed (fun _ x _ => x.s a.toNat < x.s b.toNat)
       (fun _ _ x s => writeS s 1 d.toNat (x.s a.toNat)) ∧
     Raises (.chk d a b imm cl) cl plainNeed (fun _ x _ => x.s b.toNat ≤ x.s a.toNat)
       (fun _ _ _ => mkTrap cTRAPI (0x10000 + imm.toNat)))

/-- R33, R133..R138, R257: TRAP and BRK issue and then trap, or BRK halts its quad; YIELD passes the port; WFI waits unless
an interrupt is pending; EXIT ends the activity when its tags are free, and parts first in a visitor slot; TRET completes in
S and M mode when the saved mode is not above the current one. WFI and TRET otherwise raise PRIV. The model's choices, where
the rules leave them open: that TRAP and BRK in a handler are faults there (log 26). -/
def Obligations.TrapAndYieldWordsComplete : Prop :=
  (∀ (imm : BitVec 16) (cl : Clauses),
     Completes (.trap imm cl) cl plainNeed always (fun _ _ _ s => { st := s, post := .trap (mkTrap cTRAPI imm.toNat) }) ∧
     Completes (.brk imm cl) cl plainNeed (fun c _ s => 2048 ≤ c ∨ (s.quad (coreQuad c)).qdctl.getLsbD 1 = false)
       (fun _ _ _ s => { st := s, post := .trap (mkTrap cDEBUG imm.toNat) }) ∧
     Completes (.brk imm cl) cl plainNeed (fun c _ s => c < 2048 ∧ (s.quad (coreQuad c)).qdctl.getLsbD 1 = true)
       (fun _ _ _ s => { st := s, post := .halt })) ∧
  (∀ (cl : Clauses),
     Completes (.yield cl) cl plainNeed always (fun _ _ _ s => { st := s, post := .yield }) ∧
     Completes (.wfi cl) cl plainNeed (fun _ x _ => x.mode ≠ 0) (fun _ _ _ s => { st := s, post := .wfi }) ∧
     Raises (.wfi cl) cl plainNeed (fun _ x _ => x.mode = 0) (fun _ _ _ => mkTrap cPRIV 0x33) ∧
     Completes (.exit cl) cl (fun _ => { exit := true }) (fun _ x _ => x.visitor = false)
       (fun _ _ _ s => { st := s, post := .exit }) ∧
     Completes (.exit cl) cl (fun _ => { exit := true }) (fun _ x _ => x.visitor = true)
       (fun _ _ _ s => { st := s, post := .part none })) ∧
  (∀ (cl : Clauses),
     Completes (.tret cl) cl plainNeed
       (fun _ x _ => x.mode ≠ 0 ∧ bits x.trap.svasw 1 0 ≤ x.mode ∧ bits x.trap.svasw 1 0 ≠ 3)
       (fun _ _ _ s => { st := s, post := .ret }) ∧
     Raises (.tret cl) cl plainNeed
       (fun _ x _ => x.mode = 0 ∨ x.mode < bits x.trap.svasw 1 0 ∨ bits x.trap.svasw 1 0 = 3)
       (fun _ _ _ => mkTrap cPRIV 0x2E))

/-- R129..R131, R293, R305, R309, R310, R322: a read of a listed system register completes in a mode that may read it, a write
of one that the context holds in a mode that may write it, with the value, its bits set or cleared; a read-only register
raises ILLOP with detail 28, and another mode PRIV with the number in the detail. A write to ASW changes only RM and the
flags in U mode, and IE as well in S and M mode; one that would change another field raises PRIV. That MIGDST is a register of
the context, and that SRD of MIGREQ raises PRIV, is the model's choice (log 25). -/
def Obligations.SystemRegistersComplete : Prop :=
  (∀ (d : BitVec 6) (imm : BitVec 16) (cl : Clauses),
     Completes (.srd d imm cl) cl plainNeed
       (fun _ x _ => sysKnown x.core (imm.toNat % 4096) = true ∧ sysReadMode (imm.toNat % 4096) ≤ x.mode)
       (fun c aid x s => writeS s 1 d.toNat (sysRead s c aid x (imm.toNat % 4096))) ∧
     Raises (.srd d imm cl) cl plainNeed
       (fun _ x _ => sysKnown x.core (imm.toNat % 4096) = true ∧ x.mode < sysReadMode (imm.toNat % 4096))
       (fun _ _ _ => mkTrap cPRIV (0x2B + imm.toNat % 4096 * 2 ^ 16))) ∧
  (∀ (a : BitVec 6) (n : Nat) (cl : Clauses), n < 4096 →
     let imm : BitVec 16 := BitVec.ofNat 16 n
     (n ∈ [0x02, 0x10, 0x11, 0x12, 0x13, 0x14, 0x15, 0x16, 0x17, 0x18, 0x19, 0x1A, 0x1B, 0x1C, 0x33] →
       Completes (.swr a imm cl) cl plainNeed (fun _ x _ => sysWriteMode n ≤ x.mode)
         (fun _ aid x s => change (s.setAct aid (x.sysWrite n (x.s a.toNat)))) ∧
       Completes (.srset a imm cl) cl plainNeed (fun _ x _ => sysWriteMode n ≤ x.mode)
         (fun c aid x s => change (s.setAct aid (x.sysWrite n (sysRead s c aid x n ||| x.s a.toNat)))) ∧
       Completes (.srclr a imm cl) cl plainNeed (fun _ x _ => sysWriteMode n ≤ x.mode)
         (fun c aid x s => change (s.setAct aid (x.sysWrite n (sysRead s c aid x n &&& ~~~(x.s a.toNat)))))) ∧
     (sysReadOnly n = true →
       (∀ (s : State) (c aid : Nat), s.Holds c aid →
         exec (.swr a imm cl) s = .next (s.raise aid (mkTrap cILLOP 28)) ∧
         exec (.srset a imm cl) s = .next (s.raise aid (mkTrap cILLOP 28)) ∧
         exec (.srclr a imm cl) s = .next (s.raise aid (mkTrap cILLOP 28)))) ∧
     Raises (.swr a imm cl) cl plainNeed
       (fun _ x _ => sysKnown x.core n = true ∧ sysReadOnly n = false ∧ x.mode < sysWriteMode n)
       (fun _ _ _ => mkTrap cPRIV (0x2C + n * 2 ^ 16))) ∧
  (∀ (a : BitVec 6) (cl : Clauses),
     let changed (x : Act) : Word64 := (x.asw ^^^ (x.s a.toNat &&& 0xFBFF))
     let allowed (x : Act) : Prop :=
       changed x &&& (if x.mode = 0 then ~~~(0xFB00 : Word64) else ~~~(0xFB40 : Word64)) = 0
     Completes (.swr a 0 cl) cl plainNeed (fun _ x _ => allowed x)
       (fun _ aid x s => change (s.setAct aid { x with asw := x.s a.toNat &&& 0xFBFF })) ∧
     Raises (.swr a 0 cl) cl plainNeed (fun _ x _ => ¬ allowed x) (fun _ _ _ => mkTrap cPRIV 0x2C))

/-- R148, R149, R305, R309, R310, R322, R359: writes of the registers that a partition shares complete in a mode that may write
them; MCHK reads and clears the core's machine-check record; XALM posts a notice on a compute core and asserts or clears the
cross-alarm on an armature core, in M mode alone. -/
def Obligations.PartitionRegistersComplete : Prop :=
  (∀ (a : BitVec 6) (cl : Clauses),
     Completes (.swr a 0x30 cl) cl plainNeed (fun _ x _ => x.mode = 2) (fun _ _ x s =>
       change (s.setPart x.part { s.part x.part with otbase := x.s a.toNat &&& 0xFFFFFFFFFFFFF000 })) ∧
     Completes (.swr a 0x32 cl) cl plainNeed (fun _ x s => 1 ≤ x.mode ∧ (s.part x.part).otinv.length < 16)
       (fun _ aid x s => change (s.setPart x.part { s.part x.part with
         otinv := (s.part x.part).otinv ++ [(aid, x.s a.toNat &&& 0xC0FFFFFFFFFFFFFF)] })) ∧
     Completes (.swr a 0x34 cl) cl plainNeed (fun _ x _ => 1 ≤ x.mode) (fun _ aid x s =>
       change (s.migRequest aid (x.s a.toNat))) ∧
     Completes (.swr a 0x40 cl) cl plainNeed (fun _ x _ => x.mode = 2 ∧ 2048 ≤ x.core) (fun _ _ x s =>
       change (s.setPart x.part { s.part x.part with jckpt := x.s a.toNat })) ∧
     Completes (.swr a 0x41 cl) cl plainNeed (fun _ x _ => x.mode = 2 ∧ 2048 ≤ x.core) (fun _ _ x s =>
       change (s.setPart x.part { s.part x.part with tovec := x.s a.toNat &&& 0xFFFFFF00FFFFFFFF }))) ∧
  (∀ (d : BitVec 6) (imm : BitVec 16) (cl : Clauses),
     Completes (.mchk 0 d cl) cl plainNeed (fun _ x _ => x.mode ≠ 0) (fun c _ _ s => writeS s 1 d.toNat (s.core c).mcstat) ∧
     Completes (.mchk 1 d cl) cl plainNeed (fun _ x _ => x.mode ≠ 0) (fun c _ _ s =>
       writeS (s.setCore c { s.core c with mcstat := 0 }) 1 d.toNat (s.core c).mcstat) ∧
     Raises (.mchk 0 d cl) cl plainNeed (fun _ x _ => x.mode = 0) (fun _ _ _ => mkTrap cPRIV 0x3C) ∧
     Completes (.xalm 0 imm cl) cl plainNeed (fun c x _ => x.mode = 2 ∧ c < 2048)
       (fun c _ _ s => change { s with notices := s.notices ++ [(c, imm)] }) ∧
     Completes (.xalm 0 imm cl) cl plainNeed (fun c x _ => x.mode = 2 ∧ 2048 ≤ c)
       (fun c _ _ s => change (s.crossAlarm c imm)) ∧
     Completes (.xalm 1 imm cl) cl plainNeed (fun c x _ => x.mode = 2 ∧ 2048 ≤ c ∧ 2048 ≤ x.core)
       (fun c _ _ s => change (s.setCore c { s.core c with alarm := none })) ∧
     Raises (.xalm 0 imm cl) cl plainNeed (fun _ x _ => x.mode ≠ 2) (fun _ _ _ => mkTrap cPRIV 0x3D))

/-- R41, R43, R44, R150, R152, R155..R159: a scalar access of local memory that is aligned and lies in the activity's allocation,
with no tagged access to its bytes outstanding, completes: a load extends the bytes it reads and carries the poison of their
line, a store writes the low bytes of s[c]. An aligned access of the scratchpad allocation starts one operation. The address
that the poison of a line read in a visitor slot carries is the model's choice (log 68). -/
def Obligations.LocalScalarAccessCompletes : Prop :=
  (∀ (mod : BitVec 4) (d a c : BitVec 6) (imm : BitVec 16) (p : Nat) (cl : Clauses),
     let n := 2 ^ (mod.toNat % 4)
     let off (x : Act) : Word64 := x.s a.toNat + imm.signExtend 64
     Completes (.ldl mod d a imm cl) cl memNeed
       (fun k x s => (off x).toNat % n = 0 ∧ x.lmAddr (off x).toNat n = some p ∧ s.lmBusy k p n false = false
         ∧ s.lmPoisonOf k p n = none)
       (fun k _ _ s => writeS s 3 d.toNat (extendLoad (mod.getLsbD 2) (s.lmRead k p n))) ∧
     (∀ q : Poison, Completes (.ldl mod d a imm cl) cl memNeed
       (fun k x s => (off x).toNat % n = 0 ∧ x.lmAddr (off x).toNat n = some p ∧ s.lmBusy k p n false = false
         ∧ s.lmPoisonOf k p n = some q)
       (fun k _ x s => { st := s.noteUncorr x.gang q (s.lmLogged x.gang k p), lat := 3
                         writes := [{ reg := sreg d.toNat, poison := some q
                                      val := .w (extendLoad (mod.getLsbD 2) (s.lmRead k p n)) }] })) ∧
     Completes (.stl mod a c imm cl) cl memNeed
       (fun k x s => (off x).toNat % n = 0 ∧ x.lmAddr (off x).toNat n = some p ∧ s.lmBusy k p n true = false)
       (fun k _ x s => change (s.lmWrite x.gang k p (natToBytes n (x.s c.toNat).toNat) (List.replicate n true) false))) ∧
  (∀ (mod : BitVec 4) (d a c : BitVec 6) (imm : BitVec 16) (cl : Clauses),
     let n := 2 ^ (mod.toNat % 4)
     let off (x : Act) : Word64 := x.s a.toNat + imm.signExtend 64
     let voff (x : Act) : Word64 := x.s a.toNat + (imm.extractLsb' 5 11).signExtend 64 * 64
     let inside (x : Act) (o : Word64) (n : Nat) : Prop :=
       o.toNat % n = 0 ∧ x.qsBase ≤ o.toNat ∧ o.toNat + n ≤ x.qsBase + x.qsLen
     Completes (.ldq mod d a imm cl) cl memNeed (fun _ x _ => inside x (off x) n)
       (fun _ aid x s => start s (mkOp aid x (.ldq mod d a imm cl) cl false true (dstS d.toNat)
         (.ldq (coreQuad x.core) (off x).toNat n (mod.getLsbD 2) d.toNat))) ∧
     Completes (.stq mod a c imm cl) cl memNeed (fun _ x _ => inside x (off x) n)
       (fun _ aid x s => start s (mkOp aid x (.stq mod a c imm cl) cl false true []
         (.stq (coreQuad x.core) (off x).toNat (natToBytes n (x.s c.toNat).toNat) (List.replicate n true)))) ∧
     Completes (.vldq d a c imm cl) cl memNeed
       (fun _ x _ => inside x (voff x) 64 ∧ tagKnown (imm.toNat % 32) = true ∧ tagBlock (imm.toNat % 32) = false)
       (fun _ aid x s => start s (mkOp aid x (.vldq d a c imm cl) cl false true [vreg d.toNat]
         (.vldq (coreQuad x.core) (voff x).toNat (imm.extractLsb' 0 5) 0 d.toNat))) ∧
     Completes (.vldq d a c imm cl) cl memNeed
       (fun _ x _ => inside x (voff x) 64 ∧ tagKnown (imm.toNat % 32) = true ∧ tagBlock (imm.toNat % 32) = true
         ∧ bwOk (imm.toNat % 32) ((x.s c.toNat).setWidth 32) = true)
       (fun _ aid x s => start s (mkOp aid x (.vldq d a c imm cl) cl false true [vreg d.toNat]
         (.vldq (coreQuad x.core) (voff x).toNat (imm.extractLsb' 0 5) ((x.s c.toNat).setWidth 32) d.toNat))) ∧
     (imm.getLsbD 4 = false → Completes (.vstq mod a c imm cl) cl memNeed (fun _ x _ => inside x (voff x) 64)
       (fun _ aid x s => start s (mkOp aid x (.vstq mod a c imm cl) cl false true []
         (.stq (coreQuad x.core) (voff x).toNat (natToBytes 64 (x.v c.toNat).data.toNat)
           (storeMask (x.p (mod.toNat % 8)) (x.v c.toNat).tag.toNat))))))

/-- R54, R150, R158..R160, R172: a vector load of local memory completes with the bytes, the tag and the block word; a vector
store writes the bytes of its active elements, under a bound register what the bound leaves, or raises BOUND in trap mode;
ZEROL fills its range with zeros and holds its core; gathers and scatters start one operation. What a clamp with lo > hi
stores (log 58), which bit of the mask governs an element of a RAW scatter (log 59) and the high bits of a loaded bit-plane
byte (log 60) are the model's choices. -/
def Obligations.LocalVectorAccessCompletes : Prop :=
  (∀ (mod : BitVec 4) (d a b c : BitVec 6) (imm : BitVec 16) (p : Nat) (cl : Clauses),
     let off (x : Act) : Word64 := x.s a.toNat + (imm.extractLsb' 5 11).signExtend 64 * 64
     let t := imm.toNat % 32
     Completes (.vldl d a c imm cl) cl memNeed
       (fun k x s => tagKnown t = true ∧ (tagBlock t = true → bwOk t ((x.s c.toNat).setWidth 32) = true)
         ∧ (off x).toNat % 64 = 0 ∧ x.lmAddr (off x).toNat 64 = some p ∧ s.lmBusy k p 64 false = false
         ∧ s.lmPoisonOf k p 64 = none)
       (fun k _ x s => writeV s 3 d.toNat
         { data := BitVec.ofNat 512 (bytesToNat (s.lmRead k p 64)), tag := imm.extractLsb' 0 5
           bw := if tagBlock t then (x.s c.toNat).setWidth 32 else 0 }) ∧
     (∀ q : Poison, Completes (.vldl d a c imm cl) cl memNeed
       (fun k x s => tagKnown t = true ∧ tagBlock t = false ∧ (off x).toNat % 64 = 0
         ∧ x.lmAddr (off x).toNat 64 = some p ∧ s.lmBusy k p 64 false = false ∧ s.lmPoisonOf k p 64 = some q)
       (fun k _ x s => { st := s.noteUncorr x.gang q (s.lmLogged x.gang k p), lat := 3
                         writes := [{ reg := vreg d.toNat, poison := some q
                                      val := .v { data := BitVec.ofNat 512 (bytesToNat (s.lmRead k p 64))
                                                  tag := imm.extractLsb' 0 5 } }] })) ∧
     (imm.getLsbD 4 = false → Completes (.vstl mod a c imm cl) cl memNeed
       (fun k x s => (off x).toNat % 64 = 0 ∧ x.lmAddr (off x).toNat 64 = some p ∧ s.lmBusy k p 64 true = false)
       (fun k _ x s => change (s.lmWrite x.gang k p (natToBytes 64 (x.v c.toNat).data.toNat)
         (storeMask (x.p (mod.toNat % 8)) (x.v c.toNat).tag.toNat) true))) ∧
     Completes (.zerol a b cl) cl memNeed
       (fun k x s => (x.s a.toNat).toNat % 64 = 0 ∧ (x.s b.toNat).toNat % 64 = 0 ∧ (x.s b.toNat).toNat ≤ 65536
         ∧ (x.s b.toNat).toNat ≠ 0 ∧ x.lmAddr (x.s a.toNat).toNat (x.s b.toNat).toNat = some p
         ∧ s.lmBusy k p (x.s b.toNat).toNat true = false)
       (fun k _ x s =>
         let n := (x.s b.toNat).toNat
         let s' := s.lmWrite x.gang k p (List.replicate n 0) (List.replicate n true) false
         change (s'.setCore k { s'.core k with blockedUntil := (s'.core k).cycle + (n + 255) / 256 })) ∧
     Completes (.zerol a b cl) cl memNeed
       (fun _ x _ => (x.s a.toNat).toNat % 64 = 0 ∧ x.s b.toNat = 0) (fun _ _ _ s => change s)) ∧
  (∀ (mod : BitVec 4) (a c : BitVec 6) (imm : BitVec 16) (p : Nat) (cl : Clauses), imm.getLsbD 4 = true →
     let n := imm.toNat % 16
     let off (x : Act) : Word64 := x.s a.toNat + (imm.extractLsb' 5 11).signExtend 64 * 64
     let mask (x : Act) : Word64 := x.p (mod.toNat % 8)
     let v (x : Act) : VReg := x.v c.toNat
     let w (x : Act) : Nat := tagWidth (v x).tag.toNat
     let after (x : Act) : List Nat × Nat :=
       boundElems (x.bound n) (v x).tag.toNat (mask x) (elems (v x).data (w x) (512 / w x))
     let here (k : Nat) (x : Act) (s : State) : Prop :=
       (tagFloat (v x).tag.toNat = true ∨ tagFp8 (v x).tag.toNat = true) ∧ (off x).toNat % 64 = 0
         ∧ x.lmAddr (off x).toNat 64 = some p ∧ s.lmBusy k p 64 true = false
     Completes (.vstl mod a c imm cl) cl memNeed
       (fun k x s => here k x s ∧ ((x.bound n).mode = 1 ∨ (x.bound n).mode = 2))
       (fun k aid x s => change ((s.boundDone aid n 0x47 (after x).2 x.pc).lmWrite x.gang k p
         (natToBytes 64 (vecOf (w x) (after x).1).toNat) (storeMask (mask x) (v x).tag.toNat) true)) ∧
     Completes (.vstl mod a c imm cl) cl memNeed (fun k x s => here k x s ∧ (x.bound n).mode = 0)
       (fun k _ x s => change (s.lmWrite x.gang k p (natToBytes 64 (v x).data.toNat)
         (storeMask (mask x) (v x).tag.toNat) true)) ∧
     Completes (.vstq mod a c imm cl) cl memNeed
       (fun _ x _ => (tagFloat (v x).tag.toNat = true ∨ tagFp8 (v x).tag.toNat = true) ∧ (off x).toNat % 64 = 0
         ∧ x.qsBase ≤ (off x).toNat ∧ (off x).toNat + 64 ≤ x.qsBase + x.qsLen
         ∧ ((x.bound n).mode = 1 ∨ (x.bound n).mode = 2))
       (fun _ aid x s => start (s.boundSticky aid n (after x).2) { mkOp aid x (.vstq mod a c imm cl) cl false true []
         (.stq (coreQuad x.core) (off x).toNat (natToBytes 64 (vecOf (w x) (after x).1).toNat)
           (storeMask (mask x) (v x).tag.toNat)) with
         bound := if (x.bound n).mode = 1 ∧ (after x).2 ≠ 0 then some (n, (after x).2) else none }) ∧
     Raises (.vstl mod a c imm cl) cl memNeed
       (fun k x s => here k x s ∧ (x.bound n).mode = 3 ∧ (after x).2 ≠ 0) (fun _ _ _ => mkTrap cBOUND n)) ∧
  (∀ (mod : BitVec 4) (d a b c : BitVec 6) (imm : BitVec 16) (cl : Clauses) (offs : List (Nat × Nat)),
     let idx (x : Act) : List Nat := elems (x.v b.toNat).data 32 16
     Completes (.vgathl mod d a b imm cl) cl memNeed
       (fun k x s => (x.v b.toNat).tag = 4 ∧ imm.toNat % 32 ∈ [0, 4, 6] ∧ (x.s a.toNat).toNat % 4 = 0
         ∧ indexedOffs x 0x4C (x.s a.toNat) (idx x) (x.p (mod.toNat % 8)) = .ok offs
         ∧ offs.all (fun o => !s.lmBusy k o.2 4 false) = true)
       (fun k aid x s => start s (mkOp aid x (.vgathl mod d a b imm cl) cl false true [vreg d.toNat]
         (.gather k offs (imm.extractLsb' 0 5) d.toNat))) ∧
     Completes (.vscatl mod a b c cl) cl memNeed
       (fun k x s => (x.v b.toNat).tag = 4 ∧ ((x.v c.toNat).tag = 0 ∨ tagWidth (x.v c.toNat).tag.toNat = 32)
         ∧ (x.s a.toNat).toNat % 4 = 0
         ∧ indexedOffs x 0x4D (x.s a.toNat) (idx x) (x.p (mod.toNat % 8)) = .ok offs
         ∧ offs.all (fun o => !s.lmBusy k o.2 4 true) = true)
       (fun k aid x s => start s (mkOp aid x (.vscatl mod a b c cl) cl false true []
         (.scatter k (offs.map (fun o => (o.2, BitVec.ofNat 32 (elem (x.v c.toNat).data 32 o.1))))))) ∧
     (∀ x : Act, indexedOffs x 0x4C (x.s a.toNat) (idx x) (x.p (mod.toNat % 8)) = .ok offs →
       offs.map (·.1) = (List.range 16).filter (fun i => (x.p (mod.toNat % 8)).getLsbD (4 * i)) ∧
       ∀ o ∈ offs, x.lmAddr (x.s a.toNat + BitVec.ofInt 64 (sextNat ((idx x)[o.1]?.getD 0) 32 * 4)).toNat 4 = some o.2))

/-- R50, R54, R152, R153, R156..R159: a load or store of device memory that reaches its bytes completes by starting one
operation and sending one request to their home; a plain load that hits the L1 answers from there; a store overwrites the
core's own copy of the line; an acquire drops the line, and a release waits for earlier memory words. The model's choices,
where the rules leave them open: where host, peer and window bytes stand (log 12). -/
def Obligations.DeviceAccessCompletes : Prop :=
  (∀ (mod : BitVec 4) (d a b c : BitVec 6) (imm : BitVec 16) (e : OtcEntry) (p : Nat) (l : L1Line) (cl : Clauses),
     let n := 2 ^ (mod.toNat % 4)
     let off (x : Act) : Word64 := x.s b.toNat + imm.signExtend 64
     let voff (x : Act) : Word64 := x.s b.toNat + (imm.extractLsb' 5 11).signExtend 64 * 64
     let at_ (x : Act) : Nat := (mkReq 0 x 0 0 e p n .cload).addr
     let o (aid : Nat) (x : Act) : Op := mkOp aid x (.ld mod d a b imm cl) cl true true (dstS d.toNat)
       (.device (some (sreg d.toNat)) true)
     let vo (aid : Nat) (x : Act) : Op := mkOp aid x (.vld d a b c imm cl) cl true true [vreg d.toNat]
       (.device (some (vreg d.toNat)) true)
     let r (aid : Nat) (x : Act) (k q : Nat) : Req := mkReq aid x k q e p n (.load (mod.getLsbD 2))
     (mod.getLsbD 3 = false →
       Completes (.ld mod d a b imm cl) cl memNeed
         (fun k x s => s.Reaches k x a.toNat rR (off x) n false 0 e p ∧ s.portLine k (at_ x / 64) = none)
         (fun k aid x s => request (s.touch k e) (o aid x) (r aid x k)) ∧
       Completes (.ld mod d a b imm cl) cl memNeed
         (fun k x s => s.Reaches k x a.toNat rR (off x) n false 0 e p ∧ s.portLine k (at_ x / 64) = some l)
         (fun k aid x s => request (s.touch k e) (o aid x) (fun q =>
           { r aid x k q with performed := some { data := (l.data.drop (at_ x % 64)).take n } }))) ∧
     (mod.getLsbD 3 = true →
       Completes (.ld mod d a b imm cl) cl memNeed
         (fun k x s => s.Reaches k x a.toNat rR (x.s b.toNat) n false 0 e p)
         (fun k aid x s =>
           let s' := (s.touch k e).l1Drop k (e.addr p / 64)
           request s' { o aid x with acq := true, wide := s'.wideScope x imm } (r aid x k))) ∧
     Completes (.vld d a b c imm cl) cl memNeed
       (fun k x s => tagKnown (imm.toNat % 32) = true ∧ tagBlock (imm.toNat % 32) = false
         ∧ s.Reaches k x a.toNat rR (voff x) 64 false 0 e p ∧ s.portLine k (at_ x / 64) = none)
       (fun k aid x s => request (s.touch k e) (vo aid x)
         (fun q => mkReq aid x k q e p 64 (.vload (imm.extractLsb' 0 5) 0))) ∧
     Completes (.vld d a b c imm cl) cl memNeed
       (fun k x s => tagBlock (imm.toNat % 32) = true ∧ bwOk (imm.toNat % 32) ((x.s c.toNat).setWidth 32) = true
         ∧ tagKnown (imm.toNat % 32) = true
         ∧ s.Reaches k x a.toNat rR (voff x) 64 false 0 e p ∧ s.portLine k (at_ x / 64) = some l)
       (fun k aid x s => request (s.touch k e) (vo aid x) (fun q =>
         { mkReq aid x k q e p 64 (.vload (imm.extractLsb' 0 5) ((x.s c.toNat).setWidth 32)) with
           performed := some { data := (l.data.drop (at_ x % 64)).take 64 } }))) ∧
  (∀ (mod : BitVec 4) (a b c : BitVec 6) (imm : BitVec 16) (e : OtcEntry) (p : Nat) (cl : Clauses),
     let n := 2 ^ (mod.toNat % 4)
     let off (x : Act) : Word64 := if mod.getLsbD 3 then x.s b.toNat else x.s b.toNat + imm.signExtend 64
     let voff (x : Act) : Word64 := x.s b.toNat + (imm.extractLsb' 5 11).signExtend 64 * 64
     let i : Instr := .vst mod a b c imm cl
     let v (x : Act) : VReg := x.v c.toNat
     let w (x : Act) : Nat := tagWidth (v x).tag.toNat
     let mask (x : Act) : List Bool := storeMask (x.p (mod.toNat % 8)) (v x).tag.toNat
     let k := imm.toNat % 16
     let after (x : Act) : List Nat × Nat :=
       boundElems (x.bound k) (v x).tag.toNat (x.p (mod.toNat % 8)) (elems (v x).data (w x) (512 / w x))
     let stores (i : Instr) (s : State) (h aid : Nat) (x : Act) (bs : List Byte) (m : List Bool)
         (owed : Option (Nat × Nat)) : Eff :=
       request (s.l1Store h (e.addr p) bs m) { mkOp aid x i cl true true [] (.device none false) with bound := owed }
         (fun q => mkReq aid x h q e p bs.length (.store bs m))
     Completes (.st mod a b c imm cl) cl (fun _ => { memWord := true, release := mod.getLsbD 3 })
       (fun h x s => s.Reaches h x a.toNat rW (off x) n true 0 e p)
       (fun h aid x s => stores (.st mod a b c imm cl) (s.touch h e) h aid x (natToBytes n (x.s c.toNat).toNat)
         (List.replicate n true) none) ∧
     (imm.getLsbD 4 = false →
       Completes i cl memNeed (fun h x s => s.Reaches h x a.toNat rW (voff x) 64 true 0 e p)
         (fun h aid x s => stores i (s.touch h e) h aid x (natToBytes 64 (v x).data.toNat) (mask x) none)) ∧
     (imm.getLsbD 4 = true →
       Completes i cl memNeed
         (fun h x s => (tagFloat (v x).tag.toNat = true ∨ tagFp8 (v x).tag.toNat = true)
           ∧ s.Reaches h x a.toNat rW (voff x) 64 true 0 e p ∧ ((x.bound k).mode = 1 ∨ (x.bound k).mode = 2))
         (fun h aid x s => stores i ((s.touch h e).boundSticky aid k (after x).2) h aid x
           (natToBytes 64 (vecOf (w x) (after x).1).toNat) (mask x)
           (if (x.bound k).mode = 1 ∧ (after x).2 ≠ 0 then some (k, (after x).2) else none))))

/-- R48, R152, R153, R166..R170: capability loads and stores of an aligned place that they reach complete with one request;
CNARROW narrows a valid capability and otherwise traps; CGET, CSETC and MOVK complete; FENCE's tag and the words it holds back
follow its order; PFETCH fills the L1 or the home's memory-side cache, asks for the walk that it misses, or does nothing; CINV drops one line or all. -/
def Obligations.CapabilityFenceCacheComplete : Prop :=
  (∀ (mod : BitVec 4) (d a b c : BitVec 6) (imm : BitVec 16) (e : OtcEntry) (p : Nat) (cl : Clauses),
     let nlo (x : Act) : Nat := (x.k a.toNat).lo + (x.s b.toNat).toNat
     let nhi (x : Act) : Nat := nlo x + (x.s c.toNat).toNat
     Completes (.cld d a b imm cl) cl memNeed
       (fun h x s => s.Reaches h x a.toNat (rR + rC) (x.s b.toNat + imm.signExtend 64) 16 false 0 e p)
       (fun h aid x s => request ((s.touch h e).l1Drop h (e.addr p / 64))
         (mkOp aid x (.cld d a b imm cl) cl true true [kreg d.toNat] (.device (some (kreg d.toNat)) true))
         (fun q => mkReq aid x h q e p 16 .cload)) ∧
     Completes (.cst a b c imm cl) cl memNeed
       (fun h x s => s.Reaches h x a.toNat (rW + rC) (x.s b.toNat + imm.signExtend 64) 16 true 3 e p)
       (fun h aid x s =>
         let bs := natToBytes 16 (x.k c.toNat).bits.toNat
         request ((s.touch h e).l1Store h (e.addr p) bs (List.replicate 16 true))
           (mkOp aid x (.cst a b c imm cl) cl true true [] (.device none false))
           (fun q => mkReq aid x h q e p 16 (.cstore bs (x.k c.toNat).valid))) ∧
     Completes (.cnarrow d a b c imm cl) cl plainNeed
       (fun _ x _ => (x.k a.toNat).valid = true ∧ (x.k a.toNat).reserved = false ∧ nhi x ≤ (x.k a.toNat).hi)
       (fun _ _ x s => writeK s d.toNat (KReg.make (x.k a.toNat).object
         ((x.k a.toNat).rights &&& (imm.extractLsb' 0 7).toNat) (nhi x) (nlo x) true)) ∧
     Raises (.cnarrow d a b c imm cl) cl plainNeed (fun _ x _ => (x.k a.toNat).valid = false)
       (fun _ _ _ => mkTrap cCAPTAG a.toNat) ∧
     Raises (.cnarrow d a b c imm cl) cl plainNeed
       (fun _ x _ => (x.k a.toNat).valid = true ∧ (x.k a.toNat).reserved = true)
       (fun _ _ _ => mkTrap cCAPRIGHTS a.toNat) ∧
     Raises (.cnarrow d a b c imm cl) cl plainNeed
       (fun _ x _ => (x.k a.toNat).valid = true ∧ (x.k a.toNat).reserved = false ∧ (x.k a.toNat).hi < nhi x)
       (fun _ x _ => mkTrap cCAPBOUND (0x58 * 256) (x.s b.toNat)) ∧
     WritesS (.cget 0 d a cl) cl 1 d (fun x => BitVec.ofNat 64 (x.k a.toNat).lo) ∧
     WritesS (.cget 1 d a cl) cl 1 d (fun x => BitVec.ofNat 64 (x.k a.toNat).hi) ∧
     WritesS (.cget 2 d a cl) cl 1 d (fun x => ((x.k a.toNat).bits.extractLsb' 96 8).setWidth 64) ∧
     WritesS (.cget 3 d a cl) cl 1 d (fun x => BitVec.ofNat 64 (x.k a.toNat).object) ∧
     WritesS (.cget 4 d a cl) cl 1 d (fun x => if (x.k a.toNat).valid then 1 else 0) ∧
     WritesS (.cget 5 d a cl) cl 1 d (fun x => BitVec.ofNat 64 ((x.k a.toNat).hi - (x.k a.toNat).lo)) ∧
     WritesS (.cget 6 d a cl) cl 1 d (fun x => (x.k a.toNat).bits.extractLsb' 0 64) ∧
     WritesS (.cget 7 d a cl) cl 1 d (fun x => (x.k a.toNat).bits.extractLsb' 64 64) ∧
     Completes (.csetc d a b cl) cl plainNeed always
       (fun _ _ x s => writeK s d.toNat { bits := x.s b.toNat ++ x.s a.toNat, valid := false }) ∧
     Completes (.movk 0 d a cl) cl plainNeed always (fun _ _ x s => writeK s d.toNat (x.k a.toNat)) ∧
     Completes (.movk 1 d a cl) cl plainNeed always
       (fun _ _ x s => writeK s d.toNat { x.k a.toNat with valid := false })) ∧
  (∀ (mod : BitVec 4) (a b : BitVec 6) (imm : BitVec 16) (e : OtcEntry) (p : Nat) (cl : Clauses),
     let covered (x : Act) : Except Trap Nat := capCheck (x.k a.toNat) a.toNat rR 0x5B (x.s b.toNat) 1
     let byte (x : Act) : Access := { object := (x.k a.toNat).object, offset := p, bytes := 1, write := false }
     (∀ o : Nat, o ∈ [1, 2, 3] → ordOf imm = o →
       Completes (.fence imm cl) cl memNeed always (fun _ aid x s =>
         start s { mkOp aid x (.fence imm cl) cl (decide (2 ≤ o)) true [] (if 2 ≤ o then .fence else .fixedTime []) with
           acq := decide (o ≠ 2), wide := s.wideScope x imm })) ∧
     Completes (.pfetch mod a b cl) cl plainNeed (fun _ x _ => ∃ t, covered x = .error t) (fun _ _ _ s => change s) ∧
     Completes (.pfetch mod a b cl) cl plainNeed
       (fun k x s => covered x = .ok p ∧ ∃ t, s.lookup k x.part (byte x) = .fault t) (fun _ _ _ s => change s) ∧
     Completes (.pfetch mod a b cl) cl plainNeed
       (fun k x s => covered x = .ok p ∧ s.lookup k x.part (byte x) = .miss)
       (fun k aid x s => change (s.askWalk { act := aid, part := x.part, core := k, object := (x.k a.toNat).object, offset := p
                                             bytes := 1, write := false, who := .ahead (decide (mod = 1)) })) ∧
     Completes (.pfetch 1 a b cl) cl plainNeed
       (fun k x s => covered x = .ok p ∧ s.lookup k x.part (byte x) = .hit e ∧ e.path ≠ .window)
       (fun k _ _ s => change ((s.touch k e).mcRead (e.addr p / 64))) ∧
     Completes (.pfetch 0 a b cl) cl plainNeed
       (fun k x s => covered x = .ok p ∧ s.lookup k x.part (byte x) = .hit e ∧ e.path ≠ .window
         ∧ ∀ r ∈ (s.touch k e).reqs, r.2.addr / 64 = e.addr p / 64 → r.2.performed ≠ none ∨ r.2.arrived = 0)
       (fun k _ _ s => change (((s.touch k e).applyLine (e.addr p / 64)).l1Fill k (e.addr p / 64))) ∧
     Completes (.cinv 0 a b cl) cl plainNeed always (fun k _ _ s => change (s.l1Clear k)) ∧
     Completes (.cinv 1 a b cl) cl plainNeed (fun k x s => s.lineOf k x a.toNat (x.s b.toNat) 0 = some (e, p))
       (fun k _ _ s => change (s.l1Drop k (e.addr p / 64))) ∧
     Completes (.cinv 1 a b cl) cl plainNeed (fun k x s => s.lineOf k x a.toNat (x.s b.toNat) 0 = none)
       (fun _ _ _ s => change s))

/-- R152, R153, R161..R165, R171: an atomic of four, eight or two bytes at an aligned place that it reaches completes: it starts
one operation and sends one request with its operand to the place's home; a reduction, with destination s0, answers nothing
(R162). WAITMEM sends a wait with its condition and comparand. Their place is s[b] bytes above the capability's lower limit. -/
def Obligations.AtomicsComplete : Prop :=
  ∀ (mod : BitVec 4) (d a b c : BitVec 6) (imm : BitVec 16) (e : OtcEntry) (p : Nat) (cl : Clauses),
    let n := if mod.getLsbD 3 then 8 else 4
    let rights := if scopeOf imm = 6 then 8 + 2 + 64 else 8 + 2
    let sends (i : Instr) (d' : BitVec 6) (n sub : Nat) (need : Act → Need) (y : Act → Word64) : Prop :=
      Completes i cl need
        (fun k x s => s.Reaches k x a.toNat rights (x.s b.toNat) n true (atomClass (opcodeOf i) n (scopeOf imm)) e p)
        (fun k aid x s =>
          let s' := (s.touch k e).l1Drop k (e.addr p / 64)
          let acq := ordOf imm % 2 == 1
          request s'
            { mkOp aid x i cl true true (dstS d'.toNat)
                (.device (if d' = 0 then none else some (sreg d'.toNat)) (decide (d' ≠ 0))) with
              acq := acq, wide := acq && s'.wideScope x imm }
            (fun q => mkReq aid x k q e p n (.atomic (opcodeOf i) sub (x.s c.toNat) (y x))))
    let need (_ : Act) : Need := { memWord := true, release := decide (2 ≤ ordOf imm) }
    sends (.aadd mod d a b c imm cl) d n 0 need (fun _ => 0) ∧
    sends (.alog mod d a b c imm cl) d n (mod.toNat % 4) need (fun _ => 0) ∧
    sends (.amnx mod d a b c imm cl) d n (mod.toNat % 4) need (fun _ => 0) ∧
    sends (.aswp mod d a b c imm cl) d n 0 need (fun _ => 0) ∧
    sends (.acas mod d a b c imm cl) d n 0 need (fun x => x.s d.toNat) ∧
    sends (.afadd 0 d a b c imm cl) d 4 0 need (fun _ => 0) ∧
    sends (.afadd 1 d a b c imm cl) d 2 0 need (fun _ => 0) ∧
    sends (.signal a b c imm cl) 0 8 0 (fun _ => { memWord := true, release := true }) (fun _ => 0) ∧
    Completes (.waitmem mod d a b c imm cl) cl memNeed
      (fun k x s => s.Reaches k x a.toNat rR (x.s b.toNat) n false 2 e p)
      (fun k aid x s =>
        let s' := (s.touch k e).l1Drop k (e.addr p / 64)
        let acq := ordOf imm == 1
        request s'
          { mkOp aid x (.waitmem mod d a b c imm cl) cl true true (dstS d.toNat) (.device (some (sreg d.toNat)) true) with
            acq := acq, wide := acq && s'.wideScope x imm
            replay := waitmemReplay x mod d imm e.object p (x.s c.toNat) }
          (fun q => mkReq aid x k q e p n (.wait (mod.toNat % 8) (x.s c.toNat))))

/-- R57, R60, R66, R174..R176: the element arithmetic completes, in two cycles on integer tags, each active element the exact
integer modulo 2^w or clamped with sat, and in four on floating-point tags, each active element the exact value rounded once
by ASW.RM with its flags. Another tag, or sat on a floating-point tag, raises FORMAT. -/
def Obligations.VectorArithmeticCompletes : Prop :=
  (∀ (mod : BitVec 4) (d a b c : BitVec 6) (imm : BitVec 16) (cl : Clauses),
     let ta (x : Act) : Nat := (x.v a.toNat).tag.toNat
     let w (x : Act) : Nat := tagWidth (ta x)
     let val (x : Act) (r : BitVec 6) (i : Nat) : Int := intVal (ta x) (elem (x.v r.toNat).data (w x) i)
     let store (x : Act) (e : Int) : FRes :=
       { code := intBits (w x) (if imm.getLsbD 0 then clampInt (ta x) e else e) }
     let computes (i : Instr) (others : List (BitVec 6)) (f : Int → Int → Int → Int) : Prop :=
       Completes i cl plainNeed
         (fun _ x _ => tagInt (ta x) = true ∧ (∀ r ∈ others, (x.v r.toNat).tag = (x.v a.toNat).tag)
           ∧ MergeOk x mod d (x.v a.toNat).tag)
         (fun _ _ x s => maskedV s x mod d 2 (w x) (x.v a.toNat).tag
           (fun i => store x (f (val x a i) (val x b i) (val x c i)))) ∧
       Raises i cl plainNeed (fun _ x _ => tagInt (ta x) = false ∧ tagFloat (ta x) = false)
         (fun _ x _ => mkTrap cFORMAT (ta x))
     computes (.vadd mod d a b imm cl) [b] (fun x y _ => x + y) ∧
     computes (.vsub mod d a b imm cl) [b] (fun x y _ => x - y) ∧
     computes (.vmul mod d a b imm cl) [b] (fun x y _ => x * y) ∧
     computes (.vfma mod d a b c imm cl) [b, c] (fun x y z => x * y + z) ∧
     computes (.vfms mod d a b c imm cl) [b, c] (fun x y z => x * y - z) ∧
     computes (.vabs mod d a imm cl) [] (fun x _ _ => if x < 0 then -x else x) ∧
     computes (.vneg mod d a imm cl) [] (fun x _ _ => -x)) ∧
  (∀ (mod : BitVec 4) (d a b c : BitVec 6) (imm : BitVec 16) (cl : Clauses),
     let ta (x : Act) : Nat := (x.v a.toNat).tag.toNat
     let w (x : Act) : Nat := tagWidth (ta x)
     let val (x : Act) (r : BitVec 6) (i : Nat) : Val := (tagFmt (ta x)).decode (elem (x.v r.toNat).data (w x) i)
     let round (x : Act) (v : Val × BitVec 5) : FRes :=
       { code := ((tagFmt (ta x)).round .ieee (bits x.asw 9 8) 0 v.1).code
         flags := ((tagFmt (ta x)).round .ieee (bits x.asw 9 8) 0 v.1).flags ||| v.2 }
     let computes (i : Instr) (others : List (BitVec 6)) (f : Nat → Val → Val → Val → Val × BitVec 5) : Prop :=
       (imm.getLsbD 0 = false → Completes i cl plainNeed
         (fun _ x _ => tagFloat (ta x) = true ∧ (∀ r ∈ others, (x.v r.toNat).tag = (x.v a.toNat).tag)
           ∧ MergeOk x mod d (x.v a.toNat).tag)
         (fun _ _ x s => maskedV s x mod d 4 (w x) (x.v a.toNat).tag
           (fun i => round x (f (bits x.asw 9 8) (val x a i) (val x b i) (val x c i))))) ∧
       (imm.getLsbD 0 = true → Raises i cl plainNeed
         (fun _ x _ => tagFloat (ta x) = true ∧ ∀ r ∈ others, (x.v r.toNat).tag = (x.v a.toNat).tag)
         (fun _ x _ => mkTrap cFORMAT (ta x)))
     let fused (rm : Nat) (x y z : Val) : Val × BitVec 5 :=
       (((x.mul y).1.add rm z).1, (x.mul y).2 ||| ((x.mul y).1.add rm z).2)
     computes (.vadd mod d a b imm cl) [b] (fun rm x y _ => x.add rm y) ∧
     computes (.vsub mod d a b imm cl) [b] (fun rm x y _ => x.add rm y.negate) ∧
     computes (.vmul mod d a b imm cl) [b] (fun _ x y _ => x.mul y) ∧
     computes (.vfma mod d a b c imm cl) [b, c] fused ∧
     computes (.vfms mod d a b c imm cl) [b, c] (fun rm x y z => fused rm x y z.negate))

/-- R176..R178: extremes and, on floating-point tags, absolute value and negation complete in two cycles and set no flag,
with the canonical NaN for a NaN and -0.0 below +0.0; reciprocal, reciprocal root, exponential and logarithm complete in six
cycles, and raise FORMAT on another tag. -/
def Obligations.VectorExtremesSignsFunctions : Prop :=
  ∀ (mod : BitVec 4) (d a b : BitVec 6) (imm : BitVec 16) (cl : Clauses),
    let ta (x : Act) : Nat := (x.v a.toNat).tag.toNat
    let w (x : Act) : Nat := tagWidth (ta x)
    let code (x : Act) (r : BitVec 6) (i : Nat) : Nat := elem (x.v r.toNat).data (w x) i
    let val (x : Act) (c : Nat) : Val := (tagFmt (ta x)).decode c
    let extreme (i : Instr) (takesB : Act → Nat → Nat → Bool) : Prop :=
      Completes i cl plainNeed
        (fun _ x _ => (tagInt (ta x) = true ∨ tagFloat (ta x) = true) ∧ (x.v b.toNat).tag = (x.v a.toNat).tag
          ∧ MergeOk x mod d (x.v a.toNat).tag)
        (fun _ _ x s => maskedV s x mod d 2 (w x) (x.v a.toNat).tag (fun i =>
          if tagInt (ta x) = false ∧ ((val x (code x a i)).isNan = true ∨ (val x (code x b i)).isNan = true) then
            { code := (tagFmt (ta x)).nan }
          else if takesB x (code x a i) (code x b i) then { code := code x b i } else { code := code x a i }))
    let less (x : Act) (p q : Nat) : Bool :=
      if tagInt (ta x) then decide (intVal (ta x) p < intVal (ta x) q) else (val x p).ltTotal (val x q)
    let sign (i : Instr) (f : Nat → Nat → Nat) : Prop :=
      imm.getLsbD 0 = false → Completes i cl plainNeed
        (fun _ x _ => tagFloat (ta x) = true ∧ MergeOk x mod d (x.v a.toNat).tag)
        (fun _ _ x s => maskedV s x mod d 2 (w x) (x.v a.toNat).tag (fun i =>
          if (val x (code x a i)).isNan then { code := (tagFmt (ta x)).nan }
          else { code := f (2 ^ ((tagFmt (ta x)).width - 1)) (code x a i) }))
    let unary (i : Instr) (fn : Nat) : Prop :=
      Completes i cl plainNeed (fun _ x _ => tagFloat (ta x) = true ∧ MergeOk x mod d (x.v a.toNat).tag)
        (fun _ _ x s => maskedV s x mod d 6 (w x) (x.v a.toNat).tag
          (fun i => fpUnary fn (tagFmt (ta x)) (bits x.asw 9 8) (val x (code x a i)))) ∧
      Raises i cl plainNeed (fun _ x _ => tagFloat (ta x) = false) (fun _ x _ => mkTrap cFORMAT (ta x))
    extreme (.vmin mod d a b cl) (fun x p q => !less x p q) ∧ extreme (.vmax mod d a b cl) less ∧
    sign (.vabs mod d a imm cl) (fun top c => c % top) ∧
    sign (.vneg mod d a imm cl) (fun top c => (c + top) % (2 * top)) ∧
    unary (.vrcp mod d a cl) 0 ∧ unary (.vrsq mod d a cl) 1 ∧ unary (.vexp2 mod d a cl) 2 ∧ unary (.vlog2 mod d a cl) 3

/-- R174, R179, R180: byte logic completes on every tag, with v[a]'s tag and block word, masked by bytes; shifts complete on
integer tags, with the count from v[b]'s element or the immediate, and a count of the width or more gives zero or the sign
fill. -/
def Obligations.VectorLogicAndShifts : Prop :=
  ∀ (mod : BitVec 4) (d a b : BitVec 6) (imm : BitVec 16) (cl : Clauses),
    let ta (x : Act) : Nat := (x.v a.toNat).tag.toNat
    let w (x : Act) : Nat := tagWidth (ta x)
    let logic (i : Instr) (f : Nat → Nat → Nat) : Prop :=
      Completes i cl plainNeed (fun _ x _ => MergeOk x mod d (x.v a.toNat).tag)
        (fun _ _ x s => maskedV s x mod d 2 8 (x.v a.toNat).tag
          (fun j => { code := f (elem (x.v a.toNat).data 8 j) (elem (x.v b.toNat).data 8 j) }) (x.v a.toNat).bw)
    let shift (i : Instr) (f : Act → Nat → Nat → Nat) : Prop :=
      (imm.getLsbD 15 = false → Completes i cl plainNeed
        (fun _ x _ => tagInt (ta x) = true ∧ (x.v b.toNat).tag = (x.v a.toNat).tag ∧ MergeOk x mod d (x.v a.toNat).tag)
        (fun _ _ x s => maskedV s x mod d 2 (w x) (x.v a.toNat).tag
          (fun i => { code := f x (elem (x.v a.toNat).data (w x) i) (elem (x.v b.toNat).data (w x) i) }))) ∧
      (imm.getLsbD 15 = true → Completes i cl plainNeed
        (fun _ x _ => tagInt (ta x) = true ∧ MergeOk x mod d (x.v a.toNat).tag)
        (fun _ _ x s => maskedV s x mod d 2 (w x) (x.v a.toNat).tag
          (fun i => { code := f x (elem (x.v a.toNat).data (w x) i) (imm.extractLsb' 0 6).toNat })))
    let logical (x : Act) : Bool := imm.getLsbD 6 || decide (ta x = 2)
    logic (.vand mod d a b cl) (· &&& ·) ∧ logic (.vor mod d a b cl) (· ||| ·) ∧ logic (.vxor mod d a b cl) (· ^^^ ·) ∧
    shift (.vshl mod d a b imm cl) (fun x e n => if w x ≤ n then 0 else e * 2 ^ n % 2 ^ w x) ∧
    shift (.vshr mod d a b imm cl) (fun x e n =>
      if logical x then (if w x ≤ n then 0 else e % 2 ^ w x / 2 ^ n)
      else intBits (w x) (sextNat e (w x) / (2 ^ (min n (w x)) : Int)))

/-- R54, R181..R183, R192: element compares write the bytes of the elements that are active and for which the condition
holds, with NV as R181 says; selection, moves between a vector and a mask, and the bound test and clamp complete with these
results. What a clamp with lo > hi gives is the model's choice (log 58). -/
def Obligations.VectorMaskWords : Prop :=
  ∀ (mod : BitVec 4) (d a b c : BitVec 6) (cl : Clauses),
    let ta (x : Act) : Nat := (x.v a.toNat).tag.toNat
    let w (x : Act) : Nat := tagWidth (ta x)
    let n (x : Act) : Nat := 512 / w x
    let on (x : Act) (i : Nat) : Bool := (x.p c.toNat).getLsbD (i * (w x / 8))
    let val (x : Act) (r : BitVec 6) (i : Nat) : Val := elemVal (ta x) 0 i (elem (x.v r.toNat).data (w x) i)
    let out (x : Act) (i : Nat) : Bool := on x i && boundOut (x.bound b.toNat) ((tagFmt (ta x)).decode
      (elem (x.v a.toNat).data (w x) i))
    let bounded (x : Act) : Prop := tagFloat (ta x) = true ∨ tagFp8 (ta x) = true
    Completes (.vcmp mod d a b c cl) cl plainNeed
      (fun _ x _ => (tagInt (ta x) = true ∨ tagFloat (ta x) = true ∨ tagFp8 (ta x) = true)
        ∧ (x.v b.toNat).tag = (x.v a.toNat).tag ∧ (6 ≤ mod.toNat → tagInt (ta x) = false))
      (fun _ _ x s => { writeP s 2 d.toNat (maskOfElems (w x) ((List.range (n x)).map
          (fun i => on x i && (vcmpHolds mod.toNat (val x a i) (val x b i)).1))) with
        flags := ((List.range (n x)).filter (on x)).foldl
          (fun g i => g ||| (vcmpHolds mod.toNat (val x a i) (val x b i)).2) 0 }) ∧
    Completes (.vsel d a b c cl) cl plainNeed
      (fun _ x _ => (x.v b.toNat).tag = (x.v a.toNat).tag
        ∧ (tagBlock (ta x) = true → (x.v a.toNat).bw = (x.v b.toNat).bw))
      (fun _ _ x s =>
        let w' := if ta x = 0 ∨ w x = 0 then 8 else w x
        writeV s 2 d.toNat { x.v a.toNat with data := retagData (ta x) (vecOf w' ((List.range (512 / w')).map (fun i =>
          if (x.p c.toNat).getLsbD (i * (w' / 8)) then elem (x.v a.toNat).data w' i
          else elem (x.v b.toNat).data w' i))) }) ∧
    Completes (.vmovp 0 d a cl) cl plainNeed always (fun _ _ x s => writeP s 2 d.toNat
      (maskOfElems 8 ((List.range 64).map (fun j => (x.v a.toNat).data.getLsbD (8 * j + 7))))) ∧
    Completes (.vmovp 1 d a cl) cl plainNeed always (fun _ _ x s => writeV s 2 d.toNat
      { data := vecOf 8 ((List.range 64).map (fun j => if (x.p a.toNat).getLsbD j then 0xFF else 0)), tag := 0 }) ∧
    Completes (.vbnd 0 d a b c cl) cl plainNeed (fun _ x _ => bounded x)
      (fun _ _ x s => writeP s 2 d.toNat (maskOfElems (w x) ((List.range (n x)).map (out x)))) ∧
    Completes (.vbnd 1 d a b c cl) cl plainNeed (fun _ x _ => bounded x)
      (fun _ _ x s => writeV s 2 d.toNat { x.v a.toNat with data := vecOf (w x) ((List.range (n x)).map (fun i =>
        if out x i then boundClamp (x.bound b.toNat) (ta x) ((tagFmt (ta x)).decode (elem (x.v a.toNat).data (w x) i))
        else elem (x.v a.toNat).data (w x) i)) })

/-- R64, R184..R186, R189, R190: broadcast, extraction, insertion, permutation, re-tagging and bit-plane packing complete
with these results, and keep what they do not write. That an insertion and VPLANE's put keep a bit-plane byte's high bits is
the model's choice (log 60). -/
def Obligations.VectorElementMoves : Prop :=
  ∀ (mod : BitVec 4) (d a b : BitVec 6) (imm : BitVec 16) (cl : Clauses),
    let ta (x : Act) : Nat := (x.v a.toNat).tag.toNat
    let w (x : Act) : Nat := tagWidth (ta x)
    let td (x : Act) : Nat := (x.v d.toNat).tag.toNat
    let wd (x : Act) : Nat := tagWidth (td x)
    let t := imm.toNat % 32
    let idx := imm.toNat % 64
    let j := imm.toNat % 8
    let bp (x : Act) : BitVec 32 := (x.s b.toNat).setWidth 32
    let takes (i : Instr) (k : Act → Nat) (sx : Bool) : Prop :=
      Completes i cl plainNeed (fun _ x _ => ta x ≠ 0) (fun _ _ x s =>
        let e := elem (x.v a.toNat).data (w x) (k x % (512 / w x))
        writeS s 2 d.toNat (if sx then BitVec.ofInt 64 (sextNat e (w x)) else BitVec.ofNat 64 e))
    let puts (i : Instr) (k : Act → Nat) : Prop :=
      Completes i cl plainNeed (fun _ x _ => td x ≠ 0) (fun _ _ x s =>
        writeV s 2 d.toNat { x.v d.toNat with data := vecOf (wd x) ((List.range (512 / wd x)).map (fun i =>
          if i = k x % (512 / wd x) then (x.s a.toNat).toNat else elem (x.v d.toNat).data (wd x) i)) })
    Completes (.vbcast 0 d a imm cl) cl plainNeed (fun _ _ _ => 1 ≤ t ∧ t ≤ 10)
      (fun _ _ x s => writeV s 2 d.toNat
        { data := vecOf (tagWidth t) (List.replicate (512 / tagWidth t) (x.s a.toNat).toNat), tag := imm.extractLsb' 0 5 }) ∧
    Completes (.vbcast 1 d a imm cl) cl plainNeed (fun _ x _ => ta x ≠ 0)
      (fun _ _ x s =>
        let i := idx % (512 / w x)
        let scale : BitVec 9 := if i < 32 then (x.v a.toNat).bw.extractLsb' 0 9 else (x.v a.toNat).bw.extractLsb' 16 9
        writeV s 2 d.toNat
          { data := retagData (ta x) (vecOf (w x) (List.replicate (512 / w x) (elem (x.v a.toNat).data (w x) i)))
            tag := (x.v a.toNat).tag
            bw := if tagScaled (ta x) then (0 : BitVec 7) ++ scale ++ (0 : BitVec 7) ++ scale else (x.v a.toNat).bw }) ∧
    takes (.vextr 0 d a b imm cl) (fun _ => idx) false ∧ takes (.vextr 1 d a b imm cl) (fun _ => idx) true ∧
    takes (.vextr 2 d a b imm cl) (fun x => (x.s b.toNat).toNat) false ∧
    takes (.vextr 3 d a b imm cl) (fun x => (x.s b.toNat).toNat) true ∧
    WritesS (.vextr 4 d a b imm cl) cl 2 d (fun x => if ta x = 0 then 0 else (x.v a.toNat).bw.setWidth 64) ∧
    puts (.vins 0 d a b imm cl) (fun _ => idx) ∧ puts (.vins 1 d a b imm cl) (fun x => (x.s b.toNat).toNat) ∧
    Completes (.vins 2 d a b imm cl) cl plainNeed
      (fun _ x _ => tagBlock (td x) = true ∧ bwOk (td x) ((x.s a.toNat).setWidth 32) = true)
      (fun _ _ x s => writeV s 2 d.toNat { x.v d.toNat with bw := (x.s a.toNat).setWidth 32 }) ∧
    Completes (.vperm mod d a b cl) cl plainNeed
      (fun _ x _ => ta x ≠ 0 ∧ (x.v b.toNat).tag.toNat ≤ 2 ∧ (tagScaled (ta x) = true →
        (x.v a.toNat).bw.toNat % 512 = (x.v a.toNat).bw.toNat / 2 ^ 16 % 512) ∧ MergeOk x mod d (x.v a.toNat).tag)
      (fun _ _ x s => maskedV s x mod d 4 (w x) (x.v a.toNat).tag (fun i =>
        { code := elem (x.v a.toNat).data (w x) (elem (x.v b.toNat).data 8 i % (512 / w x)) }) (x.v a.toNat).bw) ∧
    Completes (.vretag d a b imm cl) cl plainNeed
      (fun _ x _ => tagKnown t = true ∧ (tagBlock t = true → bwOk t (bp x) = true))
      (fun _ _ x s => writeV s 2 d.toNat
        { data := if tagBp t then vecOf 8 ((elems (x.v a.toNat).data 8 64).map (· % 2 ^ (t - 14))) else (x.v a.toNat).data
          tag := imm.extractLsb' 0 5, bw := if tagBlock t then bp x else 0 }) ∧
    Completes (.vplane 0 d a b imm cl) cl plainNeed (fun _ x _ => ta x ≤ 2 ∨ tagBp (ta x) = true)
      (fun _ _ x s => writeS s 4 d.toNat (BitVec.ofNat 64 (ofElems 1 ((List.range 64).map (fun i =>
        if (x.v a.toNat).data.getLsbD (8 * i + j) then 1 else 0))))) ∧
    Completes (.vplane 1 d a b imm cl) cl plainNeed
      (fun _ x _ => td x ≤ 2 ∨ (tagBp (td x) = true ∧ j < td x - 14))
      (fun _ _ x s => writeV s 4 d.toNat { x.v d.toNat with data := vecOf 8 ((List.range 64).map (fun i =>
        let e := elem (x.v d.toNat).data 8 i
        e - e / 2 ^ j % 2 * 2 ^ j + (if (x.s a.toNat).getLsbD i then 2 ^ j else 0))) }) ∧
    Completes (.vplane 2 d a b imm cl) cl plainNeed
      (fun _ x _ => (ta x = 0 ∨ ta x = 2) ∧ tagBp t = true ∧ bwOk t (bp x) = true)
      (fun _ _ x s => writeV s 4 d.toNat
        { data := vecOf 8 ((elems (x.v a.toNat).data 8 64).map (· / 2 ^ (8 - (t - 14)))), tag := imm.extractLsb' 0 5
          bw := bp x })

/-- R67, R68, R72, R73, R187, R188, R191: reductions, scans, conversions and block scales complete with these results. The
conversion's rounding mode 4 draws one number for each source element in order and leaves SRSTATE advanced as often. The flags
and the result of a converted infinity (logs 55, 56) and the canonical NaN of a scan's element 0 (log 57) are the model's
choices. -/
def Obligations.VectorReductionsAndConversion : Prop :=
  ∀ (mod : BitVec 4) (d a b c : BitVec 6) (imm : BitVec 16) (src : List Nat) (start : Nat) (cl : Clauses),
    let ta (x : Act) : Nat := (x.v a.toNat).tag.toNat
    let w (x : Act) : Nat := tagWidth (ta x)
    let rm (x : Act) : Nat := bits x.asw 9 8
    let op := imm.toNat % 4
    let on (x : Act) (i : Nat) : Bool := (x.p (mod.toNat % 8)).getLsbD (i * (w x / 8))
    let node (x : Act) : Nat → Nat → FRes := if tagInt (ta x) then intNode (ta x) op else fpNode op (rm x)
    let inputs (x : Act) : List Nat := (List.range (512 / w x)).map (fun i =>
      if on x i then
        (if tagInt (ta x) then elem (x.v a.toNat).data (w x) i
         else toFp32 ((tagFmt (ta x)).decode (elem (x.v a.toNat).data (w x) i)))
      else treeIdentity (ta x) op)
    let t := imm.toNat % 32
    let part := imm.toNat / 32 % 8
    let mode (x : Act) : Nat := if mod.toNat % 8 = 5 then rm x else mod.toNat % 8
    let bw (x : Act) : BitVec 32 := if tagScaled t then (x.s b.toNat).setWidth 32 else 0
    let keeps (x : Act) : Bool := decide (tagCount (ta x) < tagCount t) && decide (part ≠ 0)
    let draws (x : Act) : List Nat := if mode x = 4 then (srRun src.length x.srstate).1 else []
    let result (x : Act) (k i : Nat) : FRes :=
      convElem (ta x) t (mode x) ((draws x)[k]?.getD 0) (mod.getLsbD 3)
        (if start + k < 32 then (bw x).toNat % 512 else (bw x).toNat / 2 ^ 16 % 512)
        (elemVal (ta x) (x.v a.toNat).bw i (elem (x.v a.toNat).data (w x) i))
    let results (x : Act) : List FRes := src.zipIdx.map (fun p => result x p.2 p.1)
    Completes (.vreduce mod d a imm cl) cl plainNeed (fun _ x _ => tagInt (ta x) = true ∨ tagFloat (ta x) = true)
      (fun _ _ x s => { writeS s 4 d.toNat (if tagInt (ta x) then
          BitVec.ofInt 64 (intVal (ta x) (treeReduce (node x) (inputs x)).1)
          else BitVec.ofNat 64 (treeReduce (node x) (inputs x)).1) with flags := (treeReduce (node x) (inputs x)).2 }) ∧
    Completes (.vscan mod d a imm cl) cl plainNeed (fun _ x _ => tagInt (ta x) = true ∨ ta x = 6)
      (fun _ _ x s => writeV s 4 d.toNat
        { data := vecOf (w x) (scanAll (node x) 7 1 (inputs x) 0).1, tag := (x.v a.toNat).tag }
        (scanAll (node x) 7 1 (inputs x) 0).2) ∧
    Completes (.vqscale mod d a c cl) cl plainNeed (fun _ x _ => tagFloat (ta x) = true)
      (fun _ _ x s => writeS s 4 d.toNat (BitVec.ofNat 64 (max (bits (x.s c.toNat) 8 0)
        (blockScale (if mod.getLsbD 3 then 15 else 8) (((List.range (512 / w x)).filter (on x)).map
          (fun i => (tagFmt (ta x)).decode (elem (x.v a.toNat).data (w x) i))))))) ∧
    Completes (.vcvt mod d a b imm cl) cl plainNeed
      (fun _ x _ => ta x ≠ 0 ∧ tagKnown t = true ∧ t ≠ 0 ∧ tagBp t = false
        ∧ cvtParts (tagCount (ta x)) (tagCount t) part = some (src, start)
        ∧ (keeps x = true → (x.v d.toNat).tag.toNat = t) ∧ bwOk t (bw x) = true)
      (fun _ aid x s =>
        let out := (List.range (512 / tagWidth t)).map (fun i =>
          if start ≤ i ∧ i < start + (results x).length then ((results x)[i - start]?.getD { code := 0 }).code
          else if keeps x then elem (x.v d.toNat).data (tagWidth t) i else 0)
        writeV (if mode x = 4 then s.setAct aid { x with srstate := (srRun src.length x.srstate).2 } else s) 3 d.toNat
          { data := vecOf (tagWidth t) out, tag := imm.extractLsb' 0 5, bw := bw x }
          ((results x).foldl (fun g r => g ||| r.flags) 0)) ∧
    (∀ ns nd : Nat, ns < nd → part < nd / ns → cvtParts ns nd part = some (List.range ns, part * ns)) ∧
    (∀ ns nd : Nat, nd < ns → part < ns / nd →
      cvtParts ns nd part = some ((List.range nd).map (fun i => part * nd + i), 0)) ∧
    (∀ n : Nat, part = 0 → cvtParts n n part = some (List.range n, 0))

/-- R197..R202, R224..R230: the generator's and cutter's words complete in a context at home: PLOAD loads a program that passes
validation, clears the cursor and unsets the cutter; PSET and PGET write and read parameters and extent; PCOUNT, PGEN and PINV
enumerate it; with a program loaded, CUTSET sets the cutter, and CUT takes the next cut and advances both cursors (that a column
number of 2^24 leaves its field modulo 2^24 is the model's choice, log 50). A visitor slot, and CUTSET without a program, raise
PATTERN(6). -/
def Obligations.GeneratorAndCutterComplete : Prop :=
  (∀ (mod : BitVec 4) (d a b : BitVec 6) (imm : BitVec 16) (l : List (Nat × BitVec 32)) (cl : Clauses),
     let n := imm.toNat % 16
     let ready (x : Act) : Prop := x.visitor = false ∧ x.gen.loaded = true ∧ x.gen.pat.limits = none
     let results (s : State) (c aid : Nat) (x : Act) (i : Instr) (ws : List RegWrite) : Eff :=
       start s (mkOp aid x i cl false false (ws.map (·.reg)) (.gen c ws))
     let scalar (v : Word64) : List RegWrite := if d = 0 then [] else [wS d.toNat v]
     let inside (x : Act) : Prop := (x.s a.toNat).toNat < x.gen.rows ∧ (x.s b.toNat).toNat < x.gen.cols
       ∧ x.gen.pat.mem (x.s a.toNat).toNat (x.s b.toNat).toNat = true
     (∀ quad : Bool, Completes (.pload (if quad then 1 else 0) a cl) cl plainNeed
       (fun c x s => x.visitor = false ∧ hatchRead s c x quad 32 (x.s a.toNat) = .ok l
         ∧ hatchFault (l.map (·.2)) = none ∧ hatchPoison s c x quad (l.map (·.1)) = none
         ∧ (quad = true → ∀ aid, s.act aid = x → s.qsBusy aid = false)
         ∧ (quad = false → s.lmBusy c ((l.map (·.1)).headD 0) 128 false = false))
       (fun c aid x s => results (s.setAct aid { x with
           gen := { x.gen with loaded := true, inv := invertible (l.map (·.2)), prog := l.map (·.2), cursor := 0 }
           cut := { x.cut with isSet := false } }) c aid x (.pload (if quad then 1 else 0) a cl) [])) ∧
     (n < 8 → Completes (.pset a imm cl) cl plainNeed (fun _ x _ => x.visitor = false)
       (fun _ aid x s => change (s.setAct aid { x with
         gen := { x.gen with pp := sparseSet 0 x.gen.pp n ((x.s a.toNat).setWidth 32), cursor := 0 } }))) ∧
     (n = 8 → Completes (.pset a imm cl) cl plainNeed (fun _ x _ => x.visitor = false ∧ bits (x.s a.toNat) 63 48 = 0)
       (fun _ aid x s => change (s.setAct aid { x with
         gen := { x.gen with extent := (x.s a.toNat).setWidth 48, cursor := 0 }, cut := { x.cut with isSet := false } }))) ∧
     Completes (.pget d imm cl) cl plainNeed (fun _ x _ => x.visitor = false)
       (fun _ _ x s => writeS s 1 d.toNat
         (if n = 8 then x.gen.extent.setWidth 64 else (sparseGet 0 x.gen.pp n).setWidth 64)) ∧
     Completes (.pcount d a b cl) cl plainNeed
       (fun _ x _ => ready x ∧ bits (x.s a.toNat) 63 48 = 0 ∧ bits (x.s b.toNat) 63 48 = 0)
       (fun c aid x s => results s c aid x (.pcount d a b cl) (scalar (BitVec.ofNat 64 (x.gen.pat.forward
         (bits (x.s a.toNat) 23 0) (bits (x.s a.toNat) 47 24) (bits (x.s b.toNat) 23 0) (bits (x.s b.toNat) 47 24)).length))) ∧
     (∀ order : Nat, order = 1 ∨ order = 2 → Completes (.pgen (BitVec.ofNat 4 (order - 1)) d a cl) cl plainNeed
       (fun _ x _ => ready x ∧ bits (x.s a.toNat) 63 38 = 0 ∧ (order = 2 → x.gen.inv = true))
       (fun c aid x s =>
         let r := x.gen.pat.step order (bits (x.s a.toNat) 37 24 + 1) (bits (x.s a.toNat) 23 0) 0
         results (s.setAct aid { x with gen := { x.gen with cursor := r.2 } }) c aid x
           (.pgen (BitVec.ofNat 4 (order - 1)) d a cl)
           [wV d.toNat (emitVec (r.1.map (if order = 2 then (·.2) else (·.1)))),
            wV (d.toNat + 1) (emitVec (r.1.map (if order = 2 then (·.1) else (·.2))))])) ∧
     (∀ order : Nat, order = 1 ∨ order = 2 → Completes (.pgen 2 d a cl) cl plainNeed
       (fun _ x _ => x.visitor = false ∧ x.gen.loaded = true ∧ bits x.gen.cursor 63 62 = order)
       (fun c aid x s =>
         let r := x.gen.pat.step order (bits x.gen.cursor 61 48 + 1) (bits x.gen.cursor 47 24) (bits x.gen.cursor 23 0)
         results (s.setAct aid { x with gen := { x.gen with cursor := r.2 } }) c aid x (.pgen 2 d a cl)
           [wV d.toNat (emitVec (r.1.map (if order = 2 then (·.2) else (·.1)))),
            wV (d.toNat + 1) (emitVec (r.1.map (if order = 2 then (·.1) else (·.2))))])) ∧
     Completes (.pgen 2 d a cl) cl plainNeed
       (fun _ x _ => x.visitor = false ∧ x.gen.loaded = true ∧ bits x.gen.cursor 63 62 = 0)
       (fun c aid x s => results (s.setAct aid { x with gen := { x.gen with cursor := 0 } }) c aid x (.pgen 2 d a cl)
         [wV d.toNat (emitVec []), wV (d.toNat + 1) (emitVec [])]) ∧
     Completes (.pinv mod d a b cl) cl plainNeed (fun _ x _ => ready x ∧ ¬ inside x)
       (fun c aid x s => results s c aid x (.pinv mod d a b cl) (scalar (BitVec.allOnes 64))) ∧
     Completes (.pinv 0 d a b cl) cl plainNeed (fun _ x _ => ready x ∧ inside x)
       (fun c aid x s => results s c aid x (.pinv 0 d a b cl) (scalar (BitVec.ofNat 64
         ((List.range (x.s b.toNat).toNat).filter (fun k => x.gen.pat.mem (x.s a.toNat).toNat k)).length))) ∧
     Completes (.pinv 1 d a b cl) cl plainNeed (fun _ x _ => ready x ∧ inside x ∧ x.gen.inv = true)
       (fun c aid x s => results s c aid x (.pinv 1 d a b cl) (scalar (BitVec.ofNat 64
         ((List.range (x.s a.toNat).toNat).filter (fun k => x.gen.pat.mem k (x.s b.toNat).toNat)).length))) ∧
     Raises (.pget d imm cl) cl plainNeed (fun _ x _ => x.visitor = true) (fun _ _ _ => patternTrap 6 0)) ∧
  (∀ (mod : BitVec 4) (d a b : BitVec 6) (imm : BitVec 16) (cl : Clauses),
     let desc (x : Act) : Word64 := x.s a.toNat
     let good (x : Act) : Prop := bits (desc x) 63 56 = 0 ∧ bits (desc x) 35 24 = 0 ∧ 64 ≤ bits (desc x) 47 36
       ∧ bits (desc x) 47 36 ≤ 2048 ∧ bits (desc x) 23 0 % 64 = 0 ∧ bits (desc x) 23 0 < x.gen.rows
     Completes (.cutset a b cl) cl plainNeed (fun _ x _ => x.visitor = false ∧ x.gen.loaded = true ∧ good x)
       (fun _ aid x s => change (s.setAct aid { x with
         cut := { desc := desc x, kcur := 0, vcur := x.s b.toNat, isSet := true } })) ∧
     Raises (.cutset a b cl) cl plainNeed (fun _ x _ => x.visitor = false ∧ x.gen.loaded = true ∧ ¬ good x)
       (fun _ _ _ => mkTrap cCUTTER 1) ∧
     Raises (.cutset a b cl) cl plainNeed (fun _ x _ => x.gen.loaded = false) (fun _ _ _ => patternTrap 6 0) ∧
     Completes (.cut mod d imm cl) cl plainNeed
       (fun _ x _ => x.visitor = false ∧ x.gen.loaded = true ∧ x.cut.isSet = true ∧ x.gen.pat.limits = none)
       (fun c aid x s =>
         let r := x.gen.pat.cut x.cut
         let kb := r.1
         let ke := r.2.1
         let nnz := r.2.2.1
         let mask (v : Bool) : Word64 := if v then BitVec.allOnes 64 else 0
         let ws : List RegWrite :=
           [wS d.toNat (BitVec.ofNat 64 (nnz % 2 ^ 12 * 2 ^ 48 + ke % 2 ^ 24 * 2 ^ 24 + kb % 2 ^ 24)),
            wS (d.toNat + 1) (BitVec.ofNat 64 (bits x.cut.desc 23 0 * 2 ^ 40 + x.cut.vcur.toNat % 2 ^ 40)),
            wP (mod.toNat % 8) (mask r.2.2.2.1), wP (imm.toNat % 8) (mask r.2.2.2.2)]
         start (s.setAct aid { x with cut := { x.cut with kcur := ke, vcur := x.cut.vcur + BitVec.ofNat 64 nnz } })
           (mkOp aid x (.cut mod d imm cl) cl false false (ws.map (·.reg)) (.gen c ws))) ∧
     Raises (.cut mod d imm cl) cl plainNeed
       (fun _ x _ => x.visitor = false ∧ x.gen.loaded = true ∧ x.cut.isSet = false) (fun _ _ _ => mkTrap cCUTTER 2))

/-- R208..R215: the matrix products on tiles that the context owns, with a pair of formats that the tile accepts and
operands that can be captured, complete: each enters the unit's queue with the elements it captured and, for every row below
mr, the pairs of element numbers whose products are added. A dense product takes A by rows, a k-major one by columns; a
sparse one takes the cut's members in forward order, and its transposed form groups them by column. B of a sparse product is
the bound stage. The model's choices, where the rules leave them open: the order of a product's own faults (log 17), and
that it reads its operands when it issues (log 50). -/
def Obligations.MatrixProductsComplete : Prop :=
  ∀ (mod : BitVec 4) (d a b v : BitVec 6) (ms : List (Nat × Nat)) (cl : Clauses),
    let i32 (s : State) (c : Nat) (x : Act) : Bool := (s.tile c (x.tile d)).i32
    let k (x : Act) : Nat := bits x.msh 27 20 + 1
    let stageBase (s : State) (x : Act) : Word64 :=
      BitVec.ofNat 64 ((s.ring x.quad x.msbRing).base
        + x.msbStage * (((s.ring x.quad x.msbRing).size + 1) * 64))
    let product (s : State) (c aid : Nat) (x : Act) (i : Instr) (oa ob : Opnd) (bRows : Nat) (bIdx : Nat → Nat → Nat)
        (rows : List (Nat × List (Nat × Nat))) : Eff :=
      let bs := (List.range (bRows * 64)).map (fun p => (ob.elems s x c)[bIdx (p / 64) (p % 64)]?.getD (0, 255))
      enqueue s c (mkOp aid x i cl false false []
        (.matrix c (.product (x.tile d) x.nc x.fa x.fb (i32 s c x) (oa.elems s x c) bs rows)))
    let dense (i : Instr) (src : Nat) (plain : Bool) (aIdx bIdx : Nat → Nat → Nat → Nat) : Prop :=
      let oa (x : Act) : Opnd := { quad := mod.getLsbD 0, base := x.s a.toNat, fmt := x.fa, first := 0, count := 64 * k x
                                   side := (x.s a.toNat).toNat + 64 * k x, planes := 8 * k x }
      let bBase (s : State) (x : Act) : Word64 := if src = 2 then stageBase s x else x.s b.toNat
      let ob (s : State) (x : Act) : Opnd := { quad := decide (src ≠ 0), base := bBase s x, fmt := x.fb, first := 0
                                               count := 64 * k x, side := (bBase s x).toNat + 64 * k x }
      mod.toNat / 2 % 4 = src → Completes i cl matNeed
        (fun c x s => x.Owns [d] ∧ productFormat x (i32 s c x) true plain = none
          ∧ (src = 2 → stageFault s x = none) ∧ s.tilePoisonOf c [x.tile d] = none
          ∧ ∀ aid, s.act aid = x → s.Captures c aid x (oa x) (ob s x))
        (fun c aid x s => product s c aid x i (oa x) (ob s x) (k x) (bIdx (k x))
          ((List.range x.mr).map (fun r => (r, (List.range (k x)).map (fun j => (aIdx (k x) r j, j))))))
    let sparse (i : Instr) (tr : Bool) : Prop :=
      let kb (x : Act) : Nat := bits (x.s a.toNat) 23 0
      let ke (x : Act) : Nat := bits (x.s a.toNat) 47 24
      let row0 (x : Act) : Nat := bits (x.s b.toNat) 63 40
      let read (x : Act) : Nat := if tr then 64 else ke x - kb x
      let oa (x : Act) : Opnd :=
        { quad := mod.getLsbD 0, base := x.s v.toNat, fmt := x.fa, first := bits (x.s b.toNat) 39 0, count := ms.length
          side := (x.s v.toNat).toNat + 64 * bits x.mfm 39 16, planes := 64 * bits x.mfm 63 40 }
      let bRows (x : Act) : Nat := if tr then min 64 (x.gen.rows - row0 x) else ke x - kb x
      let ob (s : State) (x : Act) : Opnd :=
        { quad := true, base := stageBase s x, fmt := x.fb, first := 0, count := 64 * bRows x
          side := (stageBase s x).toNat + 64 * read x * (tagWidth x.fb / 8), rows := some (read x) }
      Completes i cl matNeed
        (fun c x s => x.Owns [d] ∧ productFormat x (i32 s c x) false false = none
          ∧ cutMembers s x tr (x.s a.toNat) (x.s b.toNat) = .ok ms ∧ stageFault s x = none
          ∧ s.tilePoisonOf c [x.tile d] = none
          ∧ ∀ aid, s.act aid = x → s.Captures c aid x (oa x) (ob s x))
        (fun c aid x s => product s c aid x i (oa x) (ob s x) (bRows x) (fun r j => r * 64 + j)
          ((List.range x.mr).map (fun o =>
            (o, (ms.zipIdx.filter (fun q => (if tr then q.1.2 - kb x else q.1.1 - row0 x) == o)).map (fun q =>
              (q.2, if tr then q.1.1 - row0 x else q.1.2 - kb x))))))
    (∀ src : Nat, dense (.mma mod d a b cl) src false (fun k r j => r * k + j) (fun k j c => c * k + j)) ∧
    (∀ src : Nat, dense (.mmat mod d a b cl) src true (fun _ r j => j * 64 + r) (fun _ j c => j * 64 + c)) ∧
    sparse (.mmas mod d a b v cl) false ∧ sparse (.mmast mod d a b v cl) true

/-- R51, R54, R208, R216..R219: tile loads and stores whose base and stride are multiples of 64 and whose rows lie in the
allocation complete by entering the unit's queue; so do moves between a vector and a quarter of a row; MSAVE completes on an
aligned place for an image in the allocation, and MREST on a sound image there, whose tag the tile takes at issue; both complete
on device memory with one request for each of the image's 257 lines. The model's choices: an MREST from local memory or the
scratchpad reads the image before it issues, and a move to or from device memory issues when the unit's queue is empty, in
requests of whole lines (log 15); which writes clear poison (log 46); and that what a word would read, and BOUND, are judged
before it issues, with the unit's queue empty (log 8). -/
def Obligations.TileMovesComplete : Prop :=
  (∀ (mod : BitVec 4) (d a b c : BitVec 6) (imm : BitVec 16) (offs : List Nat) (cl : Clauses),
     let w := tileWidth mod.toNat
     let int := mod.toNat = 1 ∨ mod.toNat = 4 ∨ mod.toNat = 5
     let rows (x : Act) (quad : Bool) (base stride : Word64) : Prop :=
       base.toNat % 64 = 0 ∧ stride.toNat % 64 = 0
         ∧ offs = (List.range x.mr).map (fun i => (base + BitVec.ofNat 64 i * stride).toNat)
         ∧ ∀ o ∈ offs, if quad then x.qsOk o (x.nc * w) = true else (x.lmAddr o (x.nc * w)).isSome = true
     let bound (x : Act) : Option (Nat × BoundReg) :=
       if imm.getLsbD 4 then some (imm.toNat % 16, x.bound (imm.toNat % 16)) else none
     let stores (i : Instr) (quad : Bool) : Prop :=
       let word (x : Act) : MatWord := .store (x.tile a) mod.toNat quad offs x.nc (bound x)
       let here (k : Nat) (x : Act) (s : State) : Prop :=
         x.Owns [a] ∧ ((s.tile k (x.tile a)).i32 = true ↔ int)
           ∧ (imm.getLsbD 4 = true → (s.tile k (x.tile a)).i32 = false) ∧ rows x quad (x.s b.toNat) (x.s c.toNat)
           ∧ (quad = false → ∀ o ∈ offs, s.lmBusy k o (x.nc * w) true = false)
       Completes i cl matMemNeed (fun k x s => here k x s ∧ s.Sound x.gang k (word x))
         (fun k aid x s => enqueue s k (mkOp aid x i cl false true [] (.matrix k (word x)))) ∧
       Raises i cl matMemNeed
         (fun k x s => here k x s ∧ imm.getLsbD 4 = true ∧ (x.bound (imm.toNat % 16)).mode = 3
           ∧ (s.core k).mqueue = [] ∧ s.tilePoisonOf k [x.tile a] = none
           ∧ (storeRows (x.bound (imm.toNat % 16)) true (s.tile k (x.tile a)) mod.toNat offs.length x.nc).2 ≠ 0)
         (fun _ _ _ => mkTrap cBOUND (imm.toNat % 16))
     Completes (.mlda mod d a b cl) cl matMemNeed
       (fun k x s => x.Owns [d] ∧ rows x false (x.s a.toNat) (x.s b.toNat)
         ∧ (∀ o ∈ offs, s.lmBusy k o (x.nc * w) false = false) ∧ ∀ o ∈ offs, s.lmPoisonOf k o (x.nc * w) = none)
       (fun k aid x s => enqueue (s.setTile k (x.tile d) { s.tile k (x.tile d) with i32 := decide int }) k
         (mkOp aid x (.mlda mod d a b cl) cl false true [] (.matrix k (.load (x.tile d) mod.toNat offs x.nc)))) ∧
     stores (.msta mod a b c imm cl) false ∧ stores (.mstq mod a b c imm cl) true) ∧
  (∀ (mod : BitVec 4) (d a b c : BitVec 6) (imm : BitVec 16) (ls : List (OtcEntry × Nat)) (u : Tile) (cl : Clauses),
     let q := imm.toNat / 64 % 4
     let row := imm.toNat % 64
     let touched (s : State) (k : Nat) : State := ls.foldl (fun s l => (s.touch k l.1).l1Drop k (l.1.addr l.2 / 64)) s
     let cached (s : State) (k : Nat) (piece : Nat → List Byte) : State :=
       ls.zipIdx.foldl (fun s l => (s.touch k l.1.1).l1Store k (l.1.1.addr l.1.2) (piece l.2) (List.replicate 64 true)) s
     let inLm (k : Nat) (x : Act) (s : State) (write : Bool) : Prop := (x.s b.toNat).toNat % 64 = 0
       ∧ ∃ p, x.lmAddr (x.s b.toNat).toNat 16448 = some p ∧ s.lmBusy k p 16448 write = false
     let lm (x : Act) : Nat := (x.lmAddr (x.s b.toNat).toNat 16448).getD 0
     let inQs (x : Act) : Prop := (x.s b.toNat).toNat % 64 = 0 ∧ x.qsOk (x.s b.toNat).toNat 16448 = true
     let restored (s : State) (k aid : Nat) (x : Act) (i : Instr) : Eff :=
       enqueue (s.setTile k (x.tile d) { s.tile k (x.tile d) with i32 := u.i32 }) k
         (mkOp aid x i cl false true [] (.matrix k (.restTile (x.tile d) u)))
     Completes (.mrowv d a imm cl) cl matMemNeed
       (fun k x s => x.Owns [d] ∧ (x.v a.toNat).tag.toNat = if (s.tile k (x.tile d)).i32 then 4 else 6)
       (fun k aid x s => enqueue s k (mkOp aid x (.mrowv d a imm cl) cl false true []
         (.matrix k (.rowFromV (x.tile d) (x.v a.toNat).data row q)))) ∧
     Completes (.mvrow d a imm cl) cl matMemNeed (fun k x s => x.Owns [a] ∧ s.tilePoisonOf k [x.tile a] = none)
       (fun k aid x s => enqueue s k (mkOp aid x (.mvrow d a imm cl) cl false true [vreg d.toNat]
         (.matrix k (.vFromRow d.toNat (x.tile a) row q (s.tile k (x.tile a)).i32)))) ∧
     Completes (.msave 0 a b c cl) cl matMemNeed (fun k x s => x.Owns [a] ∧ inLm k x s true ∧ s.tilePoisonOf k [x.tile a] = none)
       (fun k aid x s => enqueue s k (mkOp aid x (.msave 0 a b c cl) cl false true []
         (.matrix k (.saveTile (x.tile a) (s.tile k (x.tile a)).i32 false (lm x))))) ∧
     Completes (.msave 1 a b c cl) cl matMemNeed (fun k x s => x.Owns [a] ∧ inQs x ∧ s.tilePoisonOf k [x.tile a] = none)
       (fun k aid x s => enqueue s k (mkOp aid x (.msave 1 a b c cl) cl false true []
         (.matrix k (.saveTile (x.tile a) (s.tile k (x.tile a)).i32 true (x.s b.toNat).toNat)))) ∧
     Completes (.msave 2 a b c cl) cl matMemNeed
       (fun k x s => x.Owns [a] ∧ s.imageLines k x c.toNat rW 0x9B (x.s b.toNat) true = .ok ls ∧ (s.core k).mqueue = []
         ∧ s.tilePoisonOf k [x.tile a] = none)
       (fun k aid x s =>
         let img := tileImage (s.tile k (x.tile a)) (s.tile k (x.tile a)).i32
         let piece (j : Nat) : List Byte := (img.drop (64 * j)).take 64
         let r := (cached s k piece).addOp (mkOp aid x (.msave 2 a b c cl) cl true true [] .tileImage)
         { st := r.2.sendLines ls (fun e off j => mkReq aid x k r.1 e off 64 (.store (piece j) (List.replicate 64 true)))
           op := some r.1 }) ∧
     Completes (.mrest 0 d b c cl) cl matMemNeed
       (fun k x s => x.Owns [d] ∧ inLm k x s false ∧ s.lmPoisonOf k (lm x) 16448 = none
         ∧ tileFromImage (s.lmRead k (lm x) 16448) = some u)
       (fun k aid x s => restored s k aid x (.mrest 0 d b c cl)) ∧
     Completes (.mrest 1 d b c cl) cl matMemNeed
       (fun _ x s => x.Owns [d] ∧ inQs x ∧ (∀ aid, s.act aid = x → s.qsBusy aid = false)
         ∧ s.qsPoisonOf x.quad (x.s b.toNat).toNat 16448 = none
         ∧ tileFromImage (s.qsRead x.quad (x.s b.toNat).toNat 16448) = some u)
       (fun k aid x s => restored s k aid x (.mrest 1 d b c cl)) ∧
     Completes (.mrest 2 d b c cl) cl matMemNeed
       (fun k x s => x.Owns [d] ∧ s.imageLines k x c.toNat rR 0x9C (x.s b.toNat) false = .ok ls ∧ (s.core k).mqueue = [])
       (fun k aid x s =>
         let r := (touched s k).addOp (mkOp aid x (.mrest 2 d b c cl) cl true true [] (.matrix k (.restDev (x.tile d) [])))
         { st := (r.2.setCore k { r.2.core k with mqueue := [r.1] }).sendLines ls
             (fun e off j => mkReq aid x k r.1 e off 64 (.tileLine j))
           op := some r.1, post := .verdict }))

/-- R207, R208, R212, R220..R223, R232, R334: tile arithmetic on owned tiles free of poison completes by entering the unit's
queue and sets the destination's tag at issue; a poisoned line of a tile that it reads raises UNCORR, once the unit has finished
every earlier word (log 8); MSHAPE, MFMT and MSTAGE write the matrix registers of a context at home when what they are given is
sound; MSTAT reads them; a visitor slot raises PATTERN(6). -/
def Obligations.TileArithmeticCompletes : Prop :=
  (∀ (mod : BitVec 4) (d a b c : BitVec 6) (off : Nat) (cl : Clauses),
     let i32 (s : State) (k : Nat) (x : Act) (n : BitVec 6) : Bool := (s.tile k (x.tile n)).i32
     let tagged (s : State) (k : Nat) (x : Act) (t : Bool) : State :=
       s.setTile k (x.tile d) { s.tile k (x.tile d) with i32 := t }
     let writes (i : Instr) (ns : List (BitVec 6)) (ok : Nat → Act → State → Prop) (tag : Nat → Act → State → Bool)
         (w : Nat → Act → State → MatWord) : Prop :=
       Completes i cl matNeed (fun k x s => x.Owns ns ∧ ok k x s ∧ s.matPoison x.gang k (w k x s) = none)
         (fun k aid x s => enqueue (tagged s k x (tag k x s)) k (mkOp aid x i cl false false [] (.matrix k (w k x s))))
     let gives (i : Instr) (ns : List (BitVec 6)) (ok : Nat → Act → State → Prop) (w : Nat → Act → State → MatWord) : Prop :=
       Completes i cl matNeed (fun k x s => x.Owns ns ∧ ok k x s ∧ s.matPoison x.gang k (w k x s) = none)
         (fun k aid x s => enqueue s k (mkOp aid x i cl false false [vreg d.toNat] (.matrix k (w k x s))))
     let same (k : Nat) (x : Act) (s : State) : Prop := i32 s k x b = i32 s k x a
     let word (x : Act) (r : BitVec 6) : BitVec 32 := (x.s r.toNat).setWidth 32
     (∀ (s : State) (k aid : Nat) (q : Poison), s.Clear k aid (.mtrn d a cl) cl { matrix := true } → (s.act aid).Owns [d, a] →
       (s.core k).mqueue = [] → s.tilePoisonOf k [(s.act aid).tile a] = some q →
       exec (.mtrn d a cl) s = .next ((s.noteUncorr (s.act aid).gang q true).raise aid
         { cause := cUNCORR, detail := q.detail, addr := q.addr })) ∧
     writes (.mzero mod d cl) [d] always (fun _ _ _ => decide (mod = 1)) (fun _ x _ => .zero (x.tile d)) ∧
     writes (.maddt mod d a b cl) [d, a, b] same (fun k x s => i32 s k x a)
       (fun k x s => .addT (x.tile d) (x.tile a) (x.tile b) (decide (mod = 1)) (i32 s k x a)) ∧
     writes (.mscl 0 d a b cl) [d, a] always (fun k x s => i32 s k x a)
       (fun k x s => .scale (x.tile d) (x.tile a) (word x b) (i32 s k x a) false) ∧
     writes (.mscl 1 d a b cl) [d, a] (fun k x s => i32 s k x a = true) (fun _ _ _ => false)
       (fun _ x _ => .scale (x.tile d) (x.tile a) (word x b) true true) ∧
     writes (.mbias mod d a b cl) [d, a]
       (fun k x s => (x.s b.toNat).toNat % 64 = 0 ∧ x.lmAddr (x.s b.toNat).toNat 256 = some off
         ∧ s.lmBusy k off 256 false = false)
       (fun k x s => i32 s k x a) (fun k x s => .bias (x.tile d) (x.tile a) off (decide (mod = 1)) (i32 s k x a)) ∧
     writes (.mclamp d a b c cl) [d, a] always (fun k x s => i32 s k x a)
       (fun k x s => .clamp (x.tile d) (x.tile a) (word x b) (word x c) (i32 s k x a)) ∧
     writes (.mtrn d a cl) [d, a] always (fun k x s => i32 s k x a) (fun _ x _ => .transpose (x.tile d) (x.tile a)) ∧
     gives (.mredr mod d a cl) [a] always
       (fun k x s => .reduce d.toNat (x.tile a) (mod.toNat % 4) (mod.toNat / 4) (i32 s k x a)) ∧
     gives (.mdot mod d a b cl) [a, b] same
       (fun k x s => .dot d.toNat (x.tile a) (x.tile b) (mod.toNat % 4) (i32 s k x a))) ∧
  (∀ (d a : BitVec 6) (cl : Clauses),
     let home (x : Act) : Prop := x.visitor = false
     let v (x : Act) : Word64 := x.s a.toNat
     let reads (what : BitVec 4) (f : Nat → Act → State → Word64) : Prop :=
       Completes (.mstat what d cl) cl plainNeed (fun _ x _ => home x) (fun k _ x s => writeS s 1 d.toNat (f k x s))
     let n (x : Act) : Nat := bits (v x) 3 0
     let fill (x : Act) : Nat := bits (v x) 63 32
     let ring (s : State) (x : Act) : Ring := s.ring x.quad (n x)
     let ahead (s : State) (x : Act) : Nat := ((ring s x).f.toNat + 2 ^ 32 - fill x) % 2 ^ 32
     let freed (s : State) (x : Act) : Nat := (fill x + 2 ^ 32 - (ring s x).e.toNat) % 2 ^ 32
     Completes (.mshape a cl) cl plainNeed (fun _ x _ => home x ∧ v x &&& 0xFFFFFFFFF00FC0C0 = 0)
       (fun _ aid x s => change (s.setAct aid { x with msh := v x })) ∧
     Completes (.mfmt a cl) cl plainNeed
       (fun _ x _ => home x ∧ v x &&& 0xE0E0 = 0 ∧ tagKnown (bits (v x) 4 0) = true ∧ tagKnown (bits (v x) 12 8) = true)
       (fun _ aid x s => change (s.setAct aid { x with mfm := v x })) ∧
     reads 0 (fun _ x _ => x.msh) ∧ reads 1 (fun _ x _ => x.mfm) ∧ reads 2 (fun _ x _ => x.msb) ∧
     Completes (.mstat 3 d cl) cl plainNeed (fun k x s => home x ∧ s.restoring k = false)
       (fun k _ x s => writeS s 1 d.toNat
         (BitVec.ofNat 64 (ofElems 1 (x.tiles.map (fun t => if (s.tile k t).i32 then 1 else 0))))) ∧
     reads 4 (fun _ x _ => BitVec.ofNat 64 (x.cut.kcur % 2 ^ 24 + if x.cut.isSet then 2 ^ 63 else 0)) ∧
     reads 5 (fun _ x _ => x.cut.vcur) ∧
     Completes (.mstat 6 d cl) cl plainNeed (fun _ x _ => home x ∧ x.gen.loaded = true)
       (fun _ _ x s => writeS s 1 d.toNat x.gen.cursor) ∧
     Completes (.mstage a cl) cl plainNeed
       (fun _ x s => home x ∧ bits (v x) 31 4 = 0 ∧ x.rings.getLsbD (n x) = true
         ∧ ahead s x ≠ 0 ∧ ahead s x ≤ 2 ^ 31 ∧ freed s x < 2 ^ 31)
       (fun _ aid x s =>
         let i := fill x % ((ring s x).count + 1)
         change (s.setAct aid { x with
           msb := BitVec.ofNat 64 (fill x * 2 ^ 32 + (sparseGet 0 (ring s x).gen i).toNat * 2 ^ 16 + i * 2 ^ 8 + 16 + n x) })) ∧
     Raises (.mshape a cl) cl plainNeed (fun _ x _ => x.visitor = true) (fun _ _ _ => patternTrap 6 0) ∧
     Raises (.mstage a cl) cl plainNeed (fun _ x _ => home x ∧ bits (v x) 31 4 ≠ 0) (fun _ _ _ => mkTrap cSTAGE 5))

/-- R33, R237, R240, R241, R256..R259: MEET with a sound luggage descriptor and every tag free completes at home, and a fault of
the descriptor raises LUGGAGE with the lowest detail that holds, which is the model's choice (log 17); PART completes in a met
visitor slot. With a partner that has not parted and is not saved, the exchanges complete; once it has parted they raise PARTNER 0, and outside a meeting PARTNER 1. -/
def Obligations.MeetingWordsComplete : Prop :=
  (∀ (mod : BitVec 4) (d a b c : BitVec 6) (imm : BitVec 16) (p : Party) (cl : Clauses),
     let every (_ : Act) : Need := { allTags := true }
     let bad (x : Act) : Option Nat :=
       let l := x.s b.toNat
       if bits l 18 0 % 64 ≠ 0 ∨ bits l 35 20 % 64 ≠ 0 then some 1
       else if bits l 63 36 ≠ 0 ∨ l.getLsbD 19 = true then some 2
       else if bits l 18 0 < x.lmBase ∨ x.lmBase + x.lmLen < bits l 18 0 + bits l 35 20 then some 3
       else none
     Completes (.meet mod d a b c imm cl) cl every (fun _ x _ => x.visitor = false ∧ bad x = none)
       (fun _ aid x s =>
         let scope := s.scopeField x mod imm
         let r := s.addOp (mkOp aid x (.meet mod d a b c imm cl) cl true false (dstS d.toNat) .meet)
         { st := r.2.setAct aid { x.setMg 1 with
             party := some { key := x.s a.toNat, sid := scopeSid scope.1 scope.2 x.homeCore 0, luggage := x.s b.toNat
                             timeout := x.s c.toNat, kind := scope.1, rect := scope.2, op := r.1, pc := x.pc
                             q0 := x.rdq0, q1 := x.rdq1
                             freed := (releases (.meet mod d a b c imm cl) cl).filter x.live, lk := x.lk, lc := x.lc } }
           op := some r.1 }) ∧
     (∀ n : Nat, Raises (.meet mod d a b c imm cl) cl every (fun _ x _ => x.visitor = false ∧ bad x = some n)
       (fun _ _ _ => mkTrap cLUGGAGE n)) ∧
     Completes (.part cl) cl every (fun _ x _ => x.visitor = true ∧ x.mg = 4 ∧ x.party = some p)
       (fun _ aid x s =>
         let r := s.addOp (mkOp aid x (.part cl) cl true false [] .part)
         { st := r.2, op := some r.1, post := .part (some r.1) }) ∧
     Raises (.part cl) cl every (fun _ x _ => x.visitor = false) (fun _ _ _ => mkTrap cPARTNER 1)) ∧
  (∀ (mod : BitVec 4) (d a b c : BitVec 6) (p : Party) (dst : Nat) (cl : Clauses),
     let met (x : Act) : Prop := x.visitor = true ∧ x.mg = 4 ∧ x.party = some p
     let here (x : Act) (s : State) : Prop := met x ∧ p.partnerParted = false ∧ (s.act p.partner).run ≠ .saved
     let copies (i : Instr) (f : RegFile) : Prop :=
       Completes i cl plainNeed (fun _ x s => here x s ∧ (s.act p.partner).live ⟨f, a.toNat⟩ = true)
         (fun _ aid x s => start s (mkOp aid x i cl true false
           (if (⟨f, d.toNat⟩ : RegName) = ⟨.s, 0⟩ then [] else [⟨f, d.toNat⟩])
           (.fixedTime [{ reg := ⟨f, d.toNat⟩, val := (s.act p.partner).valOf ⟨f, a.toNat⟩
                          poison := (s.act p.partner).poison? ⟨f, a.toNat⟩ }]))) ∧
       Raises i cl plainNeed (fun _ x _ => met x ∧ p.partnerParted = true) (fun _ _ _ => mkTrap cPARTNER 0) ∧
       Raises i cl plainNeed (fun _ x _ => x.visitor = false) (fun _ _ _ => mkTrap cPARTNER 1)
     let o (x : Act) : Nat := (x.s a.toNat).toNat
     let src (x : Act) : Nat := (x.s b.toNat).toNat
     let n (x : Act) : Nat := (x.s c.toNat).toNat
     let whole (x : Act) : Prop := o x % 64 = 0 ∧ src x % 64 = 0 ∧ n x % 64 = 0
     let from_ (x : Act) (s : State) : Nat := visitorBase (s.act p.partner).slot + src x
     copies (.xreg 0 d a cl) .s ∧ copies (.xreg 1 d a cl) .p ∧ copies (.xreg 2 d a cl) .b ∧ copies (.xreg 3 d a cl) .k ∧
     copies (.xvreg d a cl) .v ∧
     Completes (.xlug a b c cl) cl plainNeed (fun _ x s => here x s ∧ whole x ∧ n x = 0)
       (fun _ aid x s => start s (mkOp aid x (.xlug a b c cl) cl true false [] (.fixedTime []))) ∧
     Completes (.xlug a b c cl) cl plainNeed
       (fun k x s => here x s ∧ whole x ∧ n x ≠ 0 ∧ x.lmAddr (o x) (n x) = some dst
         ∧ (∃ q, (s.act p.partner).party = some q ∧ src x + n x ≤ q.len)
         ∧ s.lmBusy k dst (n x) true = false ∧ s.lmBusy k (from_ x s) (n x) false = false)
       (fun k aid x s => start s (mkOp aid x (.xlug a b c cl) cl true false [] (.xlug k dst (from_ x s) (n x)))) ∧
     Completes (.meetq mod d cl) cl plainNeed (fun _ x _ => met x)
       (fun _ aid x s => start s (mkOp aid x (.meetq mod d cl) cl false false (dstS d.toNat)
         (.fixedTime [wS d.toNat (meetqValue s p mod.toNat)]))) ∧
     Completes (.meetq 0 d cl) cl plainNeed (fun _ x _ => x.visitor = false)
       (fun _ aid x s => start s (mkOp aid x (.meetq 0 d cl) cl false false (dstS d.toNat)
         (.fixedTime [wS d.toNat 0]))))

/-- R260..R263, R300: barrier words complete. With no arrival pending (AP = 0) a waiting word sends one, as a release, and then
waits for its instance; with one pending it waits for that. BARA only sends it. BARW without one raises LAUNCH 2, and SSTEP
in a gang that is not flagged BSP LAUNCH 3. -/
def Obligations.BarrierWordsComplete : Prop :=
  ∀ (mod : BitVec 4) (d a : BitVec 6) (imm : BitVec 16) (cl : Clauses),
    let need (x : Act) : Need := { release := !x.ap }
    let scope (s : State) (x : Act) : Nat × Word64 := s.scopeField x mod imm
    let sid (s : State) (x : Act) : Word64 :=
      scopeSid (scope s x).1 (scope s x).2 x.homeCore (s.gang x.gang).lrec.podGroup
    let waits (i : Instr) (m : BitVec 4) (pair : Bool) (ok : Act → State → Prop) (kind : Act → State → Nat)
        (id : Act → State → Word64) (operand : Act → Word64) (style : Nat) : Prop :=
      let o (aid : Nat) (x : Act) (h : Option Held) : Op :=
        { mkOp aid x i cl true false (if pair then [sreg d.toNat, sreg (d.toNat + 1)] else dstS d.toNat)
            (.bar d.toNat pair) with replay := barReplay (opcodeOf i) x d m h (operand x) }
      Completes i cl need (fun _ x s => x.ap = false ∧ ok x s)
        (fun _ aid x s => start (s.sendArrival aid (kind x s) (id x s) none (operand x) style)
          (o aid x (some { kind := kind x s, sid := id x s, num := x.arrivalCount (kind x s) (id x s) + 1 }))) ∧
      Completes i cl need (fun _ x s => x.ap = true ∧ ok x s) (fun _ aid x s => start s (o aid x x.held))
    waits (.bar mod d imm cl) mod false (fun _ _ => True) (fun x s => (scope s x).1) (fun x s => sid s x) (fun _ => 0) 0 ∧
    waits (.barred mod d a imm cl) mod true (fun _ _ => True) (fun x s => (scope s x).1) (fun x s => sid s x)
      (fun x => x.s a.toNat) (1 + imm.toNat / 64 % 4) ∧
    waits (.sstep d cl) 0 false (fun x s => (s.gang x.gang).lrec.bsp = true) (fun _ _ => 6)
      (fun x _ => BitVec.ofNat 64 (x.gang % 2 ^ 32)) (fun _ => 0) 0 ∧
    Raises (.sstep d cl) cl need (fun _ x s => (s.gang x.gang).lrec.bsp = false) (fun _ _ _ => mkTrap cLAUNCH 3) ∧
    Completes (.barw d cl) cl plainNeed (fun _ x _ => x.ap = true)
      (fun _ aid x s => start s { mkOp aid x (.barw d cl) cl true false (dstS d.toNat) (.bar d.toNat false) with
        replay := barReplay 0xA8 x d 0 x.held 0 }) ∧
    Raises (.barw d cl) cl plainNeed (fun _ x _ => x.ap = false) (fun _ _ _ => mkTrap cLAUNCH 2) ∧
    Completes (.bara mod imm cl) cl need (fun _ x _ => x.ap = true)
      (fun _ aid x s => start s (mkOp aid x (.bara mod imm cl) cl true false [] (.fixedTime []))) ∧
    Completes (.bara mod imm cl) cl need (fun _ x _ => x.ap = false)
      (fun _ aid x s =>
        let r := s.addOp (mkOp aid x (.bara mod imm cl) cl true false [] .bara)
        { st := r.2.sendArrival aid (scope s x).1 (sid s x) (some r.1) 0 0, op := some r.1 })

/-- R26..R28, R264..R267: TAKE and SHARE complete by sending their request to the work distributor. LAUNCH completes for a
record that stands in local memory and that no rule rejects, under a code capability with X, by submitting it; LAUNCHQ
completes with 0 for such a record, and with the detail that LAUNCH would raise for one with a fault. The model's choices,
where the rules leave them open: the order in which a record's faults are judged (log 17), and that no later word issues before
a LAUNCH that names a pod group is answered (log 8). -/
def Obligations.WorkAndLaunchComplete : Prop :=
  ∀ (d a b c : BitVec 6) (p n : Nat) (cl : Clauses),
    let record (s : State) (k : Nat) : LaunchRec := LaunchRec.ofBytes (s.lmRead k p 64)
    let readable (k : Nat) (x : Act) (s : State) : Prop := (x.s a.toNat).toNat % 64 = 0
      ∧ x.lmAddr (x.s a.toNat).toNat 64 = some p ∧ s.lmBusy k p 64 false = false ∧ s.lmPoisonOf k p 64 = none
      ∧ ((record s k).argPresent = true → x.live (kreg c.toNat) = true ∧ x.poison? (kreg c.toNat) = none)
    let code (x : Act) : KReg := x.k b.toNat
    let detail (k : Nat) (x : Act) (s : State) : Option Nat :=
      s.launchDetail x (s.lmRead k p 64) (record s k) (code x) (x.k c.toNat)
    let mayRun (x : Act) : Prop := (code x).valid = true ∧ (code x).reserved = false ∧ hasRights (code x).rights rX = true
    let answers (k : Nat) (x : Act) (aid : Nat) (s : State) (v : Word64) : Eff :=
      start s (mkOp aid x (.launchq d a b c cl) cl false false (dstS d.toNat) (.fixedTime [wS d.toNat v]))
    Completes (.take d cl) cl plainNeed always (fun k aid x s =>
      start s { mkOp aid x (.take d cl) cl true false (dstS d.toNat) (.take d.toNat k) with
        replay := { w0 := BitVec.ofNat 64 (0xAB * 2 ^ 56 + d.toNat * 2 ^ 50) } }) ∧
    Completes (.share d a cl) cl plainNeed always (fun _ aid x s =>
      start s { mkOp aid x (.share d a cl) cl true false (dstS d.toNat) (.share d.toNat (bits (x.s a.toNat) 31 0)) with
        replay := { w0 := BitVec.ofNat 64 (0xAC * 2 ^ 56 + d.toNat * 2 ^ 50)
                    w1 := BitVec.ofNat 64 (bits (x.s a.toNat) 31 0) } }) ∧
    Completes (.launch d a b c cl) cl plainNeed (fun k x s => readable k x s ∧ detail k x s = none ∧ mayRun x)
      (fun k aid x s =>
        let arg := if (record s k).argPresent then x.k c.toNat else {}
        let r := s.addOp (mkOp aid x (.launch d a b c cl) cl true false (dstS d.toNat)
          (.launch d.toNat (s.lmRead k p 64) (code x) arg))
        { st := r.2.setPart x.part { r.2.part x.part with submits := (r.2.part x.part).submits ++ [r.1] }
          op := some r.1, post := if (record s k).podGroup = 0 then .none else .verdict }) ∧
    Raises (.launch d a b c cl) cl plainNeed (fun k x s => readable k x s ∧ detail k x s = some n)
      (fun _ _ _ => mkTrap cLAUNCH n) ∧
    Completes (.launchq d a b c cl) cl plainNeed (fun k x s => readable k x s ∧ detail k x s = none ∧ mayRun x)
      (fun k aid x s => answers k x aid s 0) ∧
    Completes (.launchq d a b c cl) cl plainNeed (fun k x s => readable k x s ∧ detail k x s = some n)
      (fun k aid x s => answers k x aid s (BitVec.ofNat 64 n)) ∧
    Completes (.launchq d a b c cl) cl plainNeed (fun k x s => readable k x s ∧ detail k x s = none ∧ (code x).valid = false)
      (fun k aid x s => answers k x aid s 0xFF)

/-- R45, R46, R244, R245, R268..R270: CPY, CPYT and CPYW complete when they may be accepted, their fields are sound, the
device range is covered by the capability with the right the direction needs, and the local range lies in its allocation or
its stage: the transfer that the command describes joins the channel's queue. A channel that was not granted raises COPY.
The model's choices, where the rules leave them open: the order of a command's own faults (log 17) and the offset that
CAPBOUND reports (log 18). -/
def Obligations.RangeCopiesComplete : Prop :=
  ∀ (mod : BitVec 4) (d a b c : BitVec 6) (imm : BitVec 16) (ws : List Word64) (p base : Nat) (cl : Clauses),
    let n := imm.toNat / 16 % 16
    let ring : Option Nat := if mod = 4 then some (imm.toNat % 16) else none
    let right := if mod.toNat = 2 ∨ mod.toNat = 3 then rW else rR
    let f (i hi lo : Nat) : Nat := bits (ws[i]?.getD 0) hi lo
    let moves (i : Instr) (sound : Nat → Act → State → Prop) (dev loc own : Act → Nat) (what : Act → Xfer) : Prop :=
      Completes i cl plainNeed
        (fun k x s => s.MayCopy x n ring.toList ∧ sound k x s ∧ inStage s x mod.toNat (loc x) (own x) (imm.toNat % 16) = true
          ∧ devRange x a.toNat right (opcodeOf i) (x.s b.toNat) (dev x) = .ok p
          ∧ localBase s x (opcodeOf i) mod.toNat (loc x) (own x) (ring.getD 0) = .ok base)
        (fun k aid x s => accepted s k aid x i cl d n
          { cap := x.k a.toNat, off := p, dir := mod.toNat, loc := base, what := what x, ring := ring }) ∧
      Raises i cl plainNeed (fun _ x _ => x.granted n = false) (fun _ _ _ => mkTrap cCOPY (n + 0x100))
    let described (opcode : Nat) (ok : Prop) (k : Nat) (x : Act) (s : State) : Prop :=
      descBusy s k x (x.s c.toNat) = false ∧ descWords s k x opcode (x.s c.toNat) = .ok ws ∧ ok
    let len (x : Act) : Nat := bits (x.s c.toNat) 63 32
    let tw := 4 * 2 ^ f 0 57 56
    let cols := f 0 55 44 + 1
    let rows := f 0 43 32 + 1
    let src := (rows - 1) * f 1 31 0 + (cols * tw + 7) / 8
    let dst := (cols - 1) * f 1 63 32 + rows * tw / 8
    let out := mod.toNat = 2 ∨ mod.toNat = 3
    let ww := 4 * 2 ^ f 0 23 22
    let images := f 1 63 48
    let chs := f 1 47 32
    let wd := f 1 31 16
    let ht := f 1 15 0
    let pos := f 2 47 40 + 1
    let sx (hi lo : Nat) : Int := sextNat (f 3 hi lo) 16
    moves (.cpy mod d a b c imm cl)
      (fun _ x _ => bits (x.s c.toNat) 31 22 = 0 ∧ (x.s b.toNat).toNat % 64 = 0
        ∧ bits (x.s c.toNat) 21 0 % 64 = 0 ∧ len x % 64 = 0)
      len (fun x => bits (x.s c.toNat) 21 0) len (fun x => .cpy (len x)) ∧
    moves (.cpyt mod d a b c imm cl)
      (described 0xAF (f 0 63 58 = 0 ∧ f 0 31 22 = 0 ∧ (tw = 4 → rows % 2 = 0)))
      (fun _ => if out then dst else src) (fun _ => f 0 21 0) (fun _ => if out then src else dst)
      (fun _ => .cpyt tw rows cols (f 1 63 32) (f 1 31 0)) ∧
    moves (.cpyw mod d a b c imm cl)
      (described 0xB0 (f 0 31 24 = 0 ∧ f 2 63 48 = 0 ∧ f 4 63 32 = 0 ∧ ww ≠ 4 ∧ images ≠ 0 ∧ chs ≠ 0 ∧ chs ≤ 4096 ∧ wd ≠ 0
        ∧ ht ≠ 0 ∧ f 2 39 32 ≠ 0 ∧ f 2 31 16 ≠ 0 ∧ f 2 15 0 ≠ 0))
      (fun _ => images * ht * wd * chs * (ww / 8)) (fun _ => f 0 21 0) (fun _ => pos * chs * (ww / 8))
      (fun _ => .cpyw ww (f 0 63 32) images chs wd ht pos (f 2 39 32) (f 2 31 16) (f 2 15 0) (sx 63 48) (sx 47 32)
        (sx 31 16) (sx 15 0) (BitVec.ofNat 32 (f 4 31 0)))

/-- R231, R245, R252, R271..R273, R331: the indexed copies, the peer copy, the recast and the cut block complete when they
may be accepted and their descriptor, capabilities and ranges are sound: the transfer joins the channel's queue. A peer copy
needs R and G and makes the superstep not replayable; a recast takes a snapshot of the generator. The model's choices, where
the rules leave them open: the order of a command's own faults (log 17) and the offset that CAPBOUND reports (log 18). -/
def Obligations.IndexedPeerCutCopiesComplete : Prop :=
  (∀ (mod : BitVec 4) (d a b c : BitVec 6) (imm : BitVec 16) (ws : List Word64) (p pv ps base ip : Nat) (cl : Clauses),
     let n := imm.toNat / 16 % 16
     let line := imm.toNat / 256 % 16
     let f (i hi lo : Nat) : Nat := bits (ws[i]?.getD 0) hi lo
     let described (opcode : Nat) (k : Nat) (x : Act) (s : State) : Prop :=
       descBusy s k x (x.s c.toNat) = false ∧ descWords s k x opcode (x.s c.toNat) = .ok ws
     let size := 4 * 2 ^ f 0 24 22
     let m := f 1 16 0
     let indexed (i : Instr) (right dir : Nat) (what : Xfer) : Prop :=
       Completes i cl plainNeed
         (fun k x s => s.MayCopy x n [line] ∧ described (opcodeOf i) k x s
           ∧ f 0 63 51 = 0 ∧ f 0 31 25 = 0 ∧ f 1 63 17 = 0 ∧ f 0 24 22 ≠ 7 ∧ f 0 50 32 % 4 = 0 ∧ f 0 21 0 % size = 0
           ∧ m ≠ 0 ∧ m ≤ 65536 ∧ (x.k a.toNat).valid = true ∧ (x.k a.toNat).reserved = false
           ∧ hasRights (x.k a.toNat).rights right = true ∧ x.lmAddr (f 0 50 32) (4 * m) = some ip
           ∧ localBase s x (opcodeOf i) dir (f 0 21 0) (m * size) 0 = .ok base)
         (fun k aid x s => accepted s k aid x i cl d n
           { cap := x.k a.toNat, off := (x.k a.toNat).lo + (x.s b.toNat).toInt, dir := dir, loc := base
             line := some line, what := what })
     let len := f 0 63 32
     let fmt := f 0 36 32
     let desc := ws[3]?.getD 0
     let members (x : Act) : List (Nat × Nat) := x.gen.pat.cutMajor (bits desc 47 36) (bits desc 55 48 + 1)
     let sizes (x : Act) : Nat × Nat := recastSizes fmt (members x).length
     let range (x : Act) : Nat × Nat := masterRange (members x) (f 0 31 0)
     indexed (.cpyg 0 d a b c imm cl) rR 0 (.gather ip size m) ∧ indexed (.cpyg 1 d a b c imm cl) rR 1 (.gather ip size m) ∧
     indexed (.cpys 0 d a b c imm cl) rW 2 (.scatter ip size m) ∧
     indexed (.cpys 1 d a b c imm cl) rW 3 (.scatter ip size m) ∧
     Completes (.cpyp d a b c imm cl) cl plainNeed
       (fun k x s => s.MayCopy x n [] ∧ described 0xB3 k x s ∧ f 0 31 10 = 0 ∧ len % 64 = 0 ∧ f 1 39 0 % 64 = 0
         ∧ f 2 39 0 % 8 = 0 ∧ f 0 9 0 ≠ Config.packageNumber.toNat
         ∧ devRange x a.toNat (rR + rG) 0xB3 (x.s b.toNat) len = .ok p)
       (fun k aid x s =>
         let e := accepted s k aid x (.cpyp d a b c imm cl) cl d n
           { cap := x.k a.toNat, off := p, dir := 0, loc := 0
             what := .cpyp len (f 0 9 0) (f 1 63 40) (f 1 39 0) (f 2 63 40) (f 2 39 0) }
         { e with st := e.st.unreplayable x.gang }) ∧
     Completes (.cpyr d a b c imm cl) cl plainNeed
       (fun k x s => x.visitor = false ∧ x.gen.loaded = true ∧ s.MayCopy x n [] ∧ described 0xB4 k x s
         ∧ f 0 63 37 = 0 ∧ f 1 63 48 = 0 ∧ f 2 63 48 = 0 ∧ (tagScaled fmt = true ∨ tagBp fmt = true)
         ∧ f 1 47 0 % 64 = 0 ∧ f 2 47 0 % 64 = 0 ∧ x.gen.pat.limits = none
         ∧ cutDescBad desc x.gen.rows = false ∧ bits desc 23 0 = 0
         ∧ devRange x a.toNat rR 0xB4 (x.s b.toNat + BitVec.ofNat 64 (range x).1) (range x).2 = .ok p
         ∧ devRange x line rW 0xB4 (BitVec.ofNat 64 (f 1 47 0)) (sizes x).1 = .ok pv
         ∧ devRange x line rW 0xB4 (BitVec.ofNat 64 (f 2 47 0)) (sizes x).2 = .ok ps)
       (fun k aid x s => accepted s k aid x (.cpyr d a b c imm cl) cl d n
         { cap := x.k a.toNat, off := (p : Int) - (range x).1, dir := 2, loc := 0
           what := .cpyr fmt (f 0 31 0) (x.k line).object pv ps (bits desc 47 36) (bits desc 55 48 + 1) x.gen })) ∧
  (∀ (d a b c : BitVec 6) (imm : BitVec 16) (base : Nat) (cl : Clauses),
     let n := imm.toNat / 16 % 16
     let ring := imm.toNat % 16
     let kb (x : Act) : Nat := bits (x.s a.toNat) 23 0
     let rows (x : Act) : Nat := bits (x.s a.toNat) 47 24 - kb x
     let bytes (x : Act) : Nat := 64 * (tagWidth x.fb / 8)
     let stride (x : Act) : Nat := bits (x.s c.toNat) 31 0
     let col0 (x : Act) : Nat := bits (x.s c.toNat) 63 32
     Completes (.cutb d a b c imm cl) cl plainNeed
       (fun _ x s => x.visitor = false ∧ x.gen.loaded = true ∧ x.cut.isSet = true ∧ x.gen.pat.limits = none
         ∧ plainFmt x.fb = true ∧ s.MayCopy x n [ring]
         ∧ rows x ≤ stageRows (s.ring x.quad ring) x.fb
         ∧ (x.k b.toNat).valid = true ∧ (x.k b.toNat).reserved = false ∧ hasRights (x.k b.toNat).rights rR = true
         ∧ (∀ r < rows x, ∃ q, capCheck (x.k b.toNat) b.toNat rR 0x98
             (BitVec.ofNat 64 (col0 x + (kb x + r) * stride x)) (bytes x) = .ok q)
         ∧ localBase s x 0x98 4 0 (rows x * bytes x) ring = .ok base)
       (fun k aid x s => accepted s k aid x (.cutb d a b c imm cl) cl d n
         { cap := x.k b.toNat, off := (x.k b.toNat).lo + col0 x, dir := 4, loc := base, ring := some ring
           what := .rows (kb x) (rows x) (bytes x) (stride x) }) ∧
     Raises (.cutb d a b c imm cl) cl plainNeed
       (fun _ x _ => x.visitor = false ∧ x.gen.loaded = true ∧ x.cut.isSet = false)
       (fun _ _ _ => mkTrap cCUTTER 2))

/-- R45, R46, R246, R249, R253..R255, R274..R277, R331, R343: a wait on a granted channel, ring or line whose condition holds
completes, and one that finds a fault raises COPY with reason 4; status is read; a cancelled channel is cleared; a stage is
released, and fills that waited for it land, unless none is filled, which raises STAGE 6; a ring's descriptor is written when no
fill is outstanding; a line is cleared; MOULD and TMARK complete. The model's choices, where the rules leave them open: that a
wait issues once its condition holds, as a tagged word whose tag clears afterwards (log 36), and that what changes a halted
quad's engine waits (log 64). -/
def Obligations.EngineControlMouldMarkComplete : Prop :=
  (∀ (mod : BitVec 4) (d a : BitVec 6) (imm : BitVec 16) (cl : Clauses),
     let ring := imm.toNat % 16
     let n := imm.toNat / 16 % 16
     let line := imm.toNat / 256 % 16
     let completes (i : Instr) (dsts : List RegName) (r : Nat) (ok : Act → State → Prop) (ws : Act → State → List RegWrite) :
         Prop :=
       Completes i cl plainNeed (fun _ x s => x.granted r = true ∧ ok x s)
         (fun _ aid x s => start s { mkOp aid x i cl true false dsts (.fixedTime (ws x s)) with wide := true })
     let faults (i : Instr) (r : Nat) (ok : Act → State → Prop) (t : Act → State → Trap) : Prop :=
       Raises i cl plainNeed (fun _ x s => x.granted r = true ∧ ok x s) (fun _ x s => t x s)
     let low (x : Act) : BitVec 32 := (x.s a.toNat).setWidth 32
     let chan (s : State) (x : Act) : Chan := s.chan x.quad n
     let rg (s : State) (x : Act) : Ring := s.ring x.quad ring
     let since (x y : BitVec 32) : Nat := (x - y).toNat
     let cut (x : Act) (s : State) : Prop := low x ≠ 0 ∧ (chan s x).faulted = true ∧ since (low x) (chan s x).fid < 2 ^ 31
     let done (x : Act) (s : State) : Prop := 1 ≤ since (chan s x).wm (low x) ∧ since (chan s x).wm (low x) ≤ 2 ^ 31
     let filled (x : Act) (s : State) : Prop := 1 ≤ since (rg s x).f (low x) ∧ since (rg s x).f (low x) ≤ 2 ^ 31
     let badFill (x : Act) (s : State) : Option (BitVec 32 × Nat × Nat) := (rg s x).badFills.find? (fun b => b.1 == low x)
     let coords (x : Act) (s : State) : Word64 :=
       let i := (low x).toNat % ((rg s x).count + 1)
       BitVec.ofNat 64 (((rg s x).base + i * (((rg s x).size + 1) * 64)) % 2 ^ 22
         + (sparseGet 0 (rg s x).gen i).toNat * 2 ^ 32)
     let v (x : Act) : Word64 := x.s a.toNat
     let new (x : Act) : Ring := { count := bits (v x) 43 36, size := bits (v x) 35 22, base := bits (v x) 21 0 }
     completes (.cpwait a imm cl) [] n (fun x s => low x = 0 ∨ (¬ cut x s ∧ done x s)) (fun _ _ => []) ∧
     faults (.cpwait a imm cl) n cut (fun x s => mkTrap cCOPY (n + 0x400 + (chan s x).cause.toNat * 2 ^ 16)) ∧
     completes (.stgwait d a imm cl) (dstS d.toNat) ring (fun x s => filled x s ∧ badFill x s = none)
       (fun x s => if d = 0 then [] else [wS d.toNat (coords x s)]) ∧
     (∀ (f : BitVec 32) (ch cause : Nat), faults (.stgwait d a imm cl) ring
       (fun x s => filled x s ∧ badFill x s = some (f, ch, cause))
       (fun _ _ => mkTrap cCOPY (ch % 16 + 0x400 + cause * 2 ^ 16))) ∧
     completes (.evwait imm cl) [] line (fun x s => (s.line x.quad line).set = true ∧ (s.line x.quad line).bad = false)
       (fun _ _ => []) ∧
     faults (.evwait imm cl) line (fun x s => (s.line x.quad line).set = true ∧ (s.line x.quad line).bad = true)
       (fun _ _ => mkTrap cCOPY (line + 0x400)) ∧
     (mod.toNat ≤ 2 → Completes (.cpstat mod d imm cl) cl plainNeed (fun _ x _ => x.granted n = true)
       (fun _ _ x s => writeS s 1 d.toNat (match mod.toNat with
         | 0 => BitVec.ofNat 64 ((if (chan s x).faulted then 2 ^ 63 else 0) + (chan s x).cause.toNat * 2 ^ 48
             + (chan s x).vcount.toNat * 2 ^ 32 + (chan s x).wm.toNat)
         | 1 => (chan s x).fid ++ (chan s x).nx
         | _ => (chan s x).addr.setWidth 64))) ∧
     Completes (.cpcan imm cl) cl plainNeed (fun _ x s => x.granted n = true ∧ (s.quad x.quad).halting = false)
       (fun _ aid x s => start ((s.clearChan x.quad n).settleWaits x.quad)
         (mkOp aid x (.cpcan imm cl) cl false false [] (.fixedTime []))) ∧
     Completes (.stgrel imm cl) cl plainNeed
       (fun _ x s => x.granted ring = true ∧ (rg s x).e ≠ (rg s x).f ∧ (s.quad x.quad).halting = false)
       (fun _ _ x s =>
         let r : Ring := { rg s x with e := (rg s x).e + 1 }
         change ((s.setRing x.quad ring (r.land r.landing.length)).settleWaits x.quad)) ∧
     Raises (.stgrel imm cl) cl plainNeed
       (fun _ x s => x.granted ring = true ∧ (s.ring x.quad ring).e = (s.ring x.quad ring).f)
       (fun _ _ _ => mkTrap cSTAGE 6) ∧
     Completes (.stgset a imm cl) cl plainNeed
       (fun _ x s => x.granted ring = true ∧ bits (v x) 63 44 = 0 ∧ bits (v x) 21 0 % 64 = 0
         ∧ x.qsOk (bits (v x) 21 0) ((bits (v x) 43 36 + 1) * ((bits (v x) 35 22 + 1) * 64)) = true
         ∧ (s.ring x.quad ring).commanded = (s.ring x.quad ring).f)
       (fun _ _ x s => change ((s.setRing x.quad ring (new x)).clearBindings x.quad ring)) ∧
     Completes (.evclr imm cl) cl plainNeed (fun _ x s => x.granted line = true ∧ (s.quad x.quad).halting = false)
       (fun _ _ x s => change (s.setLine x.quad line {})) ∧
     Raises (.evclr imm cl) cl plainNeed (fun _ x _ => x.granted line = false)
       (fun _ _ _ => mkTrap cCOPY (line + 0x100))) ∧
  (∀ (d a : BitVec 6) (imm : BitVec 16) (cl : Clauses),
     let results (aid : Nat) (x : Act) (v : Word64) : Op :=
       mkOp aid x (.mould 0 d cl) cl false false (dstS d.toNat) (.fixedTime (if d = 0 then [] else [wS d.toNat v]))
     Completes (.mould 0 d cl) cl plainNeed (fun _ x s => (s.gang x.gang).lrec.bsp = false)
       (fun _ aid x s => start s (results aid x 0)) ∧
     Completes (.mould 0 d cl) cl plainNeed (fun _ x s => (s.gang x.gang).lrec.bsp = true)
       (fun k aid x s =>
         let fine := !(s.gang x.gang).badCores.contains k && !(s.gang x.gang).badQuads.contains (coreQuad k)
         start s (results aid x (BitVec.ofNat 64 ((if fine then 2 ^ 32 else 0)
           + (s.quad (coreQuad k)).mould.length % 2 ^ 16 * 2 ^ 16 + (s.core k).mould.length % 2 ^ 16)))) ∧
     Completes (.mould 1 d cl) cl plainNeed always
       (fun _ aid x s => start (s.unreplayable x.gang) (mkOp aid x (.mould 1 d cl) cl false false [] (.fixedTime []))) ∧
     Completes (.tmark a imm cl) cl plainNeed (fun k x s => s.traced k x.slot = false) (fun _ _ _ s => change s) ∧
     Completes (.tmark a imm cl) cl plainNeed (fun k x s => s.traced k x.slot = true)
       (fun _ _ x s => change (s.markRecord x imm.toNat (x.s a.toNat) x.pc)))

/-! ## Device events: each happens in every state that enables it -/

/-- R25, R44, R99, R105, R113, R148, R160, R200, R208, R258, R295, R298: a unit that has finished writes its results and
clears its word's tag, once an earlier write of the same register has been made. The port passes from a context that gives
it up and to the next ready slot; a pending trap is entered once its tags allow it, an interrupt that is due is taken, a
timer's match is recorded, TIMECMP and EXTPEND are written; a machine check is counted, posted, and taken by the context
that holds the port, which the spec leaves open (the model's choice, log 30). The model's choices, where the rules leave
them open: when results may land (log 22), the order of interrupts (log 54), and that a handler runs on while its quad is
halted (log 64). -/
def Obligations.UnitAndContextEventsHappen : Prop :=
  (∀ (core aid oid : Nat) (o : Op) (rest : List Nat) (w : MatWord) (d n off len : Nat) (x : Word64) (sx : Bool)
       (bs : List Byte) (mask : List Bool) (tag : BitVec 5) (bw : BitVec 32) (offs : List (Nat × Nat))
       (items : List (Nat × BitVec 32)) (ws : List RegWrite),
     let gang (s : State) : Nat := (s.act o.act).gang
     let done (s : State) (k : OpKind) : Prop := s.op? oid = some o ∧ o.kind = k ∧ s.canLand o = true
     Happens (.fixedLatencyWriteback core) (fun s => s.portAct core = some aid)
       (fun s => s.setAct aid ((s.act aid).landDue (s.core core).cycle)) ∧
     Happens (.divideComplete core)
       (fun s => s.ops.find? (fun y => y.2.kind.divOn core) = some (oid, o) ∧ o.kind = .div core d x ∧ s.canLand o = true)
       (fun s => s.clearTag oid o (if d = 0 then [] else [wS d x])) ∧
     Happens (.matrixUnitWordDone core)
       (fun s => (s.core core).mqueue = oid :: rest ∧ s.op? oid = some o ∧ o.kind = .matrix core w ∧ s.matReady o w = true)
       (fun s => s.matPerform core oid o w) ∧
     Happens (.onQuadAccessDone oid)
       (fun s => done s (.ldq core off n sx d) ∧ d ≠ 0 ∧ s.scratchTurn o = true ∧ s.qsPoisonOf core off n = none)
       (fun s => s.clearTag oid o [wS d (extendLoad sx (s.qsRead core off n))]) ∧
     Happens (.onQuadAccessDone oid) (fun s => done s (.stq core off bs mask) ∧ s.scratchTurn o = true)
       (fun s => ((s.boundOf o).qsWrite (gang s) core off bs mask (decide (bs.length = 64))).clearTag oid o []) ∧
     Happens (.onQuadAccessDone oid)
       (fun s => done s (.vldq core off tag bw d) ∧ s.scratchTurn o = true ∧ s.qsPoisonOf core off 64 = none)
       (fun s => s.clearTag oid o
         [wV d { data := BitVec.ofNat 512 (bytesToNat (s.qsRead core off 64)), tag := tag, bw := bw }]) ∧
     Happens (.onQuadAccessDone oid)
       (fun s => done s (.gather core offs tag d) ∧ ∀ y ∈ offs, s.lmPoisonOf core y.2 4 = none)
       (fun s => s.clearTag oid o [wV d { tag := tag, data := vecOf 32 ((List.range 16).map (fun i =>
         match offs.find? (fun y => y.1 == i) with | some y => bytesToNat (s.lmRead core y.2 4) | none => 0)) }]) ∧
     Happens (.onQuadAccessDone oid) (fun s => done s (.scatter core items))
       (fun s => (items.foldl (fun (u : State) y =>
         u.lmWrite (gang s) core y.1 (natToBytes 4 y.2.toNat) (List.replicate 4 true) false) s).clearTag oid o []) ∧
     Happens (.generatorCutterDone oid) (fun s => done s (.gen core ws)) (fun s => s.clearTag oid o ws) ∧
     Happens (.fixedTimeTagClear oid) (fun s => done s (.fixedTime ws)) (fun s => s.clearTag oid o ws) ∧
     Happens (.fixedTimeTagClear oid) (fun s => s.op? oid = some o ∧ o.kind = .xlug core d off len)
       (fun s => (s.luggageCopy (gang s) core d off len).clearTag oid o [])) ∧
  (∀ (core aid h n : Nat) (t : TrapReq) (v record : Word64),
     let here (s : State) : Prop := (tableGet? s.acts aid).isSome = true
     let posted (s : State) : State := s.setCore core { s.core core with mcstat := postCheck (s.core core).mcstat record }
     let counted (s : State) : State :=
       (posted s).setDie (coreDie core) { (posted s).die (coreDie core) with
         ueCount := ((posted s).die (coreDie core)).ueCount + 1 }
     Happens (.contextSwitch core) (fun s => (s.core core).holder = some h ∧ s.givesUp core h = true)
       (fun s => s.switchPort core) ∧
     Happens (.portResume core) (fun s => (s.core core).holder = none ∧ s.ringFind core (s.core core).last 8 = some n)
       (fun s => s.passPort core (some n)) ∧
     Happens (.trapEntry aid)
       (fun s => (s.act aid).duePend = some t ∧ (s.act aid).run = .inService ∧ s.quiet aid = true
         ∧ (s.haltedCore (s.act aid).core = false ∨ (s.act aid).tip = true))
       (fun s => (s.setAct aid { s.act aid with trapPend := none }).enterTrap aid t) ∧
     Happens (.timerMatch aid) (fun s => here s ∧ s.timerDue (s.act aid) = true)
       (fun s => s.setAct aid { s.act aid with timerPend := true }) ∧
     Happens (.interruptTaken aid)
       (fun s => s.interruptOf (s.act aid) = some t ∧ (s.act aid).trapPend = none ∧ (s.act aid).run = .inService
         ∧ s.haltedCore (s.act aid).core = false)
       (fun s => s.takeTrap aid t) ∧
     Happens (.timecmpWrite aid v) here (fun s => s.setAct aid ((s.act aid).setTimecmp v)) ∧
     Happens (.extpendWrite aid v) here (fun s => s.setAct aid ((s.act aid).setExtpend v)) ∧
     Happens (.machineCheckError core record) (fun s => core < 2048 ∧ (counted s).portAct core = some aid)
       (fun s => (counted s).takeTrap aid
         { cause := cMCHECK, detail := ((counted s).core core).mcstat &&& 0x00FFFFFFFFFFFFFF, addr := 0
           word := ((counted s).act aid).pc }) ∧
     Happens (.machineCheckError core record) (fun s => core < 2048 ∧ (counted s).portAct core = none) counted)

/-- R50, R153..R155, R161..R165, R286: a request that may be performed at its home port is performed there, after the
reductions merged on its line; a load keeps the bytes that stand there, a store writes its bytes, an atomic replaces the
element and keeps the old one, and a reduction merges. A reply writes its register and clears the tag; an accepted store
clears its tag; an acquire wider than its core clears the L1 as its tag clears. The model's choices, where the rules leave
them open: where an accepted store stands until it is performed (log 45), when a load fills its L1 line (log 14), and
accesses of the window (log 12). -/
def Obligations.HomePortEventsHappen : Prop :=
  ∀ (rid aid core line oid : Nat) (q : Req) (rep : Reply) (o : Op) (r : RegName) (answers : Bool) (sx : Bool)
      (bs : List Byte) (mask : List Bool) (tag : BitVec 5) (bw : BitVec 32) (opc sub cond : Nat) (y new : Word64) (l : L1Line),
    let at_ (s : State) (k : ReqKind) : Prop :=
      s.req? rid = some q ∧ s.mayPerform rid q = true ∧ q.path ≠ .window ∧ q.kind = k
    let applied (s : State) : State := (s.applyLine (q.addr / 64)).mcRead (q.addr / 64)
    let answered (s : State) (k : ReqKind) : Prop :=
      s.req? rid = some q ∧ q.performed = some rep ∧ s.op? q.op = some o ∧ q.kind = k ∧ s.canLand o = true
        ∧ o.kind = .device (some r) answers
    let ends (s : State) (v : RegVal) : State :=
      ({ s with reqs := tableErase s.reqs rid }).clearTag q.op o [{ reg := r, val := v, poison := rep.poison }]
    Happens (.homePortAccess rid) (fun s => at_ s (.load sx))
      (fun s => (((applied s).loadFill rid q).readAt rid q false).dropDone rid) ∧
    Happens (.homePortAccess rid) (fun s => at_ s (.store bs mask))
      (fun s => (((applied s).homeWrite (some (q.gang, q.core)) q.addr bs mask (bs.length == 64) false q.gp q.owner).reply
        rid q {}).dropDone rid) ∧
    Happens (.homePortAccess rid) (fun s => at_ s (.atomic opc sub y new) ∧ s.mergeable q opc = true)
      (fun s => ((s.mergeIn q opc sub y).reply rid q {}).dropDone rid) ∧
    Happens (.homePortAccess rid)
      (fun s => at_ s (.atomic opc sub y new) ∧ s.mergeable q opc = false ∧ opc ≠ 0x52
        ∧ (applied s).devPoisonOf q = none)
      (fun s =>
        let old := (applied s).memRead q.addr q.bytes
        let v := natToBytes q.bytes (atomicNew opc sub q.bytes (bytesToNat old) y.toNat new.toNat)
        (((applied s).homeWrite (some (q.gang, q.core)) q.addr v (v.map (fun _ => true)) false false q.gp q.owner).reply
          rid q { data := old }).dropDone rid) ∧
    Happens (.deviceLoadReturn rid) (fun s => answered s (.load sx)) (fun s => ends s (.w (extendLoad sx rep.data))) ∧
    Happens (.deviceLoadReturn rid) (fun s => answered s (.vload tag bw))
      (fun s => ends s (.v { data := BitVec.ofNat 512 (bytesToNat rep.data), tag := tag, bw := bw })) ∧
    Happens (.deviceLoadReturn rid) (fun s => answered s .cload)
      (fun s => ends s (.k { bits := BitVec.ofNat 128 (bytesToNat rep.data), valid := rep.tag })) ∧
    Happens (.atomicReply rid) (fun s => answered s (.atomic opc sub y new))
      (fun s => ends s (.w (extendLoad false rep.data))) ∧
    Happens (.waitmemSatisfied rid) (fun s => answered s (.wait cond y) ∧ rep.poison = none ∧ rep.void = false)
      (fun s => ends s (.w (extendLoad false rep.data))) ∧
    Happens (.storeAccepted rid)
      (fun s => s.req? rid = some q ∧ s.mayAccept rid q = true ∧ q.performed = none ∧ s.op? q.op = some o
        ∧ o.kind = .device none false)
      (fun s => ((s.accept rid q).boundOf o).clearTag q.op o []) ∧
    (∀ s : State, (∀ x ∈ s.reqs, x.1 = rid → x.2 = q) → (s.accept rid q).req? rid = some { q with
      accepted := true, arrived := if q.arrived = 0 then s.fresh else q.arrived }) ∧
    Happens (.reductionMergeApply line) (fun _ => True) (fun s => s.applyLine line) ∧
    Happens (.releaseWaitDone aid)
      (fun s => (s.act aid).block = some .release ∧ s.memBusy aid = false
        ∧ ∀ x ∈ s.ops, x.2.act = aid → x.2.kind ≠ .fence)
      (fun s => s.setAct aid { s.act aid with block := none }) ∧
    Happens (.releaseWaitDone aid)
      (fun s => (s.act aid).block ≠ some .release
        ∧ s.ops.find? (fun x => x.2.act == aid && x.2.kind == .fence && s.memDone aid x.2.num) = some (oid, o))
      (fun s => s.clearTag oid o []) ∧
    Happens (.l1LineExpiry core line) (fun s => tableGet? (s.core core).l1 line = some l) (fun s => s.l1Drop core line)

/-- R152, R170, R253, R307..R310: a walk that has one of its port's 16 walkers ends for every request of its page: one that
succeeds enters its translation and lets its word, its transfer or its PFETCH go on; one that fails raises its fault, faults its
channel, or is dropped; an invalidation joins a queue that is not full,
and completes when no access of its page is left; a migration copies the page, then what was written since, and counts its
rounds; its freeze performs what is queued at the old frame, copies the last dirty lines, puts the new frame into the leaf,
drops the old translation, sends held accesses to the new frame, and reports the lines and rounds in MIGSTAT. The model's
choices, where the rules leave them open: that a walk is one event (log 24), and that each round and the freeze of a
migration are atomic (log 25). -/
def Obligations.TranslationEventsHappen : Prop :=
  ∀ (aid q n part leaf : Nat) (id : BitVec 32) (msc : Bool) (v : Word64) (e : OtcEntry) (t : Trap) (m : Migration)
      (w : WalkReq) (x : Transfer) (later : List Transfer) (page : Nat × Nat × Nat × Option Nat) (rest : List (Nat × Word64)),
    let here (s : State) : Prop := (tableGet? s.acts aid).isSome = true
    let dropped (s : State) : State := { s with walks := s.walks.filter (fun b => b != w) }
    let freed (s : State) : State := (dropped s).setAct w.act { s.act w.act with block := none }
    let cached (s : State) : State := s.setCore w.core ((s.core w.core).otcUse e)
    let alone (s : State) (who : WalkFor) (r : Except Trap (OtcEntry × Nat)) : Prop :=
      s.walkOf aid = some page ∧ s.walkers page = [w] ∧ w.who = who
        ∧ (dropped s).walk w.part
          { object := w.object, offset := w.offset, bytes := w.bytes, write := w.write, atom := w.atom } = r
    Happens (.translationWalk aid) (fun s => s.walkOf aid = some page) (fun s => (s.walkers page).foldl State.endWalk s) ∧
    Happens (.translationWalk aid) (fun s => alone s .word (.ok (e, leaf))) (fun s => cached (freed s)) ∧
    Happens (.translationWalk aid) (fun s => alone s .word (.error t)) (fun s => (freed s).raise w.act t) ∧
    Happens (.translationWalk aid) (fun s => alone s (.engine q n id) (.ok (e, leaf))) (fun s => cached (dropped s)) ∧
    Happens (.translationWalk aid)
      (fun s => alone s (.engine q n id) (.error t) ∧ (s.chan q n).queue = x :: later)
      (fun s => ((dropped s).faultChan q n x t.cause w.offset).settleWaits q) ∧
    Happens (.translationWalk aid) (fun s => alone s (.ahead msc) (.ok (e, leaf)))
      (fun s => (dropped s).lineAhead w.core msc e w.offset) ∧
    Happens (.translationWalk aid) (fun s => alone s (.ahead msc) (.error t)) dropped ∧
    (∀ (s : State) (b : WalkReq), b ∈ s.walkers page ↔ b ∈ s.walks ∧ s.walkWanted b = true ∧ s.walkPage b = page) ∧
    (∀ s : State, s.walkOf aid = some page → s.walkRuns page = true ∧ ∃ b ∈ s.walkers page, b.act = aid) ∧
    Happens (.otinvWrite aid v) (fun s => here s ∧ (s.part (s.act aid).part).otinv.length < 16) (fun s => s.otinvPut aid v) ∧
    Happens (.invalidationComplete part)
      (fun s => (s.part part).otinv = (aid, v) :: rest ∧ (s.dropOtc part (invMatches v)).usesPage part (invMatches v) = false)
      (fun s => (s.dropOtc part (invMatches v)).setPart part
        { (s.dropOtc part (invMatches v)).part part with otinv := rest }) ∧
    Happens (.migreqWrite aid v) here (fun s => s.migRequest aid v) ∧
    Happens (.migrationRound aid) (fun s => (s.act aid).mig = some m ∧ m.ready = false)
      (fun s =>
        let s' := (if m.rounds = 0 then m.lines else m.dirty).foldl (fun (u : State) l => u.moveLine m l) s
        s'.setAct aid { s'.act aid with mig := some { m with rounds := m.rounds + 1, dirty := [] } }) ∧
    Happens (.migrationFreeze aid) (fun s => (s.act aid).mig = some m ∧ m.ready = true)
      (fun s =>
        -- what is queued or merged at the old frame is performed there
        let s1 := m.lines.foldl (fun (u : State) l =>
          if u.merges.any (fun x => x.addr / 64 == l) then u.applyLine l else u) (s.performQueued m.lines)
        let dirty : List Nat := match (s1.act aid).mig with | some x => x.dirty | none => []
        -- the lines written since the last round are copied
        let s2 := dirty.foldl (fun (u : State) l => u.moveLine m l) s1
        -- the leaf names the new frame, its flags kept
        let s3 := s2.schedWrite m.leaf
          (wordBytes64 8 ((s2.memWord m.leaf &&& 0xE000000000000000) ||| BitVec.ofNat 64 m.newFrame))
        -- no core holds the old translation, and held accesses go on at the new frame
        let s4 := ((s3.dropOtc (s.act aid).part (fun o p => o == m.object && p == m.page)).shiftFrame (s.act aid).part
          m).l1Forget m.newFrame (2 ^ pageShift m.psize)
        s4.setAct aid { s4.act aid with
          mig := none, migstat := BitVec.ofNat 64 (dirty.length % 2 ^ 16 * 2 ^ 16 + m.rounds % 2 ^ 16) })

/-- R266, R311, R312, R314, R317, R319, R320, R323: KICKSET sets bits and begins a scan, KICKCLR clears bits, HOSTIRQ raises
the line; DRAIN and a change of LQBASE's valid bit are journaled before they take effect; a kicked slot is copied whole,
then checked and its outcome journaled; the oldest entry is written at its place, and only then its action takes effect; a
LAUNCH is refused while the partition drains, while its own gang is being ended, and when the waiting table is full, and
otherwise accepted; a waiting launch whose counter is reached becomes eligible. The model's choices, where the rules leave
them open: that one action is on its way at a time and takes effect with the acceptance of its entry (log 33). -/
def Obligations.SchedulerIntakeHappens : Prop :=
  (∀ (part q : Nat) (v : Word64) (host : Bool),
     let p (s : State) : Part := s.part part
     let openE : JEntry × JAction := ({ kind := 9, queue := q }, .qopen q (v &&& 0xE700FFFFFFFFF000))
     Happens (.kicksetWrite part q v) (fun _ => q < 64)
       (fun s => s.setPart part ({ p s with
         kickset := sparseSet 0 (p s).kickset q (sparseGet 0 (p s).kickset q ||| v) } : Part).rescan) ∧
     Happens (.kickclrWrite part q v) (fun _ => q < 64)
       (fun s => s.setPart part { p s with
         kickset := sparseSet 0 (p s).kickset q (sparseGet 0 (p s).kickset q &&& ~~~v) }) ∧
     Happens (.hostirqWrite part) (fun _ => True) (fun s => s.setPart part { p s with hostIrq := (p s).hostIrq + 1 }) ∧
     Happens (.lqbaseWrite part q v false)
       (fun s => q < 64 ∧ (p s).jpend = [] ∧ (s.queue part q).lqbase.getLsbD 63 = false ∧ v.getLsbD 63 = true)
       (fun s => s.journal part openE.1 openE.2) ∧
     Happens (.lqbaseWrite part q v host)
       (fun s => q < 64 ∧ (p s).jpend = [] ∧ (s.queue part q).lqbase.getLsbD 63 = true ∧ v.getLsbD 63 = false)
       (fun s => s.journal part { kind := 10, queue := q }
         (.qclose q (lqbaseStored (s.queue part q).lqbase v host &&& 0x7FFFFFFFFFFFFFFF))) ∧
     Happens (.drainWrite part v) (fun _ => v.getLsbD 0 = true)
       (fun s => s.journal part { kind := 11, code := 1 } (.drain true)) ∧
     Happens (.drainWrite part v) (fun _ => v.getLsbD 0 = false)
       (fun s => s.journal part { kind := 11, code := 0 } (.drain false)) ∧
     Happens (.kickScan part) (fun s => (p s).lastScan + 100 ≤ s.tick)
       (fun s => s.setPart part { (p s).rescan with lastScan := s.tick })) ∧
  (∀ (part n gid op d : Nat) (k : KickCopy) (e : JEntry) (x : JAction) (rest : List (JEntry × JAction)) (o : Op)
       (ops : List Nat) (bytes : List Byte) (code arg : KReg),
     let p (s : State) : Part := s.part part
     let submitted (s : State) : Prop :=
       s.schedFree part = true ∧ (p s).submits = op :: ops ∧ s.op? op = some o ∧ o.kind = .launch d bytes code arg
         ∧ s.memDone o.act o.num = true
     let taken (s : State) : State := s.setPart part { p s with submits := ops }
     let by_ (s : State) : Gang := s.gang (s.act o.act).gang
     Happens (.kickTake part) (fun s => s.schedFree part = true ∧ (p s).copy = none ∧ s.nextKick part = some n)
       (fun s =>
         let a := (s.queue part (n / 64)).addr (bits (s.queue part (n / 64)).lqbase 47 12 * 4096 + 64 * (n % 64))
         let t := s.portTurn (a / 64)
         t.setPart part { t.part part with
           copy := some { n := n, bytes := t.memRead a 64, drainBefore := !(t.part part).drain } }) ∧
     Happens (.kickTake part) (fun s => s.schedFree part = true ∧ (p s).copy = some k) (fun s => s.kickCheck part k) ∧
     Happens (.journalEntryAccepted part) (fun s => s.armatureLive = true ∧ (p s).jpend = (e, x) :: rest)
       (fun s =>
         let t := (s.setPart part { p s with jpend := rest }).schedWrite
           ((p s).jbase + 64 * (((p s).jseq - 1) % max (p s).jlen 1)) (e.bytes (p s).jseq)
         (t.setPart part { t.part part with jseq := (p s).jseq + 1, jckpt := w64 ((p s).jseq + 1) }).perform part
           (p s).jseq x) ∧
     Happens (.launchSubmission part) (fun s => submitted s ∧ (p s).drain = true)
       (fun s => (taken s).refuseLaunch op o 1) ∧
     Happens (.launchSubmission part)
       (fun s => submitted s ∧ (p s).drain = false ∧ (by_ s).endPend = none ∧ (by_ s).stage = .eligible
         ∧ ((LaunchRec.ofBytes bytes).depPresent = true → (p s).waiting.length < 1024)
         ∧ ((LaunchRec.ofBytes bytes).podGroup ≠ 0 →
           (taken s).podAccepts part (LaunchRec.ofBytes bytes).podGroup = true))
       (fun s => (taken s).newGang part bytes code arg none (fun g => .launched op g 0)) ∧
     Happens (.launchSubmission part)
       (fun s => submitted s ∧ (p s).drain = false ∧ ((by_ s).endPend.isSome = true ∨ (by_ s).stage ≠ .eligible))
       (fun s => (taken s).refuseLaunch op o 3) ∧
     Happens (.launchSubmission part)
       (fun s => submitted s ∧ (p s).drain = false ∧ (by_ s).endPend = none ∧ (by_ s).stage = .eligible
         ∧ (LaunchRec.ofBytes bytes).depPresent = true ∧ 1024 ≤ (p s).waiting.length)
       (fun s => (taken s).refuseLaunch op o 2) ∧
     Happens (.dependenceThreshold part gid)
       (fun s => s.schedFree part = true ∧ (s.gang gid).part = part ∧ (s.gang gid).stage = .waiting
         ∧ (s.gang gid).depHit = true ∧ (s.gang gid).endPend = none)
       (fun s => s.journal part { kind := 3, queue := (s.gang gid).jqueue, slot := (s.gang gid).jslot, gang := gid }
         (.eligible gid)))

/-- R18, R20, R21, R34, R35, R37, R299, R302, R303, R313, R328, R332, R333, R350: the next crew of a gang is dispatched where it
fits, and swapped in where it was swapped out, or, evacuated where no quad can take it back, ends its gang; a context is pre-empted, or resumes; the stall sweep takes out the crew parked
longest; the cycle check ends a gang, and so does the watchdog once a count has reached its limit; a complete gang's COMPLETE entry is
journaled; one that is to end is ended with its grade; a gang whose fault a replay can undo is rolled back once its activities can be stopped. The model's
choices, where the rules leave them open: what makes room for class 0 (logs 34, 62), which crew a sweep finds due (log 63),
the place of a crew's image (log 37), and the ending of a gang whose slots or moulds are gone (log 49). -/
def Obligations.CrewAndGangEventsHappen : Prop :=
  (∀ (gid n t c aid : Nat) (q : Place) (cr : Crew),
     let ready (s : State) : Prop := s.dispatchable gid = true ∧ s.outranked (s.gang gid) = false
     let fits (s : State) : Prop := s.findPlace s.holdings gid (s.gang gid) = some q
     Happens (.crewDispatch gid)
       (fun s => (s.gang gid).due = some (n, false) ∧ ready s ∧ s.placeable false (s.gang gid).part (s.gang gid).lrec = true
         ∧ (s.gang gid).lrec.bsp = false ∧ fits s)
       (fun s => (s.dispatchCrew gid n q).afterDispatch gid) ∧
     Happens (.crewSwapIn gid n) (fun s => (s.gang gid).due = some (n, true) ∧ ready s ∧ fits s)
       (fun s => s.swapIn gid n q) ∧
     Happens (.crewSwapIn gid n)
       (fun s => (s.gang gid).due = some (n, true) ∧ ready s ∧ s.findPlace s.holdings gid (s.gang gid) = none
         ∧ tableGet? (s.gang gid).crews n = some cr ∧ s.canReturn (s.gang gid) cr = false ∧ cr.evacuated = true)
       (fun s => s.requestEnd gid 4 1) ∧
     Happens (.preemption aid)
       (fun s => (s.act aid).run ≠ .saved ∧ (tableGet? s.acts aid).isSome = true ∧ s.canSave aid = true)
       (fun s => (s.saveContext aid).getD s) ∧
     Happens (.preemption aid)
       (fun s => (s.act aid).run = .saved ∧ tableGet? (s.gang (s.act aid).gang).crews (s.act aid).crew = some cr
         ∧ cr.resident = true ∧ s.live (s.act aid).homeCore = true ∧ s.saving = false)
       (fun s => s.resumeContext aid (s.act aid).homeCore (s.act aid).homeSlot (s.act aid).tiles) ∧
     Happens (.stallSweep gid)
       (fun s => s.dispatchable gid = true ∧ s.stalled (s.gang gid) = true
         ∧ s.findPlace s.holdings gid (s.gang gid) = none ∧ s.longestParked (s.gang gid) = some n)
       (fun s => (s.swapOut gid n).getD s) ∧
     Happens (.cycleCheckExpiry gid)
       (fun s => (s.gang gid).lowest = some (c, cr) ∧ s.parkedSince cr = some t ∧ (s.gang gid).lrec.cyclecheck = true
         ∧ t + 1000000 ≤ s.tick ∧ s.dispatchable gid = true)
       (fun s => s.requestEnd gid 5 3) ∧
     Happens (.barrierWatchdogExpiry gid)
       (fun s => (s.gang gid).watchHit = true ∧ (s.gang gid).stage = .eligible ∧ (s.gang gid).endPend = none
         ∧ s.schedFree (s.gang gid).part = true)
       (fun s => s.requestEnd gid 6 0) ∧
     (∀ (s : State) (g : Gang), s.watchWaits gid = true → s.watchPaused gid = false →
       Config.watchdogLimit gid ≤ g.watch + 1 → (s.watchGang gid g).watchHit = true)) ∧
  (∀ (gid kind gr : Nat) (grade : BitVec 2) (t : TrapReq) (u : State),
     let g (s : State) : Gang := s.gang gid
     let going (s : State) : Prop :=
       s.schedFree (g s).part = true ∧ (g s).unfinished = true ∧ (g s).stage ≠ .accepting ∧ s.ending gid = false
     let faulty (s : State) : Prop := (g s).endPend = none ∧ (g s).faultPend = some t
     Happens (.gangCompletion gid) (fun s => s.complete? gid = true ∧ s.schedFree (g s).part = true ∧ (g s).endPend = none)
       (fun s => s.journal (g s).part { kind := 7, queue := (g s).jqueue, slot := (g s).jslot, gang := gid }
         (.complete gid)) ∧
     Happens (.gangEnd gid grade) (fun s => going s ∧ (g s).endPend = some (kind, gr))
       (fun s => s.requestEnd gid kind gr) ∧
     Happens (.gangEnd gid grade) (fun s => going s ∧ faulty s ∧ (g s).canReplay = false)
       (fun s => s.requestEnd gid 0 (s.faultGrade (g s))) ∧
     Happens (.gangEnd gid grade) (fun s => going s ∧ (g s).endPend = none ∧ (g s).faultPend = none)
       (fun s => s.requestEnd gid 8 (if (g s).unresumed then 0 else grade.toNat)) ∧
     Happens (.superstepReplay gid)
       (fun s => faulty s ∧ (g s).canReplay = true ∧ s.armatureLive = true ∧ s.stoppable gid = true ∧ s.moulding gid = false
         ∧ s.slotsBack gid (g s).snap = true ∧ s.rollBack gid = some u)
       (fun _ =>
         let v := u.gangRecord gid 0 true 0
         v.setGang gid { v.gang gid with
           replays := (v.gang gid).replays + 1, faultPend := none, evacErr := false }))

/-- R26, R28..R32, R260..R263, R316, R328, R348: TAKE is answered from the pool, SHARE from the snapshot; an arrival is
timestamped and joins its instance; arrivals of different kinds end the gang (that its detail is LAUNCH kind 0 and its grade
3 is the model's choice, log 49); an instance completes when everyone who takes part has arrived, with each partition's
release delay sampled then; SSTEP waits for copies and matrix words, keeps their tick, and once every participant can be
moulded also zeroes the tiles, takes the share snapshot and opens an epoch; a release clears the waits with the report; and
a pod group's instance counts its packages' reports and completes with the last member's. What another package's report says
is a free value (log 3). The model's choices, where the rules leave them open: who counts as a member, and how a core counts
its stagger (log 32). -/
def Obligations.WorkAndBarrierEventsHappen : Prop :=
  (∀ (oid d core t : Nat) (o : Op) (l : List ShareEntry),
     let g (s : State) : Gang := s.gang (s.act o.act).gang
     let due (s : State) (k : OpKind) : Prop := s.op? oid = some o ∧ o.kind = k ∧ s.canLand o = true
     Happens (.takeServed oid) (fun s => due s (.take d core))
       (fun s =>
         let r := takeAnswer (g s).lrec.pool (g s).poolLeft (g s).lrec.chunk (s.freq core)
         (s.setGang (s.act o.act).gang { g s with poolLeft := (g s).poolLeft - r.2 }).clearTag oid o
           (statusWrites o (w64 (r.1 + r.2 * 2 ^ 32)))) ∧
     Happens (.shareServed oid) (fun s => due s (.share d t) ∧ (g s).share = some l)
       (fun s => s.clearTag oid o (statusWrites o
         (w64 ((shareAnswer t (s.act o.act).rank l).1 + (shareAnswer t (s.act o.act).rank l).2 * 2 ^ 32))))) ∧
  (∀ (aid n pkg : Nat) (a : Act) (x : Sent) (h : Held) (i : Inst) (y : Arrival) (tk : Nat) (rep red : Word64),
     let arrives (s : State) : Prop := s.act aid = a ∧ a.sent = some x ∧ a.held = some h
     let arr (s : State) : Arrival :=
       { act := aid, core := a.core, pkg := if h.kind = 4 then Config.packageNumber.toNat else 0, tick := s.tick
         operand := x.operand, style := x.style }
     let gid (s : State) : Nat := s.instGang a h.kind
     let at_ (s : State) : State :=
       if gid s = 0 then (s.arrivalTaken aid x).unreplayable a.gang else s.arrivalTaken aid x
     let num : Nat := a.arrivalCount h.kind h.sid
     let joins (s : State) : Prop := (at_ s).findInst (gid s) h.kind h.sid num = some (n, i)
     let open_ (s : State) : Prop :=
       s.inst? n = some i ∧ i.done = none ∧ i.arrivals ≠ [] ∧ s.allArrived i.gang i = true
     let acts (s : State) : List Nat := (s.gangActs i.gang).map (·.1)
     let completed (s : State) : State := s.finishInst n { i with pwr := s.powers } s.tick
     let met (s : State) : Prop := s.copiesDone i.gang none = true ∧ (acts s).all s.matrixDone = true
       ∧ (s.gang i.gang).faultPend = none
     let timed (s : State) : Inst := if i.early.isSome then i else { i with early := some s.tick, pwr := s.powers }
     let noted (s : State) : State := { s with insts := tableSet s.insts n (timed s) }
     let reported (s : State) (j : Inst) : State :=
       let u : State := { s with insts := tableSet s.insts n j }
       if (s.podMembers (bits i.sid 15 0)).all j.reports.contains then u.finishInst n { j with pwr := u.powers } u.tick else u
     let awaited (s : State) (k : Nat) : Prop := s.inst? n = some i ∧ i.gang = 0 ∧ i.done = none
       ∧ k ∈ s.podMembers (bits i.sid 15 0) ∧ k ∉ i.reports
     let waits (s : State) : List (Nat × Op) := s.ops.filter (fun z => z.2.act == aid && z.2.kind.isBar)
     Happens (.barrierArrival aid) (fun s => arrives s ∧ (at_ s).findInst (gid s) h.kind h.sid num = none)
       (fun s =>
         let j : Inst :=
           { part := a.part, gang := gid s, kind := h.kind, sid := h.sid, num := num
             rect := if h.kind = 5 then h.sid else 0, origin := a.homeCore, arrivals := [arr s] }
         { (at_ s).take.2 with insts := tableSet (at_ s).take.2.insts (at_ s).take.1 j }) ∧
     Happens (.barrierArrival aid)
       (fun s => arrives s ∧ joins s ∧ i.arrivals.find? (fun z => z.act ≠ 0) = some y ∧ y.style = x.style)
       (fun s => { at_ s with insts := tableSet (at_ s).insts n { i with arrivals := i.arrivals ++ [arr s] } }) ∧
     Happens (.barrierArrival aid)
       (fun s => arrives s ∧ joins s ∧ i.arrivals.find? (fun z => z.act ≠ 0) = some y ∧ y.style ≠ x.style)
       (fun s => (at_ s).requestEnd a.gang 0 3) ∧
     Happens (.barrierComplete n) (fun s => open_ s ∧ i.kind ≠ 6 ∧ i.kind ≠ 3 ∧ i.gang ≠ 0) (fun s => completed s) ∧
     Happens (.barrierComplete n) (fun s => open_ s ∧ i.kind = 3 ∧ i.gang ≠ 0)
       (fun s => (completed s).takeShare i.gang) ∧
     Happens (.sstepComplete n)
       (fun s => open_ s ∧ i.kind = 6 ∧ (i.early = none → met s) ∧ (acts s).all (noted s).mouldable = false)
       (fun s => noted s) ∧
     Happens (.sstepComplete n)
       (fun s => open_ s ∧ i.kind = 6 ∧ (i.early = none → met s) ∧ (acts s).all (noted s).mouldable = true)
       (fun s =>
         let done := (noted s).finishInst n (timed s) ((timed s).early.getD s.tick)
         let t := ((acts s).foldl (fun (u : State) z => u.zeroTiles z) done).takeShare i.gang
         t.openEpoch i.gang ((t.gang i.gang).epoch + 1) (some (barReport i.arrivals))) ∧
     Happens (.barrierRelease n aid)
       (fun s => s.act aid = a ∧ s.inst? n = some i ∧ a.held = some h ∧ i.gang = s.instGang a h.kind ∧ i.kind = h.kind
         ∧ i.sid = h.sid ∧ i.num % 2 ^ 32 = h.num % 2 ^ 32 ∧ i.released.contains aid = false ∧ a.ap = true ∧ waits s ≠ [] ∧ (waits s).all (fun z => s.canLand z.2) = true
         ∧ s.releaseDue i a.part a.core = true ∧ i.done = some (tk, rep, red) ∧ i.arrivals.all (fun z => z.style == 0) = false)
       (fun s =>
         let t := (waits s).foldl (fun (u : State) z => u.clearTag z.1 z.2 (barWrites z.2 rep red))
           (if i.kind = 0 then s else s.l1Clear a.core)
         let t := t.setAct aid { (t.act aid).setAp false with held := none }
         { t with insts := tableSet t.insts n { i with released := aid :: i.released } }) ∧
     Happens (.podBarrierReport n Config.packageNumber.toNat)
       (fun s => awaited s Config.packageNumber.toNat ∧ s.podReady i = true)
       (fun s => reported s { i with reports := i.reports ++ [Config.packageNumber.toNat] }) ∧
     (∀ s, awaited s pkg → pkg ≠ Config.packageNumber.toNat → ∃ z1 z2 : Arrival,
       exec (.podBarrierReport n pkg) s = .next (reported { s with draws := s.draws + 5 }
         { i with arrivals := i.arrivals ++ [z1, z2], reports := i.reports ++ [pkg] })
       ∧ z1.pkg = pkg ∧ z2.pkg = pkg ∧ z1.tick ≤ s.tick ∧ z2.tick ≤ s.tick))

/-- R234, R235, R239, R241..R243: an arrival at a home waits, or joins the one that waits, or finds the table full; a queued
pair is retried; as the END entry of its gang is accepted every parked party completes ABANDONED; a timeout completes NOSHOW, of
one party or of both whose time is over; a withdrawal takes a party back to its MEET; a pair lands together; and a party lands
at home. The model's choices, where the rules leave them open: what happens between a meeting's legs (log 31). -/
def Obligations.MeetingEventsHappen : Prop :=
  ∀ (aid core q n x y part gid grade : Nat) (kind : Word64) (a : Act) (p : Party) (e : MeetEntry) (m o : MeetArr)
      (je : JEntry) (rest : List (JEntry × JAction)),
    let paired (s : State) : Prop := s.meetEntry? aid = some (q, e) ∧ m.expired s.tick = true
      ∧ ((e.first = m ∧ m.act = aid ∧ e.second = some o) ∨ (e.first = o ∧ o.act ≠ aid ∧ e.second = some m))
    let late (s : State) : State := s.setQuad q { s.quad q with lastWithdraw := some s.tick }
    let arrives (s : State) : Prop :=
      s.act aid = a ∧ a.party = some p ∧ a.mg = 1 ∧ (s.quad (s.meetHome a p)).serves s.tick a.homeCore a.homeSlot = true
    let arr (s : State) : MeetArr :=
      { act := aid, tick := s.tick, order := s.take.1
        deadline := if p.timeout = 0 then none else some (s.tick + p.timeout.toNat) }
    let home (s : State) : Nat := s.meetHome a p
    let served (s : State) : State := s.take.2.setQuad (home s)
      { s.take.2.quad (home s) with lastArrival := some (s.tick, a.homeCore, a.homeSlot) }
    let table (s : State) : List MeetEntry := ((served s).quad (home s)).meet
    let partner (s : State) : Option MeetEntry :=
      (table s).find? (fun z => z.under a.gang p.key p.sid && z.second.isNone)
    Happens (.meetArrival aid) (fun s => arrives s ∧ partner s = none ∧ (table s).length < 64)
      (fun s =>
        let t := (served s).setAct aid (a.setMg 2)
        t.setQuad (home s) { t.quad (home s) with
          meet := table s ++ [{ gang := a.gang, key := p.key, sid := p.sid, first := arr s }] }) ∧
    Happens (.meetArrival aid) (fun s => arrives s ∧ partner s = none ∧ 64 ≤ (table s).length)
      (fun s => (served s).completeMeet aid 2) ∧
    Happens (.journalEntryAccepted part)
      (fun s => s.armatureLive = true ∧ (s.part part).jpend = (je, .end_ gid grade kind) :: rest)
      (fun s =>
        let t := ((s.setPart part { s.part part with jpend := rest }).jaccept part je).gangRecord gid grade false kind.toNat
        let parked := t.acts.filter (fun z => z.2.gang == gid && z.2.mg == 2)
        let u : State := { t with quads := t.quads.map (fun z =>
          (z.1, { z.2 with meet := z.2.meet.filter (fun e => e.gang != gid) })) }
        let w := (((parked.foldl (fun (v : State) z => v.completeMeet z.1 3) u).clearGang gid).dropWait gid).gangStatus gid 4 grade
          (s.part part).jseq
        let done := (w.dropRecord gid).setGang gid { (w.dropRecord gid).gang gid with
          stage := .ended, crews := [], faultPend := none, endPend := none }
        if ((w.dropRecord gid).gang gid).kick.isSome then done.raiseHost ((w.dropRecord gid).gang gid).part else done) ∧
    Happens (.meetArrival aid) (fun s => arrives s ∧ partner s = some e)
      (fun s =>
        let e' : MeetEntry := { e with second := some (arr s), paired := s.take.1 }
        let t := (served s).setAct aid (a.setMg 2)
        (t.setQuad (home s) { t.quad (home s) with meet := (table s).map (fun z => if z = e then e' else z) }).tryPair
          (home s) e') ∧
    Happens (.meetingCoreChosen q n) (fun s => (s.quad q).meet[n]? = some e) (fun s => s.tryPair q e) ∧
    Happens (.meetTimeout aid)
      (fun s => s.meetEntry? aid = some (q, e) ∧ e.first = m ∧ m.act = aid ∧ e.second = none ∧ m.expired s.tick = true)
      (fun s => ((s.setQuad q { s.quad q with lastWithdraw := some s.tick }).leaveHome q aid e).completeMeet aid 1) ∧
    Happens (.meetTimeout aid) (fun s => paired s ∧ o.expired s.tick = false)
      (fun s => ((late s).leaveHome q aid e).completeMeet aid 1) ∧
    Happens (.meetTimeout aid) (fun s => paired s ∧ o.expired s.tick = true)
      (fun s => (((late s).setQuad q { (late s).quad q with meet := ((late s).quad q).meet.filter (fun z => z != e) }).completeMeet
        aid 1).completeMeet o.act 1) ∧
    Happens (.meetWithdrawal aid) (fun _ => True) (fun s => s.withdraw aid) ∧
    Happens (.meetLanded core)
      (fun s => (s.core core).visitors = [x, y] ∧ x ≠ y ∧ (s.act x).mg = 3 ∧ (s.act y).mg = 3)
      (fun s => ((((s.landVisitor x core 6).landVisitor y core 7).l1Clear core).writeMet x).writeMet y) ∧
    Happens (.partLanded aid) (fun s => (s.act aid).mg = 5) (fun s => s.landHome aid)

/-- R245, R246, R252, R253, R307, R325: the transfer at the head of a channel performs its next line, or asks for the walk that
it needs; when all its lines are performed it completes; a line that faults stops it and faults the channel; the peer's counter is incremented after the
data; a rail that fails is marked and recorded, a flit is retried, a peer link that goes down faults the copies that use it,
and a die behind a link that is down is dropped, once its contexts can be saved. The model's choices, where the rules leave them open: how the lines of a channel interleave with other
accesses (log 35), and after how many retries a link goes down and what a failed rail records (log 40). -/
def Obligations.EngineAndLinkEventsHappen : Prop :=
  ∀ (q n link len peer dataObj dataOff sigObj sigOff k : Nat) (t : Transfer) (u v : State) (cause : BitVec 8)
      (obj off : Nat) (write ok : Bool),
    let head (s : State) : Prop := s.channelHead q n = some t
    let up (s : State) : Prop := link < 32 ∧ (link < 8 ∨ 16 ≤ link) ∧ (s.link link).down = false
    let record (s : State) : State := s.faultRecord (s.linkPart link)
      [faultWord1 0 0 false (linkUnit link) 0 0, w64 link, w64 s.tick]
    let failed (s : State) : State := s.setLink link { s.link link with failedRails := (s.link link).failedRails + 1 }
    Happens (.copyLine q n) (fun s => head s ∧ t.pos < t.count ∧ s.turnOf q = some n ∧ s.piece q t = .ok u)
      (fun _ => (u.setTransfer q n { t with pos := t.pos + 1 }).served q n) ∧
    Happens (.copyLine q n) (fun s => head s ∧ t.pos < t.count ∧ s.piece q t = .error (v, .miss obj off write))
      (fun s => s.askWalk { act := t.act, part := t.part, core := t.core, object := obj, offset := off, bytes := 1
                            write := write, who := .engine q n t.id }) ∧
    Happens (.transferComplete q n) (fun s => head s ∧ t.over = true)
      (fun s => (s.endTransfer q n t none).settleWaits q) ∧
    Happens (.copyFault q n cause)
      (fun s => head s ∧ t.pos < t.count ∧ s.piece q t = .error (v, .fault cause.toNat off))
      (fun _ => (v.faultChan q n t cause.toNat off).settleWaits q) ∧
    Happens (.peerSignal q n)
      (fun s => head s ∧ t.what = .cpyp len peer dataObj dataOff sigObj sigOff ∧ t.count ≤ t.pos ∧ t.signalled = false
        ∧ s.peerCount t peer sigObj sigOff = .ok u)
      (fun _ => u.setTransfer q n { t with signalled := true }) ∧
    Happens (.linkRailFailure link) (fun s => up s ∧ link < 8 ∧ (s.link link).failedRails < 5)
      (fun s => record ((failed s).setDie link
        { (failed s).die link with rails := ((failed s).die link).rails + 1 })) ∧
    Happens (.linkRailFailure link) (fun s => up s ∧ 16 ≤ link ∧ (s.link link).failedRails < 5)
      (fun s => record (failed s)) ∧
    Happens (.linkFlitRetry link ok) (fun s => up s ∧ (s.link link).retries = k ∧ k < 8)
      (fun s => s.setLink link { s.link link with retries := if ok = true then 0 else k + 1 }) ∧
    Happens (.linkDown link) (fun s => up s ∧ 16 ≤ link ∧ 8 ≤ (s.link link).retries)
      (fun s =>
        let dead := s.setLink link { s.link link with down := true }
        ((dead.quads.filter (fun x => !x.2.halting)).flatMap (fun x =>
          x.2.chans.filterMap (fun c => c.2.queue.head?.map (fun t => (x.1, c.1, t))))).foldl
          (fun (u : State) x => match u.nextFault x.1 x.2.2 with
            | some (w, cause, off) => if cause = cPEER then (w.faultChan x.1 x.2.1 x.2.2 cause off).settleWaits x.1 else u
            | none => u) dead) ∧
    Happens (.linkDown link)
      (fun s => up s ∧ 16 ≤ link ∧ 8 ≤ (s.link link).retries
        ∧ ∀ x ∈ s.quads, ∀ y ∈ x.2.chans, y.2.queue = [])
      (fun s => s.setLink link { s.link link with down := true }) ∧
    Happens (.linkDown link) (fun s => up s ∧ link < 8 ∧ 8 ≤ (s.link link).retries
        ∧ ((s.die link).dropped = true ∨ s.armatureLive = false
          ∨ (s.setLink link { s.link link with down := true }).canEvacuate link = false))
      (fun s => s.setLink link { s.link link with down := true }) ∧
    Happens (.linkDown link)
      (fun s => up s ∧ link < 8 ∧ 8 ≤ (s.link link).retries ∧ (s.die link).dropped = false ∧ s.armatureLive = true
        ∧ (s.setLink link { s.link link with down := true }).canEvacuate link = true)
      (fun s => (s.setLink link { s.link link with down := true }).dropDie link)

/-- R316, R334, R336, R337, R359: an enrolment is stored unless a gang of the entry's group is unfinished, and one that is not
a sound group of this package is stored as invalid; an uncorrectable line that the scrubber finds is poisoned and recorded, or
is its owner's error, and a corrected one counted; a line of an armature core's memory is poisoned and recorded, and raises
MCHECK; a quad that lost an
element in retention stops every context of its slots with RETLOST; a die that can be evacuated is dropped; and the
cross-alarm freezes the core that raised it. The model's choices, where the rules leave them open: how the owner of a line is
found (log 41), the grade of an armature core's machine check (log 3) and the partition of its record (log 41), and that a die is dropped when its contexts can be
saved (log 40). -/
def Obligations.ContainmentEventsHappen : Prop :=
  ∀ (part entry quad die core line g : Nat) (v d b : Word64) (code : BitVec 16) (copy : McLine),
    let stack (s : State) : State :=
      let u := s.scrubCount (line * 64 / 2 ^ 37) true
      { u with memPoison := sparseSet false u.memPoison line true }
    let home (s : State) : Nat := s.diePart (line * 64 / 2 ^ 37)
    let owns (s : State) : Option Nat := s.holder? (fun h => h.lm.any (fun x => x.1 == core && decide (x.2.1 ≤ line * 64)
      && decide (line * 64 < x.2.1 + x.2.2)))
    let pod (s : State) : PodEntry := (tableGet? (s.part part).pods entry).getD {}
    let area (s : State) : Nat := bits (pod s).pgmem 47 7 * 128
    let read (s : State) : State := (linesOf (area s) 128).foldl (fun (u : State) l => u.portTurn l) s
    let poisoned (s : State) : State :=
      let u := s.scrubCount (coreDie core) true
      u.setCore core { u.core core with lmPoison := sparseSet false (u.core core).lmPoison line true }
    Happens (.pgenrWrite part entry v)
      (fun s => entry < 16 ∧ s.podBusy part (pod s) = false ∧ v.getLsbD 63 = true
        ∧ (read s).enrolled part entry (v &&& 0x8000FFFF0000FFFF) ((read s).memRead (area s) 128) = true)
      (fun s =>
        let e : PodEntry :=
          { pod s with pgenr := v &&& 0x8000FFFF0000FFFF, bitmap := (read s).memRead (area s) 128, accepted := 0 }
        (read s).setPart part { (read s).part part with pods := tableSet ((read s).part part).pods entry e }) ∧
    Happens (.pgenrWrite part entry v) (fun s => entry < 16 ∧ s.podBusy part (pod s) = true) (fun s => s) ∧
    Happens (.pgenrWrite part entry v) (fun s => entry < 16 ∧ s.podBusy part (pod s) = false ∧ v.getLsbD 63 = false)
      (fun s => (read s).setPart part { (read s).part part with
        pods := tableSet ((read s).part part).pods entry { pod s with pgenr := v &&& 0x8000FFFF0000FFFF, accepted := 0 } }) ∧
    Happens (.pgenrWrite part entry v)
      (fun s => entry < 16 ∧ s.podBusy part (pod s) = false ∧ v.getLsbD 63 = true
        ∧ (read s).enrolled part entry (v &&& 0x8000FFFF0000FFFF) ((read s).memRead (area s) 128) = false)
      (fun s => (read s).setPart part { (read s).part part with
        pods := tableSet ((read s).part part).pods entry { pod s with pgenr := v &&& 0x0000FFFF0000FFFF, accepted := 0 } }) ∧
    Happens (.scrubLine 1 core line false) (fun _ => True) (fun s => s.scrubCount (coreDie core) false) ∧
    Happens (.scrubLine 1 core line true) (fun s => (poisoned s).holdings = [])
      (fun s => (poisoned s).faultRecord (s.diePart (coreDie core))
        [faultWord1 0 0 false 1 cUNCORR core, w64 (w64 (line * 64)).toNat, w64 s.tick]) ∧
    Happens (.scrubLine 1 core line true) (fun s => owns (poisoned s) = some g)
      (fun s => (poisoned s).gangError g (uncorrDetail 1 1 0) (w64 (line * 64)) core ((poisoned s).lmLogged g core (line * 64))) ∧
    Happens (.scrubLine 0 core line true) (fun s => (stack s).lineOwner (home s) 7 line = none)
      (fun s => (stack s).errorRecord (home s) 7 0 (line * 64)) ∧
    Happens (.scrubLine 0 core line true) (fun s => (stack s).lineOwner (home s) 7 line = some (none, d, b))
      (fun s => (stack s).errorRecord (home s) 7 0 b.toNat) ∧
    Happens (.scrubLine 0 core line true) (fun s => (stack s).lineOwner (home s) 7 line = some (some g, d, b))
      (fun s => (stack s).gangError g d b 0 ((stack s).lineLogged (some g) line)) ∧
    Happens (.scrubLine 6 die line true)
      (fun s =>
        let u := s.scrubCount die true
        tableGet? (u.die die).mcache line = some copy ∧ copy.dirty = false
          ∧ u.lineOwner (s.diePart die) 6 line = some (some g, d, b))
      (fun s =>
        let u := s.scrubCount die true
        (u.setDie die { u.die die with mcache := tableSet (u.die die).mcache line { copy with bad := true } }).gangError g d b 0 true) ∧
    Happens (.scrubLine 7 core line true) (fun _ => core = 2048 ∨ core = 2049)
      (fun s =>
        let u : State := ({ s with draws := s.draws + 1 } : State).setCore core { s.core core with
          imemPoison := sparseSet false (s.core core).imemPoison line true }
        (u.errorRecord ((s.parts.map (·.1)).headD 0) 11 core (line * 64)).machineCheck core
          (armatureCheck line (Config.freeWord s.draws))) ∧
    Happens (.retentionExit quad false) (fun _ => True) (fun s => s) ∧
    Happens (.retentionExit quad true) (fun _ => True)
      (fun s => ((quadCores quad).flatMap (fun c => (s.core c).slots.map (·.2))).foldl (fun (u : State) a =>
        u.takeTrap a { cause := cRETLOST, detail := w64 quad, addr := 0, word := (u.act a).pc }) s) ∧
    Happens (.dieDrop die)
      (fun s => die < 8 ∧ (s.die die).dropped = false ∧ s.armatureLive = true ∧ s.canEvacuate die = true)
      (fun s => s.dropDie die) ∧
    Happens (.crossAlarm core code) (fun _ => core = 2048 ∨ core = 2049) (fun s => s.crossAlarm core code)

/-- R304, R339, R340, R342, R345: a quad halts, reaches its halt and resumes; its halt withdraws its parked parties together and reports its slots that are away
(R243); a halted context's state is written; setting
the sample buffer up clears its pointer; and an armed proof is taken at its tick. The model's choices, where the rules leave
them open: that a handler runs on to its TRET (log 64), what a debugger's write leaves unlogged and where a refused one is
reported (log 38), and the tick and form of a proof (log 39). -/
def Obligations.DebugEventsHappen : Prop :=
  ∀ (quad aid part t : Nat) (v : Word64) (item : DebugItem),
    let p (s : State) : Part := s.part part
    Happens (.quadHalt quad) (fun _ => quad < 512)
      (fun s => (s.setQuad quad { s.quad quad with qdctl := (s.quad quad).qdctl ||| 1 }).haltQuad quad) ∧
    Happens (.quadHalted quad)
      (fun s => (s.quad quad).halting = true ∧ (s.quadActs quad).all s.canHalt = true)
      (fun s =>
        let w := s.withdrawAll ((s.quadActs quad).filter (fun a => (s.act a).run == .inService))
        let u := (w.quadActs quad).foldl (fun (x : State) a => x.haltContext a) w
        let r : State := { u with haltAway := u.haltAway.filter (fun x => x.1 != quad) ++ u.awaySlots quad }
        r.setQuad quad { r.quad quad with qdstat := (r.quad quad).qdstat ||| 0x8000000000000000 }) ∧
    Happens (.quadResume quad) (fun _ => quad < 512) (fun s => s.resumeQuad quad) ∧
    Happens (.debugStateWrite aid item) (fun s => (s.act aid).run = .halted) (fun s => s.debugPut aid item) ∧
    Happens (.sampleBufferSetup part false v) (fun _ => True)
      (fun s => s.setPart part { p s with
        sbbase := v &&& 0x8000FFFFFFFFFFC0, sbptr := 0, sbStopped := false, sbWrapped := false }) ∧
    Happens (.sampleBufferSetup part true v) (fun _ => True)
      (fun s => s.setPart part { p s with sblen := v &&& 0xFFFFFFF8, sbptr := 0, sbStopped := false, sbWrapped := false }) ∧
    Happens (.sbptrWrite part v) (fun _ => True)
      (fun s => s.setPart part { p s with sbptr := v, sbStopped := false }) ∧
    Happens (.proofArm part v) (fun _ => True)
      (fun s => s.setPart part { p s with proof := some (max v.toNat (s.tick + 16)) }) ∧
    Happens (.proofSnapshot part) (fun s => (p s).proof = some t ∧ t = s.tick) (fun s => s.takeProof part t)

/-- R347, R349, R350: a voltage request begins a change or waits for the one in progress; the clocks switch and pause for 20
ticks; a bank of a scratchpad no crew holds is gated, and wakes zero-filled, and a way of a memory-side cache is gated; a
warning begins the emergency save, its commit is recorded, a trip cuts the power and records it, and TRIPREC keeps a trip
until it is cleared; after a commit without a trip the gangs resume. The model's choices, where the rules leave them open:
that a step down waits for its switch like a raise, and which events name a way of the memory-side cache (log 44), and how a
trip and a save share TRIPREC (log 42). -/
def Obligations.PowerEventsHappen : Prop :=
  ∀ (die quad bank n due : Nat) (v : Word64),
    let d (s : State) : Die := s.die die
    let idle (s : State) : Prop := die < 8 ∧ (d s).change = none ∧ (d s).pauseUntil = none
    let q (s : State) : Quad := s.quad quad
    Happens (.dvreq die v) idle
      (fun s => s.setDie die { d s with
        reqStep := bits v 2 0, change := some (bits v 2 0, s.tick + 5000), nextReq := none }) ∧
    Happens (.dvreq die v) (fun s => die < 8 ∧ (d s).change.isSome = true)
      (fun s => s.setDie die { d s with reqStep := bits v 2 0, nextReq := some (bits v 2 0) }) ∧
    Happens (.dvreq die v) (fun s => die < 8 ∧ (d s).pauseUntil.isSome = true)
      (fun s => s.setDie die { d s with reqStep := bits v 2 0, nextReq := some (bits v 2 0) }) ∧
    Happens (.clockSwitch die) (fun s => (d s).change = some (n, due))
      (fun s => s.setDie die { d s with step := n, change := none, pauseUntil := some (s.tick + 20) }) ∧
    Happens (.dvfsPauseEnd die) (fun s => (d s).pauseUntil = some due ∧ due ≤ s.tick ∧ (d s).nextReq = none)
      (fun s => s.setDie die { d s with pauseUntil := none }) ∧
    Happens (.dvfsPauseEnd die) (fun s => (d s).pauseUntil = some due ∧ due ≤ s.tick ∧ (d s).nextReq = some n)
      (fun s => s.setDie die { d s with
        pauseUntil := none, reqStep := n, change := some (n, s.tick + 5000), nextReq := none }) ∧
    Happens (.arrayGate quad bank)
      (fun s => quad < 512 ∧ bank < 16 ∧ (q s).gated.contains bank = false
        ∧ ∀ h ∈ s.holdings, h.quad = quad → h.qs.2 = 0)
      (fun s => s.setQuad quad { q s with gated := bank :: (q s).gated }) ∧
    Happens (.arrayGate quad (16 + n)) (fun s => quad < 512 ∧ n < 16 ∧ (s.die (quadDie quad)).gatedWays.contains n = false)
      (fun s => s.setDie (quadDie quad) ((s.die (quadDie quad)).gateWay n)) ∧
    Happens (.arrayWake quad bank) (fun s => bank < 16 ∧ (q s).gated.contains bank = true)
      (fun s => (s.wakes (quadDie quad)).setQuad quad { q s with
        gated := (q s).gated.filter (fun b => b != bank), qs := (q s).qs.filter (fun x => x.1 / 64 % 16 != bank)
        qsPoison := (q s).qsPoison.filter (fun x => x.1 % 16 != bank) }) ∧
    Happens (.arrayWake quad (16 + n)) (fun s => (s.die (quadDie quad)).gatedWays.contains n = true)
      (fun s => ({ s with draws := s.draws + 1 } : State).setDie (quadDie quad) { s.die (quadDie quad) with
        gatedWays := (s.die (quadDie quad)).gatedWays.filter (fun w => w != n), wakeUntil := s.tick + Config.wakeTicks s.draws }) ∧
    Happens (.thermalWarning die) (fun s => die < 8 ∧ s.triprec.getLsbD 63 = false ∧ s.armatureLive = true)
      (fun s => { s.saveAll with
        saving := true, committed := false, triprec := s.triprec &&& ~~~(0x4000000000000000 : Word64) }) ∧
    Happens (.thermalWarning die) (fun s => die < 8 ∧ s.triprec.getLsbD 63 = true ∧ s.armatureLive = true)
      (fun s => { s.saveAll with saving := true, committed := false, triprec := s.triprec }) ∧
    Happens (.thermalWarning die) (fun s => die < 8 ∧ s.triprec.getLsbD 63 = true ∧ s.armatureLive = false)
      (fun s => { s with saving := true, committed := false }) ∧
    Happens .emergencySaveCommit
      (fun s => s.saving = true ∧ s.replaysDone = true ∧ s.armatureLive = true ∧ s.saveAll.residentCrews = []
        ∧ s.saveAll.writeBack.triprec.getLsbD 63 = false)
      (fun s => { s.saveAll.writeBack with
        committed := true, triprec := w64 (2 ^ 62 + s.saveAll.writeBack.tick % 2 ^ 48) }) ∧
    Happens .emergencySaveCommit
      (fun s => s.saving = true ∧ s.replaysDone = true ∧ s.armatureLive = true ∧ s.saveAll.residentCrews = []
        ∧ s.saveAll.writeBack.triprec.getLsbD 63 = true)
      (fun s => { s.saveAll.writeBack with
        committed := true, triprec := s.saveAll.writeBack.triprec ||| 0x4000000000000000 }) ∧
    Happens (.thermalTrip die) (fun _ => die < 8)
      (fun s =>
        let commit := decide (s.saving = true ∧ s.committed = true)
        { s.powerCut with
          saving := false, committed := false
          triprec := w64 (2 ^ 63 + (if commit then 2 ^ 62 else 0) + die * 2 ^ 59 + s.tick % 2 ^ 48) }) ∧
    Happens (.triprecClear v) (fun _ => v.getLsbD 63 = true) (fun s => { s with triprec := 0 }) ∧
    Happens (.temperatureFalls die) (fun s => die < 8 ∧ s.saving = true ∧ s.committed = true ∧ s.armatureLive = true)
      (fun s => State.restoreAll { s with saving := false, committed := false })

/-- R13, R305, R322, R338, R351, R354..R356: a valid partition map is held for the next package reset, which applies it and
counts itself; a partition reset sets the partition up from firmware's values once the boot checks have passed; a request
for an attestation report starts and ends with the report in host memory; an alarm is recorded, and acted on by the fused
policy; and firmware writes OTBASE, JCKPT and TOVEC, and the other window registers. The model's choices, where the rules
leave them open: what a reset keeps (log 43), a second write of ATTGO (log 44), firmware's values (log 3), and how
REGISTER_WRITE names a register (log 21). -/
def Obligations.ResetAndAttestEventsHappen : Prop :=
  ∀ (part off : Nat) (v : Word64) (src : BitVec 3) (r : AttReq) (t : State),
    let p (s : State) : Part := s.part part
    Happens (.partmapWrite v) (fun _ => partmapOk (v.setWidth 32) = true) (fun s => { s with partmapNext := v.setWidth 32 }) ∧
    (∀ s, ∃ u, exec .packageReset s = .next u ∧ u.partmap = s.partmapNext ∧ u.tick = 0 ∧ u.resets = s.resets + 1
      ∧ u.ops = [] ∧ u.reqs = [] ∧ u.quads = [] ∧ u.saving = false
      ∧ (s.partmapNext = s.partmap → s.recs = [] → (∀ x ∈ s.dies, x.2.mcache = []) →
        u.mem = s.mem ∧ u.seq = s.seq ∧ u.triprec = s.triprec)) ∧
    (∀ s, s.partmapNext ≠ s.partmap → ∃ u, exec .packageReset s = .next u ∧ u.gangs = [] ∧ u.acts = []) ∧
    Happens (.partitionReset part) (fun s => s.running = false ∨ s.armatureLive = false) (fun s => s) ∧
    (∀ s, s.running = true → s.armatureLive = true → ∃ u, exec (.partitionReset part) s = .next u
        ∧ (u.part part).otbase = Config.firmwareOtbase part s.resets &&& 0xFFFFFFFFFFFFF000
        ∧ (u.part part).jbase = (Config.firmwareJbase part s.resets).toNat * 64
        ∧ (u.part part).jlen = (Config.firmwareJlen part s.resets).toNat + 1 ∧ (u.part part).firmware = true) ∧
    Happens (.attestationRequest v) (fun s => s.att = none ∧ s.tamper.getLsbD 57 = false)
      (fun s =>
        let a := v &&& 0x0000FFFFFFFFFFC0
        { s with attgo := a ||| 1, att := some { addr := a.toNat, nonce := s.nonce } }) ∧
    Happens (.attestationRequest v) (fun s => s.att = none ∧ s.tamper.getLsbD 57 = true)
      (fun s => { s with attgo := (v &&& 0x0000FFFFFFFFFFC0) ||| 2 }) ∧
    Happens (.attestationRequest v) (fun s => s.att.isSome = true) (fun s => s) ∧
    Happens .attestationDone (fun s => s.att = some r)
      (fun s =>
        let u := s.schedWrite (hostBase + r.addr) (s.attReport r)
        { u with att := none, attgo := u.attgo &&& ~~~(1 : Word64), draws := u.draws + 1 }) ∧
    (∀ s, s.tamper.getLsbD 63 = false → ∃ u, exec (.tamperAlarm src) s = .next u
      ∧ u.tamper = s.tamper ||| 0x8000000000000000 ||| (src.setWidth 64 <<< 60)
          ||| (if Config.tamperPolicy = 0 then 0 else 0x0200000000000000) ||| w64 (s.tick % 2 ^ 48)
      ∧ (Config.tamperPolicy = 0 → u.att = s.att ∧ u.bootstat = s.bootstat) ∧ (Config.tamperPolicy ≠ 0 → u.att = none)
      ∧ (Config.tamperPolicy = 2 → bits u.bootstat 63 56 = 4)) ∧
    (∀ s, s.tamper.getLsbD 63 = true → ∃ u, exec (.tamperAlarm src) s = .next u
      ∧ u.tamper = s.tamper ||| 0x8000000000000000 ||| (src.setWidth 64 <<< 60)
          ||| (if Config.tamperPolicy = 0 then 0 else 0x0200000000000000)) ∧
    Happens (.registerWrite part (2 ^ 24 + 0x30) v) (fun _ => True)
      (fun s => s.setPart part { p s with otbase := v &&& 0xFFFFFFFFFFFFF000 }) ∧
    Happens (.registerWrite part (2 ^ 24 + 0x40) v) (fun _ => True) (fun s => s.setPart part { p s with jckpt := v }) ∧
    Happens (.registerWrite part (2 ^ 24 + 0x41) v) (fun _ => True)
      (fun s => s.setPart part { p s with tovec := v &&& 0xFFFFFF00FFFFFFFF }) ∧
    Happens (.registerWrite part off v) (fun s => off < 2 ^ 24 ∧ s.plainReg part off v true = some t) (fun _ => t) ∧
    Happens (.registerWrite part off v) (fun s => off < 2 ^ 24 ∧ s.plainReg part off v true = none)
      (fun s => s.windowWrite part off v true)

/-! ## Steps, encodings and whole-machine rules -/

/-- R95..R98, R108, R307, R308, R329, R354 (the order of moves is log 1): when the context that holds the port of a core that may
issue has no trap or interrupt to take and its next word is not annulled, one step fetches that word and executes the
instruction it decodes to, the fetch having used the core's translations and changed nothing else; a word that does not decode
raises ILLOP with its bit position, a fetch that fails its trap, and one whose translation the core does not hold waits for a
walk; a BSP gang's first issued word issues in its epoch 0, opened before it; and a device event of the schedule happens, while
the package runs or the window serves it. -/
def Obligations.StepRunsTheDecodedWord : Prop :=
  ∀ (s u : State) (aid n : Nat) (w : Word80) (i : Instr) (t : Trap) (m : Access) (rest : List Move),
    let x := s.act aid
    let free : Prop := s.schedule = [] ∧ s.holdsIssue s.focus = false ∧ s.portAct s.focus = some aid ∧ x.run = .inService
      ∧ x.duePend = none ∧ s.interruptOf x = none ∧ x.block = none ∧ x.annulled = false
      ∧ (s.moulding x.gang = false ∨ x.tip = true)
    let opened : Prop := s.unopened aid = false
    let held : Prop := s.codeMiss x = none
    let f : State := s.fetchTouch x
    (s.SameStore f ∧ f.acts = s.acts ∧ f.gangs = s.gangs ∧ f.schedule = s.schedule ∧ f.focus = s.focus
      ∧ ∀ c, f.core c = { s.core c with otc := (f.core c).otc }) ∧
    (free → opened → held → s.fetch x = .ok w → decodeIn x w = .ok i → step s = exec i f) ∧
    (free → opened → held → s.fetch x = .ok w → decodeIn x w = .error n →
      step s = .next (f.raise aid (mkTrap cILLOP n))) ∧
    (free → opened → held → s.fetch x = .error t → step s = .next ((f.noteFetch x t).raise aid t)) ∧
    (free → opened → s.codeMiss x = some m →
      step s = .next (s.blockOn s.focus aid (.walk m.object m.offset m.bytes m.write m.atom))) ∧
    (free → ¬ opened → issueWord s.focus aid s = .next u → s.issuedTo u aid = true →
      step s = issueWord s.focus aid (s.openEpoch x.gang 0 none)) ∧
    (u.schedule = .event i :: rest → layout i = none → ({ u with schedule := rest }.running = true ∨ served i = true) →
      step u = exec i { u with schedule := rest }) ∧
    (u.schedule = [.cycle n] → step u = step { u with schedule := [], focus := n })

/-- R91, R95, R112, R116, R147, R158, R159, R175: these words, written out from the encodings of the spec, decode to the
instructions that they stand for. -/
def Obligations.WordsDecodeAsEncoded : Prop :=
  decode 0x0265_9000_0000_1000_0001 = .ok (.addi 25 25 1
    { seqMode := 0, seqB := 0, seqP := 0, annul := 0, pd := 0, alloc := 0, wait := 0, park := 0, last := 1 }) ∧
  decode 0x005D_6000_0000_0000_0000 = .ok (.add 23 22 0
    { seqMode := 0, seqB := 0, seqP := 0, annul := 0, pd := 0, alloc := 0, wait := 0, park := 0, last := 0 }) ∧
  decode 0x4B00_05C3_0000_0C40_D802 = .ok (.vst 0 0 23 3 0
    { seqMode := 6, seqB := 1, seqP := 0, annul := 0, pd := 3, alloc := 3, wait := 0, park := 0, last := 2 }) ∧
  decode 0x630C_0042_0000_0000_0032 = .ok (.vfma 0 3 0 1 2 0
    { seqMode := 0, seqB := 0, seqP := 0, annul := 0, pd := 0, alloc := 0, wait := 3, park := 0, last := 2 }) ∧
  (∀ w : Word80, 0xC0 ≤ w.toNat / 2 ^ 72 → decode w = .error 72)

/-- R91, R108: for every well-formed instruction of the Burin set the word that its encoding gives decodes to that
instruction, with every operand and clause at every value that the encoding admits. -/
def Obligations.EncodeThenDecode : Prop :=
  ∀ (i : Instr) (w : Word80), WellFormed i → encode i = some w → decode w = .ok i

/-- R93, R108: no bit of a word is ignored: a word that decodes is the word of the instruction it decodes to. -/
def Obligations.DecodeThenEncode : Prop :=
  ∀ (w : Word80) (i : Instr), decode w = .ok i → encode i = some w

/-- R108, R295 (the machine's own moves are log 1): no state stops the machine. Every step answers a next state: a fault of
a word is a trap, and an event that is not enabled changes nothing. -/
def Obligations.EveryStepGoes : Prop :=
  ∀ s : State, ∃ t, step s = .next t

/-- R11, R22, R41, R44, R49, R110, R155 (the form of memory is the model's, log 4): in every state whose memory is in canonical
form, a step leaves it so: addresses rising, no byte listed that holds zero, no mark listed that is clear. The same of the local
memories, the scratchpads, the instruction memories and the register files of every context, in which s0 stays zero and s0 and p0
stay live. -/
def Obligations.MemoryFormKept : Prop :=
  (∀ s t : State, s.MemWf → step s = .next t → t.MemWf) ∧
  (∀ s t : State, s.UnitsWf → step s = .next t → t.UnitsWf)

/-- R5, R311, R319, R346, R350, R354 (values that no rule gives are log 5): the machine after package reset. Its memory and its
units are in canonical form; every die runs at step 0, is present and not dropped; no gang, operation or request exists; THWARN is 120;
BOOTSTAT's code is 0 and TRIPREC 0; queues are closed, no kick is set and DRAIN is 0. -/
def Obligations.ResetState : Prop :=
  let s := State.reset
  s.MemWf ∧ s.UnitsWf ∧ s.tick = 0 ∧ s.acts = [] ∧ s.gangs = [] ∧ s.ops = [] ∧ s.reqs = [] ∧ s.insts = [] ∧
  (∀ d, (s.die d).step = 0 ∧ (s.die d).dropped = false ∧ (s.die d).off = false) ∧ (∀ c < 2048, s.live c = true) ∧
  (∀ d, s.diePart d = 0) ∧ s.thwarn = 120 ∧ s.bootstat = 0 ∧ s.triprec = 0 ∧
  (∀ p q, (s.queue p q).lqbase.getLsbD 63 = false ∧ sparseGet 0 (s.part p).kickset q = 0 ∧ (s.part p).drain = false)

/-- R115, R116, R118, R122: the extremes, the counts, the load-immediates and selection: their encodings, their results and
their latency of 1. -/
def Obligations.ExtremesCountsConstantsSelect : Prop :=
  ∀ (d a b c : BitVec 6) (imm32 : BitVec 32) (cl : Clauses),
    let r (op : BitVec 8) (b c : BitVec 6) : Option Fields :=
      some { op := op, d := d, a := a, b := b, c := c, mod := 0, imm := 0, cl := cl }
    let u (op : BitVec 8) (a : BitVec 6) : Word80 := op ++ d ++ a ++ imm32 ++ cl.toBits
    let x_ (x : Act) : Word64 := x.s a.toNat
    let y_ (x : Act) : Word64 := x.s b.toNat
    (toFields (.min d a b cl) = r 0x16 b 0 ∧
      WritesS (.min d a b cl) cl 1 d (fun x => if (x_ x).toInt ≤ (y_ x).toInt then x_ x else y_ x)) ∧
    (toFields (.max d a b cl) = r 0x17 b 0 ∧
      WritesS (.max d a b cl) cl 1 d (fun x => if (x_ x).toInt ≤ (y_ x).toInt then y_ x else x_ x)) ∧
    (toFields (.minu d a b cl) = r 0x18 b 0 ∧
      WritesS (.minu d a b cl) cl 1 d (fun x => if x_ x ≤ y_ x then x_ x else y_ x)) ∧
    (toFields (.maxu d a b cl) = r 0x19 b 0 ∧
      WritesS (.maxu d a b cl) cl 1 d (fun x => if x_ x ≤ y_ x then y_ x else x_ x)) ∧
    (toFields (.clz d a cl) = r 0x1A 0 0 ∧
      ∃ f : Word64 → Nat, WritesS (.clz d a cl) cl 1 d (fun x => BitVec.ofNat 64 (f (x_ x)))
        ∧ f 0 = 64 ∧ ∀ (y : Word64) (n : Nat), n < 64 → y.toNat / 2 ^ n = 1 → f y = 63 - n) ∧
    (toFields (.popc d a cl) = r 0x1B 0 0 ∧
      WritesS (.popc d a cl) cl 1 d (fun x =>
        BitVec.ofNat 64 ((List.range 64).filter (fun n => (x_ x).getLsbD n)).length)) ∧
    (encode (.li d imm32 cl) = some (u 0x1E 0) ∧ WritesS (.li d imm32 cl) cl 1 d (fun _ => imm32.signExtend 64)) ∧
    (encode (.lih d a imm32 cl) = some (u 0x1F a) ∧
      WritesS (.lih d a imm32 cl) cl 1 d (fun x => imm32 ++ (x_ x).setWidth 32)) ∧
    (toFields (.sel d a b c cl) = r 0x24 b c ∧
      WritesS (.sel d a b c cl) cl 1 d (fun x => if (x.p c.toNat).getLsbD 0 then x_ x else y_ x) ∧
      (∀ y : Act, ∀ n ∈ [sreg a.toNat, sreg b.toNat, preg c.toNat], n ∈ sources y (.sel d a b c cl) cl))

/-- R94, R95, R97: what an issue does to the redirect queue. Every valid entry ages, a matured one that was taken gives the next
word, what is left keeps its order, and the word's own redirect joins as the newest; so an entry lives for two issues, two
are the most, and never two mature at once (that a matured entry then holds zeros is the model's choice, log 66). The queue is
empty in a handler. Each seq.mode appends this redirect, from the
registers read at issue, and gives lk and lc these values. -/
def Obligations.RedirectQueueAndModes : Prop :=
  (∀ (a : Act) (new : Option RdqEntry) (s : State) (c aid : Nat) (i : Instr) (cl : Clauses) (e : Eff),
     let fresh (e : RdqEntry) : Prop := e.valid = true ∧ e.rem = 2
     let old (e : RdqEntry) : Prop := e.valid = true ∧ e.rem = 1
     let sound (a : Act) : Prop :=
       (a.rdq0.valid = false ∧ a.rdq1.valid = false) ∨ ((fresh a.rdq0 ∨ old a.rdq0) ∧ a.rdq1.valid = false)
         ∨ (old a.rdq0 ∧ fresh a.rdq1)
     let next := a.advance new
     let kept (e : RdqEntry) : RdqEntry := { e with rem := 1 }
     (sound a → (∀ n, new = some n → fresh n) → sound next) ∧
     (sound a → next.pc = if old a.rdq0 ∧ a.rdq0.taken = true then a.rdq0.target else a.pc + 1) ∧
     (sound a → old a.rdq0 → a.rdq1.valid = true → next.rdq0 = kept a.rdq1 ∧ next.rdq1 = new.getD {}) ∧
     (sound a → old a.rdq0 → a.rdq1.valid = false → next.rdq0 = new.getD {} ∧ next.rdq1 = {}) ∧
     (sound a → fresh a.rdq0 → next.rdq0 = kept a.rdq0 ∧ next.rdq1 = new.getD {}) ∧
     (a.rdq0.valid = false → a.rdq1.valid = false → next.rdq0 = new.getD {} ∧ next.rdq1 = {}) ∧
     (e.post = .none → e.st.stip c = 0 → e.st.act aid = s.act aid →
       let x := s.act aid
       let y := (s.issue c aid i cl e).act aid
       y.pc = (x.advance (x.sequence cl).1).pc ∧ y.rdq0 = (x.advance (x.sequence cl).1).rdq0
         ∧ y.rdq1 = (x.advance (x.sequence cl).1).rdq1) ∧
     ((s.enterHandler a).rdq0 = {} ∧ (s.enterHandler a).rdq1 = {})) ∧
  (∀ (a : Act) (cl : Clauses),
     let entry (taken : Bool) (target : BitVec 32) : Option RdqEntry :=
       some { valid := true, taken := taken, rem := 2, target := target
              annul := (cl.annul == 1 && !taken) || (cl.annul == 2 && taken) }
     let b := a.b cl.seqB.toNat
     let p := (a.p cl.seqP.toNat).getLsbD 0
     (cl.seqMode = 0 → a.sequence cl = (none, a.lk, a.lc)) ∧
     (cl.seqMode = 1 → a.sequence cl = (entry true b, a.lk, a.lc)) ∧
     (cl.seqMode = 2 → a.sequence cl = (entry p b, a.lk, a.lc)) ∧
     (cl.seqMode = 3 → a.sequence cl = (entry (!p) b, a.lk, a.lc)) ∧
     (cl.seqMode = 4 → a.sequence cl = (entry true b, a.pc + 3, a.lc)) ∧
     (cl.seqMode = 5 → a.sequence cl = (entry true a.lk, a.lk, a.lc)) ∧
     (cl.seqMode = 6 → a.sequence cl = (entry (decide (a.lc - 1 ≠ 0)) b, a.lk, a.lc - 1)))

/-- R96: an annulled word occupies its issue cycle and counts in dynamic order; it reads, writes, raises, allocates, waits and
releases nothing, whatever stands at its index. -/
def Obligations.AnnulledWords : Prop :=
  ∀ (s : State) (aid : Nat),
    let c := s.focus
    let x := s.act aid
    s.schedule = [] → s.holdsIssue c = false → s.portAct c = some aid → x.run = .inService → x.trapPend = none →
    s.interruptOf x = none → x.block = none → x.annulled = true → x.fixed = [] → s.stip c = 0 →
    s.unopened aid = false → (s.moulding x.gang = false ∨ x.tip = true) →
    ∃ t, step s = .next t ∧ s.SameStore t ∧ t.gangs = s.gangs ∧
      (t.core c).cycle = (s.core c).cycle + 1 ∧ (s.core c).SameStore (t.core c) ∧
      (let y := t.act aid
       y.regs = x.regs ∧ y.bank = x.bank ∧ y.lk = x.lk ∧ y.lc = x.lc ∧ y.fixed = [] ∧ y.trapPend = none ∧ x.SameSpecial y
        ∧ y.num = x.num + 1 ∧ y.pc = (x.advance none).pc ∧ y.rdq0 = (x.advance none).rdq0 ∧ y.rdq1 = (x.advance none).rdq1)

/-- R99, R101, R106, R107: results. A result of latency 1 is in its register for the next word, which finds it live; one of
a longer latency is in flight until the cycle c + L, and the register keeps its old value until then; a released register
that the word does not write is not live. The model's choices, where the rules leave them open: the order in which results
of one register land (log 22). -/
def Obligations.ResultsLand : Prop :=
  ∀ (s : State) (c aid : Nat) (i : Instr) (cl : Clauses) (d l : Nat) (v : Word64) (r : RegName),
    let x := s.act aid
    let e : Eff := { st := s, writes := [wS d v], lat := l }
    let y := (s.issue c aid i cl e).act aid
    0 < d → d < 64 → x.fixed = [] → s.stip c = 0 → sparseWf 0 (x.regsFor (sreg d)).s = true →
    (l = 1 → y.s d = v ∧ y.live (sreg d) = true ∧ y.fixed = []) ∧
    (2 ≤ l → y.s d = x.s d ∧ ∃ w, y.fixed = [w] ∧ w.due = (s.core c).cycle + l ∧ w.pos = x.num ∧ w.writes = [wS d v]) ∧
    (∀ w : FixedWrite, y.fixed = [w] → (y.landDue w.due).fixed = []) ∧
    (r ∈ releases i cl → r ≠ sreg d → r ≠ sreg 0 → r ≠ preg 0 → r.num < r.file.size → y.live r = false)

/-- R107, R108, R155, R296: for a word that computes from registers alone, once its waits are over, the first source that is
not live raises DEADREG with its number and file, and a live one that carries poison raises UNCORR with what it remembers.
The model's choices, where the rules leave them open: the order of a word's sources (log 7). -/
def Obligations.DeadAndPoisonedSources : Prop :=
  ∀ (i : Instr) (s : State) (c aid : Nat) (r : RegName) (before after : List RegName) (p : Poison),
    let x := s.act aid
    let cl := (fieldsOf i).cl
    scalarWord i = true → s.Holds c aid → s.waits c aid x cl {} = none → sources x i cl = before ++ r :: after →
    (before.all x.live = true → x.live r = false →
      exec i s = .next (s.raise aid (mkTrap cDEADREG (r.num + r.file.code * 256)))) ∧
    ((sources x i cl).all x.live = true → before.all (fun q => x.poison? q == none) = true → x.poison? r = some p →
      exec i s = .next (s.raise aid { cause := cUNCORR, detail := p.detail, addr := p.addr }))

/-- R95, R99, R106, R112, R114..R128, R147: THE FRAME of the scalar words (`scalarWord`), whichever next state they
answer, with no stipple sampling (R344): memory, its tags and poison, operations, requests, units, the other contexts and
cores and the core's own store stay as they were; and when nothing holds the word and no result is in flight, every register
but its destination keeps its value, every register but its destination and those it releases its live bit, and the status
word with its flags and every special register are unchanged; lk and lc only CALL, LOOP, LCSET and LKMOV change. -/
def Obligations.ScalarWordsFrame : Prop :=
  ∀ (i : Instr) (s t : State) (c aid : Nat),
    let cl := (fieldsOf i).cl
    let x := s.act aid
    let y := t.act aid
    scalarWord i = true → WellFormed i → s.Holds c aid → s.stip c = 0 → exec i s = .next t →
    (s.SameStore t ∧ (s.core c).SameStore (t.core c)) ∧
    (∀ b, b ≠ aid → tableGet? t.acts b = tableGet? s.acts b) ∧
    (∀ k, k ≠ c → k ≠ x.core → tableGet? t.cores k = tableGet? s.cores k) ∧
    (s.Clear c aid i cl {} → x.fixed = [] →
      t.gangs = s.gangs ∧ x.SameSpecial y ∧
      (∀ r : RegName, r.num < 64 → some r ≠ destOf i →
        y.valOf r = x.valOf r ∧ y.poison? r = x.poison? r ∧ (r ∉ releases i cl → y.live r = x.live r)) ∧
      (cl.seqMode ≠ 4 → cl.seqMode ≠ 6 → (∀ a m c, i ≠ .lcset a m c) → (∀ m d a c, i ≠ .lkmov m d a c) →
        y.lk = x.lk ∧ y.lc = x.lc))

/-- R41, R43, R49, R150, R154, R155, R157, R159, R161: THE FRAME of stores. After a local store the bytes from its place that its mask
selects hold the stored bytes, every other byte of the core's local memory and of every other memory reads as before, and no
register, flag or special register changes. A device store sends a request; performed at its home it changes the bytes of its
own place alone, which then read as what was stored, sets or clears the hidden tags of the granules it touches, and leaves
every other byte, tag and mark as it was. -/
def Obligations.StoresFrame : Prop :=
  (∀ (mod : BitVec 4) (a c : BitVec 6) (imm : BitVec 16) (cl : Clauses) (s t : State) (k aid p b : Nat),
     let x := s.act aid
     let y := t.act aid
     let n := 2 ^ (mod.toNat % 4)
     let at_ (o : Word64) (n : Nat) : Prop := o.toNat % n = 0 ∧ x.lmAddr o.toNat n = some p ∧ s.lmBusy k p n true = false
     let voff : Word64 := x.s a.toNat + (imm.extractLsb' 5 11).signExtend 64 * 64
     let others : Prop := s.SameStore t ∧ (∀ h, h ≠ k → tableGet? t.cores h = tableGet? s.cores h) ∧
       (∀ h, h ≠ aid → tableGet? t.acts h = tableGet? s.acts h) ∧
       (x.fixed = [] → x.SameSpecial y ∧ ∀ r : RegName, r.num < 64 → y.valOf r = x.valOf r)
     s.stip k = 0 → Memory.wf (s.core k).lm = true →
     (s.Clear k aid (.stl mod a c imm cl) cl { memWord := true } → at_ (x.s a.toNat + imm.signExtend 64) n →
       exec (.stl mod a c imm cl) s = .next t →
       others ∧ sparseGet 0 (t.core k).lm b =
         if p ≤ b ∧ b < p + n then (x.s c.toNat).extractLsb' (8 * (b - p)) 8 else sparseGet 0 (s.core k).lm b) ∧
     (imm.getLsbD 4 = false → s.Clear k aid (.vstl mod a c imm cl) cl { memWord := true } → at_ voff 64 →
       exec (.vstl mod a c imm cl) s = .next t →
       others ∧ sparseGet 0 (t.core k).lm b =
         if p ≤ b ∧ b < p + 64 ∧ (storeMask (x.p (mod.toNat % 8)) (x.v c.toNat).tag.toNat)[b - p]?.getD true = true then
           (x.v c.toNat).data.extractLsb' (8 * (b - p)) 8
         else sparseGet 0 (s.core k).lm b)) ∧
  (∀ (s : State) (g : Option (Nat × Nat)) (a b owner : Nat) (bs : List Byte) (whole tag gp : Bool),
     let t := s.homeWrite g a bs (bs.map (fun _ => true)) whole tag gp owner
     let inside : Prop := a ≤ b ∧ b < a + bs.length
     s.MemWf →
     (inside → sparseGet 0 t.mem b = bs[b - a]?.getD 0) ∧
     (¬ inside → sparseGet 0 t.mem b = sparseGet 0 s.mem b) ∧
     (inside → sparseGet false t.memTags (b / 16) = tag) ∧
     ((∀ n, a ≤ n → n < a + bs.length → n / 16 ≠ b) → sparseGet false t.memTags b = sparseGet false s.memTags b) ∧
     (s.copyBad (64 * b) 1 = false → ¬ (a ≤ 64 * b ∧ 64 * b + 64 ≤ a + bs.length ∧ whole = true) →
       sparseGet false t.memPoison b = sparseGet false s.memPoison b) ∧
     (∀ (rid : Nat) (q : Req) (u : State), s.req? rid = some q → s.mayPerform rid q = true → q.path ≠ .window →
       q.kind = .store bs (bs.map (fun _ => true)) → s.merges = [] → exec (.homePortAccess rid) s = .next u →
       sparseGet 0 u.mem b = if q.addr ≤ b ∧ b < q.addr + bs.length then bs[b - q.addr]?.getD 0 else sparseGet 0 s.mem b))

/-- R22, R47, R54, R107, R110, R155: registers. A write to s0 or p0 is discarded, p0 reads as all ones, and s0 stays zero; a
write to any other register is what it then reads, makes it live, takes its poison from the write, and leaves every other
register as it was. -/
def Obligations.RegisterWrites : Prop :=
  ∀ (g : Regs) (a : Act) (w : RegWrite) (n : Nat) (x : Word64) (v : VReg) (k : KReg) (r : RegName),
    a.p 0 = BitVec.allOnes 64 ∧ g.put (wS 0 x) = g ∧ g.put (wP 0 x) = g ∧
    (sparseGet 0 g.s 0 = 0 → sparseGet 0 (g.put w).s 0 = 0) ∧
    (sparseWf 0 g.s = true → 0 < n → sparseGet 0 (g.put (wS n x)).s n = x) ∧
    (sparseWf 0 g.p = true → 0 < n → sparseGet 0 (g.put (wP n x)).p n = x) ∧
    (sparseWf {} g.v = true → sparseGet {} (g.put (wV n v)).v n = v) ∧
    (sparseWf {} g.k = true → sparseGet {} (g.put (wK n k)).k n = k) ∧
    (sparseWf 0 g.b = true → sparseGet 0 (g.put (wB n (x.setWidth 32))).b n = x.setWidth 32) ∧
    (w.reg ≠ sreg 0 → w.reg ≠ preg 0 →
      (w.reg.num < w.reg.file.size → (g.put w).live w.reg = true) ∧ tableGet? (g.put w).poison (regKey w.reg) = w.poison) ∧
    (r ≠ w.reg → r.num < 64 → w.reg.num < 64 →
      (g.put w).live r = g.live r ∧ tableGet? (g.put w).poison (regKey r) = tableGet? g.poison (regKey r)) ∧
    (∀ m, m ≠ w.reg.num ∨ w.reg.file ≠ .s → sparseGet 0 (g.put w).s m = sparseGet 0 g.s m) ∧
    (∀ m, m ≠ w.reg.num ∨ w.reg.file ≠ .v → sparseGet {} (g.put w).v m = sparseGet {} g.v m) ∧
    (∀ m, m ≠ w.reg.num ∨ w.reg.file ≠ .p → sparseGet 0 (g.put w).p m = sparseGet 0 g.p m) ∧
    (∀ m, m ≠ w.reg.num ∨ w.reg.file ≠ .b → sparseGet 0 (g.put w).b m = sparseGet 0 g.b m) ∧
    (∀ m, m ≠ w.reg.num ∨ w.reg.file ≠ .k → sparseGet {} (g.put w).k m = sparseGet {} g.k m)

/-- R98, R294..R298: taking a trap. Once every tag that is not a restartable wait is free it saves cause, detail, address,
word, resume word, queue, status and code together, and enters M mode from M and S mode otherwise, with TIP set, IE clear,
an empty queue and the vector's object and word; otherwise it stays pending. UNCORR, RETLOST and MCHECK stop the context for
the armature; a fault in a handler stops it with the saved registers as they were, and ends its gang with grade 3, while RETLOST
and MCHECK, which are no faults of a word, only stop it there (log 8); and an interrupt is taken only with IE set and TIP clear, TIMER first, then the lowest line. -/
def Obligations.TrapsAreTaken : Prop :=
  ∀ (s : State) (aid n : Nat) (t : TrapReq),
    let x := s.act aid
    let u := s.takeTrap aid t
    let y := u.act aid
    let saved : Prop := y.trap.tcause = BitVec.ofNat 64 t.cause ∧ y.trap.tdetail = t.detail ∧ y.trap.taddr = t.addr
      ∧ y.trap.tword = t.word.setWidth 64 ∧ y.trap.svpc = x.pc.setWidth 64 ∧ y.trap.svq0 = x.rdq0.toBits
      ∧ y.trap.svq1 = x.rdq1.toBits ∧ y.trap.svasw = x.asw ∧ y.trap.svcode = x.code
    let vec := if x.mode = 2 then x.trap.mtvec else x.trap.stvec
    let stops (c : Nat) : Prop := c = cUNCORR ∨ c = cRETLOST ∨ c = cMCHECK
    (s.quiet aid = false → y.trapPend = some t ∧ y.pc = x.pc ∧ y.trap = x.trap ∧ y.asw = x.asw) ∧
    (s.quiet aid = true → x.fixed = [] → x.tip = false → ¬ stops t.cause →
      saved ∧ y.mode = (if x.mode = 2 then 2 else 1) ∧ y.tip = true ∧ y.ie = false ∧ y.rm = x.rm ∧ y.mg = x.mg
        ∧ y.ap = x.ap ∧ y.asw.extractLsb' 11 5 = x.asw.extractLsb' 11 5 ∧ y.pc = vec.setWidth 32 ∧ y.rdq0 = {}
        ∧ y.rdq1 = {} ∧ bits y.code 63 40 = bits vec 63 40 ∧ y.regs = x.regs ∧ y.bank = x.bank ∧ y.run = x.run) ∧
    (s.quiet aid = true → x.fixed = [] → x.tip = false → stops t.cause →
      saved ∧ y.run = .stopped ∧ y.pc = x.pc ∧ y.asw = x.asw) ∧
    (s.quiet aid = true → x.fixed = [] → x.tip = true → t.cause = cRETLOST ∨ t.cause = cMCHECK →
      y.run = .stopped ∧ y.trap = x.trap) ∧
    (s.quiet aid = true → x.fixed = [] → x.tip = true → t.cause ≠ cTIMER → t.cause ≠ cEXTINT → t.cause ≠ cRETLOST →
      t.cause ≠ cMCHECK → (tableGet? s.gangs x.gang).isSome = true →
      y.run = .stopped ∧ y.trap = x.trap ∧ (u.gang x.gang).endPend = some (0, 3)
        ∧ (u.gang x.gang).faultPend = some t ∧ (u.gang x.gang).faultCore = x.core) ∧
    (x.ie = false ∨ x.tip = true → s.interruptOf x = none) ∧
    (x.ie = true → x.tip = false → x.trap.timecmp ≠ 0 → x.trap.timecmp.toNat ≤ s.tick →
      (s.interruptOf x).map (fun z => (z.cause, z.detail)) = some (cTIMER, 0)) ∧
    (x.ie = true → x.tip = false → x.trap.timecmp = 0 → x.timerPend = false → n < 16 → x.trap.extpend.getLsbD n = true →
      (∀ m < n, x.trap.extpend.getLsbD m = false) →
      (s.interruptOf x).map (fun z => (z.cause, z.detail)) = some (cEXTINT, BitVec.ofNat 64 n))

/-- R98, R130, R135: TRET restores status, code, queue and resume word, and never raises the mode. What a trap saves, TRET restores.
No other word of the set lowers the mode of the context that runs it from one of the three modes, whatever next state it answers,
and a scalar word leaves it as it was. -/
def Obligations.TrapReturnRestores : Prop :=
  ∀ (a : Act) (s t : State) (c aid : Nat) (cl : Clauses) (r : TrapReq) (i : Instr),
    let x := s.act aid
    let y := t.act aid
    let ok (e : RdqEntry) : Prop := e.valid = true → e.rem = 1 ∨ e.rem = 2
    (x.mode ≠ 0 → bits x.trap.svasw 1 0 ≤ x.mode → bits x.trap.svasw 1 0 ≠ 3 → s.Clear c aid (.tret cl) cl {} →
      s.stip c = 0 → x.fixed = [] → exec (.tret cl) s = .next t →
      y.asw = x.trap.svasw &&& 0xFBFF ∧ y.code = x.trap.svcode ∧ y.pc = x.trap.svpc.setWidth 32
        ∧ y.rdq0 = RdqEntry.ofBits x.trap.svq0 ∧ y.rdq1 = RdqEntry.ofBits x.trap.svq1 ∧ y.mode ≤ x.mode
        ∧ y.regs = x.regs ∧ y.bank = x.bank ∧ s.SameStore t) ∧
    (ok a.rdq0 → ok a.rdq1 → a.asw &&& ~~~(0xFBFF : Word64) = 0 →
      let b := (s.enterHandler (a.saveTrap r)).trapReturn
      b.asw = a.asw ∧ b.code = a.code ∧ b.pc = a.pc ∧ b.rdq0 = a.rdq0 ∧ b.rdq1 = a.rdq1) ∧
    (scalarWord i = true → s.Clear c aid i (fieldsOf i).cl {} → s.stip c = 0 → x.fixed = [] → exec i s = .next t →
      y.mode = x.mode ∧ y.tip = x.tip) ∧
    ((layout i).isSome = true → (∀ cl', i ≠ .tret cl') → x.mode ≠ 3 → s.Holds c aid → exec i s = .next t →
      (tableGet? t.acts aid).isSome = true → x.mode ≤ y.mode)

/-- R48, R49, R54, R150, R152, R156..R165, R167, R168, R171, R296: faults of accesses, in their order. A local or scratchpad access
that is not aligned raises MISALIGN and one outside the allocation CAPBOUND; a device access raises CAPTAG, CAPRIGHTS, CAPBOUND,
MISALIGN, then what its translation finds, and a translation that the core does not hold makes it wait for a walk. A vector load
with a reserved tag or a block word with a reserved bit raises FORMAT before these, as does a vector store under a bound register
whose elements are no floating point, and so do a gather and a scatter with a register of another type; the lowest element of one
that lies outside raises CAPBOUND. ZEROL checks alignment, then its length, then its range. CNARROW makes a valid capability of the
same object whose rights and bounds lie within those it narrows. The model's choices, where the rules leave them open: the order of
an entry's own faults (log 17), the offset that CAPBOUND reports (log 18), the operand that FORMAT names (log 11), and what ZEROL's
MISALIGN reports for a length (log 77). -/
def Obligations.AccessFaultsAndNarrowing : Prop :=
  (∀ (mod : BitVec 4) (d a b c : BitVec 6) (imm : BitVec 16) (cl : Clauses),
     let n : Nat := 2 ^ (mod.toNat % 4)
     let atom : Nat := if mod.getLsbD 3 then 8 else 4
     let plain (x : Act) : Word64 := x.s a.toNat + imm.signExtend 64
     let vec (x : Act) : Word64 := x.s a.toNat + (imm.extractLsb' 5 11).signExtend 64 * 64
     let dev (x : Act) : Word64 := x.s b.toNat + imm.signExtend 64
     let ordered (x : Act) : Word64 := if mod.getLsbD 3 then x.s b.toNat else dev x
     let vdev (x : Act) : Word64 := x.s b.toNat + (imm.extractLsb' 5 11).signExtend 64 * 64
     let base (x : Act) : Word64 := x.s b.toNat
     let any (_ : Act) : Prop := True
     let t := imm.toNat % 32
     let tagged (x : Act) : Prop := tagKnown t = true ∧ (tagBlock t = true → bwOk t ((x.s c.toNat).setWidth 32) = true)
     let bounded (x : Act) : Prop := imm.getLsbD 4 = true →
       tagFloat (x.v c.toNat).tag.toNat = true ∨ tagFp8 (x.v c.toNat).tag.toNat = true
     let w : Need := { memWord := true }
     let release : Need := { memWord := true, release := mod.getLsbD 3 }
     let ord : Need := { memWord := true, release := decide (2 ≤ imm.toNat / 16 % 4) }
     let scope := imm.toNat % 8
     let rights := rA + rW + (if scope = 6 then rS else 0)
     let cls (op n : Nat) : Nat := if (op = 0x4E ∨ op = 0x51 ∨ op = 0x52) ∧ n = 8 ∧ scope = 6 then 1 else 2
     let atomic (i : Instr) (op n : Nat) : Prop := AccessOrder i cl ord op a.toNat rights n true (cls op n) base any
     let format (i : Instr) (ok : Act → Prop) (t : Act → Nat) : Prop :=
       Raises i cl memNeed (fun _ x _ => ok x) (fun _ x _ => mkTrap cFORMAT (t x))
     let vload (i : Instr) : Prop :=
       format i (fun _ => tagKnown t = false) (fun _ => t + 3 * 32) ∧
       format i (fun x => tagKnown t = true ∧ tagBlock t = true ∧ bwOk t ((x.s c.toNat).setWidth 32) = false)
         (fun _ => t + 4 * 32)
     let vstore (i : Instr) : Prop := format i (fun x => ¬ bounded x) (fun x => (x.v c.toNat).tag.toNat + 2 * 32)
     LocalOrder (.ldl mod d a imm cl) cl 0x40 1 n plain any ∧ LocalOrder (.stl mod a c imm cl) cl 0x41 1 n plain any ∧
     LocalOrder (.ldq mod d a imm cl) cl 0x42 2 n plain any ∧ LocalOrder (.stq mod a c imm cl) cl 0x43 2 n plain any ∧
     LocalOrder (.vldl d a c imm cl) cl 0x46 1 64 vec tagged ∧ LocalOrder (.vstl mod a c imm cl) cl 0x47 1 64 vec bounded ∧
     LocalOrder (.vldq d a c imm cl) cl 0x48 2 64 vec tagged ∧ LocalOrder (.vstq mod a c imm cl) cl 0x49 2 64 vec bounded ∧
     AccessOrder (.ld mod d a b imm cl) cl w 0x44 a.toNat rR n false 0 ordered any ∧
     AccessOrder (.st mod a b c imm cl) cl release 0x45 a.toNat rW n true 0 ordered any ∧
     AccessOrder (.vld d a b c imm cl) cl w 0x4A a.toNat rR 64 false 0 vdev tagged ∧
     AccessOrder (.vst mod a b c imm cl) cl w 0x4B a.toNat rW 64 true 0 vdev bounded ∧
     AccessOrder (.cld d a b imm cl) cl w 0x56 a.toNat (rR + rC) 16 false 0 dev any ∧
     AccessOrder (.cst a b c imm cl) cl w 0x57 a.toNat (rW + rC) 16 true 3 dev any ∧
     atomic (.aadd mod d a b c imm cl) 0x4E atom ∧ atomic (.alog mod d a b c imm cl) 0x4F atom ∧
     atomic (.amnx mod d a b c imm cl) 0x50 atom ∧ atomic (.aswp mod d a b c imm cl) 0x51 atom ∧
     atomic (.acas mod d a b c imm cl) 0x52 atom ∧ atomic (.afadd mod d a b c imm cl) 0x53 (if mod = 0 then 4 else 2) ∧
     AccessOrder (.waitmem mod d a b c imm cl) cl w 0x54 a.toNat rR atom false 2 base any ∧
     AccessOrder (.signal a b c imm cl) cl { memWord := true, release := true } 0x5D a.toNat rights 8 true 2 base any ∧
     vload (.vldl d a c imm cl) ∧ vload (.vldq d a c imm cl) ∧ vload (.vld d a b c imm cl) ∧
     vstore (.vstl mod a c imm cl) ∧ vstore (.vstq mod a c imm cl) ∧ vstore (.vst mod a b c imm cl)) ∧
  (∀ (mod : BitVec 4) (d a b c : BitVec 6) (imm : BitVec 16) (j : Nat) (cl : Clauses),
     let t := imm.toNat % 32
     let typed (x : Act) : Prop := (x.v b.toNat).tag = 4
     let gather : Prop := t = 0 ∨ t = 4 ∨ t = 6
     let data (x : Act) : Prop := (x.v c.toNat).tag = 0 ∨ tagWidth (x.v c.toNat).tag.toNat = 32
     let place (x : Act) (i : Nat) : Word64 :=
       x.s a.toNat + BitVec.ofInt 64 (sextNat (elem (x.v b.toNat).data 32 i) 32 * 4)
     let out (x : Act) (i : Nat) : Prop :=
       i < 16 ∧ (x.p (mod.toNat % 8)).getLsbD (4 * i) = true ∧ x.lmAddr (place x i).toNat 4 = none
     let order (i : Instr) (op : Nat) (ok : Act → Prop) : Prop :=
       Raises i cl memNeed (fun _ x _ => ok x ∧ (x.s a.toNat).toNat % 4 ≠ 0) (fun _ x _ => mkTrap cMISALIGN op (x.s a.toNat)) ∧
       Raises i cl memNeed (fun _ x _ => ok x ∧ (x.s a.toNat).toNat % 4 = 0 ∧ out x j ∧ ∀ m < j, ¬ out x m)
         (fun _ x _ => mkTrap cCAPBOUND (1 + op * 256) (place x j))
     let load : Instr := .vgathl mod d a b imm cl
     let store : Instr := .vscatl mod a b c cl
     (¬ gather → Raises load cl memNeed always (fun _ _ _ => mkTrap cFORMAT (t + 3 * 32))) ∧
     (gather → Raises load cl memNeed (fun _ x _ => ¬ typed x) (fun _ x _ => mkTrap cFORMAT ((x.v b.toNat).tag.toNat + 32))) ∧
     Raises store cl memNeed (fun _ x _ => ¬ typed x) (fun _ x _ => mkTrap cFORMAT ((x.v b.toNat).tag.toNat + 32)) ∧
     Raises store cl memNeed (fun _ x _ => typed x ∧ ¬ data x)
       (fun _ x _ => mkTrap cFORMAT ((x.v c.toNat).tag.toNat + 2 * 32)) ∧
     (gather → order load 0x4C typed) ∧ order store 0x4D (fun x => typed x ∧ data x)) ∧
  (∀ (a b : BitVec 6) (cl : Clauses),
     let len (x : Act) : Nat := (x.s b.toNat).toNat
     let start (x : Act) : Prop := (x.s a.toNat).toNat % 64 = 0
     Raises (.zerol a b cl) cl memNeed (fun _ x _ => ¬ start x) (fun _ x _ => mkTrap cMISALIGN 0x5E (x.s a.toNat)) ∧
     Raises (.zerol a b cl) cl memNeed (fun _ x _ => start x ∧ len x % 64 ≠ 0) (fun _ x _ => mkTrap cMISALIGN 0x5E (x.s b.toNat)) ∧
     Raises (.zerol a b cl) cl memNeed
       (fun _ x _ => start x ∧ len x % 64 = 0
         ∧ (65536 < len x ∨ (len x ≠ 0 ∧ x.lmAddr (x.s a.toNat).toNat (len x) = none)))
       (fun _ x _ => mkTrap cCAPBOUND (1 + 0x5E * 256) (x.s a.toNat))) ∧
  (∀ (d a b c : BitVec 6) (imm : BitVec 16) (cl : Clauses) (s : State) (h aid : Nat),
     let x := s.act aid
     let k := x.k a.toNat
     s.Clear h aid (.cnarrow d a b c imm cl) cl {} → k.valid = true → k.reserved = false →
     k.lo + (x.s b.toNat).toNat + (x.s c.toNat).toNat ≤ k.hi →
     ∃ v : KReg, exec (.cnarrow d a b c imm cl) s = .next (s.issue h aid (.cnarrow d a b c imm cl) cl (writeK s d.toNat v))
       ∧ v.valid = true ∧ v.object = k.object ∧ v.reserved = false ∧ v.rights &&& k.rights = v.rights
       ∧ v.rights &&& (imm.toNat % 128) = v.rights ∧ k.lo ≤ v.lo ∧ v.lo + (x.s c.toNat).toNat = v.hi ∧ v.hi ≤ k.hi)

/-- R22, R41, R51, R53, R97, R130, R198, R201, R207: a context as it is dispatched: at the launch's entry word in its code
object, with k0 its argument, s1 its rank and s2 its gang's size live and no other register live, the queue empty, no bound,
no flag, interrupts enabled, rounding to nearest, no trap in progress, and no program or cut. The model's choices, where the
rules leave them open: what a register that is not live holds (log 5), and the trap vectors and the trap bank (log 3). -/
def Obligations.DispatchedContexts : Prop :=
  ∀ (s : State) (aid gid n idx core slot : Nat) (g : Gang) (p : Place), g.lrec.mode < 3 →
    let a := s.newAct aid gid n g p idx core slot
    let per := g.lrec.cores * g.lrec.acts
    a.pc = g.lrec.entry ∧ bits a.code 63 40 = g.code.object % 2 ^ 24 ∧ a.k 0 = g.arg
      ∧ a.s 1 = BitVec.ofNat 64 (n * per + idx) ∧ a.s 2 = BitVec.ofNat 64 (g.lrec.crews * per)
      ∧ a.s 0 = 0 ∧ a.p 0 = BitVec.allOnes 64
      ∧ (∀ r : RegName, r.num < 64 → a.live r = true →
          r ∈ [sreg 0, sreg 1, sreg 2, preg 0, kreg 0])
      ∧ (∀ r ∈ [sreg 0, sreg 1, sreg 2, preg 0, kreg 0], a.live r = true)
      ∧ (∀ r, a.v r = {}) ∧ a.lk = 0 ∧ a.lc = 0 ∧ a.rdq0 = {} ∧ a.rdq1 = {} ∧ a.mode = g.lrec.mode ∧ a.ie = true
      ∧ a.tip = false ∧ a.rm = 0 ∧ a.mg = 0 ∧ a.ap = false ∧ a.asw.extractLsb' 11 5 = 0 ∧ (∀ b, a.bound b = {})
      ∧ a.gen.loaded = false ∧ a.cut.isSet = false ∧ a.fixed = [] ∧ a.lmLen = g.lrec.lmem * 4096
      ∧ a.qsLen = g.lrec.qsmem * 65536 ∧ a.srstate ≠ 0

/-- R51, R69..R71, R208, R213, R214, R216..R222: what the matrix unit leaves. Element by element of the tile that a word writes:
zeros, the transpose, sums, differences, products with a scalar, a bias by row or column, a clamp, the widened elements that a
load reads and zeros beyond its rows and columns, one quarter of one row and the rest as it was, the image of a restore; a product
adds to each element of its rows and columns its exact integer sum modulo 2^32, or its chunks in FP32, and keeps the others. In
registers: a quarter of a row, a reduced quarter of the rows, a row dot product, with the tile's tag and block word 0. In local
memory or scratchpad: the stored elements of each row, or the image, and every other byte as it was. And every word clears its tag
and leaves the queue, changes no tile but its own and no tile's tag, which its issue has set, and no memory unless it stores. The
model's choices, where the rules leave them open: that poison is judged when a word issues (log 8), that a word which writes a whole
tile replaces its poison (log 46). -/
def Obligations.MatrixUnitResults : Prop :=
  ∀ (s : State) (c oid d a b row q off fmt cols p i j n op fa fb : Nat) (o : Op) (w : MatWord) (data : BitVec 512)
    (k lo hi : BitVec 32) (sub i32 byRow quad : Bool) (offs : List Nat) (u : Tile) (image : Table (List Byte))
    (as bs : List (Nat × Nat)) (rows : List (Nat × List (Nat × Nat))) (ts : List (Nat × Nat)),
    let x := s.act o.act
    let after (w : MatWord) : State := s.matPerform c oid o w
    let is (w : MatWord) (v : BitVec 32) : Prop := ((after w).tile c d).get i j = v
    let va : BitVec 32 := (s.tile c a).get i j
    let vb : BitVec 32 := (s.tile c b).get i j
    let f (x : BitVec 32) : Val := fp32.decode x.toNat
    let r (v : Val) : BitVec 32 := BitVec.ofNat 32 (toFp32 v)
    let word (p : Nat) : BitVec 32 := BitVec.ofNat 32 (bytesToNat (s.lmRead c p 4))
    let width := tileWidth fmt
    let wide : BoundReg := { lo := lo, hi := hi }
    let dense (i32 : Bool) : MatWord := .product d cols fa fb i32 as bs rows
    let bytes : List Byte := (List.range 257).flatMap (fun i => (tableGet? image i).getD (List.replicate 64 0))
    let whole : Prop := ((bytes.drop 16384).headD 0).toNat ≤ 1 ∧ (bytes.drop 16385).all (· == 0) = true
    let mem (s : State) : Sparse Byte := if quad then (s.quad (coreQuad c)).qs else (s.core c).lm
    let byte (w : MatWord) : Byte := sparseGet 0 (mem (after w)) n
    (i < 64 → j < 64 →
      is (.zero d) 0 ∧ is (.transpose d a) ((s.tile c a).get j i) ∧
      is (.addT d a b sub true) (if sub then va - vb else va + vb) ∧
      is (.addT d a b sub false) (r ((f va).add 0 (if sub then (f vb).negate else f vb)).1) ∧
      is (.scale d a k true false) (va * k) ∧ is (.scale d a k false false) (r ((f va).mul (f k)).1) ∧
      is (.scale d a k true true) (r ((Val.ofInt va.toInt).mul (f k)).1) ∧
      is (.bias d a off byRow true) (va + word (off + 4 * (if byRow then i else j))) ∧
      is (.bias d a off byRow false) (r ((f va).add 0 (f (word (off + 4 * (if byRow then i else j))))).1) ∧
      is (.clamp d a lo hi true) (if va.toInt < lo.toInt then lo else if hi.toInt < va.toInt then hi else va) ∧
      is (.clamp d a lo hi false) (if boundOut wide (f va) then BitVec.ofNat 32 (boundClamp wide 6 (f va)) else va) ∧
      (offs[i]? = none ∨ cols ≤ j → is (.load d fmt offs cols) 0) ∧
      (offs[i]? = some p → j < cols →
        is (.load d fmt offs cols) (loadElem fmt (bytesToNat (s.lmRead c (p + j * width) width)))) ∧
      is (.rowFromV d data row q)
        (if i = row ∧ 16 * q ≤ j ∧ j < 16 * q + 16 then data.extractLsb' (32 * (j - 16 * q)) 32 else (s.tile c d).get i j) ∧
      is (.restTile d u) (u.get i j) ∧
      (whole → is (.restDev d image) (BitVec.ofNat 32 (bytesToNat ((bytes.drop (4 * (64 * i + j))).take 4)))
        ∧ ((after (.restDev d image)).tile c d).i32 = decide (((bytes.drop 16384).headD 0).toNat = 1)) ∧
      (rows.find? (fun r => r.1 == i) = none ∨ cols ≤ j → is (dense i32) ((s.tile c d).get i j)) ∧
      (rows.find? (fun r => r.1 == i) = some (i, ts) → j < cols →
        is (dense true) ((s.tile c d).get i j + BitVec.ofInt 32 ((ts.map (fun t =>
          intVal fa (as[t.1]?.getD (0, 0)).1 * intVal fb (bs[t.2 * 64 + j]?.getD (0, 0)).1)).foldl (· + ·) 0)) ∧
        is (dense false) (BitVec.ofNat 32 (fpElem ((s.tile c d).get i j).toNat (ts.map (fun t =>
          (((opVal fa (as[t.1]?.getD (0, 255))).1.mul (opVal fb (bs[t.2 * 64 + j]?.getD (0, 255))).1).1,
            (opVal fa (as[t.1]?.getD (0, 255))).2, (opVal fb (bs[t.2 * 64 + j]?.getD (0, 255))).2)))))) ) ∧
    (x.block ≠ some .exit → sparseWf {} x.regs.v = true → n < 16 →
      let v (w : MatWord) : VReg := ((after w).act o.act).v d
      let holds (w : MatWord) (y : Nat) : Prop := (v w).tag = (if i32 then 4 else 6) ∧ (v w).bw = 0 ∧ elem (v w).data 32 n = y
      let m := 16 * q + n
      holds (.vFromRow d a row q i32) ((s.tile c a).get row m).toNat ∧
      holds (.reduce d a op q i32) ((treeReduce (nodeOf (if i32 then 4 else 6) op 0)
        ((List.range 64).map (fun j => ((s.tile c a).get m j).toNat))).1 % 2 ^ 32) ∧
      (i32 = true → holds (.dot d a b q true)
        (((List.range 64).map (fun j => (s.tile c a).get m j * (s.tile c b).get m j)).foldl (· + ·) 0).toNat) ∧
      (i32 = false → holds (.dot d a b q false) (toFp32 (chunkSum ((List.range 64).map (fun j =>
        ((f ((s.tile c a).get m j)).mul (f ((s.tile c b).get m j))).1))) % 2 ^ 32))) ∧
    (x.block ≠ some .exit → Memory.wf (mem s) = true →
      let foot (p : Nat) : Prop := p ≤ n ∧ n < p + cols * width
      let store : MatWord := .store a fmt quad offs cols none
      let save : MatWord := .saveTile a i32 quad off
      ((∀ p ∈ offs, ¬ foot p) → byte store = sparseGet 0 (mem s) n) ∧
      (offs[i]? = some p → foot p → (∀ (m : Nat) (p' : Nat), i < m → offs[m]? = some p' → ¬ foot p') →
        byte store = BitVec.ofNat 8 (storeElem fmt ((s.tile c a).get i ((n - p) / width)) / 2 ^ (8 * ((n - p) % width)))) ∧
      (n < off ∨ off + 16448 ≤ n → byte save = sparseGet 0 (mem s) n) ∧
      (off ≤ n → n < off + 16384 → byte save = BitVec.ofNat 8
        (((s.tile c a).get ((n - off) / 256) ((n - off) / 4 % 64)).toNat / 2 ^ (8 * ((n - off) % 4)))) ∧
      (n = off + 16384 → byte save = if i32 then 1 else 0) ∧ (off + 16384 < n → n < off + 16448 → byte save = 0)) ∧
    (x.block ≠ some .exit →
      let t := after w
      t.op? oid = none ∧ (∀ rest, (s.core c).mqueue = oid :: rest → (t.core c).mqueue = rest) ∧
      (∀ h : Nat, w.dest ≠ some h → t.tile c h = s.tile c h) ∧
      ((∀ d image, w ≠ .restDev d image) → ∀ h, (t.tile c h).i32 = (s.tile c h).i32) ∧
      (w.stores = false → (t.core c).lm = (s.core c).lm ∧ t.quads = s.quads) ∧
      t.mem = s.mem ∧ t.memTags = s.memTags ∧ t.memPoison = s.memPoison ∧
      (∀ h, h ≠ c → h ≠ x.core → tableGet? t.cores h = tableGet? s.cores h) ∧
      (∀ h, h ≠ o.act → tableGet? t.acts h = tableGet? s.acts h) ∧
      (¬ whole → x.trapPend = none →
        ((after (.restDev d image)).act o.act).trapPend.map (fun t => t.cause) = some cFORMAT))

/-- R41, R43, R47, R54, R99, R105..R107, R113, R129..R132, R142, R144, R152, R153, R174, R208, R223..R230: THE FRAME of the other
words that write no memory when they issue (`frameWord`): loads, what sends or starts a store, an atomic or a tile store,
capability, system, vector, matrix, pattern and exchange words. Whichever next state they answer, with no stipple sampling (R344),
every memory with its poison, the tiles' elements, the units, the other cores and the other contexts stay as they were, and what a
partition holds does unless SWR, SRSET or SRCLR writes it. A word that issues with no result in flight leaves every register but
its destination, every live bit but those of its destination and of what it releases (DEADMK says its own, R144), and every special
register but those that it writes itself; the flags of a result land with the result (R132); lk and lc only CALL and LOOP change. -/
def Obligations.OtherWordsFrame : Prop :=
  ∀ (i : Instr) (s t : State) (c aid : Nat),
    let cl := (fieldsOf i).cl
    let x := s.act aid
    let y := t.act aid
    frameWord i = true → WellFormed i → s.Holds c aid → s.stip c = 0 → exec i s = .next t →
    s.Keeps t c aid ∧ (writesSystem i = false → t.parts = s.parts) ∧
    (x.fixed = [] → y.num = x.num + 1 →
      x.SameSpecial (x.putBack i y) ∧
      (∀ r : RegName, r.num < 64 → some r ≠ destOf i →
        y.valOf r = x.valOf r ∧ y.poison? r = x.poison? r ∧
          (r ∉ releases i cl → (∀ m a, i ≠ .deadmk m a cl) → y.live r = x.live r)) ∧
      (cl.seqMode ≠ 4 → cl.seqMode ≠ 6 → y.lk = x.lk ∧ y.lc = x.lc))
end

