-- ==== Sys2Proof/Laws/Sparse.lean ====
section
/-! SUPPORT. Laws of sparse maps and tables: reading after writing, and that every write keeps the canonical form. -/
namespace Sys2Proof.Machine

/-! ## Tables -/

@[simp] theorem tableGet?_nil {α : Type} (n : Nat) : tableGet? ([] : Table α) n = none := rfl

@[simp] theorem tableGet?_tableSet_same {α : Type} (t : Table α) (n : Nat) (x : α) :
    tableGet? (tableSet t n x) n = some x := by
  induction t with
  | nil => simp [tableSet, tableGet?]
  | cons h r ih =>
    obtain ⟨k, v⟩ := h
    simp only [tableSet]
    split
    · simp [tableGet?]
    · split
      · simp [tableGet?]
      · rename_i h1 h2; simp [tableGet?, h2, ih]

theorem tableGet?_tableSet_other {α : Type} (t : Table α) {m n : Nat} (x : α) (h : m ≠ n) :
    tableGet? (tableSet t n x) m = tableGet? t m := by
  induction t with
  | nil => simp [tableSet, tableGet?, h]
  | cons e r ih =>
    obtain ⟨k, v⟩ := e
    simp only [tableSet]
    split
    · simp [tableGet?, h]
    · split
      · rename_i h1 h2; subst h2; simp [tableGet?, h]
      · simp only [tableGet?, ih]

theorem tableGet?_tableSet {α : Type} (t : Table α) (m n : Nat) (x : α) :
    tableGet? (tableSet t n x) m = if m = n then some x else tableGet? t m := by
  by_cases h : m = n
  · subst h; simp
  · simp [h, tableGet?_tableSet_other t x h]

theorem tableGet?_tableErase_other {α : Type} (t : Table α) {m n : Nat} (h : m ≠ n) :
    tableGet? (tableErase t n) m = tableGet? t m := by
  induction t with
  | nil => rfl
  | cons e r ih =>
    obtain ⟨k, v⟩ := e
    simp only [tableErase]
    split
    · rename_i hk; subst hk; simp [tableGet?, h, ih]
    · simp only [tableGet?, ih]

@[simp] theorem tableGet?_tableErase_same {α : Type} (t : Table α) (n : Nat) : tableGet? (tableErase t n) n = none := by
  induction t with
  | nil => rfl
  | cons e r ih =>
    obtain ⟨k, v⟩ := e
    simp only [tableErase]
    split
    · exact ih
    · rename_i hk; simp [tableGet?, hk, ih]

theorem mem_tableSet {α : Type} {t : Table α} {n : Nat} {x : α} {e : Nat × α} (h : e ∈ tableSet t n x) :
    e = (n, x) ∨ e ∈ t := by
  induction t with
  | nil => simpa [tableSet] using h
  | cons y r ih =>
    obtain ⟨k, v⟩ := y
    simp only [tableSet] at h
    split at h
    · simpa using h
    · split at h
      · rcases List.mem_cons.mp h with h | h
        · exact .inl h
        · exact .inr (List.mem_cons_of_mem _ h)
      · rcases List.mem_cons.mp h with h | h
        · exact .inr (h ▸ List.mem_cons_self)
        · exact (ih h).imp id (List.mem_cons_of_mem _)

theorem mem_of_tableErase {α : Type} {t : Table α} {n : Nat} {e : Nat × α} (h : e ∈ tableErase t n) : e ∈ t := by
  induction t with
  | nil => exact h
  | cons y r ih =>
    obtain ⟨k, v⟩ := y
    simp only [tableErase] at h
    split at h
    · exact List.mem_cons_of_mem _ (ih h)
    · rcases List.mem_cons.mp h with h | h
      · exact h ▸ List.mem_cons_self
      · exact List.mem_cons_of_mem _ (ih h)

theorem mem_of_tableGet? {α : Type} {t : Table α} {n : Nat} {x : α} (h : tableGet? t n = some x) : (n, x) ∈ t := by
  induction t with
  | nil => cases h
  | cons y r ih =>
    obtain ⟨k, v⟩ := y
    simp only [tableGet?] at h
    split at h
    · rename_i hk; cases h; subst hk; exact List.mem_cons_self
    · exact List.mem_cons_of_mem _ (ih h)

/-! ## Sparse maps -/

section
variable {α : Type} [DecidableEq α] {d : α}

theorem sparseWf_tail {k : Nat} {v : α} {r : Sparse α} (h : sparseWf d ((k, v) :: r) = true) :
    sparseWf d r = true := by
  cases r with
  | nil => rfl
  | cons e r => obtain ⟨k', v'⟩ := e; simp only [sparseWf, Bool.and_eq_true] at h; exact h.2

theorem sparseWf_head {k : Nat} {v : α} {r : Sparse α} (h : sparseWf d ((k, v) :: r) = true) : v ≠ d := by
  cases r with
  | nil => simpa [sparseWf] using h
  | cons e r => obtain ⟨k', v'⟩ := e; simp only [sparseWf, Bool.and_eq_true, decide_eq_true_eq] at h; exact h.1.1

/-- Every key of a canonical tail lies above the head's. -/
theorem sparseWf_lt {r : Sparse α} {k : Nat} {v : α} (h : sparseWf d ((k, v) :: r) = true) :
    ∀ e ∈ r, k < e.1 := by
  induction r generalizing k v with
  | nil => simp
  | cons e r ih =>
    obtain ⟨k', v'⟩ := e
    have h' := h
    simp only [sparseWf, Bool.and_eq_true, decide_eq_true_eq] at h'
    intro x hx
    rcases List.mem_cons.mp hx with rfl | hx
    · exact h'.1.2
    · exact Nat.lt_trans h'.1.2 (ih (sparseWf_tail h) x hx)

theorem sparseGet_of_lt {r : Sparse α} {n : Nat} (h : ∀ e ∈ r, n < e.1) : sparseGet d r n = d := by
  induction r with
  | nil => rfl
  | cons e r ih =>
    obtain ⟨k, v⟩ := e
    have hk : n < k := h (k, v) (by simp)
    simp only [sparseGet]
    rw [if_neg (by omega)]
    exact ih (fun e he => h e (by simp [he]))

theorem sparseWf_cons {k : Nat} {v : α} {r : Sparse α} (hv : v ≠ d) (hr : sparseWf d r = true)
    (hlt : ∀ e ∈ r, k < e.1) : sparseWf d ((k, v) :: r) = true := by
  cases r with
  | nil => simp [sparseWf, hv]
  | cons e r =>
    obtain ⟨k', v'⟩ := e
    have := hlt (k', v') (by simp)
    simp only [sparseWf, Bool.and_eq_true, decide_eq_true_eq]
    exact ⟨⟨hv, this⟩, hr⟩

theorem sparseSet_keys {m : Sparse α} {n : Nat} {x : α} {e : Nat × α} (h : e ∈ sparseSet d m n x) :
    e.1 = n ∨ ∃ e' ∈ m, e'.1 = e.1 := by
  induction m with
  | nil =>
    simp only [sparseSet] at h
    split at h
    · simp at h
    · simp at h; exact .inl (by rw [h])
  | cons y r ih =>
    obtain ⟨k, v⟩ := y
    simp only [sparseSet] at h
    split at h
    · split at h
      · exact .inr ⟨e, h, rfl⟩
      · rcases List.mem_cons.mp h with rfl | h
        · exact .inl rfl
        · exact .inr ⟨e, h, rfl⟩
    · split at h
      · rename_i hn
        split at h
        · exact .inr ⟨e, by simp [h], rfl⟩
        · rcases List.mem_cons.mp h with rfl | h
          · exact .inl rfl
          · exact .inr ⟨e, by simp [h], rfl⟩
      · rcases List.mem_cons.mp h with rfl | h
        · exact .inr ⟨(k, v), by simp, rfl⟩
        · rcases ih h with h | ⟨e', he', hk⟩
          · exact .inl h
          · exact .inr ⟨e', by simp [he'], hk⟩

/-- A write keeps the canonical form. -/
theorem sparseWf_sparseSet {m : Sparse α} (n : Nat) (x : α) (h : sparseWf d m = true) :
    sparseWf d (sparseSet d m n x) = true := by
  induction m with
  | nil => simp only [sparseSet]; split <;> simp_all [sparseWf]
  | cons y r ih =>
    obtain ⟨k, v⟩ := y
    have hr := sparseWf_tail h
    have hl := sparseWf_lt h
    simp only [sparseSet]
    split
    · split
      · exact h
      · rename_i hk hx
        refine sparseWf_cons hx h ?_
        intro e he
        rcases List.mem_cons.mp he with rfl | he
        · exact hk
        · exact Nat.lt_trans hk (hl e he)
    · split
      · rename_i hn
        subst hn
        split
        · exact hr
        · rename_i hx; exact sparseWf_cons hx hr hl
      · rename_i h1 h2
        refine sparseWf_cons (sparseWf_head h) (ih hr) ?_
        intro e he
        rcases sparseSet_keys he with he | ⟨e', he', hk⟩
        · omega
        · rw [← hk]; exact hl e' he'

theorem sparseGet_sparseSet {m : Sparse α} (n a : Nat) (x : α) (h : sparseWf d m = true) :
    sparseGet d (sparseSet d m n x) a = if a = n then x else sparseGet d m a := by
  induction m with
  | nil =>
    simp only [sparseSet]
    split
    · rename_i hx; subst hx; simp [sparseGet]
    · simp [sparseGet]
  | cons y r ih =>
    obtain ⟨k, v⟩ := y
    have hr := sparseWf_tail h
    have hl := sparseWf_lt h
    simp only [sparseSet]
    split
    · rename_i hk
      split
      · rename_i hx
        subst hx
        by_cases ha : a = n
        · subst ha
          simp only [sparseGet, if_true]
          rw [if_neg (by omega)]
          exact sparseGet_of_lt (fun e he => Nat.lt_trans hk (hl e he))
        · simp [ha]
      · simp only [sparseGet]
    · split
      · rename_i hn
        subst hn
        split
        · rename_i hx
          subst hx
          by_cases ha : a = n
          · subst ha; simp [sparseGet_of_lt hl]
          · simp [sparseGet, ha]
        · by_cases ha : a = n <;> simp [sparseGet, ha]
      · rename_i h1 h2
        simp only [sparseGet, ih hr]
        by_cases ha : a = k
        · subst ha; simp; intro h; omega
        · simp [ha]

theorem sparseGet_sparseSet_same {m : Sparse α} (n : Nat) (x : α) (h : sparseWf d m = true) :
    sparseGet d (sparseSet d m n x) n = x := by simp [sparseGet_sparseSet n n x h]

theorem sparseGet_sparseSet_other {m : Sparse α} {n a : Nat} (x : α) (h : sparseWf d m = true) (ha : a ≠ n) :
    sparseGet d (sparseSet d m n x) a = sparseGet d m a := by simp [sparseGet_sparseSet n a x h, ha]

theorem sparseWf_filter {m : Sparse α} (p : Nat × α → Bool) (h : sparseWf d m = true) :
    sparseWf d (m.filter p) = true := by
  induction m with
  | nil => rfl
  | cons y r ih =>
    obtain ⟨k, v⟩ := y
    have hr := ih (sparseWf_tail h)
    have hl := sparseWf_lt h
    simp only [List.filter]
    split
    · exact sparseWf_cons (sparseWf_head h) hr (fun e he => hl e ((List.mem_filter.mp he).1))
    · exact hr

/-- Folding writes over a list keeps the canonical form. -/
theorem sparseWf_foldl {β : Type} (l : List β) (f : Sparse α → β → Sparse α) {m : Sparse α}
    (hf : ∀ m x, sparseWf d m = true → sparseWf d (f m x) = true) (h : sparseWf d m = true) :
    sparseWf d (l.foldl f m) = true := by
  induction l generalizing m with
  | nil => exact h
  | cons x l ih => exact ih (hf m x h)

end

/-! ## Bytes -/

theorem sparseWf_sparseWrite (bs : List Byte) {m : Sparse Byte} (a : Nat) (h : Memory.wf m = true) :
    Memory.wf (sparseWrite m a bs) = true := by
  induction bs generalizing m a with
  | nil => exact h
  | cons b bs ih => exact ih (a + 1) (sparseWf_sparseSet a b h)

theorem sparseWf_sparseWriteMasked (bs : List Byte) (ks : List Bool) {m : Sparse Byte} (a : Nat)
    (h : Memory.wf m = true) : Memory.wf (sparseWriteMasked m a bs ks) = true := by
  induction bs generalizing m a ks with
  | nil => cases ks <;> exact h
  | cons b bs ih =>
    cases ks with
    | nil => exact ih [] (a + 1) (sparseWf_sparseSet a b h)
    | cons k ks =>
      simp only [sparseWriteMasked]
      split
      · exact ih ks (a + 1) (sparseWf_sparseSet a b h)
      · exact ih ks (a + 1) h

/-- Consecutive bytes written change no byte outside them. -/
theorem sparseGet_sparseWrite_other (bs : List Byte) {m : Sparse Byte} {a x : Nat} (h : Memory.wf m = true)
    (hx : x < a ∨ a + bs.length ≤ x) : sparseGet 0 (sparseWrite m a bs) x = sparseGet 0 m x := by
  induction bs generalizing m a with
  | nil => rfl
  | cons b bs ih =>
    simp only [List.length_cons] at hx
    simp only [sparseWrite]
    rw [ih (sparseWf_sparseSet a b h) (by omega), sparseGet_sparseSet_other b h (by omega)]

/-- The byte written at each place is read there. -/
theorem sparseGet_sparseWrite (bs : List Byte) {m : Sparse Byte} (a i : Nat) (h : Memory.wf m = true)
    (hi : i < bs.length) : sparseGet 0 (sparseWrite m a bs) (a + i) = bs[i] := by
  induction bs generalizing m a i with
  | nil => simp at hi
  | cons b bs ih =>
    simp only [sparseWrite]
    cases i with
    | zero =>
      rw [sparseGet_sparseWrite_other bs (sparseWf_sparseSet a b h) (by omega)]
      exact sparseGet_sparseSet_same a b h
    | succ i =>
      have := ih (a + 1) i (sparseWf_sparseSet a b h) (by simpa using hi)
      simpa [Nat.add_assoc, Nat.add_comm 1 i] using this

theorem sparseRead_length (m : Sparse Byte) (a n : Nat) : (sparseRead m a n).length = n := by simp [sparseRead]

/-- Reading what was written. -/
theorem sparseRead_sparseWrite (bs : List Byte) {m : Sparse Byte} (a : Nat) (h : Memory.wf m = true) :
    sparseRead (sparseWrite m a bs) a bs.length = bs := by
  apply List.ext_getElem
  · simp [sparseRead]
  · intro i h1 h2
    simp only [sparseRead, List.getElem_map, List.getElem_range]
    exact sparseGet_sparseWrite bs a i h h2

theorem cleanWhole_wf (m : Sparse Bool) (a n : Nat) (h : Marks.wf m = true) : Marks.wf (cleanWhole m a n) = true :=
  sparseWf_foldl _ _ (fun m l hm => by
    split
    · exact sparseWf_sparseSet _ _ hm
    · exact hm) h

end Sys2Proof.Machine
end

