-- ==== Sys2Proof/Laws/State.lean ====
section
/-! SUPPORT. Laws of the state: what each named update does to each field, and what each accessor reads after it. -/
namespace Sys2Proof.Machine

/-! ## setCore -/

@[simp] theorem State.setCore_schedule (s : State) (c : Nat) (x : Core) : (s.setCore c x).schedule = s.schedule := rfl
@[simp] theorem State.setCore_focus (s : State) (c : Nat) (x : Core) : (s.setCore c x).focus = s.focus := rfl
@[simp] theorem State.setCore_draws (s : State) (c : Nat) (x : Core) : (s.setCore c x).draws = s.draws := rfl
@[simp] theorem State.setCore_fresh (s : State) (c : Nat) (x : Core) : (s.setCore c x).fresh = s.fresh := rfl
@[simp] theorem State.setCore_tick (s : State) (c : Nat) (x : Core) : (s.setCore c x).tick = s.tick := rfl
@[simp] theorem State.setCore_acts (s : State) (c : Nat) (x : Core) : (s.setCore c x).acts = s.acts := rfl
@[simp] theorem State.setCore_ops (s : State) (c : Nat) (x : Core) : (s.setCore c x).ops = s.ops := rfl
@[simp] theorem State.setCore_reqs (s : State) (c : Nat) (x : Core) : (s.setCore c x).reqs = s.reqs := rfl
@[simp] theorem State.setCore_cores (s : State) (c : Nat) (x : Core) : (s.setCore c x).cores = tableSet s.cores c x := rfl
@[simp] theorem State.setCore_quads (s : State) (c : Nat) (x : Core) : (s.setCore c x).quads = s.quads := rfl
@[simp] theorem State.setCore_dies (s : State) (c : Nat) (x : Core) : (s.setCore c x).dies = s.dies := rfl
@[simp] theorem State.setCore_parts (s : State) (c : Nat) (x : Core) : (s.setCore c x).parts = s.parts := rfl
@[simp] theorem State.setCore_gangs (s : State) (c : Nat) (x : Core) : (s.setCore c x).gangs = s.gangs := rfl
@[simp] theorem State.setCore_insts (s : State) (c : Nat) (x : Core) : (s.setCore c x).insts = s.insts := rfl
@[simp] theorem State.setCore_mem (s : State) (c : Nat) (x : Core) : (s.setCore c x).mem = s.mem := rfl
@[simp] theorem State.setCore_memTags (s : State) (c : Nat) (x : Core) : (s.setCore c x).memTags = s.memTags := rfl
@[simp] theorem State.setCore_memPoison (s : State) (c : Nat) (x : Core) : (s.setCore c x).memPoison = s.memPoison := rfl
@[simp] theorem State.setCore_merges (s : State) (c : Nat) (x : Core) : (s.setCore c x).merges = s.merges := rfl
@[simp] theorem State.setCore_journals (s : State) (c : Nat) (x : Core) : (s.setCore c x).journals = s.journals := rfl
@[simp] theorem State.setCore_peerObjs (s : State) (c : Nat) (x : Core) : (s.setCore c x).peerObjs = s.peerObjs := rfl
@[simp] theorem State.setCore_walks (s : State) (c : Nat) (x : Core) : (s.setCore c x).walks = s.walks := rfl
@[simp] theorem State.setCore_partmap (s : State) (c : Nat) (x : Core) : (s.setCore c x).partmap = s.partmap := rfl
@[simp] theorem State.setCore_partmapNext (s : State) (c : Nat) (x : Core) : (s.setCore c x).partmapNext = s.partmapNext := rfl
@[simp] theorem State.setCore_thwarn (s : State) (c : Nat) (x : Core) : (s.setCore c x).thwarn = s.thwarn := rfl
@[simp] theorem State.setCore_triprec (s : State) (c : Nat) (x : Core) : (s.setCore c x).triprec = s.triprec := rfl
@[simp] theorem State.setCore_bootstat (s : State) (c : Nat) (x : Core) : (s.setCore c x).bootstat = s.bootstat := rfl
@[simp] theorem State.setCore_tamper (s : State) (c : Nat) (x : Core) : (s.setCore c x).tamper = s.tamper := rfl
@[simp] theorem State.setCore_nonce (s : State) (c : Nat) (x : Core) : (s.setCore c x).nonce = s.nonce := rfl
@[simp] theorem State.setCore_attgo (s : State) (c : Nat) (x : Core) : (s.setCore c x).attgo = s.attgo := rfl
@[simp] theorem State.setCore_att (s : State) (c : Nat) (x : Core) : (s.setCore c x).att = s.att := rfl
@[simp] theorem State.setCore_seq (s : State) (c : Nat) (x : Core) : (s.setCore c x).seq = s.seq := rfl
@[simp] theorem State.setCore_recs (s : State) (c : Nat) (x : Core) : (s.setCore c x).recs = s.recs := rfl
@[simp] theorem State.setCore_debugRefused (s : State) (c : Nat) (x : Core) : (s.setCore c x).debugRefused = s.debugRefused := rfl
@[simp] theorem State.setCore_haltAway (s : State) (c : Nat) (x : Core) : (s.setCore c x).haltAway = s.haltAway := rfl
@[simp] theorem State.setCore_links (s : State) (c : Nat) (x : Core) : (s.setCore c x).links = s.links := rfl
@[simp] theorem State.setCore_armature (s : State) (c : Nat) (x : Core) : (s.setCore c x).armature = s.armature := rfl
@[simp] theorem State.setCore_notices (s : State) (c : Nat) (x : Core) : (s.setCore c x).notices = s.notices := rfl
@[simp] theorem State.setCore_resets (s : State) (c : Nat) (x : Core) : (s.setCore c x).resets = s.resets := rfl
@[simp] theorem State.setCore_saving (s : State) (c : Nat) (x : Core) : (s.setCore c x).saving = s.saving := rfl
@[simp] theorem State.setCore_committed (s : State) (c : Nat) (x : Core) : (s.setCore c x).committed = s.committed := rfl
@[simp] theorem State.core_setCore_same (s : State) (c : Nat) (x : Core) : (s.setCore c x).core c = x := by simp [State.core]
theorem State.core_setCore_other (s : State) (c : Nat) (x : Core) {n : Nat} (h : n ≠ c) : (s.setCore c x).core n = s.core n := by
  simp [State.core, tableGet?_tableSet_other _ _ h]
@[simp] theorem State.act_setCore (s : State) (c : Nat) (x : Core) (n : Nat) : (s.setCore c x).act n = s.act n := rfl
@[simp] theorem State.quad_setCore (s : State) (c : Nat) (x : Core) (n : Nat) : (s.setCore c x).quad n = s.quad n := rfl
@[simp] theorem State.die_setCore (s : State) (c : Nat) (x : Core) (n : Nat) : (s.setCore c x).die n = s.die n := rfl
@[simp] theorem State.part_setCore (s : State) (c : Nat) (x : Core) (n : Nat) : (s.setCore c x).part n = s.part n := rfl
@[simp] theorem State.gang_setCore (s : State) (c : Nat) (x : Core) (n : Nat) : (s.setCore c x).gang n = s.gang n := rfl

/-! ## setAct -/

@[simp] theorem State.setAct_schedule (s : State) (a : Nat) (x : Act) : (s.setAct a x).schedule = s.schedule := rfl
@[simp] theorem State.setAct_focus (s : State) (a : Nat) (x : Act) : (s.setAct a x).focus = s.focus := rfl
@[simp] theorem State.setAct_draws (s : State) (a : Nat) (x : Act) : (s.setAct a x).draws = s.draws := rfl
@[simp] theorem State.setAct_fresh (s : State) (a : Nat) (x : Act) : (s.setAct a x).fresh = s.fresh := rfl
@[simp] theorem State.setAct_tick (s : State) (a : Nat) (x : Act) : (s.setAct a x).tick = s.tick := rfl
@[simp] theorem State.setAct_acts (s : State) (a : Nat) (x : Act) : (s.setAct a x).acts = tableSet s.acts a x := rfl
@[simp] theorem State.setAct_ops (s : State) (a : Nat) (x : Act) : (s.setAct a x).ops = s.ops := rfl
@[simp] theorem State.setAct_reqs (s : State) (a : Nat) (x : Act) : (s.setAct a x).reqs = s.reqs := rfl
@[simp] theorem State.setAct_cores (s : State) (a : Nat) (x : Act) : (s.setAct a x).cores = s.cores := rfl
@[simp] theorem State.setAct_quads (s : State) (a : Nat) (x : Act) : (s.setAct a x).quads = s.quads := rfl
@[simp] theorem State.setAct_dies (s : State) (a : Nat) (x : Act) : (s.setAct a x).dies = s.dies := rfl
@[simp] theorem State.setAct_parts (s : State) (a : Nat) (x : Act) : (s.setAct a x).parts = s.parts := rfl
@[simp] theorem State.setAct_gangs (s : State) (a : Nat) (x : Act) : (s.setAct a x).gangs = s.gangs := rfl
@[simp] theorem State.setAct_insts (s : State) (a : Nat) (x : Act) : (s.setAct a x).insts = s.insts := rfl
@[simp] theorem State.setAct_mem (s : State) (a : Nat) (x : Act) : (s.setAct a x).mem = s.mem := rfl
@[simp] theorem State.setAct_memTags (s : State) (a : Nat) (x : Act) : (s.setAct a x).memTags = s.memTags := rfl
@[simp] theorem State.setAct_memPoison (s : State) (a : Nat) (x : Act) : (s.setAct a x).memPoison = s.memPoison := rfl
@[simp] theorem State.setAct_merges (s : State) (a : Nat) (x : Act) : (s.setAct a x).merges = s.merges := rfl
@[simp] theorem State.setAct_journals (s : State) (a : Nat) (x : Act) : (s.setAct a x).journals = s.journals := rfl
@[simp] theorem State.setAct_peerObjs (s : State) (a : Nat) (x : Act) : (s.setAct a x).peerObjs = s.peerObjs := rfl
@[simp] theorem State.setAct_walks (s : State) (a : Nat) (x : Act) : (s.setAct a x).walks = s.walks := rfl
@[simp] theorem State.setAct_partmap (s : State) (a : Nat) (x : Act) : (s.setAct a x).partmap = s.partmap := rfl
@[simp] theorem State.setAct_partmapNext (s : State) (a : Nat) (x : Act) : (s.setAct a x).partmapNext = s.partmapNext := rfl
@[simp] theorem State.setAct_thwarn (s : State) (a : Nat) (x : Act) : (s.setAct a x).thwarn = s.thwarn := rfl
@[simp] theorem State.setAct_triprec (s : State) (a : Nat) (x : Act) : (s.setAct a x).triprec = s.triprec := rfl
@[simp] theorem State.setAct_bootstat (s : State) (a : Nat) (x : Act) : (s.setAct a x).bootstat = s.bootstat := rfl
@[simp] theorem State.setAct_tamper (s : State) (a : Nat) (x : Act) : (s.setAct a x).tamper = s.tamper := rfl
@[simp] theorem State.setAct_nonce (s : State) (a : Nat) (x : Act) : (s.setAct a x).nonce = s.nonce := rfl
@[simp] theorem State.setAct_attgo (s : State) (a : Nat) (x : Act) : (s.setAct a x).attgo = s.attgo := rfl
@[simp] theorem State.setAct_att (s : State) (a : Nat) (x : Act) : (s.setAct a x).att = s.att := rfl
@[simp] theorem State.setAct_seq (s : State) (a : Nat) (x : Act) : (s.setAct a x).seq = s.seq := rfl
@[simp] theorem State.setAct_recs (s : State) (a : Nat) (x : Act) : (s.setAct a x).recs = s.recs := rfl
@[simp] theorem State.setAct_debugRefused (s : State) (a : Nat) (x : Act) : (s.setAct a x).debugRefused = s.debugRefused := rfl
@[simp] theorem State.setAct_haltAway (s : State) (a : Nat) (x : Act) : (s.setAct a x).haltAway = s.haltAway := rfl
@[simp] theorem State.setAct_links (s : State) (a : Nat) (x : Act) : (s.setAct a x).links = s.links := rfl
@[simp] theorem State.setAct_armature (s : State) (a : Nat) (x : Act) : (s.setAct a x).armature = s.armature := rfl
@[simp] theorem State.setAct_notices (s : State) (a : Nat) (x : Act) : (s.setAct a x).notices = s.notices := rfl
@[simp] theorem State.setAct_resets (s : State) (a : Nat) (x : Act) : (s.setAct a x).resets = s.resets := rfl
@[simp] theorem State.setAct_saving (s : State) (a : Nat) (x : Act) : (s.setAct a x).saving = s.saving := rfl
@[simp] theorem State.setAct_committed (s : State) (a : Nat) (x : Act) : (s.setAct a x).committed = s.committed := rfl
@[simp] theorem State.core_setAct (s : State) (a : Nat) (x : Act) (n : Nat) : (s.setAct a x).core n = s.core n := rfl
@[simp] theorem State.act_setAct_same (s : State) (a : Nat) (x : Act) : (s.setAct a x).act a = x := by simp [State.act]
theorem State.act_setAct_other (s : State) (a : Nat) (x : Act) {n : Nat} (h : n ≠ a) : (s.setAct a x).act n = s.act n := by
  simp [State.act, tableGet?_tableSet_other _ _ h]
@[simp] theorem State.quad_setAct (s : State) (a : Nat) (x : Act) (n : Nat) : (s.setAct a x).quad n = s.quad n := rfl
@[simp] theorem State.die_setAct (s : State) (a : Nat) (x : Act) (n : Nat) : (s.setAct a x).die n = s.die n := rfl
@[simp] theorem State.part_setAct (s : State) (a : Nat) (x : Act) (n : Nat) : (s.setAct a x).part n = s.part n := rfl
@[simp] theorem State.gang_setAct (s : State) (a : Nat) (x : Act) (n : Nat) : (s.setAct a x).gang n = s.gang n := rfl

/-! ## setQuad -/

@[simp] theorem State.setQuad_schedule (s : State) (q : Nat) (x : Quad) : (s.setQuad q x).schedule = s.schedule := rfl
@[simp] theorem State.setQuad_focus (s : State) (q : Nat) (x : Quad) : (s.setQuad q x).focus = s.focus := rfl
@[simp] theorem State.setQuad_draws (s : State) (q : Nat) (x : Quad) : (s.setQuad q x).draws = s.draws := rfl
@[simp] theorem State.setQuad_fresh (s : State) (q : Nat) (x : Quad) : (s.setQuad q x).fresh = s.fresh := rfl
@[simp] theorem State.setQuad_tick (s : State) (q : Nat) (x : Quad) : (s.setQuad q x).tick = s.tick := rfl
@[simp] theorem State.setQuad_acts (s : State) (q : Nat) (x : Quad) : (s.setQuad q x).acts = s.acts := rfl
@[simp] theorem State.setQuad_ops (s : State) (q : Nat) (x : Quad) : (s.setQuad q x).ops = s.ops := rfl
@[simp] theorem State.setQuad_reqs (s : State) (q : Nat) (x : Quad) : (s.setQuad q x).reqs = s.reqs := rfl
@[simp] theorem State.setQuad_cores (s : State) (q : Nat) (x : Quad) : (s.setQuad q x).cores = s.cores := rfl
@[simp] theorem State.setQuad_quads (s : State) (q : Nat) (x : Quad) : (s.setQuad q x).quads = tableSet s.quads q x := rfl
@[simp] theorem State.setQuad_dies (s : State) (q : Nat) (x : Quad) : (s.setQuad q x).dies = s.dies := rfl
@[simp] theorem State.setQuad_parts (s : State) (q : Nat) (x : Quad) : (s.setQuad q x).parts = s.parts := rfl
@[simp] theorem State.setQuad_gangs (s : State) (q : Nat) (x : Quad) : (s.setQuad q x).gangs = s.gangs := rfl
@[simp] theorem State.setQuad_insts (s : State) (q : Nat) (x : Quad) : (s.setQuad q x).insts = s.insts := rfl
@[simp] theorem State.setQuad_mem (s : State) (q : Nat) (x : Quad) : (s.setQuad q x).mem = s.mem := rfl
@[simp] theorem State.setQuad_memTags (s : State) (q : Nat) (x : Quad) : (s.setQuad q x).memTags = s.memTags := rfl
@[simp] theorem State.setQuad_memPoison (s : State) (q : Nat) (x : Quad) : (s.setQuad q x).memPoison = s.memPoison := rfl
@[simp] theorem State.setQuad_merges (s : State) (q : Nat) (x : Quad) : (s.setQuad q x).merges = s.merges := rfl
@[simp] theorem State.setQuad_journals (s : State) (q : Nat) (x : Quad) : (s.setQuad q x).journals = s.journals := rfl
@[simp] theorem State.setQuad_peerObjs (s : State) (q : Nat) (x : Quad) : (s.setQuad q x).peerObjs = s.peerObjs := rfl
@[simp] theorem State.setQuad_walks (s : State) (q : Nat) (x : Quad) : (s.setQuad q x).walks = s.walks := rfl
@[simp] theorem State.setQuad_partmap (s : State) (q : Nat) (x : Quad) : (s.setQuad q x).partmap = s.partmap := rfl
@[simp] theorem State.setQuad_partmapNext (s : State) (q : Nat) (x : Quad) : (s.setQuad q x).partmapNext = s.partmapNext := rfl
@[simp] theorem State.setQuad_thwarn (s : State) (q : Nat) (x : Quad) : (s.setQuad q x).thwarn = s.thwarn := rfl
@[simp] theorem State.setQuad_triprec (s : State) (q : Nat) (x : Quad) : (s.setQuad q x).triprec = s.triprec := rfl
@[simp] theorem State.setQuad_bootstat (s : State) (q : Nat) (x : Quad) : (s.setQuad q x).bootstat = s.bootstat := rfl
@[simp] theorem State.setQuad_tamper (s : State) (q : Nat) (x : Quad) : (s.setQuad q x).tamper = s.tamper := rfl
@[simp] theorem State.setQuad_nonce (s : State) (q : Nat) (x : Quad) : (s.setQuad q x).nonce = s.nonce := rfl
@[simp] theorem State.setQuad_attgo (s : State) (q : Nat) (x : Quad) : (s.setQuad q x).attgo = s.attgo := rfl
@[simp] theorem State.setQuad_att (s : State) (q : Nat) (x : Quad) : (s.setQuad q x).att = s.att := rfl
@[simp] theorem State.setQuad_seq (s : State) (q : Nat) (x : Quad) : (s.setQuad q x).seq = s.seq := rfl
@[simp] theorem State.setQuad_recs (s : State) (q : Nat) (x : Quad) : (s.setQuad q x).recs = s.recs := rfl
@[simp] theorem State.setQuad_debugRefused (s : State) (q : Nat) (x : Quad) : (s.setQuad q x).debugRefused = s.debugRefused := rfl
@[simp] theorem State.setQuad_haltAway (s : State) (q : Nat) (x : Quad) : (s.setQuad q x).haltAway = s.haltAway := rfl
@[simp] theorem State.setQuad_links (s : State) (q : Nat) (x : Quad) : (s.setQuad q x).links = s.links := rfl
@[simp] theorem State.setQuad_armature (s : State) (q : Nat) (x : Quad) : (s.setQuad q x).armature = s.armature := rfl
@[simp] theorem State.setQuad_notices (s : State) (q : Nat) (x : Quad) : (s.setQuad q x).notices = s.notices := rfl
@[simp] theorem State.setQuad_resets (s : State) (q : Nat) (x : Quad) : (s.setQuad q x).resets = s.resets := rfl
@[simp] theorem State.setQuad_saving (s : State) (q : Nat) (x : Quad) : (s.setQuad q x).saving = s.saving := rfl
@[simp] theorem State.setQuad_committed (s : State) (q : Nat) (x : Quad) : (s.setQuad q x).committed = s.committed := rfl
@[simp] theorem State.core_setQuad (s : State) (q : Nat) (x : Quad) (n : Nat) : (s.setQuad q x).core n = s.core n := rfl
@[simp] theorem State.act_setQuad (s : State) (q : Nat) (x : Quad) (n : Nat) : (s.setQuad q x).act n = s.act n := rfl
@[simp] theorem State.quad_setQuad_same (s : State) (q : Nat) (x : Quad) : (s.setQuad q x).quad q = x := by simp [State.quad]
theorem State.quad_setQuad_other (s : State) (q : Nat) (x : Quad) {n : Nat} (h : n ≠ q) : (s.setQuad q x).quad n = s.quad n := by
  simp [State.quad, tableGet?_tableSet_other _ _ h]
@[simp] theorem State.die_setQuad (s : State) (q : Nat) (x : Quad) (n : Nat) : (s.setQuad q x).die n = s.die n := rfl
@[simp] theorem State.part_setQuad (s : State) (q : Nat) (x : Quad) (n : Nat) : (s.setQuad q x).part n = s.part n := rfl
@[simp] theorem State.gang_setQuad (s : State) (q : Nat) (x : Quad) (n : Nat) : (s.setQuad q x).gang n = s.gang n := rfl

/-! ## setDie -/

@[simp] theorem State.setDie_schedule (s : State) (d : Nat) (x : Die) : (s.setDie d x).schedule = s.schedule := rfl
@[simp] theorem State.setDie_focus (s : State) (d : Nat) (x : Die) : (s.setDie d x).focus = s.focus := rfl
@[simp] theorem State.setDie_draws (s : State) (d : Nat) (x : Die) : (s.setDie d x).draws = s.draws := rfl
@[simp] theorem State.setDie_fresh (s : State) (d : Nat) (x : Die) : (s.setDie d x).fresh = s.fresh := rfl
@[simp] theorem State.setDie_tick (s : State) (d : Nat) (x : Die) : (s.setDie d x).tick = s.tick := rfl
@[simp] theorem State.setDie_acts (s : State) (d : Nat) (x : Die) : (s.setDie d x).acts = s.acts := rfl
@[simp] theorem State.setDie_ops (s : State) (d : Nat) (x : Die) : (s.setDie d x).ops = s.ops := rfl
@[simp] theorem State.setDie_reqs (s : State) (d : Nat) (x : Die) : (s.setDie d x).reqs = s.reqs := rfl
@[simp] theorem State.setDie_cores (s : State) (d : Nat) (x : Die) : (s.setDie d x).cores = s.cores := rfl
@[simp] theorem State.setDie_quads (s : State) (d : Nat) (x : Die) : (s.setDie d x).quads = s.quads := rfl
@[simp] theorem State.setDie_dies (s : State) (d : Nat) (x : Die) : (s.setDie d x).dies = tableSet s.dies d x := rfl
@[simp] theorem State.setDie_parts (s : State) (d : Nat) (x : Die) : (s.setDie d x).parts = s.parts := rfl
@[simp] theorem State.setDie_gangs (s : State) (d : Nat) (x : Die) : (s.setDie d x).gangs = s.gangs := rfl
@[simp] theorem State.setDie_insts (s : State) (d : Nat) (x : Die) : (s.setDie d x).insts = s.insts := rfl
@[simp] theorem State.setDie_mem (s : State) (d : Nat) (x : Die) : (s.setDie d x).mem = s.mem := rfl
@[simp] theorem State.setDie_memTags (s : State) (d : Nat) (x : Die) : (s.setDie d x).memTags = s.memTags := rfl
@[simp] theorem State.setDie_memPoison (s : State) (d : Nat) (x : Die) : (s.setDie d x).memPoison = s.memPoison := rfl
@[simp] theorem State.setDie_merges (s : State) (d : Nat) (x : Die) : (s.setDie d x).merges = s.merges := rfl
@[simp] theorem State.setDie_journals (s : State) (d : Nat) (x : Die) : (s.setDie d x).journals = s.journals := rfl
@[simp] theorem State.setDie_peerObjs (s : State) (d : Nat) (x : Die) : (s.setDie d x).peerObjs = s.peerObjs := rfl
@[simp] theorem State.setDie_walks (s : State) (d : Nat) (x : Die) : (s.setDie d x).walks = s.walks := rfl
@[simp] theorem State.setDie_partmap (s : State) (d : Nat) (x : Die) : (s.setDie d x).partmap = s.partmap := rfl
@[simp] theorem State.setDie_partmapNext (s : State) (d : Nat) (x : Die) : (s.setDie d x).partmapNext = s.partmapNext := rfl
@[simp] theorem State.setDie_thwarn (s : State) (d : Nat) (x : Die) : (s.setDie d x).thwarn = s.thwarn := rfl
@[simp] theorem State.setDie_triprec (s : State) (d : Nat) (x : Die) : (s.setDie d x).triprec = s.triprec := rfl
@[simp] theorem State.setDie_bootstat (s : State) (d : Nat) (x : Die) : (s.setDie d x).bootstat = s.bootstat := rfl
@[simp] theorem State.setDie_tamper (s : State) (d : Nat) (x : Die) : (s.setDie d x).tamper = s.tamper := rfl
@[simp] theorem State.setDie_nonce (s : State) (d : Nat) (x : Die) : (s.setDie d x).nonce = s.nonce := rfl
@[simp] theorem State.setDie_attgo (s : State) (d : Nat) (x : Die) : (s.setDie d x).attgo = s.attgo := rfl
@[simp] theorem State.setDie_att (s : State) (d : Nat) (x : Die) : (s.setDie d x).att = s.att := rfl
@[simp] theorem State.setDie_seq (s : State) (d : Nat) (x : Die) : (s.setDie d x).seq = s.seq := rfl
@[simp] theorem State.setDie_recs (s : State) (d : Nat) (x : Die) : (s.setDie d x).recs = s.recs := rfl
@[simp] theorem State.setDie_debugRefused (s : State) (d : Nat) (x : Die) : (s.setDie d x).debugRefused = s.debugRefused := rfl
@[simp] theorem State.setDie_haltAway (s : State) (d : Nat) (x : Die) : (s.setDie d x).haltAway = s.haltAway := rfl
@[simp] theorem State.setDie_links (s : State) (d : Nat) (x : Die) : (s.setDie d x).links = s.links := rfl
@[simp] theorem State.setDie_armature (s : State) (d : Nat) (x : Die) : (s.setDie d x).armature = s.armature := rfl
@[simp] theorem State.setDie_notices (s : State) (d : Nat) (x : Die) : (s.setDie d x).notices = s.notices := rfl
@[simp] theorem State.setDie_resets (s : State) (d : Nat) (x : Die) : (s.setDie d x).resets = s.resets := rfl
@[simp] theorem State.setDie_saving (s : State) (d : Nat) (x : Die) : (s.setDie d x).saving = s.saving := rfl
@[simp] theorem State.setDie_committed (s : State) (d : Nat) (x : Die) : (s.setDie d x).committed = s.committed := rfl
@[simp] theorem State.core_setDie (s : State) (d : Nat) (x : Die) (n : Nat) : (s.setDie d x).core n = s.core n := rfl
@[simp] theorem State.act_setDie (s : State) (d : Nat) (x : Die) (n : Nat) : (s.setDie d x).act n = s.act n := rfl
@[simp] theorem State.quad_setDie (s : State) (d : Nat) (x : Die) (n : Nat) : (s.setDie d x).quad n = s.quad n := rfl
@[simp] theorem State.die_setDie_same (s : State) (d : Nat) (x : Die) : (s.setDie d x).die d = x := by simp [State.die]
theorem State.die_setDie_other (s : State) (d : Nat) (x : Die) {n : Nat} (h : n ≠ d) : (s.setDie d x).die n = s.die n := by
  simp [State.die, tableGet?_tableSet_other _ _ h]
@[simp] theorem State.part_setDie (s : State) (d : Nat) (x : Die) (n : Nat) : (s.setDie d x).part n = s.part n := rfl
@[simp] theorem State.gang_setDie (s : State) (d : Nat) (x : Die) (n : Nat) : (s.setDie d x).gang n = s.gang n := rfl

/-! ## setPart -/

@[simp] theorem State.setPart_schedule (s : State) (p : Nat) (x : Part) : (s.setPart p x).schedule = s.schedule := rfl
@[simp] theorem State.setPart_focus (s : State) (p : Nat) (x : Part) : (s.setPart p x).focus = s.focus := rfl
@[simp] theorem State.setPart_draws (s : State) (p : Nat) (x : Part) : (s.setPart p x).draws = s.draws := rfl
@[simp] theorem State.setPart_fresh (s : State) (p : Nat) (x : Part) : (s.setPart p x).fresh = s.fresh := rfl
@[simp] theorem State.setPart_tick (s : State) (p : Nat) (x : Part) : (s.setPart p x).tick = s.tick := rfl
@[simp] theorem State.setPart_acts (s : State) (p : Nat) (x : Part) : (s.setPart p x).acts = s.acts := rfl
@[simp] theorem State.setPart_ops (s : State) (p : Nat) (x : Part) : (s.setPart p x).ops = s.ops := rfl
@[simp] theorem State.setPart_reqs (s : State) (p : Nat) (x : Part) : (s.setPart p x).reqs = s.reqs := rfl
@[simp] theorem State.setPart_cores (s : State) (p : Nat) (x : Part) : (s.setPart p x).cores = s.cores := rfl
@[simp] theorem State.setPart_quads (s : State) (p : Nat) (x : Part) : (s.setPart p x).quads = s.quads := rfl
@[simp] theorem State.setPart_dies (s : State) (p : Nat) (x : Part) : (s.setPart p x).dies = s.dies := rfl
@[simp] theorem State.setPart_parts (s : State) (p : Nat) (x : Part) : (s.setPart p x).parts = tableSet s.parts p x := rfl
@[simp] theorem State.setPart_gangs (s : State) (p : Nat) (x : Part) : (s.setPart p x).gangs = s.gangs := rfl
@[simp] theorem State.setPart_insts (s : State) (p : Nat) (x : Part) : (s.setPart p x).insts = s.insts := rfl
@[simp] theorem State.setPart_mem (s : State) (p : Nat) (x : Part) : (s.setPart p x).mem = s.mem := rfl
@[simp] theorem State.setPart_memTags (s : State) (p : Nat) (x : Part) : (s.setPart p x).memTags = s.memTags := rfl
@[simp] theorem State.setPart_memPoison (s : State) (p : Nat) (x : Part) : (s.setPart p x).memPoison = s.memPoison := rfl
@[simp] theorem State.setPart_merges (s : State) (p : Nat) (x : Part) : (s.setPart p x).merges = s.merges := rfl
@[simp] theorem State.setPart_journals (s : State) (p : Nat) (x : Part) : (s.setPart p x).journals = s.journals := rfl
@[simp] theorem State.setPart_peerObjs (s : State) (p : Nat) (x : Part) : (s.setPart p x).peerObjs = s.peerObjs := rfl
@[simp] theorem State.setPart_walks (s : State) (p : Nat) (x : Part) : (s.setPart p x).walks = s.walks := rfl
@[simp] theorem State.setPart_partmap (s : State) (p : Nat) (x : Part) : (s.setPart p x).partmap = s.partmap := rfl
@[simp] theorem State.setPart_partmapNext (s : State) (p : Nat) (x : Part) : (s.setPart p x).partmapNext = s.partmapNext := rfl
@[simp] theorem State.setPart_thwarn (s : State) (p : Nat) (x : Part) : (s.setPart p x).thwarn = s.thwarn := rfl
@[simp] theorem State.setPart_triprec (s : State) (p : Nat) (x : Part) : (s.setPart p x).triprec = s.triprec := rfl
@[simp] theorem State.setPart_bootstat (s : State) (p : Nat) (x : Part) : (s.setPart p x).bootstat = s.bootstat := rfl
@[simp] theorem State.setPart_tamper (s : State) (p : Nat) (x : Part) : (s.setPart p x).tamper = s.tamper := rfl
@[simp] theorem State.setPart_nonce (s : State) (p : Nat) (x : Part) : (s.setPart p x).nonce = s.nonce := rfl
@[simp] theorem State.setPart_attgo (s : State) (p : Nat) (x : Part) : (s.setPart p x).attgo = s.attgo := rfl
@[simp] theorem State.setPart_att (s : State) (p : Nat) (x : Part) : (s.setPart p x).att = s.att := rfl
@[simp] theorem State.setPart_seq (s : State) (p : Nat) (x : Part) : (s.setPart p x).seq = s.seq := rfl
@[simp] theorem State.setPart_recs (s : State) (p : Nat) (x : Part) : (s.setPart p x).recs = s.recs := rfl
@[simp] theorem State.setPart_debugRefused (s : State) (p : Nat) (x : Part) : (s.setPart p x).debugRefused = s.debugRefused := rfl
@[simp] theorem State.setPart_haltAway (s : State) (p : Nat) (x : Part) : (s.setPart p x).haltAway = s.haltAway := rfl
@[simp] theorem State.setPart_links (s : State) (p : Nat) (x : Part) : (s.setPart p x).links = s.links := rfl
@[simp] theorem State.setPart_armature (s : State) (p : Nat) (x : Part) : (s.setPart p x).armature = s.armature := rfl
@[simp] theorem State.setPart_notices (s : State) (p : Nat) (x : Part) : (s.setPart p x).notices = s.notices := rfl
@[simp] theorem State.setPart_resets (s : State) (p : Nat) (x : Part) : (s.setPart p x).resets = s.resets := rfl
@[simp] theorem State.setPart_saving (s : State) (p : Nat) (x : Part) : (s.setPart p x).saving = s.saving := rfl
@[simp] theorem State.setPart_committed (s : State) (p : Nat) (x : Part) : (s.setPart p x).committed = s.committed := rfl
@[simp] theorem State.core_setPart (s : State) (p : Nat) (x : Part) (n : Nat) : (s.setPart p x).core n = s.core n := rfl
@[simp] theorem State.act_setPart (s : State) (p : Nat) (x : Part) (n : Nat) : (s.setPart p x).act n = s.act n := rfl
@[simp] theorem State.quad_setPart (s : State) (p : Nat) (x : Part) (n : Nat) : (s.setPart p x).quad n = s.quad n := rfl
@[simp] theorem State.die_setPart (s : State) (p : Nat) (x : Part) (n : Nat) : (s.setPart p x).die n = s.die n := rfl
@[simp] theorem State.part_setPart_same (s : State) (p : Nat) (x : Part) : (s.setPart p x).part p = x := by simp [State.part]
theorem State.part_setPart_other (s : State) (p : Nat) (x : Part) {n : Nat} (h : n ≠ p) : (s.setPart p x).part n = s.part n := by
  simp [State.part, tableGet?_tableSet_other _ _ h]
@[simp] theorem State.gang_setPart (s : State) (p : Nat) (x : Part) (n : Nat) : (s.setPart p x).gang n = s.gang n := rfl

/-! ## setGang -/

@[simp] theorem State.setGang_schedule (s : State) (g : Nat) (x : Gang) : (s.setGang g x).schedule = s.schedule := rfl
@[simp] theorem State.setGang_focus (s : State) (g : Nat) (x : Gang) : (s.setGang g x).focus = s.focus := rfl
@[simp] theorem State.setGang_draws (s : State) (g : Nat) (x : Gang) : (s.setGang g x).draws = s.draws := rfl
@[simp] theorem State.setGang_fresh (s : State) (g : Nat) (x : Gang) : (s.setGang g x).fresh = s.fresh := rfl
@[simp] theorem State.setGang_tick (s : State) (g : Nat) (x : Gang) : (s.setGang g x).tick = s.tick := rfl
@[simp] theorem State.setGang_acts (s : State) (g : Nat) (x : Gang) : (s.setGang g x).acts = s.acts := rfl
@[simp] theorem State.setGang_ops (s : State) (g : Nat) (x : Gang) : (s.setGang g x).ops = s.ops := rfl
@[simp] theorem State.setGang_reqs (s : State) (g : Nat) (x : Gang) : (s.setGang g x).reqs = s.reqs := rfl
@[simp] theorem State.setGang_cores (s : State) (g : Nat) (x : Gang) : (s.setGang g x).cores = s.cores := rfl
@[simp] theorem State.setGang_quads (s : State) (g : Nat) (x : Gang) : (s.setGang g x).quads = s.quads := rfl
@[simp] theorem State.setGang_dies (s : State) (g : Nat) (x : Gang) : (s.setGang g x).dies = s.dies := rfl
@[simp] theorem State.setGang_parts (s : State) (g : Nat) (x : Gang) : (s.setGang g x).parts = s.parts := rfl
@[simp] theorem State.setGang_gangs (s : State) (g : Nat) (x : Gang) : (s.setGang g x).gangs = tableSet s.gangs g x := rfl
@[simp] theorem State.setGang_insts (s : State) (g : Nat) (x : Gang) : (s.setGang g x).insts = s.insts := rfl
@[simp] theorem State.setGang_mem (s : State) (g : Nat) (x : Gang) : (s.setGang g x).mem = s.mem := rfl
@[simp] theorem State.setGang_memTags (s : State) (g : Nat) (x : Gang) : (s.setGang g x).memTags = s.memTags := rfl
@[simp] theorem State.setGang_memPoison (s : State) (g : Nat) (x : Gang) : (s.setGang g x).memPoison = s.memPoison := rfl
@[simp] theorem State.setGang_merges (s : State) (g : Nat) (x : Gang) : (s.setGang g x).merges = s.merges := rfl
@[simp] theorem State.setGang_journals (s : State) (g : Nat) (x : Gang) : (s.setGang g x).journals = s.journals := rfl
@[simp] theorem State.setGang_peerObjs (s : State) (g : Nat) (x : Gang) : (s.setGang g x).peerObjs = s.peerObjs := rfl
@[simp] theorem State.setGang_walks (s : State) (g : Nat) (x : Gang) : (s.setGang g x).walks = s.walks := rfl
@[simp] theorem State.setGang_partmap (s : State) (g : Nat) (x : Gang) : (s.setGang g x).partmap = s.partmap := rfl
@[simp] theorem State.setGang_partmapNext (s : State) (g : Nat) (x : Gang) : (s.setGang g x).partmapNext = s.partmapNext := rfl
@[simp] theorem State.setGang_thwarn (s : State) (g : Nat) (x : Gang) : (s.setGang g x).thwarn = s.thwarn := rfl
@[simp] theorem State.setGang_triprec (s : State) (g : Nat) (x : Gang) : (s.setGang g x).triprec = s.triprec := rfl
@[simp] theorem State.setGang_bootstat (s : State) (g : Nat) (x : Gang) : (s.setGang g x).bootstat = s.bootstat := rfl
@[simp] theorem State.setGang_tamper (s : State) (g : Nat) (x : Gang) : (s.setGang g x).tamper = s.tamper := rfl
@[simp] theorem State.setGang_nonce (s : State) (g : Nat) (x : Gang) : (s.setGang g x).nonce = s.nonce := rfl
@[simp] theorem State.setGang_attgo (s : State) (g : Nat) (x : Gang) : (s.setGang g x).attgo = s.attgo := rfl
@[simp] theorem State.setGang_att (s : State) (g : Nat) (x : Gang) : (s.setGang g x).att = s.att := rfl
@[simp] theorem State.setGang_seq (s : State) (g : Nat) (x : Gang) : (s.setGang g x).seq = s.seq := rfl
@[simp] theorem State.setGang_recs (s : State) (g : Nat) (x : Gang) : (s.setGang g x).recs = s.recs := rfl
@[simp] theorem State.setGang_debugRefused (s : State) (g : Nat) (x : Gang) : (s.setGang g x).debugRefused = s.debugRefused := rfl
@[simp] theorem State.setGang_haltAway (s : State) (g : Nat) (x : Gang) : (s.setGang g x).haltAway = s.haltAway := rfl
@[simp] theorem State.setGang_links (s : State) (g : Nat) (x : Gang) : (s.setGang g x).links = s.links := rfl
@[simp] theorem State.setGang_armature (s : State) (g : Nat) (x : Gang) : (s.setGang g x).armature = s.armature := rfl
@[simp] theorem State.setGang_notices (s : State) (g : Nat) (x : Gang) : (s.setGang g x).notices = s.notices := rfl
@[simp] theorem State.setGang_resets (s : State) (g : Nat) (x : Gang) : (s.setGang g x).resets = s.resets := rfl
@[simp] theorem State.setGang_saving (s : State) (g : Nat) (x : Gang) : (s.setGang g x).saving = s.saving := rfl
@[simp] theorem State.setGang_committed (s : State) (g : Nat) (x : Gang) : (s.setGang g x).committed = s.committed := rfl
@[simp] theorem State.core_setGang (s : State) (g : Nat) (x : Gang) (n : Nat) : (s.setGang g x).core n = s.core n := rfl
@[simp] theorem State.act_setGang (s : State) (g : Nat) (x : Gang) (n : Nat) : (s.setGang g x).act n = s.act n := rfl
@[simp] theorem State.quad_setGang (s : State) (g : Nat) (x : Gang) (n : Nat) : (s.setGang g x).quad n = s.quad n := rfl
@[simp] theorem State.die_setGang (s : State) (g : Nat) (x : Gang) (n : Nat) : (s.setGang g x).die n = s.die n := rfl
@[simp] theorem State.part_setGang (s : State) (g : Nat) (x : Gang) (n : Nat) : (s.setGang g x).part n = s.part n := rfl
@[simp] theorem State.gang_setGang_same (s : State) (g : Nat) (x : Gang) : (s.setGang g x).gang g = x := by simp [State.gang]
theorem State.gang_setGang_other (s : State) (g : Nat) (x : Gang) {n : Nat} (h : n ≠ g) : (s.setGang g x).gang n = s.gang n := by
  simp [State.gang, tableGet?_tableSet_other _ _ h]

/-! ## memPut and take -/

@[simp] theorem State.memPut_schedule (s : State) (n : Nat) (bs : List Byte) : (s.memPut n bs).schedule = s.schedule := rfl
@[simp] theorem State.memPut_focus (s : State) (n : Nat) (bs : List Byte) : (s.memPut n bs).focus = s.focus := rfl
@[simp] theorem State.memPut_draws (s : State) (n : Nat) (bs : List Byte) : (s.memPut n bs).draws = s.draws := rfl
@[simp] theorem State.memPut_fresh (s : State) (n : Nat) (bs : List Byte) : (s.memPut n bs).fresh = s.fresh := rfl
@[simp] theorem State.memPut_tick (s : State) (n : Nat) (bs : List Byte) : (s.memPut n bs).tick = s.tick := rfl
@[simp] theorem State.memPut_acts (s : State) (n : Nat) (bs : List Byte) : (s.memPut n bs).acts = s.acts := rfl
@[simp] theorem State.memPut_ops (s : State) (n : Nat) (bs : List Byte) : (s.memPut n bs).ops = s.ops := rfl
@[simp] theorem State.memPut_reqs (s : State) (n : Nat) (bs : List Byte) : (s.memPut n bs).reqs = s.reqs := rfl
@[simp] theorem State.memPut_cores (s : State) (n : Nat) (bs : List Byte) : (s.memPut n bs).cores = s.cores := rfl
@[simp] theorem State.memPut_quads (s : State) (n : Nat) (bs : List Byte) : (s.memPut n bs).quads = s.quads := rfl
@[simp] theorem State.memPut_dies (s : State) (n : Nat) (bs : List Byte) : (s.memPut n bs).dies = s.dies := rfl
@[simp] theorem State.memPut_parts (s : State) (n : Nat) (bs : List Byte) : (s.memPut n bs).parts = s.parts := rfl
@[simp] theorem State.memPut_gangs (s : State) (n : Nat) (bs : List Byte) : (s.memPut n bs).gangs = s.gangs := rfl
@[simp] theorem State.memPut_insts (s : State) (n : Nat) (bs : List Byte) : (s.memPut n bs).insts = s.insts := rfl
@[simp] theorem State.memPut_mem (s : State) (n : Nat) (bs : List Byte) : (s.memPut n bs).mem = sparseWrite s.mem n bs := rfl
@[simp] theorem State.memPut_memTags (s : State) (n : Nat) (bs : List Byte) : (s.memPut n bs).memTags = s.memTags := rfl
@[simp] theorem State.memPut_memPoison (s : State) (n : Nat) (bs : List Byte) : (s.memPut n bs).memPoison = s.memPoison := rfl
@[simp] theorem State.memPut_merges (s : State) (n : Nat) (bs : List Byte) : (s.memPut n bs).merges = s.merges := rfl
@[simp] theorem State.memPut_journals (s : State) (n : Nat) (bs : List Byte) : (s.memPut n bs).journals = s.journals := rfl
@[simp] theorem State.memPut_peerObjs (s : State) (n : Nat) (bs : List Byte) : (s.memPut n bs).peerObjs = s.peerObjs := rfl
@[simp] theorem State.memPut_walks (s : State) (n : Nat) (bs : List Byte) : (s.memPut n bs).walks = s.walks := rfl
@[simp] theorem State.memPut_partmap (s : State) (n : Nat) (bs : List Byte) : (s.memPut n bs).partmap = s.partmap := rfl
@[simp] theorem State.memPut_partmapNext (s : State) (n : Nat) (bs : List Byte) : (s.memPut n bs).partmapNext = s.partmapNext := rfl
@[simp] theorem State.memPut_thwarn (s : State) (n : Nat) (bs : List Byte) : (s.memPut n bs).thwarn = s.thwarn := rfl
@[simp] theorem State.memPut_triprec (s : State) (n : Nat) (bs : List Byte) : (s.memPut n bs).triprec = s.triprec := rfl
@[simp] theorem State.memPut_bootstat (s : State) (n : Nat) (bs : List Byte) : (s.memPut n bs).bootstat = s.bootstat := rfl
@[simp] theorem State.memPut_tamper (s : State) (n : Nat) (bs : List Byte) : (s.memPut n bs).tamper = s.tamper := rfl
@[simp] theorem State.memPut_nonce (s : State) (n : Nat) (bs : List Byte) : (s.memPut n bs).nonce = s.nonce := rfl
@[simp] theorem State.memPut_attgo (s : State) (n : Nat) (bs : List Byte) : (s.memPut n bs).attgo = s.attgo := rfl
@[simp] theorem State.memPut_att (s : State) (n : Nat) (bs : List Byte) : (s.memPut n bs).att = s.att := rfl
@[simp] theorem State.memPut_seq (s : State) (n : Nat) (bs : List Byte) : (s.memPut n bs).seq = s.seq := rfl
@[simp] theorem State.memPut_recs (s : State) (n : Nat) (bs : List Byte) : (s.memPut n bs).recs = s.recs := rfl
@[simp] theorem State.memPut_debugRefused (s : State) (n : Nat) (bs : List Byte) : (s.memPut n bs).debugRefused = s.debugRefused := rfl
@[simp] theorem State.memPut_haltAway (s : State) (n : Nat) (bs : List Byte) : (s.memPut n bs).haltAway = s.haltAway := rfl
@[simp] theorem State.memPut_links (s : State) (n : Nat) (bs : List Byte) : (s.memPut n bs).links = s.links := rfl
@[simp] theorem State.memPut_armature (s : State) (n : Nat) (bs : List Byte) : (s.memPut n bs).armature = s.armature := rfl
@[simp] theorem State.memPut_notices (s : State) (n : Nat) (bs : List Byte) : (s.memPut n bs).notices = s.notices := rfl
@[simp] theorem State.memPut_resets (s : State) (n : Nat) (bs : List Byte) : (s.memPut n bs).resets = s.resets := rfl
@[simp] theorem State.memPut_saving (s : State) (n : Nat) (bs : List Byte) : (s.memPut n bs).saving = s.saving := rfl
@[simp] theorem State.memPut_committed (s : State) (n : Nat) (bs : List Byte) : (s.memPut n bs).committed = s.committed := rfl
@[simp] theorem State.take_schedule (s : State) : s.take.2.schedule = s.schedule := rfl
@[simp] theorem State.take_focus (s : State) : s.take.2.focus = s.focus := rfl
@[simp] theorem State.take_draws (s : State) : s.take.2.draws = s.draws := rfl
@[simp] theorem State.take_fresh (s : State) : s.take.2.fresh = s.fresh + 1 := rfl
@[simp] theorem State.take_tick (s : State) : s.take.2.tick = s.tick := rfl
@[simp] theorem State.take_acts (s : State) : s.take.2.acts = s.acts := rfl
@[simp] theorem State.take_ops (s : State) : s.take.2.ops = s.ops := rfl
@[simp] theorem State.take_reqs (s : State) : s.take.2.reqs = s.reqs := rfl
@[simp] theorem State.take_cores (s : State) : s.take.2.cores = s.cores := rfl
@[simp] theorem State.take_quads (s : State) : s.take.2.quads = s.quads := rfl
@[simp] theorem State.take_dies (s : State) : s.take.2.dies = s.dies := rfl
@[simp] theorem State.take_parts (s : State) : s.take.2.parts = s.parts := rfl
@[simp] theorem State.take_gangs (s : State) : s.take.2.gangs = s.gangs := rfl
@[simp] theorem State.take_insts (s : State) : s.take.2.insts = s.insts := rfl
@[simp] theorem State.take_mem (s : State) : s.take.2.mem = s.mem := rfl
@[simp] theorem State.take_memTags (s : State) : s.take.2.memTags = s.memTags := rfl
@[simp] theorem State.take_memPoison (s : State) : s.take.2.memPoison = s.memPoison := rfl
@[simp] theorem State.take_merges (s : State) : s.take.2.merges = s.merges := rfl
@[simp] theorem State.take_journals (s : State) : s.take.2.journals = s.journals := rfl
@[simp] theorem State.take_peerObjs (s : State) : s.take.2.peerObjs = s.peerObjs := rfl
@[simp] theorem State.take_walks (s : State) : s.take.2.walks = s.walks := rfl
@[simp] theorem State.take_partmap (s : State) : s.take.2.partmap = s.partmap := rfl
@[simp] theorem State.take_partmapNext (s : State) : s.take.2.partmapNext = s.partmapNext := rfl
@[simp] theorem State.take_thwarn (s : State) : s.take.2.thwarn = s.thwarn := rfl
@[simp] theorem State.take_triprec (s : State) : s.take.2.triprec = s.triprec := rfl
@[simp] theorem State.take_bootstat (s : State) : s.take.2.bootstat = s.bootstat := rfl
@[simp] theorem State.take_tamper (s : State) : s.take.2.tamper = s.tamper := rfl
@[simp] theorem State.take_nonce (s : State) : s.take.2.nonce = s.nonce := rfl
@[simp] theorem State.take_attgo (s : State) : s.take.2.attgo = s.attgo := rfl
@[simp] theorem State.take_att (s : State) : s.take.2.att = s.att := rfl
@[simp] theorem State.take_seq (s : State) : s.take.2.seq = s.seq := rfl
@[simp] theorem State.take_recs (s : State) : s.take.2.recs = s.recs := rfl
@[simp] theorem State.take_debugRefused (s : State) : s.take.2.debugRefused = s.debugRefused := rfl
@[simp] theorem State.take_haltAway (s : State) : s.take.2.haltAway = s.haltAway := rfl
@[simp] theorem State.take_links (s : State) : s.take.2.links = s.links := rfl
@[simp] theorem State.take_armature (s : State) : s.take.2.armature = s.armature := rfl
@[simp] theorem State.take_notices (s : State) : s.take.2.notices = s.notices := rfl
@[simp] theorem State.take_resets (s : State) : s.take.2.resets = s.resets := rfl
@[simp] theorem State.take_saving (s : State) : s.take.2.saving = s.saving := rfl
@[simp] theorem State.take_committed (s : State) : s.take.2.committed = s.committed := rfl

/-! ## The counts of an issue, and the queue -/

@[simp] theorem Act.counted_part (a : Act) (op : Option Nat) : (a.counted op).part = a.part := rfl
@[simp] theorem Act.counted_gang (a : Act) (op : Option Nat) : (a.counted op).gang = a.gang := rfl
@[simp] theorem Act.counted_crew (a : Act) (op : Option Nat) : (a.counted op).crew = a.crew := rfl
@[simp] theorem Act.counted_index (a : Act) (op : Option Nat) : (a.counted op).index = a.index := rfl
@[simp] theorem Act.counted_rank (a : Act) (op : Option Nat) : (a.counted op).rank = a.rank := rfl
@[simp] theorem Act.counted_size (a : Act) (op : Option Nat) : (a.counted op).size = a.size := rfl
@[simp] theorem Act.counted_homeCore (a : Act) (op : Option Nat) : (a.counted op).homeCore = a.homeCore := rfl
@[simp] theorem Act.counted_homeSlot (a : Act) (op : Option Nat) : (a.counted op).homeSlot = a.homeSlot := rfl
@[simp] theorem Act.counted_core (a : Act) (op : Option Nat) : (a.counted op).core = a.core := rfl
@[simp] theorem Act.counted_slot (a : Act) (op : Option Nat) : (a.counted op).slot = a.slot := rfl
@[simp] theorem Act.counted_run (a : Act) (op : Option Nat) : (a.counted op).run = a.run := rfl
@[simp] theorem Act.counted_block (a : Act) (op : Option Nat) : (a.counted op).block = a.block := rfl
@[simp] theorem Act.counted_pc (a : Act) (op : Option Nat) : (a.counted op).pc = a.pc := rfl
@[simp] theorem Act.counted_lk (a : Act) (op : Option Nat) : (a.counted op).lk = a.lk := rfl
@[simp] theorem Act.counted_lc (a : Act) (op : Option Nat) : (a.counted op).lc = a.lc := rfl
@[simp] theorem Act.counted_rdq0 (a : Act) (op : Option Nat) : (a.counted op).rdq0 = a.rdq0 := rfl
@[simp] theorem Act.counted_rdq1 (a : Act) (op : Option Nat) : (a.counted op).rdq1 = a.rdq1 := rfl
@[simp] theorem Act.counted_asw (a : Act) (op : Option Nat) : (a.counted op).asw = a.asw := rfl
@[simp] theorem Act.counted_code (a : Act) (op : Option Nat) : (a.counted op).code = a.code := rfl
@[simp] theorem Act.counted_srstate (a : Act) (op : Option Nat) : (a.counted op).srstate = a.srstate := rfl
@[simp] theorem Act.counted_lmBase (a : Act) (op : Option Nat) : (a.counted op).lmBase = a.lmBase := rfl
@[simp] theorem Act.counted_lmLen (a : Act) (op : Option Nat) : (a.counted op).lmLen = a.lmLen := rfl
@[simp] theorem Act.counted_qsBase (a : Act) (op : Option Nat) : (a.counted op).qsBase = a.qsBase := rfl
@[simp] theorem Act.counted_qsLen (a : Act) (op : Option Nat) : (a.counted op).qsLen = a.qsLen := rfl
@[simp] theorem Act.counted_rings (a : Act) (op : Option Nat) : (a.counted op).rings = a.rings := rfl
@[simp] theorem Act.counted_tiles (a : Act) (op : Option Nat) : (a.counted op).tiles = a.tiles := rfl
@[simp] theorem Act.counted_regs (a : Act) (op : Option Nat) : (a.counted op).regs = a.regs := rfl
@[simp] theorem Act.counted_bank (a : Act) (op : Option Nat) : (a.counted op).bank = a.bank := rfl
@[simp] theorem Act.counted_bd (a : Act) (op : Option Nat) : (a.counted op).bd = a.bd := rfl
@[simp] theorem Act.counted_trap (a : Act) (op : Option Nat) : (a.counted op).trap = a.trap := rfl
@[simp] theorem Act.counted_timerPend (a : Act) (op : Option Nat) : (a.counted op).timerPend = a.timerPend := rfl
@[simp] theorem Act.counted_trapPend (a : Act) (op : Option Nat) : (a.counted op).trapPend = a.trapPend := rfl
@[simp] theorem Act.counted_traps (a : Act) (op : Option Nat) : (a.counted op).traps = a.traps := rfl
@[simp] theorem Act.counted_words (a : Act) (op : Option Nat) : (a.counted op).words = a.words + 1 := rfl
@[simp] theorem Act.counted_num (a : Act) (op : Option Nat) : (a.counted op).num = a.num + 1 := rfl
@[simp] theorem Act.counted_fixed (a : Act) (op : Option Nat) : (a.counted op).fixed = a.fixed := rfl
@[simp] theorem Act.counted_msh (a : Act) (op : Option Nat) : (a.counted op).msh = a.msh := rfl
@[simp] theorem Act.counted_mfm (a : Act) (op : Option Nat) : (a.counted op).mfm = a.mfm := rfl
@[simp] theorem Act.counted_msb (a : Act) (op : Option Nat) : (a.counted op).msb = a.msb := rfl
@[simp] theorem Act.counted_gen (a : Act) (op : Option Nat) : (a.counted op).gen = a.gen := rfl
@[simp] theorem Act.counted_cut (a : Act) (op : Option Nat) : (a.counted op).cut = a.cut := rfl
@[simp] theorem Act.counted_held (a : Act) (op : Option Nat) : (a.counted op).held = a.held := rfl
@[simp] theorem Act.counted_sent (a : Act) (op : Option Nat) : (a.counted op).sent = a.sent := rfl
@[simp] theorem Act.counted_arrivals (a : Act) (op : Option Nat) : (a.counted op).arrivals = a.arrivals := rfl
@[simp] theorem Act.counted_party (a : Act) (op : Option Nat) : (a.counted op).party = a.party := rfl
@[simp] theorem Act.counted_replay (a : Act) (op : Option Nat) : (a.counted op).replay = a.replay := rfl
@[simp] theorem Act.counted_backed (a : Act) (op : Option Nat) : (a.counted op).backed = a.backed := rfl
@[simp] theorem Act.counted_fetched (a : Act) (op : Option Nat) : (a.counted op).fetched = a.fetched := rfl
@[simp] theorem Act.counted_mig (a : Act) (op : Option Nat) : (a.counted op).mig = a.mig := rfl
@[simp] theorem Act.counted_migdst (a : Act) (op : Option Nat) : (a.counted op).migdst = a.migdst := rfl
@[simp] theorem Act.counted_migstat (a : Act) (op : Option Nat) : (a.counted op).migstat = a.migstat := rfl
@[simp] theorem Act.counted_lastOp (a : Act) (op : Option Nat) : (a.counted op).lastOp = op := rfl
@[simp] theorem Act.counted_lastPc (a : Act) (op : Option Nat) : (a.counted op).lastPc = a.pc := rfl
@[simp] theorem Act.counted_lastQ0 (a : Act) (op : Option Nat) : (a.counted op).lastQ0 = a.rdq0 := rfl
@[simp] theorem Act.counted_lastQ1 (a : Act) (op : Option Nat) : (a.counted op).lastQ1 = a.rdq1 := rfl
@[simp] theorem Act.counted_lastLk (a : Act) (op : Option Nat) : (a.counted op).lastLk = a.lastLk := rfl
@[simp] theorem Act.counted_lastLc (a : Act) (op : Option Nat) : (a.counted op).lastLc = a.lastLc := rfl
@[simp] theorem Act.counted_lastFreed (a : Act) (op : Option Nat) : (a.counted op).lastFreed = a.lastFreed := rfl
@[simp] theorem Act.counted_parkTick (a : Act) (op : Option Nat) : (a.counted op).parkTick = a.parkTick := rfl
@[simp] theorem Act.remember_part (a a0 : Act) (freed : List RegName) : (a.remember a0 freed).part = a.part := rfl
@[simp] theorem Act.remember_gang (a a0 : Act) (freed : List RegName) : (a.remember a0 freed).gang = a.gang := rfl
@[simp] theorem Act.remember_crew (a a0 : Act) (freed : List RegName) : (a.remember a0 freed).crew = a.crew := rfl
@[simp] theorem Act.remember_index (a a0 : Act) (freed : List RegName) : (a.remember a0 freed).index = a.index := rfl
@[simp] theorem Act.remember_rank (a a0 : Act) (freed : List RegName) : (a.remember a0 freed).rank = a.rank := rfl
@[simp] theorem Act.remember_size (a a0 : Act) (freed : List RegName) : (a.remember a0 freed).size = a.size := rfl
@[simp] theorem Act.remember_homeCore (a a0 : Act) (freed : List RegName) : (a.remember a0 freed).homeCore = a.homeCore := rfl
@[simp] theorem Act.remember_homeSlot (a a0 : Act) (freed : List RegName) : (a.remember a0 freed).homeSlot = a.homeSlot := rfl
@[simp] theorem Act.remember_core (a a0 : Act) (freed : List RegName) : (a.remember a0 freed).core = a.core := rfl
@[simp] theorem Act.remember_slot (a a0 : Act) (freed : List RegName) : (a.remember a0 freed).slot = a.slot := rfl
@[simp] theorem Act.remember_run (a a0 : Act) (freed : List RegName) : (a.remember a0 freed).run = a.run := rfl
@[simp] theorem Act.remember_block (a a0 : Act) (freed : List RegName) : (a.remember a0 freed).block = a.block := rfl
@[simp] theorem Act.remember_pc (a a0 : Act) (freed : List RegName) : (a.remember a0 freed).pc = a.pc := rfl
@[simp] theorem Act.remember_lk (a a0 : Act) (freed : List RegName) : (a.remember a0 freed).lk = a.lk := rfl
@[simp] theorem Act.remember_lc (a a0 : Act) (freed : List RegName) : (a.remember a0 freed).lc = a.lc := rfl
@[simp] theorem Act.remember_rdq0 (a a0 : Act) (freed : List RegName) : (a.remember a0 freed).rdq0 = a.rdq0 := rfl
@[simp] theorem Act.remember_rdq1 (a a0 : Act) (freed : List RegName) : (a.remember a0 freed).rdq1 = a.rdq1 := rfl
@[simp] theorem Act.remember_asw (a a0 : Act) (freed : List RegName) : (a.remember a0 freed).asw = a.asw := rfl
@[simp] theorem Act.remember_code (a a0 : Act) (freed : List RegName) : (a.remember a0 freed).code = a.code := rfl
@[simp] theorem Act.remember_srstate (a a0 : Act) (freed : List RegName) : (a.remember a0 freed).srstate = a.srstate := rfl
@[simp] theorem Act.remember_lmBase (a a0 : Act) (freed : List RegName) : (a.remember a0 freed).lmBase = a.lmBase := rfl
@[simp] theorem Act.remember_lmLen (a a0 : Act) (freed : List RegName) : (a.remember a0 freed).lmLen = a.lmLen := rfl
@[simp] theorem Act.remember_qsBase (a a0 : Act) (freed : List RegName) : (a.remember a0 freed).qsBase = a.qsBase := rfl
@[simp] theorem Act.remember_qsLen (a a0 : Act) (freed : List RegName) : (a.remember a0 freed).qsLen = a.qsLen := rfl
@[simp] theorem Act.remember_rings (a a0 : Act) (freed : List RegName) : (a.remember a0 freed).rings = a.rings := rfl
@[simp] theorem Act.remember_tiles (a a0 : Act) (freed : List RegName) : (a.remember a0 freed).tiles = a.tiles := rfl
@[simp] theorem Act.remember_regs (a a0 : Act) (freed : List RegName) : (a.remember a0 freed).regs = a.regs := rfl
@[simp] theorem Act.remember_bank (a a0 : Act) (freed : List RegName) : (a.remember a0 freed).bank = a.bank := rfl
@[simp] theorem Act.remember_bd (a a0 : Act) (freed : List RegName) : (a.remember a0 freed).bd = a.bd := rfl
@[simp] theorem Act.remember_trap (a a0 : Act) (freed : List RegName) : (a.remember a0 freed).trap = a.trap := rfl
@[simp] theorem Act.remember_timerPend (a a0 : Act) (freed : List RegName) : (a.remember a0 freed).timerPend = a.timerPend := rfl
@[simp] theorem Act.remember_trapPend (a a0 : Act) (freed : List RegName) : (a.remember a0 freed).trapPend = a.trapPend := rfl
@[simp] theorem Act.remember_traps (a a0 : Act) (freed : List RegName) : (a.remember a0 freed).traps = a.traps := rfl
@[simp] theorem Act.remember_words (a a0 : Act) (freed : List RegName) : (a.remember a0 freed).words = a.words := rfl
@[simp] theorem Act.remember_num (a a0 : Act) (freed : List RegName) : (a.remember a0 freed).num = a.num := rfl
@[simp] theorem Act.remember_fixed (a a0 : Act) (freed : List RegName) : (a.remember a0 freed).fixed = a.fixed := rfl
@[simp] theorem Act.remember_msh (a a0 : Act) (freed : List RegName) : (a.remember a0 freed).msh = a.msh := rfl
@[simp] theorem Act.remember_mfm (a a0 : Act) (freed : List RegName) : (a.remember a0 freed).mfm = a.mfm := rfl
@[simp] theorem Act.remember_msb (a a0 : Act) (freed : List RegName) : (a.remember a0 freed).msb = a.msb := rfl
@[simp] theorem Act.remember_gen (a a0 : Act) (freed : List RegName) : (a.remember a0 freed).gen = a.gen := rfl
@[simp] theorem Act.remember_cut (a a0 : Act) (freed : List RegName) : (a.remember a0 freed).cut = a.cut := rfl
@[simp] theorem Act.remember_held (a a0 : Act) (freed : List RegName) : (a.remember a0 freed).held = a.held := rfl
@[simp] theorem Act.remember_sent (a a0 : Act) (freed : List RegName) : (a.remember a0 freed).sent = a.sent := rfl
@[simp] theorem Act.remember_arrivals (a a0 : Act) (freed : List RegName) : (a.remember a0 freed).arrivals = a.arrivals := rfl
@[simp] theorem Act.remember_party (a a0 : Act) (freed : List RegName) : (a.remember a0 freed).party = a.party := rfl
@[simp] theorem Act.remember_replay (a a0 : Act) (freed : List RegName) : (a.remember a0 freed).replay = a.replay := rfl
@[simp] theorem Act.remember_backed (a a0 : Act) (freed : List RegName) : (a.remember a0 freed).backed = a.backed := rfl
@[simp] theorem Act.remember_fetched (a a0 : Act) (freed : List RegName) : (a.remember a0 freed).fetched = a.fetched := rfl
@[simp] theorem Act.remember_mig (a a0 : Act) (freed : List RegName) : (a.remember a0 freed).mig = a.mig := rfl
@[simp] theorem Act.remember_migdst (a a0 : Act) (freed : List RegName) : (a.remember a0 freed).migdst = a.migdst := rfl
@[simp] theorem Act.remember_migstat (a a0 : Act) (freed : List RegName) : (a.remember a0 freed).migstat = a.migstat := rfl
@[simp] theorem Act.remember_lastOp (a a0 : Act) (freed : List RegName) : (a.remember a0 freed).lastOp = a.lastOp := rfl
@[simp] theorem Act.remember_lastPc (a a0 : Act) (freed : List RegName) : (a.remember a0 freed).lastPc = a.lastPc := rfl
@[simp] theorem Act.remember_lastQ0 (a a0 : Act) (freed : List RegName) : (a.remember a0 freed).lastQ0 = a.lastQ0 := rfl
@[simp] theorem Act.remember_lastQ1 (a a0 : Act) (freed : List RegName) : (a.remember a0 freed).lastQ1 = a.lastQ1 := rfl
@[simp] theorem Act.remember_lastLk (a a0 : Act) (freed : List RegName) : (a.remember a0 freed).lastLk = a0.lk := rfl
@[simp] theorem Act.remember_lastLc (a a0 : Act) (freed : List RegName) : (a.remember a0 freed).lastLc = a0.lc := rfl
@[simp] theorem Act.remember_lastFreed (a a0 : Act) (freed : List RegName) : (a.remember a0 freed).lastFreed = freed := rfl
@[simp] theorem Act.remember_parkTick (a a0 : Act) (freed : List RegName) : (a.remember a0 freed).parkTick = a.parkTick := rfl
@[simp] theorem Act.advance_part (a : Act) (e : Option RdqEntry) : (a.advance e).part = a.part := rfl
@[simp] theorem Act.advance_gang (a : Act) (e : Option RdqEntry) : (a.advance e).gang = a.gang := rfl
@[simp] theorem Act.advance_crew (a : Act) (e : Option RdqEntry) : (a.advance e).crew = a.crew := rfl
@[simp] theorem Act.advance_index (a : Act) (e : Option RdqEntry) : (a.advance e).index = a.index := rfl
@[simp] theorem Act.advance_rank (a : Act) (e : Option RdqEntry) : (a.advance e).rank = a.rank := rfl
@[simp] theorem Act.advance_size (a : Act) (e : Option RdqEntry) : (a.advance e).size = a.size := rfl
@[simp] theorem Act.advance_homeCore (a : Act) (e : Option RdqEntry) : (a.advance e).homeCore = a.homeCore := rfl
@[simp] theorem Act.advance_homeSlot (a : Act) (e : Option RdqEntry) : (a.advance e).homeSlot = a.homeSlot := rfl
@[simp] theorem Act.advance_core (a : Act) (e : Option RdqEntry) : (a.advance e).core = a.core := rfl
@[simp] theorem Act.advance_slot (a : Act) (e : Option RdqEntry) : (a.advance e).slot = a.slot := rfl
@[simp] theorem Act.advance_run (a : Act) (e : Option RdqEntry) : (a.advance e).run = a.run := rfl
@[simp] theorem Act.advance_block (a : Act) (e : Option RdqEntry) : (a.advance e).block = a.block := rfl
@[simp] theorem Act.advance_lk (a : Act) (e : Option RdqEntry) : (a.advance e).lk = a.lk := rfl
@[simp] theorem Act.advance_lc (a : Act) (e : Option RdqEntry) : (a.advance e).lc = a.lc := rfl
@[simp] theorem Act.advance_asw (a : Act) (e : Option RdqEntry) : (a.advance e).asw = a.asw := rfl
@[simp] theorem Act.advance_code (a : Act) (e : Option RdqEntry) : (a.advance e).code = a.code := rfl
@[simp] theorem Act.advance_srstate (a : Act) (e : Option RdqEntry) : (a.advance e).srstate = a.srstate := rfl
@[simp] theorem Act.advance_lmBase (a : Act) (e : Option RdqEntry) : (a.advance e).lmBase = a.lmBase := rfl
@[simp] theorem Act.advance_lmLen (a : Act) (e : Option RdqEntry) : (a.advance e).lmLen = a.lmLen := rfl
@[simp] theorem Act.advance_qsBase (a : Act) (e : Option RdqEntry) : (a.advance e).qsBase = a.qsBase := rfl
@[simp] theorem Act.advance_qsLen (a : Act) (e : Option RdqEntry) : (a.advance e).qsLen = a.qsLen := rfl
@[simp] theorem Act.advance_rings (a : Act) (e : Option RdqEntry) : (a.advance e).rings = a.rings := rfl
@[simp] theorem Act.advance_tiles (a : Act) (e : Option RdqEntry) : (a.advance e).tiles = a.tiles := rfl
@[simp] theorem Act.advance_regs (a : Act) (e : Option RdqEntry) : (a.advance e).regs = a.regs := rfl
@[simp] theorem Act.advance_bank (a : Act) (e : Option RdqEntry) : (a.advance e).bank = a.bank := rfl
@[simp] theorem Act.advance_bd (a : Act) (e : Option RdqEntry) : (a.advance e).bd = a.bd := rfl
@[simp] theorem Act.advance_trap (a : Act) (e : Option RdqEntry) : (a.advance e).trap = a.trap := rfl
@[simp] theorem Act.advance_timerPend (a : Act) (e : Option RdqEntry) : (a.advance e).timerPend = a.timerPend := rfl
@[simp] theorem Act.advance_trapPend (a : Act) (e : Option RdqEntry) : (a.advance e).trapPend = a.trapPend := rfl
@[simp] theorem Act.advance_traps (a : Act) (e : Option RdqEntry) : (a.advance e).traps = a.traps := rfl
@[simp] theorem Act.advance_words (a : Act) (e : Option RdqEntry) : (a.advance e).words = a.words := rfl
@[simp] theorem Act.advance_num (a : Act) (e : Option RdqEntry) : (a.advance e).num = a.num := rfl
@[simp] theorem Act.advance_fixed (a : Act) (e : Option RdqEntry) : (a.advance e).fixed = a.fixed := rfl
@[simp] theorem Act.advance_msh (a : Act) (e : Option RdqEntry) : (a.advance e).msh = a.msh := rfl
@[simp] theorem Act.advance_mfm (a : Act) (e : Option RdqEntry) : (a.advance e).mfm = a.mfm := rfl
@[simp] theorem Act.advance_msb (a : Act) (e : Option RdqEntry) : (a.advance e).msb = a.msb := rfl
@[simp] theorem Act.advance_gen (a : Act) (e : Option RdqEntry) : (a.advance e).gen = a.gen := rfl
@[simp] theorem Act.advance_cut (a : Act) (e : Option RdqEntry) : (a.advance e).cut = a.cut := rfl
@[simp] theorem Act.advance_held (a : Act) (e : Option RdqEntry) : (a.advance e).held = a.held := rfl
@[simp] theorem Act.advance_sent (a : Act) (e : Option RdqEntry) : (a.advance e).sent = a.sent := rfl
@[simp] theorem Act.advance_arrivals (a : Act) (e : Option RdqEntry) : (a.advance e).arrivals = a.arrivals := rfl
@[simp] theorem Act.advance_party (a : Act) (e : Option RdqEntry) : (a.advance e).party = a.party := rfl
@[simp] theorem Act.advance_replay (a : Act) (e : Option RdqEntry) : (a.advance e).replay = a.replay := rfl
@[simp] theorem Act.advance_backed (a : Act) (e : Option RdqEntry) : (a.advance e).backed = a.backed := rfl
@[simp] theorem Act.advance_fetched (a : Act) (e : Option RdqEntry) : (a.advance e).fetched = a.fetched := rfl
@[simp] theorem Act.advance_mig (a : Act) (e : Option RdqEntry) : (a.advance e).mig = a.mig := rfl
@[simp] theorem Act.advance_migdst (a : Act) (e : Option RdqEntry) : (a.advance e).migdst = a.migdst := rfl
@[simp] theorem Act.advance_migstat (a : Act) (e : Option RdqEntry) : (a.advance e).migstat = a.migstat := rfl
@[simp] theorem Act.advance_lastOp (a : Act) (e : Option RdqEntry) : (a.advance e).lastOp = a.lastOp := rfl
@[simp] theorem Act.advance_lastPc (a : Act) (e : Option RdqEntry) : (a.advance e).lastPc = a.lastPc := rfl
@[simp] theorem Act.advance_lastQ0 (a : Act) (e : Option RdqEntry) : (a.advance e).lastQ0 = a.lastQ0 := rfl
@[simp] theorem Act.advance_lastQ1 (a : Act) (e : Option RdqEntry) : (a.advance e).lastQ1 = a.lastQ1 := rfl
@[simp] theorem Act.advance_lastLk (a : Act) (e : Option RdqEntry) : (a.advance e).lastLk = a.lastLk := rfl
@[simp] theorem Act.advance_lastLc (a : Act) (e : Option RdqEntry) : (a.advance e).lastLc = a.lastLc := rfl
@[simp] theorem Act.advance_lastFreed (a : Act) (e : Option RdqEntry) : (a.advance e).lastFreed = a.lastFreed := rfl
@[simp] theorem Act.advance_parkTick (a : Act) (e : Option RdqEntry) : (a.advance e).parkTick = a.parkTick := rfl
@[simp] theorem Act.setStatus_part (a : Act) (m v : Word64) : (a.setStatus m v).part = a.part := rfl
@[simp] theorem Act.setStatus_gang (a : Act) (m v : Word64) : (a.setStatus m v).gang = a.gang := rfl
@[simp] theorem Act.setStatus_crew (a : Act) (m v : Word64) : (a.setStatus m v).crew = a.crew := rfl
@[simp] theorem Act.setStatus_index (a : Act) (m v : Word64) : (a.setStatus m v).index = a.index := rfl
@[simp] theorem Act.setStatus_rank (a : Act) (m v : Word64) : (a.setStatus m v).rank = a.rank := rfl
@[simp] theorem Act.setStatus_size (a : Act) (m v : Word64) : (a.setStatus m v).size = a.size := rfl
@[simp] theorem Act.setStatus_homeCore (a : Act) (m v : Word64) : (a.setStatus m v).homeCore = a.homeCore := rfl
@[simp] theorem Act.setStatus_homeSlot (a : Act) (m v : Word64) : (a.setStatus m v).homeSlot = a.homeSlot := rfl
@[simp] theorem Act.setStatus_core (a : Act) (m v : Word64) : (a.setStatus m v).core = a.core := rfl
@[simp] theorem Act.setStatus_slot (a : Act) (m v : Word64) : (a.setStatus m v).slot = a.slot := rfl
@[simp] theorem Act.setStatus_run (a : Act) (m v : Word64) : (a.setStatus m v).run = a.run := rfl
@[simp] theorem Act.setStatus_block (a : Act) (m v : Word64) : (a.setStatus m v).block = a.block := rfl
@[simp] theorem Act.setStatus_pc (a : Act) (m v : Word64) : (a.setStatus m v).pc = a.pc := rfl
@[simp] theorem Act.setStatus_lk (a : Act) (m v : Word64) : (a.setStatus m v).lk = a.lk := rfl
@[simp] theorem Act.setStatus_lc (a : Act) (m v : Word64) : (a.setStatus m v).lc = a.lc := rfl
@[simp] theorem Act.setStatus_rdq0 (a : Act) (m v : Word64) : (a.setStatus m v).rdq0 = a.rdq0 := rfl
@[simp] theorem Act.setStatus_rdq1 (a : Act) (m v : Word64) : (a.setStatus m v).rdq1 = a.rdq1 := rfl
@[simp] theorem Act.setStatus_asw (a : Act) (m v : Word64) : (a.setStatus m v).asw = (a.asw &&& ~~~m) ||| v := rfl
@[simp] theorem Act.setStatus_code (a : Act) (m v : Word64) : (a.setStatus m v).code = a.code := rfl
@[simp] theorem Act.setStatus_srstate (a : Act) (m v : Word64) : (a.setStatus m v).srstate = a.srstate := rfl
@[simp] theorem Act.setStatus_lmBase (a : Act) (m v : Word64) : (a.setStatus m v).lmBase = a.lmBase := rfl
@[simp] theorem Act.setStatus_lmLen (a : Act) (m v : Word64) : (a.setStatus m v).lmLen = a.lmLen := rfl
@[simp] theorem Act.setStatus_qsBase (a : Act) (m v : Word64) : (a.setStatus m v).qsBase = a.qsBase := rfl
@[simp] theorem Act.setStatus_qsLen (a : Act) (m v : Word64) : (a.setStatus m v).qsLen = a.qsLen := rfl
@[simp] theorem Act.setStatus_rings (a : Act) (m v : Word64) : (a.setStatus m v).rings = a.rings := rfl
@[simp] theorem Act.setStatus_tiles (a : Act) (m v : Word64) : (a.setStatus m v).tiles = a.tiles := rfl
@[simp] theorem Act.setStatus_regs (a : Act) (m v : Word64) : (a.setStatus m v).regs = a.regs := rfl
@[simp] theorem Act.setStatus_bank (a : Act) (m v : Word64) : (a.setStatus m v).bank = a.bank := rfl
@[simp] theorem Act.setStatus_bd (a : Act) (m v : Word64) : (a.setStatus m v).bd = a.bd := rfl
@[simp] theorem Act.setStatus_timerPend (a : Act) (m v : Word64) : (a.setStatus m v).timerPend = a.timerPend := rfl
@[simp] theorem Act.setStatus_trapPend (a : Act) (m v : Word64) : (a.setStatus m v).trapPend = a.trapPend := rfl
@[simp] theorem Act.setStatus_traps (a : Act) (m v : Word64) : (a.setStatus m v).traps = a.traps := rfl
@[simp] theorem Act.setStatus_words (a : Act) (m v : Word64) : (a.setStatus m v).words = a.words := rfl
@[simp] theorem Act.setStatus_num (a : Act) (m v : Word64) : (a.setStatus m v).num = a.num := rfl
@[simp] theorem Act.setStatus_fixed (a : Act) (m v : Word64) : (a.setStatus m v).fixed = a.fixed := rfl
@[simp] theorem Act.setStatus_msh (a : Act) (m v : Word64) : (a.setStatus m v).msh = a.msh := rfl
@[simp] theorem Act.setStatus_mfm (a : Act) (m v : Word64) : (a.setStatus m v).mfm = a.mfm := rfl
@[simp] theorem Act.setStatus_msb (a : Act) (m v : Word64) : (a.setStatus m v).msb = a.msb := rfl
@[simp] theorem Act.setStatus_gen (a : Act) (m v : Word64) : (a.setStatus m v).gen = a.gen := rfl
@[simp] theorem Act.setStatus_cut (a : Act) (m v : Word64) : (a.setStatus m v).cut = a.cut := rfl
@[simp] theorem Act.setStatus_held (a : Act) (m v : Word64) : (a.setStatus m v).held = a.held := rfl
@[simp] theorem Act.setStatus_sent (a : Act) (m v : Word64) : (a.setStatus m v).sent = a.sent := rfl
@[simp] theorem Act.setStatus_arrivals (a : Act) (m v : Word64) : (a.setStatus m v).arrivals = a.arrivals := rfl
@[simp] theorem Act.setStatus_party (a : Act) (m v : Word64) : (a.setStatus m v).party = a.party := rfl
@[simp] theorem Act.setStatus_replay (a : Act) (m v : Word64) : (a.setStatus m v).replay = a.replay := rfl
@[simp] theorem Act.setStatus_backed (a : Act) (m v : Word64) : (a.setStatus m v).backed = a.backed := rfl
@[simp] theorem Act.setStatus_fetched (a : Act) (m v : Word64) : (a.setStatus m v).fetched = a.fetched := rfl
@[simp] theorem Act.setStatus_mig (a : Act) (m v : Word64) : (a.setStatus m v).mig = a.mig := rfl
@[simp] theorem Act.setStatus_migdst (a : Act) (m v : Word64) : (a.setStatus m v).migdst = a.migdst := rfl
@[simp] theorem Act.setStatus_migstat (a : Act) (m v : Word64) : (a.setStatus m v).migstat = a.migstat := rfl
@[simp] theorem Act.setStatus_lastOp (a : Act) (m v : Word64) : (a.setStatus m v).lastOp = a.lastOp := rfl
@[simp] theorem Act.setStatus_lastPc (a : Act) (m v : Word64) : (a.setStatus m v).lastPc = a.lastPc := rfl
@[simp] theorem Act.setStatus_lastQ0 (a : Act) (m v : Word64) : (a.setStatus m v).lastQ0 = a.lastQ0 := rfl
@[simp] theorem Act.setStatus_lastQ1 (a : Act) (m v : Word64) : (a.setStatus m v).lastQ1 = a.lastQ1 := rfl
@[simp] theorem Act.setStatus_lastLk (a : Act) (m v : Word64) : (a.setStatus m v).lastLk = a.lastLk := rfl
@[simp] theorem Act.setStatus_lastLc (a : Act) (m v : Word64) : (a.setStatus m v).lastLc = a.lastLc := rfl
@[simp] theorem Act.setStatus_lastFreed (a : Act) (m v : Word64) : (a.setStatus m v).lastFreed = a.lastFreed := rfl
@[simp] theorem Act.setStatus_parkTick (a : Act) (m v : Word64) : (a.setStatus m v).parkTick = a.parkTick := rfl

end Sys2Proof.Machine
end

