-- ==== Sys2Proof/Laws/Issue.lean ====
section
/-! SUPPORT. Laws of issue: everything the pipeline of a word can answer, when a word's own effect happens, and what an
issue does to its context. -/
namespace Sys2Proof.Machine

/-- Everything `runWith` can answer: without a context it stops; otherwise it always goes on, by raising a fault of the
word, waiting, or issuing. -/
theorem runWith_cases (i : Instr) (cl : Clauses) (need : Act → Need) (pre : Act → State → Option Trap)
    (body : Nat → Nat → Act → State → Res) (s : State) :
    (s.current = none ∧ runWith i cl need pre body s = .fault .noContext) ∨
    ∃ c aid, s.current = some (c, aid) ∧
      ((∃ t, runWith i cl need pre body s = .next (s.raise aid t)) ∨
       (∃ s', s.waits c aid (s.act aid) cl (need (s.act aid)) = some s' ∧ runWith i cl need pre body s = .next s') ∨
       (∃ s', body c aid (s.act aid) s = .hold s' ∧ runWith i cl need pre body s = .next s') ∨
       (∃ b, body c aid (s.act aid) s = .wait b ∧ runWith i cl need pre body s = .next (s.blockOn c aid b)) ∨
       (∃ e, body c aid (s.act aid) s = .go e ∧ runWith i cl need pre body s = .next (s.issue c aid i cl e))) := by
  unfold runWith
  cases hc : s.current with
  | none => exact .inl ⟨rfl, rfl⟩
  | some x =>
    obtain ⟨c, aid⟩ := x
    refine .inr ⟨c, aid, rfl, ?_⟩
    simp only
    cases pre (s.act aid) s with
    | some t => exact .inl ⟨t, rfl⟩
    | none =>
      simp only
      cases s.waits c aid (s.act aid) cl (need (s.act aid)) with
      | some s' => exact .inr (.inl ⟨s', rfl, rfl⟩)
      | none =>
        simp only
        cases deadTrap (s.act aid) (sources (s.act aid) i cl) with
        | some t => exact .inl ⟨t, rfl⟩
        | none =>
          simp only
          cases poisonTrap (s.act aid) (sources (s.act aid) i cl) with
          | some t => exact .inl ⟨t, rfl⟩
          | none =>
            simp only
            cases body c aid (s.act aid) s with
            | trap t => exact .inl ⟨t, rfl⟩
            | hold s' => exact .inr (.inr (.inl ⟨s', rfl, rfl⟩))
            | wait b => exact .inr (.inr (.inr (.inl ⟨b, rfl, rfl⟩)))
            | go e => exact .inr (.inr (.inr (.inr ⟨e, rfl, rfl⟩)))

/-- With a context a word always goes on. -/
theorem runWith_goes {i : Instr} {cl : Clauses} {need : Act → Need} {pre : Act → State → Option Trap}
    {body : Nat → Nat → Act → State → Res} {s : State} {x : Nat × Nat} (h : s.current = some x) :
    Goes (runWith i cl need pre body s) := by
  rcases runWith_cases i cl need pre body s with ⟨hn, _⟩ | ⟨_, _, _, h1 | ⟨_, _, h1⟩ | ⟨_, _, h1⟩ | ⟨_, _, h1⟩ | ⟨_, _, h1⟩⟩
  · simp [hn] at h
  · obtain ⟨t, h1⟩ := h1; exact ⟨_, h1⟩
  all_goals exact ⟨_, h1⟩

theorem run_goes {i : Instr} {cl : Clauses} {n : Need} {pre : Act → State → Option Trap}
    {body : Nat → Nat → Act → State → Res} {s : State} {x : Nat × Nat} (h : s.current = some x) :
    Goes (run i cl n pre body s) := runWith_goes h

/-- A word never answers with a refusal. -/
theorem runWith_ne_refused (i : Instr) (cl : Clauses) (need : Act → Need) (pre : Act → State → Option Trap)
    (body : Nat → Nat → Act → State → Res) (s : State) (r : Refusal) : runWith i cl need pre body s ≠ .refused r := by
  rcases runWith_cases i cl need pre body s with ⟨_, h⟩ | ⟨_, _, _, h1 | ⟨_, _, h1⟩ | ⟨_, _, h1⟩ | ⟨_, _, h1⟩ | ⟨_, _, h1⟩⟩
  · simp [h]
  · obtain ⟨t, h1⟩ := h1; simp [h1]
  all_goals simp [h1]

/-- What a word answers once nothing holds it: its own part decides. -/
theorem runWith_clear {i : Instr} {cl : Clauses} {need : Act → Need} {pre : Act → State → Option Trap}
    {body : Nat → Nat → Act → State → Res} {s : State} {c aid : Nat}
    (h : s.Clear c aid i cl (need (s.act aid))) (hp : pre (s.act aid) s = none) :
    runWith i cl need pre body s = match body c aid (s.act aid) s with
      | .trap t => .next (s.raise aid t)
      | .hold s' => .next s'
      | .wait b => .next (s.blockOn c aid b)
      | .go e => .next (s.issue c aid i cl e) := by
  have hc : s.current = some (c, aid) := h.holds
  simp only [runWith, hc, hp, h.waits, h.live, h.clean]
  all_goals (cases body c aid (s.act aid) s <;> rfl)

theorem run_clear {i : Instr} {cl : Clauses} {n : Need} {pre : Act → State → Option Trap}
    {body : Nat → Nat → Act → State → Res} {s : State} {c aid : Nat}
    (h : s.Clear c aid i cl n) (hp : pre (s.act aid) s = none) :
    run i cl n pre body s = match body c aid (s.act aid) s with
      | .trap t => .next (s.raise aid t)
      | .hold s' => .next s'
      | .wait b => .next (s.blockOn c aid b)
      | .go e => .next (s.issue c aid i cl e) := runWith_clear h hp

/-- A word that nothing holds and whose own part issues it answers its issue. -/
theorem run_go {i : Instr} {cl : Clauses} {n : Need} {pre : Act → State → Option Trap}
    {body : Nat → Nat → Act → State → Res} {s : State} {c aid : Nat} {e : Eff}
    (h : s.Clear c aid i cl n) (hp : pre (s.act aid) s = none) (hb : body c aid (s.act aid) s = .go e) :
    run i cl n pre body s = .next (s.issue c aid i cl e) := by rw [run_clear h hp, hb]

/-- A word that nothing holds and whose own check fails raises that trap. -/
theorem run_trap {i : Instr} {cl : Clauses} {n : Need} {pre : Act → State → Option Trap}
    {body : Nat → Nat → Act → State → Res} {s : State} {c aid : Nat} {t : Trap}
    (h : s.Clear c aid i cl n) (hp : pre (s.act aid) s = none) (hb : body c aid (s.act aid) s = .trap t) :
    run i cl n pre body s = .next (s.raise aid t) := by rw [run_clear h hp, hb]

/-- A context holds the port of the core in focus exactly when that core's holder slot holds it. -/
theorem State.current_eq (s : State) :
    s.current = (s.portAct s.focus).map (fun aid => (s.focus, aid)) := by
  unfold State.current
  cases s.portAct s.focus <;> rfl

/-- Without an effect that follows, an issue ends with its core's trace word. -/
theorem State.after_none (s : State) (c aid : Nat) (w : BitVec 32) : s.after c aid w .none = s := rfl

end Sys2Proof.Machine
end

