-- ==== Sys2Proof/Laws/Exec.lean ====
section
/-! SUPPORT. Laws of dispatch: which meaning each instruction has. -/
namespace Sys2Proof.Machine

@[simp] theorem exec_add d a b cl (s : State) : exec (.add d a b cl) s = execAdd d a b cl s := rfl
@[simp] theorem exec_sub d a b cl (s : State) : exec (.sub d a b cl) s = execSub d a b cl s := rfl
@[simp] theorem exec_addi d a imm cl (s : State) : exec (.addi d a imm cl) s = execAddi d a imm cl s := rfl
@[simp] theorem exec_mul d a b cl (s : State) : exec (.mul d a b cl) s = execMul d a b cl s := rfl
@[simp] theorem exec_mulh d a b cl (s : State) : exec (.mulh d a b cl) s = execMulh d a b cl s := rfl
@[simp] theorem exec_mulhu d a b cl (s : State) : exec (.mulhu d a b cl) s = execMulhu d a b cl s := rfl
@[simp] theorem exec_div d a b cl (s : State) : exec (.div d a b cl) s = execDiv d a b cl s := rfl
@[simp] theorem exec_divu d a b cl (s : State) : exec (.divu d a b cl) s = execDivu d a b cl s := rfl
@[simp] theorem exec_rem d a b cl (s : State) : exec (.rem d a b cl) s = execRem d a b cl s := rfl
@[simp] theorem exec_remu d a b cl (s : State) : exec (.remu d a b cl) s = execRemu d a b cl s := rfl
@[simp] theorem exec_and d a b cl (s : State) : exec (.and d a b cl) s = execAnd d a b cl s := rfl
@[simp] theorem exec_or d a b cl (s : State) : exec (.or d a b cl) s = execOr d a b cl s := rfl
@[simp] theorem exec_xor d a b cl (s : State) : exec (.xor d a b cl) s = execXor d a b cl s := rfl
@[simp] theorem exec_andi d a imm cl (s : State) : exec (.andi d a imm cl) s = execAndi d a imm cl s := rfl
@[simp] theorem exec_ori d a imm cl (s : State) : exec (.ori d a imm cl) s = execOri d a imm cl s := rfl
@[simp] theorem exec_xori d a imm cl (s : State) : exec (.xori d a imm cl) s = execXori d a imm cl s := rfl
@[simp] theorem exec_sll d a b cl (s : State) : exec (.sll d a b cl) s = execSll d a b cl s := rfl
@[simp] theorem exec_srl d a b cl (s : State) : exec (.srl d a b cl) s = execSrl d a b cl s := rfl
@[simp] theorem exec_sra d a b cl (s : State) : exec (.sra d a b cl) s = execSra d a b cl s := rfl
@[simp] theorem exec_slli d a imm cl (s : State) : exec (.slli d a imm cl) s = execSlli d a imm cl s := rfl
@[simp] theorem exec_srli d a imm cl (s : State) : exec (.srli d a imm cl) s = execSrli d a imm cl s := rfl
@[simp] theorem exec_srai d a imm cl (s : State) : exec (.srai d a imm cl) s = execSrai d a imm cl s := rfl
@[simp] theorem exec_min d a b cl (s : State) : exec (.min d a b cl) s = execMin d a b cl s := rfl
@[simp] theorem exec_max d a b cl (s : State) : exec (.max d a b cl) s = execMax d a b cl s := rfl
@[simp] theorem exec_minu d a b cl (s : State) : exec (.minu d a b cl) s = execMinu d a b cl s := rfl
@[simp] theorem exec_maxu d a b cl (s : State) : exec (.maxu d a b cl) s = execMaxu d a b cl s := rfl
@[simp] theorem exec_clz d a cl (s : State) : exec (.clz d a cl) s = execClz d a cl s := rfl
@[simp] theorem exec_popc d a cl (s : State) : exec (.popc d a cl) s = execPopc d a cl s := rfl
@[simp] theorem exec_bfx mod d a imm cl (s : State) : exec (.bfx mod d a imm cl) s = execBfx mod d a imm cl s := rfl
@[simp] theorem exec_bfi d a b imm cl (s : State) : exec (.bfi d a b imm cl) s = execBfi d a b imm cl s := rfl
@[simp] theorem exec_li d imm32 cl (s : State) : exec (.li d imm32 cl) s = execLi d imm32 cl s := rfl
@[simp] theorem exec_lih d a imm32 cl (s : State) : exec (.lih d a imm32 cl) s = execLih d a imm32 cl s := rfl
@[simp] theorem exec_cmp mod d a b cl (s : State) : exec (.cmp mod d a b cl) s = execCmp mod d a b cl s := rfl
@[simp] theorem exec_cmpi mod d a imm cl (s : State) : exec (.cmpi mod d a imm cl) s = execCmpi mod d a imm cl s := rfl
@[simp] theorem exec_plog mod d a b cl (s : State) : exec (.plog mod d a b cl) s = execPlog mod d a b cl s := rfl
@[simp] theorem exec_pmov mod d a cl (s : State) : exec (.pmov mod d a cl) s = execPmov mod d a cl s := rfl
@[simp] theorem exec_sel d a b c cl (s : State) : exec (.sel d a b c cl) s = execSel d a b c cl s := rfl
@[simp] theorem exec_tgt d imm26 cl (s : State) : exec (.tgt d imm26 cl) s = execTgt d imm26 cl s := rfl
@[simp] theorem exec_tgtr d a cl (s : State) : exec (.tgtr d a cl) s = execTgtr d a cl s := rfl
@[simp] theorem exec_movb mod d a cl (s : State) : exec (.movb mod d a cl) s = execMovb mod d a cl s := rfl
@[simp] theorem exec_lcset a imm26 cl (s : State) : exec (.lcset a imm26 cl) s = execLcset a imm26 cl s := rfl
@[simp] theorem exec_lkmov mod d a cl (s : State) : exec (.lkmov mod d a cl) s = execLkmov mod d a cl s := rfl
@[simp] theorem exec_nop cl (s : State) : exec (.nop cl) s = execNop cl s := rfl
@[simp] theorem exec_srd d imm cl (s : State) : exec (.srd d imm cl) s = execSrd d imm cl s := rfl
@[simp] theorem exec_swr a imm cl (s : State) : exec (.swr a imm cl) s = execSwr a imm cl s := rfl
@[simp] theorem exec_trap imm cl (s : State) : exec (.trap imm cl) s = execTrap imm cl s := rfl
@[simp] theorem exec_tret cl (s : State) : exec (.tret cl) s = execTret cl s := rfl
@[simp] theorem exec_exit cl (s : State) : exec (.exit cl) s = execExit cl s := rfl
@[simp] theorem exec_yield cl (s : State) : exec (.yield cl) s = execYield cl s := rfl
@[simp] theorem exec_time mod d cl (s : State) : exec (.time mod d cl) s = execTime mod d cl s := rfl
@[simp] theorem exec_ident mod d cl (s : State) : exec (.ident mod d cl) s = execIdent mod d cl s := rfl
@[simp] theorem exec_wfi cl (s : State) : exec (.wfi cl) s = execWfi cl s := rfl
@[simp] theorem exec_iflush cl (s : State) : exec (.iflush cl) s = execIflush cl s := rfl
@[simp] theorem exec_brk imm cl (s : State) : exec (.brk imm cl) s = execBrk imm cl s := rfl
@[simp] theorem exec_srset a imm cl (s : State) : exec (.srset a imm cl) s = execSrset a imm cl s := rfl
@[simp] theorem exec_srclr a imm cl (s : State) : exec (.srclr a imm cl) s = execSrclr a imm cl s := rfl
@[simp] theorem exec_deadmk mod a cl (s : State) : exec (.deadmk mod a cl) s = execDeadmk mod a cl s := rfl
@[simp] theorem exec_liveq mod d cl (s : State) : exec (.liveq mod d cl) s = execLiveq mod d cl s := rfl
@[simp] theorem exec_chk d a b imm cl (s : State) : exec (.chk d a b imm cl) s = execChk d a b imm cl s := rfl
@[simp] theorem exec_crc32c mod d a b cl (s : State) : exec (.crc32c mod d a b cl) s = execCrc32c mod d a b cl s := rfl
@[simp] theorem exec_mchk mod d cl (s : State) : exec (.mchk mod d cl) s = execMchk mod d cl s := rfl
@[simp] theorem exec_xalm mod imm cl (s : State) : exec (.xalm mod imm cl) s = execXalm mod imm cl s := rfl
@[simp] theorem exec_spdrd mod d a imm cl (s : State) : exec (.spdrd mod d a imm cl) s = execSpdrd mod d a imm cl s := rfl
@[simp] theorem exec_rand mod d a cl (s : State) : exec (.rand mod d a cl) s = execRand mod d a cl s := rfl
@[simp] theorem exec_ldl mod d a imm cl (s : State) : exec (.ldl mod d a imm cl) s = execLdl mod d a imm cl s := rfl
@[simp] theorem exec_stl mod a c imm cl (s : State) : exec (.stl mod a c imm cl) s = execStl mod a c imm cl s := rfl
@[simp] theorem exec_ldq mod d a imm cl (s : State) : exec (.ldq mod d a imm cl) s = execLdq mod d a imm cl s := rfl
@[simp] theorem exec_stq mod a c imm cl (s : State) : exec (.stq mod a c imm cl) s = execStq mod a c imm cl s := rfl
@[simp] theorem exec_ld mod d a b imm cl (s : State) : exec (.ld mod d a b imm cl) s = execLd mod d a b imm cl s := rfl
@[simp] theorem exec_st mod a b c imm cl (s : State) : exec (.st mod a b c imm cl) s = execSt mod a b c imm cl s := rfl
@[simp] theorem exec_vldl d a c imm cl (s : State) : exec (.vldl d a c imm cl) s = execVldl d a c imm cl s := rfl
@[simp] theorem exec_vstl mod a c imm cl (s : State) : exec (.vstl mod a c imm cl) s = execVstl mod a c imm cl s := rfl
@[simp] theorem exec_vldq d a c imm cl (s : State) : exec (.vldq d a c imm cl) s = execVldq d a c imm cl s := rfl
@[simp] theorem exec_vstq mod a c imm cl (s : State) : exec (.vstq mod a c imm cl) s = execVstq mod a c imm cl s := rfl
@[simp] theorem exec_vld d a b c imm cl (s : State) : exec (.vld d a b c imm cl) s = execVld d a b c imm cl s := rfl
@[simp] theorem exec_vst mod a b c imm cl (s : State) : exec (.vst mod a b c imm cl) s = execVst mod a b c imm cl s := rfl
@[simp] theorem exec_vgathl mod d a b imm cl (s : State) : exec (.vgathl mod d a b imm cl) s = execVgathl mod d a b imm cl s := rfl
@[simp] theorem exec_vscatl mod a b c cl (s : State) : exec (.vscatl mod a b c cl) s = execVscatl mod a b c cl s := rfl
@[simp] theorem exec_aadd mod d a b c imm cl (s : State) : exec (.aadd mod d a b c imm cl) s = execAadd mod d a b c imm cl s := rfl
@[simp] theorem exec_alog mod d a b c imm cl (s : State) : exec (.alog mod d a b c imm cl) s = execAlog mod d a b c imm cl s := rfl
@[simp] theorem exec_amnx mod d a b c imm cl (s : State) : exec (.amnx mod d a b c imm cl) s = execAmnx mod d a b c imm cl s := rfl
@[simp] theorem exec_aswp mod d a b c imm cl (s : State) : exec (.aswp mod d a b c imm cl) s = execAswp mod d a b c imm cl s := rfl
@[simp] theorem exec_acas mod d a b c imm cl (s : State) : exec (.acas mod d a b c imm cl) s = execAcas mod d a b c imm cl s := rfl
@[simp] theorem exec_afadd mod d a b c imm cl (s : State) : exec (.afadd mod d a b c imm cl) s = execAfadd mod d a b c imm cl s := rfl
@[simp] theorem exec_waitmem mod d a b c imm cl (s : State) : exec (.waitmem mod d a b c imm cl) s = execWaitmem mod d a b c imm cl s := rfl
@[simp] theorem exec_fence imm cl (s : State) : exec (.fence imm cl) s = execFence imm cl s := rfl
@[simp] theorem exec_cld d a b imm cl (s : State) : exec (.cld d a b imm cl) s = execCld d a b imm cl s := rfl
@[simp] theorem exec_cst a b c imm cl (s : State) : exec (.cst a b c imm cl) s = execCst a b c imm cl s := rfl
@[simp] theorem exec_cnarrow d a b c imm cl (s : State) : exec (.cnarrow d a b c imm cl) s = execCnarrow d a b c imm cl s := rfl
@[simp] theorem exec_cget mod d a cl (s : State) : exec (.cget mod d a cl) s = execCget mod d a cl s := rfl
@[simp] theorem exec_csetc d a b cl (s : State) : exec (.csetc d a b cl) s = execCsetc d a b cl s := rfl
@[simp] theorem exec_pfetch mod a b cl (s : State) : exec (.pfetch mod a b cl) s = execPfetch mod a b cl s := rfl
@[simp] theorem exec_cinv mod a b cl (s : State) : exec (.cinv mod a b cl) s = execCinv mod a b cl s := rfl
@[simp] theorem exec_signal a b c imm cl (s : State) : exec (.signal a b c imm cl) s = execSignal a b c imm cl s := rfl
@[simp] theorem exec_zerol a b cl (s : State) : exec (.zerol a b cl) s = execZerol a b cl s := rfl
@[simp] theorem exec_movk mod d a cl (s : State) : exec (.movk mod d a cl) s = execMovk mod d a cl s := rfl
@[simp] theorem exec_vadd mod d a b imm cl (s : State) : exec (.vadd mod d a b imm cl) s = execVadd mod d a b imm cl s := rfl
@[simp] theorem exec_vsub mod d a b imm cl (s : State) : exec (.vsub mod d a b imm cl) s = execVsub mod d a b imm cl s := rfl
@[simp] theorem exec_vmul mod d a b imm cl (s : State) : exec (.vmul mod d a b imm cl) s = execVmul mod d a b imm cl s := rfl
@[simp] theorem exec_vfma mod d a b c imm cl (s : State) : exec (.vfma mod d a b c imm cl) s = execVfma mod d a b c imm cl s := rfl
@[simp] theorem exec_vfms mod d a b c imm cl (s : State) : exec (.vfms mod d a b c imm cl) s = execVfms mod d a b c imm cl s := rfl
@[simp] theorem exec_vmin mod d a b cl (s : State) : exec (.vmin mod d a b cl) s = execVmin mod d a b cl s := rfl
@[simp] theorem exec_vmax mod d a b cl (s : State) : exec (.vmax mod d a b cl) s = execVmax mod d a b cl s := rfl
@[simp] theorem exec_vabs mod d a imm cl (s : State) : exec (.vabs mod d a imm cl) s = execVabs mod d a imm cl s := rfl
@[simp] theorem exec_vneg mod d a imm cl (s : State) : exec (.vneg mod d a imm cl) s = execVneg mod d a imm cl s := rfl
@[simp] theorem exec_vrcp mod d a cl (s : State) : exec (.vrcp mod d a cl) s = execVrcp mod d a cl s := rfl
@[simp] theorem exec_vrsq mod d a cl (s : State) : exec (.vrsq mod d a cl) s = execVrsq mod d a cl s := rfl
@[simp] theorem exec_vexp2 mod d a cl (s : State) : exec (.vexp2 mod d a cl) s = execVexp2 mod d a cl s := rfl
@[simp] theorem exec_vlog2 mod d a cl (s : State) : exec (.vlog2 mod d a cl) s = execVlog2 mod d a cl s := rfl
@[simp] theorem exec_vand mod d a b cl (s : State) : exec (.vand mod d a b cl) s = execVand mod d a b cl s := rfl
@[simp] theorem exec_vor mod d a b cl (s : State) : exec (.vor mod d a b cl) s = execVor mod d a b cl s := rfl
@[simp] theorem exec_vxor mod d a b cl (s : State) : exec (.vxor mod d a b cl) s = execVxor mod d a b cl s := rfl
@[simp] theorem exec_vshl mod d a b imm cl (s : State) : exec (.vshl mod d a b imm cl) s = execVshl mod d a b imm cl s := rfl
@[simp] theorem exec_vshr mod d a b imm cl (s : State) : exec (.vshr mod d a b imm cl) s = execVshr mod d a b imm cl s := rfl
@[simp] theorem exec_vcmp mod d a b c cl (s : State) : exec (.vcmp mod d a b c cl) s = execVcmp mod d a b c cl s := rfl
@[simp] theorem exec_vsel d a b c cl (s : State) : exec (.vsel d a b c cl) s = execVsel d a b c cl s := rfl
@[simp] theorem exec_vbcast mod d a imm cl (s : State) : exec (.vbcast mod d a imm cl) s = execVbcast mod d a imm cl s := rfl
@[simp] theorem exec_vextr mod d a b imm cl (s : State) : exec (.vextr mod d a b imm cl) s = execVextr mod d a b imm cl s := rfl
@[simp] theorem exec_vins mod d a b imm cl (s : State) : exec (.vins mod d a b imm cl) s = execVins mod d a b imm cl s := rfl
@[simp] theorem exec_vperm mod d a b cl (s : State) : exec (.vperm mod d a b cl) s = execVperm mod d a b cl s := rfl
@[simp] theorem exec_vreduce mod d a imm cl (s : State) : exec (.vreduce mod d a imm cl) s = execVreduce mod d a imm cl s := rfl
@[simp] theorem exec_vcvt mod d a b imm cl (s : State) : exec (.vcvt mod d a b imm cl) s = execVcvt mod d a b imm cl s := rfl
@[simp] theorem exec_vretag d a b imm cl (s : State) : exec (.vretag d a b imm cl) s = execVretag d a b imm cl s := rfl
@[simp] theorem exec_vplane mod d a b imm cl (s : State) : exec (.vplane mod d a b imm cl) s = execVplane mod d a b imm cl s := rfl
@[simp] theorem exec_vqscale mod d a c cl (s : State) : exec (.vqscale mod d a c cl) s = execVqscale mod d a c cl s := rfl
@[simp] theorem exec_vbnd mod d a b c cl (s : State) : exec (.vbnd mod d a b c cl) s = execVbnd mod d a b c cl s := rfl
@[simp] theorem exec_vscan mod d a imm cl (s : State) : exec (.vscan mod d a imm cl) s = execVscan mod d a imm cl s := rfl
@[simp] theorem exec_vmovp mod d a cl (s : State) : exec (.vmovp mod d a cl) s = execVmovp mod d a cl s := rfl
@[simp] theorem exec_mzero mod d cl (s : State) : exec (.mzero mod d cl) s = execMzero mod d cl s := rfl
@[simp] theorem exec_mma mod d a b cl (s : State) : exec (.mma mod d a b cl) s = execMma mod d a b cl s := rfl
@[simp] theorem exec_mmat mod d a b cl (s : State) : exec (.mmat mod d a b cl) s = execMmat mod d a b cl s := rfl
@[simp] theorem exec_mmas mod d a b c cl (s : State) : exec (.mmas mod d a b c cl) s = execMmas mod d a b c cl s := rfl
@[simp] theorem exec_mmast mod d a b c cl (s : State) : exec (.mmast mod d a b c cl) s = execMmast mod d a b c cl s := rfl
@[simp] theorem exec_mlda mod d a b cl (s : State) : exec (.mlda mod d a b cl) s = execMlda mod d a b cl s := rfl
@[simp] theorem exec_msta mod a b c imm cl (s : State) : exec (.msta mod a b c imm cl) s = execMsta mod a b c imm cl s := rfl
@[simp] theorem exec_mstq mod a b c imm cl (s : State) : exec (.mstq mod a b c imm cl) s = execMstq mod a b c imm cl s := rfl
@[simp] theorem exec_maddt mod d a b cl (s : State) : exec (.maddt mod d a b cl) s = execMaddt mod d a b cl s := rfl
@[simp] theorem exec_mscl mod d a b cl (s : State) : exec (.mscl mod d a b cl) s = execMscl mod d a b cl s := rfl
@[simp] theorem exec_mrowv d a imm cl (s : State) : exec (.mrowv d a imm cl) s = execMrowv d a imm cl s := rfl
@[simp] theorem exec_mvrow d a imm cl (s : State) : exec (.mvrow d a imm cl) s = execMvrow d a imm cl s := rfl
@[simp] theorem exec_mtrn d a cl (s : State) : exec (.mtrn d a cl) s = execMtrn d a cl s := rfl
@[simp] theorem exec_mredr mod d a cl (s : State) : exec (.mredr mod d a cl) s = execMredr mod d a cl s := rfl
@[simp] theorem exec_mshape a cl (s : State) : exec (.mshape a cl) s = execMshape a cl s := rfl
@[simp] theorem exec_mfmt a cl (s : State) : exec (.mfmt a cl) s = execMfmt a cl s := rfl
@[simp] theorem exec_pload mod a cl (s : State) : exec (.pload mod a cl) s = execPload mod a cl s := rfl
@[simp] theorem exec_pset a imm cl (s : State) : exec (.pset a imm cl) s = execPset a imm cl s := rfl
@[simp] theorem exec_pget d imm cl (s : State) : exec (.pget d imm cl) s = execPget d imm cl s := rfl
@[simp] theorem exec_pcount d a b cl (s : State) : exec (.pcount d a b cl) s = execPcount d a b cl s := rfl
@[simp] theorem exec_pgen mod d a cl (s : State) : exec (.pgen mod d a cl) s = execPgen mod d a cl s := rfl
@[simp] theorem exec_pinv mod d a b cl (s : State) : exec (.pinv mod d a b cl) s = execPinv mod d a b cl s := rfl
@[simp] theorem exec_cutset a b cl (s : State) : exec (.cutset a b cl) s = execCutset a b cl s := rfl
@[simp] theorem exec_cut mod d imm cl (s : State) : exec (.cut mod d imm cl) s = execCut mod d imm cl s := rfl
@[simp] theorem exec_cutb d a b c imm cl (s : State) : exec (.cutb d a b c imm cl) s = execCutb d a b c imm cl s := rfl
@[simp] theorem exec_mstat mod d cl (s : State) : exec (.mstat mod d cl) s = execMstat mod d cl s := rfl
@[simp] theorem exec_mstage a cl (s : State) : exec (.mstage a cl) s = execMstage a cl s := rfl
@[simp] theorem exec_msave mod a b c cl (s : State) : exec (.msave mod a b c cl) s = execMsave mod a b c cl s := rfl
@[simp] theorem exec_mrest mod d b c cl (s : State) : exec (.mrest mod d b c cl) s = execMrest mod d b c cl s := rfl
@[simp] theorem exec_mdot mod d a b cl (s : State) : exec (.mdot mod d a b cl) s = execMdot mod d a b cl s := rfl
@[simp] theorem exec_mbias mod d a b cl (s : State) : exec (.mbias mod d a b cl) s = execMbias mod d a b cl s := rfl
@[simp] theorem exec_mclamp d a b c cl (s : State) : exec (.mclamp d a b c cl) s = execMclamp d a b c cl s := rfl
@[simp] theorem exec_meet mod d a b c imm cl (s : State) : exec (.meet mod d a b c imm cl) s = execMeet mod d a b c imm cl s := rfl
@[simp] theorem exec_part cl (s : State) : exec (.part cl) s = execPart cl s := rfl
@[simp] theorem exec_xreg mod d a cl (s : State) : exec (.xreg mod d a cl) s = execXreg mod d a cl s := rfl
@[simp] theorem exec_xvreg d a cl (s : State) : exec (.xvreg d a cl) s = execXvreg d a cl s := rfl
@[simp] theorem exec_xlug a b c cl (s : State) : exec (.xlug a b c cl) s = execXlug a b c cl s := rfl
@[simp] theorem exec_meetq mod d cl (s : State) : exec (.meetq mod d cl) s = execMeetq mod d cl s := rfl
@[simp] theorem exec_bar mod d imm cl (s : State) : exec (.bar mod d imm cl) s = execBar mod d imm cl s := rfl
@[simp] theorem exec_bara mod imm cl (s : State) : exec (.bara mod imm cl) s = execBara mod imm cl s := rfl
@[simp] theorem exec_barw d cl (s : State) : exec (.barw d cl) s = execBarw d cl s := rfl
@[simp] theorem exec_sstep d cl (s : State) : exec (.sstep d cl) s = execSstep d cl s := rfl
@[simp] theorem exec_barred mod d a imm cl (s : State) : exec (.barred mod d a imm cl) s = execBarred mod d a imm cl s := rfl
@[simp] theorem exec_take d cl (s : State) : exec (.take d cl) s = execTake d cl s := rfl
@[simp] theorem exec_share d a cl (s : State) : exec (.share d a cl) s = execShare d a cl s := rfl
@[simp] theorem exec_launch d a b c cl (s : State) : exec (.launch d a b c cl) s = execLaunch d a b c cl s := rfl
@[simp] theorem exec_cpy mod d a b c imm cl (s : State) : exec (.cpy mod d a b c imm cl) s = execCpy mod d a b c imm cl s := rfl
@[simp] theorem exec_cpyt mod d a b c imm cl (s : State) : exec (.cpyt mod d a b c imm cl) s = execCpyt mod d a b c imm cl s := rfl
@[simp] theorem exec_cpyw mod d a b c imm cl (s : State) : exec (.cpyw mod d a b c imm cl) s = execCpyw mod d a b c imm cl s := rfl
@[simp] theorem exec_cpyg mod d a b c imm cl (s : State) : exec (.cpyg mod d a b c imm cl) s = execCpyg mod d a b c imm cl s := rfl
@[simp] theorem exec_cpys mod d a b c imm cl (s : State) : exec (.cpys mod d a b c imm cl) s = execCpys mod d a b c imm cl s := rfl
@[simp] theorem exec_cpyp d a b c imm cl (s : State) : exec (.cpyp d a b c imm cl) s = execCpyp d a b c imm cl s := rfl
@[simp] theorem exec_cpyr d a b c imm cl (s : State) : exec (.cpyr d a b c imm cl) s = execCpyr d a b c imm cl s := rfl
@[simp] theorem exec_cpwait a imm cl (s : State) : exec (.cpwait a imm cl) s = execCpwait a imm cl s := rfl
@[simp] theorem exec_cpstat mod d imm cl (s : State) : exec (.cpstat mod d imm cl) s = execCpstat mod d imm cl s := rfl
@[simp] theorem exec_stgwait d a imm cl (s : State) : exec (.stgwait d a imm cl) s = execStgwait d a imm cl s := rfl
@[simp] theorem exec_stgrel imm cl (s : State) : exec (.stgrel imm cl) s = execStgrel imm cl s := rfl
@[simp] theorem exec_stgset a imm cl (s : State) : exec (.stgset a imm cl) s = execStgset a imm cl s := rfl
@[simp] theorem exec_evwait imm cl (s : State) : exec (.evwait imm cl) s = execEvwait imm cl s := rfl
@[simp] theorem exec_evclr imm cl (s : State) : exec (.evclr imm cl) s = execEvclr imm cl s := rfl
@[simp] theorem exec_mould mod d cl (s : State) : exec (.mould mod d cl) s = execMould mod d cl s := rfl
@[simp] theorem exec_tmark a imm cl (s : State) : exec (.tmark a imm cl) s = execTmark a imm cl s := rfl
@[simp] theorem exec_cpcan imm cl (s : State) : exec (.cpcan imm cl) s = execCpcan imm cl s := rfl
@[simp] theorem exec_launchq d a b c cl (s : State) : exec (.launchq d a b c cl) s = execLaunchq d a b c cl s := rfl
@[simp] theorem exec_fixedLatencyWriteback core (s : State) : exec (.fixedLatencyWriteback core) s = execFixedLatencyWriteback core s := rfl
@[simp] theorem exec_divideComplete core (s : State) : exec (.divideComplete core) s = execDivideComplete core s := rfl
@[simp] theorem exec_matrixUnitWordDone core (s : State) : exec (.matrixUnitWordDone core) s = execMatrixUnitWordDone core s := rfl
@[simp] theorem exec_onQuadAccessDone op (s : State) : exec (.onQuadAccessDone op) s = execOnQuadAccessDone op s := rfl
@[simp] theorem exec_generatorCutterDone op (s : State) : exec (.generatorCutterDone op) s = execGeneratorCutterDone op s := rfl
@[simp] theorem exec_contextSwitch core (s : State) : exec (.contextSwitch core) s = execContextSwitch core s := rfl
@[simp] theorem exec_portResume core (s : State) : exec (.portResume core) s = execPortResume core s := rfl
@[simp] theorem exec_trapEntry act (s : State) : exec (.trapEntry act) s = execTrapEntry act s := rfl
@[simp] theorem exec_timerMatch act (s : State) : exec (.timerMatch act) s = execTimerMatch act s := rfl
@[simp] theorem exec_interruptTaken act (s : State) : exec (.interruptTaken act) s = execInterruptTaken act s := rfl
@[simp] theorem exec_timecmpWrite act value (s : State) : exec (.timecmpWrite act value) s = execTimecmpWrite act value s := rfl
@[simp] theorem exec_extpendWrite act value (s : State) : exec (.extpendWrite act value) s = execExtpendWrite act value s := rfl
@[simp] theorem exec_homePortAccess req (s : State) : exec (.homePortAccess req) s = execHomePortAccess req s := rfl
@[simp] theorem exec_deviceLoadReturn req (s : State) : exec (.deviceLoadReturn req) s = execDeviceLoadReturn req s := rfl
@[simp] theorem exec_storeAccepted req (s : State) : exec (.storeAccepted req) s = execStoreAccepted req s := rfl
@[simp] theorem exec_atomicReply req (s : State) : exec (.atomicReply req) s = execAtomicReply req s := rfl
@[simp] theorem exec_waitmemSatisfied req (s : State) : exec (.waitmemSatisfied req) s = execWaitmemSatisfied req s := rfl
@[simp] theorem exec_reductionMergeApply line (s : State) : exec (.reductionMergeApply line) s = execReductionMergeApply line s := rfl
@[simp] theorem exec_releaseWaitDone act (s : State) : exec (.releaseWaitDone act) s = execReleaseWaitDone act s := rfl
@[simp] theorem exec_l1LineExpiry core line (s : State) : exec (.l1LineExpiry core line) s = execL1LineExpiry core line s := rfl
@[simp] theorem exec_translationWalk act (s : State) : exec (.translationWalk act) s = execTranslationWalk act s := rfl
@[simp] theorem exec_otinvWrite act value (s : State) : exec (.otinvWrite act value) s = execOtinvWrite act value s := rfl
@[simp] theorem exec_invalidationComplete part (s : State) : exec (.invalidationComplete part) s = execInvalidationComplete part s := rfl
@[simp] theorem exec_migreqWrite act value (s : State) : exec (.migreqWrite act value) s = execMigreqWrite act value s := rfl
@[simp] theorem exec_migrationRound act (s : State) : exec (.migrationRound act) s = execMigrationRound act s := rfl
@[simp] theorem exec_migrationFreeze act (s : State) : exec (.migrationFreeze act) s = execMigrationFreeze act s := rfl
@[simp] theorem exec_kicksetWrite part queue value (s : State) : exec (.kicksetWrite part queue value) s = execKicksetWrite part queue value s := rfl
@[simp] theorem exec_kickclrWrite part queue value (s : State) : exec (.kickclrWrite part queue value) s = execKickclrWrite part queue value s := rfl
@[simp] theorem exec_hostirqWrite part (s : State) : exec (.hostirqWrite part) s = execHostirqWrite part s := rfl
@[simp] theorem exec_lqbaseWrite part queue value host (s : State) : exec (.lqbaseWrite part queue value host) s = execLqbaseWrite part queue value host s := rfl
@[simp] theorem exec_kickScan part (s : State) : exec (.kickScan part) s = execKickScan part s := rfl
@[simp] theorem exec_kickTake part (s : State) : exec (.kickTake part) s = execKickTake part s := rfl
@[simp] theorem exec_journalEntryAccepted part (s : State) : exec (.journalEntryAccepted part) s = execJournalEntryAccepted part s := rfl
@[simp] theorem exec_launchSubmission part (s : State) : exec (.launchSubmission part) s = execLaunchSubmission part s := rfl
@[simp] theorem exec_dependenceThreshold part gang (s : State) : exec (.dependenceThreshold part gang) s = execDependenceThreshold part gang s := rfl
@[simp] theorem exec_crewDispatch gang (s : State) : exec (.crewDispatch gang) s = execCrewDispatch gang s := rfl
@[simp] theorem exec_preemption act (s : State) : exec (.preemption act) s = execPreemption act s := rfl
@[simp] theorem exec_stallSweep gang (s : State) : exec (.stallSweep gang) s = execStallSweep gang s := rfl
@[simp] theorem exec_crewSwapIn gang crew (s : State) : exec (.crewSwapIn gang crew) s = execCrewSwapIn gang crew s := rfl
@[simp] theorem exec_cycleCheckExpiry gang (s : State) : exec (.cycleCheckExpiry gang) s = execCycleCheckExpiry gang s := rfl
@[simp] theorem exec_barrierWatchdogExpiry gang (s : State) : exec (.barrierWatchdogExpiry gang) s = execBarrierWatchdogExpiry gang s := rfl
@[simp] theorem exec_gangCompletion gang (s : State) : exec (.gangCompletion gang) s = execGangCompletion gang s := rfl
@[simp] theorem exec_takeServed op (s : State) : exec (.takeServed op) s = execTakeServed op s := rfl
@[simp] theorem exec_shareServed op (s : State) : exec (.shareServed op) s = execShareServed op s := rfl
@[simp] theorem exec_barrierArrival act (s : State) : exec (.barrierArrival act) s = execBarrierArrival act s := rfl
@[simp] theorem exec_barrierComplete inst (s : State) : exec (.barrierComplete inst) s = execBarrierComplete inst s := rfl
@[simp] theorem exec_sstepComplete inst (s : State) : exec (.sstepComplete inst) s = execSstepComplete inst s := rfl
@[simp] theorem exec_barrierRelease inst act (s : State) : exec (.barrierRelease inst act) s = execBarrierRelease inst act s := rfl
@[simp] theorem exec_podBarrierReport inst pkg (s : State) : exec (.podBarrierReport inst pkg) s = execPodBarrierReport inst pkg s := rfl
@[simp] theorem exec_meetArrival act (s : State) : exec (.meetArrival act) s = execMeetArrival act s := rfl
@[simp] theorem exec_meetingCoreChosen quad entry (s : State) : exec (.meetingCoreChosen quad entry) s = execMeetingCoreChosen quad entry s := rfl
@[simp] theorem exec_meetLanded core (s : State) : exec (.meetLanded core) s = execMeetLanded core s := rfl
@[simp] theorem exec_partLanded act (s : State) : exec (.partLanded act) s = execPartLanded act s := rfl
@[simp] theorem exec_meetTimeout act (s : State) : exec (.meetTimeout act) s = execMeetTimeout act s := rfl
@[simp] theorem exec_meetWithdrawal act (s : State) : exec (.meetWithdrawal act) s = execMeetWithdrawal act s := rfl
@[simp] theorem exec_copyLine quad chan (s : State) : exec (.copyLine quad chan) s = execCopyLine quad chan s := rfl
@[simp] theorem exec_transferComplete quad chan (s : State) : exec (.transferComplete quad chan) s = execTransferComplete quad chan s := rfl
@[simp] theorem exec_copyFault quad chan cause (s : State) : exec (.copyFault quad chan cause) s = execCopyFault quad chan cause s := rfl
@[simp] theorem exec_peerSignal quad chan (s : State) : exec (.peerSignal quad chan) s = execPeerSignal quad chan s := rfl
@[simp] theorem exec_linkRailFailure link (s : State) : exec (.linkRailFailure link) s = execLinkRailFailure link s := rfl
@[simp] theorem exec_linkFlitRetry link ok (s : State) : exec (.linkFlitRetry link ok) s = execLinkFlitRetry link ok s := rfl
@[simp] theorem exec_linkDown link (s : State) : exec (.linkDown link) s = execLinkDown link s := rfl
@[simp] theorem exec_superstepReplay gang (s : State) : exec (.superstepReplay gang) s = execSuperstepReplay gang s := rfl
@[simp] theorem exec_gangEnd gang grade (s : State) : exec (.gangEnd gang grade) s = execGangEnd gang grade s := rfl
@[simp] theorem exec_scrubLine space inst line uncorrectable (s : State) : exec (.scrubLine space inst line uncorrectable) s = execScrubLine space inst line uncorrectable s := rfl
@[simp] theorem exec_retentionExit quad lost (s : State) : exec (.retentionExit quad lost) s = execRetentionExit quad lost s := rfl
@[simp] theorem exec_dieDrop die (s : State) : exec (.dieDrop die) s = execDieDrop die s := rfl
@[simp] theorem exec_crossAlarm core code (s : State) : exec (.crossAlarm core code) s = execCrossAlarm core code s := rfl
@[simp] theorem exec_drainWrite part value (s : State) : exec (.drainWrite part value) s = execDrainWrite part value s := rfl
@[simp] theorem exec_pgenrWrite part entry value (s : State) : exec (.pgenrWrite part entry value) s = execPgenrWrite part entry value s := rfl
@[simp] theorem exec_quadHalt quad (s : State) : exec (.quadHalt quad) s = execQuadHalt quad s := rfl
@[simp] theorem exec_quadHalted quad (s : State) : exec (.quadHalted quad) s = execQuadHalted quad s := rfl
@[simp] theorem exec_quadResume quad (s : State) : exec (.quadResume quad) s = execQuadResume quad s := rfl
@[simp] theorem exec_debugStateWrite act item (s : State) : exec (.debugStateWrite act item) s = execDebugStateWrite act item s := rfl
@[simp] theorem exec_sampleBufferSetup part len value (s : State) : exec (.sampleBufferSetup part len value) s = execSampleBufferSetup part len value s := rfl
@[simp] theorem exec_proofArm part value (s : State) : exec (.proofArm part value) s = execProofArm part value s := rfl
@[simp] theorem exec_proofSnapshot part (s : State) : exec (.proofSnapshot part) s = execProofSnapshot part s := rfl
@[simp] theorem exec_dvreq die value (s : State) : exec (.dvreq die value) s = execDvreq die value s := rfl
@[simp] theorem exec_clockSwitch die (s : State) : exec (.clockSwitch die) s = execClockSwitch die s := rfl
@[simp] theorem exec_dvfsPauseEnd die (s : State) : exec (.dvfsPauseEnd die) s = execDvfsPauseEnd die s := rfl
@[simp] theorem exec_arrayGate quad bank (s : State) : exec (.arrayGate quad bank) s = execArrayGate quad bank s := rfl
@[simp] theorem exec_arrayWake quad bank (s : State) : exec (.arrayWake quad bank) s = execArrayWake quad bank s := rfl
@[simp] theorem exec_thermalWarning die (s : State) : exec (.thermalWarning die) s = execThermalWarning die s := rfl
@[simp] theorem exec_emergencySaveCommit (s : State) : exec (.emergencySaveCommit) s = execEmergencySaveCommit s := rfl
@[simp] theorem exec_thermalTrip die (s : State) : exec (.thermalTrip die) s = execThermalTrip die s := rfl
@[simp] theorem exec_triprecClear value (s : State) : exec (.triprecClear value) s = execTriprecClear value s := rfl
@[simp] theorem exec_partmapWrite value (s : State) : exec (.partmapWrite value) s = execPartmapWrite value s := rfl
@[simp] theorem exec_packageReset (s : State) : exec (.packageReset) s = execPackageReset s := rfl
@[simp] theorem exec_partitionReset part (s : State) : exec (.partitionReset part) s = execPartitionReset part s := rfl
@[simp] theorem exec_attestationRequest value (s : State) : exec (.attestationRequest value) s = execAttestationRequest value s := rfl
@[simp] theorem exec_attestationDone (s : State) : exec (.attestationDone) s = execAttestationDone s := rfl
@[simp] theorem exec_tamperAlarm source (s : State) : exec (.tamperAlarm source) s = execTamperAlarm source s := rfl
@[simp] theorem exec_registerWrite part reg value (s : State) : exec (.registerWrite part reg value) s = execRegisterWrite part reg value s := rfl
@[simp] theorem exec_fixedTimeTagClear op (s : State) : exec (.fixedTimeTagClear op) s = execFixedTimeTagClear op s := rfl
@[simp] theorem exec_machineCheckError core record (s : State) : exec (.machineCheckError core record) s = execMachineCheckError core record s := rfl
@[simp] theorem exec_temperatureFalls die (s : State) : exec (.temperatureFalls die) s = execTemperatureFalls die s := rfl
@[simp] theorem exec_sbptrWrite part value (s : State) : exec (.sbptrWrite part value) s = execSbptrWrite part value s := rfl

end Sys2Proof.Machine
end

