-- ==== Sys2Proof/Laws/Access.lean ====
section
/-! SUPPORT. Laws of accesses: when the checks of local memory, the scratchpad and capabilities pass, and what they answer. -/
namespace Sys2Proof.Machine

theorem Act.lmCheck_ok {x : Act} {op : Nat} {o : Word64} {n al p : Nat} (h1 : o.toNat % al = 0)
    (h2 : x.lmAddr o.toNat n = some p) : x.lmCheck op o n al = .ok p := by simp only [Act.lmCheck, h1, h2]; rfl

theorem Act.lmCheck_misaligned {x : Act} {op : Nat} {o : Word64} {n al : Nat} (h : o.toNat % al ≠ 0) :
    x.lmCheck op o n al = .error (mkTrap cMISALIGN op o) := by simp [Act.lmCheck, h]

theorem Act.lmCheck_outside {x : Act} {op : Nat} {o : Word64} {n al : Nat} (h1 : o.toNat % al = 0)
    (h2 : x.lmAddr o.toNat n = none) : x.lmCheck op o n al = .error (mkTrap cCAPBOUND (1 + op * 256) o) := by
  simp only [Act.lmCheck, h1, h2]; rfl

theorem Act.qsCheck_ok {x : Act} {op : Nat} {o : Word64} {n al : Nat} (h1 : o.toNat % al = 0)
    (h2 : x.qsBase ≤ o.toNat) (h3 : o.toNat + n ≤ x.qsBase + x.qsLen) : x.qsCheck op o n al = .ok o.toNat := by
  have h : x.qsOk o.toNat n = true := by simp [Act.qsOk, h2, h3]
  simp only [Act.qsCheck, h1, h]; rfl

theorem Act.qsCheck_misaligned {x : Act} {op : Nat} {o : Word64} {n al : Nat} (h : o.toNat % al ≠ 0) :
    x.qsCheck op o n al = .error (mkTrap cMISALIGN op o) := by simp [Act.qsCheck, h]

/-- A capability that is valid, grants the rights and covers the bytes passes R48's checks. -/
theorem capCheck_ok {k : KReg} {kn need op : Nat} {o : Word64} {n : Nat} (hv : k.valid = true)
    (hr : k.reserved = false) (hn : hasRights k.rights need = true) (h0 : 0 ≤ o.toInt)
    (h1 : (k.lo : Int) + o.toInt + n ≤ k.hi) : capCheck k kn need op o n = .ok ((k.lo : Int) + o.toInt).toNat := by
  have h2 : ¬ ((k.lo : Int) + o.toInt < k.lo ∨ (k.hi : Int) < k.lo + o.toInt + n) := by omega
  simp only [capCheck, hv, hr, hn, h2]; rfl

theorem capCheck_invalid {k : KReg} {kn need op : Nat} {o : Word64} {n : Nat} (hv : k.valid = false) :
    capCheck k kn need op o n = .error (mkTrap cCAPTAG kn) := by simp [capCheck, hv]

/-- An access that reaches its byte passes the checks of a device word. -/
theorem State.devCheck_ok {s : State} {c : Nat} {x : Act} {kn need op : Nat} {o : Word64} {n : Nat} {write : Bool}
    {atom : Nat} {e : OtcEntry} {p : Nat} (h : s.Reaches c x kn need o n write atom e p) :
    s.devCheck c x kn need op o n write atom = .ok (e, p) := by
  have hp : ((x.k kn).lo + o.toInt : Int).toNat = p := by have := h.place; omega
  simp only [State.devCheck, capCheck_ok h.valid h.clean h.rights h.low h.high, hp, h.aligned, h.found]
  rfl

theorem State.l1Find_touch (s : State) (c d aid : Nat) (e : OtcEntry) (l : Nat) :
    (s.touch c e).l1Find d aid l = s.l1Find d aid l := by
  unfold State.touch
  split
  · rfl
  · by_cases h : d = c
    · subst h
      simp only [State.l1Find, State.core_setCore_same, Core.otcUse]
      rfl
    · simp only [State.l1Find, State.core_setCore_other _ _ _ h]
      rfl

end Sys2Proof.Machine
end

