-- ==== Sys2Proof/Laws/Decode.lean ====
section
/-! SUPPORT. Laws of the fields of a word: what is laid into a word is what is read from it (R91, R92). -/
namespace Sys2Proof

/-- Bits that lie in the upper part of two joined words. -/
theorem extractLsb'_append_high {n m k : Nat} (x : BitVec n) (y : BitVec m) (s : Nat) (h : m ≤ s) :
    (x ++ y).extractLsb' s k = x.extractLsb' (s - m) k := by
  apply BitVec.eq_of_getLsbD_eq
  intro i hi
  rw [BitVec.getLsbD_extractLsb', BitVec.getLsbD_extractLsb', BitVec.getLsbD_append, if_neg (by omega)]
  congr 2
  omega

/-- Bits that lie in the lower part. -/
theorem extractLsb'_append_low {n m k : Nat} (x : BitVec n) (y : BitVec m) (s : Nat) (h : s + k ≤ m) :
    (x ++ y).extractLsb' s k = y.extractLsb' s k := by
  apply BitVec.eq_of_getLsbD_eq
  intro i hi
  rw [BitVec.getLsbD_extractLsb', BitVec.getLsbD_extractLsb', BitVec.getLsbD_append, if_pos (by omega)]

/-- All the bits of a word. -/
theorem extractLsb'_self {n : Nat} (x : BitVec n) : x.extractLsb' 0 n = x := by simp

/-- An I-form immediate's parts. -/
theorem imm26_parts (d a b : BitVec 6) (op : BitVec 8) (cl : Clauses) (x : BitVec 26) :
    Fields.imm26 { op := op, d := d, a := a, b := b, c := x.extractLsb' 20 6, mod := x.extractLsb' 16 4
                   imm := x.extractLsb' 0 16, cl := cl } = x := by
  show x.extractLsb' 20 6 ++ x.extractLsb' 16 4 ++ x.extractLsb' 0 16 = x
  apply BitVec.eq_of_getLsbD_eq
  intro i hi
  simp only [BitVec.getLsbD_append, BitVec.getLsbD_extractLsb']
  interval_cases i <;> rfl

/-- An L-form immediate's parts. -/
theorem imm32_parts (d a : BitVec 6) (op : BitVec 8) (cl : Clauses) (x : BitVec 32) :
    Fields.imm32 { op := op, d := d, a := a, b := x.extractLsb' 26 6, c := x.extractLsb' 20 6, mod := x.extractLsb' 16 4
                   imm := x.extractLsb' 0 16, cl := cl } = x := by
  show x.extractLsb' 26 6 ++ x.extractLsb' 20 6 ++ x.extractLsb' 16 4 ++ x.extractLsb' 0 16 = x
  apply BitVec.eq_of_getLsbD_eq
  intro i hi
  simp only [BitVec.getLsbD_append, BitVec.getLsbD_extractLsb']
  interval_cases i <;> rfl

/-- The fields laid into a word, its clauses among them, are read back. -/
theorem Fields.ofWord_toWord (f : Fields) : Fields.ofWord f.toWord = f := by
  obtain ⟨op, d, a, b, c, m, imm, cl⟩ := f
  obtain ⟨q1, q2, q3, q4, q5, q6, q7, q8, q9⟩ := cl
  simp (disch := omega) only [Fields.ofWord, Fields.toWord, Clauses.ofWord, Clauses.toBits, extractLsb'_append_high,
    extractLsb'_append_low]
  simp only [Nat.reduceAdd, Nat.reduceSub, extractLsb'_self]

end Sys2Proof
end

