-- ==== Sys2Proof/Laws/Frame.lean ====
section
/-! SUPPORT. Laws of the frame: what the pipeline of a word leaves as it was, whatever the word does (`State.Keeps`), and what an
issue leaves of its context. -/
namespace Sys2Proof.Machine

theorem Core.SameMemory.refl (x : Core) : x.SameMemory x := ⟨rfl, rfl, rfl, rfl, rfl, rfl, rfl, fun _ => rfl⟩

theorem Core.SameMemory.trans {x y z : Core} (h : x.SameMemory y) (k : y.SameMemory z) : x.SameMemory z :=
  ⟨k.lm.trans h.lm, k.poison.trans h.poison, k.imem.trans h.imem, k.imemPoison.trans h.imemPoison,
    k.tilePoison.trans h.tilePoison, k.mould.trans h.mould, k.mcstat.trans h.mcstat, fun n => (k.tiles n).trans (h.tiles n)⟩

namespace State
variable {s t u : State} {c aid : Nat}

theorem Keeps.refl (s : State) (c aid : Nat) : s.Keeps s c aid :=
  ⟨rfl, rfl, rfl, rfl, rfl, rfl, rfl, rfl, rfl, rfl, rfl, rfl, rfl, fun _ => .refl _, fun _ _ _ => rfl, fun _ _ => rfl⟩

theorem Keeps.trans (h : s.Keeps t c aid) (k : t.Keeps u c aid) : s.Keeps u c aid where
  mem := k.mem.trans h.mem
  tags := k.tags.trans h.tags
  poison := k.poison.trans h.poison
  quads := k.quads.trans h.quads
  dies := k.dies.trans h.dies
  insts := k.insts.trans h.insts
  merges := k.merges.trans h.merges
  journals := k.journals.trans h.journals
  links := k.links.trans h.links
  recs := k.recs.trans h.recs
  seq := k.seq.trans h.seq
  tick := k.tick.trans h.tick
  home := k.home.trans h.home
  memory n := (h.memory n).trans (k.memory n)
  cores n hn hm := (k.cores n hn (h.home ▸ hm)).trans (h.cores n hn hm)
  acts n hn := (k.acts n hn).trans (h.acts n hn)

/-- An update of the context itself. -/
theorem Keeps.setAct (s : State) (c aid : Nat) {a : Act} (h : a.core = (s.act aid).core) : s.Keeps (s.setAct aid a) c aid :=
  ⟨rfl, rfl, rfl, rfl, rfl, rfl, rfl, rfl, rfl, rfl, rfl, rfl, by simpa using h, fun _ => .refl _, fun _ _ _ => rfl,
    fun _ hn => tableGet?_tableSet_other _ _ hn⟩

/-- An update of one of its cores that leaves the core's memory. -/
theorem Keeps.setCore (s : State) {c aid k : Nat} {x : Core} (hk : k = c ∨ k = (s.act aid).core) (h : (s.core k).SameMemory x) :
    s.Keeps (s.setCore k x) c aid where
  mem := rfl
  tags := rfl
  poison := rfl
  quads := rfl
  dies := rfl
  insts := rfl
  merges := rfl
  journals := rfl
  links := rfl
  recs := rfl
  seq := rfl
  tick := rfl
  home := rfl
  memory n := by
    by_cases hn : n = k
    · subst hn; rwa [State.core_setCore_same]
    · rw [State.core_setCore_other _ _ _ hn]; exact .refl _
  cores n hn hm := tableGet?_tableSet_other _ _ (by rintro rfl; exact hk.elim hn hm)
  acts _ _ := rfl

/-- An update of the gangs' records, the operations, the requests, the walks or the counters. -/
theorem Keeps.aside (s : State) (c aid : Nat) (gs : Table Gang) (os : Table Op) (rs : Table Req) (ws : List WalkReq)
    (n d : Nat) (ps : Table Part) :
    s.Keeps { s with gangs := gs, ops := os, reqs := rs, walks := ws, fresh := n, draws := d, parts := ps } c aid :=
  ⟨rfl, rfl, rfl, rfl, rfl, rfl, rfl, rfl, rfl, rfl, rfl, rfl, rfl, fun _ => .refl _, fun _ _ _ => rfl, fun _ _ => rfl⟩

theorem Keeps.setGang (s : State) (c aid g : Nat) (x : Gang) : s.Keeps (s.setGang g x) c aid := .aside s c aid _ _ _ _ _ _ _
theorem Keeps.setPart (s : State) (c aid p : Nat) (x : Part) : s.Keeps (s.setPart p x) c aid := .aside s c aid _ _ _ _ _ _ _
theorem Keeps.addOp (s : State) (c aid : Nat) (o : Op) : s.Keeps (s.addOp o).2 c aid := .aside s c aid _ _ _ _ _ _ _
theorem Keeps.send (s : State) (c aid : Nat) (r : Req) : s.Keeps (s.send r) c aid := .aside s c aid _ _ _ _ _ _ _

end State

/-! ## What landing, releasing and retiring touch -/

/-- Both are the same context but for registers, status word and results in flight. -/
def Act.SameBut (a b : Act) : Prop :=
  ∃ (r k : Regs) (w : Word64) (f : List FixedWrite), b = { a with regs := r, bank := k, asw := w, fixed := f }

theorem Act.SameBut.refl (a : Act) : a.SameBut a := ⟨_, _, _, _, rfl⟩

theorem Act.SameBut.trans {a b c : Act} (h : a.SameBut b) (k : b.SameBut c) : a.SameBut c := by
  obtain ⟨_, _, _, _, rfl⟩ := h
  obtain ⟨_, _, _, _, rfl⟩ := k
  exact ⟨_, _, _, _, rfl⟩

theorem Act.SameBut.foldl {β : Type} (f : Act → β → Act) (hf : ∀ (a : Act) (x : β), a.SameBut (f a x)) (l : List β) (a : Act) :
    a.SameBut (l.foldl f a) := by
  induction l generalizing a with
  | nil => exact .refl a
  | cons x r ih => exact (hf a x).trans (ih _)

theorem Act.sameBut_putIn (a : Act) (b : Bool) (w : RegWrite) : a.SameBut (a.putIn b w) := by
  unfold Act.putIn; split <;> exact ⟨_, _, _, _, rfl⟩

theorem Act.sameBut_release (a : Act) (r : RegName) : a.SameBut (a.release r) := by
  unfold Act.release; split <;> exact ⟨_, _, _, _, rfl⟩

theorem Act.sameBut_land (a : Act) (w : FixedWrite) : a.SameBut (a.land w) :=
  (Act.SameBut.foldl _ (fun a x => a.sameBut_putIn _ x) _ _).trans ⟨_, _, _, _, rfl⟩

theorem Act.sameBut_landDue (a : Act) (n : Nat) : a.SameBut (a.landDue n) :=
  (Act.SameBut.foldl _ Act.sameBut_land _ _).trans ⟨_, _, _, _, rfl⟩

theorem Act.sameBut_landAll (a : Act) : a.SameBut a.landAll :=
  (Act.SameBut.foldl _ Act.sameBut_land _ _).trans ⟨_, _, _, _, rfl⟩

theorem Act.SameBut.core {a b : Act} (h : a.SameBut b) : b.core = a.core := by obtain ⟨_, _, _, _, rfl⟩ := h; rfl
theorem Act.SameBut.num {a b : Act} (h : a.SameBut b) : b.num = a.num := by obtain ⟨_, _, _, _, rfl⟩ := h; rfl

theorem Act.retire_core (a0 a : Act) (i : Instr) (cl : Clauses) (n : Nat) (e : Eff) : (a0.retire a i cl n e).core = a.core := by
  simp only [Act.retire]
  rw [(Act.sameBut_landDue _ _).core]
  simp only [Act.advance, Act.remember, Act.counted]
  have h (x : Act) : ((releases i cl).foldl Act.release x).core = x.core := (Act.SameBut.foldl _ Act.sameBut_release _ _).core
  split <;> simp [h]

namespace State
variable {s t u : State} {c aid : Nat}

/-! ## The shared operations of the pipeline -/

theorem Keeps.settle (s : State) (c aid : Nat) : s.Keeps (s.settle (s.act aid).core aid) c aid :=
  (Keeps.setAct s c aid (Act.sameBut_landAll _).core).trans
    (.setCore _ (.inr (by simp [(Act.sameBut_landAll _).core])) ⟨rfl, rfl, rfl, rfl, rfl, rfl, rfl, fun _ => rfl⟩)

theorem Keeps.noteFault (s : State) (c aid g : Nat) (r : TrapReq) (k : Nat) : s.Keeps (s.noteFault g r k) c aid := by
  unfold State.noteFault
  split
  · exact .refl _ _ _
  · split
    · exact .refl _ _ _
    · exact .setGang _ _ _ _ _

theorem Keeps.reportStop (s : State) (c aid : Nat) (r : TrapReq) : s.Keeps (s.reportStop aid r) c aid :=
  (Keeps.setAct s c aid (a := { s.act aid with run := .stopped, trapPend := none }) rfl).trans (.noteFault _ _ _ _ _ _)

theorem Keeps.nestedFault (s : State) (c aid : Nat) (r : TrapReq) : s.Keeps (s.nestedFault aid r) c aid := by
  simp only [State.nestedFault]
  refine (Keeps.setAct s c aid (a := { s.act aid with run := .stopped, trapPend := none }) rfl).trans ?_
  split
  · exact .refl _ _ _
  · exact .setGang _ _ _ _ _

theorem Keeps.enterTrap (s : State) (c aid : Nat) (r : TrapReq) : s.Keeps (s.enterTrap aid r) c aid := by
  simp only [State.enterTrap]
  refine (Keeps.settle s c aid).trans ?_
  split
  · exact .reportStop _ _ _ _
  · split
    · exact .nestedFault _ _ _ _
    · refine (Keeps.setAct _ c aid (a := ((s.settle (s.act aid).core aid).act aid).saveTrap r) rfl).trans ?_
      split
      · exact .reportStop _ _ _ _
      · exact .setAct _ _ _ (by simp [State.enterHandler])

/-- Taking a trap, or keeping it pending. -/
theorem Keeps.takeTrap (s : State) (c aid : Nat) (r : TrapReq) : s.Keeps (s.takeTrap aid r) c aid := by
  unfold State.takeTrap
  split
  · exact .enterTrap _ _ _ _
  · exact .setAct _ _ _ rfl

theorem Keeps.raise (s : State) (c aid : Nat) (x : Trap) : s.Keeps (s.raise aid x) c aid := .takeTrap _ _ _ _

theorem Keeps.clock {s : State} {c aid : Nat} {x : Core} (h : (s.core c).SameMemory x) : s.Keeps (s.setCore c x) c aid :=
  .setCore s (.inl rfl) h

theorem Keeps.idle (h : s.portAct c = some aid) : s.Keeps (s.idle c) c aid := by
  have hp : (s.setCore c { s.core c with cycle := (s.core c).cycle + 1 }).portAct c = some aid := by
    simpa [State.portAct] using h
  simp only [State.idle, hp]
  refine .trans ?_ (.setAct _ _ _ (Act.sameBut_landDue _ _).core)
  exact .clock ⟨rfl, rfl, rfl, rfl, rfl, rfl, rfl, fun _ => rfl⟩

theorem Keeps.awaitWrite (s : State) (c aid : Nat) : s.Keeps (s.awaitWrite c aid) c aid := by
  unfold State.awaitWrite
  split
  · refine .trans ?_ (.setAct _ _ _ (Act.sameBut_landDue _ _).core)
    exact .clock ⟨rfl, rfl, rfl, rfl, rfl, rfl, rfl, fun _ => rfl⟩
  · exact .refl _ _ _

/-- The port passes from the context. -/
theorem Keeps.switchPort (h : s.portAct c = some aid) : s.Keeps (s.switchPort c) c aid := by
  have hp : (s.setAct aid { s.act aid with parkTick := s.tick }).portAct c = some aid := h
  simp only [State.switchPort, h, State.passPort, hp]
  refine (Keeps.setAct s c aid (a := { s.act aid with parkTick := s.tick }) rfl).trans
    ((Keeps.setAct _ c aid (Act.sameBut_landAll _).core).trans (.clock ⟨rfl, rfl, rfl, rfl, rfl, rfl, rfl, fun _ => rfl⟩))

/-- A context that blocks gives up the port. -/
theorem Keeps.park (h : s.portAct c = some aid) (b : Option Block) :
    s.Keeps ((s.setAct aid { s.act aid with block := b }).switchPort c) c aid :=
  (Keeps.setAct s c aid (a := { s.act aid with block := b }) rfl).trans (.switchPort h)

theorem Keeps.joinWalks (s : State) (c aid : Nat) (b : Block) : s.Keeps (s.joinWalks aid b) c aid := by
  unfold State.joinWalks
  split
  · simp only [State.askWalk]
    split <;> exact .aside s c aid _ _ _ _ _ _ _
  · exact .refl _ _ _

theorem Keeps.blockOn (h : s.portAct c = some aid) (b : Block) : s.Keeps (s.blockOn c aid b) c aid := by
  have hp : ((s.joinWalks aid b).setAct aid { s.act aid with block := some b }).portAct c = some aid := by
    have : (s.joinWalks aid b).cores = s.cores := by
      simp only [State.joinWalks, State.askWalk]
      repeat' split
      all_goals rfl
    simpa [State.portAct, State.core, this] using h
  have hj := Keeps.joinWalks s c aid b
  exact (hj.trans (.setAct _ c aid (by simpa using hj.home.symm))).trans (.switchPort hp)

theorem Keeps.clocked (s : State) (c aid : Nat) : s.Keeps (s.clocked c) c aid :=
  .clock ⟨rfl, rfl, rfl, rfl, rfl, rfl, rfl, fun _ => rfl⟩

theorem stip_eq (h : s.Keeps t c aid) (k : Nat) : t.stip k = s.stip k := by simp [State.stip, State.quad, h.quads]

theorem portAct_clocked (s : State) (c k : Nat) : (s.clocked c).portAct k = s.portAct k := by
  by_cases h : k = c
  · subst h; simp [State.portAct, State.clocked]
  · simp [State.portAct, State.clocked, State.core_setCore_other _ _ _ h]

/-- What a wait that holds a word leaves, for a word that is no EXIT. -/
theorem Keeps.waits {a : Act} {cl : Clauses} {n : Need} (hp : s.portAct c = some aid) (hn : n.exit = false)
    (h : s.waits c aid a cl n = some t) : s.Keeps t c aid := by
  have some_eq {u : State} (hu : s.Keeps u c aid) (he : some u = some t) : s.Keeps t c aid := by injection he with he; exact he ▸ hu
  simp only [State.waits, hn, Bool.false_eq_true, false_and, ↓reduceIte] at h
  by_cases h1 : n.allTags = true ∧ (s.opsOf aid).isEmpty = false
  · rw [if_pos h1] at h; exact some_eq (.switchPort hp) h
  rw [if_neg h1] at h
  split at h
  · exact some_eq (.switchPort hp) h
  · exact some_eq (.idle hp) h
  split at h
  · exact some_eq (.awaitWrite _ _ _) h
  split at h
  · exact some_eq (.blockOn hp _) h
  split at h
  · split at h
    · exact some_eq (.blockOn hp _) h
    · exact some_eq (.idle hp) h
  split at h
  · exact some_eq (.idle hp) h
  split at h
  · exact some_eq (.idle hp) h
  · cases h

/-! ## Issue -/

theorem Keeps.keepSample (v : State) (c aid : Nat) (op : Option Nat) : v.Keeps (v.keepSample op v) c aid := by
  unfold State.keepSample
  split
  · exact .refl _ _ _
  · split
    · exact .refl _ _ _
    · exact .aside v c aid v.gangs _ v.reqs v.walks v.fresh v.draws v.parts

theorem portAct_keepSample (v : State) (op : Option Nat) (k : Nat) : (v.keepSample op v).portAct k = v.portAct k := by
  unfold State.keepSample
  split
  · rfl
  · split <;> rfl

/-- An issue whose effect leaves what the frame names, and after which nothing follows or the port passes until the word's verdict. -/
theorem Keeps.issue {i : Instr} {cl : Clauses} {e : Eff} (h : s.Keeps e.st c aid) (hs : s.stip c = 0)
    (hp : e.post = .none ∨ (e.post = .verdict ∧ e.st.portAct c = some aid)) : s.Keeps (s.issue c aid i cl e) c aid := by
  have hk : s.Keeps ((e.st.setAct aid ((s.act aid).retire (e.st.act aid) i cl (s.core c).cycle e)).clocked c) c aid :=
    (h.trans (.setAct _ _ _ (Act.retire_core _ _ _ _ _ _))).trans (.clocked _ _ _)
  have hz := (stip_eq hk c).trans hs
  rcases hp with hp | ⟨hp, ha⟩
  · simpa [State.issue, State.stipple, hz, hp, State.after] using hk
  · have hw : ∀ v : State, v = ((e.st.setAct aid ((s.act aid).retire (e.st.act aid) i cl (s.core c).cycle e)).clocked c) →
        v.portAct c = some aid := by rintro v rfl; rw [portAct_clocked]; exact ha
    simp only [State.issue, State.stipple, hz, hp, State.after, ↓reduceIte]
    generalize hv : (e.st.setAct aid ((s.act aid).retire (e.st.act aid) i cl (s.core c).cycle e)).clocked c = v at *
    exact (hk.trans (.keepSample v c aid e.op)).trans (.park ((portAct_keepSample v e.op c).trans (hw v rfl)) _)

end State

/-- How a word's own part ends, when it leaves what the frame names. -/
def Res.Keeps (s : State) (c aid : Nat) (r : Res) : Prop :=
  match r with
  | .trap _ | .wait _ => True
  | .hold u => s.Keeps u c aid
  | .go e => s.Keeps e.st c aid ∧ (e.post = .none ∨ (e.post = .verdict ∧ e.st.portAct c = some aid))

theorem State.Holds.portAct {s : State} {c aid : Nat} (h : s.Holds c aid) : s.portAct c = some aid := by
  unfold State.Holds State.current at h
  split at h
  · simp only [Option.some.injEq, Prod.mk.injEq] at h
    obtain ⟨rfl, rfl⟩ := h
    assumption
  · cases h

/-- Whatever a word answers, it leaves what the frame names if its own part does. -/
theorem State.Keeps.runWith {s t : State} {c aid : Nat} {i : Instr} {cl : Clauses} {need : Act → Need}
    {pre : Act → State → Option Trap} {body : Nat → Nat → Act → State → Res} (hc : s.Holds c aid) (hs : s.stip c = 0)
    (hn : (need (s.act aid)).exit = false) (hb : (body c aid (s.act aid) s).Keeps s c aid)
    (h : Machine.runWith i cl need pre body s = .next t) : s.Keeps t c aid := by
  rcases runWith_cases i cl need pre body s with ⟨hn', _⟩ | ⟨c', aid', hc', h1⟩
  · rw [State.Holds, hn'] at hc; cases hc
  · have he : c' = c ∧ aid' = aid := by
      rw [State.Holds] at hc; rw [hc] at hc'; simpa [eq_comm] using hc'
    obtain ⟨rfl, rfl⟩ := he
    rcases h1 with ⟨_, h1⟩ | ⟨u, hw, h1⟩ | ⟨u, hw, h1⟩ | ⟨b, _, h1⟩ | ⟨e, hw, h1⟩ <;> rw [h1] at h <;> injection h with h <;> subst h
    · exact .raise _ _ _ _
    · exact .waits hc.portAct hn hw
    · rw [hw] at hb; exact hb
    · exact .blockOn hc.portAct _
    · rw [hw] at hb; exact .issue hb.1 hs hb.2

/-! ## The parts that words share -/

namespace Res.Keeps
variable {s u : State} {c aid : Nat}

theorem trap (t : Trap) : (Res.trap t).Keeps s c aid := trivial
theorem wait (b : Block) : (Res.wait b).Keeps s c aid := trivial
theorem hold (h : s.portAct c = some aid) : (Res.hold (s.idle c)).Keeps s c aid := State.Keeps.idle h

theorem fixedRes (h : s.Keeps u c aid) (l : Nat) (ws : List RegWrite) (f : BitVec 5) : (fixedRes u l ws f).Keeps s c aid :=
  ⟨h, .inl rfl⟩

theorem effectRes (h : s.Keeps u c aid) : (effectRes u).Keeps s c aid := ⟨h, .inl rfl⟩

theorem opRes (h : s.Keeps u c aid) (o : Op) : (opRes u o).Keeps s c aid := ⟨h.trans (.addOp _ _ _ _), .inl rfl⟩

theorem devIssue (h : s.Keeps u c aid) (o : Op) (r : Nat → Req) : (devIssue u o r).Keeps s c aid :=
  ⟨(h.trans (.addOp _ _ _ _)).trans (.send _ _ _ _), .inl rfl⟩

theorem loadIssue (h : s.Keeps u c aid) (o : Op) (r : Nat → Req) : (loadIssue u o r).Keeps s c aid := by
  simp only [Machine.loadIssue]
  split <;> exact ⟨(h.trans (.addOp _ _ _ _)).trans (.send _ _ _ _), .inl rfl⟩

end Res.Keeps

namespace State.Keeps
variable {s : State} {c aid : Nat}

theorem touch (s : State) (c aid : Nat) (e : OtcEntry) : s.Keeps (s.touch c e) c aid := by
  unfold State.touch
  split
  · exact .refl _ _ _
  · exact .clock ⟨rfl, rfl, rfl, rfl, rfl, rfl, rfl, fun _ => rfl⟩

theorem l1Drop (s : State) (c aid l : Nat) : s.Keeps (s.l1Drop c l) c aid :=
  .clock ⟨rfl, rfl, rfl, rfl, rfl, rfl, rfl, fun _ => rfl⟩

theorem l1Store (s : State) (c aid a : Nat) (bs : List Byte) (m : List Bool) : s.Keeps (s.l1Store c a bs m) c aid := by
  unfold State.l1Store
  split
  · exact .clock ⟨rfl, rfl, rfl, rfl, rfl, rfl, rfl, fun _ => rfl⟩
  · exact .refl _ _ _

theorem noteUncorr (s : State) (c aid g : Nat) (p : Poison) (b : Bool) : s.Keeps (s.noteUncorr g p b) c aid :=
  .setGang _ _ _ _ _

theorem boundSticky (s : State) (c aid n k : Nat) : s.Keeps (s.boundSticky aid n k) c aid := by
  unfold State.boundSticky
  split
  · exact .refl _ _ _
  · exact .setAct _ _ _ rfl

/-- The tag of a tile changes with none of its elements. -/
theorem tagTile (s : State) (c aid n : Nat) (b : Bool) : s.Keeps (s.tagTile c n b) c aid :=
  .clock ⟨rfl, rfl, rfl, rfl, rfl, rfl, rfl, fun m => by
    by_cases h : m = n
    · subst h; simp [State.tile]
    · rw [tableGet?_tableSet_other _ _ h]⟩

end State.Keeps

namespace Res.Keeps
variable {s u : State} {c aid : Nat}

theorem uncorrRes (s : State) (c aid : Nat) (x : Act) (q : Poison) (b : Bool) : (uncorrRes s aid x q b).Keeps s c aid :=
  (State.Keeps.noteUncorr _ _ _ _ _ _).trans (.raise _ _ _ _)

theorem matRes (h : s.portAct c = some aid) (x : Act) (i : Instr) (cl : Clauses) (m : Bool) (ds : List RegName) (w : MatWord)
    (tag : Option (Nat × Bool)) : (matRes s c aid x i cl m ds w tag).Keeps s c aid := by
  have hq : ∀ v : State, s.Keeps v c aid → ∀ o, s.Keeps ((v.addOp o).2.setCore c { (v.addOp o).2.core c with
      mqueue := ((v.addOp o).2.core c).mqueue ++ [(v.addOp o).1] }) c aid := fun v hv o =>
    (hv.trans (.addOp _ _ _ _)).trans (.clock ⟨rfl, rfl, rfl, rfl, rfl, rfl, rfl, fun _ => rfl⟩)
  simp only [Machine.matRes]
  split
  · split
    · exact uncorrRes _ _ _ _ _ _
    · exact hold h
  · split
    · exact hold h
    · split
      · exact trivial
      · cases tag with
        | none => exact ⟨hq _ (.refl _ _ _) _, .inl rfl⟩
        | some p => exact ⟨hq _ (.tagTile _ _ _ _ _) _, .inl rfl⟩

end Res.Keeps

end Sys2Proof.Machine
end

