-- ==== Sys2Proof/Laws/Matrix.lean ====
section
/-! SUPPORT. Laws of the matrix unit's queue: when a word enters it, and when it stops first. -/
namespace Sys2Proof.Machine

/-- The tile's tag that a word of the queue sets at its issue. -/
def State.tagged (s : State) (c : Nat) (tag : Option (Nat × Bool)) : State :=
  match tag with
  | some (d, i32) => s.tagTile c d i32
  | none => s

/-- Everything `matRes` can answer: it raises UNCORR or waits for its turn to do so, waits for its turn to judge a bound, raises
BOUND, or enters the queue. -/
theorem matRes_cases (s : State) (c aid : Nat) (x : Act) (i : Instr) (cl : Clauses) (mem : Bool) (dsts : List RegName)
    (w : MatWord) (tag : Option (Nat × Bool)) :
    (∃ q l, s.matPoison x.gang c w = some (q, l) ∧
      matRes s c aid x i cl mem dsts w tag = if (s.core c).mqueue.isEmpty then uncorrRes s aid x q l else .hold (s.idle c)) ∨
    (w.trapBound.isSome = true ∧ (s.core c).mqueue.isEmpty = false ∧
      matRes s c aid x i cl mem dsts w tag = .hold (s.idle c)) ∨
    (∃ t, s.matBound c w = some t ∧ matRes s c aid x i cl mem dsts w tag = .trap t) ∨
    matRes s c aid x i cl mem dsts w tag = .go (enqueue (s.tagged c tag) c (mkOp aid x i cl false mem dsts (.matrix c w))) := by
  unfold matRes
  cases hp : s.matPoison x.gang c w with
  | some q => exact .inl ⟨q.1, q.2, rfl, rfl⟩
  | none =>
    refine .inr ?_
    by_cases hb : (w.trapBound.isSome && !(s.core c).mqueue.isEmpty) = true
    · refine .inl ⟨?_, ?_, ?_⟩ <;> simp_all
    · refine .inr ?_
      simp only [hb]
      cases hm : s.matBound c w with
      | some t => exact .inl ⟨t, rfl, rfl⟩
      | none => exact .inr rfl

/-- A word that nothing stops enters the queue. -/
theorem matRes_sound {s : State} {c : Nat} {x : Act} {w : MatWord} (h : s.Sound x.gang c w) (aid : Nat) (i : Instr)
    (cl : Clauses) (mem : Bool) (dsts : List RegName) (tag : Option (Nat × Bool)) :
    matRes s c aid x i cl mem dsts w tag
      = .go (enqueue (s.tagged c tag) c (mkOp aid x i cl false mem dsts (.matrix c w))) := by
  have hb : (w.trapBound.isSome && !(s.core c).mqueue.isEmpty) = false := by
    cases ht : w.trapBound with
    | none => rfl
    | some n => simp [h.turn (by simp [ht])]
  simp only [matRes, h.clean, hb, h.inside]
  rfl

/-- Every word but a store is sound once it would read no poison. -/
theorem Sound.of_clean {s : State} {g c : Nat} {w : MatWord} (h : s.matPoison g c w = none) (hb : w.trapBound = none) :
    s.Sound g c w := by
  refine ⟨h, fun hn => absurd hb hn, ?_⟩
  cases w with
  | store a fmt q offs cols b =>
    match b with
    | none => rfl
    | some (n, r) =>
      have hr : ¬ r.mode = 3#2 := fun hm => by simp [MatWord.trapBound, hm] at hb
      simp [State.matBound, hr]
  | _ => rfl

end Sys2Proof.Machine
end

