-- ==== Sys2Proof/Laws/Memory.lean ====
section
/-! SUPPORT. Every operation that writes a memory keeps its canonical form: device memory with its hidden tags and its
poison, local memory, the scratchpad. -/
namespace Sys2Proof.Machine

/-- The canonical form is a matter of the three maps alone. -/
theorem State.MemWf.of_eq {s t : State} (h : s.MemWf) (h1 : t.mem = s.mem) (h2 : t.memTags = s.memTags)
    (h3 : t.memPoison = s.memPoison) : t.MemWf :=
  ⟨by rw [h1]; exact h.mem, by rw [h2]; exact h.tags, by rw [h3]; exact h.poison⟩

/-- An operation that keeps the form at each element of a list keeps it over the whole list. -/
theorem State.MemWf.foldl {β : Type} (l : List β) (f : State → β → State) (hf : ∀ s x, s.MemWf → (f s x).MemWf)
    {s : State} (h : s.MemWf) : (l.foldl f s).MemWf := by
  induction l generalizing s with
  | nil => exact h
  | cons x l ih => exact ih (hf s x h)

theorem reset_memWf : State.reset.MemWf := ⟨rfl, rfl, rfl⟩

/-! ## Logging leaves memory alone -/

theorem State.badWrite_memWf {s : State} (g c : Nat) (h : s.MemWf) : (s.badWrite g c).MemWf := by
  unfold State.badWrite
  dsimp only
  split
  · exact h.of_eq rfl rfl rfl
  · exact h

theorem State.devLog_memWf {s : State} (g c l : Nat) (gp : Bool) (o : Nat) (h : s.MemWf) : (s.devLog g c l gp o).MemWf := by
  unfold State.devLog
  dsimp only
  split
  · exact h
  split
  · exact State.badWrite_memWf g c h
  split
  · exact h
  split
  · exact State.badWrite_memWf g c h
  · exact h.of_eq rfl rfl rfl

/-! ## Device memory -/

/-- Marks set or cleared over a list of places. -/
theorem Marks.wf_foldl {β : Type} (l : List β) (at_ : β → Nat) (mark : β → Bool) {m : Sparse Bool} (h : Marks.wf m = true) :
    Marks.wf (l.foldl (fun t i => sparseSet false t (at_ i) (mark i)) m) = true :=
  sparseWf_foldl l _ (fun _ _ hm => sparseWf_sparseSet _ _ hm) h

theorem State.memPut_memWf {s : State} (a : Nat) (bs : List Byte) (h : s.MemWf) : (s.memPut a bs).MemWf :=
  ⟨sparseWf_sparseWrite bs a h.mem, h.tags, h.poison⟩

/-! A plate's cache, what a read notes, and comparing waits leave memory alone. -/

theorem State.mcPut_memWf {s : State} (l : Nat) (x : McLine) (h : s.MemWf) : (s.mcPut l x).MemWf := by
  unfold State.mcPut
  split
  · exact h
  split
  · exact h
  dsimp only
  split
  · exact h
  split
  · exact h.of_eq rfl rfl rfl
  · exact h.of_eq rfl rfl rfl

theorem State.mcRead_memWf {s : State} (l : Nat) (h : s.MemWf) : (s.mcRead l).MemWf := by
  unfold State.mcRead
  split
  · exact h
  · exact State.mcPut_memWf l {} h

theorem State.mcWrite_memWf {s : State} (l : Nat) (w : Bool) (h : s.MemWf) : (s.mcWrite l w).MemWf := by
  unfold State.mcWrite
  refine State.mcPut_memWf l _ ?_
  split
  · exact ⟨h.mem, h.tags, sparseWf_sparseSet _ _ h.poison⟩
  · exact h

theorem State.mcRefetch_memWf {s : State} (a n : Nat) (h : s.MemWf) : (s.mcRefetch a n).MemWf := by
  refine State.MemWf.foldl _ _ (fun u l hu => ?_) h
  split
  · split
    · exact hu.of_eq rfl rfl rfl
    · exact hu
  · exact hu

theorem State.noteUncorr_memWf {s : State} (g : Nat) (p : Poison) (r : Bool) (h : s.MemWf) : (s.noteUncorr g p r).MemWf := by
  unfold State.noteUncorr
  repeat' split
  all_goals first | exact h | exact h.of_eq rfl rfl rfl

theorem State.noteRead_memWf {s : State} (r : Req) (p : Option Poison) (h : s.MemWf) : (s.noteRead r p).MemWf := by
  unfold State.noteRead
  split
  · exact State.mcRefetch_memWf _ _ (State.noteUncorr_memWf _ _ _ h)
  · exact h

theorem State.answerWait_memWf {s : State} (rid : Nat) (r : Req) (h : s.MemWf) : (s.answerWait rid r).MemWf := by
  unfold State.answerWait
  split
  · exact State.noteRead_memWf r _ (h.of_eq rfl rfl rfl)
  · exact h

theorem State.notifyWaits_memWf {s : State} (a n : Nat) (h : s.MemWf) : (s.notifyWaits a n).MemWf :=
  State.MemWf.foldl _ _ (fun _ x hu => State.answerWait_memWf x.1 x.2 hu) h

theorem State.markDirty_memWf {s : State} (a n : Nat) (h : s.MemWf) : (s.markDirty a n).MemWf := h.of_eq rfl rfl rfl

theorem State.notifyDeps_memWf {s : State} (a n : Nat) (h : s.MemWf) : (s.notifyDeps a n).MemWf := h.of_eq rfl rfl rfl

/-- ONE WRITE at the home ports keeps the form. -/
theorem State.homeWrite_memWf {s : State} (g : Option (Nat × Nat)) (a : Nat) (bs : List Byte) (mask : List Bool)
    (whole tag gp : Bool) (owner : Nat) (h : s.MemWf) : (s.homeWrite g a bs mask whole tag gp owner).MemWf := by
  unfold State.homeWrite
  split
  · exact h
  · refine State.notifyDeps_memWf _ _ (State.notifyWaits_memWf _ _ (State.markDirty_memWf _ _ (State.MemWf.foldl _ _
      (fun u l hu => ?_) ?_)))
    · split
      · exact State.mcWrite_memWf _ _ hu
      · exact hu
    · have hs : (match g with
          | some g => (linesOf a bs.length).foldl (fun (s : State) l => s.devLog g.1 g.2 l gp owner) s
          | none => s).MemWf := by
        cases g with
        | none => exact h
        | some g => exact State.MemWf.foldl _ _ (fun u l hu => State.devLog_memWf g.1 g.2 l gp owner hu) h
      refine ⟨sparseWf_sparseWriteMasked bs mask a hs.mem, Marks.wf_foldl _ _ _ hs.tags, ?_⟩
      show Marks.wf (if _ then _ else _) = true
      split
      · exact cleanWhole_wf _ _ _ hs.poison
      · exact hs.poison

theorem State.plainWrite_memWf {s : State} (a : Nat) (bs : List Byte) (h : s.MemWf) : (s.plainWrite a bs).MemWf :=
  State.homeWrite_memWf _ _ _ _ _ _ _ _ h

theorem State.applyMerge_memWf {s : State} (m : Merge) (h : s.MemWf) : (s.applyMerge m).MemWf := by
  unfold State.applyMerge
  split
  · exact h
  · exact State.homeWrite_memWf _ _ _ _ _ _ _ _ h

theorem State.applyLine_memWf {s : State} (line : Nat) (h : s.MemWf) : (s.applyLine line).MemWf :=
  State.MemWf.foldl _ _ (fun _ m hu => State.applyMerge_memWf m hu) (h.of_eq rfl rfl rfl)

theorem State.flushMerges_memWf {s : State} (g : Nat) (h : s.MemWf) : (s.flushMerges g).MemWf :=
  State.MemWf.foldl _ _ (fun _ m hu => State.applyLine_memWf (m.addr / 64) hu) h

/-! What a request does at its home port keeps the form. -/

theorem State.l1Fill_memWf {s : State} (c l rid : Nat) (h : s.MemWf) : (s.l1Fill c l rid).MemWf := by
  unfold State.l1Fill State.l1Room
  dsimp only
  repeat' split
  all_goals first | exact h | exact h.of_eq rfl rfl rfl

theorem State.loadFill_memWf {s : State} (rid : Nat) (r : Req) (h : s.MemWf) : (s.loadFill rid r).MemWf := by
  unfold State.loadFill
  dsimp only
  repeat' split
  all_goals first | exact h | exact State.l1Fill_memWf _ _ _ h

theorem State.readAt_memWf {s : State} (rid : Nat) (r : Req) (t : Bool) (h : s.MemWf) : (s.readAt rid r t).MemWf :=
  (State.noteRead_memWf r (s.devPoisonOf r) h).of_eq rfl rfl rfl

theorem State.mergeIn_memWf {s : State} (r : Req) (k sub : Nat) (y : Word64) (h : s.MemWf) : (s.mergeIn r k sub y).MemWf := by
  unfold State.mergeIn
  dsimp only
  have h' := State.applyLine_memWf (r.addr / 64) h
  repeat' split
  all_goals first | exact h.of_eq rfl rfl rfl | exact h'.of_eq rfl rfl rfl

theorem State.atomicAt_memWf {s : State} (rid : Nat) (r : Req) (k sub : Nat) (y n : Word64) (h : s.MemWf) :
    (s.atomicAt rid r k sub y n).MemWf := by
  unfold State.atomicAt
  split
  · exact (State.noteRead_memWf r _ h).of_eq rfl rfl rfl
  · dsimp only
    split
    · exact h.of_eq rfl rfl rfl
    · exact (State.homeWrite_memWf _ _ _ _ _ _ _ _ h).of_eq rfl rfl rfl

theorem State.performMem_memWf {s : State} (rid : Nat) (r : Req) (h : s.MemWf) : (s.performMem rid r).MemWf := by
  have h1 := State.mcRead_memWf (r.addr / 64) (State.applyLine_memWf (r.addr / 64) h)
  unfold State.performMem
  dsimp only
  split
  · exact State.readAt_memWf _ _ _ (State.loadFill_memWf _ _ h1)
  · exact State.readAt_memWf _ _ _ (State.loadFill_memWf _ _ h1)
  · exact State.readAt_memWf _ _ _ h1
  · exact State.readAt_memWf _ _ _ h1
  · exact (State.homeWrite_memWf _ _ _ _ _ _ _ _ h1).of_eq rfl rfl rfl
  · exact (State.homeWrite_memWf _ _ _ _ _ _ _ _ h1).of_eq rfl rfl rfl
  · split
    · exact (State.mergeIn_memWf _ _ _ _ h).of_eq rfl rfl rfl
    · exact State.atomicAt_memWf _ _ _ _ _ _ h1
  · exact State.answerWait_memWf _ _ (h1.of_eq rfl rfl rfl)

theorem State.dropDone_memWf {s : State} (rid : Nat) (h : s.MemWf) : (s.dropDone rid).MemWf := by
  unfold State.dropDone
  split
  · split
    · exact h.of_eq rfl rfl rfl
    · exact h
  · exact h

/-- An access's turn at a line keeps the form. -/
theorem State.portTurn_memWf {s : State} (line : Nat) (h : s.MemWf) : (s.portTurn line).MemWf := by
  refine State.applyLine_memWf line (State.MemWf.foldl _ _ (fun u x hu => ?_) h)
  split
  · split
    · exact State.dropDone_memWf _ (State.performMem_memWf _ _ hu)
    · exact hu
  · exact hu

theorem State.schedWrite_memWf {s : State} (a : Nat) (bs : List Byte) (h : s.MemWf) : (s.schedWrite a bs).MemWf :=
  State.plainWrite_memWf a bs (State.MemWf.foldl _ _ (fun _ l hu => State.portTurn_memWf l hu) h)

theorem State.moveLine_memWf {s : State} (m : Migration) (line : Nat) (h : s.MemWf) : (s.moveLine m line).MemWf := by
  unfold State.moveLine
  generalize m.newFrame / 64 + (line - m.oldFrame / 64) = new
  have h1 := State.mcRefetch_memWf (64 * new) 64 (State.memPut_memWf (64 * new) (s.memRead (64 * line) 64) h)
  dsimp only
  exact ⟨h1.mem, Marks.wf_foldl (List.range 4) (4 * new + ·) (fun i => sparseGet false _ (4 * line + i)) h1.tags,
    sparseWf_sparseSet _ _ h1.poison⟩

theorem State.restoreDev_memWf {s : State} (e : MouldEntry) (h : s.MemWf) : (s.restoreDev e).MemWf := by
  have h' := State.schedWrite_memWf (64 * e.line) e.data h
  unfold State.restoreDev
  dsimp only
  exact ⟨h'.mem, Marks.wf_foldl (List.range 4) (4 * e.line + ·) (fun i => e.tags[i]?.getD false) h'.tags,
    sparseWf_sparseSet _ _ h'.poison⟩

/-! ## Local memory and the scratchpad -/

/-- The cells of a core's or a quad's memory that a write changes keep the form; logging changes no cell. -/
theorem Core.written_memWf {c : Core} (a : Nat) (bs : List Byte) (mask : List Bool) (whole : Bool) (h : c.MemWf) :
    ({ c with
        lm := sparseWriteMasked c.lm a bs mask
        lmPoison := if whole && mask.all id then cleanWhole c.lmPoison a bs.length else c.lmPoison } : Core).MemWf := by
  refine ⟨sparseWf_sparseWriteMasked bs mask a h.lm, ?_, h.imem, h.imemPoison⟩
  show Marks.wf (if _ then _ else _) = true
  split
  · exact cleanWhole_wf _ _ _ h.poison
  · exact h.poison

theorem Quad.written_memWf {q : Quad} (a : Nat) (bs : List Byte) (mask : List Bool) (whole : Bool) (h : q.MemWf) :
    ({ q with
        qs := sparseWriteMasked q.qs a bs mask
        qsPoison := if whole && mask.all id then cleanWhole q.qsPoison a bs.length else q.qsPoison } : Quad).MemWf := by
  refine ⟨sparseWf_sparseWriteMasked bs mask a h.qs, ?_⟩
  show Marks.wf (if _ then _ else _) = true
  split
  · exact cleanWhole_wf _ _ _ h.poison
  · exact h.poison

theorem State.badMould_core {s : State} (g q k : Nat) : (s.badMould g q).core k = s.core k := by
  unfold State.badMould
  dsimp only
  split <;> rfl

theorem State.badMould_quad {s : State} (g q k : Nat) : (s.badMould g q).quad k = s.quad k := by
  unfold State.badMould
  dsimp only
  split <;> rfl

theorem State.lmLog_coreWf {s : State} (g c l k : Nat) (h : (s.core k).MemWf) : ((s.lmLog g c l).core k).MemWf := by
  unfold State.lmLog
  dsimp only
  split
  · exact h
  split
  · rw [State.badMould_core]; exact h
  · by_cases hk : c = k
    · subst hk
      rw [State.core_setCore_same]
      exact ⟨h.lm, h.poison, h.imem, h.imemPoison⟩
    · rw [State.core_setCore_other _ _ _ (Ne.symm hk)]
      exact h

theorem State.halfLog_coreWf {s : State} (g c l k : Nat) (h : (s.core k).MemWf) : ((s.halfLog g c l).core k).MemWf := by
  unfold State.halfLog
  dsimp only
  split
  · exact h
  · by_cases hk : c = k
    · subst hk
      rw [State.core_setCore_same]
      exact ⟨h.lm, h.poison, h.imem, h.imemPoison⟩
    · rw [State.core_setCore_other _ _ _ (Ne.symm hk)]
      exact h

theorem State.qsLog_quadWf {s : State} (g q l k : Nat) (h : (s.quad k).MemWf) : ((s.qsLog g q l).quad k).MemWf := by
  unfold State.qsLog
  dsimp only
  split
  · exact h
  split
  · rw [State.badMould_quad]; exact h
  · by_cases hk : q = k
    · subst hk
      rw [State.quad_setQuad_same]
      exact ⟨h.qs, h.poison⟩
    · rw [State.quad_setQuad_other _ _ _ (Ne.symm hk)]
      exact h

theorem State.lmWrite_coreWf {s : State} (g c a : Nat) (bs : List Byte) (mask : List Bool) (whole : Bool) (k : Nat)
    (h : ∀ k, (s.core k).MemWf) : ((s.lmWrite g c a bs mask whole).core k).MemWf := by
  have h' : ∀ (ls : List Nat) (u : State), (∀ k, (u.core k).MemWf) →
      ∀ k, ((ls.foldl (fun (u : State) l => if l * 64 < 0x60000 then u.lmLog g c l else u.halfLog g c l) u).core k).MemWf := by
    intro ls
    induction ls with
    | nil => exact fun _ hu => hu
    | cons l ls ih =>
      intro u hu
      refine ih _ (fun k => ?_)
      by_cases hl : l * 64 < 0x60000
      · simp only [hl, if_true]; exact State.lmLog_coreWf g c l k (hu k)
      · simp only [hl, if_false]; exact State.halfLog_coreWf g c l k (hu k)
  unfold State.lmWrite
  dsimp only
  by_cases hk : c = k
  · subst hk
    rw [State.core_setCore_same]
    exact Core.written_memWf a bs mask whole (h' _ s h c)
  · rw [State.core_setCore_other _ _ _ (Ne.symm hk)]
    exact h' _ s h k

theorem State.qsWrite_quadWf {s : State} (g q a : Nat) (bs : List Byte) (mask : List Bool) (whole : Bool) (k : Nat)
    (h : ∀ k, (s.quad k).MemWf) : ((s.qsWrite g q a bs mask whole).quad k).MemWf := by
  have h' : ∀ (ls : List Nat) (u : State), (∀ k, (u.quad k).MemWf) →
      ∀ k, ((ls.foldl (fun (u : State) l => u.qsLog g q l) u).quad k).MemWf := by
    intro ls
    induction ls with
    | nil => exact fun _ hu => hu
    | cons l ls ih => exact fun u hu => ih _ (fun k => State.qsLog_quadWf g q l k (hu k))
  unfold State.qsWrite
  dsimp only
  by_cases hk : q = k
  · subst hk
    rw [State.quad_setQuad_same]
    exact Quad.written_memWf a bs mask whole (h' _ s h q)
  · rw [State.quad_setQuad_other _ _ _ (Ne.symm hk)]
    exact h' _ s h k

/-- Clearing a range. -/
theorem Core.prepare_memWf {c : Core} (base len : Nat) (tiles : List Nat) (h : c.MemWf) : (c.prepare base len tiles).MemWf :=
  ⟨sparseWf_filter _ h.lm, sparseWf_filter _ h.poison, h.imem, h.imemPoison⟩

theorem Quad.prepare_memWf {q : Quad} (base len : Nat) (ns : List Nat) (h : q.MemWf) : (q.prepare base len ns).MemWf :=
  ⟨sparseWf_filter _ h.qs, sparseWf_filter _ h.poison⟩

/-- Putting logged lines back. -/
theorem putLines_wf (l : List MouldEntry) {m : Sparse Byte} {b : Sparse Bool} (hm : Memory.wf m = true) (hb : Marks.wf b = true) :
    Memory.wf (l.foldl (fun x e => putLine x.1 x.2 e) (m, b)).1 = true ∧
    Marks.wf (l.foldl (fun x e => putLine x.1 x.2 e) (m, b)).2 = true := by
  induction l generalizing m b with
  | nil => exact ⟨hm, hb⟩
  | cons e l ih => exact ih (sparseWf_sparseWrite _ _ hm) (sparseWf_sparseSet _ _ hb)

theorem Core.restoreLines_memWf {c : Core} (g : Nat) (h : c.MemWf) : (c.restoreLines g).MemWf :=
  ⟨(putLines_wf _ h.lm h.poison).1, (putLines_wf _ h.lm h.poison).2, h.imem, h.imemPoison⟩

theorem Quad.restoreLines_memWf {q : Quad} (g : Nat) (h : q.MemWf) : (q.restoreLines g).MemWf :=
  ⟨(putLines_wf _ h.qs h.poison).1, (putLines_wf _ h.qs h.poison).2⟩

theorem State.markBad_coreWf {s : State} (c a : Nat) (ls : List Nat) (h : (s.core c).MemWf) :
    ((s.markBad c a ls).core c).MemWf := by
  unfold State.markBad
  dsimp only
  rw [State.core_setCore_same]
  exact ⟨h.lm, sparseWf_foldl ls _ (fun _ _ hm => sparseWf_sparseSet _ _ hm) h.poison, h.imem, h.imemPoison⟩

end Sys2Proof.Machine
end

