-- ==== Sys2Proof/Laws/PerInstr.lean ====
section
/-! SUPPORT. Laws made per instruction: the family RoundTrip, reading back the fields of each instruction (R91, R93, R109). -/
namespace Sys2Proof.Laws.RoundTrip

/-- The fields that an instruction is written from give that instruction back. -/
def Statement (i : Instr) : Prop := ∀ f, toFields i = some f → ofFields f = some i

theorem add (d a b : BitVec 6) (cl : Clauses) : Statement (.add d a b cl) := by
  rintro _ ⟨rfl⟩; simp [ofFields, ops0, Fields.base]
theorem sub (d a b : BitVec 6) (cl : Clauses) : Statement (.sub d a b cl) := by
  rintro _ ⟨rfl⟩; simp [ofFields, ops0, Fields.base]
theorem addi (d a : BitVec 6) (imm : BitVec 16) (cl : Clauses) : Statement (.addi d a imm cl) := by
  rintro _ ⟨rfl⟩; simp [ofFields, ops0, Fields.base]
theorem mul (d a b : BitVec 6) (cl : Clauses) : Statement (.mul d a b cl) := by
  rintro _ ⟨rfl⟩; simp [ofFields, ops0, Fields.base]
theorem mulh (d a b : BitVec 6) (cl : Clauses) : Statement (.mulh d a b cl) := by
  rintro _ ⟨rfl⟩; simp [ofFields, ops0, Fields.base]
theorem mulhu (d a b : BitVec 6) (cl : Clauses) : Statement (.mulhu d a b cl) := by
  rintro _ ⟨rfl⟩; simp [ofFields, ops0, Fields.base]
theorem div (d a b : BitVec 6) (cl : Clauses) : Statement (.div d a b cl) := by
  rintro _ ⟨rfl⟩; simp [ofFields, ops0, Fields.base]
theorem divu (d a b : BitVec 6) (cl : Clauses) : Statement (.divu d a b cl) := by
  rintro _ ⟨rfl⟩; simp [ofFields, ops0, Fields.base]
theorem rem (d a b : BitVec 6) (cl : Clauses) : Statement (.rem d a b cl) := by
  rintro _ ⟨rfl⟩; simp [ofFields, ops0, Fields.base]
theorem remu (d a b : BitVec 6) (cl : Clauses) : Statement (.remu d a b cl) := by
  rintro _ ⟨rfl⟩; simp [ofFields, ops0, Fields.base]
theorem and (d a b : BitVec 6) (cl : Clauses) : Statement (.and d a b cl) := by
  rintro _ ⟨rfl⟩; simp [ofFields, ops0, Fields.base]
theorem or (d a b : BitVec 6) (cl : Clauses) : Statement (.or d a b cl) := by
  rintro _ ⟨rfl⟩; simp [ofFields, ops0, Fields.base]
theorem xor (d a b : BitVec 6) (cl : Clauses) : Statement (.xor d a b cl) := by
  rintro _ ⟨rfl⟩; simp [ofFields, ops0, Fields.base]
theorem andi (d a : BitVec 6) (imm : BitVec 16) (cl : Clauses) : Statement (.andi d a imm cl) := by
  rintro _ ⟨rfl⟩; simp [ofFields, ops0, Fields.base]
theorem ori (d a : BitVec 6) (imm : BitVec 16) (cl : Clauses) : Statement (.ori d a imm cl) := by
  rintro _ ⟨rfl⟩; simp [ofFields, ops0, Fields.base]
theorem xori (d a : BitVec 6) (imm : BitVec 16) (cl : Clauses) : Statement (.xori d a imm cl) := by
  rintro _ ⟨rfl⟩; simp [ofFields, ops0, Fields.base]
theorem sll (d a b : BitVec 6) (cl : Clauses) : Statement (.sll d a b cl) := by
  rintro _ ⟨rfl⟩; simp [ofFields, ops1, Fields.base]
theorem srl (d a b : BitVec 6) (cl : Clauses) : Statement (.srl d a b cl) := by
  rintro _ ⟨rfl⟩; simp [ofFields, ops1, Fields.base]
theorem sra (d a b : BitVec 6) (cl : Clauses) : Statement (.sra d a b cl) := by
  rintro _ ⟨rfl⟩; simp [ofFields, ops1, Fields.base]
theorem slli (d a : BitVec 6) (imm : BitVec 16) (cl : Clauses) : Statement (.slli d a imm cl) := by
  rintro _ ⟨rfl⟩; simp [ofFields, ops1, Fields.base]
theorem srli (d a : BitVec 6) (imm : BitVec 16) (cl : Clauses) : Statement (.srli d a imm cl) := by
  rintro _ ⟨rfl⟩; simp [ofFields, ops1, Fields.base]
theorem srai (d a : BitVec 6) (imm : BitVec 16) (cl : Clauses) : Statement (.srai d a imm cl) := by
  rintro _ ⟨rfl⟩; simp [ofFields, ops1, Fields.base]
theorem min (d a b : BitVec 6) (cl : Clauses) : Statement (.min d a b cl) := by
  rintro _ ⟨rfl⟩; simp [ofFields, ops1, Fields.base]
theorem max (d a b : BitVec 6) (cl : Clauses) : Statement (.max d a b cl) := by
  rintro _ ⟨rfl⟩; simp [ofFields, ops1, Fields.base]
theorem minu (d a b : BitVec 6) (cl : Clauses) : Statement (.minu d a b cl) := by
  rintro _ ⟨rfl⟩; simp [ofFields, ops1, Fields.base]
theorem maxu (d a b : BitVec 6) (cl : Clauses) : Statement (.maxu d a b cl) := by
  rintro _ ⟨rfl⟩; simp [ofFields, ops1, Fields.base]
theorem clz (d a : BitVec 6) (cl : Clauses) : Statement (.clz d a cl) := by
  rintro _ ⟨rfl⟩; simp [ofFields, ops1, Fields.base]
theorem popc (d a : BitVec 6) (cl : Clauses) : Statement (.popc d a cl) := by
  rintro _ ⟨rfl⟩; simp [ofFields, ops1, Fields.base]
theorem bfx (mod : BitVec 4) (d a : BitVec 6) (imm : BitVec 16) (cl : Clauses) : Statement (.bfx mod d a imm cl) := by
  rintro _ ⟨rfl⟩; simp [ofFields, ops1, Fields.base]
theorem bfi (d a b : BitVec 6) (imm : BitVec 16) (cl : Clauses) : Statement (.bfi d a b imm cl) := by
  rintro _ ⟨rfl⟩; simp [ofFields, ops1, Fields.base]
theorem li (d : BitVec 6) (imm32 : BitVec 32) (cl : Clauses) : Statement (.li d imm32 cl) := by
  rintro _ ⟨rfl⟩; simp [ofFields, ops1, Fields.setImm32, Fields.base, imm32_parts]
theorem lih (d a : BitVec 6) (imm32 : BitVec 32) (cl : Clauses) : Statement (.lih d a imm32 cl) := by
  rintro _ ⟨rfl⟩; simp [ofFields, ops1, Fields.setImm32, Fields.base, imm32_parts]
theorem cmp (mod : BitVec 4) (d a b : BitVec 6) (cl : Clauses) : Statement (.cmp mod d a b cl) := by
  rintro _ ⟨rfl⟩; simp [ofFields, ops2, Fields.base]
theorem cmpi (mod : BitVec 4) (d a : BitVec 6) (imm : BitVec 16) (cl : Clauses) : Statement (.cmpi mod d a imm cl) := by
  rintro _ ⟨rfl⟩; simp [ofFields, ops2, Fields.base]
theorem plog (mod : BitVec 4) (d a b : BitVec 6) (cl : Clauses) : Statement (.plog mod d a b cl) := by
  rintro _ ⟨rfl⟩; simp [ofFields, ops2, Fields.base]
theorem pmov (mod : BitVec 4) (d a : BitVec 6) (cl : Clauses) : Statement (.pmov mod d a cl) := by
  rintro _ ⟨rfl⟩; simp [ofFields, ops2, Fields.base]
theorem sel (d a b c : BitVec 6) (cl : Clauses) : Statement (.sel d a b c cl) := by
  rintro _ ⟨rfl⟩; simp [ofFields, ops2, Fields.base]
theorem tgt (d : BitVec 6) (imm26 : BitVec 26) (cl : Clauses) : Statement (.tgt d imm26 cl) := by
  rintro _ ⟨rfl⟩; simp [ofFields, ops2, Fields.setImm26, Fields.base, imm26_parts]
theorem tgtr (d a : BitVec 6) (cl : Clauses) : Statement (.tgtr d a cl) := by
  rintro _ ⟨rfl⟩; simp [ofFields, ops2, Fields.base]
theorem movb (mod : BitVec 4) (d a : BitVec 6) (cl : Clauses) : Statement (.movb mod d a cl) := by
  rintro _ ⟨rfl⟩; simp [ofFields, ops2, Fields.base]
theorem lcset (a : BitVec 6) (imm26 : BitVec 26) (cl : Clauses) : Statement (.lcset a imm26 cl) := by
  rintro _ ⟨rfl⟩; simp [ofFields, ops2, Fields.setImm26, Fields.base, imm26_parts]
theorem lkmov (mod : BitVec 4) (d a : BitVec 6) (cl : Clauses) : Statement (.lkmov mod d a cl) := by
  rintro _ ⟨rfl⟩; simp [ofFields, ops2, Fields.base]
theorem nop (cl : Clauses) : Statement (.nop cl) := by
  rintro _ ⟨rfl⟩; simp [ofFields, ops2, Fields.base]
theorem srd (d : BitVec 6) (imm : BitVec 16) (cl : Clauses) : Statement (.srd d imm cl) := by
  rintro _ ⟨rfl⟩; simp [ofFields, ops2, Fields.base]
theorem swr (a : BitVec 6) (imm : BitVec 16) (cl : Clauses) : Statement (.swr a imm cl) := by
  rintro _ ⟨rfl⟩; simp [ofFields, ops2, Fields.base]
theorem trap (imm : BitVec 16) (cl : Clauses) : Statement (.trap imm cl) := by
  rintro _ ⟨rfl⟩; simp [ofFields, ops2, Fields.base]
theorem tret (cl : Clauses) : Statement (.tret cl) := by
  rintro _ ⟨rfl⟩; simp [ofFields, ops2, Fields.base]
theorem exit (cl : Clauses) : Statement (.exit cl) := by
  rintro _ ⟨rfl⟩; simp [ofFields, ops2, Fields.base]
theorem yield (cl : Clauses) : Statement (.yield cl) := by
  rintro _ ⟨rfl⟩; simp [ofFields, ops3, Fields.base]
theorem time (mod : BitVec 4) (d : BitVec 6) (cl : Clauses) : Statement (.time mod d cl) := by
  rintro _ ⟨rfl⟩; simp [ofFields, ops3, Fields.base]
theorem ident (mod : BitVec 4) (d : BitVec 6) (cl : Clauses) : Statement (.ident mod d cl) := by
  rintro _ ⟨rfl⟩; simp [ofFields, ops3, Fields.base]
theorem wfi (cl : Clauses) : Statement (.wfi cl) := by
  rintro _ ⟨rfl⟩; simp [ofFields, ops3, Fields.base]
theorem iflush (cl : Clauses) : Statement (.iflush cl) := by
  rintro _ ⟨rfl⟩; simp [ofFields, ops3, Fields.base]
theorem brk (imm : BitVec 16) (cl : Clauses) : Statement (.brk imm cl) := by
  rintro _ ⟨rfl⟩; simp [ofFields, ops3, Fields.base]
theorem srset (a : BitVec 6) (imm : BitVec 16) (cl : Clauses) : Statement (.srset a imm cl) := by
  rintro _ ⟨rfl⟩; simp [ofFields, ops3, Fields.base]
theorem srclr (a : BitVec 6) (imm : BitVec 16) (cl : Clauses) : Statement (.srclr a imm cl) := by
  rintro _ ⟨rfl⟩; simp [ofFields, ops3, Fields.base]
theorem deadmk (mod : BitVec 4) (a : BitVec 6) (cl : Clauses) : Statement (.deadmk mod a cl) := by
  rintro _ ⟨rfl⟩; simp [ofFields, ops3, Fields.base]
theorem liveq (mod : BitVec 4) (d : BitVec 6) (cl : Clauses) : Statement (.liveq mod d cl) := by
  rintro _ ⟨rfl⟩; simp [ofFields, ops3, Fields.base]
theorem chk (d a b : BitVec 6) (imm : BitVec 16) (cl : Clauses) : Statement (.chk d a b imm cl) := by
  rintro _ ⟨rfl⟩; simp [ofFields, ops3, Fields.base]
theorem crc32c (mod : BitVec 4) (d a b : BitVec 6) (cl : Clauses) : Statement (.crc32c mod d a b cl) := by
  rintro _ ⟨rfl⟩; simp [ofFields, ops3, Fields.base]
theorem mchk (mod : BitVec 4) (d : BitVec 6) (cl : Clauses) : Statement (.mchk mod d cl) := by
  rintro _ ⟨rfl⟩; simp [ofFields, ops3, Fields.base]
theorem xalm (mod : BitVec 4) (imm : BitVec 16) (cl : Clauses) : Statement (.xalm mod imm cl) := by
  rintro _ ⟨rfl⟩; simp [ofFields, ops3, Fields.base]
theorem spdrd (mod : BitVec 4) (d a : BitVec 6) (imm : BitVec 16) (cl : Clauses) : Statement (.spdrd mod d a imm cl) := by
  rintro _ ⟨rfl⟩; simp [ofFields, ops3, Fields.base]
theorem rand (mod : BitVec 4) (d a : BitVec 6) (cl : Clauses) : Statement (.rand mod d a cl) := by
  rintro _ ⟨rfl⟩; simp [ofFields, ops3, Fields.base]
theorem ldl (mod : BitVec 4) (d a : BitVec 6) (imm : BitVec 16) (cl : Clauses) : Statement (.ldl mod d a imm cl) := by
  rintro _ ⟨rfl⟩; simp [ofFields, ops4, Fields.base]
theorem stl (mod : BitVec 4) (a c : BitVec 6) (imm : BitVec 16) (cl : Clauses) : Statement (.stl mod a c imm cl) := by
  rintro _ ⟨rfl⟩; simp [ofFields, ops4, Fields.base]
theorem ldq (mod : BitVec 4) (d a : BitVec 6) (imm : BitVec 16) (cl : Clauses) : Statement (.ldq mod d a imm cl) := by
  rintro _ ⟨rfl⟩; simp [ofFields, ops4, Fields.base]
theorem stq (mod : BitVec 4) (a c : BitVec 6) (imm : BitVec 16) (cl : Clauses) : Statement (.stq mod a c imm cl) := by
  rintro _ ⟨rfl⟩; simp [ofFields, ops4, Fields.base]
theorem ld (mod : BitVec 4) (d a b : BitVec 6) (imm : BitVec 16) (cl : Clauses) : Statement (.ld mod d a b imm cl) := by
  rintro _ ⟨rfl⟩; simp [ofFields, ops4, Fields.base]
theorem st (mod : BitVec 4) (a b c : BitVec 6) (imm : BitVec 16) (cl : Clauses) : Statement (.st mod a b c imm cl) := by
  rintro _ ⟨rfl⟩; simp [ofFields, ops4, Fields.base]
theorem vldl (d a c : BitVec 6) (imm : BitVec 16) (cl : Clauses) : Statement (.vldl d a c imm cl) := by
  rintro _ ⟨rfl⟩; simp [ofFields, ops4, Fields.base]
theorem vstl (mod : BitVec 4) (a c : BitVec 6) (imm : BitVec 16) (cl : Clauses) : Statement (.vstl mod a c imm cl) := by
  rintro _ ⟨rfl⟩; simp [ofFields, ops4, Fields.base]
theorem vldq (d a c : BitVec 6) (imm : BitVec 16) (cl : Clauses) : Statement (.vldq d a c imm cl) := by
  rintro _ ⟨rfl⟩; simp [ofFields, ops4, Fields.base]
theorem vstq (mod : BitVec 4) (a c : BitVec 6) (imm : BitVec 16) (cl : Clauses) : Statement (.vstq mod a c imm cl) := by
  rintro _ ⟨rfl⟩; simp [ofFields, ops4, Fields.base]
theorem vld (d a b c : BitVec 6) (imm : BitVec 16) (cl : Clauses) : Statement (.vld d a b c imm cl) := by
  rintro _ ⟨rfl⟩; simp [ofFields, ops4, Fields.base]
theorem vst (mod : BitVec 4) (a b c : BitVec 6) (imm : BitVec 16) (cl : Clauses) : Statement (.vst mod a b c imm cl) := by
  rintro _ ⟨rfl⟩; simp [ofFields, ops4, Fields.base]
theorem vgathl (mod : BitVec 4) (d a b : BitVec 6) (imm : BitVec 16) (cl : Clauses) : Statement (.vgathl mod d a b imm cl) := by
  rintro _ ⟨rfl⟩; simp [ofFields, ops4, Fields.base]
theorem vscatl (mod : BitVec 4) (a b c : BitVec 6) (cl : Clauses) : Statement (.vscatl mod a b c cl) := by
  rintro _ ⟨rfl⟩; simp [ofFields, ops4, Fields.base]
theorem aadd (mod : BitVec 4) (d a b c : BitVec 6) (imm : BitVec 16) (cl : Clauses) : Statement (.aadd mod d a b c imm cl) := by
  rintro _ ⟨rfl⟩; simp [ofFields, ops4, Fields.base]
theorem alog (mod : BitVec 4) (d a b c : BitVec 6) (imm : BitVec 16) (cl : Clauses) : Statement (.alog mod d a b c imm cl) := by
  rintro _ ⟨rfl⟩; simp [ofFields, ops4, Fields.base]
theorem amnx (mod : BitVec 4) (d a b c : BitVec 6) (imm : BitVec 16) (cl : Clauses) : Statement (.amnx mod d a b c imm cl) := by
  rintro _ ⟨rfl⟩; simp [ofFields, ops5, Fields.base]
theorem aswp (mod : BitVec 4) (d a b c : BitVec 6) (imm : BitVec 16) (cl : Clauses) : Statement (.aswp mod d a b c imm cl) := by
  rintro _ ⟨rfl⟩; simp [ofFields, ops5, Fields.base]
theorem acas (mod : BitVec 4) (d a b c : BitVec 6) (imm : BitVec 16) (cl : Clauses) : Statement (.acas mod d a b c imm cl) := by
  rintro _ ⟨rfl⟩; simp [ofFields, ops5, Fields.base]
theorem afadd (mod : BitVec 4) (d a b c : BitVec 6) (imm : BitVec 16) (cl : Clauses) : Statement (.afadd mod d a b c imm cl) := by
  rintro _ ⟨rfl⟩; simp [ofFields, ops5, Fields.base]
theorem waitmem (mod : BitVec 4) (d a b c : BitVec 6) (imm : BitVec 16) (cl : Clauses) : Statement (.waitmem mod d a b c imm cl) := by
  rintro _ ⟨rfl⟩; simp [ofFields, ops5, Fields.base]
theorem fence (imm : BitVec 16) (cl : Clauses) : Statement (.fence imm cl) := by
  rintro _ ⟨rfl⟩; simp [ofFields, ops5, Fields.base]
theorem cld (d a b : BitVec 6) (imm : BitVec 16) (cl : Clauses) : Statement (.cld d a b imm cl) := by
  rintro _ ⟨rfl⟩; simp [ofFields, ops5, Fields.base]
theorem cst (a b c : BitVec 6) (imm : BitVec 16) (cl : Clauses) : Statement (.cst a b c imm cl) := by
  rintro _ ⟨rfl⟩; simp [ofFields, ops5, Fields.base]
theorem cnarrow (d a b c : BitVec 6) (imm : BitVec 16) (cl : Clauses) : Statement (.cnarrow d a b c imm cl) := by
  rintro _ ⟨rfl⟩; simp [ofFields, ops5, Fields.base]
theorem cget (mod : BitVec 4) (d a : BitVec 6) (cl : Clauses) : Statement (.cget mod d a cl) := by
  rintro _ ⟨rfl⟩; simp [ofFields, ops5, Fields.base]
theorem csetc (d a b : BitVec 6) (cl : Clauses) : Statement (.csetc d a b cl) := by
  rintro _ ⟨rfl⟩; simp [ofFields, ops5, Fields.base]
theorem pfetch (mod : BitVec 4) (a b : BitVec 6) (cl : Clauses) : Statement (.pfetch mod a b cl) := by
  rintro _ ⟨rfl⟩; simp [ofFields, ops5, Fields.base]
theorem cinv (mod : BitVec 4) (a b : BitVec 6) (cl : Clauses) : Statement (.cinv mod a b cl) := by
  rintro _ ⟨rfl⟩; simp [ofFields, ops5, Fields.base]
theorem signal (a b c : BitVec 6) (imm : BitVec 16) (cl : Clauses) : Statement (.signal a b c imm cl) := by
  rintro _ ⟨rfl⟩; simp [ofFields, ops5, Fields.base]
theorem zerol (a b : BitVec 6) (cl : Clauses) : Statement (.zerol a b cl) := by
  rintro _ ⟨rfl⟩; simp [ofFields, ops5, Fields.base]
theorem movk (mod : BitVec 4) (d a : BitVec 6) (cl : Clauses) : Statement (.movk mod d a cl) := by
  rintro _ ⟨rfl⟩; simp [ofFields, ops5, Fields.base]
theorem vadd (mod : BitVec 4) (d a b : BitVec 6) (imm : BitVec 16) (cl : Clauses) : Statement (.vadd mod d a b imm cl) := by
  rintro _ ⟨rfl⟩; simp [ofFields, ops6, Fields.base]
theorem vsub (mod : BitVec 4) (d a b : BitVec 6) (imm : BitVec 16) (cl : Clauses) : Statement (.vsub mod d a b imm cl) := by
  rintro _ ⟨rfl⟩; simp [ofFields, ops6, Fields.base]
theorem vmul (mod : BitVec 4) (d a b : BitVec 6) (imm : BitVec 16) (cl : Clauses) : Statement (.vmul mod d a b imm cl) := by
  rintro _ ⟨rfl⟩; simp [ofFields, ops6, Fields.base]
theorem vfma (mod : BitVec 4) (d a b c : BitVec 6) (imm : BitVec 16) (cl : Clauses) : Statement (.vfma mod d a b c imm cl) := by
  rintro _ ⟨rfl⟩; simp [ofFields, ops6, Fields.base]
theorem vfms (mod : BitVec 4) (d a b c : BitVec 6) (imm : BitVec 16) (cl : Clauses) : Statement (.vfms mod d a b c imm cl) := by
  rintro _ ⟨rfl⟩; simp [ofFields, ops6, Fields.base]
theorem vmin (mod : BitVec 4) (d a b : BitVec 6) (cl : Clauses) : Statement (.vmin mod d a b cl) := by
  rintro _ ⟨rfl⟩; simp [ofFields, ops6, Fields.base]
theorem vmax (mod : BitVec 4) (d a b : BitVec 6) (cl : Clauses) : Statement (.vmax mod d a b cl) := by
  rintro _ ⟨rfl⟩; simp [ofFields, ops6, Fields.base]
theorem vabs (mod : BitVec 4) (d a : BitVec 6) (imm : BitVec 16) (cl : Clauses) : Statement (.vabs mod d a imm cl) := by
  rintro _ ⟨rfl⟩; simp [ofFields, ops6, Fields.base]
theorem vneg (mod : BitVec 4) (d a : BitVec 6) (imm : BitVec 16) (cl : Clauses) : Statement (.vneg mod d a imm cl) := by
  rintro _ ⟨rfl⟩; simp [ofFields, ops6, Fields.base]
theorem vrcp (mod : BitVec 4) (d a : BitVec 6) (cl : Clauses) : Statement (.vrcp mod d a cl) := by
  rintro _ ⟨rfl⟩; simp [ofFields, ops6, Fields.base]
theorem vrsq (mod : BitVec 4) (d a : BitVec 6) (cl : Clauses) : Statement (.vrsq mod d a cl) := by
  rintro _ ⟨rfl⟩; simp [ofFields, ops6, Fields.base]
theorem vexp2 (mod : BitVec 4) (d a : BitVec 6) (cl : Clauses) : Statement (.vexp2 mod d a cl) := by
  rintro _ ⟨rfl⟩; simp [ofFields, ops6, Fields.base]
theorem vlog2 (mod : BitVec 4) (d a : BitVec 6) (cl : Clauses) : Statement (.vlog2 mod d a cl) := by
  rintro _ ⟨rfl⟩; simp [ofFields, ops6, Fields.base]
theorem vand (mod : BitVec 4) (d a b : BitVec 6) (cl : Clauses) : Statement (.vand mod d a b cl) := by
  rintro _ ⟨rfl⟩; simp [ofFields, ops6, Fields.base]
theorem vor (mod : BitVec 4) (d a b : BitVec 6) (cl : Clauses) : Statement (.vor mod d a b cl) := by
  rintro _ ⟨rfl⟩; simp [ofFields, ops6, Fields.base]
theorem vxor (mod : BitVec 4) (d a b : BitVec 6) (cl : Clauses) : Statement (.vxor mod d a b cl) := by
  rintro _ ⟨rfl⟩; simp [ofFields, ops6, Fields.base]
theorem vshl (mod : BitVec 4) (d a b : BitVec 6) (imm : BitVec 16) (cl : Clauses) : Statement (.vshl mod d a b imm cl) := by
  rintro _ ⟨rfl⟩; simp [ofFields, ops7, Fields.base]
theorem vshr (mod : BitVec 4) (d a b : BitVec 6) (imm : BitVec 16) (cl : Clauses) : Statement (.vshr mod d a b imm cl) := by
  rintro _ ⟨rfl⟩; simp [ofFields, ops7, Fields.base]
theorem vcmp (mod : BitVec 4) (d a b c : BitVec 6) (cl : Clauses) : Statement (.vcmp mod d a b c cl) := by
  rintro _ ⟨rfl⟩; simp [ofFields, ops7, Fields.base]
theorem vsel (d a b c : BitVec 6) (cl : Clauses) : Statement (.vsel d a b c cl) := by
  rintro _ ⟨rfl⟩; simp [ofFields, ops7, Fields.base]
theorem vbcast (mod : BitVec 4) (d a : BitVec 6) (imm : BitVec 16) (cl : Clauses) : Statement (.vbcast mod d a imm cl) := by
  rintro _ ⟨rfl⟩; simp [ofFields, ops7, Fields.base]
theorem vextr (mod : BitVec 4) (d a b : BitVec 6) (imm : BitVec 16) (cl : Clauses) : Statement (.vextr mod d a b imm cl) := by
  rintro _ ⟨rfl⟩; simp [ofFields, ops7, Fields.base]
theorem vins (mod : BitVec 4) (d a b : BitVec 6) (imm : BitVec 16) (cl : Clauses) : Statement (.vins mod d a b imm cl) := by
  rintro _ ⟨rfl⟩; simp [ofFields, ops7, Fields.base]
theorem vperm (mod : BitVec 4) (d a b : BitVec 6) (cl : Clauses) : Statement (.vperm mod d a b cl) := by
  rintro _ ⟨rfl⟩; simp [ofFields, ops7, Fields.base]
theorem vreduce (mod : BitVec 4) (d a : BitVec 6) (imm : BitVec 16) (cl : Clauses) : Statement (.vreduce mod d a imm cl) := by
  rintro _ ⟨rfl⟩; simp [ofFields, ops7, Fields.base]
theorem vcvt (mod : BitVec 4) (d a b : BitVec 6) (imm : BitVec 16) (cl : Clauses) : Statement (.vcvt mod d a b imm cl) := by
  rintro _ ⟨rfl⟩; simp [ofFields, ops7, Fields.base]
theorem vretag (d a b : BitVec 6) (imm : BitVec 16) (cl : Clauses) : Statement (.vretag d a b imm cl) := by
  rintro _ ⟨rfl⟩; simp [ofFields, ops7, Fields.base]
theorem vplane (mod : BitVec 4) (d a b : BitVec 6) (imm : BitVec 16) (cl : Clauses) : Statement (.vplane mod d a b imm cl) := by
  rintro _ ⟨rfl⟩; simp [ofFields, ops7, Fields.base]
theorem vqscale (mod : BitVec 4) (d a c : BitVec 6) (cl : Clauses) : Statement (.vqscale mod d a c cl) := by
  rintro _ ⟨rfl⟩; simp [ofFields, ops7, Fields.base]
theorem vbnd (mod : BitVec 4) (d a b c : BitVec 6) (cl : Clauses) : Statement (.vbnd mod d a b c cl) := by
  rintro _ ⟨rfl⟩; simp [ofFields, ops7, Fields.base]
theorem vscan (mod : BitVec 4) (d a : BitVec 6) (imm : BitVec 16) (cl : Clauses) : Statement (.vscan mod d a imm cl) := by
  rintro _ ⟨rfl⟩; simp [ofFields, ops7, Fields.base]
theorem vmovp (mod : BitVec 4) (d a : BitVec 6) (cl : Clauses) : Statement (.vmovp mod d a cl) := by
  rintro _ ⟨rfl⟩; simp [ofFields, ops7, Fields.base]
theorem mzero (mod : BitVec 4) (d : BitVec 6) (cl : Clauses) : Statement (.mzero mod d cl) := by
  rintro _ ⟨rfl⟩; simp [ofFields, ops8, Fields.base]
theorem mma (mod : BitVec 4) (d a b : BitVec 6) (cl : Clauses) : Statement (.mma mod d a b cl) := by
  rintro _ ⟨rfl⟩; simp [ofFields, ops8, Fields.base]
theorem mmat (mod : BitVec 4) (d a b : BitVec 6) (cl : Clauses) : Statement (.mmat mod d a b cl) := by
  rintro _ ⟨rfl⟩; simp [ofFields, ops8, Fields.base]
theorem mmas (mod : BitVec 4) (d a b c : BitVec 6) (cl : Clauses) : Statement (.mmas mod d a b c cl) := by
  rintro _ ⟨rfl⟩; simp [ofFields, ops8, Fields.base]
theorem mmast (mod : BitVec 4) (d a b c : BitVec 6) (cl : Clauses) : Statement (.mmast mod d a b c cl) := by
  rintro _ ⟨rfl⟩; simp [ofFields, ops8, Fields.base]
theorem mlda (mod : BitVec 4) (d a b : BitVec 6) (cl : Clauses) : Statement (.mlda mod d a b cl) := by
  rintro _ ⟨rfl⟩; simp [ofFields, ops8, Fields.base]
theorem msta (mod : BitVec 4) (a b c : BitVec 6) (imm : BitVec 16) (cl : Clauses) : Statement (.msta mod a b c imm cl) := by
  rintro _ ⟨rfl⟩; simp [ofFields, ops8, Fields.base]
theorem mstq (mod : BitVec 4) (a b c : BitVec 6) (imm : BitVec 16) (cl : Clauses) : Statement (.mstq mod a b c imm cl) := by
  rintro _ ⟨rfl⟩; simp [ofFields, ops8, Fields.base]
theorem maddt (mod : BitVec 4) (d a b : BitVec 6) (cl : Clauses) : Statement (.maddt mod d a b cl) := by
  rintro _ ⟨rfl⟩; simp [ofFields, ops8, Fields.base]
theorem mscl (mod : BitVec 4) (d a b : BitVec 6) (cl : Clauses) : Statement (.mscl mod d a b cl) := by
  rintro _ ⟨rfl⟩; simp [ofFields, ops8, Fields.base]
theorem mrowv (d a : BitVec 6) (imm : BitVec 16) (cl : Clauses) : Statement (.mrowv d a imm cl) := by
  rintro _ ⟨rfl⟩; simp [ofFields, ops8, Fields.base]
theorem mvrow (d a : BitVec 6) (imm : BitVec 16) (cl : Clauses) : Statement (.mvrow d a imm cl) := by
  rintro _ ⟨rfl⟩; simp [ofFields, ops8, Fields.base]
theorem mtrn (d a : BitVec 6) (cl : Clauses) : Statement (.mtrn d a cl) := by
  rintro _ ⟨rfl⟩; simp [ofFields, ops8, Fields.base]
theorem mredr (mod : BitVec 4) (d a : BitVec 6) (cl : Clauses) : Statement (.mredr mod d a cl) := by
  rintro _ ⟨rfl⟩; simp [ofFields, ops8, Fields.base]
theorem mshape (a : BitVec 6) (cl : Clauses) : Statement (.mshape a cl) := by
  rintro _ ⟨rfl⟩; simp [ofFields, ops8, Fields.base]
theorem mfmt (a : BitVec 6) (cl : Clauses) : Statement (.mfmt a cl) := by
  rintro _ ⟨rfl⟩; simp [ofFields, ops8, Fields.base]
theorem pload (mod : BitVec 4) (a : BitVec 6) (cl : Clauses) : Statement (.pload mod a cl) := by
  rintro _ ⟨rfl⟩; simp [ofFields, ops9, Fields.base]
theorem pset (a : BitVec 6) (imm : BitVec 16) (cl : Clauses) : Statement (.pset a imm cl) := by
  rintro _ ⟨rfl⟩; simp [ofFields, ops9, Fields.base]
theorem pget (d : BitVec 6) (imm : BitVec 16) (cl : Clauses) : Statement (.pget d imm cl) := by
  rintro _ ⟨rfl⟩; simp [ofFields, ops9, Fields.base]
theorem pcount (d a b : BitVec 6) (cl : Clauses) : Statement (.pcount d a b cl) := by
  rintro _ ⟨rfl⟩; simp [ofFields, ops9, Fields.base]
theorem pgen (mod : BitVec 4) (d a : BitVec 6) (cl : Clauses) : Statement (.pgen mod d a cl) := by
  rintro _ ⟨rfl⟩; simp [ofFields, ops9, Fields.base]
theorem pinv (mod : BitVec 4) (d a b : BitVec 6) (cl : Clauses) : Statement (.pinv mod d a b cl) := by
  rintro _ ⟨rfl⟩; simp [ofFields, ops9, Fields.base]
theorem cutset (a b : BitVec 6) (cl : Clauses) : Statement (.cutset a b cl) := by
  rintro _ ⟨rfl⟩; simp [ofFields, ops9, Fields.base]
theorem cut (mod : BitVec 4) (d : BitVec 6) (imm : BitVec 16) (cl : Clauses) : Statement (.cut mod d imm cl) := by
  rintro _ ⟨rfl⟩; simp [ofFields, ops9, Fields.base]
theorem cutb (d a b c : BitVec 6) (imm : BitVec 16) (cl : Clauses) : Statement (.cutb d a b c imm cl) := by
  rintro _ ⟨rfl⟩; simp [ofFields, ops9, Fields.base]
theorem mstat (mod : BitVec 4) (d : BitVec 6) (cl : Clauses) : Statement (.mstat mod d cl) := by
  rintro _ ⟨rfl⟩; simp [ofFields, ops9, Fields.base]
theorem mstage (a : BitVec 6) (cl : Clauses) : Statement (.mstage a cl) := by
  rintro _ ⟨rfl⟩; simp [ofFields, ops9, Fields.base]
theorem msave (mod : BitVec 4) (a b c : BitVec 6) (cl : Clauses) : Statement (.msave mod a b c cl) := by
  rintro _ ⟨rfl⟩; simp [ofFields, ops9, Fields.base]
theorem mrest (mod : BitVec 4) (d b c : BitVec 6) (cl : Clauses) : Statement (.mrest mod d b c cl) := by
  rintro _ ⟨rfl⟩; simp [ofFields, ops9, Fields.base]
theorem mdot (mod : BitVec 4) (d a b : BitVec 6) (cl : Clauses) : Statement (.mdot mod d a b cl) := by
  rintro _ ⟨rfl⟩; simp [ofFields, ops9, Fields.base]
theorem mbias (mod : BitVec 4) (d a b : BitVec 6) (cl : Clauses) : Statement (.mbias mod d a b cl) := by
  rintro _ ⟨rfl⟩; simp [ofFields, ops9, Fields.base]
theorem mclamp (d a b c : BitVec 6) (cl : Clauses) : Statement (.mclamp d a b c cl) := by
  rintro _ ⟨rfl⟩; simp [ofFields, ops9, Fields.base]
theorem meet (mod : BitVec 4) (d a b c : BitVec 6) (imm : BitVec 16) (cl : Clauses) : Statement (.meet mod d a b c imm cl) := by
  rintro _ ⟨rfl⟩; simp [ofFields, ops10, Fields.base]
theorem part (cl : Clauses) : Statement (.part cl) := by
  rintro _ ⟨rfl⟩; simp [ofFields, ops10, Fields.base]
theorem xreg (mod : BitVec 4) (d a : BitVec 6) (cl : Clauses) : Statement (.xreg mod d a cl) := by
  rintro _ ⟨rfl⟩; simp [ofFields, ops10, Fields.base]
theorem xvreg (d a : BitVec 6) (cl : Clauses) : Statement (.xvreg d a cl) := by
  rintro _ ⟨rfl⟩; simp [ofFields, ops10, Fields.base]
theorem xlug (a b c : BitVec 6) (cl : Clauses) : Statement (.xlug a b c cl) := by
  rintro _ ⟨rfl⟩; simp [ofFields, ops10, Fields.base]
theorem meetq (mod : BitVec 4) (d : BitVec 6) (cl : Clauses) : Statement (.meetq mod d cl) := by
  rintro _ ⟨rfl⟩; simp [ofFields, ops10, Fields.base]
theorem bar (mod : BitVec 4) (d : BitVec 6) (imm : BitVec 16) (cl : Clauses) : Statement (.bar mod d imm cl) := by
  rintro _ ⟨rfl⟩; simp [ofFields, ops10, Fields.base]
theorem bara (mod : BitVec 4) (imm : BitVec 16) (cl : Clauses) : Statement (.bara mod imm cl) := by
  rintro _ ⟨rfl⟩; simp [ofFields, ops10, Fields.base]
theorem barw (d : BitVec 6) (cl : Clauses) : Statement (.barw d cl) := by
  rintro _ ⟨rfl⟩; simp [ofFields, ops10, Fields.base]
theorem sstep (d : BitVec 6) (cl : Clauses) : Statement (.sstep d cl) := by
  rintro _ ⟨rfl⟩; simp [ofFields, ops10, Fields.base]
theorem barred (mod : BitVec 4) (d a : BitVec 6) (imm : BitVec 16) (cl : Clauses) : Statement (.barred mod d a imm cl) := by
  rintro _ ⟨rfl⟩; simp [ofFields, ops10, Fields.base]
theorem take (d : BitVec 6) (cl : Clauses) : Statement (.take d cl) := by
  rintro _ ⟨rfl⟩; simp [ofFields, ops10, Fields.base]
theorem share (d a : BitVec 6) (cl : Clauses) : Statement (.share d a cl) := by
  rintro _ ⟨rfl⟩; simp [ofFields, ops10, Fields.base]
theorem launch (d a b c : BitVec 6) (cl : Clauses) : Statement (.launch d a b c cl) := by
  rintro _ ⟨rfl⟩; simp [ofFields, ops10, Fields.base]
theorem cpy (mod : BitVec 4) (d a b c : BitVec 6) (imm : BitVec 16) (cl : Clauses) : Statement (.cpy mod d a b c imm cl) := by
  rintro _ ⟨rfl⟩; simp [ofFields, ops10, Fields.base]
theorem cpyt (mod : BitVec 4) (d a b c : BitVec 6) (imm : BitVec 16) (cl : Clauses) : Statement (.cpyt mod d a b c imm cl) := by
  rintro _ ⟨rfl⟩; simp [ofFields, ops10, Fields.base]
theorem cpyw (mod : BitVec 4) (d a b c : BitVec 6) (imm : BitVec 16) (cl : Clauses) : Statement (.cpyw mod d a b c imm cl) := by
  rintro _ ⟨rfl⟩; simp [ofFields, ops11, Fields.base]
theorem cpyg (mod : BitVec 4) (d a b c : BitVec 6) (imm : BitVec 16) (cl : Clauses) : Statement (.cpyg mod d a b c imm cl) := by
  rintro _ ⟨rfl⟩; simp [ofFields, ops11, Fields.base]
theorem cpys (mod : BitVec 4) (d a b c : BitVec 6) (imm : BitVec 16) (cl : Clauses) : Statement (.cpys mod d a b c imm cl) := by
  rintro _ ⟨rfl⟩; simp [ofFields, ops11, Fields.base]
theorem cpyp (d a b c : BitVec 6) (imm : BitVec 16) (cl : Clauses) : Statement (.cpyp d a b c imm cl) := by
  rintro _ ⟨rfl⟩; simp [ofFields, ops11, Fields.base]
theorem cpyr (d a b c : BitVec 6) (imm : BitVec 16) (cl : Clauses) : Statement (.cpyr d a b c imm cl) := by
  rintro _ ⟨rfl⟩; simp [ofFields, ops11, Fields.base]
theorem cpwait (a : BitVec 6) (imm : BitVec 16) (cl : Clauses) : Statement (.cpwait a imm cl) := by
  rintro _ ⟨rfl⟩; simp [ofFields, ops11, Fields.base]
theorem cpstat (mod : BitVec 4) (d : BitVec 6) (imm : BitVec 16) (cl : Clauses) : Statement (.cpstat mod d imm cl) := by
  rintro _ ⟨rfl⟩; simp [ofFields, ops11, Fields.base]
theorem stgwait (d a : BitVec 6) (imm : BitVec 16) (cl : Clauses) : Statement (.stgwait d a imm cl) := by
  rintro _ ⟨rfl⟩; simp [ofFields, ops11, Fields.base]
theorem stgrel (imm : BitVec 16) (cl : Clauses) : Statement (.stgrel imm cl) := by
  rintro _ ⟨rfl⟩; simp [ofFields, ops11, Fields.base]
theorem stgset (a : BitVec 6) (imm : BitVec 16) (cl : Clauses) : Statement (.stgset a imm cl) := by
  rintro _ ⟨rfl⟩; simp [ofFields, ops11, Fields.base]
theorem evwait (imm : BitVec 16) (cl : Clauses) : Statement (.evwait imm cl) := by
  rintro _ ⟨rfl⟩; simp [ofFields, ops11, Fields.base]
theorem evclr (imm : BitVec 16) (cl : Clauses) : Statement (.evclr imm cl) := by
  rintro _ ⟨rfl⟩; simp [ofFields, ops11, Fields.base]
theorem mould (mod : BitVec 4) (d : BitVec 6) (cl : Clauses) : Statement (.mould mod d cl) := by
  rintro _ ⟨rfl⟩; simp [ofFields, ops11, Fields.base]
theorem tmark (a : BitVec 6) (imm : BitVec 16) (cl : Clauses) : Statement (.tmark a imm cl) := by
  rintro _ ⟨rfl⟩; simp [ofFields, ops11, Fields.base]
theorem cpcan (imm : BitVec 16) (cl : Clauses) : Statement (.cpcan imm cl) := by
  rintro _ ⟨rfl⟩; simp [ofFields, ops11, Fields.base]
theorem launchq (d a b c : BitVec 6) (cl : Clauses) : Statement (.launchq d a b c cl) := by
  rintro _ ⟨rfl⟩; simp [ofFields, ops11, Fields.base]
theorem fixedLatencyWriteback (core : Nat) : Statement (.fixedLatencyWriteback core) := by rintro _ ⟨⟩
theorem divideComplete (core : Nat) : Statement (.divideComplete core) := by rintro _ ⟨⟩
theorem matrixUnitWordDone (core : Nat) : Statement (.matrixUnitWordDone core) := by rintro _ ⟨⟩
theorem onQuadAccessDone (op : Nat) : Statement (.onQuadAccessDone op) := by rintro _ ⟨⟩
theorem generatorCutterDone (op : Nat) : Statement (.generatorCutterDone op) := by rintro _ ⟨⟩
theorem contextSwitch (core : Nat) : Statement (.contextSwitch core) := by rintro _ ⟨⟩
theorem portResume (core : Nat) : Statement (.portResume core) := by rintro _ ⟨⟩
theorem trapEntry (act : Nat) : Statement (.trapEntry act) := by rintro _ ⟨⟩
theorem timerMatch (act : Nat) : Statement (.timerMatch act) := by rintro _ ⟨⟩
theorem interruptTaken (act : Nat) : Statement (.interruptTaken act) := by rintro _ ⟨⟩
theorem timecmpWrite (act : Nat) (value : BitVec 64) : Statement (.timecmpWrite act value) := by rintro _ ⟨⟩
theorem extpendWrite (act : Nat) (value : BitVec 64) : Statement (.extpendWrite act value) := by rintro _ ⟨⟩
theorem homePortAccess (req : Nat) : Statement (.homePortAccess req) := by rintro _ ⟨⟩
theorem deviceLoadReturn (req : Nat) : Statement (.deviceLoadReturn req) := by rintro _ ⟨⟩
theorem storeAccepted (req : Nat) : Statement (.storeAccepted req) := by rintro _ ⟨⟩
theorem atomicReply (req : Nat) : Statement (.atomicReply req) := by rintro _ ⟨⟩
theorem waitmemSatisfied (req : Nat) : Statement (.waitmemSatisfied req) := by rintro _ ⟨⟩
theorem reductionMergeApply (line : Nat) : Statement (.reductionMergeApply line) := by rintro _ ⟨⟩
theorem releaseWaitDone (act : Nat) : Statement (.releaseWaitDone act) := by rintro _ ⟨⟩
theorem l1LineExpiry (core : Nat) (line : Nat) : Statement (.l1LineExpiry core line) := by rintro _ ⟨⟩
theorem translationWalk (act : Nat) : Statement (.translationWalk act) := by rintro _ ⟨⟩
theorem otinvWrite (act : Nat) (value : BitVec 64) : Statement (.otinvWrite act value) := by rintro _ ⟨⟩
theorem invalidationComplete (part : Nat) : Statement (.invalidationComplete part) := by rintro _ ⟨⟩
theorem migreqWrite (act : Nat) (value : BitVec 64) : Statement (.migreqWrite act value) := by rintro _ ⟨⟩
theorem migrationRound (act : Nat) : Statement (.migrationRound act) := by rintro _ ⟨⟩
theorem migrationFreeze (act : Nat) : Statement (.migrationFreeze act) := by rintro _ ⟨⟩
theorem kicksetWrite (part : Nat) (queue : Nat) (value : BitVec 64) : Statement (.kicksetWrite part queue value) := by rintro _ ⟨⟩
theorem kickclrWrite (part : Nat) (queue : Nat) (value : BitVec 64) : Statement (.kickclrWrite part queue value) := by rintro _ ⟨⟩
theorem hostirqWrite (part : Nat) : Statement (.hostirqWrite part) := by rintro _ ⟨⟩
theorem lqbaseWrite (part : Nat) (queue : Nat) (value : BitVec 64) (host : Bool) : Statement (.lqbaseWrite part queue value host) := by rintro _ ⟨⟩
theorem kickScan (part : Nat) : Statement (.kickScan part) := by rintro _ ⟨⟩
theorem kickTake (part : Nat) : Statement (.kickTake part) := by rintro _ ⟨⟩
theorem journalEntryAccepted (part : Nat) : Statement (.journalEntryAccepted part) := by rintro _ ⟨⟩
theorem launchSubmission (part : Nat) : Statement (.launchSubmission part) := by rintro _ ⟨⟩
theorem dependenceThreshold (part : Nat) (gang : Nat) : Statement (.dependenceThreshold part gang) := by rintro _ ⟨⟩
theorem crewDispatch (gang : Nat) : Statement (.crewDispatch gang) := by rintro _ ⟨⟩
theorem preemption (act : Nat) : Statement (.preemption act) := by rintro _ ⟨⟩
theorem stallSweep (gang : Nat) : Statement (.stallSweep gang) := by rintro _ ⟨⟩
theorem crewSwapIn (gang : Nat) (crew : Nat) : Statement (.crewSwapIn gang crew) := by rintro _ ⟨⟩
theorem cycleCheckExpiry (gang : Nat) : Statement (.cycleCheckExpiry gang) := by rintro _ ⟨⟩
theorem barrierWatchdogExpiry (gang : Nat) : Statement (.barrierWatchdogExpiry gang) := by rintro _ ⟨⟩
theorem gangCompletion (gang : Nat) : Statement (.gangCompletion gang) := by rintro _ ⟨⟩
theorem takeServed (op : Nat) : Statement (.takeServed op) := by rintro _ ⟨⟩
theorem shareServed (op : Nat) : Statement (.shareServed op) := by rintro _ ⟨⟩
theorem barrierArrival (act : Nat) : Statement (.barrierArrival act) := by rintro _ ⟨⟩
theorem barrierComplete (inst : Nat) : Statement (.barrierComplete inst) := by rintro _ ⟨⟩
theorem sstepComplete (inst : Nat) : Statement (.sstepComplete inst) := by rintro _ ⟨⟩
theorem barrierRelease (inst : Nat) (act : Nat) : Statement (.barrierRelease inst act) := by rintro _ ⟨⟩
theorem podBarrierReport (inst : Nat) (pkg : Nat) : Statement (.podBarrierReport inst pkg) := by rintro _ ⟨⟩
theorem meetArrival (act : Nat) : Statement (.meetArrival act) := by rintro _ ⟨⟩
theorem meetingCoreChosen (quad : Nat) (entry : Nat) : Statement (.meetingCoreChosen quad entry) := by rintro _ ⟨⟩
theorem meetLanded (core : Nat) : Statement (.meetLanded core) := by rintro _ ⟨⟩
theorem partLanded (act : Nat) : Statement (.partLanded act) := by rintro _ ⟨⟩
theorem meetTimeout (act : Nat) : Statement (.meetTimeout act) := by rintro _ ⟨⟩
theorem meetWithdrawal (act : Nat) : Statement (.meetWithdrawal act) := by rintro _ ⟨⟩
theorem copyLine (quad : Nat) (chan : Nat) : Statement (.copyLine quad chan) := by rintro _ ⟨⟩
theorem transferComplete (quad : Nat) (chan : Nat) : Statement (.transferComplete quad chan) := by rintro _ ⟨⟩
theorem copyFault (quad : Nat) (chan : Nat) (cause : BitVec 8) : Statement (.copyFault quad chan cause) := by rintro _ ⟨⟩
theorem peerSignal (quad : Nat) (chan : Nat) : Statement (.peerSignal quad chan) := by rintro _ ⟨⟩
theorem linkRailFailure (link : Nat) : Statement (.linkRailFailure link) := by rintro _ ⟨⟩
theorem linkFlitRetry (link : Nat) (ok : Bool) : Statement (.linkFlitRetry link ok) := by rintro _ ⟨⟩
theorem linkDown (link : Nat) : Statement (.linkDown link) := by rintro _ ⟨⟩
theorem superstepReplay (gang : Nat) : Statement (.superstepReplay gang) := by rintro _ ⟨⟩
theorem gangEnd (gang : Nat) (grade : BitVec 2) : Statement (.gangEnd gang grade) := by rintro _ ⟨⟩
theorem scrubLine (space : Nat) (inst : Nat) (line : Nat) (uncorrectable : Bool) : Statement (.scrubLine space inst line uncorrectable) := by rintro _ ⟨⟩
theorem retentionExit (quad : Nat) (lost : Bool) : Statement (.retentionExit quad lost) := by rintro _ ⟨⟩
theorem dieDrop (die : Nat) : Statement (.dieDrop die) := by rintro _ ⟨⟩
theorem crossAlarm (core : Nat) (code : BitVec 16) : Statement (.crossAlarm core code) := by rintro _ ⟨⟩
theorem drainWrite (part : Nat) (value : BitVec 64) : Statement (.drainWrite part value) := by rintro _ ⟨⟩
theorem pgenrWrite (part : Nat) (entry : Nat) (value : BitVec 64) : Statement (.pgenrWrite part entry value) := by rintro _ ⟨⟩
theorem quadHalt (quad : Nat) : Statement (.quadHalt quad) := by rintro _ ⟨⟩
theorem quadHalted (quad : Nat) : Statement (.quadHalted quad) := by rintro _ ⟨⟩
theorem quadResume (quad : Nat) : Statement (.quadResume quad) := by rintro _ ⟨⟩
theorem debugStateWrite (act : Nat) (item : DebugItem) : Statement (.debugStateWrite act item) := by rintro _ ⟨⟩
theorem sampleBufferSetup (part : Nat) (len : Bool) (value : BitVec 64) : Statement (.sampleBufferSetup part len value) := by rintro _ ⟨⟩
theorem proofArm (part : Nat) (value : BitVec 64) : Statement (.proofArm part value) := by rintro _ ⟨⟩
theorem proofSnapshot (part : Nat) : Statement (.proofSnapshot part) := by rintro _ ⟨⟩
theorem dvreq (die : Nat) (value : BitVec 64) : Statement (.dvreq die value) := by rintro _ ⟨⟩
theorem clockSwitch (die : Nat) : Statement (.clockSwitch die) := by rintro _ ⟨⟩
theorem dvfsPauseEnd (die : Nat) : Statement (.dvfsPauseEnd die) := by rintro _ ⟨⟩
theorem arrayGate (quad : Nat) (bank : Nat) : Statement (.arrayGate quad bank) := by rintro _ ⟨⟩
theorem arrayWake (quad : Nat) (bank : Nat) : Statement (.arrayWake quad bank) := by rintro _ ⟨⟩
theorem thermalWarning (die : Nat) : Statement (.thermalWarning die) := by rintro _ ⟨⟩
theorem emergencySaveCommit : Statement .emergencySaveCommit := by rintro _ ⟨⟩
theorem thermalTrip (die : Nat) : Statement (.thermalTrip die) := by rintro _ ⟨⟩
theorem triprecClear (value : BitVec 64) : Statement (.triprecClear value) := by rintro _ ⟨⟩
theorem partmapWrite (value : BitVec 64) : Statement (.partmapWrite value) := by rintro _ ⟨⟩
theorem packageReset : Statement .packageReset := by rintro _ ⟨⟩
theorem partitionReset (part : Nat) : Statement (.partitionReset part) := by rintro _ ⟨⟩
theorem attestationRequest (value : BitVec 64) : Statement (.attestationRequest value) := by rintro _ ⟨⟩
theorem attestationDone : Statement .attestationDone := by rintro _ ⟨⟩
theorem tamperAlarm (source : BitVec 3) : Statement (.tamperAlarm source) := by rintro _ ⟨⟩
theorem registerWrite (part : Nat) (reg : Nat) (value : BitVec 64) : Statement (.registerWrite part reg value) := by rintro _ ⟨⟩
theorem fixedTimeTagClear (op : Nat) : Statement (.fixedTimeTagClear op) := by rintro _ ⟨⟩
theorem machineCheckError (core : Nat) (record : BitVec 64) : Statement (.machineCheckError core record) := by rintro _ ⟨⟩
theorem temperatureFalls (die : Nat) : Statement (.temperatureFalls die) := by rintro _ ⟨⟩
theorem sbptrWrite (part : Nat) (value : BitVec 64) : Statement (.sbptrWrite part value) := by rintro _ ⟨⟩

end Sys2Proof.Laws.RoundTrip
end

