-- ==== Sys2Proof/Laws/Units.lean ====
section
/-! SUPPORT. Laws of the form of the units: the memories of cores and scratchpads and the registers of contexts keep their canonical
form, and s0 stays zero and live. -/
namespace Sys2Proof.Machine

/-! ## Registers -/

theorem Regs.setLive_wf {g : Regs} (r : RegName) (v : Bool) (h : g.Wf) : (g.setLive r v).Wf := by
  unfold Regs.setLive
  split <;> (try split) <;> exact ⟨h.s, h.v, h.p, h.b, h.k, h.zero⟩

/-- Setting or clearing another register's live bit leaves s0 and p0 live. -/
theorem Regs.setLive_fixed {g : Regs} (r q : RegName) (v : Bool) (hq : q = sreg 0 ∨ q = preg 0) (h : g.live q = true) :
    (g.setLive r v).live q = true := by
  obtain ⟨f, n⟩ := r
  have hb : ∀ {w n : Nat} (x : BitVec w) (v : Bool), n ≠ 0 → x.getLsbD 0 = true → (setBit x n v).getLsbD 0 = true := by
    intro w n x v hn hx
    unfold setBit
    split
    · simp [hx]
    · have : (1#w <<< n).getLsbD 0 = false := by simp [hn]
      have hw : 0 < w := by
        cases w with
        | zero => simp [BitVec.getLsbD_of_ge] at hx
        | succ w => omega
      simp only [BitVec.getLsbD_and, BitVec.getLsbD_not, hx, hw, this]
      rfl
  rcases hq with rfl | rfl <;> cases f <;> simp only [Regs.setLive] <;> (try split) <;>
    first
    | exact h
    | exact hb _ v ‹_› h

theorem Regs.put_wf {g : Regs} (w : RegWrite) (h : g.Wf) : (g.put w).Wf := by
  unfold Regs.put
  dsimp only
  split
  · exact h
  · rename_i hn
    have h' := Regs.setLive_wf w.reg true h
    split
    · rename_i x hf hv
      refine ⟨sparseWf_sparseSet _ _ h'.s, h'.v, h'.p, h'.b, h'.k, ?_⟩
      have : (0 : Nat) ≠ w.reg.num := fun e => hn ⟨e.symm, .inl hf⟩
      exact (sparseGet_sparseSet_other x h'.s this).trans h'.zero
    · exact ⟨h'.s, h'.v, sparseWf_sparseSet _ _ h'.p, h'.b, h'.k, h'.zero⟩
    · exact ⟨h'.s, h'.v, h'.p, sparseWf_sparseSet _ _ h'.b, h'.k, h'.zero⟩
    · exact ⟨h'.s, sparseWf_sparseSet _ _ h'.v, h'.p, h'.b, h'.k, h'.zero⟩
    · exact ⟨h'.s, h'.v, h'.p, h'.b, sparseWf_sparseSet _ _ h'.k, h'.zero⟩
    · exact ⟨h'.s, h'.v, h'.p, h'.b, h'.k, h'.zero⟩

/-- Only its live bits show through a register's write where the register is another. -/
theorem Regs.put_live (g : Regs) (w : RegWrite) (q : RegName) :
    (g.put w).live q = g.live q ∨ (g.put w).live q = (g.setLive w.reg true).live q := by
  unfold Regs.put
  dsimp only
  split
  · exact .inl rfl
  · right
    split <;> rfl

theorem Regs.put_fixed {g : Regs} (w : RegWrite) (q : RegName) (hq : q = sreg 0 ∨ q = preg 0) (h : g.live q = true) :
    (g.put w).live q = true := by
  rcases Regs.put_live g w q with e | e
  · rw [e]; exact h
  · rw [e]; exact Regs.setLive_fixed _ _ _ hq h

theorem Act.putIn_wf {a : Act} (bank : Bool) (w : RegWrite) (h : a.Wf) : (a.putIn bank w).Wf := by
  unfold Act.putIn
  split
  · exact ⟨h.regs, Regs.put_wf w h.bank, h.s0, h.p0⟩
  · exact ⟨Regs.put_wf w h.regs, h.bank, Regs.put_fixed w _ (.inl rfl) h.s0, Regs.put_fixed w _ (.inr rfl) h.p0⟩

theorem Act.putAll_wf {a : Act} (bank : Bool) (ws : List RegWrite) (h : a.Wf) : (a.putAll bank ws).Wf := by
  unfold Act.putAll
  induction ws generalizing a with
  | nil => exact h
  | cons w ws ih => exact ih (Act.putIn_wf bank w h)

theorem Act.release_wf {a : Act} (r : RegName) (h : a.Wf) : (a.release r).Wf := by
  unfold Act.release
  split
  · exact ⟨h.regs, Regs.setLive_wf _ _ h.bank, h.s0, h.p0⟩
  · exact ⟨Regs.setLive_wf _ _ h.regs, h.bank, Regs.setLive_fixed _ _ _ (.inl rfl) h.s0,
      Regs.setLive_fixed _ _ _ (.inr rfl) h.p0⟩

theorem Act.releases_wf {a : Act} (rs : List RegName) (h : a.Wf) : (rs.foldl Act.release a).Wf := by
  induction rs generalizing a with
  | nil => exact h
  | cons r rs ih => exact ih (Act.release_wf r h)

theorem Act.land_wf {a : Act} (w : FixedWrite) (h : a.Wf) : (a.land w).Wf :=
  let h' := Act.putAll_wf a.tip w.writes h
  ⟨h'.regs, h'.bank, h'.s0, h'.p0⟩

theorem Act.lands_wf {a : Act} (ws : List FixedWrite) (h : a.Wf) : (ws.foldl Act.land a).Wf := by
  induction ws generalizing a with
  | nil => exact h
  | cons w ws ih => exact ih (Act.land_wf w h)

theorem Act.landDue_wf {a : Act} (cycle : Nat) (h : a.Wf) : (a.landDue cycle).Wf :=
  let h' := Act.lands_wf (a.fixed.filter (fun w => decide (w.due ≤ cycle))) h
  ⟨h'.regs, h'.bank, h'.s0, h'.p0⟩

theorem Act.landAll_wf {a : Act} (h : a.Wf) : a.landAll.Wf :=
  let h' := Act.lands_wf a.fixed h
  ⟨h'.regs, h'.bank, h'.s0, h'.p0⟩

/-! ## The package -/

theorem Core.default_memWf : ({} : Core).MemWf := ⟨rfl, rfl, rfl, rfl⟩
theorem Quad.default_memWf : ({} : Quad).MemWf := ⟨rfl, rfl⟩
theorem Act.default_wf : ({} : Act).Wf := ⟨⟨rfl, rfl, rfl, rfl, rfl, rfl⟩, ⟨rfl, rfl, rfl, rfl, rfl, rfl⟩, rfl, rfl⟩

theorem reset_unitsWf : State.reset.UnitsWf := by
  refine ⟨fun x hx => ?_, fun x hx => ?_, fun x hx => ?_, fun x hx => ?_⟩
  · simp only [State.reset, List.mem_cons, List.not_mem_nil, or_false] at hx
    rcases hx with rfl | rfl <;> exact Core.default_memWf
  all_goals exact absurd hx (by simp [State.reset])

namespace State
variable {s t : State}

theorem UnitsWf.of_eq (h : s.UnitsWf) (h1 : t.cores = s.cores) (h2 : t.quads = s.quads) (h3 : t.acts = s.acts)
    (h4 : t.gangs = s.gangs) : t.UnitsWf :=
  ⟨h1 ▸ h.cores, h2 ▸ h.quads, h3 ▸ h.acts, h4 ▸ h.snaps⟩

theorem UnitsWf.core (h : s.UnitsWf) (c : Nat) : (s.core c).MemWf := by
  unfold State.core
  cases e : tableGet? s.cores c with
  | none => exact Core.default_memWf
  | some x => exact h.cores _ (mem_of_tableGet? e)

theorem UnitsWf.quad (h : s.UnitsWf) (q : Nat) : (s.quad q).MemWf := by
  unfold State.quad
  cases e : tableGet? s.quads q with
  | none => exact Quad.default_memWf
  | some x => exact h.quads _ (mem_of_tableGet? e)

theorem UnitsWf.act (h : s.UnitsWf) (a : Nat) : (s.act a).Wf := by
  unfold State.act
  cases e : tableGet? s.acts a with
  | none => exact Act.default_wf
  | some x => exact h.acts _ (mem_of_tableGet? e)

theorem UnitsWf.snap (h : s.UnitsWf) (g : Nat) : ∀ x ∈ (s.gang g).snap.acts, x.2.Wf := by
  unfold State.gang
  cases e : tableGet? s.gangs g with
  | none => intro x hx; cases hx
  | some x => exact h.snaps _ (mem_of_tableGet? e)

theorem UnitsWf.setCore (h : s.UnitsWf) (c : Nat) {x : Core} (hx : x.MemWf) : (s.setCore c x).UnitsWf :=
  ⟨fun _ he => (mem_tableSet he).elim (fun e => e ▸ hx) (h.cores _), h.quads, h.acts, h.snaps⟩

theorem UnitsWf.setQuad (h : s.UnitsWf) (q : Nat) {x : Quad} (hx : x.MemWf) : (s.setQuad q x).UnitsWf :=
  ⟨h.cores, fun _ he => (mem_tableSet he).elim (fun e => e ▸ hx) (h.quads _), h.acts, h.snaps⟩

theorem UnitsWf.setAct (h : s.UnitsWf) (a : Nat) {x : Act} (hx : x.Wf) : (s.setAct a x).UnitsWf :=
  ⟨h.cores, h.quads, fun _ he => (mem_tableSet he).elim (fun e => e ▸ hx) (h.acts _), h.snaps⟩

theorem UnitsWf.setGang (h : s.UnitsWf) (g : Nat) {x : Gang} (hx : ∀ y ∈ x.snap.acts, y.2.Wf) : (s.setGang g x).UnitsWf :=
  ⟨h.cores, h.quads, h.acts, fun _ he => (mem_tableSet he).elim (fun e => e ▸ hx) (h.snaps _)⟩

theorem UnitsWf.foldl {β : Type} (l : List β) (f : State → β → State) (hf : ∀ s x, s.UnitsWf → (f s x).UnitsWf) (h : s.UnitsWf) :
    (l.foldl f s).UnitsWf := by
  induction l generalizing s with
  | nil => exact h
  | cons x l ih => exact ih (hf s x h)

theorem UnitsWf.badMould (h : s.UnitsWf) (g q : Nat) : (s.badMould g q).UnitsWf := by
  unfold State.badMould
  dsimp only
  split
  · exact h.setGang g (h.snap g)
  · exact h

theorem UnitsWf.lmLog (h : s.UnitsWf) (g c l : Nat) : (s.lmLog g c l).UnitsWf := by
  unfold State.lmLog
  dsimp only
  split
  · exact h
  split
  · exact h.badMould _ _
  · exact h.setCore c ⟨(h.core c).lm, (h.core c).poison, (h.core c).imem, (h.core c).imemPoison⟩

theorem UnitsWf.halfLog (h : s.UnitsWf) (g c l : Nat) : (s.halfLog g c l).UnitsWf := by
  unfold State.halfLog
  simp only
  split
  · exact h
  · exact h.setCore c ⟨(h.core c).lm, (h.core c).poison, (h.core c).imem, (h.core c).imemPoison⟩

theorem UnitsWf.qsLog (h : s.UnitsWf) (g q l : Nat) : (s.qsLog g q l).UnitsWf := by
  unfold State.qsLog
  dsimp only
  split
  · exact h
  split
  · exact h.badMould _ _
  · exact h.setQuad q ⟨(h.quad q).qs, (h.quad q).poison⟩

/-- A write of local memory keeps the form. -/
theorem UnitsWf.lmWrite (h : s.UnitsWf) (g c a : Nat) (bs : List Byte) (mask : List Bool) (whole : Bool) :
    (s.lmWrite g c a bs mask whole).UnitsWf := by
  unfold State.lmWrite
  have h' := UnitsWf.foldl (linesOf a bs.length)
    (fun (s : State) l => if l * 64 < 0x60000 then s.lmLog g c l else s.halfLog g c l)
    (fun u l hu => by
      split
      · exact hu.lmLog g c l
      · exact hu.halfLog g c l) h
  exact h'.setCore c (Core.written_memWf a bs mask whole (h'.core c))

/-- So does one of the scratchpad. -/
theorem UnitsWf.qsWrite (h : s.UnitsWf) (g q a : Nat) (bs : List Byte) (mask : List Bool) (whole : Bool) :
    (s.qsWrite g q a bs mask whole).UnitsWf := by
  unfold State.qsWrite
  have h' := UnitsWf.foldl (linesOf a bs.length) (fun (s : State) l => s.qsLog g q l) (fun u l hu => hu.qsLog g q l) h
  exact h'.setQuad q (Quad.written_memWf a bs mask whole (h'.quad q))

end State
end Sys2Proof.Machine
end

