-- ==== Sys2Proof/Laws/Vector.lean ====
section
/-! SUPPORT. Laws of vector words: what the masked result is, and when a word's tags pass. -/
namespace Sys2Proof.Machine

theorem foldl_flags_filter (on : Nat → Bool) (f : Nat → FRes) (z : Nat → Nat) (l : List Nat) (g : BitVec 5) :
    (l.map (fun i => if on i then f i else { code := z i })).foldl (fun g r => g ||| r.flags) g =
      (l.filter on).foldl (fun g i => g ||| (f i).flags) g := by
  induction l generalizing g with
  | nil => rfl
  | cons i l ih =>
    cases h : on i
    · simp only [List.map_cons, List.foldl_cons, h, Bool.false_eq_true, if_false, List.filter_cons_of_neg, not_false_eq_true]
      rw [ih]; simp
    · simp only [List.map_cons, List.foldl_cons, h, if_true, List.filter_cons_of_pos]
      rw [ih]

/-- A masked word whose merge is allowed issues with R174's result. -/
theorem maskedRes_ok {x : Act} {mod : BitVec 4} {d : BitVec 6} {t : BitVec 5} (h : MergeOk x mod d t) (st : State)
    (lat w : Nat) (bw : BitVec 32) (f : Nat → FRes) :
    maskedRes st x mod d lat w t bw f = .go (maskedV st x mod d lat w t f bw) := by
  have hm : mergeFault x mod d t = none := by
    unfold mergeFault
    split
    · next hh => exact absurd (h hh.1) hh.2
    · rfl
  unfold maskedRes
  rw [hm]
  have e1 := foldl_flags_filter (active (x.p (mod.toNat % 8)) w) f
    (fun i => if mod.getLsbD 3 then elem (x.v d.toNat).data w i else 0) (List.range (512 / w)) 0
  simp only [maskedElems, fixedRes, List.map_map]
  rw [e1]
  have e2 : (fun i => if active (x.p (mod.toNat % 8)) w i = true then (f i).code
        else if mod.getLsbD 3 = true then elem (x.v d.toNat).data w i else 0) =
      (fun i => ((fun i => if active (x.p (mod.toNat % 8)) w i = true then f i
        else { code := if mod.getLsbD 3 = true then elem (x.v d.toNat).data w i else 0 }) i : FRes).code) := by
    funext i
    by_cases hi : active (x.p (mod.toNat % 8)) w i = true <;> simp only [hi, if_true, Bool.false_eq_true, if_false]
  unfold maskedV writeV
  simp only [Function.comp_def]
  rw [← e2]
  rfl

/-- An accepted tag in a, and the same in the other sources, raise nothing (R175). -/
theorem tagsFault_ok {ok : Nat → Bool} {t : Nat} {vs : List (Nat × Nat)} (h : ok t = true)
    (h2 : ∀ v ∈ vs, v.2 = t) : tagsFault ok t vs = none := by
  have : vs.find? (fun v => v.2 != t) = none := by
    rw [List.find?_eq_none]; intro v hv; simp [h2 v hv]
  simp [tagsFault, h, this]

theorem tagsFault_bad {ok : Nat → Bool} {t : Nat} {vs : List (Nat × Nat)} (h : ok t = false) :
    tagsFault ok t vs = some (formatTrap t 0) := by simp [tagsFault, h]

end Sys2Proof.Machine
end

