-- ==== Sys2Proof/Tests/Slice0.lean ====
section
/-! SUPPORT. Tests: the checks of decoding by ill-formed terms, words written out from the spec's encodings, one small step of
instructions of each family, and, for each statement, concrete states and operands that meet its hypotheses. -/
namespace Sys2Proof.Tests
open Sys2Proof Sys2Proof.Machine
set_option Elab.async false

/-! ## A small machine -/

/-- Clauses that do nothing. -/
def cl0 : Clauses := { seqMode := 0, seqB := 0, seqP := 0, annul := 0, pd := 0, alloc := 0, wait := 0, park := 0, last := 0 }

/-- The clauses of a tagged word. -/
def cl1 : Clauses := { cl0 with alloc := 1 }

/-- Scalar registers: small numbers in s1..s7, addresses from s8 on. -/
def rigS : Sparse Word64 :=
  [(1, 1), (2, 2), (3, 7), (4, 0xFFFFFFFFFFFFFFFF), (5, 0x8000000000000000), (6, 0x42), (7, 0x40), (8, 64), (9, 128), (10, 4096),
   (11, 0x10000), (12, 63), (13, 0x40000000000), (14, 0x4000000040), (15, 0x3F3F), (16, 0x100000000), (17, 0x808),
   (18, 0x0003000002000000), (19, 0x2000), (21, 256), (22, 0x0801FFC0), (23, 0x3000), (24, 0x4000000000), (25, 0x5000),
   (26, 0x6000), (27, 0x7000), (28, 0x8000), (29, 0x9000), (30, 0xC000000000000000), (31, 0xA000)]

/-- Local memory: a Hatch program at 0x2000, a launch record at 0x3000, descriptors of CPYT, CPYW, CPYG and CPYR at 0x5000,
0x6000, 0x7000 and 0x8000. -/
def rigLm : Sparse Byte :=
  [(0x2002, 0x0C), (0x2003, 0x10), (0x300C, 1), (0x3010, 1), (0x5004, 1), (0x6002, 0x40), (0x6008, 1), (0x600A, 1), (0x600C, 1),
   (0x600E, 1), (0x6010, 1), (0x6012, 1), (0x6014, 1), (0x7008, 1), (0x8004, 11), (0x801D, 4)]

/-- Vector registers: v1, v2 and v3 hold I32, v4, v5 and v6 FP32, v8 I8, v9 a BP4 block, v10 E4M3, v11 scaled E4M3. -/
def rigV : Sparse VReg :=
  [(1, { data := 5, tag := 4 }), (2, { data := 7, tag := 4 }), (3, { data := 1, tag := 4 }),
   (4, { data := 0x3F800000, tag := 6 }), (5, { data := 0x40000000, tag := 6 }), (6, { data := 0x3F800000, tag := 6 }),
   (8, { data := 0x7F, tag := 1 }), (9, { data := 3, tag := 18, bw := 1 }), (10, { data := 0x38, tag := 9 }),
   (11, { data := 0x38, tag := 11, bw := 0x00010001 })]

/-- A capability of object 7 with every right over its first 128 KiB. -/
def rigCap : KReg := KReg.make 7 127 0x20000 0 true

/-- Registers that are all live. -/
def rigRegs : Regs :=
  { s := rigS, v := rigV, p := [(1, 0xFFFFFFFFFFFFFFFF), (2, 1)], b := [(1, 100)], k := [(1, rigCap), (2, KReg.make 3 1 64 0 true)]
    liveS := BitVec.allOnes 64, liveV := BitVec.allOnes 32, liveP := BitVec.allOnes 8, liveB := BitVec.allOnes 8
    liveK := BitVec.allOnes 16 }

/-- A context in M mode in slot 0 of core 0 with local memory, scratchpad, rings and tiles of its own, a Hatch program of one
BAND and a cut. -/
def rigAct : Act :=
  { gang := 1, asw := 0x42, code := 0x0000070000010000, srstate := 9, regs := rigRegs, lmLen := 0x20000, qsLen := 0x20000
    rings := 0xFFFF, tiles := List.range 8, msh := 0x01F03F3F, mfm := 0x0808, msb := 16
    bd := [(1, { mode := 1, hi := 0x40000000 }), (2, { mode := 0 }), (3, { mode := 3, hi := 0x3F800000, lo := 0x3F800000 })]
    gen := { loaded := true, inv := true, prog := [0x100C0000, 0], extent := 0x7F00007F }
    cut := { desc := 64 * 2 ^ 36, isSet := true } }

/-- A translation of object 7's first page. -/
def rigOtc : OtcEntry :=
  { object := 7, page := 0, psize := 0, size := 0x20000, frame := 0x200000, w := true, cow := false, ro := false
    path := .device, gp := false }

/-- The machine with a context in slot `slot` of core `c`, which holds the port. -/
def rigAt (c slot : Nat) (a : Act) : State :=
  { State.reset with
    focus := c, fresh := 10, tick := 1000, acts := [(1, { a with core := c, slot := slot, homeCore := c, homeSlot := slot })]
    cores := [(c, { slots := [(slot, 1)], holder := some slot, otc := [rigOtc]
                    lm := rigLm, tiles := [(1, { i32 := true })] })]
    quads := [(coreQuad c, { qs := [(0x2002, 0x0C), (0x2003, 0x10)], rings := [(0, { size := 127, f := 1, commanded := 1 })] })]
    gangs := [(1, { lrec := { cores := 1, acts := 1 }, stage := .eligible, acceptSeq := 5 })] }

def rig : State := rigAt 0 0 rigAct

/-- In U mode. -/
def rigU : State := rigAt 0 0 { rigAct with asw := 0x40 }

/-- In M mode on an armature core. -/
def rigM : State := rigAt 2048 0 rigAct

/-- With a barrier arrival pending. -/
def rigB : State := rigAt 0 0 { rigAct with asw := 0x46, held := some { kind := 1, sid := 0, num := 1 } }

/-- A party of a meeting. -/
def rigParty (partner : Nat) : Party :=
  { key := 5, sid := 0, luggage := 0x10001000, timeout := 0, kind := 0, rect := 0, op := 3, pc := 4, q0 := {}, q1 := {}
    partner := partner, landed := true }

/-- A met party in visitor slot 6 of core 0; its partner, activity 2, is in slot 7 and its registers are the same. -/
def rigVisit (parted : Bool) : State :=
  let s := rigAt 0 6 { rigAct with asw := 0x62, party := some { rigParty 2 with partnerParted := parted } }
  s.setAct 2 { rigAct with core := 0, slot := 7, asw := 0x62, party := some (rigParty 1) }

/-- The same in a gang flagged BSP. -/
def rigBsp : State := rig.setGang 1 { rig.gang 1 with lrec := { (rig.gang 1).lrec with bsp := true } }

/-! ## That nothing holds a word back -/

/-- The context of each machine. -/
abbrev A : Act := rig.act 1

/-- No other context is like it. -/
theorem act_of_eq {a : Act} {s : State} (h : s.acts = [(1, a)]) (hne : a ≠ {}) : ∀ aid, s.act aid = a → aid = 1 := by
  intro aid he
  by_cases h1 : aid = 1
  · exact h1
  · simp [State.act, h, tableGet?, h1] at he
    exact absurd he.symm hne

theorem rig_act {aid : Nat} (h : rig.act aid = A) : aid = 1 := act_of_eq rfl (by decide +kernel) aid h

/-- A computation that succeeds has a result. -/
theorem ok_of {ε α : Type} {e : Except ε α} (h : e.toBool = true) : ∃ a, e = .ok a := by
  cases e with
  | ok a => exact ⟨a, rfl⟩
  | error _ => cases h

theorem ok_eq {ε α : Type} {e : Except ε α} {a : α} (h : e.toOption = some a) : e = .ok a := by
  cases e with
  | ok b => simp only [Except.toOption, Option.some.injEq] at h; rw [h]
  | error _ => simp only [Except.toOption] at h; cases h

/-- Every combination of waits that a word's meaning asks for. -/
def needs : List Need :=
  [{}, { memWord := true }, { release := true }, { memWord := true, release := true }, { allTags := true }, { divider := true },
   { matrix := true }, { memWord := true, matrix := true }, { exit := true }]

def clearB (s : State) (c aid : Nat) (i : Instr) (cl : Clauses) (n : Need) : Bool :=
  s.current == some (c, aid) && (s.waits c aid (s.act aid) cl n).isNone
    && (deadTrap (s.act aid) (sources (s.act aid) i cl)).isNone && (poisonTrap (s.act aid) (sources (s.act aid) i cl)).isNone

theorem clear_of_clearB {s : State} {c aid : Nat} {i : Instr} {cl : Clauses} {n : Need} (h : clearB s c aid i cl n = true) :
    s.Clear c aid i cl n := by
  simp only [clearB, Bool.and_eq_true, beq_iff_eq, Option.isNone_iff_eq_none] at h
  exact ⟨h.1.1.1, h.1.1.2, h.1.2, h.2⟩

/-- Every one of these words is clear in a state, whatever it waits for. -/
theorem clear_all {s : State} {c aid : Nat} {cl : Clauses} {l : List Instr}
    (h : l.all (fun i => needs.all (fun n => clearB s c aid i cl n)) = true) :
    ∀ i ∈ l, ∀ n ∈ needs, s.Clear c aid i cl n := by
  intro i hi n hn
  exact clear_of_clearB (List.all_eq_true.mp (List.all_eq_true.mp h i hi) n hn)

/-! ## Words: the hypotheses of the completion statements are met -/

/-- ScalarArithmeticCompletes: nothing holds these words back; CRC32C at the greatest mod. -/
theorem witness_ScalarArithmeticCompletes : ∀ i ∈
    [Instr.add 1 2 3 cl0, .sub 1 2 3 cl0, .addi 1 2 5 cl0, .mul 1 2 3 cl0, .mulh 1 4 5 cl0, .mulhu 1 4 5 cl0, .and 1 2 3 cl0,
     .or 1 2 3 cl0, .xor 1 2 3 cl0, .andi 1 2 3 cl0, .ori 1 2 3 cl0, .xori 1 2 3 cl0, .sll 1 2 12 cl0, .srl 1 2 12 cl0,
     .sra 1 4 12 cl0, .slli 1 2 63 cl0, .srli 1 2 63 cl0, .srai 1 4 63 cl0, .bfx 0 1 2 0 cl0, .bfx 1 1 2 0 cl0,
     .bfi 1 2 3 0 cl0, .crc32c 0 1 2 3 cl0, .crc32c 3 1 2 3 cl0, .div 1 2 0 cl1, .divu 1 2 3 cl1, .rem 1 5 4 cl1,
     .remu 1 2 0 cl1], ∀ n ∈ needs, ∀ cl ∈ [cl0, cl1], rig.Clear 0 1 i cl n := by
  intro i hi n hn cl hc
  rcases List.mem_cons.mp hc with rfl | hc
  · exact clear_all (by decide +kernel) i hi n hn
  · rw [List.mem_singleton.mp hc]
    exact clear_all (by decide +kernel) i hi n hn

/-- CompareAndMaskRules: each mod, and the first reserved ones. -/
theorem witness_CompareAndMaskRules :
    (∀ i ∈
      [Instr.cmp 0 1 2 3 cl0, .cmp 11 1 2 3 cl0, .cmpi 0 1 2 3 cl0, .cmpi 11 1 2 3 cl0, .plog 0 1 2 1 cl0, .plog 7 1 2 1 cl0,
       .pmov 0 1 2 cl0, .pmov 1 1 2 cl0, .pmov 2 1 2 cl0], ∀ n ∈ needs, rig.Clear 0 1 i cl0 n) ∧
    (12 ≤ (12 : BitVec 4).toNat ∧ 8 ≤ (8 : BitVec 4).toNat ∧ 3 ≤ (3 : BitVec 4).toNat) :=
  ⟨clear_all (by decide +kernel),
   (by decide)⟩

/-- ControlWordsComplete: IDENT at the greatest mod; CHK with an index at its bound and below it. -/
theorem witness_ControlWordsComplete :
    (∀ i ∈
      [Instr.tgt 1 5 cl0, .tgtr 1 2 cl0, .movb 0 1 2 cl0, .movb 1 1 1 cl0, .movb 2 1 1 cl0, .lcset 1 2 cl0, .lkmov 0 1 0 cl0,
       .lkmov 1 0 1 cl0, .lkmov 2 1 0 cl0, .lkmov 3 0 1 cl0, .nop cl0, .time 0 1 cl0, .time 1 1 cl0, .time 2 1 cl0,
       .ident 0 1 cl0, .ident 11 1 cl0, .rand 0 1 2 cl0, .rand 1 1 2 cl0, .iflush cl0, .liveq 0 1 cl0, .liveq 4 1 cl0,
       .spdrd 0 1 2 0 cl0, .spdrd 1 1 2 0 cl0, .spdrd 2 1 2 3 cl0, .deadmk 0 1 cl0, .deadmk 4 1 cl0, .chk 3 1 2 5 cl0],
      ∀ n ∈ needs, rig.Clear 0 1 i cl0 n) ∧
    (A.s 1 < A.s 2 ∧ A.s 2 ≤ A.s 2 ∧ ((4, RegFile.k, 16) : BitVec 4 × RegFile × Nat) ∈
        ([(0, .s, 64), (1, .v, 32), (2, .p, 8), (3, .b, 8), (4, .k, 16)] : List (BitVec 4 × RegFile × Nat))) :=
  ⟨clear_all (by decide +kernel),
   (by decide +kernel)⟩

/-- A quad whose BRK halts it. -/
def rigBrk : State := rig.setQuad 0 { rig.quad 0 with qdctl := 2 }

/-- A handler's context in S mode that would return to M mode. -/
def rigRet : State := rigAt 0 0 { rigAct with asw := 0x41, trap := { svasw := 2 } }

/-- TrapAndYieldWordsComplete: in M mode, in U mode and in a visitor slot. -/
theorem witness_TrapAndYieldWordsComplete :
    (∀ i ∈
      [Instr.trap 9 cl0, .brk 9 cl0, .yield cl0, .wfi cl0, .exit cl0, .tret cl0], ∀ n ∈ needs,
      rig.Clear 0 1 i cl0 n ∧ rigU.Clear 0 1 i cl0 n ∧ rigBrk.Clear 0 1 i cl0 n ∧ (rigVisit false).Clear 0 1 i cl0 n
        ∧ rigRet.Clear 0 1 i cl0 n) ∧
    ((rig.quad 0).qdctl.getLsbD 1 = false ∧ (rigBrk.quad (coreQuad 0)).qdctl.getLsbD 1 = true ∧ A.mode ≠ 0
        ∧ (rigU.act 1).mode = 0 ∧ A.visitor = false ∧ ((rigVisit false).act 1).visitor = true
        ∧ (bits A.trap.svasw 1 0 ≤ A.mode ∧ bits A.trap.svasw 1 0 ≠ 3)
        ∧ (rigRet.act 1).mode < bits (rigRet.act 1).trap.svasw 1 0) :=
  ⟨fun i hi n hn =>
  ⟨clear_all (by decide +kernel) i hi n hn, clear_all (by decide +kernel) i hi n hn, clear_all (by decide +kernel) i hi n hn,
   clear_all (by decide +kernel) i hi n hn, clear_all (by decide +kernel) i hi n hn⟩,
   (by decide +kernel)⟩

/-- SystemRegistersComplete: registers read and written in M mode and refused in U mode; ASW with an allowed and with a forbidden
change. -/
theorem witness_SystemRegistersComplete :
    (∀ i ∈
      [Instr.srd 1 0 cl0, .srd 1 0x10 cl0, .swr 6 0 cl0, .swr 7 0 cl0, .swr 1 0x02 cl0, .swr 1 0x33 cl0, .srset 1 0x1B cl0,
       .srclr 1 0x1B cl0], ∀ n ∈ needs, rig.Clear 0 1 i cl0 n ∧ rigU.Clear 0 1 i cl0 n) ∧
    ((sysKnown A.core 0x10 = true ∧ sysReadMode 0x10 ≤ A.mode) ∧
      (sysKnown A.core 0x10 = true ∧ (rigU.act 1).mode < sysReadMode 0x10) ∧
      (∀ n ∈ [0x02, 0x10, 0x11, 0x12, 0x13, 0x14, 0x15, 0x16, 0x17, 0x18, 0x19, 0x1A, 0x1B, 0x1C, 0x33],
        n < 4096 ∧ sysWriteMode n ≤ A.mode) ∧
      (sysReadOnly 0x01 = true ∧ rig.current = some (0, 1)) ∧
      (sysKnown A.core 0x1B = true ∧ sysReadOnly 0x1B = false ∧ (rigU.act 1).mode < sysWriteMode 0x1B) ∧
      ((A.asw ^^^ (A.s 6 &&& 0xFBFF)) &&& ~~~(0xFB40 : Word64) = 0) ∧
      ((A.asw ^^^ (A.s 0 &&& 0xFBFF)) &&& ~~~(0xFB40 : Word64) ≠ 0)) :=
  ⟨fun i hi n hn =>
  ⟨clear_all (by decide +kernel) i hi n hn, clear_all (by decide +kernel) i hi n hn⟩,
   (by decide +kernel)⟩

/-- PartitionRegistersComplete: on a compute core and on an armature core, in M mode and in U mode. -/
theorem witness_PartitionRegistersComplete :
    (∀ i ∈
      [Instr.swr 1 0x30 cl0, .swr 1 0x32 cl0, .swr 1 0x34 cl0, .swr 1 0x40 cl0, .swr 1 0x41 cl0, .mchk 0 1 cl0, .mchk 1 1 cl0,
       .xalm 0 5 cl0, .xalm 1 5 cl0], ∀ n ∈ needs,
      rig.Clear 0 1 i cl0 n ∧ rigU.Clear 0 1 i cl0 n ∧ rigM.Clear 2048 1 i cl0 n) ∧
    (A.mode = 2 ∧ (rig.part A.part).otinv.length < 16 ∧ ((rigM.act 1).mode = 2 ∧ 2048 ≤ (rigM.act 1).core)
        ∧ (rigU.act 1).mode = 0) :=
  ⟨fun i hi n hn =>
  ⟨clear_all (by decide +kernel) i hi n hn, clear_all (by decide +kernel) i hi n hn, clear_all (by decide +kernel) i hi n hn⟩,
   (by decide +kernel)⟩

/-- The last line of local memory holds poison. -/
def rigPoison : State := rig.setCore 0 { rig.core 0 with lmPoison := [(0x1FFC0 / 64, true)] }

/-- LocalScalarAccessCompletes: at both ends of the allocations; with a poisoned line; a block tag with a sound block word. -/
theorem witness_LocalScalarAccessCompletes :
    (∀ i ∈
      [Instr.ldl 3 1 8 0 cl0, .stl 3 8 1 0 cl0, .ldq 3 1 8 0 cl1, .stq 3 8 1 0 cl1, .vldq 1 8 1 4 cl1, .vldq 1 8 1 18 cl1,
       .vstq 0 8 1 0 cl1], ∀ n ∈ needs, ∀ cl ∈ [cl0, cl1], rig.Clear 0 1 i cl n) ∧
    ((A.lmAddr 0 8 = some 0 ∧ A.lmAddr 0x1FFF8 8 = some 0x1FFF8 ∧ rig.lmBusy 0 0x1FFF8 8 true = false
        ∧ rig.lmPoisonOf 0 0x1FFF8 8 = none) ∧
      (rigPoison.lmPoisonOf 0 0x1FFF8 8).isSome = true ∧
      (A.qsBase ≤ 0x1FFF8 ∧ 0x1FFF8 + 8 ≤ A.qsBase + A.qsLen) ∧
      (tagKnown 4 = true ∧ tagBlock 4 = false ∧ tagKnown 18 = true ∧ tagBlock 18 = true ∧ bwOk 18 ((A.s 1).setWidth 32) = true)) :=
  ⟨(by
  intro i hi n hn cl hc
  rcases List.mem_cons.mp hc with rfl | hc
  · exact clear_all (by decide +kernel) i hi n hn
  · rw [List.mem_singleton.mp hc]
    exact clear_all (by decide +kernel) i hi n hn),
   (by
  decide +kernel)⟩

/-- LocalVectorAccessCompletes: plain, bounded in each mode (v4 lies within the bound of b1, and outside it in b3 when it
traps), gathers and scatters with every element active, and ZEROL at its greatest length. -/
theorem witness_LocalVectorAccessCompletes :
    (∀ i ∈
      [Instr.vldl 1 8 1 18 cl0, .vstl 0 8 4 0 cl0, .zerol 8 11 cl0, .zerol 8 0 cl0, .vstl 0 8 4 17 cl0, .vstl 0 8 4 18 cl0,
       .vstl 0 8 5 19 cl0, .vstq 0 8 4 17 cl1, .vgathl 0 2 8 1 4 cl1, .vscatl 0 8 1 4 cl1],
      ∀ n ∈ needs, ∀ cl ∈ [cl0, cl1], rig.Clear 0 1 i cl n) ∧
    ((A.lmAddr 64 64 = some 64 ∧ rig.lmBusy 0 64 64 true = false ∧ rig.lmPoisonOf 0 64 64 = none
        ∧ (rigPoison.lmPoisonOf 0 0x1FFC0 64).isSome = true ∧ A.lmAddr 0x1FFC0 64 = some 0x1FFC0) ∧
      ((A.s 11).toNat = 65536 ∧ (A.s 11).toNat % 64 = 0 ∧ A.lmAddr 64 65536 = some 64 ∧ rig.lmBusy 0 64 65536 true = false) ∧
      (tagFloat (A.v 4).tag.toNat = true ∧ (A.bound 1).mode = 1 ∧ (A.bound 2).mode = 0 ∧ (A.bound 3).mode = 3) ∧
      (boundElems (A.bound 3) (A.v 5).tag.toNat (A.p 0) (elems (A.v 5).data 32 16)).2 ≠ 0 ∧
      ((A.v 1).tag = 4 ∧ tagWidth (A.v 4).tag.toNat = 32)) ∧
    ((∃ offs, indexedOffs A 0x4C (A.s 8) (elems (A.v 1).data 32 16) (A.p 0) = .ok offs) ∧
      (∃ offs, indexedOffs A 0x4D (A.s 8) (elems (A.v 1).data 32 16) (A.p 0) = .ok offs) ∧
      ∀ a n w, rig.lmBusy 0 a n w = false) :=
  ⟨(by
  intro i hi n hn cl hc
  rcases List.mem_cons.mp hc with rfl | hc
  · exact clear_all (by decide +kernel) i hi n hn
  · rw [List.mem_singleton.mp hc]
    exact clear_all (by decide +kernel) i hi n hn),
   (by decide +kernel),
   ⟨ok_of (by decide +kernel), ok_of (by decide +kernel), fun _ _ _ => rfl⟩⟩

/-- DeviceAccessCompletes, CapabilityFenceCacheComplete and AtomicsComplete: an access of every size reaches object 7. -/
theorem witness_Reaches : ∀ n ∈ ([1, 2, 4, 8, 16, 64] : List Nat), ∀ need ∈ [rR, rW, rR + rC, rW + rC, 8 + 2, 8 + 2 + 64],
    ∀ atom ∈ [0, 1, 2, 3], ∀ write : Bool, rig.Reaches 0 A 1 need 64 n write atom rigOtc 64 := by
  intro n hn need hd atom ha write
  have h : ∀ n ∈ ([1, 2, 4, 8, 16, 64] : List Nat), ∀ need ∈ [rR, rW, rR + rC, rW + rC, 8 + 2, 8 + 2 + 64], ∀ atom ∈ [0, 1, 2, 3],
      ∀ write : Bool, hasRights (A.k 1).rights need = true ∧ ((A.k 1).lo : Int) + (64 : Word64).toInt + n ≤ (A.k 1).hi ∧ 64 % n = 0
        ∧ rig.lookup 0 A.part { object := (A.k 1).object, offset := 64, bytes := n, write := write, atom := atom } = .hit rigOtc := by
    decide +kernel
  obtain ⟨h1, h2, h3, h4⟩ := h n hn need hd atom ha write
  exact ⟨by decide +kernel, by decide +kernel, h1, by decide +kernel, h2, by decide +kernel, h3, h4⟩

/-- A core with object 7's line in its L1. -/
def rigL1 : State := rig.setCore 0 { rig.core 0 with l1 := [((rigOtc.addr 64) / 64, { fill := 0, data := List.replicate 64 3 })] }

theorem witness_DeviceAccessCompletes :
    (∀ i ∈
      [Instr.ld 3 1 1 8 0 cl1, .ld 11 1 1 8 0 cl1, .vld 1 1 8 1 4 cl1, .vld 1 1 8 1 18 cl1, .st 3 1 8 1 0 cl1, .st 11 1 8 1 0 cl1,
       .vst 0 1 8 4 0 cl1, .vst 0 1 8 4 17 cl1], ∀ n ∈ needs, rig.Clear 0 1 i cl1 n ∧ rigL1.Clear 0 1 i cl1 n) ∧
    (rig.portLine 0 (rigOtc.addr 64 / 64) = none ∧ (rigL1.portLine 0 (rigOtc.addr 64 / 64)).isSome = true
        ∧ rigL1.lookup 0 0 { object := 7, offset := 64, bytes := 64, write := false } = .hit rigOtc) :=
  ⟨fun i hi n hn =>
  ⟨clear_all (by decide +kernel) i hi n hn, clear_all (by decide +kernel) i hi n hn⟩,
   (by decide +kernel)⟩

/-- A core whose translation says that object 7 ends after 64 bytes. -/
def rigSmallObj : State := rig.setCore 0 { rig.core 0 with otc := [{ rigOtc with size := 64 }] }

theorem witness_CapabilityFenceCacheComplete :
    (∀ i ∈
      [Instr.cld 2 1 8 0 cl1, .cst 1 8 1 0 cl1, .cnarrow 2 1 8 8 127 cl1, .cnarrow 3 3 8 8 127 cl1, .cnarrow 2 2 8 8 0 cl1,
       .cget 0 1 1 cl1, .cget 7 1 1 cl1, .csetc 2 1 2 cl1, .movk 0 2 1 cl1, .movk 1 2 1 cl1, .fence 16 cl1, .fence 32 cl1,
       .fence 48 cl1, .pfetch 0 1 8 cl1, .pfetch 1 1 8 cl1, .pfetch 0 3 8 cl1, .cinv 0 1 8 cl1, .cinv 1 1 8 cl1, .cinv 1 3 8 cl1],
      ∀ n ∈ needs, rig.Clear 0 1 i cl1 n) ∧
    (((A.k 1).valid = true ∧ (A.k 1).lo + 64 + 64 ≤ (A.k 1).hi ∧ (A.k 2).valid = true ∧ (A.k 2).lo + 64 + 64 > (A.k 2).hi
        ∧ (A.k 3).valid = false) ∧
      (∀ o ∈ [1, 2, 3], ordOf (BitVec.ofNat 16 (16 * o)) = o) ∧
      rig.lineOf 0 A 1 64 0 = some (rigOtc, 64) ∧ rig.lineOf 0 A 3 64 0 = none
        ∧ rigOtc.path ≠ .window ∧ (rig.touch 0 rigOtc).reqs = []) ∧
    (∀ o ∈ [64, 128, 0x10000], capCheck (A.k 1) 1 rR 0x5B (BitVec.ofNat 64 o) 1 = .ok o) ∧
    (let byte (o : Nat) : Access := { object := (A.k 1).object, offset := o, bytes := 1, write := false }
     (∃ t, capCheck (A.k 3) 3 rR 0x5B (A.s 8) 1 = .error t) ∧ (∃ t, rigSmallObj.lookup 0 A.part (byte 128) = .fault t)
       ∧ rig.lookup 0 A.part (byte 0x10000) = .miss ∧ rig.lookup 0 A.part (byte 64) = .hit rigOtc
       ∧ rigSmallObj.Clear 0 1 (.pfetch 0 1 9 cl1) cl1 {} ∧ rig.Clear 0 1 (.pfetch 1 1 11 cl1) cl1 {}) :=
  ⟨clear_all (by decide +kernel), by decide +kernel,
   fun o ho => ok_eq (by revert o; decide +kernel),
   ⟨mkTrap cCAPTAG 3, rfl⟩, ⟨objTrap cOBJPROT { object := 7, offset := 128, bytes := 1, write := false }, by decide +kernel⟩,
   by decide +kernel, by decide +kernel, clear_of_clearB (by decide +kernel), clear_of_clearB (by decide +kernel)⟩

theorem witness_AtomicsComplete : ∀ i ∈
    [Instr.aadd 8 1 1 8 2 0 cl1, .alog 2 1 1 8 2 0 cl1, .amnx 11 1 1 8 2 6 cl1, .aswp 0 1 1 8 2 16 cl1, .acas 8 1 1 8 2 32 cl1,
     .afadd 0 0 1 8 2 0 cl1, .afadd 1 1 1 8 2 0 cl1, .signal 1 8 2 0 cl1, .waitmem 5 1 1 8 2 16 cl1], ∀ n ∈ needs,
    rig.Clear 0 1 i cl1 n := clear_all (by decide +kernel)

/-- VectorArithmeticCompletes, VectorExtremesSignsFunctions, VectorLogicAndShifts, VectorMaskWords, VectorElementMoves and
VectorReductionsAndConversion: integer, floating-point and RAW sources, merging into a destination of the result's tag. -/
theorem witness_VectorArithmeticCompletes : (∀ i ∈
    [Instr.vadd 8 3 1 2 1 cl0, .vsub 0 3 1 2 0 cl0, .vmul 0 3 1 2 0 cl0, .vfma 0 3 1 2 3 1 cl0, .vfms 0 3 1 2 3 0 cl0,
     .vabs 0 3 1 0 cl0, .vneg 8 3 1 0 cl0, .vadd 8 6 4 5 0 cl0, .vsub 0 6 4 5 0 cl0, .vmul 0 6 4 5 0 cl0,
     .vfma 0 6 4 5 6 0 cl0, .vfms 8 6 4 5 6 0 cl0, .vadd 0 3 7 7 0 cl0, .vadd 0 6 4 5 1 cl0], ∀ n ∈ needs,
      rig.Clear 0 1 i cl0 n) ∧
    (tagInt (A.v 1).tag.toNat = true ∧ (A.v 2).tag = (A.v 1).tag ∧ (A.v 3).tag = (A.v 1).tag) ∧
    (tagFloat (A.v 4).tag.toNat = true ∧ (A.v 5).tag = (A.v 4).tag ∧ (A.v 6).tag = (A.v 4).tag) ∧
    (tagInt (A.v 7).tag.toNat = false ∧ tagFloat (A.v 7).tag.toNat = false) ∧
    MergeOk A 8 3 (A.v 1).tag ∧ MergeOk A 8 6 (A.v 4).tag ∧ MergeOk A 0 7 (A.v 4).tag :=
  ⟨clear_all (by decide +kernel), by decide +kernel, by decide +kernel, by decide +kernel, fun _ => by decide +kernel,
   fun _ => by decide +kernel, fun h => absurd h (by decide)⟩

theorem witness_VectorExtremesSignsFunctions : (∀ i ∈
    [Instr.vmin 0 3 1 2 cl0, .vmax 8 3 1 2 cl0, .vmin 0 6 4 5 cl0, .vmax 0 6 4 5 cl0, .vabs 8 6 4 0 cl0, .vneg 0 6 4 0 cl0,
     .vrcp 0 6 4 cl0, .vrsq 0 6 4 cl0, .vexp2 0 6 4 cl0, .vlog2 8 6 4 cl0, .vrcp 0 6 1 cl0], ∀ n ∈ needs,
      rig.Clear 0 1 i cl0 n) ∧
    (tagInt (A.v 1).tag.toNat = true ∧ (A.v 2).tag = (A.v 1).tag ∧ tagFloat (A.v 4).tag.toNat = true
      ∧ (A.v 5).tag = (A.v 4).tag ∧ tagFloat (A.v 1).tag.toNat = false) ∧ MergeOk A 8 3 (A.v 1).tag ∧ MergeOk A 8 6 (A.v 4).tag :=
  ⟨clear_all (by decide +kernel), by decide +kernel, fun _ => by decide +kernel, fun _ => by decide +kernel⟩

theorem witness_VectorLogicAndShifts : (∀ i ∈
    [Instr.vand 0 3 7 9 cl0, .vor 8 3 1 2 cl0, .vxor 0 3 4 9 cl0, .vshl 0 3 1 2 0 cl0, .vshr 0 3 1 2 64 cl0,
     .vshl 0 3 1 2 0x803F cl0, .vshr 8 3 1 2 0x8020 cl0], ∀ n ∈ needs, rig.Clear 0 1 i cl0 n) ∧
    (tagInt (A.v 1).tag.toNat = true ∧ (A.v 2).tag = (A.v 1).tag) ∧ MergeOk A 8 3 (A.v 1).tag ∧ MergeOk A 0 3 (A.v 7).tag :=
  ⟨clear_all (by decide +kernel), by decide +kernel, fun _ => by decide +kernel, fun h => absurd h (by decide)⟩

theorem witness_VectorMaskWords : (∀ i ∈
    [Instr.vcmp 0 1 1 2 0 cl0, .vcmp 5 1 1 2 0 cl0, .vcmp 7 1 4 5 1 cl0, .vsel 3 1 2 1 cl0, .vmovp 0 1 4 cl0, .vmovp 1 3 1 cl0,
     .vbnd 0 1 4 1 0 cl0, .vbnd 1 3 10 1 0 cl0], ∀ n ∈ needs, rig.Clear 0 1 i cl0 n) ∧
    (tagInt (A.v 1).tag.toNat = true ∧ (A.v 2).tag = (A.v 1).tag ∧ (6 ≤ (5 : BitVec 4).toNat → tagInt (A.v 1).tag.toNat = false)) ∧
    (tagFloat (A.v 4).tag.toNat = true ∧ (A.v 5).tag = (A.v 4).tag ∧ tagInt (A.v 4).tag.toNat = false) ∧
    tagBlock (A.v 1).tag.toNat = false ∧ tagFp8 (A.v 10).tag.toNat = true :=
  ⟨clear_all (by decide +kernel), by decide +kernel, by decide +kernel, by decide +kernel, by decide +kernel⟩

theorem witness_VectorElementMoves : (∀ i ∈
    [Instr.vbcast 0 3 1 10 cl0, .vbcast 1 3 11 63 cl0, .vextr 0 1 1 0 15 cl0, .vextr 1 1 1 0 15 cl0, .vextr 2 1 1 2 0 cl0,
     .vextr 3 1 1 2 0 cl0, .vextr 4 1 9 0 0 cl0, .vins 0 1 2 0 15 cl0, .vins 1 1 2 3 0 cl0, .vins 2 9 1 0 0 cl0,
     .vperm 8 8 8 8 cl0, .vperm 0 11 11 7 cl0, .vretag 3 1 1 22 cl0, .vretag 3 1 0 0 cl0, .vplane 0 1 9 0 7 cl0,
     .vplane 1 9 1 0 3 cl0, .vplane 1 7 1 0 7 cl0, .vplane 2 9 7 1 16 cl0], ∀ n ∈ needs, rig.Clear 0 1 i cl0 n) ∧
    ((A.v 1).tag.toNat ≠ 0 ∧ (A.v 11).tag.toNat ≠ 0 ∧ tagBlock (A.v 9).tag.toNat = true
      ∧ bwOk (A.v 9).tag.toNat ((A.s 1).setWidth 32) = true) ∧
    ((A.v 8).tag.toNat ≤ 2 ∧ (A.v 7).tag.toNat ≤ 2 ∧ (A.v 11).bw.toNat % 512 = (A.v 11).bw.toNat / 2 ^ 16 % 512) ∧
    (tagKnown 22 = true ∧ bwOk 22 ((A.s 1).setWidth 32) = true ∧ tagKnown 0 = true ∧ tagBp 16 = true
      ∧ bwOk 16 ((A.s 1).setWidth 32) = true) ∧
    (tagBp (A.v 9).tag.toNat = true ∧ 3 < (A.v 9).tag.toNat - 14) ∧ MergeOk A 8 8 (A.v 8).tag :=
  ⟨clear_all (by decide +kernel), by decide +kernel, by decide +kernel, by decide +kernel, by decide +kernel, fun _ => by decide +kernel⟩

/-- A conversion that widens (part 3 of four), one that narrows, and one of equal count, with drawn rounding. -/
theorem witness_VectorReductionsAndConversion : (∀ i ∈
    [Instr.vreduce 0 1 1 0 cl0, .vreduce 0 1 4 2 cl0, .vscan 0 3 1 1 cl0, .vscan 0 3 4 0 cl0, .vqscale 0 1 4 2 cl0,
     .vcvt 4 8 4 0 (1 + 3 * 32) cl0, .vcvt 5 3 8 0 4 cl0, .vcvt 0 6 1 0 6 cl0, .vcvt 0 11 4 0 11 cl0], ∀ n ∈ needs,
      rig.Clear 0 1 i cl0 n) ∧
    (tagInt (A.v 1).tag.toNat = true ∧ tagFloat (A.v 4).tag.toNat = true) ∧
    (cvtParts (tagCount 6) (tagCount 1) 3 = some (List.range 16, 48) ∧ (A.v 8).tag.toNat = 1 ∧ tagBp 1 = false) ∧
    (cvtParts (tagCount 1) (tagCount 4) 0).isSome = true ∧ (cvtParts (tagCount 4) (tagCount 6) 0).isSome = true ∧
    bwOk 11 ((A.s 0).setWidth 32) = true ∧ (16 < 64 ∧ 3 < 64 / 16) :=
  ⟨clear_all (by decide +kernel), by decide +kernel, by decide +kernel, by decide +kernel, by decide +kernel, by decide +kernel,
   by decide⟩

/-- A generator in the middle of a forward and of an inverse enumeration, and without one; a cutter that is not set. -/
def rigGen (order : Nat) : State :=
  rigAt 0 0 { rigAct with gen := { rigAct.gen with cursor := BitVec.ofNat 64 (order * 2 ^ 62) }, cut := {} }

/-- A machine whose generator holds no program. -/
def rigBare : State := rigAt 0 0 { rigAct with gen := {} }

/-- PLOAD from local memory and from the scratchpad: a program of one instruction and END that passes validation. -/
theorem witness_GeneratorAndCutterComplete :
    ((∀ i ∈
      [Instr.pload 0 19 cl1, .pload 1 19 cl1, .pset 1 7 cl1, .pset 1 8 cl1, .pget 1 8 cl1, .pget 1 0 cl1, .pcount 1 0 0 cl1,
       .pgen 0 4 0 cl1, .pgen 1 4 0 cl1, .pgen 2 4 0 cl1, .pinv 0 1 9 0 cl1, .pinv 0 1 1 2 cl1, .pinv 1 1 1 2 cl1,
       .cutset 13 0 cl1, .cutset 1 0 cl1, .cut 1 30 2 cl1], ∀ n ∈ needs,
        rig.Clear 0 1 i cl1 n ∧ rigBare.Clear 0 1 i cl1 n ∧ (rigGen 1).Clear 0 1 i cl1 n ∧ (rigVisit false).Clear 0 1 i cl1 n) ∧
      (A.visitor = false ∧ A.gen.loaded = true ∧ A.gen.pat.limits = none ∧ A.cut.isSet = true ∧ A.gen.inv = true) ∧
      (bits (A.s 1) 63 48 = 0 ∧ bits (A.s 0) 63 38 = 0 ∧ bits A.gen.cursor 63 62 = 0
        ∧ bits ((rigGen 1).act 1).gen.cursor 63 62 = 1 ∧ bits ((rigGen 2).act 1).gen.cursor 63 62 = 2
        ∧ ((rigGen 1).act 1).cut.isSet = false) ∧
      (A.gen.rows ≤ (A.s 9).toNat ∧ ((A.s 1).toNat < A.gen.rows ∧ (A.s 2).toNat < A.gen.cols
        ∧ A.gen.pat.mem (A.s 1).toNat (A.s 2).toNat = true)) ∧
      (bits (A.s 13) 63 56 = 0 ∧ bits (A.s 13) 35 24 = 0 ∧ bits (A.s 13) 47 36 = 64 ∧ bits (A.s 13) 23 0 % 64 = 0
        ∧ bits (A.s 13) 23 0 < A.gen.rows ∧ bits (A.s 1) 47 36 < 64) ∧
      (((rigVisit false).act 1).visitor = true ∧ (rigBare.act 1).gen.loaded = false)) ∧
    (∀ quad : Bool,
      hatchRead rig 0 A quad 32 (A.s 19) = .ok [(0x2000, 0x100C0000), (0x2004, 0)] ∧ hatchFault [0x100C0000, 0] = none
        ∧ hatchPoison rig 0 A quad [0x2000, 0x2004] = none ∧ (∀ aid, rig.act aid = A → rig.qsBusy aid = false)
        ∧ rig.lmBusy 0 0x2000 128 false = false) :=
  ⟨⟨fun i hi n hn => ⟨clear_all (by decide +kernel) i hi n hn, clear_all (by decide +kernel) i hi n hn,
    clear_all (by decide +kernel) i hi n hn, clear_all (by decide +kernel) i hi n hn⟩, by decide +kernel, by decide +kernel,
   by decide +kernel, by decide +kernel, by decide +kernel⟩,
   fun quad => ⟨ok_eq (by revert quad; decide +kernel), by decide +kernel, by revert quad; decide +kernel, fun _ _ => rfl, rfl⟩⟩

/-- MatrixProductsComplete: a dense product of 64 rows by 32 and a sparse one of a cut with three members, from local memory,
with b from local memory and from the bound stage. -/
theorem witness_MatrixProductsComplete : (∀ i ∈
    [Instr.mma 0 0 0 10 cl1, .mmat 0 0 0 10 cl1, .mma 4 0 0 10 cl1, .mmas 0 0 18 0 10 cl1, .mmast 0 0 18 0 10 cl1], ∀ n ∈ needs,
      rig.Clear 0 1 i cl1 n) ∧
    A.Owns [0] ∧
    (productFormat A (rig.tile 0 (A.tile 0)).i32 true false = none ∧ productFormat A (rig.tile 0 (A.tile 0)).i32 true true = none
      ∧ productFormat A (rig.tile 0 (A.tile 0)).i32 false false = none ∧ stageFault rig A = none) ∧
    cutMembers rig A false (A.s 18) (A.s 0) = .ok [(0, 0), (0, 1), (1, 1)] ∧
    cutMembers rig A true (A.s 18) (A.s 0) = .ok [(0, 0), (0, 1), (1, 1)] ∧
    (∀ aid, rig.act aid = A → rig.Captures 0 aid A
      { quad := false, base := A.s 0, fmt := A.fa, first := 0, count := 64 * 32, side := 64 * 32, planes := 8 * 32 }
      { quad := false, base := A.s 10, fmt := A.fb, first := 0, count := 64 * 32, side := 4096 + 64 * 32 }) ∧
    (∀ aid, rig.act aid = A → rig.Captures 0 aid A
      { quad := false, base := A.s 10, fmt := A.fa, first := 0, count := 3, side := 4096, planes := 0 }
      { quad := true, base := 0, fmt := A.fb, first := 0, count := 64 * 2, side := 64 * 2 * 2, rows := some 2 }) := by
  refine ⟨clear_all (by decide +kernel), ⟨by decide +kernel, by decide +kernel⟩, by decide +kernel, ok_eq (by decide +kernel),
    ok_eq (by decide +kernel), fun aid h => ?_, fun aid h => ?_⟩ <;> rw [rig_act h] <;> constructor <;> decide +kernel

/-- Bytes whose last line is a sound header hold an image. -/
theorem image_of {bs : List Byte} (h : ((bs.drop 16384).headD 0).toNat ≤ 1 ∧ ((bs.drop 16384).drop 1).any (· != 0) = false) :
    ∃ u, tileFromImage bs = some u := by
  simp only [tileFromImage, Nat.not_lt.mpr h.1, h.2, or_self, if_false, Bool.false_eq_true]
  exact ⟨_, rfl⟩

/-- TileMovesComplete: FP32 rows of a whole tile, one tile tagged I32, images in local memory, the scratchpad and device
memory. -/
theorem witness_TileMovesComplete : (∀ i ∈
    [Instr.mlda 0 0 8 21 cl1, .msta 0 0 8 21 0 cl1, .mstq 0 0 8 21 16 cl1, .msta 4 1 8 21 0 cl1, .mrowv 0 4 0xFF cl1,
     .mvrow 3 1 0xFF cl1, .msave 0 0 8 0 cl1, .msave 1 0 8 0 cl1, .msave 2 0 8 1 cl1, .mrest 0 0 8 0 cl1, .mrest 1 0 8 0 cl1,
     .mrest 2 0 8 1 cl1], ∀ n ∈ needs, rig.Clear 0 1 i cl1 n) ∧
    A.Owns [0] ∧ A.Owns [1] ∧ A.Owns [7] ∧
    ((rig.tile 0 (A.tile 0)).i32 = false ∧ (rig.tile 0 (A.tile 1)).i32 = true ∧ (A.v 4).tag.toNat = 6) ∧
    (∀ o ∈ (List.range A.mr).map (fun i => (A.s 8 + BitVec.ofNat 64 i * A.s 21).toNat),
      (A.lmAddr o (A.nc * tileWidth 0)).isSome = true ∧ A.qsOk o (A.nc * tileWidth 0) = true
        ∧ rig.lmBusy 0 o (A.nc * tileWidth 0) true = false) ∧
    ((A.s 8).toNat % 64 = 0 ∧ (A.s 21).toNat % 64 = 0 ∧ A.lmAddr 64 16448 = some 64 ∧ rig.lmBusy 0 64 16448 true = false
      ∧ A.qsOk 64 16448 = true ∧ (rig.core 0).mqueue = []) ∧
    (∃ ls, rig.imageLines 0 A 1 rW 0x9B (A.s 8) true = .ok ls) ∧ (∃ ls, rig.imageLines 0 A 1 rR 0x9C (A.s 8) false = .ok ls) ∧
    (rig.lmPoisonOf 0 64 16448 = none ∧ (∃ u, tileFromImage (rig.lmRead 0 64 16448) = some u)
      ∧ rig.qsPoisonOf A.quad 64 16448 = none ∧ (∃ u, tileFromImage (rig.qsRead A.quad 64 16448) = some u)
      ∧ ∀ aid, rig.act aid = A → rig.qsBusy aid = false) :=
  ⟨clear_all (by decide +kernel), ⟨by decide +kernel, by decide +kernel⟩, ⟨by decide +kernel, by decide +kernel⟩,
   ⟨by decide +kernel, by decide +kernel⟩, by decide +kernel, by decide +kernel, by decide +kernel, ok_of (by decide +kernel),
   ok_of (by decide +kernel), by decide +kernel, image_of (by decide +kernel), by decide +kernel, image_of (by decide +kernel),
   fun _ _ => rfl⟩

theorem witness_TileArithmeticCompletes : (∀ i ∈
    [Instr.mzero 1 0 cl1, .maddt 0 0 0 2 cl1, .mscl 0 0 0 1 cl1, .mscl 1 0 1 1 cl1, .mbias 0 0 0 8 cl1, .mclamp 0 0 1 2 cl1,
     .mtrn 0 1 cl1, .mredr 0 3 0 cl1, .mdot 0 3 0 2 cl1, .mshape 15 cl1, .mfmt 17 cl1, .mstat 0 1 cl1, .mstat 6 1 cl1,
     .mstage 0 cl1, .mstage 8 cl1], ∀ n ∈ needs, rig.Clear 0 1 i cl1 n ∧ (rigVisit true).Clear 0 1 i cl1 n) ∧
    A.Owns [0, 1, 2] ∧
    ((rig.tile 0 (A.tile 2)).i32 = (rig.tile 0 (A.tile 0)).i32 ∧ (rig.tile 0 (A.tile 1)).i32 = true) ∧
    ((A.s 8).toNat % 64 = 0 ∧ A.lmAddr (A.s 8).toNat 256 = some 64 ∧ rig.lmBusy 0 64 256 false = false) ∧
    (A.s 15 &&& 0xFFFFFFFFF00FC0C0 = 0 ∧ A.s 17 &&& 0xE0E0 = 0 ∧ tagKnown (bits (A.s 17) 4 0) = true
      ∧ tagKnown (bits (A.s 17) 12 8) = true) ∧
    (bits (A.s 0) 31 4 = 0 ∧ A.rings.getLsbD 0 = true ∧ (rig.ring A.quad 0).f.toNat = 1 ∧ (rig.ring A.quad 0).e = 0
      ∧ bits (A.s 8) 31 4 ≠ 0) ∧ ((rigVisit true).act 1).visitor = true ∧ rig.restoring 0 = false ∧ A.gen.loaded = true :=
  ⟨fun i hi n hn => ⟨clear_all (by decide +kernel) i hi n hn, clear_all (by decide +kernel) i hi n hn⟩,
   ⟨by decide +kernel, by decide +kernel⟩, by decide +kernel, by decide +kernel, by decide +kernel, by decide +kernel,
   by decide +kernel⟩

/-- MeetingWordsComplete: each fault of a luggage descriptor, an empty one and none; with a partner that is here, and one that
has parted. -/
theorem witness_MeetingWordsComplete : (∀ i ∈
    [Instr.meet 0 3 1 0 4 0 cl1, .meet 0 3 1 16 4 0 cl1, .meet 0 3 1 1 4 0 cl1, .meet 0 3 1 14 4 0 cl1, .meet 0 3 1 22 4 0 cl1,
     .part cl1, .xreg 0 3 1 cl1, .xreg 1 1 1 cl1, .xreg 2 1 1 cl1, .xreg 3 1 1 cl1, .xvreg 3 1 cl1, .xlug 10 0 0 cl1,
     .xlug 10 0 8 cl1, .meetq 0 3 cl1, .meetq 3 3 cl1], ∀ n ∈ needs,
      rig.Clear 0 1 i cl1 n ∧ (rigVisit false).Clear 0 1 i cl1 n ∧ (rigVisit true).Clear 0 1 i cl1 n) ∧
    (A.visitor = false ∧ bits (A.s 1) 18 0 % 64 ≠ 0 ∧ bits (A.s 14) 63 36 ≠ 0 ∧ bits (A.s 14) 18 0 % 64 = 0
      ∧ bits (A.s 22) 18 0 % 64 = 0 ∧ bits (A.s 22) 35 20 % 64 = 0 ∧ bits (A.s 22) 63 36 = 0
      ∧ A.lmBase + A.lmLen < bits (A.s 22) 18 0 + bits (A.s 22) 35 20) ∧
    (let s := rigVisit false
     let x := s.act 1
     x.visitor = true ∧ x.mg = 4 ∧ x.party = some (rigParty 2) ∧ (rigParty 2).partnerParted = false ∧ (s.act 2).run ≠ .saved
       ∧ (s.act 2).live ⟨.s, 1⟩ = true ∧ (s.act 2).live ⟨.k, 1⟩ = true ∧ x.lmAddr 4096 64 = some 0x60000
       ∧ (s.act 2).party = some (rigParty 1) ∧ 0 + 64 ≤ (rigParty 1).len ∧ s.lmBusy 0 0x60000 64 true = false
       ∧ s.lmBusy 0 (visitorBase (s.act 2).slot + 0) 64 false = false) ∧
    (let x := (rigVisit true).act 1
     x.visitor = true ∧ x.mg = 4 ∧ x.party = some { rigParty 2 with partnerParted := true }) :=
  ⟨fun i hi n hn => ⟨clear_all (by decide +kernel) i hi n hn, clear_all (by decide +kernel) i hi n hn,
    clear_all (by decide +kernel) i hi n hn⟩, by decide +kernel, by decide +kernel, by decide +kernel⟩

theorem witness_BarrierWordsComplete : (∀ i ∈
    [Instr.bar 0 3 0 cl1, .barred 0 2 1 0xC0 cl1, .sstep 3 cl1, .barw 3 cl1, .bara 0 0 cl1], ∀ n ∈ needs,
      rig.Clear 0 1 i cl1 n ∧ rigB.Clear 0 1 i cl1 n ∧ rigBsp.Clear 0 1 i cl1 n) ∧
    (A.ap = false ∧ (rigB.act 1).ap = true ∧ (rig.gang A.gang).lrec.bsp = false
      ∧ (rigBsp.gang (rigBsp.act 1).gang).lrec.bsp = true ∧ (rigBsp.act 1).ap = false) :=
  ⟨fun i hi n hn => ⟨clear_all (by decide +kernel) i hi n hn, clear_all (by decide +kernel) i hi n hn,
    clear_all (by decide +kernel) i hi n hn⟩, by decide +kernel⟩

/-- A record that nothing is wrong with stands at 0x3000; the bytes at 0x9000 are no record. -/
theorem witness_WorkAndLaunchComplete : (∀ i ∈
    [Instr.take 3 cl1, .share 3 1 cl1, .launch 3 23 1 1 cl1, .launch 3 29 1 1 cl1, .launchq 3 23 1 1 cl1, .launchq 3 29 1 1 cl1,
     .launchq 3 23 3 1 cl1], ∀ n ∈ needs, rig.Clear 0 1 i cl1 n) ∧
    (let r := LaunchRec.ofBytes (rig.lmRead 0 0x3000 64)
     (A.s 23).toNat % 64 = 0 ∧ A.lmAddr (A.s 23).toNat 64 = some 0x3000 ∧ rig.lmBusy 0 0x3000 64 false = false
       ∧ rig.lmPoisonOf 0 0x3000 64 = none ∧ r.argPresent = false
       ∧ rig.launchDetail A (rig.lmRead 0 0x3000 64) r (A.k 1) (A.k 1) = none
       ∧ rig.launchDetail A (rig.lmRead 0 0x3000 64) r (A.k 3) (A.k 1) = none) ∧
    ((A.k 1).valid = true ∧ (A.k 1).reserved = false ∧ hasRights (A.k 1).rights rX = true ∧ (A.k 3).valid = false) ∧
    A.lmAddr (A.s 29).toNat 64 = some 0x9000 ∧
    (rig.launchDetail A (rig.lmRead 0 0x9000 64) (LaunchRec.ofBytes (rig.lmRead 0 0x9000 64)) (A.k 1) (A.k 1)).isSome = true :=
  ⟨clear_all (by decide +kernel), by decide +kernel, by decide +kernel, by decide +kernel, by decide +kernel⟩

/-- RangeCopiesComplete: 64 bytes between object 7 and local memory, and into the stage of ring 0; a matrix of two by one; one
window of one pixel; and an activity to which no channel was granted. -/
theorem witness_RangeCopiesComplete : (∀ i ∈
    [Instr.cpy 0 3 1 8 14 0 cl1, .cpy 4 3 1 8 24 0 cl1, .cpy 3 3 1 8 14 0xF0 cl1, .cpyt 0 3 1 8 25 0 cl1, .cpyw 0 3 1 8 26 0 cl1],
      ∀ n ∈ needs, rig.Clear 0 1 i cl1 n) ∧
    (rig.MayCopy A 0 [0] ∧ rig.MayCopy A 15 []) ∧
    (bits (A.s 14) 31 22 = 0 ∧ (A.s 8).toNat % 64 = 0 ∧ bits (A.s 14) 21 0 % 64 = 0 ∧ bits (A.s 14) 63 32 = 64) ∧
    (inStage rig A 0 64 64 0 = true ∧ inStage rig A 4 0 64 0 = true) ∧
    (devRange A 1 rR 0xAE (A.s 8) 64 = .ok 64 ∧ devRange A 1 rW 0xAE (A.s 8) 64 = .ok 64) ∧
    (localBase rig A 0xAE 0 64 64 0 = .ok 64 ∧ localBase rig A 0xAE 4 0 64 0 = .ok 0 ∧ localBase rig A 0xAE 3 64 64 0 = .ok 64) ∧
    (∃ ws, descWords rig 0 A 0xAF (A.s 25) = .ok ws ∧ bits (ws[0]?.getD 0) 63 58 = 0 ∧ bits (ws[0]?.getD 0) 43 32 = 1) ∧
    (∃ ws, descWords rig 0 A 0xB0 (A.s 26) = .ok ws ∧ 4 * 2 ^ bits (ws[0]?.getD 0) 23 22 ≠ 4 ∧ bits (ws[1]?.getD 0) 63 48 = 1
      ∧ bits (ws[2]?.getD 0) 15 0 = 1) ∧
    (descBusy rig 0 A (A.s 25) = false ∧ descBusy rig 0 A (A.s 26) = false) ∧ ({ A with rings := 0 }).granted 0 = false := by
  refine ⟨clear_all (by decide +kernel), ⟨by unfold State.MayCopy; decide +kernel, by unfold State.MayCopy; decide +kernel⟩,
    by decide +kernel, by decide +kernel, ⟨ok_eq (by decide +kernel), ok_eq (by decide +kernel)⟩,
    ⟨ok_eq (by decide +kernel), ok_eq (by decide +kernel), ok_eq (by decide +kernel)⟩, ?_, ?_, by decide +kernel, by decide +kernel⟩
  · exact ⟨(descWords rig 0 A 0xAF (A.s 25)).toOption.getD [], ok_eq (by decide +kernel), by decide +kernel, by decide +kernel⟩
  · exact ⟨(descWords rig 0 A 0xB0 (A.s 26)).toOption.getD [], ok_eq (by decide +kernel), by decide +kernel, by decide +kernel,
      by decide +kernel⟩

/-- A machine whose CPYP descriptor, at 0xA000, names package 0 or 1 as the peer. -/
def rigPeer (n : Byte) : State := rig.setCore 0 { rig.core 0 with lm := sparseWrite rigLm 0xA000 [n] }

/-- A machine whose pattern has two rows and two columns. -/
def rigSmall : State := rigAt 0 0 { rigAct with gen := { rigAct.gen with extent := 0x1000001 } }

/-- IndexedPeerCutCopiesComplete: one element of four bytes, and a cut block of two rows. A recast of a band's three members, budget 64 and span 1, to scaled E4M3, from and into the first bytes of object 7. A peer copy of no bytes: whichever number the package has, one of the two descriptors names another one. -/
theorem witness_IndexedPeerCutCopiesComplete :
    ((∀ i ∈
      [Instr.cpyg 0 3 1 8 27 0x100 cl1, .cpyg 1 3 1 8 27 0x100 cl1, .cpys 0 3 1 8 27 0x100 cl1, .cpys 1 3 1 8 27 0x100 cl1,
       .cpyp 3 1 8 31 0 cl1, .cpyr 3 1 0 28 0x100 cl1, .cutb 3 18 1 0 0 cl1], ∀ n ∈ needs,
        rig.Clear 0 1 i cl1 n ∧ (rigGen 1).Clear 0 1 i cl1 n) ∧
      (rig.MayCopy A 0 [0] ∧ rig.MayCopy A 0 [1] ∧ rig.MayCopy A 0 []) ∧
      descWords rig 0 A 0xB1 (A.s 27) = .ok [0, 1, 0, 0, 0, 0, 0, 0] ∧
      (descBusy rig 0 A (A.s 27) = false ∧ A.lmAddr 0 (4 * 1) = some 0 ∧ (A.k 1).valid = true ∧ (A.k 1).reserved = false
        ∧ hasRights (A.k 1).rights (rR + rW + rG) = true) ∧
      (localBase rig A 0xB1 0 0 4 0 = .ok 0 ∧ localBase rig A 0xB2 3 0 4 0 = .ok 0) ∧
      (A.cut.isSet = true ∧ plainFmt A.fb = true ∧ bits (A.s 18) 47 24 - bits (A.s 18) 23 0 = 2
        ∧ 2 ≤ stageRows (rig.ring A.quad 0) A.fb) ∧
      (∀ r < 2, ∃ q, capCheck (A.k 1) 1 rR 0x98 (BitVec.ofNat 64 (bits (A.s 0) 63 32 + (0 + r) * bits (A.s 0) 31 0)) 128 = .ok q) ∧
      localBase rig A 0x98 4 0 (2 * 128) 0 = .ok 0 ∧ ((rigGen 1).act 1).cut.isSet = false) ∧
    (let x := rigSmall.act 1
      let ms := x.gen.pat.cutMajor 64 1
      rigSmall.Clear 0 1 (.cpyr 3 1 0 28 0x100 cl1) cl1 {} ∧ rigSmall.MayCopy x 0 [] ∧ descBusy rigSmall 0 x (x.s 28) = false ∧
      descWords rigSmall 0 x 0xB4 (x.s 28) = .ok [0xB00000000, 0, 0, 0x40000000000, 0, 0, 0, 0] ∧
      (cutDescBad 0x40000000000 x.gen.rows = false ∧ bits 0x40000000000 23 0 = 0 ∧ bits 0x40000000000 47 36 = 64
        ∧ bits 0x40000000000 55 48 + 1 = 1) ∧
      (masterRange ms 0 = (0, 8) ∧ recastSizes 11 ms.length = (3, 2)) ∧
      (devRange x 1 rR 0xB4 (x.s 0 + BitVec.ofNat 64 0) 8 = .ok 0 ∧ devRange x 1 rW 0xB4 0 3 = .ok 0
        ∧ devRange x 1 rW 0xB4 0 2 = .ok 0) ∧
      (tagScaled 11 = true ∧ x.gen.loaded = true ∧ x.gen.pat.limits = none ∧ x.visitor = false)) ∧
    (∃ (n : Byte) (w : Word64),
      descWords (rigPeer n) 0 A 0xB3 (A.s 31) = .ok [w, 0, 0, 0, 0, 0, 0, 0] ∧ bits w 9 0 ≠ Config.packageNumber.toNat
        ∧ bits w 63 10 = 0 ∧ descBusy (rigPeer n) 0 A (A.s 31) = false
        ∧ devRange A 1 (rR + rG) 0xB3 (A.s 8) 0 = .ok 64 ∧ (rigPeer n).Clear 0 1 (.cpyp 3 1 8 31 0 cl1) cl1 {}) :=
  ⟨(by
  refine ⟨fun i hi n hn => ⟨clear_all (by decide +kernel) i hi n hn, clear_all (by decide +kernel) i hi n hn⟩,
    ⟨by unfold State.MayCopy; decide +kernel, by unfold State.MayCopy; decide +kernel, by unfold State.MayCopy; decide +kernel⟩,
    ok_eq (by decide +kernel), by decide +kernel, ⟨ok_eq (by decide +kernel), ok_eq (by decide +kernel)⟩, by decide +kernel,
    ?_, ok_eq (by decide +kernel), by decide +kernel⟩
  intro r hr
  have h : ∀ r < 2, (capCheck (A.k 1) 1 rR 0x98 (BitVec.ofNat 64 (bits (A.s 0) 63 32 + (0 + r) * bits (A.s 0) 31 0)) 128).toBool
      = true := by decide +kernel
  exact ok_of (h r hr)),
   ⟨clear_of_clearB (by decide +kernel), by unfold State.MayCopy; decide +kernel, by decide +kernel, ok_eq (by decide +kernel),
   by decide +kernel, by decide +kernel, ⟨ok_eq (by decide +kernel), ok_eq (by decide +kernel), ok_eq (by decide +kernel)⟩,
   by decide +kernel⟩,
   (by
  have h1 : ∀ n : Byte, n = 0 ∨ n = 1 → descWords (rigPeer n) 0 A 0xB3 (A.s 31) = .ok [n.setWidth 64, 0, 0, 0, 0, 0, 0, 0]
      ∧ descBusy (rigPeer n) 0 A (A.s 31) = false ∧ (rigPeer n).Clear 0 1 (.cpyp 3 1 8 31 0 cl1) cl1 {} := by
    rintro n (rfl | rfl) <;>
      exact ⟨ok_eq (by decide +kernel), by decide +kernel, clear_of_clearB (by decide +kernel)⟩
  by_cases h : Config.packageNumber.toNat = 0
  · obtain ⟨a, b, c⟩ := h1 1 (.inr rfl)
    exact ⟨1, _, a, by rw [h]; decide, by decide, b, ok_eq (by decide +kernel), c⟩
  · obtain ⟨a, b, c⟩ := h1 0 (.inl rfl)
    exact ⟨0, _, a, fun h' => h (h'.symm.trans (by decide)), by decide, b, ok_eq (by decide +kernel), c⟩)⟩

/-- A quad whose trace covers slot 0 of core 0. -/
def rigTrace : State := rig.setQuad 0 { rig.quad 0 with qdctl := 2 ^ 32 }

/-- A quad whose channel 0, ring 0 and line 0 have reached `n`, or have a fault of transfer and fill 1. -/
def rigEng (bad : Bool) (n : BitVec 32) : State :=
  rig.setQuad 0
    { chans := [(0, { wm := n, faulted := bad, fid := 1 })], lines := [(0, { set := true, bad := bad })]
      rings := [(0, { size := 127, f := n, commanded := n, badFills := if bad then [(1, 3, 5)] else [] })] }

theorem witness_EngineControlMouldMarkComplete : (∀ i ∈
    [Instr.cpwait 1 0 cl1, .cpwait 0 0 cl1, .stgwait 3 1 0 cl1, .evwait 0 cl1, .cpstat 0 3 0 cl1, .cpstat 2 3 0xF0 cl1, .cpcan 0 cl1,
     .stgrel 0 cl1, .stgrel 1 cl1, .stgset 0 1 cl1, .evclr 0xF00 cl1, .mould 0 3 cl1, .mould 1 3 cl1, .tmark 1 9 cl1], ∀ n ∈ needs,
      rig.Clear 0 1 i cl1 n ∧ rigBsp.Clear 0 1 i cl1 n ∧ rigTrace.Clear 0 1 i cl1 n) ∧
    (A.granted 0 = true ∧ A.granted 15 = true ∧ ({ A with rings := 0 }).granted 15 = false) ∧
    (∀ n ∈ [2, 2 ^ 31 + 1], ∀ bad : Bool, let s := rigEng bad (BitVec.ofNat 32 n)
      let low : BitVec 32 := (A.s 1).setWidth 32
      low ≠ 0 ∧ (A.s 0).setWidth 32 = (0 : BitVec 32) ∧ (s.chan 0 0).faulted = bad ∧ (low - (s.chan 0 0).fid).toNat < 2 ^ 31
        ∧ (1 ≤ ((s.chan 0 0).wm - low).toNat ∧ ((s.chan 0 0).wm - low).toNat ≤ 2 ^ 31)
        ∧ (1 ≤ ((s.ring 0 0).f - low).toNat ∧ ((s.ring 0 0).f - low).toNat ≤ 2 ^ 31)
        ∧ (s.ring 0 0).badFills.find? (fun b => b.1 == low) = (if bad then some (1, 3, 5) else none)
        ∧ (s.line 0 0).set = true ∧ (s.line 0 0).bad = bad
        ∧ [Instr.cpwait 1 0 cl1, .stgwait 3 1 0 cl1, .evwait 0 cl1].all (fun i => clearB s 0 1 i cl1 {}) = true) ∧
    ((rig.ring A.quad 0).e ≠ (rig.ring A.quad 0).f ∧ (rig.ring A.quad 1).e = (rig.ring A.quad 1).f
      ∧ bits (A.s 0) 63 44 = 0 ∧ bits (A.s 0) 21 0 % 64 = 0 ∧ A.qsOk 0 64 = true
      ∧ (rig.ring A.quad 1).commanded = (rig.ring A.quad 1).f ∧ (rig.quad A.quad).halting = false) ∧
    ((rig.gang A.gang).lrec.bsp = false ∧ (rigBsp.gang A.gang).lrec.bsp = true ∧ rig.traced 0 A.slot = false
      ∧ rigTrace.traced 0 A.slot = true) :=
  ⟨fun i hi n hn => ⟨clear_all (by decide +kernel) i hi n hn, clear_all (by decide +kernel) i hi n hn,
    clear_all (by decide +kernel) i hi n hn⟩, by decide +kernel, by decide +kernel, by decide +kernel, by decide +kernel⟩

/-! ## Device events: the conditions of the event statements are met -/

/-- An operation of the context, and the machine in which it is outstanding. -/
def rigO (k : OpKind) (opcode : Instr := .add 1 2 3 cl1) (dsts : List RegName := []) : Op := mkOp 1 A opcode cl1 false false dsts k
def withOp (o : Op) : State := { rig with ops := [(20, o)] }

/-- A context that waits for a walk. -/
def rigWalk : State := rigAt 0 0 { rigAct with block := some (.walk 7 64 8 false 0) }

/-- A port that nobody holds; a pending trap; a timer that is due. -/
def rigFree : State := rig.setCore 0 { rig.core 0 with holder := none }
def rigTrap : State := rigAt 0 0 { rigAct with trapPend := some { cause := 5, detail := 1, addr := 0, word := 3 } }
def rigTimer : State := rigAt 0 0 { rigAct with trap := { timecmp := 1000 } }

/-- UnitAndContextEventsHappen, the units: an operation of each kind is outstanding and may land. The contexts: a port whose holder waits for a walk, a free one, a pending trap, a timer that is due, a machine check. -/
theorem witness_UnitAndContextEventsHappen :
    (∀ k ∈
      [OpKind.div 0 3 5, .matrix 0 (.zero 0), .ldq 0 64 8 true 3, .stq 0 64 [1] [true], .vldq 0 64 4 0 3, .gather 0 [(0, 64)] 4 3,
       .scatter 0 [(64, 9)], .gen 0 [wS 3 1], .fixedTime [wS 3 1], .xlug 0 64 0x70000 64],
      let s := withOp (rigO k)
      s.op? 20 = some (rigO k) ∧ s.canLand (rigO k) = true ∧ s.scratchTurn (rigO k) = true ∧ s.qsPoisonOf 0 64 64 = none
        ∧ s.lmPoisonOf 0 64 4 = none ∧ s.matReady (rigO k) (.zero 0) = true) ∧
    (rig.portAct 0 = some 1 ∧
      (withOp (rigO (.div 0 3 5))).ops.find? (fun y => y.2.kind.divOn 0) = some (20, rigO (.div 0 3 5)) ∧
      (((withOp (rigO (.matrix 0 (.zero 0)))).setCore 0 { rig.core 0 with mqueue := [20] }).core 0).mqueue = 20 :: []) ∧
    (((rigWalk.core 0).holder = some 0 ∧ rigWalk.givesUp 0 0 = true) ∧
      ((rigFree.core 0).holder = none ∧ rigFree.ringFind 0 (rigFree.core 0).last 8 = some 0) ∧
      ((rigTrap.act 1).duePend.isSome = true ∧ (rigTrap.act 1).run = .inService ∧ rigTrap.quiet 1 = true) ∧
      ((tableGet? rigTimer.acts 1).isSome = true ∧ rigTimer.timerDue (rigTimer.act 1) = true) ∧
      ((rigTimer.interruptOf (rigTimer.act 1)).isSome = true ∧ (rigTimer.act 1).trapPend = none
        ∧ (rigTimer.act 1).run = .inService ∧ rigTimer.haltedCore (rigTimer.act 1).core = false) ∧
      (rig.portAct 0 = some 1 ∧ rigFree.portAct 0 = none)) :=
  ⟨(by decide +kernel),
   (by
  decide +kernel),
   (by decide +kernel)⟩

/-- A request of an operation. -/
def rigQ (k : ReqKind) : Req := mkReq 1 A 0 20 rigOtc 64 8 k
def withReq (o : Op) (q : Req) : State := { withOp o with reqs := [(30, q)] }

/-- HomePortEventsHappen: a request of each kind may be performed; a store may be accepted; a performed one is answered. -/
theorem witness_HomePortEventsHappen : (∀ k ∈
    [ReqKind.load true, .vload 4 0, .cload, .store [1, 2] [true, true], .cstore (List.replicate 16 0) true, .atomic 0x4E 0 1 0,
     .atomic 0x52 0 1 0, .wait 0 1],
    let s := withReq (rigO (.device (some (sreg 3)) true)) (rigQ k)
    s.req? 30 = some (rigQ k) ∧ s.mayPerform 30 (rigQ k) = true ∧ (rigQ k).path ≠ .window
      ∧ s.mergeable (rigQ k) 0x4E = false ∧ ((s.applyLine ((rigQ k).addr / 64)).mcRead ((rigQ k).addr / 64)).devPoisonOf (rigQ k) = none
      ∧ (let t := withReq (rigO (.device (some (sreg 3)) true)) { rigQ k with performed := some { data := [1] } }
         t.op? (rigQ k).op = some (rigO (.device (some (sreg 3)) true)) ∧ t.canLand (rigO (.device (some (sreg 3)) true)) = true)) ∧
    (let s := withReq (rigO (.device none false)) (rigQ (.atomic 0x4E 0 1 0))
     s.mayPerform 30 (rigQ (.atomic 0x4E 0 1 0)) = true ∧ s.mergeable (rigQ (.atomic 0x4E 0 1 0)) 0x4E = true) ∧
    (let s := withReq (rigO (.device none false)) (rigQ (.store [1] [true]))
     s.mayAccept 30 (rigQ (.store [1] [true])) = true ∧ (rigQ (.store [1] [true])).performed = none
       ∧ s.op? (rigQ (.store [1] [true])).op = some (rigO (.device none false))) ∧
    (let s := rigAt 0 0 { rigAct with block := some .release }
     (s.act 1).block = some .release ∧ s.memBusy 1 = false ∧ s.ops = []) ∧
    (let s := withOp (rigO .fence)
     (s.act 1).block ≠ some .release
       ∧ s.ops.find? (fun x => x.2.act == 1 && x.2.kind == .fence && s.memDone 1 x.2.num) = some (20, rigO .fence)) ∧
    (tableGet? (rigL1.core 0).l1 (rigOtc.addr 64 / 64)).isSome = true := by decide +kernel

/-- A request for a walk of activity 1 to the first bytes of an object. -/
def rigAsk (obj : Nat) (who : WalkFor) : WalkReq :=
  { act := 1, part := 0, core := 0, object := obj, offset := 0, bytes := 8, write := false, who := who }

/-- A transfer that copies from an object. -/
def rigCopies (obj : Nat) : Transfer :=
  { id := 1, act := 1, gang := 1, part := 0, crew := 0, core := 0, num := 0, cap := KReg.make obj 127 0x20000 0 true, off := 0
    dir := 0, loc := 64, what := .gather 0 4 1, pos := 0 }

/-- A partition whose object table, at 0x1000, holds object 0 (log 2's places), and a walk in it that a context waits for, that
the transfer at a channel's head needs, or that goes ahead of a load. -/
def rigTable (obj : Nat) (who : WalkFor) : State :=
  let s := { rigWalk with mem := codeImage State.reset [], walks := [rigAsk obj who] }
  ((s.setPart 0 { s.part 0 with otbase := 0x1000 }).setAct 1 { s.act 1 with block := some (.walk obj 0 8 false 0) }).setChan 0 0
    { queue := [rigCopies obj] }

/-- A migration that has not begun to copy, and one that is ready to freeze. -/
def rigMig (ready : Bool) : Migration :=
  { object := 0, page := 0, psize := 0, oldFrame := 0x200000, newFrame := 0x300000, leaf := 0x4000, rounds := if ready then 4 else 0 }

/-- TranslationEventsHappen: for each that asks, and for a page that the table holds and one that it does not. -/
theorem witness_TranslationEventsHappen :
    (∀ who ∈ [WalkFor.word, .engine 0 0 1, .ahead true, .ahead false], ∀ obj ∈ [0, 9],
      let s := rigTable obj who
      let w := rigAsk obj who
      ∃ page, s.walkOf 1 = some page ∧ s.walkRuns page = true ∧ s.walkers page = [w] ∧ w.who = who
        ∧ (({ s with walks := s.walks.filter (fun b => b != w) }).walk 0
            { object := obj, offset := 0, bytes := 8, write := false, atom := 0 }).toBool = (obj == 0)
        ∧ (s.chan 0 0).queue = rigCopies obj :: []) ∧
    ((tableGet? rig.acts 1).isSome = true ∧ (rig.part 0).otinv.length < 16) ∧
    (let s := rig.setPart 0 { rig.part 0 with otinv := [(1, 0)] }
     (s.part 0).otinv = (1, 0) :: [] ∧ (s.dropOtc 0 (invMatches 0)).usesPage 0 (invMatches 0) = false) ∧
    ((rigMig false).ready = false ∧ (rigMig true).ready = true) := by
  refine ⟨?_, by decide +kernel, by decide +kernel, by decide +kernel⟩
  intro who hw obj ho
  have h : ∀ who ∈ [WalkFor.word, .engine 0 0 1, .ahead true, .ahead false], ∀ obj ∈ [0, 9],
      let s := rigTable obj who
      let w := rigAsk obj who
      (match s.walkOf 1 with
        | some page => s.walkRuns page && s.walkers page == [w] && w.who == who
            && (({ s with walks := s.walks.filter (fun b => b != w) }).walk 0
              { object := obj, offset := 0, bytes := 8, write := false, atom := 0 }).toBool == (obj == 0)
            && (s.chan 0 0).queue == [rigCopies obj]
        | none => false) = true := by decide +kernel
  have h := h who hw obj ho
  cases hp : (rigTable obj who).walkOf 1 with
  | none => simp only [hp] at h; cases h
  | some page =>
    simp only [hp, Bool.and_eq_true, beq_iff_eq] at h
    exact ⟨page, hp, h.1.1.1.1, h.1.1.1.2, h.1.1.2, h.1.2, h.2⟩

/-- A partition with an open queue and one kicked slot; with a copy in progress; with an entry for the journal. -/
def rigKick : State :=
  rig.setPart 0 { rig.part 0 with queues := [(0, { lqbase := 0x8000000000000000 })], kickset := [(0, 1)], scan := [0] }

/-- A LAUNCH that has been submitted, in a partition that drains or not; a gang that waits and whose counter is reached. -/
def rigSubmit (drain : Bool) : State :=
  let s := withOp (rigO (.launch 3 (List.replicate 64 0) {} {}))
  s.setPart 0 { s.part 0 with submits := [20], drain := drain }
def rigDepRec : List Byte := (List.replicate 64 0).set 7 0x40
def rigFull : State :=
  let s := withOp (rigO (.launch 3 rigDepRec {} {}))
  s.setPart 0 { s.part 0 with submits := [20], waiting := List.range 1024 }
def rigWaiting : State := rig.setGang 2 { stage := .waiting, depHit := true }

theorem witness_SchedulerIntakeHappens :
    ((63 : Nat) < 64 ∧ (rig.part 0).jpend = [] ∧ (rig.queue 0 63).lqbase.getLsbD 63 = false
      ∧ (0x8000000000000000 : Word64).getLsbD 63 = true) ∧
    ((rigKick.queue 0 0).lqbase.getLsbD 63 = true ∧ (rigKick.part 0).jpend = [] ∧ (0 : Word64).getLsbD 63 = false) ∧
    ((1 : Word64).getLsbD 0 = true ∧ (0 : Word64).getLsbD 0 = false ∧ (rig.part 0).lastScan + 100 ≤ rig.tick) ∧
    (rigKick.schedFree 0 = true ∧ (rigKick.part 0).copy = none ∧ rigKick.nextKick 0 = some 0) ∧
    (let k : KickCopy := { n := 0, bytes := List.replicate 64 0, drainBefore := false }
     let s := rig.setPart 0 { rig.part 0 with copy := some k }
     s.schedFree 0 = true ∧ (s.part 0).copy = some k) ∧
    (let s := rig.setPart 0 { rig.part 0 with jpend := [({ kind := 11 }, .drain true)] }
     s.armatureLive = true ∧ (s.part 0).jpend = ({ kind := 11 }, .drain true) :: []) ∧
    (∀ drain : Bool, let s := rigSubmit drain
      s.schedFree 0 = true ∧ (s.part 0).submits = 20 :: [] ∧ s.op? 20 = some (rigO (.launch 3 (List.replicate 64 0) {} {}))
        ∧ (s.part 0).drain = drain ∧ (s.gang (s.act 1).gang).endPend = none ∧ (s.gang (s.act 1).gang).stage = .eligible
        ∧ s.memDone 1 (rigO (.launch 3 (List.replicate 64 0) {} {})).num = true
        ∧ (LaunchRec.ofBytes (List.replicate 64 0)).depPresent = false
        ∧ (LaunchRec.ofBytes (List.replicate 64 0)).podGroup = 0) ∧
    ((LaunchRec.ofBytes rigDepRec).depPresent = true ∧ 1024 ≤ (rigFull.part 0).waiting.length
      ∧ (rigFull.gang (rigFull.act 1).gang).stage = .eligible
      ∧ rigFull.op? 20 = some (rigO (.launch 3 rigDepRec {} {})) ∧ (rigFull.part 0).submits = 20 :: []) ∧
    ((rigSubmit false).setGang 1 { (rigSubmit false).gang 1 with endPend := some (8, 0) }).op? 20
      = some (rigO (.launch 3 (List.replicate 64 0) {} {})) ∧
    (((rigSubmit false).setGang 1 { (rigSubmit false).gang 1 with endPend := some (8, 0) }).gang 1).endPend.isSome = true ∧
    (rigWaiting.schedFree 0 = true ∧ (rigWaiting.gang 2).part = 0 ∧ (rigWaiting.gang 2).stage = .waiting
      ∧ (rigWaiting.gang 2).depHit = true ∧ (rigWaiting.gang 2).endPend = none) := by decide +kernel

/-- A gang whose only crew is due; swapped out; parked since tick 0 behind a copy wait. -/
def rigDue : State := rig.setGang 2 { lrec := { cores := 1, acts := 1, lmem := 1 }, stage := .eligible }
def rigCrew : Crew := { quad := 1, cores := [2], slots := [(2, 0)], acts := [1], lmBase := [(2, 0)], qsBase := 0 }
def rigSwapped : State :=
  rig.setGang 2 { lrec := { cores := 1, acts := 1 }, stage := .eligible, crews := [(0, { rigCrew with acts := [], swapped := true })] }
def rigParked (n : Nat) : State :=
  let s := { withOp { rigO (.evwait 0 0) with offCore := true } with tick := 2000000 }
  let s := s.setAct 1 { s.act 1 with part := 1, crew := 1, lastOp := some 20, block := some .partner, party := some (rigParty 5) }
  (s.setAct 5 { run := .saved }).setGang 1
    { part := 1, lrec := { crews := n + 1, cyclecheck := true }, stage := .eligible
      crews := (List.range n).map (fun k => (k, { rigCrew with acts := [1] })) }

/-- A saved context of a resident crew. -/
def rigSaved : State :=
  let s := rig.setAct 1 { rig.act 1 with run := .saved }
  s.setGang 1 { rig.gang 1 with crews := [(0, rigCrew)] }

/-- A complete gang, one to be ended, one with a fault that ends it, and one whose fault a replay can undo. -/
def rigGang (g : Gang) : State := rig.setGang 2 { g with stage := .eligible }
def rigFault : TrapReq := { cause := 0x12, detail := 0, addr := 0, word := 0 }
def rigReplay : State := rigGang { lrec := { bsp := true }, opened := true, faultPend := some rigFault }

theorem witness_CrewAndGangEventsHappen :
    (((rigDue.gang 2).due = some (0, false) ∧ rigDue.dispatchable 2 = true ∧ rigDue.outranked (rigDue.gang 2) = false
        ∧ rigDue.placeable false (rigDue.gang 2).part (rigDue.gang 2).lrec = true ∧ (rigDue.gang 2).lrec.bsp = false
        ∧ (rigDue.findPlace rigDue.holdings 2 (rigDue.gang 2)).isSome = true) ∧
      ((rigSwapped.gang 2).due = some (0, true) ∧ rigSwapped.dispatchable 2 = true
        ∧ rigSwapped.outranked (rigSwapped.gang 2) = false
        ∧ (rigSwapped.findPlace rigSwapped.holdings 2 (rigSwapped.gang 2)).isSome = true) ∧
      ((rig.act 1).run ≠ .saved ∧ (tableGet? rig.acts 1).isSome = true ∧ rig.canSave 1 = true) ∧
      ((rigSaved.act 1).run = .saved ∧ tableGet? (rigSaved.gang (rigSaved.act 1).gang).crews (rigSaved.act 1).crew = some rigCrew
        ∧ rigCrew.resident = true ∧ rigSaved.live (rigSaved.act 1).homeCore = true ∧ rigSaved.saving = false) ∧
      ((rigParked 2).dispatchable 1 = true ∧ (rigParked 2).stalled ((rigParked 2).gang 1) = true
        ∧ (rigParked 2).findPlace (rigParked 2).holdings 1 ((rigParked 2).gang 1) = none
        ∧ (rigParked 2).longestParked ((rigParked 2).gang 1) = some 1) ∧
      (((rigParked 1).gang 1).lowest = some (0, rigCrew) ∧ (rigParked 1).parkedSince rigCrew = some 0
        ∧ ((rigParked 1).gang 1).lrec.cyclecheck = true ∧ 0 + 1000000 ≤ (rigParked 1).tick ∧ (rigParked 1).dispatchable 1 = true)) ∧
    (let s := rigGang { lrec := { cores := 1, acts := 1, rectPresent := true }
                        crews := [(0, { rigCrew with acts := [], swapped := true, evacuated := true })] }
     (s.gang 2).due = some (0, true) ∧ s.dispatchable 2 = true ∧ s.outranked (s.gang 2) = false
       ∧ s.findPlace s.holdings 2 (s.gang 2) = none
       ∧ (match tableGet? (s.gang 2).crews 0 with
          | some cr => cr.evacuated && !(s.canReturn (s.gang 2) cr) | none => false) = true) ∧
    (let s := rigGang { watchHit := true }
     (s.gang 2).watchHit = true ∧ (s.gang 2).stage = .eligible ∧ (s.gang 2).endPend = none ∧ s.schedFree (s.gang 2).part = true) ∧
    (let s : State := { rig with insts := [(40, { part := 0, gang := 1, kind := 1, sid := 0, num := 1, rect := 0, origin := 0
                                                  arrivals := [{ act := 1, core := 0, pkg := 0, tick := 5, operand := 0, style := 0 }] })] }
     s.watchWaits 1 = true ∧ s.watchPaused 1 = false ∧ ∃ g : Gang, Config.watchdogLimit 1 ≤ g.watch + 1) ∧
    (  (let s := rigGang { crews := [(0, { rigCrew with acts := [], finished := true })] }
       s.complete? 2 = true ∧ s.schedFree (s.gang 2).part = true ∧ (s.gang 2).endPend = none) ∧
      (let s := rigGang { endPend := some (4, 2) }
       s.schedFree (s.gang 2).part = true ∧ (s.gang 2).unfinished = true ∧ (s.gang 2).stage ≠ .accepting ∧ s.ending 2 = false
         ∧ (s.gang 2).endPend = some (4, 2)) ∧
      (let s := rigGang { faultPend := some rigFault }
       s.schedFree (s.gang 2).part = true ∧ (s.gang 2).endPend = none ∧ (s.gang 2).faultPend = some rigFault
         ∧ (s.gang 2).canReplay = false) ∧
      ((rigReplay.gang 2).canReplay = true ∧ rigReplay.armatureLive = true ∧ rigReplay.stoppable 2 = true
        ∧ rigReplay.moulding 2 = false ∧ (rigReplay.gang 2).endPend = none ∧ (rigReplay.gang 2).faultPend = some rigFault
        ∧ rigReplay.slotsBack 2 (rigReplay.gang 2).snap = true ∧ (rigReplay.rollBack 2).isSome = true)) :=
  ⟨(by
  refine ⟨by decide +kernel, by decide +kernel, by decide +kernel, by decide +kernel, by decide +kernel, by decide +kernel⟩),
   by decide +kernel, by decide +kernel,
   ⟨by decide +kernel, by decide +kernel, { rig.gang 1 with watch := Config.watchdogLimit 1 }, Nat.le_succ _⟩,
   (by
  refine ⟨by decide +kernel, by decide +kernel, by decide +kernel, by decide +kernel⟩)⟩

/-- An arrival on its way, an instance that it joins, and one that is complete for its only participant. -/
def rigSent (style : Nat) (insts : Table Inst) : State :=
  let s := rigAt 0 0 { rigAct with asw := 0x46, held := some { kind := 1, sid := 0, num := 1 }
                                   sent := some { op := none, operand := 7, style := style } }
  { s with insts := insts }
def rigInst (kind : Nat) (arr : List Arrival) (done : Option (Nat × Word64 × Word64) := none) : Inst :=
  { part := 0, gang := 1, kind := kind, sid := 0, num := 1, arrivals := arr, done := done }
def rigArr (style : Nat) : Arrival := { act := 1, core := 0, pkg := 0, tick := 5, operand := 0, style := style }

/-- A context that waits for a completed instance of a BARRED. -/
def rigRelease : State :=
  let o : Op := { rigO (.bar 2 true) with offCore := true, dsts := [sreg 2, sreg 3] }
  { rigB with ops := [(20, o)], insts := [(40, rigInst 1 [rigArr 1] (some (900, 1, 2)))] }

/-- An SSTEP whose only participant cannot be moulded yet: a trap of its own is pending. -/
def rigLate (early : Option Nat) : State :=
  let s := { rigB with insts := [(40, { rigInst 6 [rigArr 0] with early := early })] }
  s.setAct 1 { s.act 1 with trapPend := some { cause := 5, detail := 0, addr := 0, word := 0 } }

/-- A partition enrolled in pod group 9 with every package of the pod. -/
def rigEnrolled : State :=
  rig.setPart 0 { rig.part 0 with pods := [(0, { pgenr := 0x8000000900000001, bitmap := List.replicate 128 0xFF })] }

theorem witness_WorkAndBarrierEventsHappen :
    (  (let s := withOp (rigO (.take 3 0))
       s.op? 20 = some (rigO (.take 3 0)) ∧ s.canLand (rigO (.take 3 0)) = true) ∧
      (let s := (withOp (rigO (.share 3 8))).setGang 1 { rig.gang 1 with share := some [{ rank := 0, core := 0, freq := 300 }] }
       s.op? 20 = some (rigO (.share 3 8)) ∧ s.canLand (rigO (.share 3 8)) = true ∧ (s.gang 1).share.isSome = true) ∧
      (let s := rigSent 0 []
       (s.act 1).sent = some { op := none, operand := 7, style := 0 } ∧ (s.act 1).held = some { kind := 1, sid := 0, num := 1 }
         ∧ (s.arrivalTaken 1 { op := none, operand := 7, style := 0 }).findInst (s.instGang (s.act 1) 1) 1 0 1 = none) ∧
      (∀ style ∈ [0, 1], let s := rigSent style [(40, rigInst 1 [{ rigArr 0 with act := 2 }])]
       let x : Sent := { op := none, operand := 7, style := style }
       (s.act 1).sent = some x ∧ (s.arrivalTaken 1 x).findInst 1 1 0 1 = some (40, rigInst 1 [{ rigArr 0 with act := 2 }])
         ∧ ([{ rigArr 0 with act := 2 }] : List Arrival).find? (fun z => z.act ≠ 0) = some { rigArr 0 with act := 2 }) ∧
      (∀ kind ∈ [1, 3, 6], let s := { rigB with insts := [(40, rigInst kind [rigArr 0])] }
        s.inst? 40 = some (rigInst kind [rigArr 0]) ∧ s.allArrived 1 (rigInst kind [rigArr 0]) = true
          ∧ s.copiesDone 1 none = true ∧ ((s.gangActs 1).map (·.1)).all s.matrixDone = true
          ∧ ((s.gangActs 1).map (·.1)).all s.mouldable = true ∧ (s.gang 1).faultPend = none) ∧
      (∀ early ∈ [none, some 990], let s := rigLate early
        s.inst? 40 = some { rigInst 6 [rigArr 0] with early := early } ∧ s.allArrived 1 (rigInst 6 [rigArr 0]) = true
          ∧ ((s.gangActs 1).map (·.1)).all s.mouldable = false) ∧
      (let s := rigRelease
       let a := s.act 1
       let i := rigInst 1 [rigArr 1] (some (900, 1, 2))
       let w := s.ops.filter (fun z => z.2.act == 1 && z.2.kind.isBar)
       s.inst? 40 = some i ∧ a.held = some { kind := 1, sid := 0, num := 1 } ∧ i.gang = s.instGang a 1 ∧ a.ap = true ∧ w ≠ []
         ∧ w.all (fun z => s.canLand z.2) = true ∧ i.done = some (900, 1, 2) ∧ i.arrivals.all (fun z => z.style == 0) = false) ∧
      (let i : Inst := { rigInst 4 [rigArr 0] with gang := 0, sid := 9 }
       let s := { rig with insts := [(40, i)] }
       s.inst? 40 = some i ∧ i.done = none ∧ i.reports = [] ∧ s.podReady i = true)) ∧
    (rig.podMembers (bits 9 15 0) = [Config.packageNumber.toNat]) ∧
    (let i := { rigInst 1 [rigArr 1] (some (900, 1, 2)) with ran := [(0, 0)] }
     rigRelease.releaseDue i 0 0 = true ∧ i.kind = 1 ∧ i.sid = 0 ∧ i.num % 2 ^ 32 = 1 % 2 ^ 32
       ∧ i.released.contains 1 = false) ∧
    (∃ pkg, pkg ∈ rigEnrolled.podMembers (bits 9 15 0) ∧ pkg ≠ Config.packageNumber.toNat) :=
  ⟨(by
  refine ⟨by decide +kernel, by decide +kernel, by decide +kernel, by decide +kernel, by decide +kernel, by decide +kernel,
    by decide +kernel, by decide +kernel⟩),
   (by
  have h : rig.enrolments (bits 9 15 0) = [] := by decide +kernel
  simp only [State.podMembers, h]),
   (by
  have h : 0 < max (rigRelease.freq 0) 1 := Nat.lt_of_lt_of_le Nat.zero_lt_one (Nat.le_max_right _ _)
  refine ⟨?_, rfl, rfl, rfl, rfl⟩
  have e : rigRelease.releaseDue { rigInst 1 [rigArr 1] (some (900, 1, 2)) with ran := [(0, 0)] } 0 0 =
      (decide (900 ≤ 1000) && decide (100 * 0 < Inst.cycles { rigInst 1 [rigArr 1] (some (900, 1, 2)) with ran := [(0, 0)] } 0
        + max (rigRelease.freq 0) 1)) := by rfl
  rw [e, decide_eq_true (by decide), decide_eq_true (by omega)]; rfl),
   (by
  have h : ∀ pkg ∈ [0, 1], pkg ∈ rigEnrolled.podMembers (bits 9 15 0) := by decide +kernel
  by_cases h0 : Config.packageNumber.toNat = 0
  · exact ⟨1, h 1 (by decide), by rw [h0]; decide⟩
  · exact ⟨0, h 0 (by decide), fun he => h0 he.symm⟩)⟩

/-- A party that has set out for its home; one that waits there, alone or with a full table, or with a partner. -/
def rigParty0 : Party := { rigParty 0 with landed := false }
def rigMeet (table : List MeetEntry) : State :=
  (rigAt 0 0 { rigAct with asw := 0x4A, party := some rigParty0 }).setQuad 0 { meet := table }
def rigArr0 (act : Nat) (deadline : Option Nat) : MeetArr := { act := act, tick := 5, order := 3, deadline := deadline }
def rigEntry (act : Nat) : MeetEntry := { gang := 1, key := 5, sid := 0, first := rigArr0 act (some 900) }

/-- Two parties under one key: activity 1 is past its timeout, the other too or not; 1 arrived first or second. -/
def rigPair (deadline : Option Nat) (second : Bool) : MeetEntry :=
  if second then { rigEntry 1 with first := rigArr0 3 deadline, second := some (rigArr0 1 (some 900)) }
  else { rigEntry 1 with second := some (rigArr0 3 deadline) }

/-- Two parties whose trips to core 0 are over. -/
def rigLand : State :=
  let s := (rigVisit false).setCore 0 { (rigVisit false).core 0 with visitors := [1, 2] }
  (s.setAct 1 { s.act 1 with asw := 0x5A }).setAct 2 { s.act 2 with asw := 0x5A }

theorem witness_MeetingEventsHappen :
    (∀ table ∈ [[], List.replicate 64 { rigEntry 2 with key := 6 }, [rigEntry 2]], let s := rigMeet table
     s.meetHome (s.act 1) rigParty0 = 0 ∧ (s.act 1).party = some rigParty0 ∧ (s.act 1).mg = 1
       ∧ (s.gang (s.act 1).gang).endPend = none
       ∧ ((s.setGang 1 { s.gang 1 with endPend := some (8, 0) }).gang 1).endPend.isSome = true
       ∧ (s.quad 0).serves s.tick (s.act 1).homeCore (s.act 1).homeSlot = true) ∧
    (let p (table : List MeetEntry) : Option MeetEntry := table.find? (fun z => z.under 1 5 0 && z.second.isNone)
     p [] = none ∧ ([] : List MeetEntry).length < 64 ∧ p (List.replicate 64 { rigEntry 2 with key := 6 }) = none
       ∧ 64 ≤ (List.replicate 64 { rigEntry 2 with key := 6 }).length ∧ p [rigEntry 2] = some (rigEntry 2)) ∧
    ((rigMeet [rigEntry 2]).quad 0).meet[0]? = some (rigEntry 2) ∧
    ((rigMeet [rigEntry 1]).meetEntry? 1 = some (0, rigEntry 1) ∧ (rigEntry 1).second = none
      ∧ (rigEntry 1).first.expired (rigMeet []).tick = true) ∧
    ((rigLand.core 0).visitors = [1, 2] ∧ (rigLand.act 1).mg = 3 ∧ (rigLand.act 2).mg = 3) ∧
    (rigEntry 1).first.act = 1 ∧
    (∀ deadline ∈ [none, some 2000, some 900], ∀ second ∈ [true, false],
      let e := rigPair deadline second
      let m := rigArr0 1 (some 900)
      let o := rigArr0 3 deadline
      (rigMeet [e]).meetEntry? 1 = some (0, e) ∧ m.expired (rigMeet []).tick = true
        ∧ ((e.first = m ∧ m.act = 1 ∧ e.second = some o) ∨ (e.first = o ∧ o.act ≠ 1 ∧ e.second = some m))
        ∧ o.expired (rigMeet []).tick = decide (deadline = some 900)) ∧
    (let s := rig.setPart 0 { rig.part 0 with jpend := [({ kind := 8 }, .end_ 1 3 8)] }
     s.armatureLive = true ∧ (s.part 0).jpend = ({ kind := 8 }, .end_ 1 3 8) :: []) ∧
    (let s := rigLand.setAct 1 { rigLand.act 1 with asw := 0x6A }
     (s.act 1).mg = 5) := by
  refine ⟨by decide +kernel, by decide +kernel, by decide +kernel, by decide +kernel, by decide +kernel, by decide +kernel, by decide +kernel,
    by decide +kernel, by decide +kernel⟩

/-- A transfer at the head of channel 0 of quad 0. -/
def rigXfer (cap : KReg) (what : Xfer) (pos : Nat) : Transfer :=
  { id := 1, act := 1, gang := 1, part := 0, crew := 0, core := 0, num := 0, cap := cap, off := 64, dir := 0, loc := 64
    what := what, pos := pos }
def rigChan (t : Transfer) : State := rig.setChan 0 0 { queue := [t] }

/-- The same where object 7 ends before the transfer's first byte. -/
def rigShort (t : Transfer) : State :=
  let s := rigChan t
  s.setCore 0 { s.core 0 with otc := [{ rigOtc with size := 32 }] }

/-- A peer package with an object of one page that may be written. -/
def rigPeerObj : State := { rigChan (rigXfer rigCap (.cpyp 0 1 5 0 5 8) 0) with peerObjs := [(2 ^ 24 + 5, { size := 0x10000, ro := false, pages := [(0, {})] })] }

/-- A link after its eighth failed retry, and one whose die was dropped. -/
def rigLink (n : Nat) (drop : Bool) : State :=
  let s := rig.setLink n { rig.link n with retries := 8 }
  if drop then s.setDie n { s.die n with dropped := true } else s

theorem witness_EngineAndLinkEventsHappen :
    (  (let t := rigXfer rigCap (.gather 0 4 1) 0
       (rigChan t).channelHead 0 0 = some t ∧ t.pos < t.count ∧ (rigChan t).turnOf 0 = some 0 ∧ ∃ u, (rigChan t).piece 0 t = .ok u) ∧
      (let t := rigXfer rigCap (.gather 0 4 1) 1
       (rigChan t).channelHead 0 0 = some t ∧ t.over = true) ∧
      (let t := rigXfer (KReg.make 9 127 0x20000 0 true) (.gather 0 4 1) 0
       (rigChan t).channelHead 0 0 = some t ∧ t.pos < t.count ∧
         ∃ v obj off write, (rigChan t).piece 0 t = .error (v, .miss obj off write)) ∧
      (let t := rigXfer rigCap (.gather 0 4 1) 0
       (rigShort t).channelHead 0 0 = some t ∧ t.pos < t.count ∧
         ∃ (v : State) (c : BitVec 8) (off : Nat), (rigShort t).piece 0 t = .error (v, .fault c.toNat off) ∧ c ≠ 0)) ∧
    (let t := rigXfer rigCap (.cpyp 0 1 5 0 5 8) 0
     rigPeerObj.channelHead 0 0 = some t ∧ t.count ≤ t.pos ∧ t.signalled = false ∧ ∃ u, rigPeerObj.peerCount t 1 5 8 = .ok u) ∧
    ((∀ l ∈ [0, 7, 16, 31], (l < 32 ∧ (l < 8 ∨ 16 ≤ l) ∧ (rig.link l).down = false) ∧ (rig.link l).failedRails < 5
        ∧ (rig.link l).retries = 0) ∧
      ((rigLink 16 false).link 16).down = false ∧ 8 ≤ ((rigLink 16 false).link 16).retries ∧
      (∀ x ∈ (rigLink 16 false).quads, ∀ y ∈ x.2.chans, y.2.queue = []) ∧
      8 ≤ ((rigLink 7 true).link 7).retries ∧ ((rigLink 7 true).die 7).dropped = true ∧ ((rigLink 7 false).die 7).dropped = false
        ∧ ((rigLink 7 false).setLink 7 { (rigLink 7 false).link 7 with down := true }).canEvacuate 7 = true
        ∧ (rigLink 7 false).armatureLive = true ∧ ((rigLink 7 false).setCore 2048 { frozen := true }).armatureLive = false) :=
  ⟨(by
  refine ⟨⟨by decide +kernel, by decide +kernel, by decide +kernel, ok_of (by decide +kernel)⟩, by decide +kernel,
    ⟨by decide +kernel, by decide +kernel, ?_⟩, by decide +kernel, by decide +kernel, ?_⟩
  · have h : (match (rigChan (rigXfer (KReg.make 9 127 0x20000 0 true) (.gather 0 4 1) 0)).piece 0
        (rigXfer (KReg.make 9 127 0x20000 0 true) (.gather 0 4 1) 0) with | .error (_, .miss _ _ _) => true | _ => false) = true := by
      decide +kernel
    split at h
    · exact ⟨_, _, _, _, ‹_›⟩
    · cases h
  · have h : (match (rigShort (rigXfer rigCap (.gather 0 4 1) 0)).piece 0 (rigXfer rigCap (.gather 0 4 1) 0) with
        | .error (_, .fault c _) => decide (0 < c ∧ c < 256) | _ => false) = true := by
      decide +kernel
    split at h
    · rename_i c off hp
      have h' : 0 < c ∧ c < 256 := of_decide_eq_true h
      have e : (BitVec.ofNat 8 c).toNat = c := by rw [BitVec.toNat_ofNat]; exact Nat.mod_eq_of_lt h'.2
      refine ⟨_, BitVec.ofNat 8 c, off, by rw [e]; exact hp, fun h0 => ?_⟩
      rw [h0] at e
      simp at e
      omega
    · cases h),
   ⟨by decide +kernel, by decide +kernel, by decide +kernel, ok_of (by decide +kernel)⟩,
   (by decide +kernel)⟩

/-- An enrolment's area at 0x20000 whose bitmap has the one bit of the package itself. -/
def rigPod : State :=
  let n := Config.packageNumber.toNat
  let s := { State.reset with mem := [(0x20000 + n / 8, 1 <<< (n % 8))] }
  s.setPart 0 { s.part 0 with pods := [(15, { pgmem := 0x20000 })] }

theorem packageNumber_le : Config.packageNumber.toNat ≤ Config.packagesMinus1.toNat := by
  have h1 : Config.packagesMinus1.toNat < 1024 := Config.packagesMinus1.isLt
  have h2 : Config.packageRaw.toNat % (Config.packagesMinus1.toNat + 1) < Config.packagesMinus1.toNat + 1 :=
    Nat.mod_lt _ (Nat.succ_pos _)
  rw [Config.packageNumber, BitVec.toNat_ofNat, Nat.mod_eq_of_lt (by omega)]
  omega

/-- A bit of the byte 1 shifted left. -/
theorem byte_one_shift (a b : Nat) (ha : a < 8) (hb : b < 8) : ((1 : Byte) <<< a).getLsbD b = decide (a = b) := by
  have h : ∀ a < 8, ∀ b < 8, ((1 : Byte) <<< a).getLsbD b = decide (a = b) := by decide
  exact h a ha b hb

theorem rigPod_bitmap (p : Nat) (hp : p < 1024) :
    bitmapBit (rigPod.memRead 0x20000 128) p = decide (Config.packageNumber.toNat = p) := by
  have hlt : p / 8 < 128 := by omega
  simp only [bitmapBit, State.memRead, sparseRead, List.getElem?_map, List.getElem?_range hlt, Option.map_some, Option.getD_some]
  show (sparseGet 0 [(0x20000 + Config.packageNumber.toNat / 8, (1 : Byte) <<< (Config.packageNumber.toNat % 8))]
    (0x20000 + p / 8)).getLsbD (p % 8) = _
  simp only [sparseGet]
  by_cases h : p / 8 = Config.packageNumber.toNat / 8
  · rw [if_pos (by omega), byte_one_shift _ _ (Nat.mod_lt _ (by decide)) (Nat.mod_lt _ (by decide))]
    exact decide_eq_decide.mpr (by omega)
  · rw [if_neg (by omega)]
    have : Config.packageNumber.toNat ≠ p := fun he => h (by rw [he])
    simp [this]

/-- Object 0 of partition 0 maps the first 2 MiB of the stacks and carries an owner tag; a gang has tag 3; die 0's memory-side
cache holds a clean copy of line 4; and a crew of the gang holds the first 4 KiB of core 0's local memory. -/
def rigOwned (owner : Byte) : State :=
  let s := (rig.setPart 0 { rig.part 0 with otbase := 0x1000 }).setDie 0 { rig.die 0 with mcache := [(4, {})] }
  let s := s.setGang 1 { s.gang 1 with
    owner := 3, lrec := { (s.gang 1).lrec with lmem := 1 }
    crews := [(0, { quad := 0, cores := [0], slots := [(0, 0)], acts := [1], lmBase := [(0, 0)], qsBase := 0 })] }
  { s with mem := [(0x1002, 0x20), (0x1007, 0x90), (0x1009, 0x20), (0x1016, owner), (0x2001, 0x30), (0x2007, 0x80), (0x3001, 0x40),
      (0x3007, 0x80), (0x4007, 0x80)] }

/-- The state after the scrubber has marked line 4 of a stack or of core 0's local memory. -/
def rigStack (s : State) : State :=
  let u := s.scrubCount (4 * 64 / 2 ^ 37) true
  { u with memPoison := sparseSet false u.memPoison 4 true }
def rigScrubbed (s : State) : State :=
  let u := s.scrubCount (coreDie 0) true
  u.setCore 0 { u.core 0 with lmPoison := sparseSet false (u.core 0).lmPoison 4 true }

theorem witness_ContainmentEventsHappen :
    (let pod : PodEntry := (tableGet? (rigPod.part 0).pods 15).getD {}
      let area := bits pod.pgmem 47 7 * 128
      let read := (linesOf area 128).foldl (fun (u : State) l => u.portTurn l) rigPod
      15 < 16 ∧ rigPod.podBusy 0 pod = false ∧ (0x8000000100000001 : Word64).getLsbD 63 = true
        ∧ read.enrolled 0 15 (0x8000000100000001 &&& 0x8000FFFF0000FFFF) (read.memRead area 128) = true) ∧
    (let pod : PodEntry := { pgenr := 0x8000000900000001 };
      (rig.setGang 2 { lrec := { podGroup := 9 }, stage := .eligible }).podBusy 0 pod = true) ∧
    (  (let u := rig.scrubCount (coreDie 0) true
       (u.setCore 0 { u.core 0 with lmPoison := sparseSet false (u.core 0).lmPoison 4 true }).holdings = []) ∧
      ((7 : Nat) < 8 ∧ (rig.die 7).dropped = false ∧ rig.armatureLive = true ∧ rig.canEvacuate 7 = true
        ∧ rig.canEvacuate 0 = true)) ∧
    (∀ v ∈ [(0x0000000100000001 : Word64), 0x8000000000000001],
      let pod : PodEntry := (tableGet? (rigPod.part 0).pods 15).getD {}
      let area := bits pod.pgmem 47 7 * 128
      let read := (linesOf area 128).foldl (fun (u : State) l => u.portTurn l) rigPod
      rigPod.podBusy 0 pod = false ∧ v.getLsbD 63 = decide (v = 0x8000000000000001)
        ∧ (v.getLsbD 63 = true → read.enrolled 0 15 (v &&& 0x8000FFFF0000FFFF) (read.memRead area 128) = false)) ∧
    ((rigScrubbed (rigOwned 3)).holder? (fun h => h.lm.any (fun x => x.1 == 0 && decide (x.2.1 ≤ 4 * 64)
      && decide (4 * 64 < x.2.1 + x.2.2))) = some 1) ∧
    ((rigStack rig).lineOwner (rig.diePart (4 * 64 / 2 ^ 37)) 7 4 = none
      ∧ (rigStack (rigOwned 9)).lineOwner ((rigOwned 9).diePart (4 * 64 / 2 ^ 37)) 7 4 = some (none, uncorrDetail 7 0 0, w64 256)
      ∧ (rigStack (rigOwned 3)).lineOwner ((rigOwned 3).diePart (4 * 64 / 2 ^ 37)) 7 4 = some (some 1, uncorrDetail 7 0 0, w64 256)) ∧
    (let u := (rigOwned 3).scrubCount 0 true
     tableGet? (u.die 0).mcache 4 = some {} ∧ ({} : McLine).dirty = false
       ∧ u.lineOwner ((rigOwned 3).diePart 0) 6 4 = some (some 1, uncorrDetail 6 0 0, w64 256)) :=
  ⟨(by
  refine ⟨by decide, rfl, by decide, ?_⟩
  show rigPod.enrolled 0 15 (0x8000000100000001 &&& 0x8000FFFF0000FFFF) (rigPod.memRead 0x20000 128) = true
  have h1 : Config.packageNumber.toNat < 1024 := Config.packageNumber.isLt
  have h2 := packageNumber_le
  have h3 : (List.range 1024).any (fun p => decide (Config.packagesMinus1.toNat < p)
      && bitmapBit (rigPod.memRead 0x20000 128) p) = false := by
    rw [List.any_eq_false]
    intro p hp
    rw [rigPod_bitmap p (List.mem_range.mp hp)]
    simp only [Bool.and_eq_true, decide_eq_true_eq, not_and]
    omega
  simp only [State.enrolled, rigPod_bitmap _ h1, h3]
  decide),
   by decide +kernel,
   (by decide +kernel), (by
  intro v hv
  have hb : rigPod.podBusy 0 ((tableGet? (rigPod.part 0).pods 15).getD {}) = false := rfl
  have he : v = 0x8000000000000001 → ∀ bs, rigPod.enrolled 0 15 (v &&& 0x8000FFFF0000FFFF) bs = false := by
    intro h bs
    subst h
    simp only [State.enrolled, show bits (0x8000000000000001 &&& 0x8000FFFF0000FFFF : Word64) 47 32 = 0 by decide]
    rfl
  simp only [List.mem_cons, List.not_mem_nil, or_false] at hv
  rcases hv with rfl | rfl
  · exact ⟨hb, by decide, fun h => absurd h (by decide)⟩
  · exact ⟨hb, by decide, fun _ => he rfl _⟩), by decide +kernel, by decide +kernel, by decide +kernel⟩

theorem witness_DebugEventsHappen :
    (let s := rig.setQuad 0 { rig.quad 0 with halting := true }
     (s.quad 0).halting = true ∧ (s.quadActs 0).all s.canHalt = true ∧ s.quadActs 0 = [1]) ∧
    ((511 : Nat) < 512) ∧
    (let s := rig.setAct 1 { rig.act 1 with run := .halted }
     (s.act 1).run = .halted) ∧
    (let s := rig.setPart 0 { rig.part 0 with proof := some 1000 }
     (s.part 0).proof = some 1000 ∧ 1000 = s.tick) := by decide +kernel

/-- An emergency save under way, with its commit recorded or not. -/
def rigSave (commit : Bool) : State := { State.reset with saving := true, committed := commit }

/-- The record of an earlier trip is kept. -/
def rigTripped : State := { rigSave false with triprec := 0x8000000000000000 }

theorem witness_PowerEventsHappen :
    ((7 : Nat) < 8 ∧ (rig.die 7).change = none ∧ (rig.die 7).pauseUntil = none) ∧
    (let s := rig.setDie 7 { rig.die 7 with change := some (3, 2000) }
     (s.die 7).change.isSome = true ∧ (s.die 7).change = some (3, 2000)) ∧
    (∀ next ∈ [none, some 2], let s := rig.setDie 7 { rig.die 7 with pauseUntil := some 1000, nextReq := next }
     (s.die 7).pauseUntil = some 1000 ∧ 1000 ≤ s.tick ∧ (s.die 7).nextReq = next) ∧
    ((511 : Nat) < 512 ∧ (15 : Nat) < 16 ∧ (rig.quad 511).gated.contains 15 = false ∧ rig.holdings = []) ∧
    ((rig.setQuad 511 { rig.quad 511 with gated := [15] }).quad 511).gated.contains 15 = true ∧
    ((rigSave false).armatureLive = true ∧ rigTripped.armatureLive = true ∧ (rigSave true).armatureLive = true
      ∧ (rigTripped.setCore 2048 { frozen := true }).armatureLive = false) ∧
    ((rigSave false).saving = true ∧ (rigSave false).replaysDone = true ∧ (rigSave false).saveAll.residentCrews = []
      ∧ (rigSave false).saveAll.writeBack.triprec.getLsbD 63 = false) ∧
    (rigTripped.saving = true ∧ rigTripped.replaysDone = true ∧ rigTripped.saveAll.residentCrews = []
      ∧ rigTripped.saveAll.writeBack.triprec.getLsbD 63 = true) ∧
    ((rigSave true).saving = true ∧ (rigSave true).committed = true ∧ (rigSave true).triprec.getLsbD 63 = false
      ∧ rigTripped.triprec.getLsbD 63 = true) ∧
    ((rig.die (quadDie 511)).gatedWays.contains 15 = false ∧ (15 : Nat) < 16) ∧
    ((rig.setDie 7 { rig.die 7 with pauseUntil := some 1010 }).die 7).pauseUntil.isSome = true ∧
    ((rig.setDie (quadDie 511) { rig.die (quadDie 511) with gatedWays := [15] }).die (quadDie 511)).gatedWays.contains 15 = true ∧
    (0x8000000000000000 : Word64).getLsbD 63 = true := by decide +kernel

/-- The fused policy is open: an alarm is recorded under policy 0 where that is what is fused. -/
theorem witness_ResetAndAttestEventsHappen :
    partmapOk ((0x11110000 : Word64).setWidth 32) = true ∧ State.reset.running = true ∧ State.reset.armatureLive = true
      ∧ ({ State.reset with bootstat := 0x0100000000000000 } : State).running = false ∧ State.reset.partmapNext = State.reset.partmap
      ∧ State.reset.recs = [] ∧ (∀ x ∈ State.reset.dies, x.2.mcache = []) ∧ State.reset.att = none ∧ State.reset.tamper.getLsbD 57 = false ∧
    (let s := { State.reset with att := some { addr := 64, nonce := [0, 0, 0, 0] } }
     s.att = some { addr := 64, nonce := [0, 0, 0, 0] }) ∧
    State.reset.tamper.getLsbD 63 = false ∧
    ({ State.reset with partmapNext := 0x11110000 } : State).partmapNext ≠ ({ State.reset with partmapNext := 0x11110000 } : State).partmap ∧
    (let s := { State.reset with tamper := 0x8200000000000000 }
     s.att = none ∧ s.tamper.getLsbD 57 = true ∧ s.tamper.getLsbD 63 = true) ∧
    ({ State.reset with att := some { addr := 64, nonce := [0, 0, 0, 0] } } : State).att.isSome = true ∧
    (0x1408 < 2 ^ 24 ∧ (State.reset.plainReg 0 0x1408 7 true).isSome = true) ∧
    (0x1000 < 2 ^ 24 ∧ (State.reset.plainReg 0 0x1000 7 true).isSome = false) := by decide +kernel

/-! ## Whole-machine rules: their hypotheses are met -/

def goes (o : Host.Outcome State Fault Refusal) : Bool :=
  match o with
  | .next _ => true
  | _ => false

theorem goes_next {o : Host.Outcome State Fault Refusal} (h : goes o = true) : ∃ t, o = .next t := by
  cases o with
  | next t => exact ⟨t, rfl⟩
  | fault _ => cases h
  | refused _ => cases h

/-- The state after a step or a word; the state itself where there is none. -/
def after (s : State) (o : Host.Outcome State Fault Refusal) : State :=
  match o with
  | .next t => t
  | _ => s

/-- The machine with a word at word 0 of its code object. -/
def rigWord (w : Word80) : State := { rig with mem := sparseWrite [] 0x200000 (natToBytes 10 w.toNat) }

/-- A defined word (ADD) and a word of an undefined opcode. -/
abbrev wordAdd : Word80 := 0x005D_6000_0000_0000_0000
abbrev wordNone : Word80 := 0xFF00_0000_0000_0000_0000

/-- The first word of a BSP gang. -/
def rigFirst : State :=
  let s := rigWord wordAdd
  s.setGang 1 { s.gang 1 with lrec := { (s.gang 1).lrec with bsp := true } }

theorem witness_StepRunsTheDecodedWord :
    ((rigWord wordAdd).schedule = [] ∧ (rigWord wordAdd).holdsIssue (rigWord wordAdd).focus = false
      ∧ (rigWord wordAdd).portAct (rigWord wordAdd).focus = some 1 ∧ ((rigWord wordAdd).act 1).run = .inService
      ∧ ((rigWord wordAdd).act 1).trapPend = none ∧ (rigWord wordAdd).interruptOf ((rigWord wordAdd).act 1) = none
      ∧ ((rigWord wordAdd).act 1).block = none ∧ ((rigWord wordAdd).act 1).annulled = false
      ∧ ((rigWord wordAdd).act 1).duePend = none ∧ (rigWord wordAdd).moulding 1 = false ∧ (rigWord wordAdd).unopened 1 = false
      ∧ (rigWord wordAdd).codeMiss ((rigWord wordAdd).act 1) = none ∧ (rigWord wordNone).codeMiss ((rigWord wordNone).act 1) = none
      ∧ ((rigWord wordAdd).fetch ((rigWord wordAdd).act 1)).toOption = some wordAdd) ∧
    ((rigWord wordNone).schedule = [] ∧ (rigWord wordNone).holdsIssue (rigWord wordNone).focus = false
      ∧ (rigWord wordNone).portAct (rigWord wordNone).focus = some 1 ∧ ((rigWord wordNone).act 1).run = .inService
      ∧ ((rigWord wordNone).act 1).trapPend = none ∧ (rigWord wordNone).interruptOf ((rigWord wordNone).act 1) = none
      ∧ ((rigWord wordNone).act 1).block = none ∧ ((rigWord wordNone).act 1).annulled = false
      ∧ ((rigWord wordNone).fetch ((rigWord wordNone).act 1)).toOption = some wordNone) ∧
    ((decodeIn A 0x005D_6000_0000_0000_0000).toOption.isSome = true ∧ (decodeIn A 0xFF00_0000_0000_0000_0000).toOption.isSome = false
      ∧ (rig.fetch { A with pc := 0x10000 }).toOption = none ∧ rig.codeMiss { A with pc := 0x10000 } = none
      ∧ (rig.codeMiss { A with pc := 0x4000 }).isSome = true) ∧
    (({ rig with schedule := [.event (.hostirqWrite 0)] } : State).schedule = .event (.hostirqWrite 0) :: []
      ∧ ({ rig with schedule := [] } : State).running = true ∧ served (.hostirqWrite 0) = true ∧ layout (.hostirqWrite 0) = none) ∧
    ({ rig with schedule := [.cycle 3] } : State).schedule = [.cycle 3] ∧
    (rigFirst.schedule = [] ∧ rigFirst.holdsIssue rigFirst.focus = false ∧ rigFirst.portAct rigFirst.focus = some 1
      ∧ rigFirst.moulding 1 = false ∧ rigFirst.unopened 1 = true
      ∧ rigFirst.issuedTo (after rigFirst (issueWord 0 1 rigFirst)) 1 = true ∧ goes (issueWord 0 1 rigFirst) = true) :=
  ⟨by decide +kernel, by decide +kernel, by decide +kernel, by decide +kernel, rfl, by decide +kernel⟩

theorem witness_EncodeThenDecode : WellFormed (.add 23 22 0 cl0) ∧ encode (.add 23 22 0 cl0) = some 0x005D_6000_0000_0000_0000 ∧
    WellFormed (.vld 2 1 0 0 1 cl1) ∧ (encode (.vld 2 1 0 0 1 cl1)).isSome = true := by decide +kernel

theorem witness_DecodeThenEncode : decode 0x0265_9000_0000_1000_0001 = .ok (.addi 25 25 1 { cl0 with last := 1 }) :=
  ok_eq (by decide +kernel)

/-- A word of every reserved opcode is refused; this is one. -/
theorem witness_WordsDecodeAsEncoded : 0xC0 ≤ (0xC000_0000_0000_0000_0000 : Word80).toNat / 2 ^ 72 := by decide

theorem witness_MemoryFormKept : State.reset.MemWf ∧ State.reset.UnitsWf ∧ (∃ t, step State.reset = .next t) ∧ ∃ t, step (rigWord 0) = .next t :=
  ⟨reset_memWf, reset_unitsWf, goes_next (by decide +kernel), goes_next (by decide +kernel)⟩

theorem witness_ExtremesCountsConstantsSelect : (∀ i ∈
    [Instr.min 1 2 3 cl0, .max 1 2 3 cl0, .minu 1 2 3 cl0, .maxu 1 2 3 cl0, .clz 1 2 cl0, .popc 1 2 cl0, .li 1 5 cl0,
     .lih 1 2 5 cl0, .sel 1 2 3 2 cl0], ∀ n ∈ needs, rig.Clear 0 1 i cl0 n) ∧
    ((63 : Nat) < 64 ∧ (0x8000000000000000 : Word64).toNat / 2 ^ 63 = 1 ∧ (1 : Word64).toNat / 2 ^ 0 = 1) :=
  ⟨clear_all (by decide +kernel), by decide +kernel⟩

/-- An entry of each age. -/
def rigEntryOf (rem : BitVec 2) (taken : Bool) : RdqEntry := { valid := true, taken := taken, rem := rem, target := 9 }

theorem witness_RedirectQueueAndModes :
    (let a : Act := { rigAct with rdq0 := rigEntryOf 1 true, rdq1 := rigEntryOf 2 false }
     a.rdq0.valid = true ∧ a.rdq0.rem = 1 ∧ a.rdq1.valid = true ∧ a.rdq1.rem = 2) ∧
    (let a : Act := { rigAct with rdq0 := rigEntryOf 2 true }
     a.rdq0.valid = true ∧ a.rdq0.rem = 2 ∧ a.rdq1.valid = false) ∧
    (A.rdq0.valid = false ∧ A.rdq1.valid = false) ∧
    (let e : Eff := { st := rig }
     e.post = .none ∧ e.st.stip 0 = 0 ∧ e.st.act 1 = rig.act 1) ∧
    (∀ m ∈ ([0, 1, 2, 3, 4, 5, 6] : List (BitVec 3)), ({ cl0 with seqMode := m } : Clauses).seqMode = m) := by decide +kernel

/-- A context whose next word is annulled. -/
def rigAnnul : State := rigAt 0 0 { rigAct with rdq0 := { rigEntryOf 2 false with annul := true } }

theorem witness_AnnulledWords :
    let x := rigAnnul.act 1
    rigAnnul.schedule = [] ∧ rigAnnul.holdsIssue rigAnnul.focus = false ∧ rigAnnul.portAct rigAnnul.focus = some 1
      ∧ x.run = .inService ∧ x.trapPend = none ∧ rigAnnul.interruptOf x = none ∧ x.block = none ∧ x.annulled = true
      ∧ x.fixed = [] ∧ rigAnnul.stip rigAnnul.focus = 0 ∧ rigAnnul.unopened 1 = false
      ∧ rigAnnul.moulding x.gang = false := by decide +kernel

theorem witness_ResultsLand :
    (0 < 63 ∧ 63 < 64 ∧ A.fixed = [] ∧ rig.stip 0 = 0 ∧ sparseWf 0 (A.regsFor (sreg 63)).s = true) ∧
    (let i : Instr := .add 1 2 3 { cl0 with last := 1 }
     sreg 2 ∈ releases i { cl0 with last := 1 } ∧ sreg 2 ≠ sreg 1 ∧ sreg 2 ≠ sreg 0 ∧ sreg 2 ≠ preg 0 ∧ (sreg 2).num < (sreg 2).file.size
       ∧ (sreg 63).num < (sreg 63).file.size ∧ (kreg 15).num < (kreg 15).file.size) := by
  decide +kernel

/-- A context whose s2 is not live, and one whose s3 carries poison. -/
def rigDead : State := rigAt 0 0 { rigAct with regs := { rigRegs with liveS := ~~~4 } }
def rigTaint : State := rigAt 0 0 { rigAct with regs := { rigRegs with poison := [(3, { detail := 1, addr := 2 })] } }

theorem witness_DeadAndPoisonedSources :
    let i : Instr := .add 1 2 3 cl0
    (scalarWord i = true ∧ rigDead.current = some (0, 1) ∧ rigDead.waits 0 1 (rigDead.act 1) cl0 {} = none
      ∧ sources (rigDead.act 1) i cl0 = [] ++ sreg 2 :: [sreg 3] ∧ (rigDead.act 1).live (sreg 2) = false) ∧
    (rigTaint.current = some (0, 1) ∧ rigTaint.waits 0 1 (rigTaint.act 1) cl0 {} = none
      ∧ sources (rigTaint.act 1) i cl0 = [sreg 2] ++ sreg 3 :: [] ∧ (sources (rigTaint.act 1) i cl0).all (rigTaint.act 1).live = true
      ∧ ([sreg 2] : List RegName).all (fun q => (rigTaint.act 1).poison? q == none) = true
      ∧ (rigTaint.act 1).poison? (sreg 3) = some { detail := 1, addr := 2 }) := by decide +kernel

theorem witness_ScalarWordsFrame :
    let i : Instr := .add 1 2 3 cl0
    scalarWord i = true ∧ WellFormed i ∧ rig.Holds 0 1 ∧ rig.stip 0 = 0 ∧ rig.Clear 0 1 i cl0 {} ∧ (rig.act 1).fixed = []
      ∧ cl0.seqMode ≠ 4 ∧ cl0.seqMode ≠ 6 ∧ ∃ t, exec i rig = .next t :=
  ⟨by decide +kernel, by decide +kernel, by unfold State.Holds; decide +kernel, by decide +kernel,
   clear_of_clearB (by decide +kernel), rfl, by decide, by decide, goes_next (by decide +kernel)⟩

theorem witness_StoresFrame :
    (rig.stip 0 = 0 ∧ Memory.wf (rig.core 0).lm = true ∧ A.fixed = []) ∧
    rig.Clear 0 1 (.stl 3 8 1 0 cl0) cl0 { memWord := true } ∧ rig.Clear 0 1 (.vstl 0 8 4 0 cl0) cl0 { memWord := true } ∧
    ((A.s 8 + (0 : BitVec 16).signExtend 64).toNat % 8 = 0 ∧ A.lmAddr 64 8 = some 64 ∧ rig.lmBusy 0 64 8 true = false
      ∧ A.lmAddr 64 64 = some 64 ∧ rig.lmBusy 0 64 64 true = false) ∧
    (∃ t, exec (.stl 3 8 1 0 cl0) rig = .next t) ∧ (∃ t, exec (.vstl 0 8 4 0 cl0) rig = .next t) ∧ rig.MemWf ∧
    (let q := rigQ (.store [1, 2] ([1, 2].map (fun _ => true)))
     let s := withReq (rigO (.device none false)) q
     s.req? 30 = some q ∧ s.mayPerform 30 q = true ∧ q.path ≠ .window ∧ s.merges = [] ∧ s.copyBad 64 1 = false
       ∧ goes (exec (.homePortAccess 30) s) = true) :=
  ⟨by decide +kernel, clear_of_clearB (by decide +kernel), clear_of_clearB (by decide +kernel), by decide +kernel,
   goes_next (by decide +kernel), goes_next (by decide +kernel), ⟨rfl, rfl, rfl⟩, by decide +kernel⟩

theorem witness_RegisterWrites :
    sparseGet 0 rigRegs.s 0 = 0 ∧ sparseWf 0 rigRegs.s = true ∧ sparseWf 0 rigRegs.p = true ∧ sparseWf {} rigRegs.v = true
      ∧ sparseWf {} rigRegs.k = true ∧ sparseWf 0 rigRegs.b = true ∧ (wS 63 1).reg ≠ sreg 0 ∧ (wS 63 1).reg.num < (wS 63 1).reg.file.size ∧ (wB 7 1).reg.num < (wB 7 1).reg.file.size
      ∧ sreg 2 ≠ (wS 63 1).reg := by decide +kernel

/-- A context behind a tag that is no restartable wait; in a handler; with interrupts due. -/
def rigHandler : State := rigAt 0 0 { rigAct with asw := 0x82 }
def rigLine : State := rigAt 0 0 { rigAct with trap := { extpend := 0x8000 } }

theorem witness_TrapsAreTaken :
    (withOp (rigO (.fixedTime []))).quiet 1 = false ∧
    (rig.quiet 1 = true ∧ A.fixed = [] ∧ A.tip = false ∧ ¬ (cTRAPI = cUNCORR ∨ cTRAPI = cRETLOST ∨ cTRAPI = cMCHECK)) ∧
    (rig.quiet 1 = true ∧ A.fixed = [] ∧ A.tip = false ∧ (cUNCORR = cUNCORR ∨ cUNCORR = cRETLOST ∨ cUNCORR = cMCHECK)) ∧
    (rigHandler.quiet 1 = true ∧ (rigHandler.act 1).fixed = [] ∧ (rigHandler.act 1).tip = true ∧ cTRAPI ≠ cTIMER
      ∧ cTRAPI ≠ cEXTINT ∧ cTRAPI ≠ cRETLOST ∧ cTRAPI ≠ cMCHECK
      ∧ (tableGet? rigHandler.gangs (rigHandler.act 1).gang).isSome = true) ∧
    ((rigHandler.act 1).ie = false ∧ A.ie = true) ∧
    ((rigTimer.act 1).trap.timecmp ≠ 0 ∧ (rigTimer.act 1).trap.timecmp.toNat ≤ rigTimer.tick) ∧
    (let x := rigLine.act 1
     x.ie = true ∧ x.tip = false ∧ x.trap.timecmp = 0 ∧ x.timerPend = false ∧ 15 < 16 ∧ x.trap.extpend.getLsbD 15 = true
       ∧ ∀ m < 15, x.trap.extpend.getLsbD m = false) := by decide +kernel

theorem witness_TrapReturnRestores :
    (A.mode ≠ 0 ∧ bits A.trap.svasw 1 0 ≤ A.mode ∧ bits A.trap.svasw 1 0 ≠ 3 ∧ rig.stip 0 = 0 ∧ A.fixed = []) ∧
    rig.Clear 0 1 (.tret cl0) cl0 {} ∧ (∃ t, exec (.tret cl0) rig = .next t) ∧
    (A.asw &&& ~~~(0xFBFF : Word64) = 0 ∧ A.rdq0.valid = false ∧ (rigEntryOf 2 true).rem = 2) ∧
    rig.Clear 0 1 (.add 1 2 3 cl0) (fieldsOf (.add 1 2 3 cl0)).cl {} ∧ (∃ t, exec (.add 1 2 3 cl0) rig = .next t) ∧
    (∀ i ∈ [Instr.swr 6 0 cl0, .ld 3 1 1 8 0 cl1, .vadd 0 3 1 2 0 cl0, .mzero 0 1 cl1, .bar 0 3 0 cl1],
      (layout i).isSome = true ∧ A.mode ≠ 3 ∧ rig.Holds 0 1 ∧ goes (exec i rig) = true
        ∧ (tableGet? (after rig (exec i rig)).acts 1).isSome = true) :=
  ⟨by decide +kernel, clear_of_clearB (by decide +kernel), goes_next (by decide +kernel), by decide +kernel,
   clear_of_clearB (by decide +kernel), goes_next (by decide +kernel), by unfold State.Holds; decide +kernel⟩

/-- AccessFaultsAndNarrowing: every way a local, a scratchpad and a device access, a gather or scatter, and ZEROL may end, by the
operands of the word. -/
theorem witness_AccessFaultsAndNarrowing : (∀ i ∈
    [Instr.ldl 3 1 1 0 cl1, .stl 3 11 1 0 cl1, .ldq 3 1 1 0 cl1, .stq 3 4 1 0 cl1, .vldl 1 1 1 4 cl1, .vstl 0 4 4 0 cl1,
     .vldq 1 1 1 4 cl1, .vstq 0 4 4 0 cl1, .ld 3 1 1 1 0 cl1, .ld 3 1 3 8 0 cl1, .ld 3 1 2 9 0 cl1, .ld 3 1 4 8 0 cl1,
     .st 11 3 8 1 0 cl1, .vld 1 1 8 1 4 cl1, .vst 0 3 8 4 0 cl1, .cld 2 1 8 0 cl1, .cst 1 8 1 0 cl1, .aadd 8 1 1 8 2 0 cl1,
     .alog 2 1 1 8 2 0 cl1, .amnx 11 1 1 8 2 6 cl1, .aswp 0 1 1 8 2 16 cl1, .acas 8 1 1 8 2 32 cl1, .afadd 0 0 1 8 2 0 cl1,
     .waitmem 5 1 1 8 2 16 cl1, .signal 1 8 2 0 cl1, .vldl 1 8 1 31 cl1, .vldq 1 8 4 18 cl1, .vstl 0 8 1 16 cl1,
     .vgathl 0 2 1 1 4 cl1, .vgathl 0 2 1 1 5 cl1, .vscatl 0 1 1 4 cl1, .vscatl 0 8 4 4 cl1, .vscatl 0 8 1 8 cl1, .zerol 1 8 cl1,
     .zerol 8 1 cl1, .zerol 8 16 cl1, .cnarrow 2 1 8 8 127 cl1], ∀ n ∈ needs, rig.Clear 0 1 i cl1 n) ∧
    ((A.s 1).toNat % 8 ≠ 0 ∧ (0x20000 : Word64).toNat % 8 = 0 ∧ A.lmAddr 0x20000 8 = none ∧ A.lmAddr 0x20000 64 = none
      ∧ (0x20000 : Word64).toNat % 64 = 0 ∧ A.qsBase + A.qsLen < 0x20000 + 8) ∧
    ((A.k 3).valid = false ∧ (A.k 1).valid = true ∧ (A.k 1).reserved = false ∧ hasRights (A.k 1).rights rR = true
      ∧ hasRights (KReg.make 7 2 64 0 true).rights rR = false ∧ hasRights (A.k 1).rights (rA + rW + rS) = true) ∧
    ((A.k 2).valid = true ∧ ¬ (((A.k 2).lo : Int) + (A.s 9).toInt + 8 ≤ (A.k 2).hi) ∧ ¬ (0 ≤ (A.s 4).toInt)) ∧
    (0 ≤ (A.s 1).toInt ∧ ((A.k 1).lo : Int) + (A.s 1).toInt + 8 ≤ (A.k 1).hi ∧ ((1 : Nat) : Int) = (A.k 1).lo + (A.s 1).toInt
      ∧ 1 % 8 ≠ 0) ∧
    (∃ t, rigSmallObj.lookup 0 A.part { object := 7, offset := 64, bytes := 8, write := false, atom := 0 } = .fault t) ∧
    rig.lookup 0 A.part { object := (A.k 2).object, offset := 0, bytes := 8, write := false, atom := 0 } = .miss ∧
    (tagKnown 31 = false ∧ tagKnown 18 = true ∧ tagBlock 18 = true ∧ bwOk 18 ((A.s 4).setWidth 32) = false
      ∧ tagFloat (A.v 1).tag.toNat = false ∧ tagFp8 (A.v 1).tag.toNat = false) ∧
    ((A.v 1).tag = 4 ∧ (A.v 4).tag ≠ 4 ∧ (A.v 8).tag ≠ 0 ∧ tagWidth (A.v 8).tag.toNat ≠ 32 ∧ (A.s 1).toNat % 4 ≠ 0
      ∧ (A.s 8).toNat % 4 = 0 ∧ (A.p 0).getLsbD 0 = true
      ∧ A.lmAddr ((0x20000 : Word64) + BitVec.ofInt 64 (sextNat (elem (A.v 1).data 32 0) 32 * 4)).toNat 4 = none) ∧
    ((A.s 8).toNat % 64 = 0 ∧ (A.s 1).toNat % 64 ≠ 0 ∧ (A.s 16).toNat % 64 = 0 ∧ 65536 < (A.s 16).toNat) ∧
    (A.k 1).lo + (A.s 8).toNat + (A.s 8).toNat ≤ (A.k 1).hi :=
  ⟨clear_all (by decide +kernel), by decide +kernel, by decide +kernel, by decide +kernel, by decide +kernel,
   ⟨objTrap cOBJPROT { object := 7, offset := 64, bytes := 8, write := false, atom := 0 }, by decide +kernel⟩,
   by decide +kernel, by decide +kernel, by decide +kernel, by decide +kernel, by decide +kernel⟩

theorem witness_DispatchedContexts : (rig.gang 1).lrec.mode < 3 ∧ (2 : Nat) < 3 := by decide +kernel

/-- MatrixUnitResults: indexes at both ends, a load and a store of two rows, a product of one row, an image that is whole and one
that is not, and a queue whose head is the word. -/
theorem witness_MatrixUnitResults :
    ((0 < 64 ∧ 63 < 64) ∧ ((rig.setCore 0 { rig.core 0 with mqueue := [20] }).core 0).mqueue = 20 :: []) ∧
    (([0, 64] : List Nat)[1]? = some 64 ∧ ([0, 64] : List Nat)[2]? = none) ∧
    (([(5, [(0, 0)])] : List (Nat × List (Nat × Nat))).find? (fun r => r.1 == 5) = some (5, [(0, 0)])
      ∧ ([(5, [(0, 0)])] : List (Nat × List (Nat × Nat))).find? (fun r => r.1 == 6) = none) ∧
    (∀ last ∈ [1, 2],
      let bytes := (List.range 257).flatMap (fun i => (tableGet? [(256, BitVec.ofNat 8 last :: List.replicate 63 0)] i).getD
        (List.replicate 64 0))
      (decide (((bytes.drop 16384).headD 0).toNat ≤ 1) && (bytes.drop 16385).all (· == 0)) = (last == 1)) ∧
    (A.block ≠ some .exit ∧ A.trapPend = none ∧ sparseWf {} A.regs.v = true ∧ Memory.wf (rig.core 0).lm = true
      ∧ Memory.wf (rig.quad 0).qs = true ∧ (MatWord.zero 1).stores = false ∧ (MatWord.zero 1).dest ≠ some 2) := by decide +kernel

/-- OtherWordsFrame: words of each family that issue, and one that a fault keeps from it. -/
theorem witness_OtherWordsFrame : ∀ i ∈
    [Instr.div 1 2 0 cl1, .swr 6 0 cl0, .srd 1 0 cl0, .deadmk 0 1 cl0, .ldl 3 1 8 0 cl0, .ldl 3 1 1 0 cl0, .ld 3 1 1 8 0 cl1,
     .aadd 8 1 1 8 2 0 cl1, .cget 0 1 1 cl0, .vadd 0 3 1 2 0 cl0, .mzero 0 1 cl1, .pset 1 7 cl0],
    frameWord i = true ∧ WellFormed i ∧ rig.Holds 0 1 ∧ rig.stip 0 = 0 ∧ A.fixed = [] ∧ goes (exec i rig) = true
      ∧ (((after rig (exec i rig)).act 1).num = A.num + 1 ↔ i ≠ .ldl 3 1 1 0 cl0) := by
  unfold State.Holds; decide +kernel

/-! ## Decoding: words written out in the spec, or from its encoding tables -/

/-- Clauses by their fields: seq.mode, seq.b, seq.p, seq.annul, pd, sb.alloc, sb.wait, last. -/
def cls (m b p : BitVec 3) (an : BitVec 2) (pd al : BitVec 3) (w : BitVec 7) (last : BitVec 3) : Clauses :=
  { seqMode := m, seqB := b, seqP := p, annul := an, pd := pd, alloc := al, wait := w, park := 0, last := last }

/-- Scalar words and the redirect words: R81's word and the programs of R146, R91. -/
theorem test_decode_scalar :
    (decode 0x000C_1080_0000_048A_4022).toOption = some (.add 3 1 2 (cls 2 2 1 1 1 0 2 2)) ∧
    (decode 0x0255_5000_0004_0000_0001).toOption = some (.addi 21 21 64 (cls 0 0 0 0 0 0 0 1)) ∧
    (decode 0x2005_02C0_2000_0495_C001).toOption = some (.cmp 2 1 16 11 (cls 2 2 2 2 7 0 0 1)) ∧
    (decode 0x2504_0000_0000_1001_C000).toOption = some (.tgt 1 1 (cls 0 0 0 0 7 0 0 0)) ∧
    (decode 0x2A00_0000_0000_044B_C000).toOption = some (.nop (cls 2 1 1 1 7 0 0 0)) ∧
    (decode 0x2C01_9000_0004_0001_C041).toOption = some (.swr 25 64 (cls 0 0 0 0 7 0 4 1)) ∧
    (decode 0x3B1C_72C0_3000_0531_C401).toOption = some (.crc32c 3 7 7 11 (cls 2 4 6 0 7 0 64 1)) := by decide +kernel

/-- Memory words: loads, ordered stores, waits and fences. -/
theorem test_decode_memory :
    (decode 0x4A04_0540_0000_6000_0800).toOption = some (.vld 1 0 21 0 6 (cls 0 0 0 0 0 1 0 0)) ∧
    (decode 0x4500_1105_B002_3001_D000).toOption = some (.st 11 1 4 5 0x23 (cls 0 0 0 0 7 2 0 0)) ∧
    (decode 0x5434_02CC_8001_3001_F002).toOption = some (.waitmem 8 13 0 11 12 0x13 (cls 0 0 0 0 7 6 0 2)) ∧
    (decode 0x5500_0000_0002_1001_D000).toOption = some (.fence 0x21 (cls 0 0 0 0 7 2 0 0)) := by decide +kernel

/-- Vector, matrix and cutter words. -/
theorem test_decode_vector_matrix :
    (decode 0x6010_40C0_0000_0000_0002).toOption = some (.vadd 0 4 4 3 0 (cls 0 0 0 0 0 0 0 2)) ∧
    (decode 0x790C_1140_0000_B001_C000).toOption = some (.vcvt 0 3 1 5 0xB (cls 0 0 0 0 7 0 0 0)) ∧
    (decode 0x8304_A2CC_0000_0001_D822).toOption = some (.mmas 0 1 10 11 12 (cls 0 0 0 0 7 3 2 2)) ∧
    (decode 0x9720_0000_2000_3001_D800).toOption = some (.cut 2 8 3 (cls 0 0 0 0 7 3 0 0)) ∧
    (decode 0x981C_8006_0000_1A05_E000).toOption = some (.cutb 7 8 0 6 1 (cls 5 0 0 2 7 4 0 0)) := by decide +kernel

/-- Meeting and barrier words; then LAUNCH, whose fields R266 lists (op 0xAD, d 1, a 2, b 1, c 2, pd 7, sb.alloc 1). -/
theorem test_decode_meeting_gang :
    (decode 0xA025_528C_1000_0001_F000).toOption = some (.meet 1 9 21 10 12 0 (cls 0 0 0 0 7 6 0 0)) ∧
    (decode 0xA218_3000_0000_0001_C800).toOption = some (.xreg 0 6 3 (cls 0 0 0 0 7 1 0 0)) ∧
    (decode 0xAA20_3000_2004_0001_E000).toOption = some (.barred 2 8 3 0x40 (cls 0 0 0 0 7 4 0 0)) ∧
    (decode 0xAD04_2042_0000_0001_C800).toOption = some (.launch 1 2 1 2 (cls 0 0 0 0 7 1 0 0)) := by decide +kernel

/-! ## Every check of an encoding refuses -/

/-- The word bit that R108 step 1 names for an instruction's fields; none where they are well formed. -/
def faultOf (i : Instr) : Option Nat :=
  match layout i, toFields i with
  | some l, some f => encodingFault l (tagged i) f
  | _, _ => some 72

/-- Each register field, mod and the immediate's sub-fields. -/
theorem test_ill_formed_fields :
    faultOf (.ldl 15 1 2 0 cl0) = some 44 ∧ faultOf (.vsel 1 2 3 8 cl0) = some 48 ∧ faultOf (.vadd 0 1 2 40 0 cl0) = some 54 ∧
    faultOf (.vadd 0 1 40 2 0 cl0) = some 60 ∧ faultOf (.vadd 0 40 1 2 0 cl0) = some 66 ∧ faultOf (.cmp 0 0 1 2 cl0) = some 66 ∧
    faultOf (.cut 2 7 3 cl1) = some 66 ∧ faultOf (.cut 2 8 2 cl1) = some 28 ∧ faultOf (.cut 2 8 0 cl1) = some 28 ∧
    faultOf (.cut 0 8 3 cl1) = some 44 ∧ faultOf (.fence 0x27 cl1) = some 28 ∧ faultOf (.fence 0x01 cl1) = some 32 ∧
    faultOf (.pset 1 9 cl0) = some 28 ∧ faultOf (.fence 0x61 cl1) = some 34 := by decide +kernel

/-- The clauses: a reserved seq.mode or annul, annul without a redirect, seq.b where no target is read, a tag on an untagged word
and none on a tagged one, last-use marks on operands that allow none, TRET with a redirect. -/
theorem test_ill_formed_clauses :
    faultOf (.add 1 2 3 { cl0 with seqMode := 7 }) = some 25 ∧ faultOf (.add 1 2 3 { cl0 with annul := 1 }) = some 17 ∧
    faultOf (.add 1 2 3 { cl0 with seqMode := 1, annul := 3 }) = some 17 ∧ faultOf (.nop { cl0 with seqB := 1 }) = some 22 ∧
    faultOf (.add 1 2 3 cl1) = some 11 ∧ faultOf (.vld 1 0 2 0 0 cl0) = some 11 ∧ faultOf (.nop { cl0 with last := 1 }) = some 0 ∧
    faultOf (.add 1 2 0 { cl0 with last := 2 }) = some 1 ∧ faultOf (.addi 1 2 3 { cl0 with last := 4 }) = some 2 ∧
    faultOf (.tret { cl0 with seqMode := 1, annul := 0 }) = some 25 ∧ wellFormed (.add 1 2 3 cl0) = true := by decide +kernel
/-! ## One small step of a word of each family -/

/-- The context after a word. -/
def aft (i : Instr) : Act := (after rig (exec i rig)).act 1

/-- R112, R114, R118, R119: a sum wraps, an arithmetic shift keeps the sign, a signed comparison fills the mask, LI extends the sign. -/
theorem test_scalar : (aft (.add 20 1 4 cl0)).s 20 = 0 ∧ (aft (.sra 20 5 1 cl0)).s 20 = 0xC000_0000_0000_0000 ∧
    (aft (.cmp 2 3 4 1 cl0)).p 3 = 0xFFFF_FFFF_FFFF_FFFF ∧ (aft (.li 20 0xFFFF_FFFE cl0)).s 20 = 0xFFFF_FFFF_FFFF_FFFE := by
  decide +kernel

/-- R95: a GO clause enters the redirect queue with two slots to come. -/
theorem test_redirect : (aft (.nop { cl0 with seqMode := 1, seqB := 1 })).rdq0
    = { valid := true, taken := true, annul := false, rem := 2, target := 100 } := by decide +kernel

/-- R157: a 16-bit local store at 64 − 64 of 0x1000, least significant byte first. -/
theorem test_local_store : ((after rig (exec (.stl 1 8 10 0xFFC0 cl0) rig)).core 0).lm.take 1 = [(1, 0x10)] := by decide +kernel

/-- R168: bounds and rights narrow: 64..192 of object 7 with one right. -/
theorem test_narrow : (aft (.cnarrow 5 1 8 9 1 cl0)).k 5 = KReg.make 7 1 192 64 true := by decide +kernel

/-- R175: an FP32 sum 1 + 2 is 3, and an I32 sum 5 + 7 is 12, four and two cycles on. -/
theorem test_vector :
    (aft (.vadd 0 7 4 5 0 cl0)).fixed.map (fun f => f.writes.map (fun w => w.val)) = [[.v { data := 0x40400000, tag := 6 }]] ∧
    (aft (.vadd 0 7 1 2 0 cl0)).fixed.map (fun f => f.writes.map (fun w => w.val)) = [[.v { data := 12, tag := 4 }]] := by
  decide +kernel

/-- R133, R295: TRAP saves the next word's index and the status, and its immediate is the detail. -/
theorem test_trap : (aft (.trap 5 cl0)).trap.svpc = 1 ∧ (aft (.trap 5 cl0)).trap.svasw = A.asw ∧
    (aft (.trap 5 cl0)).trap.tdetail = 5 ∧ (aft (.trap 5 cl0)).tip = true := by decide +kernel
end Sys2Proof.Tests
end

section
/-! What it is for an operation to keep the canonical form of every memory and of every unit, and the rules from which each
operation's own lemma is put together: an update that reaches none of them, one that writes a record, a fold, a choice. -/
namespace Sys2Proof.Machine
set_option Elab.async false

/-! ## Contexts, cores and quads whose memories and registers stay -/

theorem Act.Wf.of_eq {a b : Act} (h : a.Wf) (e : (b.regs, b.bank) = (a.regs, a.bank) := by rfl) : b.Wf := by
  obtain ⟨h1, h2⟩ := Prod.mk.inj e
  exact ⟨h1 ▸ h.regs, h2 ▸ h.bank, h1 ▸ h.s0, h1 ▸ h.p0⟩

theorem Core.MemWf.of_eq {a b : Core} (h : a.MemWf)
    (e : (b.lm, b.lmPoison, b.imem, b.imemPoison) = (a.lm, a.lmPoison, a.imem, a.imemPoison) := by rfl) : b.MemWf := by
  simp only [Prod.mk.injEq] at e
  obtain ⟨h1, h2, h3, h4⟩ := e
  exact ⟨h1 ▸ h.lm, h2 ▸ h.poison, h3 ▸ h.imem, h4 ▸ h.imemPoison⟩

theorem Quad.MemWf.of_eq {a b : Quad} (h : a.MemWf) (e : (b.qs, b.qsPoison) = (a.qs, a.qsPoison) := by rfl) : b.MemWf := by
  obtain ⟨h1, h2⟩ := Prod.mk.inj e
  exact ⟨h1 ▸ h.qs, h2 ▸ h.poison⟩

theorem Act.Wf.ite {c : Prop} [Decidable c] {a b : Act} (ha : a.Wf) (hb : b.Wf) : (if c then a else b).Wf := by
  split
  · exact ha
  · exact hb

theorem Act.Wf.relive {a : Act} (h : a.Wf) {rs : List RegName} : (a.relive rs).Wf := by
  unfold Act.relive
  induction rs generalizing a with
  | nil => exact h
  | cons r rs ih =>
    refine ih ?_
    dsimp only
    split
    · exact ⟨h.regs, Regs.setLive_wf _ _ h.bank, h.s0, h.p0⟩
    · exact ⟨Regs.setLive_wf _ _ h.regs, h.bank, Regs.setLive_fixed _ _ _ (.inl rfl) h.s0,
        Regs.setLive_fixed _ _ _ (.inr rfl) h.p0⟩

theorem Act.Wf.undoIssue {a : Act} (h : a.Wf) : a.undoIssue.Wf := h.of_eq.relive

theorem Act.Wf.retire {a0 a : Act} (h : a.Wf) {i : Instr} {cl : Clauses} {cycle : Nat} {e : Eff} :
    (a0.retire a i cl cycle e).Wf := by
  unfold Act.retire
  rcases a0.sequence cl with ⟨new, lk, lc⟩
  have hr := Act.releases_wf (releases i cl) (a := { a with lk := e.lk.getD lk, lc := e.lc.getD lc }) h.of_eq
  have hn : ∀ {x : Act} (rs : List RegName), x.Wf → (((x.counted e.op).remember a0 rs).advance new).Wf := fun _ h => h.of_eq
  exact Act.landDue_wf _ (hn _ (.ite hr hr.of_eq))

theorem Act.Wf.sysWrite {a : Act} (h : a.Wf) {n : Nat} {x : Word64} : (a.sysWrite n x).Wf := by
  unfold Act.sysWrite
  split <;> exact h.of_eq

theorem Act.Wf.unbind {a old : Act} (h : a.Wf) : (a.unbind old).Wf := by
  unfold Act.unbind
  exact .ite h.of_eq h

/-! ## Contexts that come from elsewhere -/

/-- Where a context stood last: its registers are those that it has. -/
theorem Act.Wf.lastPlace {s : State} {gid : Nat} {a : Act} (h : a.Wf) : (s.lastPlace gid a).Wf := by
  unfold State.lastPlace
  dsimp only
  split
  · exact h
  · exact h.of_eq

theorem Regs.default_wf : ({} : Regs).Wf := ⟨rfl, rfl, rfl, rfl, rfl, rfl⟩

/-- The poison of registers is no part of their form. -/
theorem Regs.Wf.withPoison {g : Regs} (h : g.Wf) {p : Table Poison} : ({ g with poison := p } : Regs).Wf :=
  ⟨h.s, h.v, h.p, h.b, h.k, h.zero⟩

/-- Registers written one after the other over fresh files are in form, with s0 and p0 live. -/
theorem unpackSteps_wf (bs : List Byte) (valid : Nat) (rs : List RegName) {u : Unpack} (h : u.regs.Wf)
    (hs : u.regs.live (sreg 0) = true) (hp : u.regs.live (preg 0) = true) :
    let g := (rs.foldl (unpackStep bs valid) u).regs
    g.Wf ∧ g.live (sreg 0) = true ∧ g.live (preg 0) = true := by
  induction rs generalizing u with
  | nil => exact ⟨h, hs, hp⟩
  | cons r rs ih =>
    exact ih (Regs.put_wf _ h) (Regs.put_fixed _ _ (.inl rfl) hs) (Regs.put_fixed _ _ (.inr rfl) hp)

theorem unpackRegs_wf (bs : List Byte) (old : Table Poison) (free : Nat) :
    let g := unpackRegs bs old free
    g.Wf ∧ g.live (sreg 0) = true ∧ g.live (preg 0) = true := by
  obtain ⟨h, hs, hp⟩ := unpackSteps_wf _ _ _ (u := { off := 0, regs := {} }) Regs.default_wf rfl rfl
  exact ⟨h.withPoison, hs, hp⟩

/-- The bank's registers are s56 and up, so that a save area cannot change s0. -/
theorem unpackBank_wf (bs : List Byte) {old : Regs} (h : old.Wf) : (unpackBank bs old).Wf := by
  have scalars (f : Nat → Word64) (v : Nat → Bool) (l : List Nat) {g : Regs} (hg : g.Wf) :
      (l.foldl (fun (g : Regs) i =>
        ({ g with s := sparseSet 0 g.s (56 + i) (f i) } : Regs).setLive (sreg (56 + i)) (v i)) g).Wf := by
    induction l generalizing g with
    | nil => exact hg
    | cons i l ih =>
      refine ih (Regs.setLive_wf _ _ ⟨sparseWf_sparseSet _ _ hg.s, hg.v, hg.p, hg.b, hg.k, ?_⟩)
      exact (sparseGet_sparseSet_other _ hg.s (by omega)).trans hg.zero
  have caps (f : Nat → KReg) (v : Nat → Bool) (l : List Nat) {g : Regs} (hg : g.Wf) :
      (l.foldl (fun (g : Regs) i =>
        ({ g with k := sparseSet {} g.k (14 + i) (f i) } : Regs).setLive (kreg (14 + i)) (v i)) g).Wf := by
    induction l generalizing g with
    | nil => exact hg
    | cons i l ih => exact ih (Regs.setLive_wf _ _ ⟨hg.s, hg.v, hg.p, hg.b, sparseWf_sparseSet _ _ hg.k, hg.zero⟩)
  exact caps _ _ _ (scalars _ _ _ h)

theorem unpackAct_wf {a : Act} (h : a.Wf) (bs : List Byte) (free : Nat) : (unpackAct a bs free).Wf := by
  obtain ⟨hr, hs, hp⟩ := unpackRegs_wf bs a.regs.poison free
  exact ⟨hr, unpackBank_wf bs h.bank, hs, hp⟩

theorem newAct_wf (s : State) (aid gid n : Nat) (g : Gang) (p : Place) (idx core slot : Nat) :
    (s.newAct aid gid n g p idx core slot).Wf := by
  have bank : ({ liveS := 0, liveP := 0 } : Regs).Wf := ⟨rfl, rfl, rfl, rfl, rfl, rfl⟩
  unfold State.newAct
  constructor <;> dsimp only
  · exact Regs.put_wf _ (Regs.put_wf _ (Regs.put_wf _ Regs.default_wf))
  · exact Regs.put_wf _ (Regs.put_wf _ bank)
  · exact Regs.put_fixed _ _ (.inl rfl) (Regs.put_fixed _ _ (.inl rfl) (Regs.put_fixed _ _ (.inl rfl) rfl))
  · exact Regs.put_fixed _ _ (.inr rfl) (Regs.put_fixed _ _ (.inr rfl) (Regs.put_fixed _ _ (.inr rfl) rfl))

namespace State
variable {s t u : State}

/-- Whatever canonical form the memories and the units of `s` have, those of `t` have too. Every operation of the model has one
lemma about it, `KeepsForm.<the operation>`, put together from those of the operations that it calls. -/
structure KeepsForm (s t : State) : Prop where
  mem : s.MemWf → t.MemWf
  units : s.UnitsWf → t.UnitsWf

namespace KeepsForm

theorem refl (s : State) : s.KeepsForm s := ⟨id, id⟩

/-- An update of fields that hold no memory and no unit. -/
theorem aside (h : s.KeepsForm t) (hm : (u.mem, u.memTags, u.memPoison) = (t.mem, t.memTags, t.memPoison) := by rfl)
    (hu : (u.cores, u.quads, u.acts, u.gangs) = (t.cores, t.quads, t.acts, t.gangs) := by rfl) : s.KeepsForm u := by
  simp only [Prod.mk.injEq] at hm hu
  obtain ⟨m1, m2, m3⟩ := hm
  obtain ⟨u1, u2, u3, u4⟩ := hu
  exact ⟨fun w => (h.mem w).of_eq m1 m2 m3, fun w => (h.units w).of_eq u1 u2 u3 u4⟩

theorem ite {c : Prop} [Decidable c] (h : c → s.KeepsForm t) (k : ¬c → s.KeepsForm u) :
    s.KeepsForm (if c then t else u) := by
  split
  · exact h ‹_›
  · exact k ‹_›

theorem foldl {β : Type} {l : List β} {f : State → β → State} (h : s.KeepsForm t)
    (hf : ∀ u x, s.KeepsForm u → s.KeepsForm (f u x)) : s.KeepsForm (l.foldl f t) := by
  induction l generalizing t with
  | nil => exact h
  | cons x l ih => exact ih (hf t x h)

/-! ## What the records of a state hold -/

theorem act (h : s.KeepsForm t) (w : s.UnitsWf) {a : Nat} : (t.act a).Wf := (h.units w).act a
theorem core (h : s.KeepsForm t) (w : s.UnitsWf) {c : Nat} : (t.core c).MemWf := (h.units w).core c
theorem quad (h : s.KeepsForm t) (w : s.UnitsWf) {q : Nat} : (t.quad q).MemWf := (h.units w).quad q
theorem snap (h : s.KeepsForm t) (w : s.UnitsWf) {g : Nat} : ∀ y ∈ (t.gang g).snap.acts, y.2.Wf := (h.units w).snap g

/-- What a table lists is in form. -/
theorem foundAct (h : s.KeepsForm t) (w : s.UnitsWf) {a : Nat} {x : Act} (e : tableGet? t.acts a = some x) : x.Wf :=
  (h.units w).acts _ (mem_of_tableGet? e)
theorem foundGang (h : s.KeepsForm t) (w : s.UnitsWf) {g : Nat} {x : Gang} (e : tableGet? t.gangs g = some x) :
    ∀ y ∈ x.snap.acts, y.2.Wf := (h.units w).snaps _ (mem_of_tableGet? e)

/-! ## Updates of records -/

theorem setAct (h : s.KeepsForm t) {a : Nat} {x : Act} (hx : s.UnitsWf → x.Wf) : s.KeepsForm (t.setAct a x) :=
  ⟨fun w => (h.mem w).of_eq rfl rfl rfl, fun w => (h.units w).setAct a (hx w)⟩

theorem setCore (h : s.KeepsForm t) {c : Nat} {x : Core} (hx : s.UnitsWf → x.MemWf) : s.KeepsForm (t.setCore c x) :=
  ⟨fun w => (h.mem w).of_eq rfl rfl rfl, fun w => (h.units w).setCore c (hx w)⟩

theorem setQuad (h : s.KeepsForm t) {q : Nat} {x : Quad} (hx : s.UnitsWf → x.MemWf) : s.KeepsForm (t.setQuad q x) :=
  ⟨fun w => (h.mem w).of_eq rfl rfl rfl, fun w => (h.units w).setQuad q (hx w)⟩

theorem setGang (h : s.KeepsForm t) {g : Nat} {x : Gang} (hx : s.UnitsWf → ∀ y ∈ x.snap.acts, y.2.Wf) :
    s.KeepsForm (t.setGang g x) :=
  ⟨fun w => (h.mem w).of_eq rfl rfl rfl, fun w => (h.units w).setGang g (hx w)⟩

/-- A context changes in other fields than its registers. -/
theorem touchAct (h : s.KeepsForm t) {a : Nat} {x : Act} (e : (x.regs, x.bank) = ((t.act a).regs, (t.act a).bank) := by rfl) :
    s.KeepsForm (t.setAct a x) := h.setAct fun w => (h.act w).of_eq e

/-- A core changes in other fields than its memories. -/
theorem touchCore (h : s.KeepsForm t) {c : Nat} {x : Core}
    (e : (x.lm, x.lmPoison, x.imem, x.imemPoison)
      = ((t.core c).lm, (t.core c).lmPoison, (t.core c).imem, (t.core c).imemPoison) := by rfl) :
    s.KeepsForm (t.setCore c x) := h.setCore fun w => (h.core w).of_eq e

/-- A quad changes in other fields than its scratchpad. -/
theorem touchQuad (h : s.KeepsForm t) {q : Nat} {x : Quad}
    (e : (x.qs, x.qsPoison) = ((t.quad q).qs, (t.quad q).qsPoison) := by rfl) :
    s.KeepsForm (t.setQuad q x) := h.setQuad fun w => (h.quad w).of_eq e

/-- A gang changes in other fields than the contexts of its snapshot. -/
theorem touchGang (h : s.KeepsForm t) {g : Nat} {x : Gang} (e : x.snap.acts = (t.gang g).snap.acts := by rfl) :
    s.KeepsForm (t.setGang g x) := h.setGang fun w => e ▸ h.snap w

/-- An update of device memory alone. -/
theorem withMemory (h : s.KeepsForm t) (hm : t.MemWf → u.MemWf)
    (hu : (u.cores, u.quads, u.acts, u.gangs) = (t.cores, t.quads, t.acts, t.gangs) := by rfl) : s.KeepsForm u := by
  simp only [Prod.mk.injEq] at hu
  obtain ⟨u1, u2, u3, u4⟩ := hu
  exact ⟨fun w => hm (h.mem w), fun w => (h.units w).of_eq u1 u2 u3 u4⟩

theorem withActs (h : s.KeepsForm t) {l : Table Act} (hl : s.UnitsWf → ∀ x ∈ l, x.2.Wf) : s.KeepsForm { t with acts := l } :=
  ⟨fun w => (h.mem w).of_eq rfl rfl rfl, fun w => ⟨(h.units w).cores, (h.units w).quads, hl w, (h.units w).snaps⟩⟩

theorem withCores (h : s.KeepsForm t) {l : Table Core} (hl : s.UnitsWf → ∀ x ∈ l, x.2.MemWf) :
    s.KeepsForm { t with cores := l } :=
  ⟨fun w => (h.mem w).of_eq rfl rfl rfl, fun w => ⟨hl w, (h.units w).quads, (h.units w).acts, (h.units w).snaps⟩⟩

theorem withQuads (h : s.KeepsForm t) {l : Table Quad} (hl : s.UnitsWf → ∀ x ∈ l, x.2.MemWf) :
    s.KeepsForm { t with quads := l } :=
  ⟨fun w => (h.mem w).of_eq rfl rfl rfl, fun w => ⟨(h.units w).cores, hl w, (h.units w).acts, (h.units w).snaps⟩⟩

theorem withGangs (h : s.KeepsForm t) {l : Table Gang} (hl : s.UnitsWf → ∀ g ∈ l, ∀ x ∈ g.2.snap.acts, x.2.Wf) :
    s.KeepsForm { t with gangs := l } :=
  ⟨fun w => (h.mem w).of_eq rfl rfl rfl, fun w => ⟨(h.units w).cores, (h.units w).quads, (h.units w).acts, hl w⟩⟩

/-- Contexts that leave the table. -/
theorem filterActs (h : s.KeepsForm t) {p : Nat × Act → Bool} : s.KeepsForm { t with acts := t.acts.filter p } :=
  h.withActs fun w x hx => (h.units w).acts x (List.mem_filter.mp hx).1

theorem eraseAct (h : s.KeepsForm t) {a : Nat} : s.KeepsForm { t with acts := tableErase t.acts a } :=
  h.withActs fun w x hx => (h.units w).acts x (mem_of_tableErase hx)

theorem eraseGang (h : s.KeepsForm t) {g : Nat} : s.KeepsForm { t with gangs := tableErase t.gangs g } :=
  h.withGangs fun w x hx => (h.units w).snaps x (mem_of_tableErase hx)

/-- Every context, core, quad or gang changes, none in its memories or registers. -/
theorem mapActs (h : s.KeepsForm t) {f : Nat × Act → Nat × Act} (hf : ∀ x, x.2.Wf → (f x).2.Wf) :
    s.KeepsForm { t with acts := t.acts.map f } :=
  h.withActs fun w => List.forall_mem_map.mpr fun x hx => hf x ((h.units w).acts x hx)

theorem mapCoreTable (h : s.KeepsForm t) {f : Nat × Core → Nat × Core} (hf : ∀ x, x.2.MemWf → (f x).2.MemWf) :
    s.KeepsForm { t with cores := t.cores.map f } :=
  h.withCores fun w => List.forall_mem_map.mpr fun x hx => hf x ((h.units w).cores x hx)

theorem mapQuadTable (h : s.KeepsForm t) {f : Nat × Quad → Nat × Quad} (hf : ∀ x, x.2.MemWf → (f x).2.MemWf) :
    s.KeepsForm { t with quads := t.quads.map f } :=
  h.withQuads fun w => List.forall_mem_map.mpr fun x hx => hf x ((h.units w).quads x hx)

theorem mapGangs (h : s.KeepsForm t) {f : Nat × Gang → Nat × Gang} (hf : ∀ x, (f x).2.snap.acts = x.2.snap.acts) :
    s.KeepsForm { t with gangs := t.gangs.map f } :=
  h.withGangs fun w => List.forall_mem_map.mpr fun x hx => (hf x).symm ▸ (h.units w).snaps x hx

theorem setDie (h : s.KeepsForm t) {d : Nat} {x : Die} : s.KeepsForm (t.setDie d x) := h.aside
theorem setPart (h : s.KeepsForm t) {p : Nat} {x : Part} : s.KeepsForm (t.setPart p x) := h.aside
theorem take (h : s.KeepsForm t) : s.KeepsForm t.take.2 := h.aside

end KeepsForm

/-! ## Operations that may answer no state -/

/-- The state that an operation answers, if it answers one, keeps the form. -/
def SomeKeeps (s : State) (o : Option State) : Prop := ∀ t, o = some t → s.KeepsForm t

theorem SomeKeeps.none : s.SomeKeeps none := nofun
theorem SomeKeeps.some (h : s.KeepsForm t) : s.SomeKeeps (some t) := by rintro _ ⟨⟩; exact h
theorem SomeKeeps.getD {o : Option State} (h : s.SomeKeeps o) (k : s.KeepsForm t) : s.KeepsForm (o.getD t) := by
  cases o with
  | none => exact k
  | some u => exact h u rfl
theorem SomeKeeps.ite {c : Prop} [Decidable c] {o p : Option State} (h : c → s.SomeKeeps o) (k : ¬c → s.SomeKeeps p) :
    s.SomeKeeps (if c then o else p) := by
  split
  · exact h ‹_›
  · exact k ‹_›

/-- A part done for each element in turn, until one of them answers no state. -/
theorem SomeKeeps.foldl {β : Type} {l : List β} {f : Option State → β → Option State} {o : Option State} (h : s.SomeKeeps o)
    (hn : ∀ x, f .none x = .none) (hf : ∀ u, ∀ x ∈ l, s.KeepsForm u → s.SomeKeeps (f (.some u) x)) :
    s.SomeKeeps (l.foldl f o) := by
  induction l generalizing o with
  | nil => exact h
  | cons x l ih =>
    refine ih ?_ fun u y hy => hf u y (List.mem_cons_of_mem _ hy)
    cases o with
    | none => rw [hn]; exact .none
    | some u => exact hf u x List.mem_cons_self (h u rfl)

/-- The state that a device event or a word answers keeps the form. -/
def NextKeeps (s : State) (o : Host.Outcome State Fault Refusal) : Prop := ∀ t, o = .next t → s.KeepsForm t

theorem NextKeeps.next (h : s.KeepsForm t) : s.NextKeeps (.next t) := by rintro _ ⟨⟩; exact h
theorem NextKeeps.fault {f : Fault} : s.NextKeeps (.fault f) := nofun
theorem NextKeeps.refused {f : Refusal} : s.NextKeeps (.refused f) := nofun
theorem NextKeeps.ite {c : Prop} [Decidable c] {o p : Host.Outcome State Fault Refusal} (h : c → s.NextKeeps o)
    (k : ¬c → s.NextKeeps p) : s.NextKeeps (if c then o else p) := by
  split
  · exact h ‹_›
  · exact k ‹_›

/-- A word's own part leaves a state in form, whether it issues or not. -/
def ResKeeps (s : State) : Res → Prop
  | .trap _ | .wait _ => True
  | .hold t => s.KeepsForm t
  | .go e => s.KeepsForm e.st

theorem ResKeeps.trap {x : Trap} : s.ResKeeps (.trap x) := trivial
theorem ResKeeps.wait {b : Block} : s.ResKeeps (.wait b) := trivial
theorem ResKeeps.hold (h : s.KeepsForm t) : s.ResKeeps (.hold t) := h
theorem ResKeeps.go {ws : List RegWrite} {lat : Nat} {flags : BitVec 5} {lk : Option (BitVec 32)} {lc : Option Word64}
    {op : Option Nat} {post : Post} (h : s.KeepsForm t) : s.ResKeeps (.go ⟨t, ws, lat, flags, lk, lc, op, post⟩) := h
theorem ResKeeps.goEff {e : Eff} (h : s.KeepsForm e.st) : s.ResKeeps (.go e) := h
theorem ResKeeps.ite {c : Prop} [Decidable c] {o p : Res} (h : c → s.ResKeeps o) (k : ¬c → s.ResKeeps p) :
    s.ResKeeps (if c then o else p) := by
  split
  · exact h ‹_›
  · exact k ‹_›

/-- One line or element of a transfer leaves a state in form, whether it is performed or stops. -/
def PieceKeeps (s : State) (r : Except (State × Stop) State) : Prop :=
  match r with
  | .error x => s.KeepsForm x.1
  | .ok t => s.KeepsForm t

/-- The state that a part of a transfer answers, if it is not stopped. -/
def OkKeeps (s : State) (r : Except Stop State) : Prop := ∀ t, r = .ok t → s.KeepsForm t

theorem OkKeeps.error {f : Stop} : s.OkKeeps (.error f) := nofun
theorem OkKeeps.ok (h : s.KeepsForm t) : s.OkKeeps (.ok t) := by rintro _ ⟨⟩; exact h

end State
end Sys2Proof.Machine
end

section
/-! Writes of memory, ring buffers, the home ports, records and traps: each operation keeps the form. -/
namespace Sys2Proof.Machine.State
set_option Elab.async false
variable {s t u : State}

/-! ## Machine/Ops -/

theorem KeepsForm.settle (h : s.KeepsForm t) {c aid : Nat} : s.KeepsForm (t.settle c aid) :=
  (h.setAct fun w => Act.landAll_wf (h.act w)).setCore fun w => (h.core w).of_eq

theorem KeepsForm.finishOp (h : s.KeepsForm t) {oid : Nat} {o : Op} {ws : List RegWrite} :
    s.KeepsForm (t.finishOp oid o ws) := h.aside.setAct fun w => Act.putAll_wf _ _ (h.aside.act w)

theorem KeepsForm.l1Clear (h : s.KeepsForm t) {c : Nat} : s.KeepsForm (t.l1Clear c) := h.touchCore

theorem KeepsForm.memPut (h : s.KeepsForm t) {a : Nat} {bs : List Byte} : s.KeepsForm (t.memPut a bs) :=
  h.withMemory fun w => State.memPut_memWf a bs w

theorem KeepsForm.record (h : s.KeepsForm t) {kind core slot part : Nat} {body : List Word64} :
    s.KeepsForm (t.record kind core slot part body) := h.aside

theorem KeepsForm.faultRecord (h : s.KeepsForm t) {part : Nat} {body : List Word64} :
    s.KeepsForm (t.faultRecord part body) := h.aside

theorem KeepsForm.ringAppend (h : s.KeepsForm t) {part : Nat} {body : List Word64} : s.KeepsForm (t.ringAppend part body) :=
  h.aside.setPart

theorem KeepsForm.noteFault (h : s.KeepsForm t) {gid : Nat} {x : TrapReq} {core : Nat} :
    s.KeepsForm (t.noteFault gid x core) := by
  unfold State.noteFault
  split
  · exact h
  · next e =>
    have hg (w : s.UnitsWf) := h.foundGang w e
    exact .ite (fun _ => h) (fun _ => h.setGang hg)

theorem KeepsForm.reportStop (h : s.KeepsForm t) {aid : Nat} {x : TrapReq} : s.KeepsForm (t.reportStop aid x) :=
  h.touchAct.noteFault

theorem KeepsForm.nestedFault (h : s.KeepsForm t) {aid : Nat} {x : TrapReq} : s.KeepsForm (t.nestedFault aid x) := by
  have hs := h.touchAct (a := aid) (x := { t.act aid with run := .stopped, trapPend := none })
  unfold State.nestedFault
  dsimp only
  split
  · exact hs
  · next e =>
    have hg (w : s.UnitsWf) := hs.foundGang w e
    exact hs.setGang hg

theorem KeepsForm.enterTrap (h : s.KeepsForm t) {aid : Nat} {x : TrapReq} : s.KeepsForm (t.enterTrap aid x) := by
  unfold State.enterTrap
  refine .ite (fun _ => h.settle.reportStop) (fun _ => ?_)
  refine .ite (fun _ => h.settle.nestedFault) (fun _ => ?_)
  exact .ite (fun _ => h.settle.touchAct.reportStop) (fun _ => h.settle.touchAct.setAct fun w => (h.settle.act w).of_eq)

theorem KeepsForm.takeTrap (h : s.KeepsForm t) {aid : Nat} {x : TrapReq} : s.KeepsForm (t.takeTrap aid x) :=
  .ite (fun _ => h.enterTrap) (fun _ => h.touchAct)

/-! ## Machine/Mem -/

theorem KeepsForm.unreplayable (h : s.KeepsForm t) {g : Nat} : s.KeepsForm (t.unreplayable g) :=
  .ite (fun _ => h.touchGang) (fun _ => h)

theorem KeepsForm.badWrite (h : s.KeepsForm t) {g core : Nat} : s.KeepsForm (t.badWrite g core) :=
  .ite (fun _ => h.touchGang) (fun _ => h)

theorem KeepsForm.badMould (h : s.KeepsForm t) {g quad : Nat} : s.KeepsForm (t.badMould g quad) :=
  .ite (fun _ => h.touchGang) (fun _ => h)

theorem KeepsForm.lmLog (h : s.KeepsForm t) {g c line : Nat} : s.KeepsForm (t.lmLog g c line) :=
  .ite (fun _ => h) (fun _ => .ite (fun _ => h.badMould) (fun _ => h.touchCore))

theorem KeepsForm.qsLog (h : s.KeepsForm t) {g q line : Nat} : s.KeepsForm (t.qsLog g q line) :=
  .ite (fun _ => h) (fun _ => .ite (fun _ => h.badMould) (fun _ => h.touchQuad))

theorem KeepsForm.halfLog (h : s.KeepsForm t) {g c line : Nat} : s.KeepsForm (t.halfLog g c line) :=
  .ite (fun _ => h) (fun _ => h.touchCore)

theorem KeepsForm.lmWrite (h : s.KeepsForm t) {g c a : Nat} {bs : List Byte} {mask : List Bool} {whole : Bool} :
    s.KeepsForm (t.lmWrite g c a bs mask whole) := by
  have hl := h.foldl (l := linesOf a bs.length)
    (f := fun s l => if l * 64 < 0x60000 then s.lmLog g c l else s.halfLog g c l)
    fun _ _ hu => .ite (fun _ => hu.lmLog) (fun _ => hu.halfLog)
  exact hl.setCore fun w => Core.written_memWf a bs mask whole (hl.core w)

theorem KeepsForm.qsWrite (h : s.KeepsForm t) {g q a : Nat} {bs : List Byte} {mask : List Bool} {whole : Bool} :
    s.KeepsForm (t.qsWrite g q a bs mask whole) := by
  have hl := h.foldl (l := linesOf a bs.length) (f := fun s l => s.qsLog g q l) fun _ _ hu => hu.qsLog
  exact hl.setQuad fun w => Quad.written_memWf a bs mask whole (hl.quad w)

theorem KeepsForm.noteUncorr (h : s.KeepsForm t) {g : Nat} {p : Poison} {restorable : Bool} :
    s.KeepsForm (t.noteUncorr g p restorable) := h.touchGang

theorem KeepsForm.mcPut (h : s.KeepsForm t) {line : Nat} {x : McLine} : s.KeepsForm (t.mcPut line x) := by
  unfold State.mcPut
  split
  · exact h
  · exact .ite (fun _ => h) (fun _ => .ite (fun _ => h) (fun _ => .ite (fun _ => h.setDie) (fun _ => h.aside.setDie)))

theorem KeepsForm.mcRead (h : s.KeepsForm t) {line : Nat} : s.KeepsForm (t.mcRead line) := by
  unfold State.mcRead
  split
  · exact h
  · exact h.mcPut

theorem KeepsForm.poisonLine (h : s.KeepsForm t) {line : Nat} {b : Bool} :
    s.KeepsForm { t with memPoison := sparseSet false t.memPoison line b } :=
  h.withMemory fun w => ⟨w.mem, w.tags, sparseWf_sparseSet _ _ w.poison⟩

theorem KeepsForm.mcWrite (h : s.KeepsForm t) {line : Nat} {whole : Bool} : s.KeepsForm (t.mcWrite line whole) :=
  KeepsForm.mcPut (.ite (fun _ => h.poisonLine) (fun _ => h))

theorem KeepsForm.mcRefetch (h : s.KeepsForm t) {a n : Nat} : s.KeepsForm (t.mcRefetch a n) := by
  unfold State.mcRefetch
  refine h.foldl fun u x hu => ?_
  split
  · exact .ite (fun _ => hu.setDie) (fun _ => hu)
  · exact hu

theorem KeepsForm.devLog (h : s.KeepsForm t) {g core line : Nat} {gp : Bool} {owner : Nat} :
    s.KeepsForm (t.devLog g core line gp owner) := by
  unfold State.devLog
  refine .ite (fun _ => h) (fun _ => ?_)
  exact .ite (fun _ => h.badWrite) (fun _ => .ite (fun _ => h) (fun _ => .ite (fun _ => h.badWrite) (fun _ => h.aside)))

theorem KeepsForm.noteRead (h : s.KeepsForm t) {r : Req} {p : Option Poison} : s.KeepsForm (t.noteRead r p) := by
  unfold State.noteRead
  split
  · exact h.noteUncorr.mcRefetch
  · exact h

theorem KeepsForm.answerWait (h : s.KeepsForm t) {rid : Nat} {r : Req} : s.KeepsForm (t.answerWait rid r) := by
  unfold State.answerWait
  split
  · exact h.aside.noteRead
  · exact h

theorem KeepsForm.notifyWaits (h : s.KeepsForm t) {a n : Nat} : s.KeepsForm (t.notifyWaits a n) :=
  h.foldl fun _ _ hu => hu.answerWait

theorem KeepsForm.notifyDeps (h : s.KeepsForm t) {a n : Nat} : s.KeepsForm (t.notifyDeps a n) := by
  refine h.mapGangs fun x => ?_
  dsimp only
  split
  · split
    · split
      · rfl
      · rfl
    · rfl
  · rfl

theorem KeepsForm.markDirty (h : s.KeepsForm t) {a n : Nat} : s.KeepsForm (t.markDirty a n) := by
  refine h.mapActs fun x hx => ?_
  dsimp only
  split
  · split
    · exact hx.of_eq
    · exact hx
  · exact hx

/-- The bytes, hidden tags and poison that a write at the home ports leaves. -/
theorem KeepsForm.homeCells (h : s.KeepsForm t) {l : List Nat} {a n : Nat} {bs : List Byte} {mask : List Bool} {b tag : Bool} :
    s.KeepsForm { t with
      mem := sparseWriteMasked t.mem a bs mask
      memTags := l.foldl (fun t i => sparseSet false t ((a + i) / 16) tag) t.memTags
      memPoison := if b then cleanWhole t.memPoison a n else t.memPoison } := by
  refine h.withMemory fun w => ⟨sparseWf_sparseWriteMasked bs mask a w.mem, Marks.wf_foldl _ _ _ w.tags, ?_⟩
  dsimp only
  split
  · exact cleanWhole_wf _ _ _ w.poison
  · exact w.poison

theorem KeepsForm.homeWrite (h : s.KeepsForm t) {g : Option (Nat × Nat)} {a : Nat} {bs : List Byte} {mask : List Bool}
    {whole tag gp : Bool} {owner : Nat} : s.KeepsForm (t.homeWrite g a bs mask whole tag gp owner) := by
  unfold State.homeWrite
  refine .ite (fun _ => h) (fun _ => ?_)
  refine KeepsForm.notifyDeps (KeepsForm.notifyWaits (KeepsForm.markDirty (KeepsForm.foldl ?_ fun u l hu => ?_)))
  · cases g with
    | none => exact h.homeCells
    | some g => exact (h.foldl fun _ _ hu => hu.devLog).homeCells
  · exact .ite (fun _ => hu.mcWrite) (fun _ => hu)

theorem KeepsForm.plainWrite (h : s.KeepsForm t) {a : Nat} {bs : List Byte} : s.KeepsForm (t.plainWrite a bs) := h.homeWrite

theorem KeepsForm.applyMerge (h : s.KeepsForm t) {m : Merge} : s.KeepsForm (t.applyMerge m) :=
  .ite (fun _ => h) (fun _ => h.homeWrite)

theorem KeepsForm.applyLine (h : s.KeepsForm t) {line : Nat} : s.KeepsForm (t.applyLine line) :=
  h.aside.foldl fun _ _ hu => hu.applyMerge

theorem KeepsForm.flushMerges (h : s.KeepsForm t) {gid : Nat} : s.KeepsForm (t.flushMerges gid) :=
  h.foldl fun _ _ hu => hu.applyLine

theorem KeepsForm.l1Drop (h : s.KeepsForm t) {c line : Nat} : s.KeepsForm (t.l1Drop c line) := h.touchCore

theorem KeepsForm.l1Store (h : s.KeepsForm t) {c a : Nat} {bs : List Byte} {mask : List Bool} :
    s.KeepsForm (t.l1Store c a bs mask) := by
  unfold State.l1Store
  split
  · exact h.touchCore
  · exact h

theorem KeepsForm.l1Room (h : s.KeepsForm t) {c line : Nat} : s.KeepsForm (t.l1Room c line) :=
  .ite (fun _ => h) (fun _ => h.aside.setCore fun w => (h.core w).of_eq)

theorem KeepsForm.l1Fill (h : s.KeepsForm t) {c line : Nat} {rid : optParam Nat 0} : s.KeepsForm (t.l1Fill c line rid) :=
  .ite (fun _ => h) (fun _ => .ite (fun _ => h) (fun _ => h.l1Room.touchCore))

theorem KeepsForm.send (h : s.KeepsForm t) {r : Req} : s.KeepsForm (t.send r) := h.aside.aside

/-! ## Machine/Rings -/

theorem KeepsForm.setRing (h : s.KeepsForm t) {q n : Nat} {r : Ring} : s.KeepsForm (t.setRing q n r) := h.touchQuad

theorem KeepsForm.setChan (h : s.KeepsForm t) {q n : Nat} {c : Chan} : s.KeepsForm (t.setChan q n c) := h.touchQuad

theorem KeepsForm.setLine (h : s.KeepsForm t) {q n : Nat} {l : EvLine} : s.KeepsForm (t.setLine q n l) := h.touchQuad

/-! ## Machine/Home -/

theorem KeepsForm.reply (h : s.KeepsForm t) {rid : Nat} {r : Req} {rep : Reply} : s.KeepsForm (t.reply rid r rep) := h.aside

theorem KeepsForm.readAt (h : s.KeepsForm t) {rid : Nat} {r : Req} {tag : Bool} : s.KeepsForm (t.readAt rid r tag) :=
  h.noteRead.reply

theorem KeepsForm.loadFill (h : s.KeepsForm t) {rid : Nat} {r : Req} : s.KeepsForm (t.loadFill rid r) :=
  .ite (fun _ => h) (fun _ => h.l1Fill)

theorem KeepsForm.mergeIn (h : s.KeepsForm t) {r : Req} {opcode sub : Nat} {y : Word64} :
    s.KeepsForm (t.mergeIn r opcode sub y) := by
  unfold State.mergeIn
  extract_lets line same s1 here use
  have h1 : s.KeepsForm s1 := .ite (fun _ => h) (fun _ => h.applyLine)
  exact .ite (fun _ => h1.aside) (fun _ => h1.aside)

theorem KeepsForm.atomicAt (h : s.KeepsForm t) {rid : Nat} {r : Req} {opcode sub : Nat} {y new : Word64} :
    s.KeepsForm (t.atomicAt rid r opcode sub y new) := by
  unfold State.atomicAt
  split
  · exact h.noteRead.reply
  · exact (KeepsForm.ite (fun _ => h) (fun _ => h.homeWrite)).reply

theorem KeepsForm.performMem (h : s.KeepsForm t) {rid : Nat} {r : Req} : s.KeepsForm (t.performMem rid r) := by
  unfold State.performMem
  split
  · exact h.applyLine.mcRead.loadFill.readAt
  · exact h.applyLine.mcRead.loadFill.readAt
  · exact h.applyLine.mcRead.readAt
  · exact h.applyLine.mcRead.readAt
  · exact h.applyLine.mcRead.homeWrite.reply
  · exact h.applyLine.mcRead.homeWrite.reply
  · exact .ite (fun _ => h.mergeIn.reply) (fun _ => h.applyLine.mcRead.atomicAt)
  · exact h.applyLine.mcRead.aside.aside.answerWait

theorem KeepsForm.dropDone (h : s.KeepsForm t) {rid : Nat} : s.KeepsForm (t.dropDone rid) := by
  unfold State.dropDone
  split
  · exact .ite (fun _ => h.aside) (fun _ => h)
  · exact h

theorem KeepsForm.performQueued (h : s.KeepsForm t) {lines : List Nat} : s.KeepsForm (t.performQueued lines) := by
  unfold State.performQueued
  refine h.foldl fun u x hu => ?_
  split
  · exact .ite (fun _ => hu.performMem.dropDone) (fun _ => hu)
  · exact hu

theorem KeepsForm.portTurn (h : s.KeepsForm t) {line : Nat} : s.KeepsForm (t.portTurn line) := h.performQueued.applyLine

/-! ## Machine/Records -/

theorem KeepsForm.sbPut (h : s.KeepsForm t) {part w : Nat} {ws : List Word64} : s.KeepsForm (t.sbPut part w ws) := h.plainWrite

theorem KeepsForm.sbAppend (h : s.KeepsForm t) {part : Nat} {ws : List Word64} : s.KeepsForm (t.sbAppend part ws) :=
  h.sbPut.setPart

theorem KeepsForm.withSeq (h : s.KeepsForm t) {n : BitVec 48} : s.KeepsForm { t with seq := n } := h.aside

theorem KeepsForm.sampleWrite (h : s.KeepsForm t) {part : Nat} {body : List Word64} {lost : BitVec 48} :
    s.KeepsForm (t.sampleWrite part body lost).1 := by
  unfold State.sampleWrite
  dsimp only
  split
  · exact h
  split
  · exact h.setPart
  split
  · exact h.withSeq.sbAppend
  split
  · exact h.sbAppend.setPart.withSeq.sbAppend
  · exact h.sbAppend.setPart

theorem KeepsForm.writeList (h : s.KeepsForm t) {l : List Rec} {lost : BitVec 48} : s.KeepsForm (t.writeList l lost).1 := by
  unfold State.writeList
  induction l generalizing t lost with
  | nil => exact h
  | cons r l ih =>
    rw [List.foldl_cons]
    dsimp only
    split
    · exact ih h.ringAppend
    · exact ih h.sampleWrite

theorem KeepsForm.writeRecords (h : s.KeepsForm t) :
    s.KeepsForm (t.writeRecords) := by
  unfold State.writeRecords
  exact KeepsForm.withSeq (KeepsForm.writeList h.aside)

theorem KeepsForm.markRecord (h : s.KeepsForm t) {a : Act} {code : Nat} {x : Word64} {word : BitVec 32} :
    s.KeepsForm (t.markRecord a code x word) := h.record

theorem KeepsForm.draw (h : s.KeepsForm t) {n : Nat} : s.KeepsForm (t.draw n).2 := h.aside

theorem KeepsForm.stipple (h : s.KeepsForm t) {c : Nat} {a : Act} {op : Nat} {annulled : Bool} {exec : Option Nat} :
    s.KeepsForm (t.stipple c a op annulled exec) :=
  .ite (fun _ => h) (fun _ => .ite (fun _ => h.draw) (fun _ => h.draw.record))

theorem KeepsForm.boundEvent (h : s.KeepsForm t) {a : Act} {bd opcode count : Nat} {word : BitVec 32} :
    s.KeepsForm (t.boundEvent a bd opcode count word) := h.record

/-! ## Machine/Trip -/

theorem KeepsForm.freeSlot (h : s.KeepsForm t) {c slot : Nat} : s.KeepsForm (t.freeSlot c slot) := h.touchCore

theorem KeepsForm.markBad (h : s.KeepsForm t) {c a : Nat} {ls : List Nat} : s.KeepsForm (t.markBad c a ls) :=
  h.setCore fun w => ⟨(h.core w).lm, sparseWf_foldl ls _ (fun _ _ hm => sparseWf_sparseSet _ _ hm) (h.core w).poison,
    (h.core w).imem, (h.core w).imemPoison⟩

theorem KeepsForm.departOut (h : s.KeepsForm t) {aid partner partnerCore role core : Nat} :
    s.KeepsForm (t.departOut aid partner partnerCore role core) := by
  unfold State.departOut
  dsimp only
  split
  · exact h.settle
  · exact h.settle.touchAct.freeSlot.touchCore

theorem KeepsForm.startPair (h : s.KeepsForm t) {q : Nat} {e : MeetEntry} {b : MeetArr} {core : Nat} :
    s.KeepsForm (t.startPair q e b core) := h.touchQuad.touchCore.departOut.departOut

theorem KeepsForm.tryPair (h : s.KeepsForm t) {q : Nat} {e : MeetEntry} : s.KeepsForm (t.tryPair q e) := by
  unfold State.tryPair
  split
  · exact h
  dsimp only
  split
  · exact h
  split
  · exact h
  · exact h.startPair

theorem KeepsForm.retryPairs (h : s.KeepsForm t) : s.KeepsForm t.retryPairs := h.foldl fun _ _ hu => hu.tryPair

theorem KeepsForm.leaveVisitor (h : s.KeepsForm t) {core aid : Nat} : s.KeepsForm (t.leaveVisitor core aid) :=
  .ite (fun _ => h.touchCore.retryPairs) (fun _ => h.touchCore)

theorem KeepsForm.startPart (h : s.KeepsForm t) {aid : Nat} {op : Option Nat} {exiting : Bool} :
    s.KeepsForm (t.startPart aid op exiting) := by
  unfold State.startPart
  dsimp only
  split
  · exact h
  refine KeepsForm.leaveVisitor ?_
  refine KeepsForm.freeSlot ?_
  split
  · exact .ite (fun _ => h.touchAct.touchAct) (fun _ => h.touchAct)
  · exact h.touchAct

end Sys2Proof.Machine.State
end

section
/-! The issue of a word, with what its waits and its end do: each operation keeps the form. -/
namespace Sys2Proof.Machine.State
set_option Elab.async false
variable {s t u : State}

theorem KeepsForm.fetchTouch (h : s.KeepsForm t) {a : Act} : s.KeepsForm (t.fetchTouch a) := by
  unfold State.fetchTouch
  split
  · exact h
  refine h.foldl fun u x hu => ?_
  split
  · exact hu.touchCore
  · exact hu

theorem KeepsForm.noteFetch (h : s.KeepsForm t) {a : Act} {x : Trap} : s.KeepsForm (t.noteFetch a x) := by
  unfold State.noteFetch
  split
  · split
    · exact h.noteUncorr.mcRefetch
    · exact h
  · exact h

theorem KeepsForm.passPort (h : s.KeepsForm t) {c : Nat} {dest : Option Nat} : s.KeepsForm (t.passPort c dest) := by
  unfold State.passPort
  cases t.portAct c with
  | none => exact h.touchCore
  | some aid => exact (h.setAct fun w => Act.landAll_wf (h.act w)).touchCore

theorem KeepsForm.switchPort (h : s.KeepsForm t) {c : Nat} : s.KeepsForm (t.switchPort c) := by
  unfold State.switchPort
  refine KeepsForm.passPort ?_
  split
  · exact h.touchAct
  · exact h

theorem KeepsForm.idle (h : s.KeepsForm t) {c : Nat} : s.KeepsForm (t.idle c) := by
  unfold State.idle
  dsimp only
  split
  · exact h.touchCore.setAct fun w => Act.landDue_wf _ (h.touchCore.act w)
  · exact h.touchCore

theorem KeepsForm.awaitWrite (h : s.KeepsForm t) {c aid : Nat} : s.KeepsForm (t.awaitWrite c aid) := by
  unfold State.awaitWrite
  split
  · exact h.touchCore.setAct fun w => Act.landDue_wf _ (h.act w)
  · exact h

theorem KeepsForm.endActivity (h : s.KeepsForm t) {aid : Nat} : s.KeepsForm (t.endActivity aid) := by
  unfold State.endActivity
  dsimp only
  split
  · exact h.freeSlot.eraseAct
  · exact h.freeSlot.eraseAct.touchGang

theorem KeepsForm.clocked (h : s.KeepsForm t) {c : Nat} : s.KeepsForm (t.clocked c) := h.touchCore

theorem KeepsForm.haltQuad (h : s.KeepsForm t) {q : Nat} : s.KeepsForm (t.haltQuad q) := by
  refine .ite (fun _ => h.touchQuad.mapQuadTable fun x hx => ?_) (fun _ => h.touchQuad)
  dsimp only
  split
  · exact hx.of_eq
  · exact hx

theorem KeepsForm.after (h : s.KeepsForm t) {c aid : Nat} {word : BitVec 32} {p : Post} :
    s.KeepsForm (t.after c aid word p) := by
  cases p with
  | none => exact h
  | trap x => exact h.takeTrap
  | ret => exact h.settle.touchAct
  | exit => exact h.settle.endActivity.passPort
  | part op => exact h.settle.startPart.passPort
  | yield =>
    unfold State.after
    dsimp only
    split
    · exact h.passPort
    · exact h
  | wfi => exact .ite (fun _ => h) (fun _ => h.touchAct.switchPort)
  | verdict => exact h.touchAct.switchPort
  | halt => exact h.haltQuad

theorem KeepsForm.keepSample (h : s.KeepsForm u) {op : Option Nat} : s.KeepsForm (t.keepSample op u) := by
  unfold State.keepSample
  split
  · exact h
  split
  · exact h
  · exact h.aside

theorem KeepsForm.issue {e : Eff} (h : s.KeepsForm e.st) {c aid : Nat} {i : Instr} {cl : Clauses} :
    s.KeepsForm (t.issue c aid i cl e) := by
  have hs : s.KeepsForm ((e.st.setAct aid ((t.act aid).retire (e.st.act aid) i cl (t.core c).cycle e)).clocked c) :=
    (h.setAct fun w => (h.act w).retire).clocked
  exact KeepsForm.after (.ite (fun _ => hs.stipple.keepSample) (fun _ => hs.stipple))

theorem KeepsForm.issueAnnulled (h : s.KeepsForm t) {c aid : Nat} : s.KeepsForm (t.issueAnnulled c aid) := by
  unfold State.issueAnnulled
  exact ((h.setAct fun w => Act.landDue_wf _ ((h.act w).of_eq)).clocked).stipple

theorem KeepsForm.raise (h : s.KeepsForm t) {aid : Nat} {x : Trap} : s.KeepsForm (t.raise aid x) := h.takeTrap

theorem KeepsForm.askWalk (h : s.KeepsForm t) {w : WalkReq} : s.KeepsForm (t.askWalk w) := .ite (fun _ => h) (fun _ => h.aside)

theorem KeepsForm.joinWalks (h : s.KeepsForm t) {aid : Nat} {b : Block} : s.KeepsForm (t.joinWalks aid b) := by
  unfold State.joinWalks
  split
  · exact h.aside.askWalk
  · exact h

theorem KeepsForm.blockOn (h : s.KeepsForm t) {c aid : Nat} {b : Block} : s.KeepsForm (t.blockOn c aid b) :=
  (h.joinWalks.setAct fun w => (h.act w).of_eq).switchPort

theorem KeepsForm.exitParks (h : s.KeepsForm t) {c aid : Nat} : s.KeepsForm (t.exitParks c aid) :=
  (h.clocked.stipple.setAct fun w => (h.act w).of_eq).switchPort

theorem KeepsForm.waits (h : s.KeepsForm t) {c aid : Nat} {a : Act} {cl : Clauses} {n : Need} :
    s.SomeKeeps (t.waits c aid a cl n) := by
  unfold State.waits
  split
  · exact .some h.switchPort
  split
  · exact .some h.switchPort
  · exact .some h.idle
  refine .ite (fun _ => .some h.awaitWrite) (fun _ => ?_)
  refine .ite (fun _ => .some h.exitParks) (fun _ => ?_)
  refine .ite (fun _ => .some h.blockOn) (fun _ => ?_)
  refine .ite (fun _ => .ite (fun _ => .some h.blockOn) (fun _ => .some h.idle)) (fun _ => ?_)
  exact .ite (fun _ => .some h.idle) (fun _ => .ite (fun _ => .some h.idle) (fun _ => .none))

/-- Every word keeps the form if its own part does: what its waits, its faults and its issue do besides keeps it always. -/
theorem KeepsForm.runWith (h : s.KeepsForm t) {i : Instr} {cl : Clauses} {need : Act → Need}
    {pre : Act → State → Option Trap} {body : Nat → Nat → Act → State → Res}
    (hb : ∀ c aid, s.ResKeeps (body c aid (t.act aid) t)) : s.NextKeeps (Machine.runWith i cl need pre body t) := by
  rcases runWith_cases i cl need pre body t with
    ⟨_, e⟩ | ⟨c, aid, _, ⟨x, e⟩ | ⟨u, hw, e⟩ | ⟨u, hr, e⟩ | ⟨b, _, e⟩ | ⟨x, hr, e⟩⟩ <;> rw [e]
  · exact .fault
  · exact .next h.raise
  · exact .next (h.waits u hw)
  · have hu := hb c aid
    rw [hr] at hu
    exact .next hu
  · exact .next h.blockOn
  · have hx := hb c aid
    rw [hr] at hx
    exact .next (KeepsForm.issue hx)

theorem KeepsForm.run (h : s.KeepsForm t) {i : Instr} {cl : Clauses} {n : Need} {pre : Act → State → Option Trap}
    {body : Nat → Nat → Act → State → Res} (hb : ∀ c aid, s.ResKeeps (body c aid (t.act aid) t)) :
    s.NextKeeps (Machine.run i cl n pre body t) := h.runWith hb

theorem KeepsForm.fixedRes (h : s.KeepsForm t) {lat : Nat} {ws : List RegWrite} {flags : optParam (BitVec 5) 0} :
    s.ResKeeps (fixedRes t lat ws flags) := .go h

theorem KeepsForm.effectRes (h : s.KeepsForm t) : s.ResKeeps (effectRes t) := .go h

theorem KeepsForm.addOp (h : s.KeepsForm t) {o : Op} : s.KeepsForm (t.addOp o).2 := h.aside.aside

theorem KeepsForm.opRes (h : s.KeepsForm t) {o : Op} : s.ResKeeps (opRes t o) := .go h.aside.aside

theorem KeepsForm.endExit (h : s.KeepsForm t) {aid : Nat} : s.KeepsForm (t.endExit aid) :=
  .ite (fun _ => .ite (fun _ => h.startPart) (fun _ => h.endActivity)) (fun _ => h)

theorem KeepsForm.sampled (h : s.KeepsForm t) {o : Op} : s.KeepsForm (t.sampled o) := .ite (fun _ => h) (fun _ => h.aside)

theorem KeepsForm.clearTag (h : s.KeepsForm t) {oid : Nat} {o : Op} {ws : List RegWrite} :
    s.KeepsForm (t.clearTag oid o ws) := (KeepsForm.ite (fun _ => h.l1Clear) (fun _ => h)).sampled.finishOp.endExit

theorem KeepsForm.lateTrap (h : s.KeepsForm t) {oid : Nat} {o : Op} {x : Trap} : s.KeepsForm (t.lateTrap oid o x) := by
  have ho : s.KeepsForm { t with ops := tableErase t.ops oid } := h.aside
  refine ho.setAct fun w => ?_
  dsimp only
  split <;> split
  · exact (ho.act w).undoIssue.of_eq
  · exact (ho.act w).of_eq
  · exact (ho.act w).undoIssue.of_eq
  · exact (ho.act w).of_eq

end Sys2Proof.Machine.State
end

section
/-! Scalar, control, system and memory words, and the atomic ones: each operation keeps the form. -/
namespace Sys2Proof.Machine.State
set_option Elab.async false
variable {s t u : State}

/-! ## Machine/Scalar -/

theorem KeepsForm.scalar2 (h : s.KeepsForm t) {i : Instr} {cl : Clauses} {lat : Nat} {d a b : BitVec 6}
    {f : Word64 → Word64 → Word64} : s.NextKeeps (scalar2 i cl lat d a b f t) := h.run fun _ _ => h.fixedRes

theorem KeepsForm.scalar1 (h : s.KeepsForm t) {i : Instr} {cl : Clauses} {d a : BitVec 6} {f : Word64 → Word64} :
    s.NextKeeps (scalar1 i cl d a f t) := h.run fun _ _ => h.fixedRes

theorem KeepsForm.divide (h : s.KeepsForm t) {i : Instr} {cl : Clauses} {d a b : BitVec 6} {f : Word64 → Word64 → Word64} :
    s.NextKeeps (divide i cl d a b f t) := h.run fun _ _ => h.opRes

theorem KeepsForm.execAdd (h : s.KeepsForm t) {d a b : BitVec 6} {cl : Clauses} : s.NextKeeps (execAdd d a b cl t) := h.scalar2

theorem KeepsForm.execSub (h : s.KeepsForm t) {d a b : BitVec 6} {cl : Clauses} : s.NextKeeps (execSub d a b cl t) := h.scalar2

theorem KeepsForm.execAddi (h : s.KeepsForm t) {d a : BitVec 6} {imm : BitVec 16} {cl : Clauses} :
    s.NextKeeps (execAddi d a imm cl t) := h.scalar1

theorem KeepsForm.execMul (h : s.KeepsForm t) {d a b : BitVec 6} {cl : Clauses} : s.NextKeeps (execMul d a b cl t) := h.scalar2

theorem KeepsForm.execMulh (h : s.KeepsForm t) {d a b : BitVec 6} {cl : Clauses} : s.NextKeeps (execMulh d a b cl t) :=
  h.scalar2

theorem KeepsForm.execMulhu (h : s.KeepsForm t) {d a b : BitVec 6} {cl : Clauses} : s.NextKeeps (execMulhu d a b cl t) :=
  h.scalar2

theorem KeepsForm.execDiv (h : s.KeepsForm t) {d a b : BitVec 6} {cl : Clauses} : s.NextKeeps (execDiv d a b cl t) := h.divide

theorem KeepsForm.execDivu (h : s.KeepsForm t) {d a b : BitVec 6} {cl : Clauses} : s.NextKeeps (execDivu d a b cl t) := h.divide

theorem KeepsForm.execRem (h : s.KeepsForm t) {d a b : BitVec 6} {cl : Clauses} : s.NextKeeps (execRem d a b cl t) := h.divide

theorem KeepsForm.execRemu (h : s.KeepsForm t) {d a b : BitVec 6} {cl : Clauses} : s.NextKeeps (execRemu d a b cl t) := h.divide

theorem KeepsForm.execAnd (h : s.KeepsForm t) {d a b : BitVec 6} {cl : Clauses} : s.NextKeeps (execAnd d a b cl t) := h.scalar2

theorem KeepsForm.execOr (h : s.KeepsForm t) {d a b : BitVec 6} {cl : Clauses} : s.NextKeeps (execOr d a b cl t) := h.scalar2

theorem KeepsForm.execXor (h : s.KeepsForm t) {d a b : BitVec 6} {cl : Clauses} : s.NextKeeps (execXor d a b cl t) := h.scalar2

theorem KeepsForm.execAndi (h : s.KeepsForm t) {d a : BitVec 6} {imm : BitVec 16} {cl : Clauses} :
    s.NextKeeps (execAndi d a imm cl t) := h.scalar1

theorem KeepsForm.execOri (h : s.KeepsForm t) {d a : BitVec 6} {imm : BitVec 16} {cl : Clauses} :
    s.NextKeeps (execOri d a imm cl t) := h.scalar1

theorem KeepsForm.execXori (h : s.KeepsForm t) {d a : BitVec 6} {imm : BitVec 16} {cl : Clauses} :
    s.NextKeeps (execXori d a imm cl t) := h.scalar1

theorem KeepsForm.execSll (h : s.KeepsForm t) {d a b : BitVec 6} {cl : Clauses} : s.NextKeeps (execSll d a b cl t) := h.scalar2

theorem KeepsForm.execSrl (h : s.KeepsForm t) {d a b : BitVec 6} {cl : Clauses} : s.NextKeeps (execSrl d a b cl t) := h.scalar2

theorem KeepsForm.execSra (h : s.KeepsForm t) {d a b : BitVec 6} {cl : Clauses} : s.NextKeeps (execSra d a b cl t) := h.scalar2

theorem KeepsForm.execSlli (h : s.KeepsForm t) {d a : BitVec 6} {imm : BitVec 16} {cl : Clauses} :
    s.NextKeeps (execSlli d a imm cl t) := h.scalar1

theorem KeepsForm.execSrli (h : s.KeepsForm t) {d a : BitVec 6} {imm : BitVec 16} {cl : Clauses} :
    s.NextKeeps (execSrli d a imm cl t) := h.scalar1

theorem KeepsForm.execSrai (h : s.KeepsForm t) {d a : BitVec 6} {imm : BitVec 16} {cl : Clauses} :
    s.NextKeeps (execSrai d a imm cl t) := h.scalar1

theorem KeepsForm.execMin (h : s.KeepsForm t) {d a b : BitVec 6} {cl : Clauses} : s.NextKeeps (execMin d a b cl t) := h.scalar2

theorem KeepsForm.execMax (h : s.KeepsForm t) {d a b : BitVec 6} {cl : Clauses} : s.NextKeeps (execMax d a b cl t) := h.scalar2

theorem KeepsForm.execMinu (h : s.KeepsForm t) {d a b : BitVec 6} {cl : Clauses} : s.NextKeeps (execMinu d a b cl t) :=
  h.scalar2

theorem KeepsForm.execMaxu (h : s.KeepsForm t) {d a b : BitVec 6} {cl : Clauses} : s.NextKeeps (execMaxu d a b cl t) :=
  h.scalar2

theorem KeepsForm.execClz (h : s.KeepsForm t) {d a : BitVec 6} {cl : Clauses} : s.NextKeeps (execClz d a cl t) := h.scalar1

theorem KeepsForm.execPopc (h : s.KeepsForm t) {d a : BitVec 6} {cl : Clauses} : s.NextKeeps (execPopc d a cl t) := h.scalar1

theorem KeepsForm.execBfx (h : s.KeepsForm t) {mod : BitVec 4} {d a : BitVec 6} {imm : BitVec 16} {cl : Clauses} :
    s.NextKeeps (execBfx mod d a imm cl t) := h.scalar1

theorem KeepsForm.execBfi (h : s.KeepsForm t) {d a b : BitVec 6} {imm : BitVec 16} {cl : Clauses} :
    s.NextKeeps (execBfi d a b imm cl t) := h.scalar2

theorem KeepsForm.execLi (h : s.KeepsForm t) {d : BitVec 6} {imm32 : BitVec 32} {cl : Clauses} :
    s.NextKeeps (execLi d imm32 cl t) := h.run fun _ _ => h.fixedRes

theorem KeepsForm.execLih (h : s.KeepsForm t) {d a : BitVec 6} {imm32 : BitVec 32} {cl : Clauses} :
    s.NextKeeps (execLih d a imm32 cl t) := h.scalar1

theorem KeepsForm.execCmp (h : s.KeepsForm t) {mod : BitVec 4} {d a b : BitVec 6} {cl : Clauses} :
    s.NextKeeps (execCmp mod d a b cl t) := h.run fun _ _ => h.fixedRes

theorem KeepsForm.execCmpi (h : s.KeepsForm t) {mod : BitVec 4} {d a : BitVec 6} {imm : BitVec 16} {cl : Clauses} :
    s.NextKeeps (execCmpi mod d a imm cl t) := h.run fun _ _ => h.fixedRes

theorem KeepsForm.execPlog (h : s.KeepsForm t) {mod : BitVec 4} {d a b : BitVec 6} {cl : Clauses} :
    s.NextKeeps (execPlog mod d a b cl t) := h.run fun _ _ => h.fixedRes

theorem KeepsForm.execPmov (h : s.KeepsForm t) {mod : BitVec 4} {d a : BitVec 6} {cl : Clauses} :
    s.NextKeeps (execPmov mod d a cl t) := h.run fun _ _ => h.fixedRes

theorem KeepsForm.execSel (h : s.KeepsForm t) {d a b c : BitVec 6} {cl : Clauses} : s.NextKeeps (execSel d a b c cl t) :=
  h.run fun _ _ => h.fixedRes

theorem KeepsForm.execCrc32c (h : s.KeepsForm t) {mod : BitVec 4} {d a b : BitVec 6} {cl : Clauses} :
    s.NextKeeps (execCrc32c mod d a b cl t) := h.scalar2

/-! ## Machine/Control -/

theorem KeepsForm.execTgt (h : s.KeepsForm t) {d : BitVec 6} {imm26 : BitVec 26} {cl : Clauses} :
    s.NextKeeps (execTgt d imm26 cl t) := h.run fun _ _ => h.fixedRes

theorem KeepsForm.execTgtr (h : s.KeepsForm t) {d a : BitVec 6} {cl : Clauses} : s.NextKeeps (execTgtr d a cl t) :=
  h.run fun _ _ => h.fixedRes

theorem KeepsForm.execMovb (h : s.KeepsForm t) {mod : BitVec 4} {d a : BitVec 6} {cl : Clauses} :
    s.NextKeeps (execMovb mod d a cl t) := h.run fun _ _ => h.fixedRes

theorem KeepsForm.execLcset (h : s.KeepsForm t) {a : BitVec 6} {imm26 : BitVec 26} {cl : Clauses} :
    s.NextKeeps (execLcset a imm26 cl t) := h.run fun _ _ => .go h

theorem KeepsForm.execLkmov (h : s.KeepsForm t) {mod : BitVec 4} {d a : BitVec 6} {cl : Clauses} :
    s.NextKeeps (execLkmov mod d a cl t) := by
  unfold Machine.execLkmov
  refine h.run fun _ _ => .ite (fun _ => h.fixedRes) (fun _ => ?_)
  exact .ite (fun _ => .go h) (fun _ => .ite (fun _ => h.fixedRes) (fun _ => .go h))

theorem KeepsForm.execNop (h : s.KeepsForm t) {cl : Clauses} : s.NextKeeps (execNop cl t) := h.run fun _ _ => h.effectRes

theorem KeepsForm.execTrap (h : s.KeepsForm t) {imm : BitVec 16} {cl : Clauses} : s.NextKeeps (execTrap imm cl t) :=
  h.run fun _ _ => .go h

theorem KeepsForm.execBrk (h : s.KeepsForm t) {imm : BitVec 16} {cl : Clauses} : s.NextKeeps (execBrk imm cl t) :=
  h.run fun _ _ => .go h

theorem KeepsForm.execTret (h : s.KeepsForm t) {cl : Clauses} : s.NextKeeps (execTret cl t) :=
  h.run fun _ _ => .ite (fun _ => .trap) (fun _ => .ite (fun _ => .trap) (fun _ => .go h))

theorem KeepsForm.execYield (h : s.KeepsForm t) {cl : Clauses} : s.NextKeeps (execYield cl t) := h.run fun _ _ => .go h

theorem KeepsForm.execWfi (h : s.KeepsForm t) {cl : Clauses} : s.NextKeeps (execWfi cl t) :=
  h.run fun _ _ => .ite (fun _ => .trap) (fun _ => .go h)

theorem KeepsForm.execTime (h : s.KeepsForm t) {mod : BitVec 4} {d : BitVec 6} {cl : Clauses} :
    s.NextKeeps (execTime mod d cl t) := h.run fun _ _ => h.fixedRes

theorem KeepsForm.execIdent (h : s.KeepsForm t) {mod : BitVec 4} {d : BitVec 6} {cl : Clauses} :
    s.NextKeeps (execIdent mod d cl t) := h.run fun _ _ => h.fixedRes

theorem KeepsForm.execSpdrd (h : s.KeepsForm t) {mod : BitVec 4} {d a : BitVec 6} {imm : BitVec 16} {cl : Clauses} :
    s.NextKeeps (execSpdrd mod d a imm cl t) := h.run fun _ _ => h.fixedRes

theorem KeepsForm.execRand (h : s.KeepsForm t) {mod : BitVec 4} {d a : BitVec 6} {cl : Clauses} :
    s.NextKeeps (execRand mod d a cl t) := h.run fun _ _ => h.touchAct.fixedRes

theorem KeepsForm.execIflush (h : s.KeepsForm t) {cl : Clauses} : s.NextKeeps (execIflush cl t) :=
  h.run fun _ _ => h.touchAct.effectRes

theorem KeepsForm.execDeadmk (h : s.KeepsForm t) {mod : BitVec 4} {a : BitVec 6} {cl : Clauses} :
    s.NextKeeps (Machine.execDeadmk mod a cl t) := by
  have released (f : Nat → RegName) (m : Word64) (l : List Nat) {x : Act} (hx : x.Wf) :
      (l.foldl (fun y i => if m.getLsbD i then Act.release y (f i) else y) x).Wf := by
    induction l generalizing x with
    | nil => exact hx
    | cons i l ih => exact ih (.ite (Act.release_wf _ hx) hx)
  refine h.run fun _ aid => ?_
  exact .go (h.setAct fun w => released _ _ _ (h.act w))

theorem KeepsForm.execLiveq (h : s.KeepsForm t) {mod : BitVec 4} {d : BitVec 6} {cl : Clauses} :
    s.NextKeeps (execLiveq mod d cl t) := h.run fun _ _ => h.fixedRes

theorem KeepsForm.execChk (h : s.KeepsForm t) {d a b : BitVec 6} {imm : BitVec 16} {cl : Clauses} :
    s.NextKeeps (execChk d a b imm cl t) := h.run fun _ _ => .ite (fun _ => h.fixedRes) (fun _ => .trap)

/-! ## Machine/Journal -/

theorem KeepsForm.setQueue (h : s.KeepsForm t) {part q : Nat} {x : Queue} : s.KeepsForm (t.setQueue part q x) := h.setPart

theorem KeepsForm.schedWrite (h : s.KeepsForm t) {a : Nat} {bs : List Byte} : s.KeepsForm (t.schedWrite a bs) :=
  (h.foldl fun _ _ hu => hu.portTurn).plainWrite

theorem KeepsForm.writeStatus (h : s.KeepsForm t) {part q slot addr : Nat} {w : Word64} :
    s.KeepsForm (t.writeStatus part q slot addr w) := (KeepsForm.ite (fun _ => h.setQueue) (fun _ => h)).schedWrite

theorem KeepsForm.jaccept (h : s.KeepsForm t) {part : Nat} {e : JEntry} : s.KeepsForm (t.jaccept part e) := h.schedWrite.setPart

theorem KeepsForm.raiseHost (h : s.KeepsForm t) {part : Nat} : s.KeepsForm (t.raiseHost part) := h.setPart

theorem KeepsForm.journal (h : s.KeepsForm t) {part : Nat} {e : JEntry} {act : JAction} :
    s.KeepsForm (t.journal part e act) := h.setPart

theorem KeepsForm.reconcile (h : s.KeepsForm t) {part : Nat} : s.KeepsForm (t.reconcile part) := by
  unfold State.reconcile
  refine .ite (fun _ => (h.foldl fun _ _ hu => hu.setPart.writeStatus).raiseHost) (fun _ => ?_)
  exact h.foldl fun _ _ hu => hu.setPart.writeStatus

/-! ## Machine/System -/

theorem KeepsForm.migRequest (h : s.KeepsForm t) {aid : Nat} {x : Word64} : s.KeepsForm (t.migRequest aid x) := by
  unfold State.migRequest
  dsimp only
  split
  · exact h
  split
  · exact h.touchAct
  split
  · exact h.touchAct
  refine .ite (fun _ => h.touchAct) (fun _ => ?_)
  exact .ite (fun _ => h.touchAct) (fun _ => .ite (fun _ => h.touchAct) (fun _ => h.touchAct))

theorem KeepsForm.otinvPut (h : s.KeepsForm t) {aid : Nat} {x : Word64} : s.KeepsForm (t.otinvPut aid x) := h.setPart

theorem KeepsForm.sysWriteRes (h : s.KeepsForm t) {c aid : Nat} {a : Act} {opcode n : Nat} {x : Word64} :
    s.ResKeeps (sysWriteRes t c aid a opcode n x) := by
  unfold Machine.sysWriteRes
  split
  · split
    · exact h.touchAct.effectRes
    · exact .trap
  · exact h.setPart.effectRes
  · exact .ite (fun _ => .hold h.idle) (fun _ => h.otinvPut.effectRes)
  · exact h.migRequest.effectRes
  · exact h.setPart.effectRes
  · exact h.setPart.effectRes
  · exact (h.setAct fun w => (h.act w).sysWrite).effectRes

theorem KeepsForm.execSrd (h : s.KeepsForm t) {d : BitVec 6} {imm : BitVec 16} {cl : Clauses} :
    s.NextKeeps (execSrd d imm cl t) := h.run fun _ _ => .ite (fun _ => .trap) (fun _ => h.fixedRes)

theorem KeepsForm.execSwr (h : s.KeepsForm t) {a : BitVec 6} {imm : BitVec 16} {cl : Clauses} :
    s.NextKeeps (execSwr a imm cl t) := h.run fun _ _ => .ite (fun _ => .trap) (fun _ => h.sysWriteRes)

theorem KeepsForm.execSrset (h : s.KeepsForm t) {a : BitVec 6} {imm : BitVec 16} {cl : Clauses} :
    s.NextKeeps (execSrset a imm cl t) := h.run fun _ _ => .ite (fun _ => .trap) (fun _ => h.sysWriteRes)

theorem KeepsForm.execSrclr (h : s.KeepsForm t) {a : BitVec 6} {imm : BitVec 16} {cl : Clauses} :
    s.NextKeeps (execSrclr a imm cl t) := h.run fun _ _ => .ite (fun _ => .trap) (fun _ => h.sysWriteRes)

theorem KeepsForm.execMchk (h : s.KeepsForm t) {mod : BitVec 4} {d : BitVec 6} {cl : Clauses} :
    s.NextKeeps (execMchk mod d cl t) :=
  h.run fun _ _ => .ite (fun _ => .trap) (fun _ => (KeepsForm.ite (fun _ => h.touchCore) (fun _ => h)).fixedRes)

theorem KeepsForm.wakeStandby (h : s.KeepsForm t) {c : Nat} : s.KeepsForm (t.wakeStandby c) := by
  refine h.mapActs fun x hx => ?_
  rw [apply_ite Prod.snd]
  exact .ite hx.of_eq hx

theorem KeepsForm.takeoverPart (h : s.KeepsForm t) {part : Nat} : s.KeepsForm (t.takeoverPart part) := h.setPart

theorem KeepsForm.takeover (h : s.KeepsForm t) {c : Nat} : s.KeepsForm (t.takeover c) := by
  refine KeepsForm.foldl ?_ fun _ _ hu => hu.takeoverPart
  exact KeepsForm.foldl h.aside.wakeStandby fun _ _ hu => hu.setPart.eraseGang

theorem KeepsForm.crossAlarm (h : s.KeepsForm t) {c : Nat} {code : BitVec 16} : s.KeepsForm (t.crossAlarm c code) :=
  .ite (fun _ => h.touchCore.touchCore.takeover) (fun _ => h.touchCore.touchCore)

theorem KeepsForm.execXalm (h : s.KeepsForm t) {mod : BitVec 4} {imm : BitVec 16} {cl : Clauses} :
    s.NextKeeps (execXalm mod imm cl t) := by
  unfold Machine.execXalm
  refine h.run fun _ _ => .ite (fun _ => .trap) (fun _ => ?_)
  exact .ite (fun _ => .ite (fun _ => h.touchCore.effectRes) (fun _ => h.crossAlarm.effectRes)) (fun _ => h.aside.effectRes)

/-! ## Machine/Memory -/

theorem KeepsForm.boundSticky (h : s.KeepsForm t) {aid bd count : Nat} : s.KeepsForm (t.boundSticky aid bd count) :=
  .ite (fun _ => h) (fun _ => h.touchAct)

theorem KeepsForm.boundRecord (h : s.KeepsForm t) {a : Act} {opcode : Nat} {word : BitVec 32} {b : Option (Nat × Nat)} :
    s.KeepsForm (t.boundRecord a opcode word b) := by
  unfold State.boundRecord
  split
  · exact h.boundEvent
  · exact h

theorem KeepsForm.boundDone (h : s.KeepsForm t) {aid bd opcode count : Nat} {word : BitVec 32} :
    s.KeepsForm (t.boundDone aid bd opcode count word) := h.boundSticky.boundRecord

theorem KeepsForm.boundOf (h : s.KeepsForm t) {o : Op} : s.KeepsForm (t.boundOf o) := h.boundRecord

theorem KeepsForm.execLdl (h : s.KeepsForm t) {mod : BitVec 4} {d a : BitVec 6} {imm : BitVec 16} {cl : Clauses} :
    s.NextKeeps (execLdl mod d a imm cl t) := by
  unfold Machine.execLdl
  refine h.run fun c aid => ?_
  dsimp only
  split
  · exact .trap
  split
  · exact .hold h.idle
  refine KeepsForm.fixedRes ?_
  split
  · exact h.noteUncorr
  · exact h

theorem KeepsForm.execStl (h : s.KeepsForm t) {mod : BitVec 4} {a c : BitVec 6} {imm : BitVec 16} {cl : Clauses} :
    s.NextKeeps (execStl mod a c imm cl t) := by
  unfold Machine.execStl
  refine h.run fun c aid => ?_
  dsimp only
  split
  · exact .trap
  · exact .ite (fun _ => .hold h.idle) (fun _ => h.lmWrite.effectRes)

theorem KeepsForm.execLdq (h : s.KeepsForm t) {mod : BitVec 4} {d a : BitVec 6} {imm : BitVec 16} {cl : Clauses} :
    s.NextKeeps (execLdq mod d a imm cl t) := by
  unfold Machine.execLdq
  refine h.run fun c aid => ?_
  dsimp only
  split
  · exact .trap
  · exact h.opRes

theorem KeepsForm.execStq (h : s.KeepsForm t) {mod : BitVec 4} {a c : BitVec 6} {imm : BitVec 16} {cl : Clauses} :
    s.NextKeeps (execStq mod a c imm cl t) := by
  unfold Machine.execStq
  refine h.run fun c aid => ?_
  dsimp only
  split
  · exact .trap
  · exact h.opRes

theorem KeepsForm.execVldl (h : s.KeepsForm t) {d a c : BitVec 6} {imm : BitVec 16} {cl : Clauses} :
    s.NextKeeps (execVldl d a c imm cl t) := by
  unfold Machine.execVldl
  refine h.run fun c aid => ?_
  dsimp only
  split
  · exact .trap
  split
  · exact .trap
  split
  · exact .hold h.idle
  refine KeepsForm.fixedRes ?_
  split
  · exact h.noteUncorr
  · exact h

theorem KeepsForm.execVldq (h : s.KeepsForm t) {d a c : BitVec 6} {imm : BitVec 16} {cl : Clauses} :
    s.NextKeeps (execVldq d a c imm cl t) := by
  unfold Machine.execVldq
  refine h.run fun c aid => ?_
  split
  · exact .trap
  split
  · exact .trap
  · exact h.opRes

theorem KeepsForm.execVstl (h : s.KeepsForm t) {mod : BitVec 4} {a c : BitVec 6} {imm : BitVec 16} {cl : Clauses} :
    s.NextKeeps (execVstl mod a c imm cl t) := by
  unfold Machine.execVstl
  refine h.run fun c aid => ?_
  dsimp only
  split
  · exact .trap
  split
  · exact .trap
  split
  · exact .trap
  · exact .ite (fun _ => .hold h.idle) (fun _ => h.boundDone.lmWrite.effectRes)

theorem KeepsForm.execVstq (h : s.KeepsForm t) {mod : BitVec 4} {a c : BitVec 6} {imm : BitVec 16} {cl : Clauses} :
    s.NextKeeps (execVstq mod a c imm cl t) := by
  unfold Machine.execVstq
  refine h.run fun c aid => ?_
  dsimp only
  split
  · exact .trap
  split
  · exact .trap
  split
  · exact .trap
  · exact h.boundSticky.opRes

theorem KeepsForm.execVgathl (h : s.KeepsForm t) {mod : BitVec 4} {d a b : BitVec 6} {imm : BitVec 16} {cl : Clauses} :
    s.NextKeeps (execVgathl mod d a b imm cl t) := by
  unfold Machine.execVgathl
  refine h.run fun c aid => ?_
  dsimp only
  split
  · exact .trap
  split
  · exact .trap
  split
  · exact .trap
  split
  · exact .trap
  · exact .ite (fun _ => .hold h.idle) (fun _ => h.opRes)

theorem KeepsForm.execVscatl (h : s.KeepsForm t) {mod : BitVec 4} {a b c : BitVec 6} {cl : Clauses} :
    s.NextKeeps (execVscatl mod a b c cl t) := by
  unfold Machine.execVscatl
  refine h.run fun c aid => ?_
  dsimp only
  split
  · exact .trap
  split
  · exact .trap
  split
  · exact .trap
  split
  · exact .trap
  · exact .ite (fun _ => .hold h.idle) (fun _ => h.opRes)

theorem KeepsForm.execZerol (h : s.KeepsForm t) {a b : BitVec 6} {cl : Clauses} : s.NextKeeps (execZerol a b cl t) := by
  unfold Machine.execZerol
  refine h.run fun c aid => ?_
  dsimp only
  split
  · exact .trap
  split
  · exact .trap
  split
  · exact h.effectRes
  split
  · exact .trap
  · exact .ite (fun _ => .hold h.idle) (fun _ => h.lmWrite.touchCore.effectRes)

/-- What a failed check of a device word answers is a trap or a wait. -/
theorem ResKeeps.devCheck {c : Nat} {x : Act} {kn need op : Nat} {o : Word64} {n : Nat} {write : Bool} {atom : Nat} {r : Res}
    (e : t.devCheck c x kn need op o n write atom = .error r) : s.ResKeeps r := by
  unfold State.devCheck at e
  dsimp only at e
  split at e
  · cases e; exact .trap
  split at e
  · cases e; exact .trap
  split at e
  · cases e; exact .trap
  · cases e; exact .wait
  · cases e

theorem KeepsForm.touch (h : s.KeepsForm t) {c : Nat} {e : OtcEntry} : s.KeepsForm (t.touch c e) :=
  .ite (fun _ => h) (fun _ => h.touchCore)

theorem KeepsForm.devIssue (h : s.KeepsForm t) {o : Op} {r : Nat → Req} : s.ResKeeps (devIssue t o r) := .go h.aside.aside.send

theorem KeepsForm.loadIssue (h : s.KeepsForm t) {o : Op} {r : Nat → Req} : s.ResKeeps (loadIssue t o r) := by
  simp only [Machine.loadIssue]
  split
  · exact .go h.addOp.send
  · exact .go h.addOp.send

theorem KeepsForm.execLd (h : s.KeepsForm t) {mod : BitVec 4} {d a b : BitVec 6} {imm : BitVec 16} {cl : Clauses} :
    s.NextKeeps (execLd mod d a b imm cl t) := by
  unfold Machine.execLd
  refine h.run fun c aid => ?_
  dsimp only
  split
  · next e => exact .devCheck e
  · exact .ite (fun _ => h.touch.l1Drop.devIssue) (fun _ => h.touch.loadIssue)

theorem KeepsForm.execSt (h : s.KeepsForm t) {mod : BitVec 4} {a b c : BitVec 6} {imm : BitVec 16} {cl : Clauses} :
    s.NextKeeps (execSt mod a b c imm cl t) := by
  unfold Machine.execSt
  refine h.run fun c aid => ?_
  dsimp only
  split
  · next e => exact .devCheck e
  · exact h.touch.l1Store.devIssue

theorem KeepsForm.execVld (h : s.KeepsForm t) {d a b c : BitVec 6} {imm : BitVec 16} {cl : Clauses} :
    s.NextKeeps (execVld d a b c imm cl t) := by
  unfold Machine.execVld
  refine h.run fun c aid => ?_
  split
  · exact .trap
  split
  · next e => exact .devCheck e
  · exact h.touch.loadIssue

theorem KeepsForm.execVst (h : s.KeepsForm t) {mod : BitVec 4} {a b c : BitVec 6} {imm : BitVec 16} {cl : Clauses} :
    s.NextKeeps (execVst mod a b c imm cl t) := by
  unfold Machine.execVst
  refine h.run fun c aid => ?_
  dsimp only
  split
  · exact .trap
  split
  · next e => exact .devCheck e
  · split
    · exact .trap
    · exact h.touch.boundSticky.l1Store.devIssue

theorem KeepsForm.execFence (h : s.KeepsForm t) {imm : BitVec 16} {cl : Clauses} : s.NextKeeps (execFence imm cl t) :=
  h.run fun _ _ => h.opRes

theorem KeepsForm.execCld (h : s.KeepsForm t) {d a b : BitVec 6} {imm : BitVec 16} {cl : Clauses} :
    s.NextKeeps (execCld d a b imm cl t) := by
  unfold Machine.execCld
  refine h.run fun c aid => ?_
  split
  · next e => exact .devCheck e
  · exact h.touch.l1Drop.devIssue

theorem KeepsForm.execCst (h : s.KeepsForm t) {a b c : BitVec 6} {imm : BitVec 16} {cl : Clauses} :
    s.NextKeeps (execCst a b c imm cl t) := by
  unfold Machine.execCst
  refine h.run fun c aid => ?_
  dsimp only
  split
  · next e => exact .devCheck e
  · exact h.touch.l1Store.devIssue

theorem KeepsForm.execCnarrow (h : s.KeepsForm t) {d a b c : BitVec 6} {imm : BitVec 16} {cl : Clauses} :
    s.NextKeeps (execCnarrow d a b c imm cl t) := by
  unfold Machine.execCnarrow
  refine h.run fun _ _ => .ite (fun _ => .trap) (fun _ => ?_)
  exact .ite (fun _ => .trap) (fun _ => .ite (fun _ => .trap) (fun _ => h.fixedRes))

theorem KeepsForm.execCget (h : s.KeepsForm t) {mod : BitVec 4} {d a : BitVec 6} {cl : Clauses} :
    s.NextKeeps (execCget mod d a cl t) := h.run fun _ _ => h.fixedRes

theorem KeepsForm.execCsetc (h : s.KeepsForm t) {d a b : BitVec 6} {cl : Clauses} : s.NextKeeps (execCsetc d a b cl t) :=
  h.run fun _ _ => h.fixedRes

theorem KeepsForm.execMovk (h : s.KeepsForm t) {mod : BitVec 4} {d a : BitVec 6} {cl : Clauses} :
    s.NextKeeps (execMovk mod d a cl t) := h.run fun _ _ => h.fixedRes

theorem KeepsForm.lineAhead (h : s.KeepsForm t) {c : Nat} {msc : Bool} {e : OtcEntry} {p : Nat} :
    s.KeepsForm (t.lineAhead c msc e p) := by
  unfold State.lineAhead
  refine .ite (fun _ => h.touch) (fun _ => ?_)
  exact .ite (fun _ => h.touch.mcRead) (fun _ => .ite (fun _ => h.touch.applyLine.l1Fill) (fun _ => h.touch))

theorem KeepsForm.execPfetch (h : s.KeepsForm t) {mod : BitVec 4} {a b : BitVec 6} {cl : Clauses} :
    s.NextKeeps (execPfetch mod a b cl t) := by
  unfold Machine.execPfetch
  refine h.run fun c aid => ?_
  dsimp only
  split
  · exact h.effectRes
  split
  · exact h.lineAhead.effectRes
  · exact h.effectRes
  · exact h.askWalk.effectRes

theorem KeepsForm.execCinv (h : s.KeepsForm t) {mod : BitVec 4} {a b : BitVec 6} {cl : Clauses} :
    s.NextKeeps (execCinv mod a b cl t) := by
  unfold Machine.execCinv
  refine h.run fun c aid => ?_
  split
  · exact h.l1Clear.effectRes
  split
  · exact h.effectRes
  · exact h.l1Drop.effectRes

/-! ## Machine/Atomic -/

theorem KeepsForm.atomicRes (h : s.KeepsForm t) {c aid : Nat} {x : Act} {i : Instr} {cl : Clauses} {d a b : BitVec 6}
    {imm : BitVec 16} {n sub : Nat} {y new : Word64} : s.ResKeeps (atomicRes t c aid x i cl d a b imm n sub y new) := by
  unfold Machine.atomicRes
  split
  · dsimp only
    split
    · next e => exact .devCheck e
    · exact h.touch.l1Drop.devIssue
  dsimp only
  split
  · next e => exact .devCheck e
  · exact h.touch.l1Drop.devIssue

theorem KeepsForm.execAadd (h : s.KeepsForm t) {mod : BitVec 4} {d a b c : BitVec 6} {imm : BitVec 16} {cl : Clauses} :
    s.NextKeeps (execAadd mod d a b c imm cl t) := h.run fun _ _ => h.atomicRes

theorem KeepsForm.execAlog (h : s.KeepsForm t) {mod : BitVec 4} {d a b c : BitVec 6} {imm : BitVec 16} {cl : Clauses} :
    s.NextKeeps (execAlog mod d a b c imm cl t) := h.run fun _ _ => h.atomicRes

theorem KeepsForm.execAmnx (h : s.KeepsForm t) {mod : BitVec 4} {d a b c : BitVec 6} {imm : BitVec 16} {cl : Clauses} :
    s.NextKeeps (execAmnx mod d a b c imm cl t) := h.run fun _ _ => h.atomicRes

theorem KeepsForm.execAswp (h : s.KeepsForm t) {mod : BitVec 4} {d a b c : BitVec 6} {imm : BitVec 16} {cl : Clauses} :
    s.NextKeeps (execAswp mod d a b c imm cl t) := h.run fun _ _ => h.atomicRes

theorem KeepsForm.execAcas (h : s.KeepsForm t) {mod : BitVec 4} {d a b c : BitVec 6} {imm : BitVec 16} {cl : Clauses} :
    s.NextKeeps (execAcas mod d a b c imm cl t) := h.run fun _ _ => h.atomicRes

theorem KeepsForm.execAfadd (h : s.KeepsForm t) {mod : BitVec 4} {d a b c : BitVec 6} {imm : BitVec 16} {cl : Clauses} :
    s.NextKeeps (execAfadd mod d a b c imm cl t) := h.run fun _ _ => h.atomicRes

theorem KeepsForm.execWaitmem (h : s.KeepsForm t) {mod : BitVec 4} {d a b c : BitVec 6} {imm : BitVec 16} {cl : Clauses} :
    s.NextKeeps (execWaitmem mod d a b c imm cl t) := by
  unfold Machine.execWaitmem
  refine h.run fun c aid => ?_
  dsimp only
  split
  · next e => exact .devCheck e
  · exact h.touch.l1Drop.devIssue

theorem KeepsForm.execSignal (h : s.KeepsForm t) {a b c : BitVec 6} {imm : BitVec 16} {cl : Clauses} :
    s.NextKeeps (execSignal a b c imm cl t) := h.run fun _ _ => h.atomicRes

end Sys2Proof.Machine.State
end

section
/-! Vector, pattern and matrix words: each operation keeps the form. -/
namespace Sys2Proof.Machine.State
set_option Elab.async false
variable {s t u : State}

/-! ## Machine/Vector -/

theorem KeepsForm.maskedRes (h : s.KeepsForm t) {x : Act} {mod : BitVec 4} {d : BitVec 6} {lat w : Nat} {tr : BitVec 5}
    {bw : BitVec 32} {f : Nat → FRes} : s.ResKeeps (maskedRes t x mod d lat w tr bw f) := by
  unfold Machine.maskedRes
  split
  · exact .trap
  · exact h.fixedRes

theorem KeepsForm.arithRes (h : s.KeepsForm t) {x : Act} {o : ArithOp} {mod : BitVec 4} {d : BitVec 6} {sat : Bool}
    {a b c : VReg} {useC : Bool} : s.ResKeeps (arithRes t x o mod d sat a b c useC) := by
  unfold Machine.arithRes
  split
  · exact .trap
  · exact .ite (fun _ => .trap) (fun _ => .ite (fun _ => h.maskedRes) (fun _ => h.maskedRes))

theorem KeepsForm.execVadd (h : s.KeepsForm t) {mod : BitVec 4} {d a b : BitVec 6} {imm : BitVec 16} {cl : Clauses} :
    s.NextKeeps (execVadd mod d a b imm cl t) := h.run fun _ _ => h.arithRes

theorem KeepsForm.execVsub (h : s.KeepsForm t) {mod : BitVec 4} {d a b : BitVec 6} {imm : BitVec 16} {cl : Clauses} :
    s.NextKeeps (execVsub mod d a b imm cl t) := h.run fun _ _ => h.arithRes

theorem KeepsForm.execVmul (h : s.KeepsForm t) {mod : BitVec 4} {d a b : BitVec 6} {imm : BitVec 16} {cl : Clauses} :
    s.NextKeeps (execVmul mod d a b imm cl t) := h.run fun _ _ => h.arithRes

theorem KeepsForm.execVfma (h : s.KeepsForm t) {mod : BitVec 4} {d a b c : BitVec 6} {imm : BitVec 16} {cl : Clauses} :
    s.NextKeeps (execVfma mod d a b c imm cl t) := h.run fun _ _ => h.arithRes

theorem KeepsForm.execVfms (h : s.KeepsForm t) {mod : BitVec 4} {d a b c : BitVec 6} {imm : BitVec 16} {cl : Clauses} :
    s.NextKeeps (execVfms mod d a b c imm cl t) := h.run fun _ _ => h.arithRes

theorem KeepsForm.extremeRes (h : s.KeepsForm t) {x : Act} {isMax : Bool} {mod : BitVec 4} {d : BitVec 6} {a b : VReg} :
    s.ResKeeps (extremeRes t x isMax mod d a b) := by
  unfold Machine.extremeRes
  split
  · exact .trap
  · exact h.maskedRes

theorem KeepsForm.execVmin (h : s.KeepsForm t) {mod : BitVec 4} {d a b : BitVec 6} {cl : Clauses} :
    s.NextKeeps (execVmin mod d a b cl t) := h.run fun _ _ => h.extremeRes

theorem KeepsForm.execVmax (h : s.KeepsForm t) {mod : BitVec 4} {d a b : BitVec 6} {cl : Clauses} :
    s.NextKeeps (execVmax mod d a b cl t) := h.run fun _ _ => h.extremeRes

theorem KeepsForm.signRes (h : s.KeepsForm t) {x : Act} {neg : Bool} {mod : BitVec 4} {d : BitVec 6} {sat : Bool} {a : VReg} :
    s.ResKeeps (signRes t x neg mod d sat a) := .ite (fun _ => .trap) (fun _ => .ite (fun _ => .trap) (fun _ => h.maskedRes))

theorem KeepsForm.execVabs (h : s.KeepsForm t) {mod : BitVec 4} {d a : BitVec 6} {imm : BitVec 16} {cl : Clauses} :
    s.NextKeeps (execVabs mod d a imm cl t) := h.run fun _ _ => h.signRes

theorem KeepsForm.execVneg (h : s.KeepsForm t) {mod : BitVec 4} {d a : BitVec 6} {imm : BitVec 16} {cl : Clauses} :
    s.NextKeeps (execVneg mod d a imm cl t) := h.run fun _ _ => h.signRes

theorem KeepsForm.unaryRes (h : s.KeepsForm t) {x : Act} {fn : Nat} {mod : BitVec 4} {d : BitVec 6} {a : VReg} :
    s.ResKeeps (unaryRes t x fn mod d a) := .ite (fun _ => .trap) (fun _ => h.maskedRes)

theorem KeepsForm.execVrcp (h : s.KeepsForm t) {mod : BitVec 4} {d a : BitVec 6} {cl : Clauses} :
    s.NextKeeps (execVrcp mod d a cl t) := h.run fun _ _ => h.unaryRes

theorem KeepsForm.execVrsq (h : s.KeepsForm t) {mod : BitVec 4} {d a : BitVec 6} {cl : Clauses} :
    s.NextKeeps (execVrsq mod d a cl t) := h.run fun _ _ => h.unaryRes

theorem KeepsForm.execVexp2 (h : s.KeepsForm t) {mod : BitVec 4} {d a : BitVec 6} {cl : Clauses} :
    s.NextKeeps (execVexp2 mod d a cl t) := h.run fun _ _ => h.unaryRes

theorem KeepsForm.execVlog2 (h : s.KeepsForm t) {mod : BitVec 4} {d a : BitVec 6} {cl : Clauses} :
    s.NextKeeps (execVlog2 mod d a cl t) := h.run fun _ _ => h.unaryRes

theorem KeepsForm.vlogicRes (h : s.KeepsForm t) {x : Act} {f : Nat → Nat → Nat} {mod : BitVec 4} {d : BitVec 6} {a b : VReg} :
    s.ResKeeps (vlogicRes t x f mod d a b) := h.maskedRes

theorem KeepsForm.execVand (h : s.KeepsForm t) {mod : BitVec 4} {d a b : BitVec 6} {cl : Clauses} :
    s.NextKeeps (execVand mod d a b cl t) := h.run fun _ _ => h.vlogicRes

theorem KeepsForm.execVor (h : s.KeepsForm t) {mod : BitVec 4} {d a b : BitVec 6} {cl : Clauses} :
    s.NextKeeps (execVor mod d a b cl t) := h.run fun _ _ => h.vlogicRes

theorem KeepsForm.execVxor (h : s.KeepsForm t) {mod : BitVec 4} {d a b : BitVec 6} {cl : Clauses} :
    s.NextKeeps (execVxor mod d a b cl t) := h.run fun _ _ => h.vlogicRes

theorem KeepsForm.shiftRes (h : s.KeepsForm t) {x : Act} {right : Bool} {mod : BitVec 4} {d : BitVec 6} {a b : VReg}
    {imm : BitVec 16} : s.ResKeeps (shiftRes t x right mod d a b imm) := by
  unfold Machine.shiftRes
  dsimp only
  split
  · exact .trap
  · exact h.maskedRes

theorem KeepsForm.execVshl (h : s.KeepsForm t) {mod : BitVec 4} {d a b : BitVec 6} {imm : BitVec 16} {cl : Clauses} :
    s.NextKeeps (execVshl mod d a b imm cl t) := h.run fun _ _ => h.shiftRes

theorem KeepsForm.execVshr (h : s.KeepsForm t) {mod : BitVec 4} {d a b : BitVec 6} {imm : BitVec 16} {cl : Clauses} :
    s.NextKeeps (execVshr mod d a b imm cl t) := h.run fun _ _ => h.shiftRes

theorem KeepsForm.execVcmp (h : s.KeepsForm t) {mod : BitVec 4} {d a b c : BitVec 6} {cl : Clauses} :
    s.NextKeeps (execVcmp mod d a b c cl t) := by
  unfold Machine.execVcmp
  refine h.run fun c aid => ?_
  dsimp only
  split
  · exact .trap
  · exact .ite (fun _ => .trap) (fun _ => h.fixedRes)

theorem KeepsForm.execVsel (h : s.KeepsForm t) {d a b c : BitVec 6} {cl : Clauses} : s.NextKeeps (execVsel d a b c cl t) :=
  h.run fun _ _ => .ite (fun _ => .trap) (fun _ => .ite (fun _ => .trap) (fun _ => h.fixedRes))

theorem KeepsForm.execVmovp (h : s.KeepsForm t) {mod : BitVec 4} {d a : BitVec 6} {cl : Clauses} :
    s.NextKeeps (execVmovp mod d a cl t) := h.run fun _ _ => .ite (fun _ => h.fixedRes) (fun _ => h.fixedRes)

theorem KeepsForm.execVbcast (h : s.KeepsForm t) {mod : BitVec 4} {d a : BitVec 6} {imm : BitVec 16} {cl : Clauses} :
    s.NextKeeps (execVbcast mod d a imm cl t) := by
  unfold Machine.execVbcast
  refine h.run fun _ _ => .ite (fun _ => .ite (fun _ => .trap) (fun _ => h.fixedRes)) (fun _ => ?_)
  exact .ite (fun _ => .trap) (fun _ => h.fixedRes)

theorem KeepsForm.execVextr (h : s.KeepsForm t) {mod : BitVec 4} {d a b : BitVec 6} {imm : BitVec 16} {cl : Clauses} :
    s.NextKeeps (execVextr mod d a b imm cl t) :=
  h.run fun _ _ => .ite (fun _ => h.fixedRes) (fun _ => .ite (fun _ => .trap) (fun _ => h.fixedRes))

theorem KeepsForm.execVins (h : s.KeepsForm t) {mod : BitVec 4} {d a b : BitVec 6} {imm : BitVec 16} {cl : Clauses} :
    s.NextKeeps (execVins mod d a b imm cl t) := by
  unfold Machine.execVins
  refine h.run fun _ _ => .ite (fun _ => ?_) (fun _ => ?_)
  · exact .ite (fun _ => .trap) (fun _ => .ite (fun _ => .trap) (fun _ => h.fixedRes))
  · exact .ite (fun _ => .trap) (fun _ => h.fixedRes)

theorem KeepsForm.execVperm (h : s.KeepsForm t) {mod : BitVec 4} {d a b : BitVec 6} {cl : Clauses} :
    s.NextKeeps (execVperm mod d a b cl t) := by
  unfold Machine.execVperm
  refine h.run fun _ _ => .ite (fun _ => .trap) (fun _ => ?_)
  exact .ite (fun _ => .trap) (fun _ => .ite (fun _ => .trap) (fun _ => h.maskedRes))

theorem KeepsForm.execVreduce (h : s.KeepsForm t) {mod : BitVec 4} {d a : BitVec 6} {imm : BitVec 16} {cl : Clauses} :
    s.NextKeeps (execVreduce mod d a imm cl t) := h.run fun _ _ => .ite (fun _ => .trap) (fun _ => h.fixedRes)

theorem KeepsForm.execVscan (h : s.KeepsForm t) {mod : BitVec 4} {d a : BitVec 6} {imm : BitVec 16} {cl : Clauses} :
    s.NextKeeps (execVscan mod d a imm cl t) := h.run fun _ _ => .ite (fun _ => .trap) (fun _ => h.fixedRes)

theorem KeepsForm.execVcvt (h : s.KeepsForm t) {mod : BitVec 4} {d a b : BitVec 6} {imm : BitVec 16} {cl : Clauses} :
    s.NextKeeps (execVcvt mod d a b imm cl t) := by
  unfold Machine.execVcvt
  refine h.run fun c aid => ?_
  dsimp only
  split
  · exact .trap
  split
  · exact .trap
  split
  · exact .trap
  refine .ite (fun _ => .trap) (fun _ => ?_)
  exact .ite (fun _ => .trap) (fun _ => (KeepsForm.ite (fun _ => h.touchAct) (fun _ => h)).fixedRes)

theorem KeepsForm.execVretag (h : s.KeepsForm t) {d a b : BitVec 6} {imm : BitVec 16} {cl : Clauses} :
    s.NextKeeps (execVretag d a b imm cl t) :=
  h.run fun _ _ => .ite (fun _ => .trap) (fun _ => .ite (fun _ => .trap) (fun _ => h.fixedRes))

theorem KeepsForm.execVplane (h : s.KeepsForm t) {mod : BitVec 4} {d a b : BitVec 6} {imm : BitVec 16} {cl : Clauses} :
    s.NextKeeps (execVplane mod d a b imm cl t) := by
  unfold Machine.execVplane
  refine h.run fun _ _ => .ite (fun _ => .ite (fun _ => .trap) (fun _ => h.fixedRes)) (fun _ => ?_)
  refine .ite (fun _ => .ite (fun _ => .trap) (fun _ => h.fixedRes)) (fun _ => ?_)
  exact .ite (fun _ => .trap) (fun _ => .ite (fun _ => .trap) (fun _ => .ite (fun _ => .trap) (fun _ => h.fixedRes)))

theorem KeepsForm.execVqscale (h : s.KeepsForm t) {mod : BitVec 4} {d a c : BitVec 6} {cl : Clauses} :
    s.NextKeeps (execVqscale mod d a c cl t) := h.run fun _ _ => .ite (fun _ => .trap) (fun _ => h.fixedRes)

theorem KeepsForm.execVbnd (h : s.KeepsForm t) {mod : BitVec 4} {d a b c : BitVec 6} {cl : Clauses} :
    s.NextKeeps (execVbnd mod d a b c cl t) :=
  h.run fun _ _ => .ite (fun _ => .trap) (fun _ => .ite (fun _ => h.fixedRes) (fun _ => h.fixedRes))

/-! ## Machine/Pattern -/

theorem KeepsForm.genRes (h : s.KeepsForm t) {c aid : Nat} {x : Act} {i : Instr} {cl : Clauses} {ws : List RegWrite} :
    s.ResKeeps (genRes t c aid x i cl ws) := h.opRes

theorem KeepsForm.uncorrRes (h : s.KeepsForm t) {aid : Nat} {x : Act} {q : Poison} {restorable : Bool} :
    s.ResKeeps (uncorrRes t aid x q restorable) := .hold h.noteUncorr.raise

theorem KeepsForm.cleanBlock (h : s.KeepsForm t) {c aid : Nat} {x : Act} {o : Word64} {r : Res} (hr : s.ResKeeps r) :
    s.ResKeeps (cleanBlock t c aid x o r) := by
  unfold Machine.cleanBlock
  split
  · exact h.uncorrRes
  · exact hr

theorem KeepsForm.execPload (h : s.KeepsForm t) {mod : BitVec 4} {a : BitVec 6} {cl : Clauses} :
    s.NextKeeps (Machine.execPload mod a cl t) := by
  refine h.run fun k aid => ?_
  dsimp only
  split
  · exact .trap
  split
  · exact .trap
  refine .ite (fun _ => .hold h.idle) (fun _ => ?_)
  split
  · exact .trap
  split
  · exact h.uncorrRes
  split
  · exact .trap
  · exact h.touchAct.genRes

theorem KeepsForm.execPset (h : s.KeepsForm t) {a : BitVec 6} {imm : BitVec 16} {cl : Clauses} :
    s.NextKeeps (execPset a imm cl t) := by
  unfold Machine.execPset
  refine h.run fun c aid => ?_
  dsimp only
  split
  · exact .trap
  · exact .ite (fun _ => .ite (fun _ => .trap) (fun _ => h.touchAct.effectRes)) (fun _ => h.touchAct.effectRes)

theorem KeepsForm.execPget (h : s.KeepsForm t) {d : BitVec 6} {imm : BitVec 16} {cl : Clauses} :
    s.NextKeeps (execPget d imm cl t) := by
  unfold Machine.execPget
  refine h.run fun c aid => ?_
  dsimp only
  split
  · exact .trap
  · exact h.fixedRes

theorem KeepsForm.execPcount (h : s.KeepsForm t) {d a b : BitVec 6} {cl : Clauses} : s.NextKeeps (execPcount d a b cl t) := by
  unfold Machine.execPcount
  refine h.run fun c aid => ?_
  dsimp only
  split
  · exact .trap
  split
  · exact .trap
  split
  · exact .trap
  · exact h.genRes

theorem KeepsForm.execPgen (h : s.KeepsForm t) {mod : BitVec 4} {d a : BitVec 6} {cl : Clauses} :
    s.NextKeeps (execPgen mod d a cl t) := by
  unfold Machine.execPgen
  refine h.run fun c aid => ?_
  dsimp only
  split
  · exact .trap
  split
  · exact .trap
  split
  · exact .trap
  split
  · exact .trap
  · exact h.touchAct.genRes

theorem KeepsForm.execPinv (h : s.KeepsForm t) {mod : BitVec 4} {d a b : BitVec 6} {cl : Clauses} :
    s.NextKeeps (execPinv mod d a b cl t) := by
  unfold Machine.execPinv
  refine h.run fun c aid => ?_
  dsimp only
  split
  · exact .trap
  split
  · exact .trap
  · exact .ite (fun _ => h.genRes) (fun _ => .ite (fun _ => .trap) (fun _ => h.genRes))

theorem KeepsForm.execCutset (h : s.KeepsForm t) {a b : BitVec 6} {cl : Clauses} : s.NextKeeps (execCutset a b cl t) := by
  unfold Machine.execCutset
  refine h.run fun c aid => ?_
  dsimp only
  split
  · exact .trap
  · exact .ite (fun _ => .trap) (fun _ => h.touchAct.effectRes)

theorem KeepsForm.execCut (h : s.KeepsForm t) {mod : BitVec 4} {d : BitVec 6} {imm : BitVec 16} {cl : Clauses} :
    s.NextKeeps (execCut mod d imm cl t) := by
  unfold Machine.execCut
  refine h.run fun c aid => ?_
  dsimp only
  split
  · exact .trap
  split
  · exact .trap
  split
  · exact .trap
  · exact h.touchAct.genRes

/-! ## Machine/Matrix -/

theorem KeepsForm.setTile (h : s.KeepsForm t) {c n : Nat} {x : Tile} : s.KeepsForm (t.setTile c n x) := h.touchCore

theorem KeepsForm.newTile (h : s.KeepsForm t) {c n : Nat} {x : Tile} : s.KeepsForm (t.newTile c n x) := h.setTile.touchCore

theorem KeepsForm.tagTile (h : s.KeepsForm t) {c n : Nat} {i32 : Bool} : s.KeepsForm (t.tagTile c n i32) := h.setTile

theorem KeepsForm.matRes (h : s.KeepsForm t) {c aid : Nat} {x : Act} {i : Instr} {cl : Clauses} {mem : Bool}
    {dsts : List RegName} {w : MatWord} {tag : optParam (Option (Nat × Bool)) none} :
    s.ResKeeps (matRes t c aid x i cl mem dsts w tag) := by
  unfold Machine.matRes
  split
  · exact .ite (fun _ => h.uncorrRes) (fun _ => .hold h.idle)
  split
  · exact .ite (fun _ => .hold h.idle) (fun _ => .trap)
  split
  · exact .ite (fun _ => .hold h.idle) (fun _ => .go h.tagTile.aside.aside.touchCore)
  · exact .ite (fun _ => .hold h.idle) (fun _ => .go h.aside.aside.touchCore)

theorem KeepsForm.fetchRes (h : s.KeepsForm t) {c aid : Nat} {x : Act} {i : Instr} {cl : Clauses} {a b : Opnd} {bRows : Nat}
    {bIdx : Nat → Nat → Nat} {d : Nat} {i32 : Bool} {rows : List (Nat × List (Nat × Nat))} :
    s.ResKeeps (fetchRes t c aid x i cl a b bRows bIdx d i32 rows) := by
  unfold Machine.fetchRes
  split
  · exact .trap
  split
  · exact .trap
  split
  · exact .trap
  split
  · exact .trap
  split
  · exact .ite (fun _ => .wait) (fun _ => .hold h.idle)
  split
  · exact .hold h.idle
  split
  · exact .trap
  split
  · exact .trap
  split
  · exact h.uncorrRes
  split
  · exact h.uncorrRes
  · exact h.matRes

theorem KeepsForm.denseRes (h : s.KeepsForm t) {c aid : Nat} {x : Act} {i : Instr} {cl : Clauses} {mod : BitVec 4}
    {d a b : BitVec 6} {kMajor : Bool} : s.ResKeeps (denseRes t c aid x i cl mod d a b kMajor) := by
  unfold Machine.denseRes
  split
  · dsimp only
    split
    · exact .trap
    split
    · exact .trap
    · exact h.fetchRes
  dsimp only
  split
  · exact .trap
  split
  · exact .trap
  · exact h.fetchRes

theorem KeepsForm.execMma (h : s.KeepsForm t) {mod : BitVec 4} {d a b : BitVec 6} {cl : Clauses} :
    s.NextKeeps (execMma mod d a b cl t) := h.run fun _ _ => h.denseRes

theorem KeepsForm.execMmat (h : s.KeepsForm t) {mod : BitVec 4} {d a b : BitVec 6} {cl : Clauses} :
    s.NextKeeps (execMmat mod d a b cl t) := h.run fun _ _ => h.denseRes

theorem KeepsForm.sparseRes (h : s.KeepsForm t) {c aid : Nat} {x : Act} {i : Instr} {cl : Clauses} {mod : BitVec 4}
    {d a b vb : BitVec 6} {tr : Bool} : s.ResKeeps (sparseRes t c aid x i cl mod d a b vb tr) := by
  unfold Machine.sparseRes
  split
  · dsimp only
    split
    · exact .trap
    split
    · exact .trap
    · exact .trap
  split
  · dsimp only
    split
    · exact .trap
    split
    · exact .trap
    · exact h.fetchRes
  dsimp only
  split
  · exact .trap
  split
  · exact .trap
  · exact h.fetchRes

theorem KeepsForm.execMmas (h : s.KeepsForm t) {mod : BitVec 4} {d a b c : BitVec 6} {cl : Clauses} :
    s.NextKeeps (execMmas mod d a b c cl t) := h.run fun _ _ => h.sparseRes

theorem KeepsForm.execMmast (h : s.KeepsForm t) {mod : BitVec 4} {d a b c : BitVec 6} {cl : Clauses} :
    s.NextKeeps (execMmast mod d a b c cl t) := h.run fun _ _ => h.sparseRes

theorem KeepsForm.execMlda (h : s.KeepsForm t) {mod : BitVec 4} {d a b : BitVec 6} {cl : Clauses} :
    s.NextKeeps (execMlda mod d a b cl t) := by
  unfold Machine.execMlda
  refine h.run fun c aid => ?_
  dsimp only
  split
  · exact .trap
  · exact .ite (fun _ => .hold h.idle) (fun _ => h.matRes)

theorem KeepsForm.storeTileRes (h : s.KeepsForm t) {c aid : Nat} {x : Act} {i : Instr} {cl : Clauses} {mod : BitVec 4}
    {a b r : BitVec 6} {imm : BitVec 16} {quad : Bool} : s.ResKeeps (storeTileRes t c aid x i cl mod a b r imm quad) := by
  unfold Machine.storeTileRes
  dsimp only
  split
  · exact .trap
  split
  · exact .trap
  split
  · exact .trap
  · exact .ite (fun _ => .hold h.idle) (fun _ => h.matRes)

theorem KeepsForm.execMsta (h : s.KeepsForm t) {mod : BitVec 4} {a b c : BitVec 6} {imm : BitVec 16} {cl : Clauses} :
    s.NextKeeps (execMsta mod a b c imm cl t) := h.run fun _ _ => h.storeTileRes

theorem KeepsForm.execMstq (h : s.KeepsForm t) {mod : BitVec 4} {a b c : BitVec 6} {imm : BitVec 16} {cl : Clauses} :
    s.NextKeeps (execMstq mod a b c imm cl t) := h.run fun _ _ => h.storeTileRes

theorem KeepsForm.execMrowv (h : s.KeepsForm t) {d a : BitVec 6} {imm : BitVec 16} {cl : Clauses} :
    s.NextKeeps (execMrowv d a imm cl t) := h.run fun _ _ => .ite (fun _ => .trap) (fun _ => h.matRes)

theorem KeepsForm.execMvrow (h : s.KeepsForm t) {d a : BitVec 6} {imm : BitVec 16} {cl : Clauses} :
    s.NextKeeps (execMvrow d a imm cl t) := h.run fun _ _ => h.matRes

theorem ResKeeps.imageLines {c : Nat} {x : Act} {kn need op : Nat} {o : Word64} {write : Bool} {r : Res}
    (e : t.imageLines c x kn need op o write = .error r) : s.ResKeeps r := by
  have lines (a : Nat) (l : List Nat) (r : Res) : l.foldr (fun i acc =>
        let l : Access := { object := (x.k kn).object, offset := a + 64 * i, bytes := 64, write := write }
        match t.lookup c x.part l with
        | .fault t => .error (.trap t)
        | .miss => .error (.wait (.walk l.object l.offset l.bytes l.write l.atom))
        | .hit e => (match acc with | .error r => .error r | .ok r => .ok ((e, l.offset) :: r))) (.ok []) = Except.error r →
      s.ResKeeps r := by
    induction l with
    | nil => nofun
    | cons i l ih =>
      intro e
      rw [List.foldr_cons] at e
      dsimp only at e
      split at e
      · cases e; exact .trap
      · cases e; exact .wait
      · split at e
        · next hr => cases e; exact ih hr
        · cases e
  unfold State.imageLines at e
  dsimp only at e
  split at e
  · cases e; exact .trap
  split at e
  · cases e; exact .trap
  · exact lines _ _ r e

theorem KeepsForm.sendLines (h : s.KeepsForm t) {ls : List (OtcEntry × Nat)} {r : OtcEntry → Nat → Nat → Req} :
    s.KeepsForm (t.sendLines ls r) := h.foldl fun _ _ hu => hu.send

theorem KeepsForm.execMsave (h : s.KeepsForm t) {mod : BitVec 4} {a b c : BitVec 6} {cl : Clauses} :
    s.NextKeeps (Machine.execMsave mod a b c cl t) := by
  refine h.run fun k aid => ?_
  dsimp only
  split
  · split
    · next e => exact .imageLines e
    refine .ite (fun _ => .hold h.idle) (fun _ => ?_)
    split
    · exact h.uncorrRes
    · exact .go (KeepsForm.sendLines (KeepsForm.addOp (h.foldl fun _ _ hu => hu.touch.l1Store)))
  · split
    · exact .trap
    · exact .ite (fun _ => .hold h.idle) (fun _ => h.matRes)

theorem KeepsForm.imageRes (h : s.KeepsForm t) {k aid : Nat} {x : Act} {i : Instr} {cl : Clauses} {tr : Nat} {quad : Bool}
    {o : Nat} : s.ResKeeps (imageRes t k aid x i cl tr quad o) := by
  unfold Machine.imageRes
  split
  · exact h.uncorrRes
  dsimp only
  split
  · exact .trap
  · exact h.matRes

theorem KeepsForm.execMrest (h : s.KeepsForm t) {mod : BitVec 4} {d b c : BitVec 6} {cl : Clauses} :
    s.NextKeeps (Machine.execMrest mod d b c cl t) := by
  refine h.run fun k aid => ?_
  dsimp only
  split
  · split
    · next e => exact .imageLines e
    refine .ite (fun _ => .hold h.idle) (fun _ => ?_)
    exact .go (KeepsForm.sendLines (KeepsForm.touchCore (KeepsForm.addOp (h.foldl fun _ _ hu => hu.touch.l1Drop))))
  · split
    · exact .trap
    · exact .ite (fun _ => .hold h.idle) (fun _ => h.imageRes)

theorem KeepsForm.execMzero (h : s.KeepsForm t) {mod : BitVec 4} {d : BitVec 6} {cl : Clauses} :
    s.NextKeeps (execMzero mod d cl t) := h.run fun _ _ => h.matRes

theorem KeepsForm.execMaddt (h : s.KeepsForm t) {mod : BitVec 4} {d a b : BitVec 6} {cl : Clauses} :
    s.NextKeeps (execMaddt mod d a b cl t) := h.run fun _ _ => .ite (fun _ => .trap) (fun _ => h.matRes)

theorem KeepsForm.execMscl (h : s.KeepsForm t) {mod : BitVec 4} {d a b : BitVec 6} {cl : Clauses} :
    s.NextKeeps (execMscl mod d a b cl t) := h.run fun _ _ => .ite (fun _ => .trap) (fun _ => h.matRes)

theorem KeepsForm.execMbias (h : s.KeepsForm t) {mod : BitVec 4} {d a b : BitVec 6} {cl : Clauses} :
    s.NextKeeps (execMbias mod d a b cl t) := by
  unfold Machine.execMbias
  refine h.run fun c aid => ?_
  dsimp only
  split
  · exact .trap
  · exact .ite (fun _ => .hold h.idle) (fun _ => h.matRes)

theorem KeepsForm.execMclamp (h : s.KeepsForm t) {d a b c : BitVec 6} {cl : Clauses} :
    s.NextKeeps (execMclamp d a b c cl t) := h.run fun _ _ => h.matRes

theorem KeepsForm.execMtrn (h : s.KeepsForm t) {d a : BitVec 6} {cl : Clauses} : s.NextKeeps (execMtrn d a cl t) :=
  h.run fun _ _ => h.matRes

theorem KeepsForm.execMredr (h : s.KeepsForm t) {mod : BitVec 4} {d a : BitVec 6} {cl : Clauses} :
    s.NextKeeps (execMredr mod d a cl t) := h.run fun _ _ => h.matRes

theorem KeepsForm.execMdot (h : s.KeepsForm t) {mod : BitVec 4} {d a b : BitVec 6} {cl : Clauses} :
    s.NextKeeps (execMdot mod d a b cl t) := h.run fun _ _ => .ite (fun _ => .trap) (fun _ => h.matRes)

theorem KeepsForm.execMshape (h : s.KeepsForm t) {a : BitVec 6} {cl : Clauses} : s.NextKeeps (execMshape a cl t) := by
  unfold Machine.execMshape
  refine h.run fun c aid => ?_
  dsimp only
  split
  · exact .trap
  split
  · exact .trap
  · exact h.touchAct.effectRes

theorem KeepsForm.execMfmt (h : s.KeepsForm t) {a : BitVec 6} {cl : Clauses} : s.NextKeeps (execMfmt a cl t) := by
  unfold Machine.execMfmt
  refine h.run fun c aid => ?_
  dsimp only
  split
  · exact .trap
  split
  · exact .trap
  · exact h.touchAct.effectRes

theorem KeepsForm.execMstat (h : s.KeepsForm t) {mod : BitVec 4} {d : BitVec 6} {cl : Clauses} :
    s.NextKeeps (execMstat mod d cl t) := by
  unfold Machine.execMstat
  refine h.run fun c aid => ?_
  split
  · exact .trap
  · exact .ite (fun _ => .hold h.idle) (fun _ => h.fixedRes)

theorem KeepsForm.execMstage (h : s.KeepsForm t) {a : BitVec 6} {cl : Clauses} : s.NextKeeps (execMstage a cl t) := by
  unfold Machine.execMstage
  refine h.run fun c aid => ?_
  dsimp only
  split
  · exact .trap
  refine .ite (fun _ => .trap) (fun _ => ?_)
  refine .ite (fun _ => .trap) (fun _ => ?_)
  exact .ite (fun _ => .trap) (fun _ => .ite (fun _ => .trap) (fun _ => h.touchAct.effectRes))

theorem KeepsForm.matDone (h : s.KeepsForm t) {c oid : Nat} {o : Op} {ws : List RegWrite} :
    s.KeepsForm (t.matDone c oid o ws) := h.touchCore.clearTag

theorem KeepsForm.matTrap (h : s.KeepsForm t) {c oid : Nat} {o : Op} {x : Trap} : s.KeepsForm (t.matTrap c oid o x) :=
  h.touchCore.lateTrap

theorem KeepsForm.eventCount (h : s.KeepsForm t) {n : Nat} : s.KeepsForm (t.eventCount n).2 := by
  unfold State.eventCount
  dsimp only
  split
  · exact h
  · exact h.draw

theorem KeepsForm.putRows (h : s.KeepsForm t) {x : Act} {c w : Nat} {quad : Bool} {offs : List Nat} {rows : List (List Nat)} :
    s.KeepsForm (t.putRows x c w quad offs rows) :=
  h.foldl fun _ _ hu => KeepsForm.ite (fun _ => hu.qsWrite) (fun _ => hu.lmWrite)

theorem KeepsForm.matPerform (h : s.KeepsForm t) {c : Nat} {oid : Nat} {o : Op} {w : MatWord} :
    s.KeepsForm (t.matPerform c oid o w) := by
  unfold State.matPerform
  cases w with
  | store a fmt quad offs cols bound => exact h.eventCount.boundSticky.boundRecord.putRows.matDone
  | saveTile a i32 quad off => exact KeepsForm.matDone (.ite (fun _ => h.qsWrite) (fun _ => h.lmWrite))
  | restDev d image =>
    dsimp only
    split
    · exact h.matTrap
    · exact h.newTile.matDone
  | rowFromV d data row q => exact h.setTile.matDone
  | vFromRow d a row q i32 => exact h.matDone
  | reduce d a op q i32 => exact h.matDone
  | dot d a b q i32 => exact h.matDone
  | _ => exact h.newTile.matDone

end Sys2Proof.Machine.State
end

section
/-! Words that meet, arrive at barriers and launch gangs: each operation keeps the form. -/
namespace Sys2Proof.Machine.State
set_option Elab.async false
variable {s t u : State}

/-! ## Machine/Meet -/

theorem KeepsForm.execMeet (h : s.KeepsForm t) {mod : BitVec 4} {d a b c : BitVec 6} {imm : BitVec 16} {cl : Clauses} :
    s.NextKeeps (execMeet mod d a b c imm cl t) := by
  unfold Machine.execMeet
  refine h.run fun c aid => ?_
  dsimp only
  split
  · exact .trap
  split
  · exact .trap
  · exact .go h.addOp.touchAct

theorem KeepsForm.execPart (h : s.KeepsForm t) {cl : Clauses} : s.NextKeeps (execPart cl t) := by
  unfold Machine.execPart
  refine h.run fun c aid => ?_
  dsimp only
  split
  · exact .trap
  · exact .go h.addOp

theorem KeepsForm.execExit (h : s.KeepsForm t) {cl : Clauses} : s.NextKeeps (execExit cl t) := h.run fun _ _ => .go h

theorem ResKeeps.exchangePartner {x : Act} {r : Res} (e : exchangePartner t x = .error r) : s.ResKeeps r := by
  unfold Machine.exchangePartner at e
  split at e
  · cases e; exact .trap
  split at e
  · cases e; exact .trap
  split at e
  · cases e; exact .wait
  · cases e

theorem KeepsForm.exchangeRes (h : s.KeepsForm t) {aid : Nat} {x : Act} {i : Instr} {cl : Clauses} {own theirs : RegName} :
    s.ResKeeps (exchangeRes t aid x i cl own theirs) := by
  unfold Machine.exchangeRes
  split
  · next e => exact .exchangePartner e
  · exact .ite (fun _ => .trap) (fun _ => h.opRes)

theorem KeepsForm.execXreg (h : s.KeepsForm t) {mod : BitVec 4} {d a : BitVec 6} {cl : Clauses} :
    s.NextKeeps (execXreg mod d a cl t) := h.run fun _ _ => h.exchangeRes

theorem KeepsForm.execXvreg (h : s.KeepsForm t) {d a : BitVec 6} {cl : Clauses} : s.NextKeeps (execXvreg d a cl t) :=
  h.run fun _ _ => h.exchangeRes

theorem KeepsForm.execXlug (h : s.KeepsForm t) {a b c : BitVec 6} {cl : Clauses} : s.NextKeeps (execXlug a b c cl t) := by
  unfold Machine.execXlug
  refine h.run fun c aid => ?_
  dsimp only
  split
  · next e => exact .exchangePartner e
  · split
    · exact .trap
    split
    · exact h.opRes
    split
    · exact .trap
    · exact .ite (fun _ => .trap) (fun _ => .ite (fun _ => .hold h.idle) (fun _ => h.opRes))

theorem KeepsForm.execMeetq (h : s.KeepsForm t) {mod : BitVec 4} {d : BitVec 6} {cl : Clauses} :
    s.NextKeeps (execMeetq mod d cl t) := by
  unfold Machine.execMeetq
  refine h.run fun c aid => ?_
  dsimp only
  split
  · exact h.opRes
  · exact .ite (fun _ => h.opRes) (fun _ => .trap)

/-! ## Machine/Barrier -/

theorem KeepsForm.sendArrival (h : s.KeepsForm t) {aid kind : Nat} {sid : Word64} {op : Option Nat} {operand : Word64}
    {style : Nat} : s.KeepsForm (t.sendArrival aid kind sid op operand style) := h.touchAct

theorem KeepsForm.barRes (h : s.KeepsForm t) {aid : Nat} {x : Act} {i : Instr} {cl : Clauses} {d : BitVec 6} {mod : BitVec 4}
    {pair : Bool} {kind : Nat} {sid operand : Word64} {style : Nat} :
    s.ResKeeps (barRes t aid x i cl d mod pair kind sid operand style) :=
  (KeepsForm.ite (fun _ => h) (fun _ => h.sendArrival)).opRes

theorem KeepsForm.execBar (h : s.KeepsForm t) {mod : BitVec 4} {d : BitVec 6} {imm : BitVec 16} {cl : Clauses} :
    s.NextKeeps (execBar mod d imm cl t) := h.runWith fun _ _ => h.barRes

theorem KeepsForm.execBara (h : s.KeepsForm t) {mod : BitVec 4} {imm : BitVec 16} {cl : Clauses} :
    s.NextKeeps (execBara mod imm cl t) := h.runWith fun _ _ => .ite (fun _ => h.opRes) (fun _ => .go h.aside.aside.sendArrival)

theorem KeepsForm.execBarw (h : s.KeepsForm t) {d : BitVec 6} {cl : Clauses} : s.NextKeeps (execBarw d cl t) :=
  h.run fun _ _ => .ite (fun _ => .trap) (fun _ => h.barRes)

theorem KeepsForm.execBarred (h : s.KeepsForm t) {mod : BitVec 4} {d a : BitVec 6} {imm : BitVec 16} {cl : Clauses} :
    s.NextKeeps (execBarred mod d a imm cl t) := h.runWith fun _ _ => h.barRes

theorem KeepsForm.execSstep (h : s.KeepsForm t) {d : BitVec 6} {cl : Clauses} : s.NextKeeps (execSstep d cl t) :=
  h.runWith fun _ _ => .ite (fun _ => .trap) (fun _ => h.barRes)

theorem KeepsForm.execTake (h : s.KeepsForm t) {d : BitVec 6} {cl : Clauses} : s.NextKeeps (execTake d cl t) :=
  h.run fun _ _ => h.opRes

theorem KeepsForm.execShare (h : s.KeepsForm t) {d a : BitVec 6} {cl : Clauses} : s.NextKeeps (execShare d a cl t) :=
  h.run fun _ _ => h.opRes

/-! ## Machine/Launch -/

theorem KeepsForm.execLaunch (h : s.KeepsForm t) {d a b c : BitVec 6} {cl : Clauses} :
    s.NextKeeps (Machine.execLaunch d a b c cl t) := by
  refine h.run fun k aid => .ite (fun _ => .hold h.idle) (fun _ => h.cleanBlock ?_)
  split
  · exact .trap
  · next bs r _ =>
    dsimp only
    split
    · exact .trap
    split
    · exact .trap
    · exact .go h.addOp.setPart

theorem KeepsForm.execLaunchq (h : s.KeepsForm t) {d a b c : BitVec 6} {cl : Clauses} :
    s.NextKeeps (execLaunchq d a b c cl t) := by
  unfold Machine.execLaunchq
  refine h.run fun c aid => ?_
  dsimp only
  split
  · exact .hold h.idle
  refine h.cleanBlock ?_
  split
  · exact .trap
  · exact h.opRes

end Sys2Proof.Machine.State
end

section
/-! The copy engine and its words: each operation keeps the form. -/
namespace Sys2Proof.Machine.State
set_option Elab.async false
variable {s t u : State}

/-! ## Machine/Engine -/

theorem KeepsForm.engTouch (h : s.KeepsForm t) {tr : Transfer} {obj : Nat} {a : Int} {n : Nat} {write : Bool} :
    s.KeepsForm (t.engTouch tr obj a n write) := by
  unfold State.engTouch
  refine h.foldl fun u x hu => ?_
  split
  · exact hu
  split
  · exact hu
  · exact hu.portTurn.touchCore

theorem KeepsForm.engWrite (h : s.KeepsForm t) {x : Transfer} {obj : Nat} {a : Int} {bs : List Byte} {mask : List Bool} :
    s.OkKeeps (t.engWrite x obj a bs mask) := by
  unfold State.engWrite
  dsimp only
  split
  · exact .error
  · refine .ok (h.foldl fun u i hu => ?_)
    split
    · exact hu
    split
    · exact hu
    · exact hu.engTouch.homeWrite

theorem KeepsForm.ownWrite (h : s.KeepsForm t) {q : Nat} {x : Transfer} {a : Nat} {bs : List Byte} {mask : List Bool} :
    s.KeepsForm (t.ownWrite q x a bs mask) := .ite (fun _ => h.lmWrite) (fun _ => h.qsWrite)

theorem KeepsForm.srcTouch (h : s.KeepsForm t) {tr : Transfer} {xs : List Src} : s.KeepsForm (t.srcTouch tr xs) := by
  unfold State.srcTouch
  split
  · exact h
  refine h.foldl fun u x hu => ?_
  split
  · exact hu.engTouch
  · exact hu.engTouch.engTouch
  · exact hu

theorem KeepsForm.copyLineOf (h : s.KeepsForm t) {q : Nat} {x : Transfer} {base i : Nat} :
    s.PieceKeeps (t.copyLineOf q x base i) := by
  have hd (b : Bool) : s.KeepsForm (if b then t.draw 1 else (0, t)).2 := by
    cases b
    · exact h
    · exact h.draw
  unfold State.copyLineOf
  dsimp only
  split
  · exact (hd _).srcTouch
  split
  · split
    · exact (hd _).srcTouch
    · next e => exact (hd _).srcTouch.engWrite _ e
  split
  · exact (hd _).srcTouch.ownWrite
  · exact (hd _).srcTouch

theorem KeepsForm.gatherLine (h : s.KeepsForm t) {q : Nat} {x : Transfer} {idx e m i : Nat} :
    s.PieceKeeps (t.gatherLine q x idx e m i) := by
  have ht (ks : List Nat) : s.KeepsForm (ks.foldl (fun (s : State) k => match s.indexed x idx e k with
      | .ok o => s.engTouch x x.cap.object o e false
      | .error _ => s) t) := by
    refine h.foldl fun u k hu => ?_
    split
    · exact hu.engTouch
    · exact hu
  unfold State.gatherLine
  dsimp only
  split
  · exact .ite (fun _ => ht _) (fun _ => (ht _).ownWrite)
  · exact .ite (fun _ => ht _) (fun _ => (ht _).ownWrite)

theorem KeepsForm.scatterElem (h : s.KeepsForm t) {q : Nat} {x : Transfer} {idx e i : Nat} :
    s.PieceKeeps (t.scatterElem q x idx e i) := by
  unfold State.scatterElem
  split
  · exact h
  split
  · exact h
  split
  · exact h
  · next e => exact h.engWrite _ e

theorem KeepsForm.peerLine (h : s.KeepsForm t) {x : Transfer} {peer obj off i : Nat} :
    s.PieceKeeps (t.peerLine x peer obj off i) := by
  unfold State.peerLine
  dsimp only
  split
  · exact h.engTouch
  split
  · exact h.engTouch
  · exact h.engTouch.portTurn.homeWrite

theorem KeepsForm.peerCount (h : s.KeepsForm t) {x : Transfer} {peer obj off : Nat} :
    s.OkKeeps (t.peerCount x peer obj off) := by
  unfold State.peerCount
  split
  · exact .error
  dsimp only
  split
  · exact .ok h.portTurn
  · exact .ok h.portTurn.homeWrite

theorem KeepsForm.engWrites (h : s.KeepsForm t) {x : Transfer} {obj : Nat} {ws : List (Nat × List Byte)} :
    s.PieceKeeps (t.engWrites x obj ws) := by
  unfold State.engWrites
  split
  · exact h
  · refine KeepsForm.foldl h fun u w hu => ?_
    split
    · next e => exact hu.engWrite _ e
    · exact hu

theorem KeepsForm.recastPiece (h : s.KeepsForm t) {x : Transfer} {fmt stride obj values scales budget span : Nat} {g : Gen}
    {i : Nat} :
    s.PieceKeeps (t.recastPiece x fmt stride obj values scales budget span g i) := by
  have ht : ∀ (ms : List (Nat × Nat)), s.KeepsForm (ms.foldl (fun (s : State) m =>
      s.engTouch x x.cap.object (x.off + (m.1 * stride + 4 * m.2 : Nat)) 4 false) t) :=
    fun ms => h.foldl fun _ _ hu => hu.engTouch
  unfold State.recastPiece
  dsimp only
  split
  · exact ht _
  · exact (ht _).draw.engWrites

theorem KeepsForm.piece (h : s.KeepsForm t) {q : Nat} {x : Transfer} : s.PieceKeeps (t.piece q x) := by
  unfold State.piece
  split
  · exact h.gatherLine
  · exact h.scatterElem
  · exact h.peerLine
  · exact h.recastPiece
  · exact h.copyLineOf

theorem KeepsForm.endTransfer (h : s.KeepsForm t) {q n : Nat} {x : Transfer} {bad : Option Nat} :
    s.KeepsForm (t.endTransfer q n x bad) := by
  unfold State.endTransfer
  split
  · split
    · split
      · exact h.setChan.setRing.setLine
      · exact h.setChan.setRing
    split
    · exact h.setChan.setLine
    · exact h.setChan
  split
  · split
    · exact h.setChan.setRing.setLine
    · exact h.setChan.setRing
  split
  · exact h.setChan.setLine
  · exact h.setChan

theorem KeepsForm.cancelChan (h : s.KeepsForm t) {q n : Nat} : s.KeepsForm (t.cancelChan q n) :=
  h.foldl fun _ _ hu => hu.endTransfer

theorem KeepsForm.faultChan (h : s.KeepsForm t) {q n : Nat} {x : Transfer} {cause off : Nat} :
    s.KeepsForm (t.faultChan q n x cause off) := h.setChan.endTransfer.cancelChan

theorem KeepsForm.clearChan (h : s.KeepsForm t) {q n : Nat} : s.KeepsForm (t.clearChan q n) := h.cancelChan.setChan

theorem KeepsForm.endWait (h : s.KeepsForm t) {oid : Nat} : s.KeepsForm (t.endWait oid) := by
  unfold State.endWait
  split
  · exact h
  split
  · exact .ite (fun _ => h.l1Clear.clearTag) (fun _ => h)
  · exact h.lateTrap
  · exact h

theorem KeepsForm.settleWaits (h : s.KeepsForm t) {q : Nat} : s.KeepsForm (t.settleWaits q) := h.foldl fun _ _ hu => hu.endWait

/-! ## Machine/Copy -/

theorem KeepsForm.acceptRes (h : s.KeepsForm t) {c aid : Nat} {x : Act} {i : Instr} {cl : Clauses} {d : BitVec 6} {n : Nat}
    {m : Command} : s.ResKeeps (acceptRes t c aid x i cl d n m) := by
  unfold Machine.acceptRes
  split
  · exact .ite (fun _ => .hold h.idle) (fun _ => h.setChan.setRing.opRes)
  · exact .ite (fun _ => .hold h.idle) (fun _ => h.setChan.opRes)

theorem KeepsForm.rangeRes (h : s.KeepsForm t) {c aid : Nat} {x : Act} {i : Instr} {cl : Clauses} {d a : BitVec 6}
    {n dir : Nat} {ring : Option Nat} {o : Word64} {dev loc own : Nat} {what : Xfer} :
    s.ResKeeps (rangeRes t c aid x i cl d a n dir ring o dev loc own what) := by
  unfold Machine.rangeRes
  split
  · exact .trap
  split
  · exact .trap
  · exact h.acceptRes

theorem KeepsForm.execCpy (h : s.KeepsForm t) {mod : BitVec 4} {d a b c : BitVec 6} {imm : BitVec 16} {cl : Clauses} :
    s.NextKeeps (execCpy mod d a b c imm cl t) := by
  unfold Machine.execCpy
  refine h.run fun c aid => ?_
  dsimp only
  split
  · exact .trap
  refine .ite (fun _ => .trap) (fun _ => ?_)
  exact .ite (fun _ => .trap) (fun _ => .ite (fun _ => .trap) (fun _ => .ite (fun _ => .trap) (fun _ => h.rangeRes)))

theorem KeepsForm.withDesc (h : s.KeepsForm t) {k aid : Nat} {x : Act} {opcode : Nat} {c : BitVec 6} {n : Nat}
    {others : List Nat} {f : List Word64 → Res} (hf : ∀ ws, s.ResKeeps (f ws)) :
    s.ResKeeps (withDesc t k aid x opcode c n others f) := by
  unfold Machine.withDesc
  split
  · exact .trap
  refine .ite (fun _ => .hold h.idle) (fun _ => h.cleanBlock ?_)
  split
  · exact .trap
  · exact hf _

theorem KeepsForm.execCpyt (h : s.KeepsForm t) {mod : BitVec 4} {d a b c : BitVec 6} {imm : BitVec 16} {cl : Clauses} :
    s.NextKeeps (execCpyt mod d a b c imm cl t) := by
  unfold Machine.execCpyt
  refine h.run fun c aid => ?_
  dsimp only
  refine h.withDesc fun ws => ?_
  exact .ite (fun _ => .trap) (fun _ => h.rangeRes)

theorem KeepsForm.execCpyw (h : s.KeepsForm t) {mod : BitVec 4} {d a b c : BitVec 6} {imm : BitVec 16} {cl : Clauses} :
    s.NextKeeps (execCpyw mod d a b c imm cl t) := by
  unfold Machine.execCpyw
  refine h.run fun c aid => ?_
  dsimp only
  refine h.withDesc fun ws => ?_
  exact .ite (fun _ => .trap) (fun _ => h.rangeRes)

theorem KeepsForm.indexedRes (h : s.KeepsForm t) {k aid : Nat} {x : Act} {i : Instr} {cl : Clauses} {mod : BitVec 4}
    {d a b c : BitVec 6} {imm : BitVec 16} {out : Bool} :
    s.ResKeeps (Machine.indexedRes t k aid x i cl mod d a b c imm out) := by
  refine h.withDesc fun ws => ?_
  dsimp only
  refine .ite (fun _ => .trap) (fun _ => ?_)
  split
  · exact .trap
  split
  · exact .trap
  split
  · exact .trap
  · exact h.acceptRes

theorem KeepsForm.execCpyg (h : s.KeepsForm t) {mod : BitVec 4} {d a b c : BitVec 6} {imm : BitVec 16} {cl : Clauses} :
    s.NextKeeps (execCpyg mod d a b c imm cl t) := h.run fun _ _ => h.indexedRes

theorem KeepsForm.execCpys (h : s.KeepsForm t) {mod : BitVec 4} {d a b c : BitVec 6} {imm : BitVec 16} {cl : Clauses} :
    s.NextKeeps (execCpys mod d a b c imm cl t) := h.run fun _ _ => h.indexedRes

theorem KeepsForm.execCpyp (h : s.KeepsForm t) {d a b c : BitVec 6} {imm : BitVec 16} {cl : Clauses} :
    s.NextKeeps (Machine.execCpyp d a b c imm cl t) := by
  refine h.run fun k aid => ?_
  refine h.withDesc fun ws => ?_
  dsimp only
  refine .ite (fun _ => .trap) (fun _ => ?_)
  split
  · exact .trap
  · next p _ =>
    have hr := h.acceptRes (c := k) (aid := aid) (x := t.act aid) (i := .cpyp d a b c imm cl) (cl := cl) (d := d)
      (n := chanOf imm) (m := { cap := (t.act aid).k a.toNat, off := p, dir := 0, loc := 0
                                what := .cpyp (dbits ws 0 63 32) (dbits ws 0 9 0) (dbits ws 1 63 40) (dbits ws 1 39 0)
                                  (dbits ws 2 63 40) (dbits ws 2 39 0) })
    split
    · next e =>
      rw [e] at hr
      exact .goEff (KeepsForm.unreplayable hr)
    · exact hr

theorem KeepsForm.execCpyr (h : s.KeepsForm t) {d a b c : BitVec 6} {imm : BitVec 16} {cl : Clauses} :
    s.NextKeeps (execCpyr d a b c imm cl t) := by
  unfold Machine.execCpyr
  refine h.run fun c aid => ?_
  dsimp only
  split
  · exact .trap
  refine h.withDesc fun ws => ?_
  split
  · exact .trap
  split
  · exact .trap
  split
  · exact .trap
  split
  · exact .trap
  split
  · exact .trap
  split
  · exact .trap
  · exact h.acceptRes

theorem KeepsForm.execCutb (h : s.KeepsForm t) {d a b c : BitVec 6} {imm : BitVec 16} {cl : Clauses} :
    s.NextKeeps (execCutb d a b c imm cl t) := by
  unfold Machine.execCutb
  refine h.run fun c aid => ?_
  dsimp only
  split
  · exact .trap
  split
  · exact .trap
  split
  · exact .trap
  split
  · exact .trap
  split
  · exact .trap
  split
  · exact .trap
  split
  · exact .trap
  split
  · exact .trap
  split
  · exact .trap
  · exact h.acceptRes

theorem KeepsForm.waitRes (h : s.KeepsForm t) {o : Op} {b : Block} : s.ResKeeps (waitRes t o b) := by
  unfold Machine.waitRes
  split
  · exact .trap
  · exact h.opRes
  · exact .wait

theorem KeepsForm.execCpwait (h : s.KeepsForm t) {a : BitVec 6} {imm : BitVec 16} {cl : Clauses} :
    s.NextKeeps (execCpwait a imm cl t) := by
  unfold Machine.execCpwait
  refine h.run fun c aid => ?_
  dsimp only
  split
  · exact .trap
  · exact h.waitRes

theorem KeepsForm.execCpstat (h : s.KeepsForm t) {mod : BitVec 4} {d : BitVec 6} {imm : BitVec 16} {cl : Clauses} :
    s.NextKeeps (execCpstat mod d imm cl t) := by
  unfold Machine.execCpstat
  refine h.run fun c aid => ?_
  dsimp only
  split
  · exact .trap
  · exact h.fixedRes

theorem KeepsForm.thawed (h : s.KeepsForm t) {c : Nat} {x : Act} {r : Res} (hr : s.ResKeeps r) : s.ResKeeps (thawed t c x r) :=
  .ite (fun _ => .hold h.idle) (fun _ => hr)

theorem KeepsForm.execCpcan (h : s.KeepsForm t) {imm : BitVec 16} {cl : Clauses} : s.NextKeeps (execCpcan imm cl t) := by
  unfold Machine.execCpcan
  refine h.run fun c aid => ?_
  dsimp only
  split
  · exact .trap
  refine h.thawed ?_
  exact h.clearChan.settleWaits.opRes

theorem KeepsForm.execStgwait (h : s.KeepsForm t) {d a : BitVec 6} {imm : BitVec 16} {cl : Clauses} :
    s.NextKeeps (execStgwait d a imm cl t) := by
  unfold Machine.execStgwait
  refine h.run fun c aid => ?_
  dsimp only
  split
  · exact .trap
  · exact h.waitRes

theorem KeepsForm.execStgrel (h : s.KeepsForm t) {imm : BitVec 16} {cl : Clauses} : s.NextKeeps (execStgrel imm cl t) := by
  unfold Machine.execStgrel
  refine h.run fun c aid => ?_
  dsimp only
  split
  · exact .trap
  split
  · exact .trap
  refine h.thawed ?_
  exact h.setRing.settleWaits.effectRes

theorem KeepsForm.clearBindings (h : s.KeepsForm t) {q n : Nat} : s.KeepsForm (t.clearBindings q n) := by
  refine h.mapActs fun x hx => ?_
  dsimp only
  rw [apply_ite Prod.snd]
  exact .ite hx.of_eq hx

theorem KeepsForm.execStgset (h : s.KeepsForm t) {a : BitVec 6} {imm : BitVec 16} {cl : Clauses} :
    s.NextKeeps (execStgset a imm cl t) := by
  unfold Machine.execStgset
  refine h.run fun c aid => ?_
  dsimp only
  split
  · exact .trap
  · exact .ite (fun _ => .trap) (fun _ => .ite (fun _ => .trap) (fun _ => h.setRing.clearBindings.effectRes))

theorem KeepsForm.execEvwait (h : s.KeepsForm t) {imm : BitVec 16} {cl : Clauses} : s.NextKeeps (execEvwait imm cl t) := by
  unfold Machine.execEvwait
  refine h.run fun c aid => ?_
  dsimp only
  split
  · exact .trap
  · exact h.waitRes

theorem KeepsForm.execEvclr (h : s.KeepsForm t) {imm : BitVec 16} {cl : Clauses} : s.NextKeeps (execEvclr imm cl t) := by
  unfold Machine.execEvclr
  refine h.run fun c aid => ?_
  dsimp only
  split
  · exact .trap
  refine h.thawed ?_
  exact h.setLine.effectRes

theorem KeepsForm.execMould (h : s.KeepsForm t) {mod : BitVec 4} {d : BitVec 6} {cl : Clauses} :
    s.NextKeeps (execMould mod d cl t) := h.run fun _ _ => .ite (fun _ => h.unreplayable.opRes) (fun _ => h.opRes)

theorem KeepsForm.execTmark (h : s.KeepsForm t) {a : BitVec 6} {imm : BitVec 16} {cl : Clauses} :
    s.NextKeeps (execTmark a imm cl t) := h.run fun _ _ => (KeepsForm.ite (fun _ => h.markRecord) (fun _ => h)).effectRes

end Sys2Proof.Machine.State
end

section
/-! Events of cores and of meetings, and the save areas: each operation keeps the form. -/
namespace Sys2Proof.Machine.State
set_option Elab.async false
variable {s t u : State}

/-! ## Machine/EvCore -/

theorem KeepsForm.execFixedLatencyWriteback (h : s.KeepsForm t) {core : Nat} :
    s.NextKeeps (execFixedLatencyWriteback core t) := by
  unfold Machine.execFixedLatencyWriteback
  split
  · exact .next (h.setAct fun w => Act.landDue_wf _ (h.act w))
  · exact .next h

theorem KeepsForm.execDivideComplete (h : s.KeepsForm t) {core : Nat} : s.NextKeeps (execDivideComplete core t) := by
  unfold Machine.execDivideComplete
  split
  · split
    · exact .next (KeepsForm.ite (fun _ => h.clearTag) (fun _ => h))
    · exact .next h
  · exact .next h

theorem KeepsForm.execMatrixUnitWordDone (h : s.KeepsForm t) {core : Nat} : s.NextKeeps (execMatrixUnitWordDone core t) := by
  unfold Machine.execMatrixUnitWordDone
  split
  · exact .next h
  split
  · exact .next h
  split
  · exact .next (KeepsForm.ite (fun _ => h.matPerform) (fun _ => h))
  · exact .next h

theorem KeepsForm.ownLoad (h : s.KeepsForm t) {g : Nat} {p : Option Poison} {logged : Bool} :
    s.KeepsForm (t.ownLoad g p logged) := by
  unfold State.ownLoad
  split
  · exact h.noteUncorr
  · exact h

theorem KeepsForm.execOnQuadAccessDone (h : s.KeepsForm t) {op : Nat} : s.NextKeeps (execOnQuadAccessDone op t) := by
  unfold Machine.execOnQuadAccessDone
  split
  · exact .next h
  split
  · exact .next h
  split
  · exact .ite (fun _ => .next h) (fun _ => .next h.ownLoad.clearTag)
  · exact .ite (fun _ => .next h) (fun _ => .next h.boundOf.qsWrite.clearTag)
  · exact .ite (fun _ => .next h) (fun _ => .next h.ownLoad.clearTag)
  · exact .next ((h.foldl fun _ _ hu => hu.noteUncorr).clearTag)
  · exact .next ((h.foldl fun _ _ hu => hu.lmWrite).clearTag)
  · exact .next h

theorem KeepsForm.execGeneratorCutterDone (h : s.KeepsForm t) {op : Nat} : s.NextKeeps (execGeneratorCutterDone op t) := by
  unfold Machine.execGeneratorCutterDone
  split
  · exact .next h
  split
  · exact .next (KeepsForm.ite (fun _ => h.clearTag) (fun _ => h))
  · exact .next h

theorem KeepsForm.luggageCopy (h : s.KeepsForm t) {g core dst src len : Nat} :
    s.KeepsForm (t.luggageCopy g core dst src len) := h.lmWrite.markBad

theorem KeepsForm.execFixedTimeTagClear (h : s.KeepsForm t) {op : Nat} : s.NextKeeps (execFixedTimeTagClear op t) := by
  unfold Machine.execFixedTimeTagClear
  split
  · exact .next h
  split
  · exact .next (KeepsForm.ite (fun _ => h.clearTag) (fun _ => h))
  · exact .next h.luggageCopy.clearTag
  · exact .next h.endWait

theorem KeepsForm.execContextSwitch (h : s.KeepsForm t) {core : Nat} : s.NextKeeps (execContextSwitch core t) := by
  unfold Machine.execContextSwitch
  split
  · exact .next h
  · exact .next (KeepsForm.ite (fun _ => h.switchPort) (fun _ => h))

theorem KeepsForm.execPortResume (h : s.KeepsForm t) {core : Nat} : s.NextKeeps (execPortResume core t) := by
  unfold Machine.execPortResume
  split
  · exact .next h
  split
  · exact .next h.passPort
  · exact .next h

theorem KeepsForm.execTrapEntry (h : s.KeepsForm t) {act : Nat} : s.NextKeeps (execTrapEntry act t) := by
  unfold Machine.execTrapEntry
  dsimp only
  split
  · exact .next h
  · exact .ite (fun _ => .next h.touchAct.enterTrap) (fun _ => .next h)

theorem KeepsForm.execTimerMatch (h : s.KeepsForm t) {act : Nat} : s.NextKeeps (execTimerMatch act t) :=
  .ite (fun _ => .next h.touchAct) (fun _ => .next h)

theorem KeepsForm.execInterruptTaken (h : s.KeepsForm t) {act : Nat} : s.NextKeeps (execInterruptTaken act t) := by
  unfold Machine.execInterruptTaken
  dsimp only
  split
  · exact .ite (fun _ => .next h.takeTrap) (fun _ => .next h)
  · exact .next h

theorem KeepsForm.execTimecmpWrite (h : s.KeepsForm t) {act : Nat} {value : BitVec 64} :
    s.NextKeeps (execTimecmpWrite act value t) := .ite (fun _ => .next h.touchAct) (fun _ => .next h)

theorem KeepsForm.execExtpendWrite (h : s.KeepsForm t) {act : Nat} {value : BitVec 64} :
    s.NextKeeps (execExtpendWrite act value t) := .ite (fun _ => .next h.touchAct) (fun _ => .next h)

theorem KeepsForm.machineCheck (h : s.KeepsForm t) {core : Nat} {record : Word64} :
    s.KeepsForm (t.machineCheck core record) := by
  unfold State.machineCheck
  split
  · split
    · refine KeepsForm.crossAlarm ?_
      split
      · exact h.touchCore.takeTrap
      · exact h.touchCore
    dsimp only
    split
    · exact h.touchCore.takeTrap
    · exact h.touchCore
  split
  · refine KeepsForm.crossAlarm ?_
    split
    · exact h.touchCore.setDie.takeTrap
    · exact h.touchCore.setDie
  dsimp only
  split
  · exact h.touchCore.setDie.takeTrap
  · exact h.touchCore.setDie

theorem KeepsForm.execMachineCheckError (h : s.KeepsForm t) {core : Nat} {record : BitVec 64} :
    s.NextKeeps (execMachineCheckError core record t) := .next (KeepsForm.ite (fun _ => h) (fun _ => h.machineCheck))

/-! ## Machine/EvMeet -/

theorem KeepsForm.answerOp (h : s.KeepsForm t) {oid : Nat} {o : Op} {ws : List RegWrite} :
    s.KeepsForm (t.answerOp oid o ws) := .ite (fun _ => h.clearTag) (fun _ => h.aside)

theorem KeepsForm.completeMeet (h : s.KeepsForm t) {aid status : Nat} : s.KeepsForm (t.completeMeet aid status) := by
  unfold State.completeMeet
  dsimp only
  split
  · exact h
  split
  · exact h.touchAct.answerOp
  · exact h.touchAct

theorem KeepsForm.abandonMeets (h : s.KeepsForm t) {gid : Nat} :
    s.KeepsForm (t.abandonMeets gid) :=
  (h.mapQuadTable fun _ hx => hx.of_eq).foldl fun _ _ hu => hu.completeMeet

theorem KeepsForm.execMeetArrival (h : s.KeepsForm t) {act : Nat} : s.NextKeeps (Machine.execMeetArrival act t) := by
  unfold Machine.execMeetArrival
  dsimp only
  split
  · exact .next h
  refine .ite (fun _ => .next h) (fun _ => ?_)
  split
  · exact .next (KeepsForm.tryPair (KeepsForm.touchQuad (KeepsForm.setAct h.take.touchQuad fun w => (h.act w).of_eq)))
  · exact .ite (fun _ => .next h.take.touchQuad.completeMeet)
      (fun _ => .next (KeepsForm.touchQuad (KeepsForm.setAct h.take.touchQuad fun w => (h.act w).of_eq)))

theorem KeepsForm.execMeetingCoreChosen (h : s.KeepsForm t) {quad entry : Nat} :
    s.NextKeeps (execMeetingCoreChosen quad entry t) := by
  unfold Machine.execMeetingCoreChosen
  split
  · exact .next h.tryPair
  · exact .next h

theorem KeepsForm.backToWaiting (h : s.KeepsForm t) {q : Nat} {e : MeetEntry} {arr : MeetArr} :
    s.KeepsForm (t.backToWaiting q e arr) := by
  unfold State.backToWaiting
  dsimp only
  split
  · exact KeepsForm.tryPair h.take.touchQuad
  · exact h.touchQuad

theorem KeepsForm.leaveHome (h : s.KeepsForm t) {q aid : Nat} {e : MeetEntry} : s.KeepsForm (t.leaveHome q aid e) := by
  unfold State.leaveHome
  split
  · exact h.touchQuad
  · exact h.touchQuad.backToWaiting

theorem KeepsForm.execMeetTimeout (h : s.KeepsForm t) {act : Nat} : s.NextKeeps (execMeetTimeout act t) := by
  unfold Machine.execMeetTimeout
  split
  · exact .next h
  split
  · dsimp only
    split
    · exact .next h
    split
    · refine .ite (fun _ => .next h.touchQuad.touchQuad.completeMeet.completeMeet) (fun _ => ?_)
      exact .next h.touchQuad.leaveHome.completeMeet
    · exact .next h.touchQuad.leaveHome.completeMeet
  dsimp only
  split
  · exact .next h
  refine .ite (fun _ => .next h) (fun _ => ?_)
  refine .ite (fun _ => .next h.touchQuad.touchQuad.completeMeet.completeMeet) (fun _ => ?_)
  exact .next h.touchQuad.leaveHome.completeMeet

theorem KeepsForm.withdrawHome (h : s.KeepsForm t) {q : Nat} {l : List Nat} : s.KeepsForm (t.withdrawHome q l) :=
  .ite (fun _ => h) (fun _ => h.touchQuad.foldl fun _ _ hu => hu.foldl fun _ _ hu1 => hu1.backToWaiting)

theorem KeepsForm.unMeet (h : s.KeepsForm t) {aid : Nat} : s.KeepsForm (t.unMeet aid) := by
  unfold State.unMeet
  dsimp only
  split
  · exact h
  · next p _ =>
    have hr (w : s.UnitsWf) : (((t.act aid).setMg 0).relive p.freed).Wf := Act.Wf.relive ((h.act w).of_eq)
    exact KeepsForm.setAct h.aside fun w => (hr w).of_eq

theorem KeepsForm.withdrawAll (h : s.KeepsForm t) {l : List Nat} : s.KeepsForm (t.withdrawAll l) :=
  (h.foldl fun _ _ hu => hu.withdrawHome).foldl fun _ _ hu => hu.unMeet

theorem KeepsForm.withdraw (h : s.KeepsForm t) {aid : Nat} : s.KeepsForm (t.withdraw aid) := h.withdrawAll

theorem KeepsForm.execMeetWithdrawal (h : s.KeepsForm t) {act : Nat} : s.NextKeeps (execMeetWithdrawal act t) :=
  .next h.withdraw

theorem KeepsForm.landVisitor (h : s.KeepsForm t) {aid core slot : Nat} : s.KeepsForm (t.landVisitor aid core slot) := by
  unfold State.landVisitor
  dsimp only
  split
  · exact h
  · exact h.lmWrite.markBad.touchCore.touchAct

theorem KeepsForm.writeMet (h : s.KeepsForm t) {aid : Nat} : s.KeepsForm (t.writeMet aid) := by
  unfold State.writeMet
  split
  · exact h
  split
  · exact h.answerOp
  · exact h

theorem KeepsForm.execMeetLanded (h : s.KeepsForm t) {core : Nat} : s.NextKeeps (execMeetLanded core t) := by
  unfold Machine.execMeetLanded
  split
  · exact .ite (fun _ => .next h.landVisitor.landVisitor.l1Clear.writeMet.writeMet) (fun _ => .next h)
  · exact .next h

theorem KeepsForm.landHome (h : s.KeepsForm t) {aid : Nat} : s.KeepsForm (t.landHome aid) := by
  unfold State.landHome
  extract_lets a
  split
  · exact h
  · extract_lets s1 s2 home s3 s4
    have h1 : s.KeepsForm s1 := .ite (fun _ => h) (fun _ => h.lmWrite.markBad)
    have h3 : s.KeepsForm s3 := h1.l1Clear.touchCore
    have h4 : s.KeepsForm s4 := h3.setAct fun w => (h.act w).of_eq
    refine .ite (fun _ => h4.endActivity) (fun _ => ?_)
    split
    · split
      · exact h4.answerOp
      · exact h4
    · exact h4

theorem KeepsForm.execPartLanded (h : s.KeepsForm t) {act : Nat} : s.NextKeeps (execPartLanded act t) :=
  .ite (fun _ => .next h.landHome) (fun _ => .next h)

/-! ## Machine/SaveArea -/

theorem KeepsForm.objWrite (h : s.KeepsForm t) {part obj off : Nat} {bs : List Byte} :
    s.SomeKeeps (t.objWrite part obj off bs) := by
  refine SomeKeeps.foldl (.some h) (fun _ => rfl) fun u i _ hu => ?_
  dsimp only
  split
  · exact .none
  · exact .some hu.applyLine.homeWrite

theorem KeepsForm.objWrites (h : s.KeepsForm t) {part obj off : Nat} {ws : List (Nat × List Byte)} :
    s.SomeKeeps (t.objWrites part obj off ws) :=
  SomeKeeps.foldl (.some h) (fun _ => rfl) fun _ _ _ hu => hu.objWrite

theorem KeepsForm.backOut (h : s.KeepsForm t) {aid : Nat} : s.KeepsForm (t.backOut aid) := by
  unfold State.backOut
  dsimp only
  refine KeepsForm.setAct h.aside fun w => ?_
  split
  · split
    · exact ((h.act w).undoIssue).of_eq
    · exact (h.act w).of_eq
  · exact (h.act w).of_eq

theorem KeepsForm.writeSave (h : s.KeepsForm t) {aid : Nat} {tiles : Bool} : s.SomeKeeps (t.writeSave aid tiles) := h.objWrites

theorem KeepsForm.readSave (h : s.KeepsForm t) {aid off : Nat} {tiles : Bool} : s.SomeKeeps (t.readSave aid off tiles) := by
  unfold State.readSave
  dsimp only
  split
  · exact .none
  · have hu (bs : List Byte) : s.KeepsForm ((t.draw 2).2.setAct aid (unpackAct (t.act aid) bs (t.draw 2).1)) :=
      h.draw.setAct fun w => unpackAct_wf (h.act w) _ _
    refine .ite (fun _ => .some (hu _)) (fun _ => SomeKeeps.foldl (.some (hu _)) (fun _ => rfl) fun v n _ hv => ?_)
    dsimp only
    split
    · exact .none
    · split
      · exact .some hv.newTile
      · exact .some hv

theorem KeepsForm.replaySlot (h : s.KeepsForm t) {aid tag : Nat} {r : Replay} : s.KeepsForm (t.replaySlot aid tag r) := by
  unfold State.replaySlot
  dsimp only
  split
  · split
    · exact h.addOp.lateTrap
    · exact h.addOp.send
  · exact h.addOp
  · exact h.addOp
  · exact h.addOp
  · exact h.addOp
  · exact .ite (fun _ => h.setAct fun w => Act.putAll_wf _ _ (h.act w)) (fun _ => h.addOp)
  · exact .ite (fun _ => h.setAct fun w => Act.putAll_wf _ _ (h.act w)) (fun _ => h.addOp)
  · exact h.addOp
  · exact h.addOp
  · exact h.addOp
  · exact h

theorem KeepsForm.replaySlots (h : s.KeepsForm t) {aid : Nat} : s.KeepsForm (t.replaySlots aid) :=
  (h.foldl fun _ _ hu => hu.replaySlot).touchAct

theorem KeepsForm.enterSlot (h : s.KeepsForm t) {aid c slot : Nat} : s.KeepsForm (t.enterSlot aid c slot) :=
  h.l1Clear.touchCore.touchAct

theorem KeepsForm.saveContext (h : s.KeepsForm t) {aid : Nat} : s.SomeKeeps (t.saveContext aid) := by
  unfold State.saveContext
  dsimp only
  split
  · exact .none
  · next v e =>
    have hv := h.withdraw.settle.backOut.writeSave v e
    exact .some (KeepsForm.freeSlot hv.touchAct)

end Sys2Proof.Machine.State
end

section
/-! The scheduler: crews, gangs, queues and the journal: each operation keeps the form. -/
namespace Sys2Proof.Machine.State
set_option Elab.async false
variable {s t u : State}

/-! ## Machine/Sched -/

theorem KeepsForm.mapCores (h : s.KeepsForm t) {f : Core → Core} (hf : ∀ c, c.MemWf → (f c).MemWf) :
    s.KeepsForm (t.mapCores f) := h.mapCoreTable fun _ hx => hf _ hx

theorem KeepsForm.mapQuads (h : s.KeepsForm t) {f : Quad → Quad} (hf : ∀ q, q.MemWf → (f q).MemWf) :
    s.KeepsForm (t.mapQuads f) := h.mapQuadTable fun _ hx => hf _ hx

theorem KeepsForm.mapParts (h : s.KeepsForm t) {f : Part → Part} : s.KeepsForm (t.mapParts f) := h.aside

theorem KeepsForm.imageWrite (h : s.KeepsForm t) {a : Nat} {bs : List Byte} {bad : List Nat} :
    s.KeepsForm (t.imageWrite a bs bad) :=
  h.schedWrite.withMemory (t := t.schedWrite a bs) fun w => ⟨w.mem, w.tags,
    sparseWf_foldl bad _ (fun _ _ hm => sparseWf_sparseSet _ _ hm) (cleanWhole_wf _ _ _ w.poison)⟩

theorem KeepsForm.takeShare (h : s.KeepsForm t) {gid : Nat} : s.KeepsForm (t.takeShare gid) := h.touchGang

theorem KeepsForm.putCrewRing (h : s.KeepsForm t) {gid k n : Nat} {x : Ring} : s.KeepsForm (t.putCrewRing gid k n x) := by
  unfold State.putCrewRing
  dsimp only
  split
  · exact h
  · exact .ite (fun _ => h.imageWrite.setGang fun w => h.snap w) (fun _ => h.setRing)

theorem KeepsForm.putCrewChan (h : s.KeepsForm t) {gid k n : Nat} {x : Chan} : s.KeepsForm (t.putCrewChan gid k n x) := by
  unfold State.putCrewChan
  dsimp only
  split
  · exact h
  · exact .ite (fun _ => h.imageWrite.setGang fun w => h.snap w) (fun _ => h.setChan)

theorem KeepsForm.putCrewLine (h : s.KeepsForm t) {gid k n : Nat} {x : EvLine} : s.KeepsForm (t.putCrewLine gid k n x) := by
  unfold State.putCrewLine
  dsimp only
  split
  · exact h
  · exact .ite (fun _ => h.touchGang) (fun _ => h.setLine)

theorem KeepsForm.writeMould (h : s.KeepsForm t) {aid : Nat} {report : Option Word64} :
    s.KeepsForm (t.writeMould aid report) := by
  unfold State.writeMould
  dsimp only
  split
  · next e => exact h.objWrites _ e
  · exact h.unreplayable

theorem KeepsForm.dropMoulds (h : s.KeepsForm t) {gid : Nat} : s.KeepsForm (t.dropMoulds gid) := by
  unfold State.dropMoulds
  have hm := (h.mapCores (f := fun c => { c with
    mould := c.mould.filter (fun e => e.gang != gid), halfLines := c.halfLines.filter (fun x => x.1 != gid) })
    fun _ hc => hc.of_eq).mapQuads (f := fun q => { q with mould := q.mould.filter (fun e => e.gang != gid) })
    fun _ hq => hq.of_eq
  exact KeepsForm.touchGang hm.aside

theorem KeepsForm.openEpoch (h : s.KeepsForm t) {gid epoch : Nat} {report : Option Word64} :
    s.KeepsForm (t.openEpoch gid epoch report) := by
  unfold State.openEpoch
  extract_lets s1 g s2 s3
  have h1 : s.KeepsForm s1 := h.flushMerges.dropMoulds
  have h2 : s.KeepsForm s2 := h1.touchGang
  have h3 : s.KeepsForm s3 := h2.foldl fun _ _ hu => hu.writeMould
  refine h3.setGang fun w x hx => (h3.units w).acts x ?_
  exact (List.mem_filter.mp hx).1

theorem KeepsForm.wakes (h : s.KeepsForm t) {die : Nat} : s.KeepsForm (t.wakes die) := h.aside.setDie

theorem KeepsForm.giveAway (h : s.KeepsForm t) {p : Place} {r : LaunchRec} : s.KeepsForm (t.giveAway p r) := by
  refine h.mapGangs fun x => ?_
  split
  · rfl
  · rfl

theorem KeepsForm.prepare (h : s.KeepsForm t) {p : Place} {r : LaunchRec} : s.KeepsForm (t.prepare p r) := by
  unfold State.prepare
  extract_lets s1 s2 s3
  have h2 : s.KeepsForm s2 := KeepsForm.foldl h.giveAway fun _ _ hu =>
    hu.setCore fun w => Core.prepare_memWf _ _ _ (hu.core w)
  have h3 : s.KeepsForm s3 := .ite (fun _ => h2.wakes) (fun _ => h2)
  exact h3.setQuad fun w => Quad.prepare_memWf _ _ _ (h3.quad w)

theorem KeepsForm.dispatchCrew (h : s.KeepsForm t) {gid n : Nat} {p : Place} : s.KeepsForm (t.dispatchCrew gid n p) := by
  unfold State.dispatchCrew
  extract_lets g g1 s1 first s2 s3 cr
  have h2 : s.KeepsForm s2 := KeepsForm.aside h.prepare
  have h3 : s.KeepsForm s3 := h2.foldl fun u x hu => KeepsForm.touchCore (hu.setAct fun _ => newAct_wf _ _ _ _ _ _ _ _ _)
  have hg : g1.snap.acts = (t.gang gid).snap.acts := by
    unfold g1
    split <;> rfl
  refine KeepsForm.jaccept (h3.setGang fun w => ?_)
  exact hg ▸ h.snap w

theorem KeepsForm.afterDispatch (h : s.KeepsForm t) {gid : Nat} : s.KeepsForm (t.afterDispatch gid) :=
  .ite (fun _ => h) (fun _ => h.takeShare)

theorem KeepsForm.crewSave (h : s.KeepsForm t) {gid n : Nat} {r : LaunchRec} {cr : Crew} :
    s.KeepsForm (t.crewSave gid n r cr).2 :=
  ((h.foldl fun _ _ hu => hu.imageWrite).imageWrite.foldl fun _ _ hu => hu.imageWrite).foldl fun _ _ hu => hu.imageWrite

theorem KeepsForm.takeMoulds (h : s.KeepsForm t) {gid : Nat} {r : LaunchRec} {cr : Crew} :
    s.KeepsForm (t.takeMoulds gid r cr) := (h.foldl fun _ _ hu => hu.touchCore).touchQuad

theorem KeepsForm.swapOut (h : s.KeepsForm t) {gid n : Nat} : s.SomeKeeps (t.swapOut gid n) := by
  unfold State.swapOut
  dsimp only
  split
  · exact .none
  · next cr _ =>
    refine .ite (fun _ => .none) (fun _ => ?_)
    have hs : s.SomeKeeps (cr.acts.foldl (fun (r : Option State) a =>
        match r with
        | none => none
        | some s => if (s.act a).run = .saved then some s else s.saveContext a) (some (t.withdrawAll cr.acts))) :=
      SomeKeeps.foldl (.some h.withdrawAll) (fun _ => rfl) fun _ _ _ hu => .ite (fun _ => .some hu) (fun _ => hu.saveContext)
    split
    · exact .none
    · next v e =>
      have hv := (hs v e).crewSave (gid := gid) (n := n) (r := (t.gang gid).lrec) (cr := cr)
      exact .some (KeepsForm.jaccept hv.takeMoulds.touchGang)

theorem KeepsForm.moveMeeting (h : s.KeepsForm t) {core : Nat} : s.KeepsForm (t.moveMeeting core) := by
  unfold State.moveMeeting
  dsimp only
  split
  · exact h
  split
  · exact h
  split
  · exact h
  · exact (h.foldl fun _ _ hu => hu.lmWrite.markBad.touchAct).touchCore.touchCore

theorem KeepsForm.newHome (h : s.KeepsForm t) {aid home homeSlot : Nat} {tiles : List Nat} :
    s.KeepsForm (t.newHome aid home homeSlot tiles) := by
  unfold State.newHome
  dsimp only
  split
  · split
    · exact h.touchCore.touchCore.setAct fun w => (h.act w).of_eq
    split
    · refine .ite (fun _ => (h.touchCore.touchCore.setAct fun w => (h.act w).of_eq).touchAct) (fun _ => ?_)
      exact h.touchCore.touchCore.setAct fun w => (h.act w).of_eq
    · exact h.touchCore.touchCore.setAct fun w => (h.act w).of_eq
  · exact h.touchAct

theorem KeepsForm.resumeContext (h : s.KeepsForm t) {aid home homeSlot : Nat} {tiles : List Nat} :
    s.KeepsForm (t.resumeContext aid home homeSlot tiles) := by
  unfold State.resumeContext
  extract_lets s1 s2 a s3 s4
  have h2 : s.KeepsForm s2 := .ite (fun _ => h.newHome.moveMeeting) (fun _ => h.newHome)
  have h3 : s.KeepsForm s3 := (h2.readSave).getD h2
  have h4 : s.KeepsForm s4 := h3.setAct fun w => (h3.act w).unbind
  exact .ite (fun _ => h2) (fun _ => h4.enterSlot.replaySlots)

theorem KeepsForm.crewRestore (h : s.KeepsForm t) {r : LaunchRec} {cr : Crew} {p : Place} :
    s.KeepsForm (t.crewRestore r cr p) := by
  unfold State.crewRestore
  extract_lets sv s1
  have h1 : s.KeepsForm s1 := h.foldl fun u x hu => hu.setCore fun w =>
    ⟨sparseWf_sparseWrite _ _ (hu.core w).lm,
      sparseWf_foldl _ _ (fun _ _ hm => sparseWf_sparseSet _ _ hm) (hu.core w).poison, (hu.core w).imem,
      (hu.core w).imemPoison⟩
  dsimp only
  exact h1.setQuad fun w => ⟨sparseWf_sparseWrite _ _ (h1.quad w).qs,
    sparseWf_foldl _ _ (fun _ _ hm => sparseWf_sparseSet _ _ hm) (h1.quad w).poison⟩

theorem KeepsForm.swapIn (h : s.KeepsForm t) {gid n : Nat} {p : Place} : s.KeepsForm (t.swapIn gid n p) := by
  unfold State.swapIn
  dsimp only
  split
  · exact h
  · exact (h.prepare.crewRestore.touchGang.foldl fun _ _ hu => hu.resumeContext).jaccept

theorem KeepsForm.gangStatus (h : s.KeepsForm t) {gid state code jseq : Nat} :
    s.KeepsForm (t.gangStatus gid state code jseq) := by
  unfold State.gangStatus
  dsimp only
  split
  · exact h.writeStatus
  · exact h

theorem KeepsForm.requestEnd (h : s.KeepsForm t) {gid kind grade : Nat} : s.KeepsForm (t.requestEnd gid kind grade) :=
  h.touchGang.journal

theorem KeepsForm.newGang (h : s.KeepsForm t) {part : Nat} {bytes : List Byte} {code arg : KReg} {kick : Option (Nat × Nat)}
    {act : Nat → JAction} : s.KeepsForm (t.newGang part bytes code arg kick act) := by
  unfold State.newGang
  exact (h.take.setGang fun _ => List.forall_mem_nil _).setPart.journal

theorem KeepsForm.watchCounter (h : s.KeepsForm t) {gid : Nat} : s.KeepsForm (t.watchCounter gid) := by
  unfold State.watchCounter
  refine KeepsForm.touchGang ?_
  split
  · exact h.touchGang.portTurn
  · exact h.touchGang

theorem KeepsForm.refuseEntry (h : s.KeepsForm t) {gid : Nat} : s.KeepsForm (t.refuseEntry gid) := h.journal

theorem KeepsForm.acceptGang (h : s.KeepsForm t) {gid n : Nat} : s.KeepsForm (t.acceptGang gid n) := by
  unfold State.acceptGang
  extract_lets g p dep pods s1 s2 s3
  have h2 : s.KeepsForm s2 := h.setPart.setGang fun w => h.snap w
  have h3 : s.KeepsForm s3 := .ite (fun _ => h2.watchCounter) (fun _ => h2)
  exact .ite (fun _ => h3.requestEnd) (fun _ => .ite (fun _ => h3.refuseEntry) (fun _ => h3))

theorem KeepsForm.dropWait (h : s.KeepsForm t) {gid : Nat} : s.KeepsForm (t.dropWait gid) := h.setPart.setGang fun w => h.snap w

theorem KeepsForm.dropRecord (h : s.KeepsForm t) {gid : Nat} : s.KeepsForm (t.dropRecord gid) := h.setPart

theorem KeepsForm.signalDone (h : s.KeepsForm t) {g : Gang} : s.KeepsForm (t.signalDone g) := by
  unfold State.signalDone
  split
  · exact h
  split
  · exact h
  · exact .ite (fun _ => h.portTurn) (fun _ => h.portTurn.plainWrite)

theorem KeepsForm.completeGang (h : s.KeepsForm t) {gid n : Nat} : s.KeepsForm (t.completeGang gid n) := by
  unfold State.completeGang
  extract_lets g s1 s2 s3 s4 g5 s5
  have h3 : s.KeepsForm s3 := h.signalDone.gangStatus.dropRecord.dropMoulds
  have h5 : s.KeepsForm s5 := KeepsForm.touchGang (t := s4) h3.aside
  exact .ite (fun _ => h5.raiseHost) (fun _ => h5)

theorem KeepsForm.clearGang (h : s.KeepsForm t) {gid : Nat} : s.KeepsForm (t.clearGang gid) := by
  unfold State.clearGang
  extract_lets mine ops keep s1 s2 s3
  have h1 : s.KeepsForm s1 := KeepsForm.aside (h.filterActs (p := fun x => !mine.contains x.1))
  have h3 : s.KeepsForm s3 := KeepsForm.mapParts ((h1.mapCores fun _ hc => hc.of_eq).mapQuads fun _ hq => hq.of_eq)
  exact h3.dropMoulds.retryPairs

theorem KeepsForm.gangRecord (h : s.KeepsForm t) {gid grade : Nat} {absorbed : Bool} {kind : Nat} :
    s.KeepsForm (t.gangRecord gid grade absorbed kind) := by
  unfold State.gangRecord
  dsimp only
  split
  · exact h.faultRecord
  · exact h.faultRecord

theorem KeepsForm.endGang (h : s.KeepsForm t) {gid grade kind n : Nat} : s.KeepsForm (t.endGang gid grade kind n) := by
  unfold State.endGang
  refine .ite (fun _ => h.gangRecord.abandonMeets.clearGang.dropWait.gangStatus.dropRecord.touchGang.raiseHost) (fun _ => ?_)
  exact h.gangRecord.abandonMeets.clearGang.dropWait.gangStatus.dropRecord.touchGang

theorem KeepsForm.closeQueue (h : s.KeepsForm t) {part q : Nat} : s.KeepsForm (t.closeQueue part q) := by
  unfold State.closeQueue
  dsimp only
  split
  · exact h.setPart
  · exact .ite (fun _ => h.setPart) (fun _ => h.setPart)

/-! ## Machine/EvSched -/

theorem KeepsForm.execKicksetWrite (h : s.KeepsForm t) {part queue : Nat} {value : BitVec 64} :
    s.NextKeeps (execKicksetWrite part queue value t) := .ite (fun _ => .next h) (fun _ => .next h.setPart)

theorem KeepsForm.execKickclrWrite (h : s.KeepsForm t) {part queue : Nat} {value : BitVec 64} :
    s.NextKeeps (execKickclrWrite part queue value t) := .ite (fun _ => .next h) (fun _ => .next h.setPart)

theorem KeepsForm.execHostirqWrite (h : s.KeepsForm t) {part : Nat} : s.NextKeeps (execHostirqWrite part t) := .next h.raiseHost

theorem KeepsForm.lqbaseFields (h : s.KeepsForm t) {part q : Nat} {v : Word64} : s.KeepsForm (t.lqbaseFields part q v) :=
  .ite (fun _ => h.setPart) (fun _ => h.setPart.setQueue)

theorem KeepsForm.execLqbaseWrite (h : s.KeepsForm t) {part queue : Nat} {value : BitVec 64} {host : Bool} :
    s.NextKeeps (execLqbaseWrite part queue value host t) := by
  unfold Machine.execLqbaseWrite
  split
  · exact .next h
  dsimp only
  split
  · exact .next h
  split
  · exact .next h.lqbaseFields
  · exact .next h.journal
  · exact .next h.journal
  · exact .next h.journal.journal

theorem KeepsForm.execDrainWrite (h : s.KeepsForm t) {part : Nat} {value : BitVec 64} :
    s.NextKeeps (execDrainWrite part value t) := .next h.journal

theorem KeepsForm.execPgenrWrite (h : s.KeepsForm t) {part entry : Nat} {value : BitVec 64} :
    s.NextKeeps (execPgenrWrite part entry value t) := by
  unfold Machine.execPgenrWrite
  refine .ite (fun _ => .next h) (fun _ => ?_)
  exact .ite (fun _ => .next h) (fun _ => .next ((h.foldl fun _ _ hu => hu.portTurn).setPart))

theorem KeepsForm.execKickScan (h : s.KeepsForm t) {part : Nat} : s.NextKeeps (execKickScan part t) :=
  .ite (fun _ => .next h.setPart) (fun _ => .next h)

theorem KeepsForm.kickCheck (h : s.KeepsForm t) {part : Nat} {k : KickCopy} : s.KeepsForm (t.kickCheck part k) := by
  unfold State.kickCheck
  dsimp only
  refine .ite (fun _ => h.setPart.journal) (fun _ => ?_)
  split
  · exact h.setPart.journal
  · exact .ite (fun _ => h.setPart.journal) (fun _ => h.setPart.newGang)

theorem KeepsForm.execKickTake (h : s.KeepsForm t) {part : Nat} : s.NextKeeps (execKickTake part t) := by
  unfold Machine.execKickTake
  split
  · exact .next h
  split
  · dsimp only
    split
    · exact .next h.kickCheck
    · exact .next h
  dsimp only
  split
  · exact .next h.kickCheck
  · exact .next h.portTurn.setPart

theorem KeepsForm.refuseWaiting (h : s.KeepsForm t) {part : Nat} : s.KeepsForm (t.refuseWaiting part) :=
  h.foldl fun _ _ hu => hu.refuseEntry

theorem KeepsForm.discardKick (h : s.KeepsForm t) {part n k addr : Nat} : s.KeepsForm (t.discardKick part n k addr) :=
  h.setPart.schedWrite

theorem KeepsForm.perform (h : s.KeepsForm t) {part n : Nat} {x : JAction} : s.KeepsForm (t.perform part n x) := by
  have stage {v : State} (hv : s.KeepsForm v) (gid : Nat) :
    s.KeepsForm (v.setGang gid { v.gang gid with stage := .eligible }) := hv.touchGang
  have status {v : State} (hv : s.KeepsForm v) (gid a : Nat) :
    s.KeepsForm (v.setGang gid { v.gang gid with statusAt := a }) := hv.touchGang
  unfold State.perform
  cases x with
  | none => exact h
  | takeover => exact h.reconcile.setPart
  | kick k gid st => exact .ite (fun _ => h.setPart.writeStatus) (fun _ => (status h.setPart.writeStatus _ _).acceptGang)
  | launched op gid refusal =>
    dsimp only
    split
    · exact h.acceptGang
    · exact h.unreplayable.answerOp.acceptGang
  | eligible gid => exact stage h.dropWait gid
  | refuse gid => exact .ite (fun _ => h.gangStatus.dropRecord.dropWait.eraseGang) (fun _ => h)
  | complete gid => exact h.completeGang
  | end_ gid grade detail => exact h.endGang
  | qopen q v => exact h.setQueue
  | qclose q v => exact h.closeQueue.setQueue
  | discard k addr => exact h.discardKick
  | drain v => exact .ite (fun _ => h.setPart.refuseWaiting) (fun _ => h.setPart)

theorem KeepsForm.execJournalEntryAccepted (h : s.KeepsForm t) {part : Nat} :
    s.NextKeeps (execJournalEntryAccepted part t) := by
  unfold Machine.execJournalEntryAccepted
  split
  · exact .next h
  dsimp only
  split
  · exact .next h
  · exact .next h.setPart.jaccept.perform

theorem KeepsForm.refuseLaunch (h : s.KeepsForm t) {op : Nat} {o : Op} {code : Nat} :
    s.KeepsForm (t.refuseLaunch op o code) := h.answerOp

theorem KeepsForm.execLaunchSubmission (h : s.KeepsForm t) {part : Nat} : s.NextKeeps (execLaunchSubmission part t) := by
  unfold Machine.execLaunchSubmission
  split
  · exact .next h
  dsimp only
  split
  · exact .next h
  split
  · exact .next h.setPart
  split
  · refine .ite (fun _ => .next h.setPart.refuseLaunch) (fun _ => ?_)
    refine .ite (fun _ => .next h.setPart.refuseLaunch) (fun _ => ?_)
    refine .ite (fun _ => .next h.setPart.refuseLaunch) (fun _ => ?_)
    exact .ite (fun _ => .next h.setPart.lateTrap) (fun _ => .next h.setPart.newGang)
  · exact .next h.setPart

theorem KeepsForm.execDependenceThreshold (h : s.KeepsForm t) {part gang : Nat} :
    s.NextKeeps (execDependenceThreshold part gang t) := .ite (fun _ => .next h.journal) (fun _ => .next h)

theorem KeepsForm.classZeroOnly (h : s.KeepsForm t) {part : Nat} : s.KeepsForm (t.classZeroOnly part) := by
  unfold State.classZeroOnly
  exact h.mapCores fun _ hc => hc.of_eq

theorem KeepsForm.makeRoom (h : s.KeepsForm t) {gid : Nat} {g : Gang} : s.KeepsForm (t.makeRoom gid g) := by
  unfold State.makeRoom
  split
  · split
    · exact h.swapOut.getD h
    · exact h
  · exact h

theorem KeepsForm.execCrewDispatch (h : s.KeepsForm t) {gang : Nat} : s.NextKeeps (Machine.execCrewDispatch gang t) := by
  unfold Machine.execCrewDispatch
  dsimp only
  split
  · refine .ite (fun _ => .next h) (fun _ => .ite (fun _ => .next h.requestEnd) (fun _ => .ite (fun _ => ?_) (fun _ => ?_)))
    · split
      · exact .next h.makeRoom
      · exact .next (KeepsForm.afterDispatch (h.foldl fun _ _ hu => hu.dispatchCrew))
    · split
      · exact .next h.makeRoom
      · exact .next h.dispatchCrew.afterDispatch
  · exact .next h

theorem KeepsForm.execCrewSwapIn (h : s.KeepsForm t) {gang crew : Nat} :
    s.NextKeeps (Machine.execCrewSwapIn gang crew t) := by
  unfold Machine.execCrewSwapIn
  refine .ite (fun _ => ?_) (fun _ => .next h)
  split
  · exact .next h.swapIn
  split
  · exact .next h
  · exact .ite (fun _ => .next h.makeRoom) (fun _ => .next h.requestEnd)

theorem KeepsForm.execPreemption (h : s.KeepsForm t) {act : Nat} : s.NextKeeps (execPreemption act t) := by
  unfold Machine.execPreemption
  refine .ite (fun _ => .ite (fun _ => .next h.resumeContext) (fun _ => .next h)) (fun _ => ?_)
  exact .ite (fun _ => .next (h.saveContext.getD h)) (fun _ => .next h)

theorem KeepsForm.execStallSweep (h : s.KeepsForm t) {gang : Nat} : s.NextKeeps (execStallSweep gang t) := by
  unfold Machine.execStallSweep
  dsimp only
  split
  · split
    · exact .next (h.swapOut.getD h)
    · exact .next h
  · exact .next h

theorem KeepsForm.execCycleCheckExpiry (h : s.KeepsForm t) {gang : Nat} : s.NextKeeps (execCycleCheckExpiry gang t) := by
  unfold Machine.execCycleCheckExpiry
  dsimp only
  split
  · exact .next h
  split
  · exact .ite (fun _ => .next h.requestEnd) (fun _ => .next h)
  · exact .next h

theorem KeepsForm.execBarrierWatchdogExpiry (h : s.KeepsForm t) {gang : Nat} :
    s.NextKeeps (execBarrierWatchdogExpiry gang t) := .ite (fun _ => .next h.requestEnd) (fun _ => .next h)

theorem KeepsForm.execGangCompletion (h : s.KeepsForm t) {gang : Nat} : s.NextKeeps (execGangCompletion gang t) :=
  .ite (fun _ => .next h.journal) (fun _ => .next h)

theorem KeepsForm.execGangEnd (h : s.KeepsForm t) {gang : Nat} {grade : BitVec 2} : s.NextKeeps (execGangEnd gang grade t) := by
  unfold Machine.execGangEnd
  dsimp only
  split
  · exact .next h
  split
  · exact .next h.requestEnd
  · exact .ite (fun _ => .next h.requestEnd) (fun _ => .next h.requestEnd)

end Sys2Proof.Machine.State
end

section
/-! Events of barriers, copies, recovery, debugging and power: each operation keeps the form. -/
namespace Sys2Proof.Machine.State
set_option Elab.async false
variable {s t u : State}

/-! ## Machine/EvSync -/

theorem KeepsForm.execTakeServed (h : s.KeepsForm t) {op : Nat} : s.NextKeeps (execTakeServed op t) := by
  unfold Machine.execTakeServed
  split
  · exact .next h
  split
  · exact .ite (fun _ => .next h) (fun _ => .next h.touchGang.clearTag)
  · exact .next h

theorem KeepsForm.execShareServed (h : s.KeepsForm t) {op : Nat} : s.NextKeeps (execShareServed op t) := by
  unfold Machine.execShareServed
  split
  · exact .next h
  split
  · exact .ite (fun _ => .next h) (fun _ => .next h.clearTag)
  · exact .next h

theorem KeepsForm.arrivalTaken (h : s.KeepsForm t) {aid : Nat} {x : Sent} : s.KeepsForm (t.arrivalTaken aid x) := by
  unfold State.arrivalTaken
  split
  · dsimp only
    split
    · exact h.touchAct.answerOp
    · exact h.touchAct
  · exact h.touchAct

theorem KeepsForm.execBarrierArrival (h : s.KeepsForm t) {act : Nat} : s.NextKeeps (Machine.execBarrierArrival act t) := by
  unfold Machine.execBarrierArrival
  extract_lets a
  split
  · extract_lets gid num arr s1 s2
    have h2 : s.KeepsForm s2 := .ite (fun _ => h.arrivalTaken.unreplayable) (fun _ => h.arrivalTaken)
    split
    · split
      · exact .ite (fun _ => .next h2.requestEnd) (fun _ => .next h2.aside)
      · exact .next h2.aside
    · exact .next h2.take.aside
  · exact .next h

theorem KeepsForm.finishInst (h : s.KeepsForm t) {n : Nat} {i : Inst} {tick : Nat} : s.KeepsForm (t.finishInst n i tick) :=
  h.aside

theorem KeepsForm.execBarrierComplete (h : s.KeepsForm t) {inst : Nat} : s.NextKeeps (execBarrierComplete inst t) := by
  unfold Machine.execBarrierComplete
  split
  · exact .next h
  · exact .ite (fun _ => .next h) (fun _ => .next (KeepsForm.ite (fun _ => h.finishInst.takeShare) (fun _ => h.finishInst)))

theorem KeepsForm.zeroTiles (h : s.KeepsForm t) {aid : Nat} : s.KeepsForm (t.zeroTiles aid) :=
  .ite (fun _ => h.objWrites.getD h) (fun _ => h.foldl fun _ _ hu => hu.newTile)

theorem KeepsForm.execSstepComplete (h : s.KeepsForm t) {inst : Nat} : s.NextKeeps (execSstepComplete inst t) := by
  unfold Machine.execSstepComplete
  split
  · exact .next h
  refine .ite (fun _ => .next h) (fun _ => ?_)
  refine .ite (fun _ => .next h.aside) (fun _ => ?_)
  exact .next ((h.aside.finishInst.foldl fun _ _ hu => hu.zeroTiles).takeShare.openEpoch)

theorem KeepsForm.execBarrierRelease (h : s.KeepsForm t) {inst act : Nat} :
    s.NextKeeps (Machine.execBarrierRelease inst act t) := by
  have hd (b : Bool) : s.KeepsForm (if b then t.draw 1 else (0, t)).2 := by
    cases b
    · exact h
    · exact h.draw
  have freed {v : State} (hv : s.KeepsForm v) (insts : Table Inst) :
      s.KeepsForm { v.setAct act { (v.act act).setAp false with held := none } with insts := insts } := by
    have ha : s.KeepsForm (v.setAct act { (v.act act).setAp false with held := none }) := hv.touchAct
    exact ha.aside
  unfold Machine.execBarrierRelease
  dsimp only
  split
  · refine .ite (fun _ => .next h) (fun _ => ?_)
    split
    · exact .next h
    · exact .next (freed (KeepsForm.foldl (.ite (fun _ => hd _) (fun _ => (hd _).l1Clear)) fun _ _ hu => hu.clearTag) _)
  · exact .next h

theorem KeepsForm.execPodBarrierReport (h : s.KeepsForm t) {inst pkg : Nat} :
    s.NextKeeps (Machine.execPodBarrierReport inst pkg t) := by
  have hd (own : Nat) : s.KeepsForm (if pkg = own then ((0, t) : Nat × State) else t.draw 5).2 := by
    split
    · exact h
    · exact h.draw
  have hi {v : State} (hv : s.KeepsForm v) {i : Inst} : s.KeepsForm { v with insts := tableSet v.insts inst i } := hv.aside
  unfold Machine.execPodBarrierReport
  split
  · exact .next h
  dsimp only
  exact .ite (fun _ => .next h) (fun _ => .next (.ite (fun _ => (hi (hd _)).finishInst) (fun _ => hi (hd _))))

/-! ## Machine/EvCopy -/

theorem KeepsForm.setTransfer (h : s.KeepsForm t) {q n : Nat} {x : Transfer} : s.KeepsForm (t.setTransfer q n x) := h.setChan

theorem KeepsForm.served (h : s.KeepsForm t) {q n : Nat} : s.KeepsForm (t.served q n) := h.touchQuad

theorem KeepsForm.execCopyLine (h : s.KeepsForm t) {quad chan : Nat} :
    s.NextKeeps (Machine.execCopyLine quad chan t) := by
  unfold Machine.execCopyLine
  split
  · exact .next h
  split
  · exact .next h.askWalk
  refine .ite (fun _ => .next h) (fun _ => ?_)
  next x _ _ _ _ =>
  have hp := h.piece (q := quad) (x := x)
  split
  · next e =>
    rw [e] at hp
    exact .next (KeepsForm.setTransfer hp).served
  · exact .next h

theorem KeepsForm.execTransferComplete (h : s.KeepsForm t) {quad chan : Nat} :
    s.NextKeeps (execTransferComplete quad chan t) := by
  unfold Machine.execTransferComplete
  split
  · exact .next h
  · exact .ite (fun _ => .next h.endTransfer.settleWaits) (fun _ => .next h)

theorem KeepsForm.nextFault (h : s.KeepsForm t) {q : Nat} {x : Transfer} {r : State × Nat × Nat}
    (e : t.nextFault q x = some r) : s.KeepsForm r.1 := by
  unfold State.nextFault at e
  split at e
  · split at e
    · next hp =>
      have hk := h.piece (q := q) (x := x)
      rw [hp] at hk
      cases e
      exact hk
    · cases e
  · split at e
    · split at e
      · cases e
      · split at e
        · cases e; exact h
        · cases e
    · cases e

theorem KeepsForm.execCopyFault (h : s.KeepsForm t) {quad chan : Nat} {cause : BitVec 8} :
    s.NextKeeps (Machine.execCopyFault quad chan cause t) := by
  unfold Machine.execCopyFault
  split
  · exact .next h
  split
  · exact .next h
  · next e => exact .ite (fun _ => .next (h.nextFault e).faultChan.settleWaits) (fun _ => .next h)

theorem KeepsForm.execPeerSignal (h : s.KeepsForm t) {quad chan : Nat} :
    s.NextKeeps (Machine.execPeerSignal quad chan t) := by
  unfold Machine.execPeerSignal
  split
  · exact .next h
  split
  · refine .ite (fun _ => .next h) (fun _ => ?_)
    split
    · next e => exact .next (h.peerCount _ e).setTransfer
    · exact .next h
  · exact .next h

theorem KeepsForm.setLink (h : s.KeepsForm t) {n : Nat} {l : Link} : s.KeepsForm (t.setLink n l) := h.aside

theorem KeepsForm.execLinkRailFailure (h : s.KeepsForm t) {link : Nat} : s.NextKeeps (execLinkRailFailure link t) :=
  .ite (fun _ => .next h) (fun _ => .next ((KeepsForm.ite (fun _ => h.setLink.setDie) (fun _ => h.setLink)).faultRecord))

theorem KeepsForm.execLinkFlitRetry (h : s.KeepsForm t) {link : Nat} {ok : Bool} :
    s.NextKeeps (execLinkFlitRetry link ok t) := .ite (fun _ => .next h) (fun _ => .next h.setLink)

/-! ## Machine/EvRecover -/

theorem KeepsForm.restoreImage (h : s.KeepsForm t) {r : LaunchRec} {cr : Crew} : s.KeepsForm (t.restoreImage r cr) :=
  (h.foldl fun _ _ hu => hu.foldl fun _ _ hu1 => hu1.imageWrite).foldl fun _ _ hu => hu.imageWrite

theorem KeepsForm.restoreDev (h : s.KeepsForm t) {e : MouldEntry} : s.KeepsForm (t.restoreDev e) :=
  h.schedWrite.withMemory (t := t.schedWrite (64 * e.line) e.data) fun w =>
    ⟨w.mem, Marks.wf_foldl _ _ _ w.tags, sparseWf_sparseSet _ _ w.poison⟩

theorem KeepsForm.restoreLines (h : s.KeepsForm t) {gid : Nat} : s.KeepsForm (t.restoreLines gid) := by
  unfold State.restoreLines
  have hm := (h.mapCores (f := fun c => c.restoreLines gid) fun _ hc => Core.restoreLines_memWf _ hc).mapQuads
    (f := fun q => q.restoreLines gid) fun _ hq => Quad.restoreLines_memWf _ hq
  refine KeepsForm.dropMoulds (KeepsForm.foldl (hm.foldl fun _ _ hu => hu.restoreDev) fun _ _ hu => ?_)
  exact .ite (fun _ => hu.restoreImage) (fun _ => hu)

theorem KeepsForm.stopGang (h : s.KeepsForm t) {gid : Nat} : s.KeepsForm (t.stopGang gid) := by
  unfold State.stopGang
  exact (((h.withdrawAll.flushMerges.aside.mapCores fun _ hc => hc.of_eq).mapQuads fun _ hq => hq.of_eq).mapParts.foldl
    fun _ _ hu => hu.touchAct).retryPairs

theorem KeepsForm.restoreAct (h : s.KeepsForm t) {aid : Nat} {snap : Act} (hs : s.UnitsWf → snap.Wf) :
    s.SomeKeeps (t.restoreAct aid snap) := by
  have ha (w : s.UnitsWf) : (match tableGet? t.acts aid with
      | some a => a
      | none => t.lastPlace snap.gang snap).Wf := by
    split
    · next e => exact h.foundAct w e
    · exact (hs w).lastPlace
  unfold State.restoreAct
  extract_lets a s1
  have h1 : s.KeepsForm s1 := h.setAct fun w => (ha w).of_eq
  refine .ite (fun _ => .none) (fun _ => ?_)
  split
  · exact .none
  · next v e =>
    have hv := h1.readSave v e
    have hz : s.KeepsForm ((v.setAct aid { ((v.act aid).setAp false).setMg 0 with
        held := none, party := none, sent := none }).zeroTiles aid) :=
      (hv.setAct fun w => (hv.act w).of_eq).zeroTiles
    exact .ite (fun _ => hz.writeSave) (fun _ => .some hz.enterSlot.replaySlots)

theorem KeepsForm.rollBack (h : s.KeepsForm t) {gid : Nat} : s.SomeKeeps (t.rollBack gid) := by
  unfold State.rollBack
  extract_lets snap s1 s2 s3 s4 g crews s5
  have h4 : s.KeepsForm s4 := ((h.stopGang.restoreLines.foldl fun _ _ hu => hu.putCrewRing).foldl
    fun _ _ hu => hu.putCrewChan).foldl fun _ _ hu => hu.putCrewLine
  have h5 : s.KeepsForm s5 := h4.touchGang
  exact SomeKeeps.foldl (.some h5) (fun _ => rfl) fun u x hx hu => hu.restoreAct fun w => h.snap w x hx

theorem KeepsForm.execSuperstepReplay (h : s.KeepsForm t) {gang : Nat} :
    s.NextKeeps (Machine.execSuperstepReplay gang t) := by
  unfold Machine.execSuperstepReplay
  refine .ite (fun _ => .next h) (fun _ => .ite (fun _ => .next h.requestEnd) (fun _ => ?_))
  split
  · exact .next h.touchGang
  · next e => exact .next (h.rollBack _ e).gangRecord.touchGang

theorem KeepsForm.gangError (h : s.KeepsForm t) {gid : Nat} {detail addr : Word64} {core : Nat} {restorable : Bool} :
    s.KeepsForm (t.gangError gid detail addr core restorable) := h.noteUncorr.noteFault

theorem KeepsForm.scrubCount (h : s.KeepsForm t) {die : Nat} {uncorrectable : Bool} :
    s.KeepsForm (t.scrubCount die uncorrectable) := h.setDie

theorem KeepsForm.errorRecord (h : s.KeepsForm t) {part unit core at_ : Nat} :
    s.KeepsForm (t.errorRecord part unit core at_) := h.faultRecord

theorem KeepsForm.scrubbed (h : s.KeepsForm t) {gid : Option Nat} {part unit core : Nat} {detail addr : Word64}
    {restorable : Bool} : s.KeepsForm (t.scrubbed gid part unit core detail addr restorable) := by
  unfold State.scrubbed
  split
  · exact h.gangError
  · exact h.errorRecord

theorem KeepsForm.mouldError (h : s.KeepsForm t) {l : List MouldEntry} {line part core : Nat} :
    s.KeepsForm (t.mouldError l line part core) := by
  unfold State.mouldError
  split
  · exact h.unreplayable.gangError
  · exact h.errorRecord

theorem KeepsForm.lmPoisoned (h : s.KeepsForm t) {c line : Nat} :
    s.KeepsForm (t.setCore c { t.core c with lmPoison := sparseSet false (t.core c).lmPoison line true }) :=
  h.setCore fun w => ⟨(h.core w).lm, sparseWf_sparseSet _ _ (h.core w).poison, (h.core w).imem, (h.core w).imemPoison⟩

theorem KeepsForm.imemPoisoned (h : s.KeepsForm t) {c line : Nat} :
    s.KeepsForm (t.setCore c { t.core c with imemPoison := sparseSet false (t.core c).imemPoison line true }) :=
  h.setCore fun w => ⟨(h.core w).lm, (h.core w).poison, (h.core w).imem, sparseWf_sparseSet _ _ (h.core w).imemPoison⟩

theorem KeepsForm.qsPoisoned (h : s.KeepsForm t) {q line : Nat} :
    s.KeepsForm (t.setQuad q { t.quad q with qsPoison := sparseSet false (t.quad q).qsPoison line true }) :=
  h.setQuad fun w => ⟨(h.quad w).qs, sparseWf_sparseSet _ _ (h.quad w).poison⟩

theorem KeepsForm.execScrubLine (h : s.KeepsForm t) {space inst line : Nat} {uncorrectable : Bool} :
    s.NextKeeps (Machine.execScrubLine space inst line uncorrectable t) := by
  have hs (die : Nat) : s.KeepsForm (if space = 7 then t else t.scrubCount die uncorrectable) :=
    .ite (fun _ => h) (fun _ => h.scrubCount)
  unfold Machine.execScrubLine
  extract_lets die s1 part
  have h1 : s.KeepsForm s1 := hs die
  refine .ite (fun _ => .next h1) (fun _ => ?_)
  clear_value s1
  split
  · split
    · exact .next h1.poisonLine.errorRecord
    · exact .next h1.poisonLine.scrubbed
  · exact .next h1.lmPoisoned.scrubbed
  · exact .next h1.qsPoisoned.scrubbed
  · exact .next (KeepsForm.scrubbed h1.touchCore)
  · exact .next h1.mouldError
  · exact .next h1.mouldError
  · split
    · have hc (x : McLine) : s.KeepsForm (if x.dirty then { s1 with memPoison := sparseSet false s1.memPoison line true }
          else s1.setDie inst { s1.die inst with mcache := tableSet (s1.die inst).mcache line { x with bad := true } }) :=
        .ite (fun _ => h1.poisonLine) (fun _ => h1.setDie)
      rcases s1.lineOwner part 6 line with _ | ⟨own, d, b⟩
      · exact .next (hc _).errorRecord
      · exact .next (hc _).scrubbed
    · exact .next h1.errorRecord
  · exact .ite (fun _ => .next h1.draw.imemPoisoned.errorRecord.machineCheck) (fun _ => .next h1)
  · exact .next h1

theorem KeepsForm.execRetentionExit (h : s.KeepsForm t) {quad : Nat} {lost : Bool} :
    s.NextKeeps (execRetentionExit quad lost t) := .ite (fun _ => .next h) (fun _ => .next (h.foldl fun _ _ hu => hu.takeTrap))

theorem KeepsForm.rehome (h : s.KeepsForm t) : s.KeepsForm t.rehome := by
  unfold State.rehome
  refine h.foldl fun u x hu => ?_
  dsimp only
  split
  · exact hu
  · exact .ite (fun _ => hu) (fun _ => hu.touchQuad.touchQuad)

theorem KeepsForm.evacuationError (h : s.KeepsForm t) {gid n : Nat} : s.KeepsForm (t.evacuationError gid n) := by
  unfold State.evacuationError
  dsimp only
  split
  · exact h
  refine .ite (fun _ => h.foldl fun _ _ hu => hu.gangError) (fun _ => ?_)
  refine .ite (fun _ => (h.foldl fun _ _ hu => hu.gangError).touchGang) (fun _ => ?_)
  exact (h.foldl fun _ _ hu => hu.gangError).touchGang.requestEnd

theorem KeepsForm.unsaved (h : s.KeepsForm t) {aid : Nat} : s.KeepsForm (t.unsaved aid) :=
  .ite (fun _ => h.touchAct) (fun _ => h.touchAct.requestEnd)

theorem KeepsForm.dropDie (h : s.KeepsForm t) {die : Nat} : s.KeepsForm (t.dropDie die) := by
  unfold State.dropDie
  extract_lets s1 s2 s3 s4 d s5 s6
  have h2 : s.KeepsForm s2 := KeepsForm.withdrawAll (h.foldl fun _ _ hu => hu.evacuationError)
  have h3 : s.KeepsForm s3 := by
    refine h2.foldl fun u a hu => .ite (fun _ => hu) (fun _ => ?_)
    split
    · next e => exact hu.saveContext _ e
    · exact hu.unsaved
  have h4 : s.KeepsForm s4 := by
    refine h3.foldl fun u x hu => ?_
    dsimp only
    split
    · exact hu
    · next e =>
      have hv := hu.swapOut _ e
      split
      · exact hv.touchGang
      · exact hv
  have h5 : s.KeepsForm s5 := h4.setDie
  have h6 : s.KeepsForm s6 := h5.foldl fun u c hu => .ite (fun _ => hu.moveMeeting.touchCore) (fun _ => hu)
  exact h6.rehome

theorem KeepsForm.execDieDrop (h : s.KeepsForm t) {die : Nat} : s.NextKeeps (execDieDrop die t) :=
  .ite (fun _ => .next h) (fun _ => .next h.dropDie)

theorem KeepsForm.execLinkDown (h : s.KeepsForm t) {link : Nat} :
    s.NextKeeps (Machine.execLinkDown link t) := by
  unfold Machine.execLinkDown
  refine .ite (fun _ => .next h) (fun _ => .ite (fun _ => .next (.ite (fun _ => h.setLink) (fun _ => h.setLink.dropDie)))
    (fun _ => .next (h.setLink.foldl fun u x hu => ?_)))
  split
  · next e => exact .ite (fun _ => (hu.nextFault e).faultChan.settleWaits) (fun _ => hu)
  · exact hu

theorem KeepsForm.execCrossAlarm (h : s.KeepsForm t) {core : Nat} {code : BitVec 16} :
    s.NextKeeps (execCrossAlarm core code t) := .ite (fun _ => .next h.crossAlarm) (fun _ => .next h)

/-! ## Machine/EvDebug -/

theorem KeepsForm.execQuadHalt (h : s.KeepsForm t) {quad : Nat} : s.NextKeeps (execQuadHalt quad t) :=
  .ite (fun _ => .next h) (fun _ => .next h.touchQuad.haltQuad)

theorem KeepsForm.haltContext (h : s.KeepsForm t) {aid : Nat} : s.KeepsForm (t.haltContext aid) := by
  unfold State.haltContext
  refine .ite (fun _ => h) (fun _ => ?_)
  exact (KeepsForm.ite (fun _ => h.settle.backOut.writeSave.getD h.settle.backOut) (fun _ => h.settle.backOut)).touchAct

theorem KeepsForm.execQuadHalted (h : s.KeepsForm t) {quad : Nat} : s.NextKeeps (execQuadHalted quad t) :=
  .ite (fun _ => .next h) (fun _ => .next ((h.withdrawAll.foldl fun _ _ hu => hu.haltContext).aside.touchQuad))

theorem KeepsForm.resumeQuad (h : s.KeepsForm t) {quad : Nat} : s.KeepsForm (t.resumeQuad quad) :=
  h.touchQuad.foldl fun _ _ hu => KeepsForm.ite (fun _ => hu.touchAct.replaySlots) (fun _ => hu)

theorem KeepsForm.execQuadResume (h : s.KeepsForm t) {quad : Nat} : s.NextKeeps (execQuadResume quad t) :=
  .ite (fun _ => .next h) (fun _ => .next h.resumeQuad)

/-- A register, the poison of one, or another field of a context, as a debugger writes it. -/
theorem KeepsForm.debugReg (h : s.KeepsForm t) {aid : Nat} {bank : Bool} {w : RegWrite} :
    s.KeepsForm (t.setAct aid ((t.act aid).putIn bank w)) := h.setAct fun k => Act.putIn_wf _ _ (h.act k)

theorem KeepsForm.debugPoison (h : s.KeepsForm t) {aid : Nat} {r : RegName} {on : Bool} :
    s.KeepsForm ((t.debugPoison (t.act aid) r on).2.setAct aid (t.debugPoison (t.act aid) r on).1) := by
  refine h.draw.setAct fun w => ?_
  have ha := h.act w (a := aid)
  exact .ite ⟨ha.regs, ha.bank.withPoison, ha.s0, ha.p0⟩ ⟨ha.regs.withPoison, ha.bank, ha.s0, ha.p0⟩

theorem KeepsForm.debugPut (h : s.KeepsForm t) {aid : Nat} {i : DebugItem} : s.KeepsForm (t.debugPut aid i) := by
  unfold State.debugPut
  cases i with
  | scalar n x => exact h.debugReg
  | vector n d t b => exact .ite (fun _ => h.debugReg) (fun _ => h)
  | mask n x => exact h.debugReg
  | branch n x => exact h.debugReg
  | cap n b v => exact h.debugReg
  | poison f n v => exact h.debugPoison
  | queue newer x => exact h.setAct fun w => .ite (h.act w).of_eq (h.act w).of_eq
  | asw x =>
    have ha : s.KeepsForm (t.setAct aid { t.act aid with asw := debugAsw (t.act aid).asw x }) := h.touchAct
    exact .ite (fun _ => ha) (fun _ => ha.aside)
  | matrix w x =>
    refine h.setAct fun k => ?_
    exact .ite (h.act k).of_eq (.ite (h.act k).of_eq (h.act k).of_eq)
  | tileElement t row col x =>
    dsimp only
    split
    · exact h
    · exact h.setTile
  | tileTag t i32 =>
    dsimp only
    split
    · exact h
    · exact h.setTile
  | replay t w x => exact .ite (fun _ => h) (fun _ => h.touchAct)
  | localByte o x =>
    dsimp only
    split
    · exact h
    · exact h.setCore fun w =>
        ⟨sparseWf_sparseSet _ _ (h.core w).lm, (h.core w).poison, (h.core w).imem, (h.core w).imemPoison⟩
  | quadByte o x =>
    exact .ite (fun _ => h.setQuad fun w => ⟨sparseWf_sparseSet _ _ (h.quad w).qs, (h.quad w).poison⟩) (fun _ => h)
  | _ => exact h.touchAct

theorem KeepsForm.execDebugStateWrite (h : s.KeepsForm t) {act : Nat} {item : DebugItem} :
    s.NextKeeps (execDebugStateWrite act item t) := .ite (fun _ => .next h.debugPut) (fun _ => .next h)

theorem KeepsForm.execSampleBufferSetup (h : s.KeepsForm t) {part : Nat} {len : Bool} {value : BitVec 64} :
    s.NextKeeps (execSampleBufferSetup part len value t) := .next h.setPart

theorem KeepsForm.execSbptrWrite (h : s.KeepsForm t) {part : Nat} {value : BitVec 64} :
    s.NextKeeps (execSbptrWrite part value t) := .next h.setPart

theorem KeepsForm.execProofArm (h : s.KeepsForm t) {part : Nat} {value : BitVec 64} :
    s.NextKeeps (execProofArm part value t) := .next h.setPart

theorem KeepsForm.takeProof (h : s.KeepsForm t) {part x : Nat} : s.KeepsForm (t.takeProof part x) :=
  h.setPart.foldl fun _ _ hu => hu.record

theorem KeepsForm.execProofSnapshot (h : s.KeepsForm t) {part : Nat} : s.NextKeeps (execProofSnapshot part t) := by
  unfold Machine.execProofSnapshot
  split
  · exact .ite (fun _ => .next h.takeProof) (fun _ => .next h)
  · exact .next h

/-! ## Machine/EvPower -/

theorem KeepsForm.execDvreq (h : s.KeepsForm t) {die : Nat} {value : BitVec 64} : s.NextKeeps (execDvreq die value t) :=
  .ite (fun _ => .next h) (fun _ => .ite (fun _ => .next h.setDie) (fun _ => .next h.setDie))

theorem KeepsForm.execClockSwitch (h : s.KeepsForm t) {die : Nat} : s.NextKeeps (execClockSwitch die t) := by
  unfold Machine.execClockSwitch
  dsimp only
  split
  · exact .next h
  · exact .next h.setDie

theorem KeepsForm.execDvfsPauseEnd (h : s.KeepsForm t) {die : Nat} : s.NextKeeps (execDvfsPauseEnd die t) := by
  unfold Machine.execDvfsPauseEnd
  dsimp only
  split
  · exact .next h
  · exact .ite (fun _ => .next h) (fun _ => .next h.setDie)

theorem KeepsForm.execArrayGate (h : s.KeepsForm t) {quad bank : Nat} : s.NextKeeps (execArrayGate quad bank t) := by
  unfold Machine.execArrayGate
  refine .ite (fun _ => .next h) (fun _ => ?_)
  refine .ite (fun _ => .next (KeepsForm.ite (fun _ => h) (fun _ => h.setDie))) (fun _ => ?_)
  exact .ite (fun _ => .next h) (fun _ => .next h.touchQuad)

theorem KeepsForm.execArrayWake (h : s.KeepsForm t) {quad bank : Nat} :
    s.NextKeeps (Machine.execArrayWake quad bank t) := by
  have hd : s.KeepsForm { t with draws := t.draws + 1 } := h.aside
  unfold Machine.execArrayWake
  refine .ite (fun _ => .next (.ite (fun _ => hd.setDie) (fun _ => h))) (fun _ => .ite (fun _ => .next ?_) (fun _ => .next h))
  exact h.wakes.setQuad fun w => ⟨sparseWf_filter _ (h.quad w).qs, sparseWf_filter _ (h.quad w).poison⟩

theorem KeepsForm.saveAll (h : s.KeepsForm t) : s.KeepsForm t.saveAll := h.foldl fun _ _ hu => hu.swapOut.getD hu

theorem KeepsForm.execThermalWarning (h : s.KeepsForm t) {die : Nat} : s.NextKeeps (execThermalWarning die t) :=
  .ite (fun _ => .next h) (fun _ => .next ((KeepsForm.ite (fun _ => h.saveAll) (fun _ => h)).aside))

theorem KeepsForm.writeBack (h : s.KeepsForm t) : s.KeepsForm t.writeBack := (h.foldl fun _ _ hu => hu.portTurn).aside

theorem KeepsForm.execEmergencySaveCommit (h : s.KeepsForm t) : s.NextKeeps (execEmergencySaveCommit t) :=
  .ite (fun _ => .next h) (fun _ => .ite (fun _ => .next h) (fun _ => .next h.saveAll.writeBack.aside))

theorem KeepsForm.loseCopies (h : s.KeepsForm t) : s.KeepsForm t.loseCopies :=
  h.foldl fun _ _ hu => KeepsForm.memPut hu.aside

theorem KeepsForm.powerCut (h : s.KeepsForm t) : s.KeepsForm t.powerCut := by
  unfold State.powerCut
  extract_lets gone s1 s2 s3
  have h1 : s.KeepsForm s1 := h.loseCopies
  have h2 : s.KeepsForm s2 := ⟨fun w => (h1.mem w).of_eq rfl rfl rfl, fun w =>
    ⟨fun x hx => (h1.units w).cores x (List.mem_filter.mp hx).1, (h1.units w).quads,
      fun x hx => (h1.units w).acts x (List.mem_filter.mp hx).1, (h1.units w).snaps⟩⟩
  have h3 : s.KeepsForm s3 := h2.mapQuads fun _ _ => ⟨rfl, rfl⟩
  exact h3.aside

theorem KeepsForm.execThermalTrip (h : s.KeepsForm t) {die : Nat} : s.NextKeeps (execThermalTrip die t) :=
  .ite (fun _ => .next h) (fun _ => .next h.powerCut.aside)

theorem KeepsForm.execTriprecClear (h : s.KeepsForm t) {value : BitVec 64} : s.NextKeeps (execTriprecClear value t) :=
  .next (KeepsForm.ite (fun _ => h.aside) (fun _ => h))

theorem KeepsForm.restoreAll (h : s.KeepsForm t) : s.KeepsForm t.restoreAll := by
  refine h.foldl fun u x hu => hu.foldl fun v c hv => .ite (fun _ => ?_) (fun _ => hv)
  split
  · exact hv.swapIn
  · exact hv

theorem KeepsForm.execTemperatureFalls (h : s.KeepsForm t) {die : Nat} : s.NextKeeps (execTemperatureFalls die t) :=
  .ite (fun _ => .next h.aside.restoreAll) (fun _ => .next h)

theorem KeepsForm.execPartmapWrite (h : s.KeepsForm t) {value : BitVec 64} : s.NextKeeps (execPartmapWrite value t) :=
  .next (KeepsForm.ite (fun _ => h.aside) (fun _ => h))

theorem KeepsForm.endAtReset (h : s.KeepsForm t) {gid : Nat} {lost : Bool} :
    s.KeepsForm (t.endAtReset gid lost) := by
  have hg {v : State} (hv : s.KeepsForm v) : s.KeepsForm (v.setGang gid { v.gang gid with
      stage := .ended, crews := [], faultPend := none, endPend := none }) := hv.touchGang
  unfold State.endAtReset
  exact .ite (fun _ => (hg h.faultRecord.jaccept.clearGang.dropWait.gangStatus.dropRecord).raiseHost)
    (fun _ => hg h.faultRecord.jaccept.clearGang.dropWait.gangStatus.dropRecord)

/-- What a package reset leaves is in form, since what lasts over it is (R338, R354). -/
theorem KeepsForm.execPackageReset (h : s.KeepsForm t) : s.NextKeeps (execPackageReset t) := by
  intro u e
  unfold Machine.execPackageReset at e
  extract_lets commit same s1 s2 kept s3 s4 at e
  have h1 : s.KeepsForm s1 := .ite (fun _ => h) (fun _ => h.foldl fun _ _ hu => .ite (fun _ => hu.endAtReset) (fun _ => hu))
  have h2 : s.KeepsForm s2 := h1.writeRecords
  have hk : s.KeepsForm kept := h2.powerCut
  cases e
  have hc (w : s.UnitsWf) (n : Nat) : ({ imem := (s2.core n).imem } : Core).MemWf := ⟨rfl, rfl, (h2.core w).imem, rfl⟩
  refine ⟨fun w => ⟨(hk.mem w).mem, (h2.mem w).tags, (h2.mem w).poison⟩,
    fun w => ⟨?_, List.forall_mem_nil _, ?_, ?_⟩⟩
  · exact List.forall_mem_cons.mpr ⟨hc w _, List.forall_mem_singleton.mpr (hc w _)⟩
  · change ∀ x ∈ (if (commit && same) = true then _ else _), _
    split
    · exact fun x hx => (hk.units w).acts x (List.mem_filter.mp hx).1
    · exact List.forall_mem_nil _
  · change ∀ x ∈ (if same = true then _ else _), _
    split
    · exact List.forall_mem_map.mpr fun x hx => (h2.units w).snaps x hx
    · exact List.forall_mem_nil _

theorem KeepsForm.resetGangs (h : s.KeepsForm t) {part : Nat} {lost : Bool} : s.KeepsForm (t.resetGangs part lost) :=
  h.foldl fun _ _ hu => .ite (fun _ => hu) (fun _ => .ite (fun _ => hu.touchGang) (fun _ => hu.endAtReset))

theorem KeepsForm.prepareStandby (h : s.KeepsForm t) {part : Nat} : s.KeepsForm (t.prepareStandby part) := by
  unfold State.prepareStandby
  dsimp only
  refine .ite (fun _ => h) (fun _ => KeepsForm.touchCore (KeepsForm.setAct h.take.filterActs fun _ => ?_))
  constructor <;> dsimp only
  · exact Regs.put_wf _ (Regs.put_wf _ Regs.default_wf)
  · exact Regs.default_wf
  · exact Regs.put_fixed _ _ (.inl rfl) (Regs.put_fixed _ _ (.inl rfl) rfl)
  · exact Regs.put_fixed _ _ (.inr rfl) (Regs.put_fixed _ _ (.inr rfl) rfl)

theorem KeepsForm.launchFirmware (h : s.KeepsForm t) {part n : Nat} : s.KeepsForm (t.launchFirmware part n) := by
  unfold State.launchFirmware
  exact h.newGang

/-- The plates and the caches of a partition, as a partition reset leaves them. -/
theorem KeepsForm.droppedPlates (h : s.KeepsForm t) {bad : List Nat} : s.KeepsForm (bad.foldl (fun (s : State) d =>
    s.setDie d { s.die d with plateGone := true, dropped := true }) t) := h.foldl fun _ _ hu => hu.setDie

theorem KeepsForm.emptiedCaches (h : s.KeepsForm t) {mine : List Nat} {dies : Table Die} : s.KeepsForm { t with
    cores := t.cores.map (fun (x : Nat × Core) =>
      if !isArmature x.1 && mine.contains (coreDie x.1) then (x.1, { x.2 with l1 := [], otc := [] }) else x)
    dies := dies } := by
  refine KeepsForm.aside (h.mapCoreTable fun x hx => ?_)
  split
  · exact hx.of_eq
  · exact hx

theorem KeepsForm.execPartitionReset (h : s.KeepsForm t) {part : Nat} :
    s.NextKeeps (Machine.execPartitionReset part t) :=
  .ite (fun _ => .next h) (fun _ => .next (KeepsForm.foldl
    h.resetGangs.droppedPlates.emptiedCaches.setPart.prepareStandby fun _ _ hu => hu.launchFirmware))

theorem KeepsForm.execAttestationRequest (h : s.KeepsForm t) {value : BitVec 64} :
    s.NextKeeps (execAttestationRequest value t) :=
  .ite (fun _ => .next h) (fun _ => .ite (fun _ => .next h.aside) (fun _ => .next h.aside))

theorem KeepsForm.execAttestationDone (h : s.KeepsForm t) : s.NextKeeps (execAttestationDone t) := by
  unfold Machine.execAttestationDone
  split
  · exact .next h
  · exact .next h.schedWrite.aside

theorem KeepsForm.execTamperAlarm (h : s.KeepsForm t) {source : BitVec 3} :
    s.NextKeeps (Machine.execTamperAlarm source t) := by
  unfold Machine.execTamperAlarm
  dsimp only
  refine .next ?_
  split
  · split
    · exact h.aside
    · exact h.aside
  · split
    · exact h.aside
    · exact h.aside

end Sys2Proof.Machine.State
end

section
/-! The management window, and events of device memory: each operation keeps the form. -/
namespace Sys2Proof.Machine.State
set_option Elab.async false
variable {s t u : State}

/-! ## Machine/Window -/

theorem KeepsForm.eventState (h : s.KeepsForm t) {o : Host.Outcome State Fault Refusal} (ho : s.NextKeeps o) :
    s.KeepsForm (Machine.eventState t o) := by
  cases o with
  | next u => exact ho u rfl
  | fault f => exact h
  | refused r => exact h

theorem KeepsForm.windowRead (h : s.KeepsForm t) {part off : Nat} : s.KeepsForm (t.windowRead part off).2 := h.aside

theorem KeepsForm.qdctlWrite (h : s.KeepsForm t) {q : Nat} {v : Word64} : s.KeepsForm (t.qdctlWrite q v) := by
  have hq : s.KeepsForm (t.setQuad q { t.quad q with qdctl := (v &&& 0xFFFFFFFF07C00006) ||| ((t.quad q).qdctl &&& 1) }) :=
    h.touchQuad
  exact .ite (fun _ => .ite (fun _ => hq) (fun _ => hq.eventState hq.execQuadHalt))
    (fun _ => hq.eventState hq.execQuadResume)

theorem KeepsForm.plainReg (h : s.KeepsForm t) {part off : Nat} {v : Word64} {firmware : Bool} :
    s.SomeKeeps (t.plainReg part off v firmware) := by
  unfold State.plainReg
  split
  · exact .some h.setQueue
  refine .ite (fun _ => .some (KeepsForm.ite (fun _ => h) (fun _ => h.setPart))) (fun _ => ?_)
  refine .ite (fun _ => .some h.touchQuad) (fun _ => ?_)
  refine .ite (fun _ => .some h.aside) (fun _ => ?_)
  refine .ite (fun _ => .ite (fun _ => .some h.setPart) (fun _ => .none)) (fun _ => ?_)
  refine .ite (fun _ => .some h.setPart) (fun _ => ?_)
  exact .ite (fun _ => .some (KeepsForm.ite (fun _ => h.aside) (fun _ => h))) (fun _ => .none)

theorem KeepsForm.windowWrite (h : s.KeepsForm t) {part off : Nat} {v : Word64} {host : Bool} :
    s.KeepsForm (t.windowWrite part off v host) := by
  unfold State.windowWrite
  split
  · next e => exact h.plainReg _ e
  refine .ite (fun _ => h.eventState h.execKicksetWrite) (fun _ => ?_)
  refine .ite (fun _ => .ite (fun _ => h) (fun _ => h.eventState h.execKickclrWrite)) (fun _ => ?_)
  refine .ite (fun _ => h.eventState h.execLqbaseWrite) (fun _ => ?_)
  refine .ite (fun _ => h.eventState h.execPgenrWrite) (fun _ => ?_)
  refine .ite (fun _ => h.qdctlWrite) (fun _ => ?_)
  refine .ite (fun _ => .ite (fun _ => h) (fun _ => h.eventState h.execDvreq)) (fun _ => ?_)
  split
  · exact .ite (fun _ => h) (fun _ => h.eventState h.execHostirqWrite)
  · exact h.eventState h.execSampleBufferSetup
  · exact h.eventState h.execSampleBufferSetup
  · exact h.eventState h.execSbptrWrite
  · exact h.eventState h.execProofArm
  · exact h.eventState h.execDrainWrite
  · exact h.eventState h.execPartmapWrite
  · exact .ite (fun _ => h.eventState h.execTriprecClear) (fun _ => h)
  · exact h.eventState h.execAttestationRequest
  · exact h

theorem KeepsForm.windowLoad (h : s.KeepsForm t) {part off n : Nat} : s.KeepsForm (t.windowLoad part off n).2 := by
  have reads (l : List Nat) {x : List Byte × State} (hx : s.KeepsForm x.2) :
      s.KeepsForm (l.foldl (fun (x : List Byte × State) a =>
        let (v, s) := x.2.windowRead part a
        (x.1 ++ wordBytes64 8 v, s)) x).2 := by
    induction l generalizing x with
    | nil => exact hx
    | cons a l ih => exact ih (hx.windowRead (part := part) (off := a))
  exact reads _ h

theorem KeepsForm.windowStore (h : s.KeepsForm t) {part off : Nat} {bs : List Byte} {mask : List Bool} :
    s.KeepsForm (t.windowStore part off bs mask) := h.foldl fun _ _ hu => KeepsForm.ite (fun _ => hu.windowWrite) (fun _ => hu)

theorem KeepsForm.execRegisterWrite (h : s.KeepsForm t) {part reg : Nat} {value : BitVec 64} :
    s.NextKeeps (Machine.execRegisterWrite part reg value t) := by
  refine .ite (fun _ => .next h.setPart) (fun _ => .ite (fun _ => .next h.setPart)
    (fun _ => .ite (fun _ => .next h.setPart) (fun _ => ?_)))
  split
  · next e => exact .next (h.plainReg _ e)
  · exact .next h.windowWrite

/-! ## Machine/EvMem -/

theorem KeepsForm.performWindow (h : s.KeepsForm t) {rid : Nat} {r : Req} : s.KeepsForm (t.performWindow rid r) := by
  have h1 := h.windowLoad (part := r.part) (off := r.offset) (n := r.bytes)
  unfold State.performWindow
  dsimp only
  split
  · exact h.windowStore.reply
  · exact h.windowStore.reply
  · exact KeepsForm.reply (.ite (fun _ => h1) (fun _ => h1.windowStore))
  · exact .ite (fun _ => h1.reply) (fun _ => h1.aside)
  · exact h1.reply

theorem KeepsForm.execHomePortAccess (h : s.KeepsForm t) {req : Nat} : s.NextKeeps (Machine.execHomePortAccess req t) := by
  unfold Machine.execHomePortAccess
  split
  · exact .next h
  · refine .ite (fun _ => .next h) (fun _ => .next (KeepsForm.dropDone ?_))
    exact .ite (fun _ => h.performWindow) (fun _ => h.performMem)

theorem KeepsForm.endReq (h : s.KeepsForm t) {rid oid : Nat} {o : Op} {ws : List RegWrite} :
    s.KeepsForm (t.endReq rid oid o ws) := h.aside.clearTag

theorem KeepsForm.imageLine (h : s.KeepsForm t) {rid : Nat} {r : Req} {rep : Reply} {line : Nat} {o : Op} :
    s.KeepsForm (t.imageLine rid r rep line o) := by
  unfold State.imageLine
  split
  · split
    · exact h.aside.aside.matTrap
    · exact h.aside.aside
  · exact h.aside

theorem KeepsForm.execDeviceLoadReturn (h : s.KeepsForm t) {req : Nat} :
    s.NextKeeps (Machine.execDeviceLoadReturn req t) := by
  unfold Machine.execDeviceLoadReturn
  split
  · exact .next h
  rename_i r hr
  split
  · refine .ite (fun _ => .next h) (fun _ => ?_)
    cases r.kind with
    | load sx => exact .next h.endReq
    | vload tag bw => exact .next h.endReq
    | cload => exact .next h.endReq
    | tileLine line => exact .next h.imageLine
    | _ => exact .next h
  · exact .next h

theorem KeepsForm.rearrive (h : s.KeepsForm t) {rid : Nat} : s.KeepsForm (t.rearrive rid) := by
  unfold State.rearrive
  split
  · exact h.aside.aside
  · exact h

theorem KeepsForm.accept (h : s.KeepsForm t) {rid : Nat} {r : Req} : s.KeepsForm (t.accept rid r) :=
  .ite (fun _ => h.aside.aside.foldl fun _ _ hu => hu.rearrive) (fun _ => h.aside.aside)

theorem KeepsForm.execStoreAccepted (h : s.KeepsForm t) {req : Nat} : s.NextKeeps (execStoreAccepted req t) := by
  unfold Machine.execStoreAccepted
  split
  · exact .next h
  split
  · exact .next h
  dsimp only
  split
  · exact .next h.accept.dropDone
  · exact .ite (fun _ => .next h.accept.dropDone) (fun _ => .next h.accept.dropDone.boundOf.clearTag)

theorem KeepsForm.execAtomicReply (h : s.KeepsForm t) {req : Nat} : s.NextKeeps (execAtomicReply req t) := by
  unfold Machine.execAtomicReply
  split
  · exact .next h
  split
  · exact .ite (fun _ => .next h.endReq) (fun _ => .next h)
  · exact .next h

theorem KeepsForm.execWaitmemSatisfied (h : s.KeepsForm t) {req : Nat} : s.NextKeeps (execWaitmemSatisfied req t) := by
  unfold Machine.execWaitmemSatisfied
  split
  · exact .next h
  split
  · exact .ite (fun _ => .next h) (fun _ => .next h.endReq)
  · exact .next h

theorem KeepsForm.execReductionMergeApply (h : s.KeepsForm t) {line : Nat} : s.NextKeeps (execReductionMergeApply line t) :=
  .next h.applyLine

theorem KeepsForm.execReleaseWaitDone (h : s.KeepsForm t) {act : Nat} : s.NextKeeps (execReleaseWaitDone act t) := by
  unfold Machine.execReleaseWaitDone
  dsimp only
  split
  · exact .next ((KeepsForm.ite (fun _ => h.touchAct) (fun _ => h)).clearTag)
  · exact .next (KeepsForm.ite (fun _ => h.touchAct) (fun _ => h))

theorem KeepsForm.execL1LineExpiry (h : s.KeepsForm t) {core line : Nat} : s.NextKeeps (execL1LineExpiry core line t) := by
  unfold Machine.execL1LineExpiry
  split
  · exact .next h.l1Drop
  · exact .next h

theorem KeepsForm.endWalk (h : s.KeepsForm t) {w : WalkReq} : s.KeepsForm (t.endWalk w) := by
  unfold State.endWalk
  split
  · dsimp only
    split
    · exact h.aside.touchAct.touchCore
    · exact h.aside.touchAct.raise
  · dsimp only
    split
    · exact h.aside.touchCore
    · exact h.aside.faultChan.settleWaits
    · exact h.aside
  dsimp only
  split
  · exact h.aside.lineAhead
  · exact h.aside

theorem KeepsForm.execTranslationWalk (h : s.KeepsForm t) {act : Nat} : s.NextKeeps (execTranslationWalk act t) := by
  unfold Machine.execTranslationWalk
  split
  · exact .next h
  · exact .next (h.foldl fun _ _ hu => hu.endWalk)

theorem KeepsForm.execOtinvWrite (h : s.KeepsForm t) {act : Nat} {value : BitVec 64} :
    s.NextKeeps (execOtinvWrite act value t) := .ite (fun _ => .next h) (fun _ => .next h.otinvPut)

theorem KeepsForm.dropOtc (h : s.KeepsForm t) {part : Nat} {f : Nat → Nat → Bool} : s.KeepsForm (t.dropOtc part f) := by
  refine h.mapCoreTable fun x hx => ?_
  split
  · exact hx.of_eq
  · exact hx

theorem KeepsForm.execInvalidationComplete (h : s.KeepsForm t) {part : Nat} :
    s.NextKeeps (execInvalidationComplete part t) := by
  unfold Machine.execInvalidationComplete
  split
  · exact .next h
  · exact .ite (fun _ => .next h.dropOtc) (fun _ => .next h.dropOtc.setPart)

theorem KeepsForm.execMigreqWrite (h : s.KeepsForm t) {act : Nat} {value : BitVec 64} :
    s.NextKeeps (execMigreqWrite act value t) := .ite (fun _ => .next h.migRequest) (fun _ => .next h)

/-- A migrated line's bytes arrive as a write, its tags and poison in canonical form. -/
theorem KeepsForm.moveLine (h : s.KeepsForm t) {m : Migration} {line : Nat} : s.KeepsForm (t.moveLine m line) := by
  have hm := h.memPut (a := 64 * (m.newFrame / 64 + (line - m.oldFrame / 64))) (bs := t.memRead (64 * line) 64)
  exact (hm.mcRefetch (a := 64 * (m.newFrame / 64 + (line - m.oldFrame / 64))) (n := 64)).withMemory fun w =>
    ⟨w.mem, Marks.wf_foldl _ _ _ w.tags, sparseWf_sparseSet _ _ w.poison⟩

theorem KeepsForm.execMigrationRound (h : s.KeepsForm t) {act : Nat} : s.NextKeeps (execMigrationRound act t) := by
  unfold Machine.execMigrationRound
  dsimp only
  split
  · exact .next h
  · exact .ite (fun _ => .next h) (fun _ => .next ((h.foldl fun _ _ hu => hu.moveLine).touchAct))

theorem KeepsForm.shiftFrame (h : s.KeepsForm t) {part : Nat} {m : Migration} : s.KeepsForm (t.shiftFrame part m) := h.aside

theorem KeepsForm.l1Forget (h : s.KeepsForm t) {frame size : Nat} : s.KeepsForm (t.l1Forget frame size) :=
  h.mapCoreTable fun _ hx => hx.of_eq

theorem KeepsForm.execMigrationFreeze (h : s.KeepsForm t) {act : Nat} : s.NextKeeps (execMigrationFreeze act t) := by
  unfold Machine.execMigrationFreeze
  dsimp only
  split
  · exact .next h
  refine .ite (fun _ => .next h) (fun _ => ?_)
  exact .next (((((((h.performQueued.foldl fun _ _ hu => KeepsForm.ite (fun _ => hu.applyLine) (fun _ => hu)).foldl
    fun _ _ hu => hu.moveLine).schedWrite).dropOtc).shiftFrame).l1Forget).touchAct)

end Sys2Proof.Machine.State
end

section
/-! Execution, the moves of the machine, and its step: each operation keeps the form. -/
namespace Sys2Proof.Machine.State
set_option Elab.async false
variable {s t u : State}

/-! ## Machine/Dispatch -/

/-- Every word and every device event keeps the form. -/
theorem KeepsForm.exec (h : s.KeepsForm t) {i : Instr} : s.NextKeeps (Machine.exec i t) := by
  cases i with
  | add => exact h.execAdd
  | sub => exact h.execSub
  | addi => exact h.execAddi
  | mul => exact h.execMul
  | mulh => exact h.execMulh
  | mulhu => exact h.execMulhu
  | div => exact h.execDiv
  | divu => exact h.execDivu
  | rem => exact h.execRem
  | remu => exact h.execRemu
  | and => exact h.execAnd
  | or => exact h.execOr
  | xor => exact h.execXor
  | andi => exact h.execAndi
  | ori => exact h.execOri
  | xori => exact h.execXori
  | sll => exact h.execSll
  | srl => exact h.execSrl
  | sra => exact h.execSra
  | slli => exact h.execSlli
  | srli => exact h.execSrli
  | srai => exact h.execSrai
  | min => exact h.execMin
  | max => exact h.execMax
  | minu => exact h.execMinu
  | maxu => exact h.execMaxu
  | clz => exact h.execClz
  | popc => exact h.execPopc
  | bfx => exact h.execBfx
  | bfi => exact h.execBfi
  | li => exact h.execLi
  | lih => exact h.execLih
  | cmp => exact h.execCmp
  | cmpi => exact h.execCmpi
  | plog => exact h.execPlog
  | pmov => exact h.execPmov
  | sel => exact h.execSel
  | tgt => exact h.execTgt
  | tgtr => exact h.execTgtr
  | movb => exact h.execMovb
  | lcset => exact h.execLcset
  | lkmov => exact h.execLkmov
  | nop => exact h.execNop
  | srd => exact h.execSrd
  | swr => exact h.execSwr
  | trap => exact h.execTrap
  | tret => exact h.execTret
  | exit => exact h.execExit
  | yield => exact h.execYield
  | time => exact h.execTime
  | ident => exact h.execIdent
  | wfi => exact h.execWfi
  | iflush => exact h.execIflush
  | brk => exact h.execBrk
  | srset => exact h.execSrset
  | srclr => exact h.execSrclr
  | deadmk => exact h.execDeadmk
  | liveq => exact h.execLiveq
  | chk => exact h.execChk
  | crc32c => exact h.execCrc32c
  | mchk => exact h.execMchk
  | xalm => exact h.execXalm
  | spdrd => exact h.execSpdrd
  | rand => exact h.execRand
  | ldl => exact h.execLdl
  | stl => exact h.execStl
  | ldq => exact h.execLdq
  | stq => exact h.execStq
  | ld => exact h.execLd
  | st => exact h.execSt
  | vldl => exact h.execVldl
  | vstl => exact h.execVstl
  | vldq => exact h.execVldq
  | vstq => exact h.execVstq
  | vld => exact h.execVld
  | vst => exact h.execVst
  | vgathl => exact h.execVgathl
  | vscatl => exact h.execVscatl
  | aadd => exact h.execAadd
  | alog => exact h.execAlog
  | amnx => exact h.execAmnx
  | aswp => exact h.execAswp
  | acas => exact h.execAcas
  | afadd => exact h.execAfadd
  | waitmem => exact h.execWaitmem
  | fence => exact h.execFence
  | cld => exact h.execCld
  | cst => exact h.execCst
  | cnarrow => exact h.execCnarrow
  | cget => exact h.execCget
  | csetc => exact h.execCsetc
  | pfetch => exact h.execPfetch
  | cinv => exact h.execCinv
  | signal => exact h.execSignal
  | zerol => exact h.execZerol
  | movk => exact h.execMovk
  | vadd => exact h.execVadd
  | vsub => exact h.execVsub
  | vmul => exact h.execVmul
  | vfma => exact h.execVfma
  | vfms => exact h.execVfms
  | vmin => exact h.execVmin
  | vmax => exact h.execVmax
  | vabs => exact h.execVabs
  | vneg => exact h.execVneg
  | vrcp => exact h.execVrcp
  | vrsq => exact h.execVrsq
  | vexp2 => exact h.execVexp2
  | vlog2 => exact h.execVlog2
  | vand => exact h.execVand
  | vor => exact h.execVor
  | vxor => exact h.execVxor
  | vshl => exact h.execVshl
  | vshr => exact h.execVshr
  | vcmp => exact h.execVcmp
  | vsel => exact h.execVsel
  | vbcast => exact h.execVbcast
  | vextr => exact h.execVextr
  | vins => exact h.execVins
  | vperm => exact h.execVperm
  | vreduce => exact h.execVreduce
  | vcvt => exact h.execVcvt
  | vretag => exact h.execVretag
  | vplane => exact h.execVplane
  | vqscale => exact h.execVqscale
  | vbnd => exact h.execVbnd
  | vscan => exact h.execVscan
  | vmovp => exact h.execVmovp
  | mzero => exact h.execMzero
  | mma => exact h.execMma
  | mmat => exact h.execMmat
  | mmas => exact h.execMmas
  | mmast => exact h.execMmast
  | mlda => exact h.execMlda
  | msta => exact h.execMsta
  | mstq => exact h.execMstq
  | maddt => exact h.execMaddt
  | mscl => exact h.execMscl
  | mrowv => exact h.execMrowv
  | mvrow => exact h.execMvrow
  | mtrn => exact h.execMtrn
  | mredr => exact h.execMredr
  | mshape => exact h.execMshape
  | mfmt => exact h.execMfmt
  | pload => exact h.execPload
  | pset => exact h.execPset
  | pget => exact h.execPget
  | pcount => exact h.execPcount
  | pgen => exact h.execPgen
  | pinv => exact h.execPinv
  | cutset => exact h.execCutset
  | cut => exact h.execCut
  | cutb => exact h.execCutb
  | mstat => exact h.execMstat
  | mstage => exact h.execMstage
  | msave => exact h.execMsave
  | mrest => exact h.execMrest
  | mdot => exact h.execMdot
  | mbias => exact h.execMbias
  | mclamp => exact h.execMclamp
  | meet => exact h.execMeet
  | part => exact h.execPart
  | xreg => exact h.execXreg
  | xvreg => exact h.execXvreg
  | xlug => exact h.execXlug
  | meetq => exact h.execMeetq
  | bar => exact h.execBar
  | bara => exact h.execBara
  | barw => exact h.execBarw
  | sstep => exact h.execSstep
  | barred => exact h.execBarred
  | take => exact h.execTake
  | share => exact h.execShare
  | launch => exact h.execLaunch
  | cpy => exact h.execCpy
  | cpyt => exact h.execCpyt
  | cpyw => exact h.execCpyw
  | cpyg => exact h.execCpyg
  | cpys => exact h.execCpys
  | cpyp => exact h.execCpyp
  | cpyr => exact h.execCpyr
  | cpwait => exact h.execCpwait
  | cpstat => exact h.execCpstat
  | stgwait => exact h.execStgwait
  | stgrel => exact h.execStgrel
  | stgset => exact h.execStgset
  | evwait => exact h.execEvwait
  | evclr => exact h.execEvclr
  | mould => exact h.execMould
  | tmark => exact h.execTmark
  | cpcan => exact h.execCpcan
  | launchq => exact h.execLaunchq
  | fixedLatencyWriteback => exact h.execFixedLatencyWriteback
  | divideComplete => exact h.execDivideComplete
  | matrixUnitWordDone => exact h.execMatrixUnitWordDone
  | onQuadAccessDone => exact h.execOnQuadAccessDone
  | generatorCutterDone => exact h.execGeneratorCutterDone
  | contextSwitch => exact h.execContextSwitch
  | portResume => exact h.execPortResume
  | trapEntry => exact h.execTrapEntry
  | timerMatch => exact h.execTimerMatch
  | interruptTaken => exact h.execInterruptTaken
  | timecmpWrite => exact h.execTimecmpWrite
  | extpendWrite => exact h.execExtpendWrite
  | homePortAccess => exact h.execHomePortAccess
  | deviceLoadReturn => exact h.execDeviceLoadReturn
  | storeAccepted => exact h.execStoreAccepted
  | atomicReply => exact h.execAtomicReply
  | waitmemSatisfied => exact h.execWaitmemSatisfied
  | reductionMergeApply => exact h.execReductionMergeApply
  | releaseWaitDone => exact h.execReleaseWaitDone
  | l1LineExpiry => exact h.execL1LineExpiry
  | translationWalk => exact h.execTranslationWalk
  | otinvWrite => exact h.execOtinvWrite
  | invalidationComplete => exact h.execInvalidationComplete
  | migreqWrite => exact h.execMigreqWrite
  | migrationRound => exact h.execMigrationRound
  | migrationFreeze => exact h.execMigrationFreeze
  | kicksetWrite => exact h.execKicksetWrite
  | kickclrWrite => exact h.execKickclrWrite
  | hostirqWrite => exact h.execHostirqWrite
  | lqbaseWrite => exact h.execLqbaseWrite
  | kickScan => exact h.execKickScan
  | kickTake => exact h.execKickTake
  | journalEntryAccepted => exact h.execJournalEntryAccepted
  | launchSubmission => exact h.execLaunchSubmission
  | dependenceThreshold => exact h.execDependenceThreshold
  | crewDispatch => exact h.execCrewDispatch
  | preemption => exact h.execPreemption
  | stallSweep => exact h.execStallSweep
  | crewSwapIn =>
    rw [exec_crewSwapIn]
    exact h.execCrewSwapIn
  | cycleCheckExpiry => exact h.execCycleCheckExpiry
  | barrierWatchdogExpiry => exact h.execBarrierWatchdogExpiry
  | gangCompletion => exact h.execGangCompletion
  | takeServed => exact h.execTakeServed
  | shareServed => exact h.execShareServed
  | barrierArrival => exact h.execBarrierArrival
  | barrierComplete => exact h.execBarrierComplete
  | sstepComplete => exact h.execSstepComplete
  | barrierRelease => exact h.execBarrierRelease
  | podBarrierReport => exact h.execPodBarrierReport
  | meetArrival => exact h.execMeetArrival
  | meetingCoreChosen => exact h.execMeetingCoreChosen
  | meetLanded => exact h.execMeetLanded
  | partLanded => exact h.execPartLanded
  | meetTimeout => exact h.execMeetTimeout
  | meetWithdrawal => exact h.execMeetWithdrawal
  | copyLine => exact h.execCopyLine
  | transferComplete => exact h.execTransferComplete
  | copyFault => exact h.execCopyFault
  | peerSignal => exact h.execPeerSignal
  | linkRailFailure => exact h.execLinkRailFailure
  | linkFlitRetry => exact h.execLinkFlitRetry
  | linkDown => exact h.execLinkDown
  | superstepReplay => exact h.execSuperstepReplay
  | gangEnd => exact h.execGangEnd
  | scrubLine => exact h.execScrubLine
  | retentionExit => exact h.execRetentionExit
  | dieDrop => exact h.execDieDrop
  | crossAlarm => exact h.execCrossAlarm
  | drainWrite => exact h.execDrainWrite
  | pgenrWrite => exact h.execPgenrWrite
  | quadHalt => exact h.execQuadHalt
  | quadHalted => exact h.execQuadHalted
  | quadResume => exact h.execQuadResume
  | debugStateWrite => exact h.execDebugStateWrite
  | sampleBufferSetup => exact h.execSampleBufferSetup
  | proofArm => exact h.execProofArm
  | proofSnapshot => exact h.execProofSnapshot
  | dvreq => exact h.execDvreq
  | clockSwitch => exact h.execClockSwitch
  | dvfsPauseEnd => exact h.execDvfsPauseEnd
  | arrayGate => exact h.execArrayGate
  | arrayWake => exact h.execArrayWake
  | thermalWarning => exact h.execThermalWarning
  | emergencySaveCommit => exact h.execEmergencySaveCommit
  | thermalTrip => exact h.execThermalTrip
  | triprecClear => exact h.execTriprecClear
  | partmapWrite => exact h.execPartmapWrite
  | packageReset => exact h.execPackageReset
  | partitionReset => exact h.execPartitionReset
  | attestationRequest => exact h.execAttestationRequest
  | attestationDone => exact h.execAttestationDone
  | tamperAlarm => exact h.execTamperAlarm
  | registerWrite => exact h.execRegisterWrite
  | fixedTimeTagClear => exact h.execFixedTimeTagClear
  | machineCheckError => exact h.execMachineCheckError
  | temperatureFalls => exact h.execTemperatureFalls
  | sbptrWrite => exact h.execSbptrWrite

/-! ## Machine/Moves -/

theorem KeepsForm.issueWord (h : s.KeepsForm t) {c aid : Nat} : s.NextKeeps (issueWord c aid t) := by
  unfold Machine.issueWord
  dsimp only
  split
  · exact .next h.issueAnnulled
  split
  · exact .next h.blockOn
  split
  · exact .next h.fetchTouch.noteFetch.raise
  split
  · exact .next h.fetchTouch.raise
  · exact h.fetchTouch.exec

theorem KeepsForm.issueNext (h : s.KeepsForm t) {c aid : Nat} : s.NextKeeps (Machine.issueNext c aid t) := by
  have hi := h.issueWord (c := c) (aid := aid)
  unfold Machine.issueNext
  split
  · next e =>
    rw [e] at hi
    exact .ite (fun _ => h.openEpoch.issueWord) (fun _ => hi)
  · exact hi

theorem KeepsForm.portCycle (h : s.KeepsForm t) {c aid : Nat} : s.NextKeeps (portCycle c aid t) := by
  unfold Machine.portCycle
  split
  · dsimp only
    split
    · exact .next h.switchPort
    split
    · exact h.execTrapEntry
    split
    · exact h.execInterruptTaken
    split
    · exact .next h.idle
    split
    · exact .next h.switchPort
    split
    · exact h.issueNext
    · exact h.touchAct.issueNext
  dsimp only
  split
  · exact .next h.switchPort
  split
  · exact .next h.switchPort
  split
  · exact h.execInterruptTaken
  split
  · exact .next h.idle
  split
  · exact .next h.switchPort
  split
  · exact h.issueNext
  · exact h.touchAct.issueNext

theorem KeepsForm.coreCycle (h : s.KeepsForm t) : s.NextKeeps (coreCycle t) := by
  unfold Machine.coreCycle
  dsimp only
  split
  · exact .next h
  split
  · split
    · exact .ite (fun _ => .next h.passPort) (fun _ => .next h.idle)
    · exact .next h.idle
  split
  · exact h.portCycle
  split
  · exact .next h.passPort
  · exact .next h.switchPort
  · exact .next h.idle

theorem KeepsForm.releases (h : s.KeepsForm t) : s.KeepsForm t.releases :=
  h.foldl fun _ _ hu => .ite (fun _ => hu.foldl fun _ _ hv => hv.eventState hv.execBarrierRelease) (fun _ => hu)

theorem KeepsForm.dueEvents (h : s.KeepsForm t) : s.KeepsForm t.dueEvents := by
  unfold State.dueEvents
  extract_lets s1 s2 s3 s4 s5
  have h1 : s.KeepsForm s1 := h.foldl fun _ _ hu => hu.applyLine
  have h2 : s.KeepsForm s2 := h1.foldl fun _ _ hu => .ite (fun _ => hu.eventState hu.execMeetTimeout) (fun _ => hu)
  have h3 : s.KeepsForm s3 := by
    refine h2.foldl fun u x hu => ?_
    split
    · exact .ite (fun _ => hu.eventState hu.execClockSwitch) (fun _ => hu)
    · exact hu.eventState hu.execDvfsPauseEnd
    · exact hu
  have h4 : s.KeepsForm s4 := h3.foldl fun _ _ hu => hu.eventState hu.execKickScan
  have h5 : s.KeepsForm s5 := h4.foldl fun _ _ hu =>
    .ite (fun _ => hu.eventState hu.execSstepComplete) (fun _ => hu.eventState hu.execBarrierComplete)
  exact h5.releases

theorem KeepsForm.countTick (h : s.KeepsForm t) : s.KeepsForm t.countTick := h.aside

theorem KeepsForm.advanceTick (h : s.KeepsForm t) : s.KeepsForm t.advanceTick := by
  unfold State.advanceTick
  extract_lets s1 s2 s3 s4
  have h1 : s.KeepsForm s1 := KeepsForm.writeRecords (KeepsForm.countTick (.ite (fun _ => h.dueEvents) (fun _ => h)))
  have h2 : s.KeepsForm s2 := h1.mapActs fun x hx => .ite hx hx.of_eq
  have hw (n : Nat) (g : Gang) : (s2.watchGang n g).snap = g.snap := by
    unfold State.watchGang
    split
    · rfl
    split
    · rfl
    · rfl
  have h3 : s.KeepsForm s3 := by
    refine KeepsForm.aside (h2.withGangs (l := if s2.running then _ else _) fun w => ?_)
    split
    · exact List.forall_mem_map.mpr fun x hx => (hw x.1 x.2).symm ▸ (h2.units w).snaps x hx
    · exact (h2.units w).snaps
  have h4 : s.KeepsForm s4 := .ite (fun _ => h3.foldl fun _ _ hu => hu.eventState hu.execBarrierWatchdogExpiry) (fun _ => h3)
  exact .ite (fun _ => h4.foldl fun _ _ hu => hu.eventState hu.execProofSnapshot) (fun _ => h4)

theorem KeepsForm.prefetch (h : s.KeepsForm t) {c : Nat} : s.KeepsForm (t.prefetch c) := by
  unfold State.prefetch
  split
  · exact h
  dsimp only
  split
  · exact h
  split
  · exact h.touchAct
  · exact h

theorem KeepsForm.runMove (h : s.KeepsForm t) {m : Move} : s.NextKeeps (runMove m t) := by
  unfold Machine.runMove
  split
  · exact .next (KeepsForm.ite (fun _ => h.schedWrite) (fun _ => h))
  · exact .next h.advanceTick
  · exact h.aside.coreCycle
  · exact .next h.prefetch
  · exact .ite (fun _ => .next h) (fun _ => h.exec)

/-! ## Machine/Step -/

/-- A step keeps the form of every memory and of every unit (R11, R22). -/
theorem KeepsForm.step (h : s.KeepsForm t) : s.NextKeeps (Machine.step t) := by
  unfold Machine.step
  split
  · exact h.coreCycle
  · exact KeepsForm.runMove h.aside

end Sys2Proof.Machine.State
end

section
/-! Every step keeps the form. -/
namespace Sys2Proof.Machine

/-- Settles O45: whatever a step does keeps the form (`State.KeepsForm`). -/
theorem memoryFormKept : Obligations.MemoryFormKept := by
  unfold Obligations.MemoryFormKept
  exact ⟨fun s t w e => ((State.KeepsForm.refl s).step t e).mem w, fun s t w e => ((State.KeepsForm.refl s).step t e).units w⟩

end Sys2Proof.Machine
end

section
/-! What the next package reset is given: the partition map that is held for it and the count of resets. No work of the scheduler
and no write of a record changes them. -/
namespace Sys2Proof.Machine.State
set_option Elab.async false
variable {s t u : State}

/-- The next package reset applies the same partition map and counts the same number. -/
structure KeepsBoot (s t : State) : Prop where
  map : t.partmapNext = s.partmapNext
  resets : t.resets = s.resets

namespace KeepsBoot

theorem refl (s : State) : s.KeepsBoot s := ⟨rfl, rfl⟩

/-- An update of other fields. -/
theorem aside (h : s.KeepsBoot t) (e : (u.partmapNext, u.resets) = (t.partmapNext, t.resets) := by rfl) : s.KeepsBoot u := by
  obtain ⟨e1, e2⟩ := Prod.mk.inj e
  exact ⟨e1.trans h.map, e2.trans h.resets⟩

theorem ite {c : Prop} [Decidable c] (h : c → s.KeepsBoot t) (k : ¬c → s.KeepsBoot u) : s.KeepsBoot (if c then t else u) := by
  split
  · exact h ‹_›
  · exact k ‹_›

theorem foldl {β : Type} {l : List β} {f : State → β → State} (h : s.KeepsBoot t)
    (hf : ∀ u x, s.KeepsBoot u → s.KeepsBoot (f u x)) : s.KeepsBoot (l.foldl f t) := by
  induction l generalizing t with
  | nil => exact h
  | cons x l ih => exact ih (hf t x h)

theorem setAct (h : s.KeepsBoot t) {a : Nat} {x : Act} : s.KeepsBoot (t.setAct a x) := h.aside
theorem setCore (h : s.KeepsBoot t) {c : Nat} {x : Core} : s.KeepsBoot (t.setCore c x) := h.aside
theorem setQuad (h : s.KeepsBoot t) {q : Nat} {x : Quad} : s.KeepsBoot (t.setQuad q x) := h.aside
theorem setGang (h : s.KeepsBoot t) {g : Nat} {x : Gang} : s.KeepsBoot (t.setGang g x) := h.aside
theorem setDie (h : s.KeepsBoot t) {d : Nat} {x : Die} : s.KeepsBoot (t.setDie d x) := h.aside
theorem setPart (h : s.KeepsBoot t) {p : Nat} {x : Part} : s.KeepsBoot (t.setPart p x) := h.aside
theorem take (h : s.KeepsBoot t) : s.KeepsBoot t.take.2 := h.aside
theorem mapCores (h : s.KeepsBoot t) {f : Core → Core} : s.KeepsBoot (t.mapCores f) := h.aside
theorem mapQuads (h : s.KeepsBoot t) {f : Quad → Quad} : s.KeepsBoot (t.mapQuads f) := h.aside
theorem mapParts (h : s.KeepsBoot t) {f : Part → Part} : s.KeepsBoot (t.mapParts f) := h.aside

end KeepsBoot

theorem KeepsBoot.settle (h : s.KeepsBoot t) {c aid : Nat} : s.KeepsBoot (t.settle c aid) := h.setAct.setCore

theorem KeepsBoot.faultRecord (h : s.KeepsBoot t) {part : Nat} {body : List Word64} :
    s.KeepsBoot (t.faultRecord part body) := h.aside

theorem KeepsBoot.ringAppend (h : s.KeepsBoot t) {part : Nat} {body : List Word64} : s.KeepsBoot (t.ringAppend part body) :=
  h.aside.setPart

theorem KeepsBoot.badWrite (h : s.KeepsBoot t) {g core : Nat} : s.KeepsBoot (t.badWrite g core) :=
  .ite (fun _ => h.setGang) (fun _ => h)

theorem KeepsBoot.noteUncorr (h : s.KeepsBoot t) {g : Nat} {p : Poison} {restorable : Bool} :
    s.KeepsBoot (t.noteUncorr g p restorable) := h.setGang

theorem KeepsBoot.mcPut (h : s.KeepsBoot t) {line : Nat} {x : McLine} : s.KeepsBoot (t.mcPut line x) := by
  unfold State.mcPut
  split
  · exact h
  · exact .ite (fun _ => h) (fun _ => .ite (fun _ => h) (fun _ => .ite (fun _ => h.setDie) (fun _ => h.aside.setDie)))

theorem KeepsBoot.mcRead (h : s.KeepsBoot t) {line : Nat} : s.KeepsBoot (t.mcRead line) := by
  unfold State.mcRead
  split
  · exact h
  · exact h.mcPut

theorem KeepsBoot.mcWrite (h : s.KeepsBoot t) {line : Nat} {whole : Bool} : s.KeepsBoot (t.mcWrite line whole) :=
  (KeepsBoot.ite (fun _ => h.aside) (fun _ => h)).mcPut

theorem KeepsBoot.mcRefetch (h : s.KeepsBoot t) {a n : Nat} : s.KeepsBoot (t.mcRefetch a n) := by
  unfold State.mcRefetch
  refine h.foldl fun u x hu => ?_
  split
  · exact .ite (fun _ => hu.setDie) (fun _ => hu)
  · exact hu

theorem KeepsBoot.devLog (h : s.KeepsBoot t) {g core line : Nat} {gp : Bool} {owner : Nat} :
    s.KeepsBoot (t.devLog g core line gp owner) := by
  unfold State.devLog
  refine .ite (fun _ => h) (fun _ => ?_)
  exact .ite (fun _ => h.badWrite) (fun _ => .ite (fun _ => h) (fun _ => .ite (fun _ => h.badWrite) (fun _ => h.aside)))

theorem KeepsBoot.noteRead (h : s.KeepsBoot t) {r : Req} {p : Option Poison} : s.KeepsBoot (t.noteRead r p) := by
  unfold State.noteRead
  split
  · exact h.noteUncorr.mcRefetch
  · exact h

theorem KeepsBoot.answerWait (h : s.KeepsBoot t) {rid : Nat} {r : Req} : s.KeepsBoot (t.answerWait rid r) := by
  unfold State.answerWait
  split
  · exact h.aside.noteRead
  · exact h

theorem KeepsBoot.notifyWaits (h : s.KeepsBoot t) {a n : Nat} : s.KeepsBoot (t.notifyWaits a n) :=
  h.foldl fun _ _ hu => hu.answerWait

theorem KeepsBoot.notifyDeps (h : s.KeepsBoot t) {a n : Nat} : s.KeepsBoot (t.notifyDeps a n) := h.aside

theorem KeepsBoot.markDirty (h : s.KeepsBoot t) {a n : Nat} : s.KeepsBoot (t.markDirty a n) := h.aside

theorem KeepsBoot.homeWrite (h : s.KeepsBoot t) {g : Option (Nat × Nat)} {a : Nat} {bs : List Byte} {mask : List Bool}
    {whole tag gp : Bool} {owner : Nat} : s.KeepsBoot (t.homeWrite g a bs mask whole tag gp owner) := by
  unfold State.homeWrite
  refine .ite (fun _ => h) (fun _ => ?_)
  refine KeepsBoot.notifyDeps (KeepsBoot.notifyWaits (KeepsBoot.markDirty (KeepsBoot.foldl ?_ fun u l hu => ?_)))
  · cases g with
    | none => exact h.aside
    | some g => exact KeepsBoot.aside (h.foldl fun _ _ hu => hu.devLog)
  · exact .ite (fun _ => hu.mcWrite) (fun _ => hu)

theorem KeepsBoot.plainWrite (h : s.KeepsBoot t) {a : Nat} {bs : List Byte} : s.KeepsBoot (t.plainWrite a bs) := h.homeWrite

theorem KeepsBoot.applyMerge (h : s.KeepsBoot t) {m : Merge} : s.KeepsBoot (t.applyMerge m) :=
  .ite (fun _ => h) (fun _ => h.homeWrite)

theorem KeepsBoot.applyLine (h : s.KeepsBoot t) {line : Nat} : s.KeepsBoot (t.applyLine line) :=
  h.aside.foldl fun _ _ hu => hu.applyMerge

theorem KeepsBoot.l1Room (h : s.KeepsBoot t) {c line : Nat} : s.KeepsBoot (t.l1Room c line) :=
  .ite (fun _ => h) (fun _ => h.aside.setCore)

theorem KeepsBoot.l1Fill (h : s.KeepsBoot t) {c line : Nat} {rid : optParam Nat 0} : s.KeepsBoot (t.l1Fill c line rid) :=
  .ite (fun _ => h) (fun _ => .ite (fun _ => h) (fun _ => h.l1Room.setCore))

theorem KeepsBoot.reply (h : s.KeepsBoot t) {rid : Nat} {r : Req} {rep : Reply} : s.KeepsBoot (t.reply rid r rep) := h.aside

theorem KeepsBoot.readAt (h : s.KeepsBoot t) {rid : Nat} {r : Req} {tag : Bool} : s.KeepsBoot (t.readAt rid r tag) :=
  h.noteRead.reply

theorem KeepsBoot.loadFill (h : s.KeepsBoot t) {rid : Nat} {r : Req} : s.KeepsBoot (t.loadFill rid r) :=
  .ite (fun _ => h) (fun _ => h.l1Fill)

theorem KeepsBoot.mergeIn (h : s.KeepsBoot t) {r : Req} {opcode sub : Nat} {y : Word64} :
    s.KeepsBoot (t.mergeIn r opcode sub y) := by
  unfold State.mergeIn
  refine .ite (fun _ => (KeepsBoot.ite (fun _ => h) (fun _ => h.applyLine)).aside) (fun _ => ?_)
  exact (KeepsBoot.ite (fun _ => h) (fun _ => h.applyLine)).aside

theorem KeepsBoot.atomicAt (h : s.KeepsBoot t) {rid : Nat} {r : Req} {opcode sub : Nat} {y new : Word64} :
    s.KeepsBoot (t.atomicAt rid r opcode sub y new) := by
  unfold State.atomicAt
  split
  · exact h.noteRead.reply
  · exact (KeepsBoot.ite (fun _ => h) (fun _ => h.homeWrite)).reply

theorem KeepsBoot.performMem (h : s.KeepsBoot t) {rid : Nat} {r : Req} : s.KeepsBoot (t.performMem rid r) := by
  unfold State.performMem
  split
  · exact h.applyLine.mcRead.loadFill.readAt
  · exact h.applyLine.mcRead.loadFill.readAt
  · exact h.applyLine.mcRead.readAt
  · exact h.applyLine.mcRead.readAt
  · exact h.applyLine.mcRead.homeWrite.reply
  · exact h.applyLine.mcRead.homeWrite.reply
  · exact .ite (fun _ => h.mergeIn.reply) (fun _ => h.applyLine.mcRead.atomicAt)
  · exact h.applyLine.mcRead.aside.aside.answerWait

theorem KeepsBoot.dropDone (h : s.KeepsBoot t) {rid : Nat} : s.KeepsBoot (t.dropDone rid) := by
  unfold State.dropDone
  split
  · exact .ite (fun _ => h.aside) (fun _ => h)
  · exact h

theorem KeepsBoot.performQueued (h : s.KeepsBoot t) {lines : List Nat} : s.KeepsBoot (t.performQueued lines) := by
  unfold State.performQueued
  refine h.foldl fun u x hu => ?_
  split
  · exact .ite (fun _ => hu.performMem.dropDone) (fun _ => hu)
  · exact hu

theorem KeepsBoot.portTurn (h : s.KeepsBoot t) {line : Nat} : s.KeepsBoot (t.portTurn line) := h.performQueued.applyLine

theorem KeepsBoot.sbPut (h : s.KeepsBoot t) {part w : Nat} {ws : List Word64} : s.KeepsBoot (t.sbPut part w ws) := h.plainWrite

theorem KeepsBoot.sbAppend (h : s.KeepsBoot t) {part : Nat} {ws : List Word64} : s.KeepsBoot (t.sbAppend part ws) :=
  h.sbPut.setPart

theorem KeepsBoot.sampleWrite (h : s.KeepsBoot t) {part : Nat} {body : List Word64} {lost : BitVec 48} :
    s.KeepsBoot (t.sampleWrite part body lost).1 := by
  have hs {v : State} (hv : s.KeepsBoot v) (n : BitVec 48) : s.KeepsBoot { v with seq := n } := hv.aside
  unfold State.sampleWrite
  dsimp only
  split
  · exact h
  split
  · exact h.setPart
  split
  · exact (hs h _).sbAppend
  split
  · exact (hs h.sbAppend.setPart _).sbAppend
  · exact h.sbAppend.setPart

theorem KeepsBoot.writeList (h : s.KeepsBoot t) {l : List Rec} {lost : BitVec 48} : s.KeepsBoot (t.writeList l lost).1 := by
  unfold State.writeList
  induction l generalizing t lost with
  | nil => exact h
  | cons r l ih =>
    rw [List.foldl_cons]
    dsimp only
    split
    · exact ih h.ringAppend
    · exact ih h.sampleWrite

theorem KeepsBoot.writeRecords (h : s.KeepsBoot t) : s.KeepsBoot t.writeRecords := by
  have h0 : s.KeepsBoot { t with recs := [] } := h.aside
  exact h0.writeList.aside

theorem KeepsBoot.freeSlot (h : s.KeepsBoot t) {c slot : Nat} : s.KeepsBoot (t.freeSlot c slot) := h.setCore

theorem KeepsBoot.departOut (h : s.KeepsBoot t) {aid partner partnerCore role core : Nat} :
    s.KeepsBoot (t.departOut aid partner partnerCore role core) := by
  unfold State.departOut
  dsimp only
  split
  · exact h.settle
  · exact h.settle.setAct.freeSlot.setCore

theorem KeepsBoot.startPair (h : s.KeepsBoot t) {q : Nat} {e : MeetEntry} {b : MeetArr} {core : Nat} :
    s.KeepsBoot (t.startPair q e b core) := h.setQuad.setCore.departOut.departOut

theorem KeepsBoot.tryPair (h : s.KeepsBoot t) {q : Nat} {e : MeetEntry} : s.KeepsBoot (t.tryPair q e) := by
  unfold State.tryPair
  split
  · exact h
  dsimp only
  split
  · exact h
  split
  · exact h
  · exact h.startPair

theorem KeepsBoot.retryPairs (h : s.KeepsBoot t) : s.KeepsBoot t.retryPairs := h.foldl fun _ _ hu => hu.tryPair

theorem KeepsBoot.setQueue (h : s.KeepsBoot t) {part q : Nat} {x : Queue} : s.KeepsBoot (t.setQueue part q x) := h.setPart

theorem KeepsBoot.schedWrite (h : s.KeepsBoot t) {a : Nat} {bs : List Byte} : s.KeepsBoot (t.schedWrite a bs) :=
  (h.foldl fun _ _ hu => hu.portTurn).plainWrite

theorem KeepsBoot.writeStatus (h : s.KeepsBoot t) {part q slot addr : Nat} {w : Word64} :
    s.KeepsBoot (t.writeStatus part q slot addr w) := (KeepsBoot.ite (fun _ => h.setQueue) (fun _ => h)).schedWrite

theorem KeepsBoot.jaccept (h : s.KeepsBoot t) {part : Nat} {e : JEntry} : s.KeepsBoot (t.jaccept part e) := h.schedWrite.setPart

theorem KeepsBoot.raiseHost (h : s.KeepsBoot t) {part : Nat} : s.KeepsBoot (t.raiseHost part) := h.setPart

theorem KeepsBoot.dropMoulds (h : s.KeepsBoot t) {gid : Nat} : s.KeepsBoot (t.dropMoulds gid) := h.aside

theorem KeepsBoot.gangStatus (h : s.KeepsBoot t) {gid state code jseq : Nat} :
    s.KeepsBoot (t.gangStatus gid state code jseq) := by
  unfold State.gangStatus
  dsimp only
  split
  · exact h.writeStatus
  · exact h

theorem KeepsBoot.dropWait (h : s.KeepsBoot t) {gid : Nat} : s.KeepsBoot (t.dropWait gid) := h.setPart.setGang

theorem KeepsBoot.dropRecord (h : s.KeepsBoot t) {gid : Nat} : s.KeepsBoot (t.dropRecord gid) := h.setPart

theorem KeepsBoot.clearGang (h : s.KeepsBoot t) {gid : Nat} : s.KeepsBoot (t.clearGang gid) :=
  h.aside.mapCores.mapQuads.mapParts.dropMoulds.retryPairs

theorem KeepsBoot.endAtReset (h : s.KeepsBoot t) {gid : Nat} {lost : Bool} : s.KeepsBoot (t.endAtReset gid lost) := by
  unfold State.endAtReset
  refine .ite (fun _ => h.faultRecord.jaccept.clearGang.dropWait.gangStatus.dropRecord.setGang.raiseHost) (fun _ => ?_)
  exact h.faultRecord.jaccept.clearGang.dropWait.gangStatus.dropRecord.setGang

theorem KeepsBoot.resetGangs (h : s.KeepsBoot t) {part : Nat} {lost : Bool} : s.KeepsBoot (t.resetGangs part lost) :=
  h.foldl fun _ _ hu => KeepsBoot.ite (fun _ => hu) (fun _ => .ite (fun _ => hu.setGang) (fun _ => hu.endAtReset))

end Sys2Proof.Machine.State
end

section
/-! Package resets, partition resets, attestation, tamper alarms and register writes. -/
namespace Sys2Proof.Machine

/-! ## Package reset (R338, R354) -/

/-- Where no record waits to be written, writing the records changes nothing. -/
theorem State.writeRecords_nil {s : State} (h : s.recs = []) : s.writeRecords = s := by
  have hl : sortBy Rec.order s.recs = [] := by rw [h]; rfl
  rw [State.writeRecords, hl]
  cases s
  cases h
  rfl

/-- Where no plate caches a line, a power cut leaves device memory as it is. -/
theorem State.powerCut_mem {s : State} (h : ∀ x ∈ s.dies, x.2.mcache = []) : s.powerCut.mem = s.mem := by
  have hl : s.dies.flatMap (fun x => (x.2.mcache.filter (fun y => y.2.dirty)).map (·.1)) = [] := by
    refine List.flatMap_eq_nil_iff.mpr fun x hx => ?_
    rw [h x hx]
    rfl
  have hc : s.loseCopies = s := by rw [State.loseCopies, hl]; rfl
  change s.loseCopies.mem = s.mem
  rw [hc]

/-- A package reset applies the partition map that is held for it and counts itself; no operation, request or quad lasts. -/
theorem packageReset_applies (s : State) :
    ∃ u, exec .packageReset s = .next u ∧ u.partmap = s.partmapNext ∧ u.tick = 0 ∧ u.resets = s.resets + 1
      ∧ u.ops = [] ∧ u.reqs = [] ∧ u.quads = [] ∧ u.saving = false := by
  have h := State.KeepsBoot.refl s
  have hb (c : Prop) [Decidable c] : s.KeepsBoot (if c then s else s.gangs.foldl (fun (s : State) x =>
      if x.2.unfinished then s.endAtReset x.1 false else s) s).writeRecords :=
    .writeRecords (.ite (fun _ => h) (fun _ => h.foldl fun _ _ hu => .ite (fun _ => hu.endAtReset) (fun _ => hu)))
  exact ⟨_, rfl, (hb _).map, rfl, congrArg (· + 1) (hb _).resets, rfl, rfl, rfl, rfl⟩

/-- With the same partition map, no record and no cached line, device memory, the record counter and TRIPREC last. -/
theorem packageReset_lasts {s : State} (hm : s.partmapNext = s.partmap) (hr : s.recs = [])
    (hd : ∀ x ∈ s.dies, x.2.mcache = []) :
    ∃ u, exec .packageReset s = .next u ∧ u.mem = s.mem ∧ u.seq = s.seq ∧ u.triprec = s.triprec := by
  refine ⟨_, rfl, ?_⟩
  simp only [hm, beq_self_eq_true, if_true, State.writeRecords_nil hr, State.powerCut_mem hd, and_self]

/-- With another partition map no gang and no context lasts over a package reset. -/
theorem packageReset_newMap {s : State} (hm : s.partmapNext ≠ s.partmap) :
    ∃ u, exec .packageReset s = .next u ∧ u.gangs = [] ∧ u.acts = [] := by
  have hb : (s.partmapNext == s.partmap) = false := beq_eq_false_iff_ne.mpr hm
  refine ⟨_, rfl, ?_⟩
  simp only [hb, Bool.and_false, Bool.false_eq_true, if_false, and_self]

/-! ## What firmware sets up at a partition reset stays (R338) -/

/-- Firmware's values in a partition: OTBASE, the journal's place and length, and that it is set up. -/
def Part.setup (p : Part) : Word64 × Nat × Nat × Bool := (p.otbase, p.jbase, p.jlen, p.firmware)

theorem State.prepareStandby_part (s : State) (p n : Nat) : (s.prepareStandby p).part n = s.part n := by
  unfold State.prepareStandby
  dsimp only
  split
  · rfl
  · rfl

theorem State.newGang_setup (s : State) (p n : Nat) (bytes : List Byte) (code arg : KReg) (kick : Option (Nat × Nat))
    (act : Nat → JAction) : ((s.newGang p bytes code arg kick act).part n).setup = (s.part n).setup := by
  unfold State.newGang State.journal
  dsimp only
  by_cases h : n = p
  · subst h
    simp only [State.part_setPart_same]
    rfl
  · simp only [State.part_setPart_other _ _ _ h]
    rfl

theorem State.launchFirmware_foldl_setup (s : State) (p n : Nat) (l : List Nat) :
    ((l.foldl (fun (s : State) i => s.launchFirmware p i) s).part n).setup = (s.part n).setup := by
  induction l generalizing s with
  | nil => rfl
  | cons i l ih => exact (ih _).trans (s.newGang_setup ..)

/-- While the package runs and an armature core lives, a partition reset leaves firmware's values in the partition. -/
theorem partitionReset_setup {s : State} {p : Nat} (hr : s.running = true) (ha : s.armatureLive = true) :
    ∃ u, exec (.partitionReset p) s = .next u ∧ (u.part p).setup =
      (Config.firmwareOtbase p s.resets &&& 0xFFFFFFFFFFFFF000, (Config.firmwareJbase p s.resets).toNat * 64,
        (Config.firmwareJlen p s.resets).toNat + 1, true) := by
  refine ⟨_, if_neg (by simp [hr, ha]), ?_⟩
  have hn (bad : List Nat) (lost : Bool) : (bad.foldl (fun (s : State) d =>
      s.setDie d { s.die d with plateGone := true, dropped := true }) (s.resetGangs p lost)).resets = s.resets :=
    ((State.KeepsBoot.refl s).resetGangs.foldl fun _ _ hu => hu.setDie).resets
  rw [State.launchFirmware_foldl_setup, State.prepareStandby_part, State.part_setPart_same]
  simp only [Part.setup, hn]

/-! ## Attestation and tamper alarms (R355, R356) -/

/-- A request for a report starts unless one runs or the device key is erased. -/
theorem attestationRequest_idle {s : State} (v : Word64) (h : s.att = none) : exec (.attestationRequest v) s =
    let a := v &&& 0x0000FFFFFFFFFFC0
    .next (if s.tamper.getLsbD 57 then { s with attgo := a ||| 2 }
      else { s with attgo := a ||| 1, att := some { addr := a.toNat, nonce := s.nonce } }) := by
  rw [exec_attestationRequest]
  unfold execAttestationRequest
  rw [h]
  exact (apply_ite Host.Outcome.next _ _ _).symm

/-- The policy erases the device key exactly if it is not 0. -/
theorem tamperErases_iff : decide (1 ≤ Config.tamperPolicy.toNat) = true ↔ Config.tamperPolicy ≠ 0 := by
  rw [decide_eq_true_iff]
  bv_omega

/-- BOOTSTAT's code under policy 2. -/
theorem bits_tamperHalt (w : Word64) : bits ((w &&& 0x00FFFFFFFFFFFFFF) ||| 0x0400000000000000) 63 56 = 4 := by
  have h : ((w &&& 0x00FFFFFFFFFFFFFF) ||| 0x0400000000000000) >>> 56 = (4 : Word64) := by
    rw [BitVec.ushiftRight_or_distrib, BitVec.ushiftRight_and_distrib, show (0x00FFFFFFFFFFFFFF : Word64) >>> 56 = 0 from rfl,
      show (w >>> 56) &&& 0 = 0 from BitVec.and_zero, show (0 : Word64) ||| _ = _ from BitVec.zero_or]
    rfl
  have hn := congrArg BitVec.toNat h
  rw [BitVec.toNat_ushiftRight, Nat.shiftRight_eq_div_pow] at hn
  unfold bits
  rw [hn]
  rfl

/-- What an alarm records in TAMPER: its source, whether the key is erased, and the first alarm's time. -/
theorem tamperAlarm_tamper (s : State) (src : BitVec 3) :
    ∃ u, exec (.tamperAlarm src) s = .next u ∧
      let t := s.tamper ||| 0x8000000000000000 ||| (src.setWidth 64 <<< 60)
        ||| (if Config.tamperPolicy = 0 then 0 else 0x0200000000000000)
      u.tamper = if s.tamper.getLsbD 63 = true then t else t ||| w64 (s.tick % 2 ^ 48) := by
  have he : (if decide (1 ≤ Config.tamperPolicy.toNat) = true then (0x0200000000000000 : Word64) else 0)
      = if Config.tamperPolicy = 0 then 0 else 0x0200000000000000 := by
    simp only [tamperErases_iff, ite_not]
  refine ⟨_, rfl, ?_⟩
  simp only [apply_ite State.tamper, ite_self, he, Bool.not_eq_true', ← Bool.not_eq_true, ite_not]

/-- What an alarm does by the fused policy. -/
theorem tamperAlarm_acts (s : State) (src : BitVec 3) :
    ∃ u, exec (.tamperAlarm src) s = .next u
      ∧ (Config.tamperPolicy = 0 → u.att = s.att ∧ u.bootstat = s.bootstat) ∧ (Config.tamperPolicy ≠ 0 → u.att = none)
      ∧ (Config.tamperPolicy = 2 → bits u.bootstat 63 56 = 4) := by
  refine ⟨_, rfl, fun h => ?_, fun h => ?_, fun h => ?_⟩
  · have he : ¬decide (1 ≤ Config.tamperPolicy.toNat) = true := fun e => tamperErases_iff.mp e h
    have h2 : Config.tamperPolicy ≠ 2 := h ▸ by decide
    simp only [he, h2, if_false, Bool.false_and, Bool.false_eq_true, and_self]
  · have he := tamperErases_iff.mpr h
    simp only [apply_ite State.att, ite_self, he, Bool.true_and]
    split
    · rfl
    · next ha => exact Option.not_isSome_iff_eq_none.mp ha
  · simp only [h, if_true]
    exact bits_tamperHalt _

/-! ## Register writes (R13) -/

/-- A register that only stores its fields, written by the host or by firmware. -/
theorem registerWrite_plain {s t : State} {part off : Nat} {v : Word64} (ho : off < 2 ^ 24)
    (h : s.plainReg part off v true = some t) : exec (.registerWrite part off v) s = .next t := by
  rw [exec_registerWrite]
  unfold execRegisterWrite
  rw [if_neg (by omega), if_neg (by omega), if_neg (by omega), h]

/-- Another register of the window: what its own rule does. -/
theorem registerWrite_window {s : State} {part off : Nat} {v : Word64} (ho : off < 2 ^ 24)
    (h : s.plainReg part off v true = none) :
    exec (.registerWrite part off v) s = .next (s.windowWrite part off v true) := by
  rw [exec_registerWrite]
  unfold execRegisterWrite
  rw [if_neg (by omega), if_neg (by omega), if_neg (by omega), h]

/-- Settles O39, event by event. -/
theorem resetAndAttestEventsHappen : Obligations.ResetAndAttestEventsHappen := by
  unfold Obligations.ResetAndAttestEventsHappen
  intro part off v src r t
  refine ⟨fun s h => ?_, fun s => ?_, fun s => packageReset_newMap, fun s h => if_pos h, fun s hr ha => ?_, fun s h => ?_,
    fun s h => ?_, fun s h => if_pos h, fun s h => ?_, fun s h => ?_, fun s h => ?_, fun s _ => rfl, fun s _ => rfl,
    fun s _ => rfl, fun s h => registerWrite_plain h.1 h.2, fun s h => registerWrite_window h.1 h.2⟩
  · exact congrArg Host.Outcome.next (if_pos h)
  · obtain ⟨u, e, hp, ht, hc, ho, hq, hz, hs⟩ := packageReset_applies s
    refine ⟨u, e, hp, ht, hc, ho, hq, hz, hs, fun hm hr hd => ?_⟩
    obtain ⟨u', e', h⟩ := packageReset_lasts hm hr hd
    cases e.symm.trans e'
    exact h
  · obtain ⟨u, e, h⟩ := partitionReset_setup (p := part) hr ha
    simp only [Part.setup, Prod.mk.injEq] at h
    exact ⟨u, e, h⟩
  · rw [attestationRequest_idle v h.1, h.2]
    rfl
  · rw [attestationRequest_idle v h.1, h.2]
    rfl
  · rw [exec_attestationDone]
    unfold execAttestationDone
    rw [h]
  · obtain ⟨u, e, ht⟩ := tamperAlarm_tamper s src
    obtain ⟨u', e', ha⟩ := tamperAlarm_acts s src
    cases e.symm.trans e'
    exact ⟨u, e, ht.trans (if_neg (by rw [h]; exact Bool.false_ne_true)), ha⟩
  · obtain ⟨u, e, ht⟩ := tamperAlarm_tamper s src
    exact ⟨u, e, ht.trans (if_pos h)⟩

end Sys2Proof.Machine
end

section
/-! What a package reset leaves in the dies and the partitions. -/
namespace Sys2Proof.Machine
/-- A package reset leaves every die as it powers up. -/
theorem State.reset_die (d : Nat) : State.reset.die d = {} := by
  have h : ∀ x ∈ State.reset.dies, x.2 = {} := by decide
  unfold State.die
  cases e : tableGet? State.reset.dies d with
  | none => rfl
  | some x => exact h _ (mem_of_tableGet? e)

/-- A package reset leaves every partition as it powers up. -/
theorem State.reset_part (p : Nat) : State.reset.part p = {} := by
  have h : ∀ x ∈ State.reset.parts, x.2 = {} := by
    intro x hx
    rw [List.mem_singleton.mp hx]
  unfold State.part
  cases e : tableGet? State.reset.parts p with
  | none => rfl
  | some x => exact h _ (mem_of_tableGet? e)

/-- No partition map is given at a package reset: every die is partition 0's. -/
theorem State.reset_diePart (d : Nat) : State.reset.diePart d = 0 := by
  simp [State.diePart, State.reset]

/-- Settles O46, from the values that the dies and the partitions have at power-up. -/
theorem resetState : Obligations.ResetState := by
  unfold Obligations.ResetState
  refine ⟨reset_memWf, reset_unitsWf, rfl, rfl, rfl, rfl, rfl, rfl, fun d => ?_, fun c hc => ?_, State.reset_diePart, rfl, rfl,
    rfl, fun p q => ?_⟩
  · rw [State.reset_die]
    exact ⟨rfl, rfl, rfl⟩
  · rw [State.live, State.reset_die, decide_eq_true hc]
    rfl
  · rw [State.queue, State.reset_part]
    exact ⟨BitVec.getLsbD_zero, rfl, rfl⟩
end Sys2Proof.Machine
end

section
/-! Writes of registers: what reads after one, and the context that a dispatch starts. -/
namespace Sys2Proof.Machine

/-! ## Reading beside a write -/

/-- A write changes what is read at no other key, in canonical form or not. -/
theorem sparseGet_sparseSet_ne {α : Type} [DecidableEq α] {d : α} (m : Sparse α) {n a : Nat} (x : α) (h : a ≠ n) :
    sparseGet d (sparseSet d m n x) a = sparseGet d m a := by
  induction m with
  | nil => by_cases hx : x = d <;> simp [sparseSet, sparseGet, hx, h]
  | cons e r ih =>
    obtain ⟨k, v⟩ := e
    simp only [sparseSet]
    split
    · split
      · rfl
      · simp only [sparseGet, if_neg h]
    · split
      · next hk =>
        subst hk
        split
        · simp only [sparseGet, if_neg h]
        · simp only [sparseGet, if_neg h]
      · simp only [sparseGet, ih]

/-- Setting or clearing one bit leaves the others. -/
theorem getLsbD_setBit {n : Nat} (x : BitVec n) (i j : Nat) (v : Bool) :
    (setBit x i v).getLsbD j = if j = i ∧ j < n then v else x.getLsbD j := by
  have hb : (1#n <<< i).getLsbD j = decide (j = i ∧ j < n) := by
    rw [BitVec.getLsbD_shiftLeft, BitVec.getLsbD_one, Bool.eq_iff_iff]
    simp only [Bool.and_eq_true, Bool.not_eq_true', decide_eq_true_eq, decide_eq_false_iff_not]
    omega
  have hx : n ≤ j → x.getLsbD j = false := BitVec.getLsbD_of_ge x j
  by_cases hc : j = i ∧ j < n
  · rw [if_pos hc]
    cases v with
    | false => simp only [setBit, Bool.false_eq_true, if_false, BitVec.getLsbD_and, BitVec.getLsbD_not, hb, decide_eq_true hc,
        Bool.not_true, Bool.and_false]
    | true => simp only [setBit, if_true, BitVec.getLsbD_or, hb, decide_eq_true hc, Bool.or_true]
  · rw [if_neg hc]
    cases v with
    | false =>
      simp only [setBit, Bool.false_eq_true, if_false, BitVec.getLsbD_and, BitVec.getLsbD_not, hb, decide_eq_false hc,
        Bool.not_false, Bool.and_true]
      by_cases hj : j < n
      · rw [decide_eq_true hj, Bool.and_true]
      · rw [hx (Nat.le_of_not_lt hj), Bool.false_and]
    | true => simp only [setBit, if_true, BitVec.getLsbD_or, hb, decide_eq_false hc, Bool.or_false]

/-! ## The register files -/

/-- A live bit that is set or cleared leaves what the registers hold, and their poison. -/
theorem Regs.setLive_files (g : Regs) (r : RegName) (v : Bool) :
    (g.setLive r v).s = g.s ∧ (g.setLive r v).v = g.v ∧ (g.setLive r v).p = g.p ∧ (g.setLive r v).b = g.b
      ∧ (g.setLive r v).k = g.k ∧ (g.setLive r v).poison = g.poison := by
  unfold Regs.setLive
  split <;> (try split) <;> exact ⟨rfl, rfl, rfl, rfl, rfl, rfl⟩

/-- The registers that discard a write are s0 and p0 (R110). -/
theorem discards_iff (r : RegName) : (r.num = 0 ∧ (r.file = .s ∨ r.file = .p)) ↔ r = sreg 0 ∨ r = preg 0 := by
  obtain ⟨f, n⟩ := r
  simp only [sreg, preg, RegName.mk.injEq]
  tauto

theorem Regs.put_discarded {g : Regs} {w : RegWrite} (h : w.reg = sreg 0 ∨ w.reg = preg 0) : g.put w = g :=
  if_pos ((discards_iff w.reg).mpr h)

/-- The live bits after setting or clearing one of another register than s0 and p0. -/
theorem Regs.live_setLive {g : Regs} {r : RegName} (v : Bool) (q : RegName) (h : ¬(r = sreg 0 ∨ r = preg 0)) :
    (g.setLive r v).live q = if q = r ∧ q.num < q.file.size then v else g.live q := by
  obtain ⟨f, n⟩ := r
  obtain ⟨e, m⟩ := q
  have hn : f = .s ∨ f = .p → n ≠ 0 := fun hf h0 => h ((discards_iff ⟨f, n⟩).mp ⟨h0, hf⟩)
  cases f <;> cases e <;> simp [Regs.setLive, Regs.live, getLsbD_setBit, RegFile.size, hn]

/-- The live bits after a write that is not discarded: the register's own is set. -/
theorem Regs.live_put {g : Regs} {w : RegWrite} (q : RegName) (h : ¬(w.reg = sreg 0 ∨ w.reg = preg 0)) :
    (g.put w).live q = if q = w.reg ∧ q.num < q.file.size then true else g.live q := by
  rw [← Regs.live_setLive true q h, Regs.put, if_neg (fun e => h ((discards_iff w.reg).mp e))]
  dsimp only
  split <;> rfl

theorem Regs.live_put_iff {g : Regs} {w : RegWrite} (q : RegName) (h : ¬(w.reg = sreg 0 ∨ w.reg = preg 0)) :
    (g.put w).live q = true ↔ (q = w.reg ∧ q.num < q.file.size) ∨ g.live q = true := by
  rw [Regs.live_put q h]
  by_cases hq : q = w.reg ∧ q.num < q.file.size <;> simp [hq]

/-- The poison after a write that is not discarded: the register's own is what the write carries (R155). -/
theorem Regs.poison_put {g : Regs} {w : RegWrite} (k : Nat) (h : ¬(w.reg = sreg 0 ∨ w.reg = preg 0)) :
    tableGet? (g.put w).poison k = if k = regKey w.reg then w.poison else tableGet? g.poison k := by
  have hp : (g.put w).poison
      = w.poison.elim (tableErase g.poison (regKey w.reg)) (tableSet g.poison (regKey w.reg)) := by
    rw [← (Regs.setLive_files g w.reg true).2.2.2.2.2, Regs.put, if_neg (fun e => h ((discards_iff w.reg).mp e))]
    dsimp only
    cases w.poison <;> split <;> rfl
  rw [hp]
  cases w.poison with
  | none =>
    by_cases hk : k = regKey w.reg
    · simp only [hk, Option.elim_none, tableGet?_tableErase_same, if_true]
    · simp only [hk, Option.elim_none, tableGet?_tableErase_other _ hk, if_false]
  | some x => simp only [Option.elim_some, tableGet?_tableSet]

theorem regKey_inj {r q : RegName} (hr : r.num < 64) (hq : q.num < 64) (h : regKey r = regKey q) : r = q := by
  obtain ⟨f, n⟩ := r
  obtain ⟨e, m⟩ := q
  simp only [regKey] at h hr hq
  have hc : f.code = e.code := by omega
  have hf : f = e := by revert hc; cases f <;> cases e <;> decide
  subst hf
  simp only [RegName.mk.injEq, true_and]
  omega

/-- Each file of registers after a write: it stands as it was, or the write was one of its own registers. -/
theorem Regs.files_put (g : Regs) (w : RegWrite) :
    ((g.put w).s = g.s ∨ w.reg.file = .s ∧ w.reg.num ≠ 0 ∧ ∃ x, (g.put w).s = sparseSet 0 g.s w.reg.num x) ∧
    ((g.put w).v = g.v ∨ w.reg.file = .v ∧ ∃ x, (g.put w).v = sparseSet {} g.v w.reg.num x) ∧
    ((g.put w).p = g.p ∨ w.reg.file = .p ∧ ∃ x, (g.put w).p = sparseSet 0 g.p w.reg.num x) ∧
    ((g.put w).b = g.b ∨ w.reg.file = .b ∧ ∃ x, (g.put w).b = sparseSet 0 g.b w.reg.num x) ∧
    ((g.put w).k = g.k ∨ w.reg.file = .k ∧ ∃ x, (g.put w).k = sparseSet {} g.k w.reg.num x) := by
  obtain ⟨hs, hv, hp, hb, hk, -⟩ := Regs.setLive_files g w.reg true
  unfold Regs.put
  dsimp only
  split
  · exact ⟨.inl rfl, .inl rfl, .inl rfl, .inl rfl, .inl rfl⟩
  · next hn =>
    split
    · next x hf _ =>
      refine ⟨.inr ⟨hf, fun h0 => hn ⟨h0, .inl hf⟩, x, ?_⟩, .inl hv, .inl hp, .inl hb, .inl hk⟩
      rw [hs]
    · next x hf _ =>
      refine ⟨.inl hs, .inl hv, .inr ⟨hf, x, ?_⟩, .inl hb, .inl hk⟩
      rw [hp]
    · next x hf _ =>
      refine ⟨.inl hs, .inl hv, .inl hp, .inr ⟨hf, x.setWidth 32, ?_⟩, .inl hk⟩
      rw [hb]
    · next x hf _ =>
      refine ⟨.inl hs, .inr ⟨hf, x, ?_⟩, .inl hp, .inl hb, .inl hk⟩
      rw [hv]
    · next x hf _ =>
      refine ⟨.inl hs, .inl hv, .inl hp, .inl hb, .inr ⟨hf, x, ?_⟩⟩
      rw [hk]
    · exact ⟨.inl hs, .inl hv, .inl hp, .inl hb, .inl hk⟩

/-- What a write reads beside the register that it writes. -/
theorem sparseGet_put_ne {α : Type} [DecidableEq α] {d : α} {m m' : Sparse α} {P : Prop} {n a : Nat}
    (h : m' = m ∨ P ∧ ∃ x, m' = sparseSet d m n x) (ha : a ≠ n ∨ ¬P) : sparseGet d m' a = sparseGet d m a := by
  rcases h with h | ⟨hP, x, h⟩
  · rw [h]
  · rw [h, sparseGet_sparseSet_ne m x (ha.resolve_right (fun e => e hP))]

theorem Regs.put_wS {g : Regs} {n : Nat} (x : Word64) (h : 0 < n) : (g.put (wS n x)).s = sparseSet 0 g.s n x := by
  rw [Regs.put, if_neg (fun e => absurd e.1 (Nat.ne_of_gt h))]
  exact congrArg (sparseSet 0 · n x) (Regs.setLive_files g (sreg n) true).1

theorem Regs.put_wP {g : Regs} {n : Nat} (x : Word64) (h : 0 < n) : (g.put (wP n x)).p = sparseSet 0 g.p n x := by
  rw [Regs.put, if_neg (fun e => absurd e.1 (Nat.ne_of_gt h))]
  exact congrArg (sparseSet 0 · n x) (Regs.setLive_files g (preg n) true).2.2.1

theorem Regs.put_wV (g : Regs) (n : Nat) (x : VReg) : (g.put (wV n x)).v = sparseSet {} g.v n x := by
  rw [Regs.put, if_neg (by simp [wV, vreg])]
  rfl

theorem Regs.put_wK (g : Regs) (n : Nat) (x : KReg) : (g.put (wK n x)).k = sparseSet {} g.k n x := by
  rw [Regs.put, if_neg (by simp [wK, kreg])]
  rfl

theorem Regs.put_wB (g : Regs) (n : Nat) (x : BitVec 32) : (g.put (wB n x)).b = sparseSet 0 g.b n x := by
  rw [Regs.put, if_neg (by simp [wB, breg])]
  exact congrArg (sparseSet 0 g.b n) (by simp)

/-- Settles O54, from what a write leaves in each file, in the live bits and in the poison. -/
theorem registerWrites : Obligations.RegisterWrites := by
  unfold Obligations.RegisterWrites
  intro g a w n x v k r
  obtain ⟨hs, hv, hp, hb, hk⟩ := Regs.files_put g w
  refine ⟨rfl, Regs.put_discarded (.inl rfl), Regs.put_discarded (.inr rfl), fun h0 => ?_, fun hw hn => ?_, fun hw hn => ?_,
    fun hw => ?_, fun hw => ?_, fun hw => ?_, fun h1 h2 => ?_, fun hr h1 h2 => ?_, ?_, fun m => sparseGet_put_ne hv,
    fun m => sparseGet_put_ne hp, fun m => sparseGet_put_ne hb, fun m => sparseGet_put_ne hk⟩
  · rcases hs with hs | ⟨-, hn, y, hs⟩
    · rw [hs, h0]
    · rw [hs, sparseGet_sparseSet_ne g.s y hn.symm, h0]
  · rw [Regs.put_wS x hn, sparseGet_sparseSet_same n x hw]
  · rw [Regs.put_wP x hn, sparseGet_sparseSet_same n x hw]
  · rw [Regs.put_wV, sparseGet_sparseSet_same n v hw]
  · rw [Regs.put_wK, sparseGet_sparseSet_same n k hw]
  · rw [Regs.put_wB, sparseGet_sparseSet_same n _ hw]
  · have hd : ¬(w.reg = sreg 0 ∨ w.reg = preg 0) := not_or.mpr ⟨h1, h2⟩
    exact ⟨fun hz => by rw [Regs.live_put _ hd, if_pos ⟨rfl, hz⟩], by rw [Regs.poison_put _ hd, if_pos rfl]⟩
  · by_cases hd : w.reg = sreg 0 ∨ w.reg = preg 0
    · rw [Regs.put_discarded hd]
      exact ⟨rfl, rfl⟩
    · exact ⟨by rw [Regs.live_put _ hd, if_neg (fun e => hr e.1)],
        by rw [Regs.poison_put _ hd, if_neg (fun e => hr (regKey_inj h1 h2 e))]⟩
  · exact fun m => sparseGet_put_ne (hs.imp_right fun ⟨hf, _, h⟩ => ⟨hf, h⟩)

/-! ## Contexts as they are dispatched (R22, R130) -/

/-- The registers that a dispatch writes: k0 the argument, s1 the rank and s2 the gang's size. -/
def startRegs (arg : KReg) (rank size : Word64) : Regs :=
  ((({} : Regs).put (wK 0 arg)).put (wS 1 rank)).put (wS 2 size)

theorem State.newAct_regs (s : State) (aid gid n idx core slot : Nat) (g : Gang) (p : Place) :
    (s.newAct aid gid n g p idx core slot).regs = startRegs g.arg (w64 (n * (g.lrec.cores * g.lrec.acts) + idx))
      (w64 (g.lrec.crews * (g.lrec.cores * g.lrec.acts))) := rfl

/-- They hold what was written; s0 is zero and no vector register is listed. -/
theorem startRegs_hold (arg : KReg) (x y : Word64) :
    sparseGet {} (startRegs arg x y).k 0 = arg ∧ sparseGet 0 (startRegs arg x y).s 0 = 0
      ∧ sparseGet 0 (startRegs arg x y).s 1 = x ∧ sparseGet 0 (startRegs arg x y).s 2 = y ∧ (startRegs arg x y).v = [] := by
  have hw : sparseWf 0 (sparseSet 0 ([] : Sparse Word64) 1 x) = true := sparseWf_sparseSet 1 x rfl
  refine ⟨?_, ?_, ?_, ?_, rfl⟩
  · exact sparseGet_sparseSet_same (m := ([] : Sparse KReg)) 0 arg rfl
  all_goals rw [startRegs, Regs.put_wS _ (by decide), Regs.put_wS _ (by decide)]
  · rw [sparseGet_sparseSet_ne _ _ (by decide), sparseGet_sparseSet_ne _ _ (by decide)]
    rfl
  · rw [sparseGet_sparseSet_ne _ _ (by decide)]
    exact sparseGet_sparseSet_same (m := ([] : Sparse Word64)) 1 x rfl
  · exact sparseGet_sparseSet_same 2 y hw

/-- The live registers at a dispatch. -/
theorem startRegs_live (arg : KReg) (x y : Word64) (r : RegName) (h : r.num < 64) :
    (startRegs arg x y).live r = true ↔ r ∈ [sreg 0, sreg 1, sreg 2, preg 0, kreg 0] := by
  have hd : ∀ n ∈ [1, 2], ¬(sreg n = sreg 0 ∨ sreg n = preg 0) := by decide
  rw [startRegs, Regs.live_put_iff r (hd 2 (by decide)), Regs.live_put_iff r (hd 1 (by decide)),
    Regs.live_put_iff r (by simp [wK, kreg, sreg, preg])]
  obtain ⟨f, n⟩ := r
  simp only [wS, wK, Regs.live]
  revert n
  cases f <;> decide

/-- The status word at a dispatch: the record's mode, with interrupts enabled and everything else zero (R130). -/
theorem startStatus : ∀ m < 3, let w := 0x40 ||| w64 (m % 4)
    bits w 1 0 = m ∧ w.getLsbD 6 = true ∧ w.getLsbD 7 = false ∧ bits w 9 8 = 0 ∧ bits w 5 3 = 0 ∧ w.getLsbD 2 = false
      ∧ w.extractLsb' 11 5 = 0 := by
  decide

/-- With no trap in progress every name is the activity's own register (R294). -/
theorem Act.regsFor_noTrap {a : Act} (h : a.tip = false) (r : RegName) : a.regsFor r = a.regs := by
  simp [Act.regsFor, h]

/-- CODE names its object (R129). -/
theorem State.bits_codeOf (s : State) (core part obj : Nat) : bits (s.codeOf core part obj) 63 40 = obj % 2 ^ 24 := by
  unfold State.codeOf bits w64
  rw [BitVec.toNat_ofNat]
  omega

theorem srStart_ne_zero (seed : Word64) (rank : Nat) : srStart seed rank ≠ 0 := by
  unfold srStart
  dsimp only
  split
  · decide
  · assumption

/-- Settles O58: the registers by `startRegs_hold` and `startRegs_live`, the status word by `startStatus`; the rest is as a new
context has it. -/
theorem dispatchedContexts : Obligations.DispatchedContexts := by
  unfold Obligations.DispatchedContexts
  intro s aid gid n idx core slot g p hm
  obtain ⟨hmode, hie, htip, hrm, hmg, hap, hfl⟩ := startStatus g.lrec.mode hm
  obtain ⟨hk, hs0, hs1, hs2, hv⟩ := startRegs_hold g.arg (w64 (n * (g.lrec.cores * g.lrec.acts) + idx))
    (w64 (g.lrec.crews * (g.lrec.cores * g.lrec.acts)))
  have htip' : (s.newAct aid gid n g p idx core slot).tip = false := htip
  have hown (r : RegName) := (Act.regsFor_noTrap htip' r).trans (s.newAct_regs aid gid n idx core slot g p)
  refine ⟨rfl, s.bits_codeOf core g.part g.code.object, ?_, ?_, ?_, ?_, rfl, fun r h hl => ?_, fun r hr => ?_, fun r => ?_, rfl,
    rfl, rfl, rfl, hmode, hie, htip, hrm, hmg, hap, hfl, fun b => rfl, rfl, rfl, rfl, rfl, rfl, srStart_ne_zero _ _⟩
  · rw [Act.k, hown, hk]
  · rw [Act.s, hown, hs1, w64]
  · rw [Act.s, hown, hs2, w64]
  · rw [Act.s, hown, hs0]
  · rw [Act.live, hown] at hl
    exact (startRegs_live _ _ _ r h).mp hl
  · rw [Act.live, hown]
    exact (startRegs_live _ _ _ r (by revert r; decide)).mpr hr
  · exact congrArg (sparseGet {} · r) hv

end Sys2Proof.Machine
end

section
/-! Words that trap, wait, end an activity, meet, exchange, take work or launch it: what each answers. -/
namespace Sys2Proof.Machine

/-! ## TRAP, BRK, TRET, EXIT, YIELD and WFI (R133..R138) -/

/-- BRK halts its quad exactly on a compute core whose quad's brk bit is set (R134). -/
theorem brkHalts_iff (c : Nat) (b : Bool) : (!isArmature c && b) = true ↔ c < 2048 ∧ b = true := by
  simp [isArmature]

/-- Settles O4, word by word. -/
theorem trapAndYieldWordsComplete : Obligations.TrapAndYieldWordsComplete := by
  unfold Obligations.TrapAndYieldWordsComplete
  refine ⟨fun imm cl => ⟨fun s c aid h _ => (exec_trap ..).trans (run_go h rfl rfl),
      fun s c aid h hb => (exec_brk ..).trans (run_go h rfl ?_), fun s c aid h hb => (exec_brk ..).trans (run_go h rfl ?_)⟩,
    fun cl => ⟨fun s c aid h _ => (exec_yield ..).trans (run_go h rfl rfl),
      fun s c aid h hm => (exec_wfi ..).trans (run_go h rfl (if_neg hm)),
      fun s c aid h hm => (exec_wfi ..).trans (run_trap h rfl (if_pos hm)),
      fun s c aid h hv => (exec_exit ..).trans (run_go h rfl ?_), fun s c aid h hv => (exec_exit ..).trans (run_go h rfl ?_)⟩,
    fun cl => ⟨fun s c aid h hm => (exec_tret ..).trans (run_go h rfl ?_),
      fun s c aid h hm => (exec_tret ..).trans (run_trap h rfl ?_)⟩⟩
  · have hn : ¬(!isArmature c && (s.quad (coreQuad c)).qdctl.getLsbD 1) = true := by
      rw [brkHalts_iff]
      rintro ⟨hc, h1⟩
      rcases hb with hb | hb
      · omega
      · exact Bool.false_ne_true (hb.symm.trans h1)
    simp only [if_neg hn]
  · simp only [if_pos ((brkHalts_iff c _).mpr hb)]
  · simp only [hv, Bool.false_eq_true, if_false]
  · simp only [hv, if_true]
  · obtain ⟨h0, h1, h3⟩ := hm
    have hn : ¬((s.act aid).mode < bits (s.act aid).trap.svasw 1 0 ∨ bits (s.act aid).trap.svasw 1 0 = 3) := by omega
    simp only [if_neg h0, if_neg hn]
  · by_cases h0 : (s.act aid).mode = 0
    · simp only [if_pos h0]
    · simp only [if_neg h0, if_pos (hm.resolve_left h0)]

/-! ## Meetings (R256..R259) -/

theorem Act.met_eq_none {x : Act} (h : x.visitor = false) : x.met = none := by simp [Act.met, h]

theorem Act.met_eq_some {x : Act} {p : Party} (h : x.visitor = true ∧ x.mg = 4 ∧ x.party = some p) : x.met = some p := by
  obtain ⟨hv, hg, hp⟩ := h
  simp [Act.met, hv, hg, hp]

theorem exchangePartner_home {s : State} {x : Act} (h : x.visitor = false) :
    exchangePartner s x = .error (.trap (partnerTrap 1)) := by
  simp only [exchangePartner, Act.met_eq_none h]

theorem exchangePartner_parted {s : State} {x : Act} {p : Party} (h : x.met = some p) (hp : p.partnerParted = true) :
    exchangePartner s x = .error (.trap (partnerTrap 0)) := by
  simp only [exchangePartner, h, hp, if_true]

theorem exchangePartner_here {s : State} {x : Act} {p : Party} (h : x.met = some p) (hp : p.partnerParted = false)
    (hs : (s.act p.partner).run ≠ .saved) : exchangePartner s x = .ok (p, s.act p.partner) := by
  simp only [exchangePartner, h, hp, Bool.false_eq_true, if_false, if_neg hs]

/-- What a register exchange answers decides for the word that makes it: a live register of a partner who is here is copied, a
partner who has parted and a context that is in no visitor slot raise PARTNER (R258). -/
theorem exchange_completes {i : Instr} {cl : Clauses} {own theirs : RegName} {p : Party}
    (hi : ∀ s, exec i s = run i cl {} noPre (fun _ aid x st => exchangeRes st aid x i cl own theirs) s) :
    Completes i cl plainNeed
      (fun _ x s => ((x.visitor = true ∧ x.mg = 4 ∧ x.party = some p) ∧ p.partnerParted = false
        ∧ (s.act p.partner).run ≠ .saved) ∧ (s.act p.partner).live theirs = true)
      (fun _ aid x s => start s (mkOp aid x i cl true false (if own = sreg 0 then [] else [own])
        (.fixedTime [{ reg := own, val := (s.act p.partner).valOf theirs, poison := (s.act p.partner).poison? theirs }]))) ∧
    Raises i cl plainNeed (fun _ x _ => (x.visitor = true ∧ x.mg = 4 ∧ x.party = some p) ∧ p.partnerParted = true)
      (fun _ _ _ => mkTrap cPARTNER 0) ∧
    Raises i cl plainNeed (fun _ x _ => x.visitor = false) (fun _ _ _ => mkTrap cPARTNER 1) := by
  refine ⟨fun s c aid h hk => ?_, fun s c aid h hk => ?_, fun s c aid h hv => ?_⟩
  · obtain ⟨⟨hm, hp, hs⟩, hl⟩ := hk
    refine (hi s).trans (run_go h rfl ?_)
    simp only [exchangeRes, exchangePartner_here (Act.met_eq_some hm) hp hs, hl, Bool.not_true, Bool.false_eq_true, if_false]
    rfl
  · refine (hi s).trans (run_trap h rfl ?_)
    simp only [exchangeRes, exchangePartner_parted (Act.met_eq_some hk.1) hk.2]
    rfl
  · refine (hi s).trans (run_trap h rfl ?_)
    simp only [exchangeRes, exchangePartner_home hv]
    rfl

/-- Settles O22, word by word; the register exchanges by `exchange_completes`. -/
theorem meetingWordsComplete : Obligations.MeetingWordsComplete := by
  unfold Obligations.MeetingWordsComplete
  refine ⟨fun mod d a b c imm p cl => ⟨fun s k aid h hk => (exec_meet ..).trans (run_go h rfl ?_),
      fun n s k aid h hk => (exec_meet ..).trans (run_trap h rfl ?_),
      fun s k aid h hk => (exec_part ..).trans (run_go h rfl ?_), fun s k aid h hv => (exec_part ..).trans (run_trap h rfl ?_)⟩,
    fun mod d a b c p dst cl => ⟨exchange_completes fun _ => rfl, exchange_completes fun _ => rfl,
      exchange_completes fun _ => rfl, exchange_completes fun _ => rfl, exchange_completes fun _ => rfl,
      fun s k aid h hk => (exec_xlug ..).trans (run_go h rfl ?_), fun s k aid h hk => (exec_xlug ..).trans (run_go h rfl ?_),
      fun s k aid h hm => (exec_meetq ..).trans (run_go h rfl ?_),
      fun s k aid h hv => (exec_meetq ..).trans (run_go h rfl ?_)⟩⟩
  · obtain ⟨hv, hb⟩ := hk
    have hb' : luggageFault (s.act aid) ((s.act aid).s b.toNat) = none := hb
    simp only [hv, Bool.false_eq_true, if_false, hb']
    rfl
  · obtain ⟨hv, hb⟩ := hk
    have hb' : luggageFault (s.act aid) ((s.act aid).s b.toNat) = some n := hb
    simp only [hv, Bool.false_eq_true, if_false, hb', luggageTrap]
  · simp only [Act.met_eq_some hk]
  · simp only [Act.met_eq_none hv, partnerTrap]
  · obtain ⟨⟨hm, hp, hs⟩, ⟨ho, hsrc, hn⟩, h0⟩ := hk
    have h0' : (s.act aid).s c.toNat = 0 := BitVec.eq_of_toNat_eq h0
    simp only [exchangePartner_here (Act.met_eq_some hm) hp hs, List.find?_cons, List.find?_nil, ho, hsrc, h0', if_true,
      ne_eq, not_true_eq_false, decide_false]
    rfl
  · obtain ⟨⟨hm, hp, hs⟩, ⟨ho, hsrc, hn⟩, h0, ha, ⟨q, hq, hl⟩, hb1, hb2⟩ := hk
    have h0' : (s.act aid).s c.toNat ≠ 0 := fun e => h0 (congrArg BitVec.toNat e)
    simp only [exchangePartner_here (Act.met_eq_some hm) hp hs, List.find?_cons, List.find?_nil, ho, hsrc, hn, h0', if_false,
      ne_eq, not_true_eq_false, decide_false, ha, hq, Nat.not_lt.mpr hl, hb1, hb2, Bool.or_self, Bool.false_eq_true]
    rfl
  · simp only [Act.met_eq_some hm]
    rfl
  · simp only [Act.met_eq_none hv]
    rfl

/-! ## Work and launches (R264..R267) -/

theorem deadTrap_live {x : Act} {r : RegName} (h : x.live r = true) : deadTrap x [r] = none := by
  simp [deadTrap, h]

theorem poisonTrap_clean {x : Act} {r : RegName} (h : x.poison? r = none) : poisonTrap x [r] = none := by
  simp [poisonTrap, h]

/-- A word whose descriptor or record holds no poison goes on. -/
theorem cleanBlock_clean {s : State} {c aid p : Nat} {x : Act} {o : Word64} {r : Res} (h : x.lmCheck 0 o 64 64 = .ok p)
    (hp : s.lmPoisonOf c p 64 = none) : cleanBlock s c aid x o r = r := by
  simp only [cleanBlock, blockPoison, h, hp]

/-- A record in local memory that no access is held back from, without poison, and with an argument that is live and clean if it
names one, is read (R266). -/
theorem launchRecord_ok {s : State} {c opcode p : Nat} {x : Act} {a kc : BitVec 6}
    (h : x.lmCheck opcode (x.s a.toNat) 64 64 = .ok p) (hp : s.lmPoisonOf c p 64 = none)
    (hk : (LaunchRec.ofBytes (s.lmRead c p 64)).argPresent = true →
      x.live (kreg kc.toNat) = true ∧ x.poison? (kreg kc.toNat) = none) :
    launchRecord s c x opcode a kc = .ok (s.lmRead c p 64, LaunchRec.ofBytes (s.lmRead c p 64)) := by
  simp only [launchRecord, h, hp]
  cases hr : (LaunchRec.ofBytes (s.lmRead c p 64)).argPresent with
  | false => rfl
  | true =>
    obtain ⟨hl, hc⟩ := hk hr
    simp only [if_true, deadTrap_live hl, poisonTrap_clean hc]

theorem launchHeld_eq {s : State} {c p : Nat} {x : Act} {a : BitVec 6} (h : x.lmCheck 0xAD (x.s a.toNat) 64 64 = .ok p) :
    launchHeld s c x a = s.lmBusy c p 64 false := by
  simp only [launchHeld, h]

/-- A code capability that is valid, clean and grants X may be launched. -/
theorem launchCap_ok {k : KReg} {kb : Nat} (h : k.valid = true ∧ k.reserved = false ∧ hasRights k.rights rX = true) :
    launchCap k kb = none := by
  obtain ⟨hv, hr, hx⟩ := h
  simp [launchCap, hv, hr, hx]

theorem launchCap_invalid {k : KReg} {kb : Nat} (h : k.valid = false) : launchCap k kb = some (mkTrap cCAPTAG kb) := by
  simp [launchCap, h]

/-- Settles O24: TAKE and SHARE start their request; LAUNCH and LAUNCHQ read their record (`launchRecord_ok`) and judge it. -/
theorem workAndLaunchComplete : Obligations.WorkAndLaunchComplete := by
  unfold Obligations.WorkAndLaunchComplete
  intro d a b c p n cl
  refine ⟨fun s k aid h _ => (exec_take ..).trans (run_go h rfl rfl),
    fun s k aid h _ => (exec_share ..).trans (run_go h rfl rfl), fun s k aid h hk => (exec_launch ..).trans (run_go h rfl ?_),
    fun s k aid h hk => (exec_launch ..).trans (run_trap h rfl ?_),
    fun s k aid h hk => (exec_launchq ..).trans (run_go h rfl ?_),
    fun s k aid h hk => (exec_launchq ..).trans (run_go h rfl ?_),
    fun s k aid h hk => (exec_launchq ..).trans (run_go h rfl ?_)⟩
  all_goals
    obtain ⟨⟨hal, hin, hb, hc, harg⟩, hk⟩ := hk
    simp only [launchHeld_eq (Act.lmCheck_ok hal hin), hb, Bool.false_eq_true, if_false,
      cleanBlock_clean (Act.lmCheck_ok hal hin) hc, launchRecord_ok (Act.lmCheck_ok hal hin) hc harg]
  · obtain ⟨hd, hx⟩ := hk
    simp only [hd, launchCap_ok hx]
  · simp only [hk]
  · obtain ⟨hd, hx⟩ := hk
    simp only [hd, launchCap_ok hx]
    rfl
  · simp only [hk]
    rfl
  · obtain ⟨hd, hv⟩ := hk
    simp only [hd, launchCap_invalid hv]
    rfl

end Sys2Proof.Machine
end

section
/-! Units that finish, ports that pass, traps, interrupts and machine checks: what each event does. -/
namespace Sys2Proof.Machine

/-! ## Units (R44, R113, R200, R208, R258) -/

theorem natToBytes_length (n x : Nat) : (natToBytes n x).length = n := by
  induction n generalizing x with
  | zero => rfl
  | succ n ih => simp [natToBytes, ih]

/-- The four bytes of a scattered element are all written. -/
theorem wholeMask (x : Nat) : (natToBytes 4 x).map (fun _ => true) = List.replicate 4 true := by
  rw [List.map_const', natToBytes_length]

/-- The division that a core's divider holds ends with its result. -/
theorem divideComplete_lands {s : State} {core oid d : Nat} {o : Op} {x : Word64}
    (h : s.ops.find? (fun y => y.2.kind.divOn core) = some (oid, o)) (hk : o.kind = .div core d x) (hl : s.canLand o = true) :
    exec (.divideComplete core) s = .next (s.clearTag oid o (if d = 0 then [] else [wS d x])) := by
  rw [exec_divideComplete]
  simp only [execDivideComplete, h, hk, hl, if_true]

theorem matrixUnitWordDone_performs {s : State} {core oid : Nat} {o : Op} {rest : List Nat} {w : MatWord}
    (hq : (s.core core).mqueue = oid :: rest) (ho : s.op? oid = some o) (hk : o.kind = .matrix core w)
    (hr : s.matReady o w = true) : exec (.matrixUnitWordDone core) s = .next (s.matPerform core oid o w) := by
  rw [exec_matrixUnitWordDone]
  simp only [execMatrixUnitWordDone, hq, ho, hk, hr, if_true]

section
variable {s : State} {oid : Nat} {o : Op} (ho : s.op? oid = some o) (hl : s.canLand o = true)
include ho hl

theorem onQuadAccessDone_ldq {q off n d : Nat} {sx : Bool} (hk : o.kind = .ldq q off n sx d) (hd : d ≠ 0)
    (ht : s.scratchTurn o = true) (hp : s.qsPoisonOf q off n = none) :
    exec (.onQuadAccessDone oid) s = .next (s.clearTag oid o [wS d (extendLoad sx (s.qsRead q off n))]) := by
  rw [exec_onQuadAccessDone]
  simp only [execOnQuadAccessDone, ho, hl, hk, ht, hp, hd, Bool.not_true, Bool.false_eq_true, if_false]
  rfl

theorem onQuadAccessDone_stq {q off : Nat} {bs : List Byte} {mask : List Bool} (hk : o.kind = .stq q off bs mask)
    (ht : s.scratchTurn o = true) :
    exec (.onQuadAccessDone oid) s = .next (((s.boundOf o).qsWrite (s.act o.act).gang q off bs mask
      (decide (bs.length = 64))).clearTag oid o []) := by
  rw [exec_onQuadAccessDone]
  simp only [execOnQuadAccessDone, ho, hl, hk, ht, Bool.not_true, Bool.false_eq_true, if_false]
  rfl

theorem onQuadAccessDone_vldq {q off d : Nat} {tag : BitVec 5} {bw : BitVec 32} (hk : o.kind = .vldq q off tag bw d)
    (ht : s.scratchTurn o = true) (hp : s.qsPoisonOf q off 64 = none) :
    exec (.onQuadAccessDone oid) s = .next (s.clearTag oid o
      [wV d { data := BitVec.ofNat 512 (bytesToNat (s.qsRead q off 64)), tag := tag, bw := bw }]) := by
  rw [exec_onQuadAccessDone]
  simp only [execOnQuadAccessDone, ho, hl, hk, ht, hp, Bool.not_true, Bool.false_eq_true, if_false]
  rfl

/-- A gather of lines that hold no poison writes their elements. -/
theorem onQuadAccessDone_gather {c d : Nat} {offs : List (Nat × Nat)} {tag : BitVec 5} (hk : o.kind = .gather c offs tag d)
    (hp : ∀ y ∈ offs, s.lmPoisonOf c y.2 4 = none) :
    exec (.onQuadAccessDone oid) s = .next (s.clearTag oid o [wV d { tag := tag, data := vecOf 32 ((List.range 16).map (fun i =>
      match offs.find? (fun y => y.1 == i) with | some y => bytesToNat (s.lmRead c y.2 4) | none => 0)) }]) := by
  have hn : offs.filterMap (fun x => s.lmPoisonOf c x.2 4) = [] := List.filterMap_eq_nil_iff.mpr hp
  rw [exec_onQuadAccessDone]
  simp only [execOnQuadAccessDone, ho, hl, hk, hn, Bool.not_true, Bool.false_eq_true, if_false]
  rfl

theorem onQuadAccessDone_scatter {c : Nat} {items : List (Nat × BitVec 32)} (hk : o.kind = .scatter c items) :
    exec (.onQuadAccessDone oid) s = .next ((items.foldl (fun (u : State) y =>
      u.lmWrite (s.act o.act).gang c y.1 (natToBytes 4 y.2.toNat) (List.replicate 4 true) false) s).clearTag oid o []) := by
  rw [exec_onQuadAccessDone]
  simp only [execOnQuadAccessDone, ho, hl, hk, wholeMask, Bool.not_true, Bool.false_eq_true, if_false]

theorem generatorCutterDone_lands {c : Nat} {ws : List RegWrite} (hk : o.kind = .gen c ws) :
    exec (.generatorCutterDone oid) s = .next (s.clearTag oid o ws) := by
  rw [exec_generatorCutterDone]
  simp only [execGeneratorCutterDone, ho, hk, hl, if_true]

theorem fixedTimeTagClear_lands {ws : List RegWrite} (hk : o.kind = .fixedTime ws) :
    exec (.fixedTimeTagClear oid) s = .next (s.clearTag oid o ws) := by
  rw [exec_fixedTimeTagClear]
  simp only [execFixedTimeTagClear, ho, hk, hl, if_true]

end

theorem fixedTimeTagClear_xlug {s : State} {oid core d off len : Nat} {o : Op} (ho : s.op? oid = some o)
    (hk : o.kind = .xlug core d off len) : exec (.fixedTimeTagClear oid) s =
      .next ((s.luggageCopy (s.act o.act).gang core d off len).clearTag oid o []) := by
  rw [exec_fixedTimeTagClear]
  simp only [execFixedTimeTagClear, ho, hk]

/-! ## The port, traps, interrupts and machine checks (R25, R148, R295, R298) -/

theorem isArmature_eq_false {c : Nat} (h : c < 2048) : isArmature c = false := decide_eq_false (Nat.not_le.mpr h)

theorem trapEntry_enters {s : State} {aid : Nat} {t : TrapReq} (hd : (s.act aid).duePend = some t)
    (hr : (s.act aid).run = .inService) (hq : s.quiet aid = true)
    (hh : s.haltedCore (s.act aid).core = false ∨ (s.act aid).tip = true) :
    exec (.trapEntry aid) s = .next ((s.setAct aid { s.act aid with trapPend := none }).enterTrap aid t) := by
  have hb : (!(s.haltedCore (s.act aid).core && !(s.act aid).tip)) = true := by
    rcases hh with hh | hh <;> simp [hh]
  rw [exec_trapEntry]
  simp only [execTrapEntry, hd, hr, hq, hb, beq_self_eq_true, Bool.and_self, if_true]

theorem interruptTaken_takes {s : State} {aid : Nat} {t : TrapReq} (hi : s.interruptOf (s.act aid) = some t)
    (hp : (s.act aid).trapPend = none) (hr : (s.act aid).run = .inService) (hh : s.haltedCore (s.act aid).core = false) :
    exec (.interruptTaken aid) s = .next (s.takeTrap aid t) := by
  rw [exec_interruptTaken]
  simp only [execInterruptTaken, hi, hp, hr, hh, beq_self_eq_true, Bool.not_false, Bool.and_self, if_true]

/-- A machine-check record of a core is posted to its MCSTAT (R148). -/
def State.postedCheck (s : State) (core : Nat) (record : Word64) : State :=
  s.setCore core { s.core core with mcstat := postCheck (s.core core).mcstat record }

/-- The die of a compute core counts the error whose record is posted. -/
def State.countedCheck (s : State) (core : Nat) (record : Word64) : State :=
  (s.postedCheck core record).setDie (coreDie core) { (s.postedCheck core record).die (coreDie core) with
    ueCount := ((s.postedCheck core record).die (coreDie core)).ueCount + 1 }

section
variable {s : State} {core : Nat} {record : Word64} (h : core < 2048)
include h

/-- On a compute core a machine check asserts no cross-alarm: what is left is its record, its count and its trap. -/
theorem machineCheckError_compute : exec (.machineCheckError core record) s = .next (s.machineCheck core record) := by
  rw [exec_machineCheckError, execMachineCheckError, if_neg (by omega)]

theorem machineCheck_traps {aid : Nat} (hp : (s.countedCheck core record).portAct core = some aid) :
    s.machineCheck core record = (s.countedCheck core record).takeTrap aid
      { cause := cMCHECK, detail := ((s.countedCheck core record).core core).mcstat &&& 0x00FFFFFFFFFFFFFF, addr := 0
        word := ((s.countedCheck core record).act aid).pc } := by
  unfold State.countedCheck State.postedCheck at hp
  simp only [State.machineCheck, isArmature_eq_false h, Bool.false_eq_true, if_false, false_and, hp]
  rfl

theorem machineCheck_free (hp : (s.countedCheck core record).portAct core = none) :
    s.machineCheck core record = s.countedCheck core record := by
  unfold State.countedCheck State.postedCheck at hp
  simp only [State.machineCheck, isArmature_eq_false h, Bool.false_eq_true, if_false, false_and, hp]
  rfl

end

/-- Settles O28, event by event. -/
theorem unitAndContextEventsHappen : Obligations.UnitAndContextEventsHappen := by
  unfold Obligations.UnitAndContextEventsHappen
  refine ⟨fun core aid oid o rest w d n off len x sx bs mask tag bw offs items ws => ⟨fun s h => ?_,
      fun s ⟨h, hk, hl⟩ => divideComplete_lands h hk hl,
      fun s ⟨hq, ho, hk, hr⟩ => matrixUnitWordDone_performs hq ho hk hr,
      fun s ⟨⟨ho, hk, hl⟩, hd, ht, hp⟩ => onQuadAccessDone_ldq ho hl hk hd ht hp,
      fun s ⟨⟨ho, hk, hl⟩, ht⟩ => onQuadAccessDone_stq ho hl hk ht,
      fun s ⟨⟨ho, hk, hl⟩, ht, hp⟩ => onQuadAccessDone_vldq ho hl hk ht hp,
      fun s ⟨⟨ho, hk, hl⟩, hp⟩ => onQuadAccessDone_gather ho hl hk hp,
      fun s ⟨ho, hk, hl⟩ => onQuadAccessDone_scatter ho hl hk, fun s ⟨ho, hk, hl⟩ => generatorCutterDone_lands ho hl hk,
      fun s ⟨ho, hk, hl⟩ => fixedTimeTagClear_lands ho hl hk, fun s ⟨ho, hk⟩ => fixedTimeTagClear_xlug ho hk⟩,
    fun core aid h n t v record => ⟨fun s ⟨hh, hg⟩ => ?_, fun s ⟨hh, hf⟩ => ?_,
      fun s ⟨hd, hr, hq, hh⟩ => trapEntry_enters hd hr hq hh, fun s hk => ?_,
      fun s ⟨hi, hp, hr, hh⟩ => interruptTaken_takes hi hp hr hh, fun s hk => ?_, fun s hk => ?_, fun s ⟨hc, hp⟩ => ?_,
      fun s ⟨hc, hp⟩ => ?_⟩⟩
  · rw [exec_fixedLatencyWriteback]
    simp only [execFixedLatencyWriteback, h]
  · rw [exec_contextSwitch]
    simp only [execContextSwitch, hh, hg, if_true]
  · rw [exec_portResume]
    simp only [execPortResume, hh, hf]
  · rw [exec_timerMatch]
    exact if_pos hk
  · rw [exec_timecmpWrite]
    exact if_pos hk
  · rw [exec_extpendWrite]
    exact if_pos hk
  · exact (machineCheckError_compute hc).trans (congrArg Host.Outcome.next (machineCheck_traps hc hp))
  · exact (machineCheckError_compute hc).trans (congrArg Host.Outcome.next (machineCheck_free hc hp))

end Sys2Proof.Machine
end

section
/-! Crews and gangs: dispatch, swapping, pre-emption, the sweep, the checks of time, endings and replays. -/
namespace Sys2Proof.Machine

/-! ## Crews (R18, R20, R35, R299, R302) -/

/-- A gang outside BSP whose next crew fits a place has it dispatched there. -/
theorem crewDispatch_places {s : State} {gid n : Nat} {q : Place} (hd : (s.gang gid).due = some (n, false))
    (hr : s.dispatchable gid = true) (ho : s.outranked (s.gang gid) = false)
    (hp : s.placeable false (s.gang gid).part (s.gang gid).lrec = true) (hb : (s.gang gid).lrec.bsp = false)
    (hf : s.findPlace s.holdings gid (s.gang gid) = some q) :
    exec (.crewDispatch gid) s = .next ((s.dispatchCrew gid n q).afterDispatch gid) := by
  rw [exec_crewDispatch]
  simp only [execCrewDispatch, hd, hr, ho, hp, hb, hf, Bool.true_eq_false, Bool.false_eq_true, or_self, false_and, if_false]

section
variable {s : State} {gid n : Nat} (hd : (s.gang gid).due = some (n, true)) (hr : s.dispatchable gid = true)
  (ho : s.outranked (s.gang gid) = false)
include hd hr ho

/-- A crew that was swapped out returns where it fits. -/
theorem crewSwapIn_returns {q : Place} (hf : s.findPlace s.holdings gid (s.gang gid) = some q) :
    exec (.crewSwapIn gid n) s = .next (s.swapIn gid n q) := by
  rw [exec_crewSwapIn]
  simp only [execCrewSwapIn, hd, hr, ho, and_self, if_true, hf]

/-- An evacuated crew that no quad can take back ends its gang, requeue-elsewhere. -/
theorem crewSwapIn_ends {cr : Crew} (hf : s.findPlace s.holdings gid (s.gang gid) = none)
    (hc : tableGet? (s.gang gid).crews n = some cr) (hn : s.canReturn (s.gang gid) cr = false) (he : cr.evacuated = true) :
    exec (.crewSwapIn gid n) s = .next (s.requestEnd gid 4 1) := by
  rw [exec_crewSwapIn]
  simp only [execCrewSwapIn, hd, hr, ho, and_self, if_true, hf, hc, hn, he, Bool.false_eq_true, if_false]

end

/-- A context that is not saved and can be is written to its save area. -/
theorem preemption_saves {s : State} {aid : Nat} (hr : (s.act aid).run ≠ .saved) (ht : (tableGet? s.acts aid).isSome = true)
    (hc : s.canSave aid = true) : exec (.preemption aid) s = .next ((s.saveContext aid).getD s) := by
  rw [exec_preemption]
  simp only [execPreemption, if_neg hr, ht, hc, and_self, if_true]

/-- A saved context resumes at home while its crew is resident and its core lives. -/
theorem preemption_resumes {s : State} {aid : Nat} {cr : Crew} (hr : (s.act aid).run = .saved)
    (hc : tableGet? (s.gang (s.act aid).gang).crews (s.act aid).crew = some cr) (hres : cr.resident = true)
    (hl : s.live (s.act aid).homeCore = true) (hs : s.saving = false) : exec (.preemption aid) s =
      .next (s.resumeContext aid (s.act aid).homeCore (s.act aid).homeSlot (s.act aid).tiles) := by
  rw [exec_preemption]
  simp only [execPreemption, hr, hc, hres, hl, hs, Bool.and_self, and_self, if_true]

theorem stallSweep_swaps {s : State} {gid n : Nat} (hd : s.dispatchable gid = true) (hs : s.stalled (s.gang gid) = true)
    (hf : s.findPlace s.holdings gid (s.gang gid) = none) (hl : s.longestParked (s.gang gid) = some n) :
    exec (.stallSweep gid) s = .next ((s.swapOut gid n).getD s) := by
  rw [exec_stallSweep]
  simp only [execStallSweep, hd, hs, hf, and_self, if_true, hl]

/-! ## Checks of time (R37, R303) -/

theorem cycleCheckExpiry_ends {s : State} {gid c t : Nat} {cr : Crew} (hl : (s.gang gid).lowest = some (c, cr))
    (hp : s.parkedSince cr = some t) (hc : (s.gang gid).lrec.cyclecheck = true) (ht : t + 1000000 ≤ s.tick)
    (hd : s.dispatchable gid = true) : exec (.cycleCheckExpiry gid) s = .next (s.requestEnd gid 5 3) := by
  rw [exec_cycleCheckExpiry]
  simp only [execCycleCheckExpiry, hl, hp, hc, ht, hd, and_self, if_true]

/-- A watchdog that neither rests nor pauses finds its limit reached at the count that a tick makes. -/
theorem watchGang_hits {s : State} {gid : Nat} {g : Gang} (hw : s.watchWaits gid = true) (hp : s.watchPaused gid = false)
    (hl : Config.watchdogLimit gid ≤ g.watch + 1) : (s.watchGang gid g).watchHit = true := by
  simp only [State.watchGang, hw, hp, Bool.not_true, Bool.false_eq_true, if_false, decide_eq_true hl, Bool.or_true]

/-! ## Endings and replays (R34, R328, R332, R333) -/

section
variable {s : State} {gid : Nat} {grade : BitVec 2} (hg : s.schedFree (s.gang gid).part = true ∧ (s.gang gid).unfinished = true
  ∧ (s.gang gid).stage ≠ .accepting ∧ s.ending gid = false)
include hg

/-- What keeps the scheduler from ending a gang does not hold for one that goes on. -/
theorem going_ends : ¬(s.schedFree (s.gang gid).part = false ∨ (s.gang gid).unfinished = false
    ∨ (s.gang gid).stage = .accepting ∨ s.ending gid = true) := by
  obtain ⟨hf, hu, ha, he⟩ := hg
  simp [hf, hu, ha, he]

theorem gangEnd_requested {kind gr : Nat} (hp : (s.gang gid).endPend = some (kind, gr)) :
    exec (.gangEnd gid grade) s = .next (s.requestEnd gid kind gr) := by
  rw [exec_gangEnd]
  simp only [execGangEnd, if_neg (going_ends hg), hp]

theorem gangEnd_fault {t : TrapReq} (hp : (s.gang gid).endPend = none) (hf : (s.gang gid).faultPend = some t)
    (hr : (s.gang gid).canReplay = false) :
    exec (.gangEnd gid grade) s = .next (s.requestEnd gid 0 (s.faultGrade (s.gang gid))) := by
  rw [exec_gangEnd]
  simp only [execGangEnd, if_neg (going_ends hg), hp, hf, hr, Option.isSome_some, and_self, if_true]

theorem gangEnd_software (hp : (s.gang gid).endPend = none) (hf : (s.gang gid).faultPend = none) :
    exec (.gangEnd gid grade) s = .next (s.requestEnd gid 8 (if (s.gang gid).unresumed then 0 else grade.toNat)) := by
  rw [exec_gangEnd]
  simp only [execGangEnd, if_neg (going_ends hg), hp, hf, Option.isSome_none, Bool.false_eq_true, false_and, if_false]

end

/-- A replay whose moulds can be read rolls its gang back, records it and counts itself. -/
theorem superstepReplay_rollsBack {s u : State} {gid : Nat} {t : TrapReq} (hp : (s.gang gid).endPend = none)
    (hf : (s.gang gid).faultPend = some t) (hr : (s.gang gid).canReplay = true) (ha : s.armatureLive = true)
    (hs : s.stoppable gid = true) (hm : s.moulding gid = false) (hb : s.slotsBack gid (s.gang gid).snap = true)
    (hu : s.rollBack gid = some u) : exec (.superstepReplay gid) s = .next
      ((u.gangRecord gid 0 true 0).setGang gid { (u.gangRecord gid 0 true 0).gang gid with
        replays := ((u.gangRecord gid 0 true 0).gang gid).replays + 1, faultPend := none, evacErr := false }) := by
  rw [exec_superstepReplay]
  simp only [execSuperstepReplay, hp, hf, hr, ha, hs, hm, hb, hu, Option.isNone_some, Option.isSome_none, Bool.false_eq_true,
    Bool.true_eq_false, or_self, if_false]

/-- Settles O32, event by event. -/
theorem crewAndGangEventsHappen : Obligations.CrewAndGangEventsHappen := by
  unfold Obligations.CrewAndGangEventsHappen
  refine ⟨fun gid n t c aid q cr =>
      ⟨fun s ⟨hd, ⟨hr, ho⟩, hp, hb, hf⟩ => crewDispatch_places hd hr ho hp hb hf,
      fun s ⟨hd, ⟨hr, ho⟩, hf⟩ => crewSwapIn_returns hd hr ho hf,
      fun s ⟨hd, ⟨hr, ho⟩, hf, hc, hn, he⟩ => crewSwapIn_ends hd hr ho hf hc hn he,
      fun s ⟨hr, ht, hc⟩ => preemption_saves hr ht hc,
      fun s ⟨hr, hc, hres, hl, hs⟩ => preemption_resumes hr hc hres hl hs,
      fun s ⟨hd, hs, hf, hl⟩ => stallSweep_swaps hd hs hf hl,
      fun s ⟨hl, hp, hc, ht, hd⟩ => cycleCheckExpiry_ends hl hp hc ht hd, fun s h => ?_,
      fun s g hw hp hl => watchGang_hits hw hp hl⟩,
    fun gid kind gr grade t u => ⟨fun s h => ?_, fun s ⟨hg, hp⟩ => gangEnd_requested hg hp,
      fun s ⟨hg, ⟨hp, hf⟩, hr⟩ => gangEnd_fault hg hp hf hr, fun s ⟨hg, hp, hf⟩ => gangEnd_software hg hp hf,
      fun s ⟨⟨hp, hf⟩, hr, ha, hs, hm, hb, hu⟩ => superstepReplay_rollsBack hp hf hr ha hs hm hb hu⟩⟩
  · rw [exec_barrierWatchdogExpiry]
    exact if_pos h
  · rw [exec_gangCompletion]
    exact if_pos h

end Sys2Proof.Machine
end

section
/-! Work that is handed out, and barriers: their arrivals, completions, releases and pod reports. -/
namespace Sys2Proof.Machine

/-! ## TAKE and SHARE (R26..R28) -/

section
variable {s : State} {oid : Nat} {o : Op} (ho : s.op? oid = some o) (hl : s.canLand o = true)
include ho hl

/-- TAKE is answered from the gang's pool, which shrinks by what it gives. -/
theorem takeServed_answers {d core : Nat} (hk : o.kind = .take d core) :
    let g := s.gang (s.act o.act).gang
    let r := takeAnswer g.lrec.pool g.poolLeft g.lrec.chunk (s.freq core)
    exec (.takeServed oid) s = .next ((s.setGang (s.act o.act).gang { g with poolLeft := g.poolLeft - r.2 }).clearTag oid o
      (statusWrites o (w64 (r.1 + r.2 * 2 ^ 32)))) := by
  rw [exec_takeServed]
  simp only [execTakeServed, ho, hk, hl, Bool.true_eq_false, if_false]

/-- SHARE is answered from the gang's snapshot. -/
theorem shareServed_answers {d t : Nat} {l : List ShareEntry} (hk : o.kind = .share d t)
    (hs : (s.gang (s.act o.act).gang).share = some l) :
    exec (.shareServed oid) s = .next (s.clearTag oid o (statusWrites o
      (w64 ((shareAnswer t (s.act o.act).rank l).1 + (shareAnswer t (s.act o.act).rank l).2 * 2 ^ 32)))) := by
  rw [exec_shareServed]
  simp only [execShareServed, ho, hk, hs, hl, Bool.true_eq_false, if_false]

end

/-! ## Arrivals (R30, R260, R331) -/

/-- The arrival that the tree receives of an activity. -/
def State.arrivalOf (s : State) (aid : Nat) (a : Act) (x : Sent) (h : Held) : Arrival :=
  { act := aid, core := a.core, pkg := if h.kind = 4 then Config.packageNumber.toNat else 0, tick := s.tick
    operand := x.operand, style := x.style }

/-- The state once the tree has taken an arrival, before it joins its barrier. -/
def State.arrivedState (s : State) (aid : Nat) (a : Act) (x : Sent) (h : Held) : State :=
  if s.instGang a h.kind = 0 then (s.arrivalTaken aid x).unreplayable a.gang else s.arrivalTaken aid x

section
variable {s : State} {aid : Nat} {a : Act} {x : Sent} {h : Held} (ha : s.act aid = a) (hx : a.sent = some x)
  (hh : a.held = some h)
include ha hx hh

/-- The first arrival at a barrier opens it. -/
theorem barrierArrival_opens (hf : (s.arrivedState aid a x h).findInst (s.instGang a h.kind) h.kind h.sid
      (a.arrivalCount h.kind h.sid) = none) :
    exec (.barrierArrival aid) s = .next { (s.arrivedState aid a x h).take.2 with
      insts := tableSet (s.arrivedState aid a x h).take.2.insts (s.arrivedState aid a x h).take.1
        { part := a.part, gang := s.instGang a h.kind, kind := h.kind, sid := h.sid, num := a.arrivalCount h.kind h.sid
          rect := if h.kind = 5 then h.sid else 0, origin := a.homeCore, arrivals := [s.arrivalOf aid a x h] } } := by
  unfold State.arrivedState at hf
  rw [exec_barrierArrival]
  simp only [execBarrierArrival, ha, hx, hh, hf]
  rfl

variable {n : Nat} {i : Inst} {y : Arrival} (hf : (s.arrivedState aid a x h).findInst (s.instGang a h.kind) h.kind h.sid
  (a.arrivalCount h.kind h.sid) = some (n, i)) (hy : i.arrivals.find? (fun z => z.act ≠ 0) = some y)
include hf hy

/-- A later arrival of the same kind joins the barrier. -/
theorem barrierArrival_joins (hs : y.style = x.style) : exec (.barrierArrival aid) s =
    .next { s.arrivedState aid a x h with
      insts := tableSet (s.arrivedState aid a x h).insts n
        { i with arrivals := i.arrivals ++ [s.arrivalOf aid a x h] } } := by
  unfold State.arrivedState at hf
  rw [exec_barrierArrival]
  simp only [execBarrierArrival, ha, hx, hh, hf, hy, hs, ne_eq, not_true_eq_false, if_false]
  rfl

/-- An arrival of another kind ends its gang. -/
theorem barrierArrival_clashes (hs : y.style ≠ x.style) : exec (.barrierArrival aid) s =
    .next ((s.arrivedState aid a x h).requestEnd a.gang 0 3) := by
  unfold State.arrivedState at hf
  rw [exec_barrierArrival]
  simp only [execBarrierArrival, ha, hx, hh, hf, hy, hs, ne_eq, not_false_eq_true, if_true]
  rfl

end

/-! ## Completion (R29, R30, R32, R263, R348) -/

section
variable {s : State} {n : Nat} {i : Inst} (hi : s.inst? n = some i) (hd : i.done = none) (hr : i.arrivals ≠ [])
  (ha : s.allArrived i.gang i = true)
include hi hd hr ha

/-- A gang's barrier at which everyone has arrived completes, at package scope with the share snapshot. -/
theorem barrierComplete_finishes (hk : i.kind ≠ 6) (hg : i.gang ≠ 0) : exec (.barrierComplete n) s =
    .next (if i.kind = 3 then (s.finishInst n { i with pwr := s.powers } s.tick).takeShare i.gang
      else s.finishInst n { i with pwr := s.powers } s.tick) := by
  have hr' : i.arrivals.isEmpty = false := List.isEmpty_eq_false_iff.mpr hr
  rw [exec_barrierComplete]
  simp only [execBarrierComplete, hi, hd, hr', ha, hk, hg, Option.isSome_none, Bool.false_eq_true, Bool.true_eq_false, or_self,
    if_false]

end

/-- An SSTEP's barrier with the tick and the release delays of its completion. -/
def State.timedInst (s : State) (i : Inst) : Inst :=
  if i.early.isSome then i else { i with early := some s.tick, pwr := s.powers }

/-- The state that has noted them. -/
def State.notedInst (s : State) (n : Nat) (i : Inst) : State := { s with insts := tableSet s.insts n (s.timedInst i) }

theorem State.timedInst_gang (s : State) (i : Inst) : (s.timedInst i).gang = i.gang := by
  unfold State.timedInst
  split <;> rfl

theorem State.timedInst_arrivals (s : State) (i : Inst) : (s.timedInst i).arrivals = i.arrivals := by
  unfold State.timedInst
  split <;> rfl

section
variable {s : State} {n : Nat} {i : Inst} (hd : i.done = none) (hr : i.arrivals ≠ []) (ha : s.allArrived i.gang i = true)
  (hk : i.kind = 6) (hm : i.early = none → s.copiesDone i.gang none = true
    ∧ ((s.gangActs i.gang).map (·.1)).all s.matrixDone = true ∧ (s.gang i.gang).faultPend = none)
include hd hr ha hk hm

/-- Nothing holds back an SSTEP at which everyone has arrived and whose copies and matrix words have finished. -/
theorem sstep_enabled : ¬(i.done.isSome ∨ i.kind ≠ 6 ∨ i.arrivals.isEmpty = true ∨ s.allArrived i.gang i = false
    ∨ (i.early.isNone = true ∧ s.sstepMet i = false)) := by
  have hr' : i.arrivals.isEmpty = false := List.isEmpty_eq_false_iff.mpr hr
  simp only [hd, hk, hr', ha, Option.isSome_none, Bool.false_eq_true, Bool.true_eq_false, ne_eq, not_true_eq_false, false_or,
    not_and]
  intro he
  obtain ⟨hc, hx, hf⟩ := hm (Option.isNone_iff_eq_none.mp he)
  rw [List.all_map] at hx
  have hx' : (s.gangActs i.gang).all (fun x => s.matrixDone x.1) = true := hx
  simp only [State.sstepMet, hc, hx', hf, Option.isNone_none, Bool.and_self, Bool.true_eq_false, not_false_eq_true]

variable (hi : s.inst? n = some i)
include hi

/-- While a participant cannot be moulded, an SSTEP only notes its tick. -/
theorem sstepComplete_notes (hq : ((s.gangActs i.gang).map (·.1)).all (s.notedInst n i).mouldable = false) :
    exec (.sstepComplete n) s = .next (s.notedInst n i) := by
  unfold State.notedInst State.timedInst at hq
  rw [exec_sstepComplete]
  simp only [execSstepComplete, hi]
  rw [if_neg (sstep_enabled hd hr ha hk hm), if_pos hq]
  rfl

/-- Once every participant can be moulded the tiles are zero, the snapshot is retaken and an epoch opens. -/
theorem sstepComplete_opens (hq : ((s.gangActs i.gang).map (·.1)).all (s.notedInst n i).mouldable = true) :
    let done := (s.notedInst n i).finishInst n (s.timedInst i) ((s.timedInst i).early.getD s.tick)
    let t := (((s.gangActs i.gang).map (·.1)).foldl (fun (u : State) z => u.zeroTiles z) done).takeShare i.gang
    exec (.sstepComplete n) s =
      .next (t.openEpoch i.gang ((t.gang i.gang).epoch + 1) (some (barReport i.arrivals))) := by
  have hg := s.timedInst_gang i
  have hl := s.timedInst_arrivals i
  unfold State.notedInst at hq ⊢
  unfold State.timedInst at hq hg hl ⊢
  rw [exec_sstepComplete]
  simp only [execSstepComplete, hi]
  rw [if_neg (sstep_enabled hd hr ha hk hm), if_neg (by rw [hq]; decide)]
  simp only [hg, hl]

end

/-! ## Release (R31, R261) -/

/-- A barrier whose arrivals were not all plain releases an activity that holds it and whose waits may land: they clear with
the report, and AP is zero. -/
theorem barrierRelease_releases {s : State} {n aid : Nat} {a : Act} {h : Held} {i : Inst} {tk : Nat} {rep red : Word64}
    {waits : List (Nat × Op)} (hw : s.ops.filter (fun z => z.2.act == aid && z.2.kind.isBar) = waits) (ha : s.act aid = a)
    (hi : s.inst? n = some i) (hh : a.held = some h) (hg : i.gang = s.instGang a h.kind) (hb : i.heldBy h = true)
    (hc : i.released.contains aid = false) (hp : a.ap = true) (he : waits ≠ [])
    (hl : waits.all (fun z => s.canLand z.2) = true) (hr : s.releaseDue i a.part a.core = true)
    (hd : i.done = some (tk, rep, red)) (hs : i.arrivals.all (fun z => z.style == 0) = false) :
    let t := waits.foldl (fun (u : State) z => u.clearTag z.1 z.2 (barWrites z.2 rep red))
      (if i.kind = 0 then s else s.l1Clear a.core)
    let t := t.setAct aid { (t.act aid).setAp false with held := none }
    exec (.barrierRelease n aid) s =
      .next { t with insts := tableSet t.insts n { i with released := aid :: i.released } } := by
  have he' : waits.isEmpty = false := List.isEmpty_eq_false_iff.mpr he
  rw [exec_barrierRelease]
  simp only [execBarrierRelease, ha, hi, hh, hw, ← hg, hb, hc, hp, he', hl, hr, hd, hs, ne_eq, not_true_eq_false,
    Bool.true_eq_false, Bool.false_eq_true, or_self, if_false, Bool.false_and]

/-! ## Pod groups (R316) -/

/-- A pod group's barrier once a member's report is in it: the last one completes it. -/
def State.reportedInst (s : State) (n : Nat) (i j : Inst) : State :=
  let u : State := { s with insts := tableSet s.insts n j }
  if (s.podMembers (bits i.sid 15 0)).all j.reports.contains then u.finishInst n { j with pwr := u.powers } u.tick else u

section
variable {s : State} {n pkg : Nat} {i : Inst} (hi : s.inst? n = some i) (hg : i.gang = 0) (hd : i.done = none)
  (hm : pkg ∈ s.podMembers (bits i.sid 15 0)) (hr : pkg ∉ i.reports)
include hi hg hd hm hr

/-- This package reports once it is ready. -/
theorem podBarrierReport_own (ho : pkg = Config.packageNumber.toNat) (hp : s.podReady i = true) :
    exec (.podBarrierReport n pkg) s = .next (s.reportedInst n i { i with reports := i.reports ++ [pkg] }) := by
  have hm' : (s.podMembers (bits i.sid 15 0)).contains pkg = true := List.contains_iff_mem.mpr hm
  have hr' : i.reports.contains pkg = false := by simpa using hr
  rw [exec_podBarrierReport]
  simp only [execPodBarrierReport, hi, hg, hd, hm', hr', hp, ho.symm, ne_eq, not_true_eq_false, Option.isSome_none,
    Bool.true_eq_false, Bool.false_eq_true, and_false, or_self, if_false, if_true]
  rfl

/-- Another package's report brings two arrivals of its own, at ticks that have come. -/
theorem podBarrierReport_far (ho : pkg ≠ Config.packageNumber.toNat) : ∃ z1 z2 : Arrival,
    exec (.podBarrierReport n pkg) s = .next (({ s with draws := s.draws + 5 } : State).reportedInst n i
      { i with arrivals := i.arrivals ++ [z1, z2], reports := i.reports ++ [pkg] })
    ∧ z1.pkg = pkg ∧ z2.pkg = pkg ∧ z1.tick ≤ s.tick ∧ z2.tick ≤ s.tick := by
  have hm' : (s.podMembers (bits i.sid 15 0)).contains pkg = true := List.contains_iff_mem.mpr hm
  have hr' : i.reports.contains pkg = false := by simpa using hr
  rw [exec_podBarrierReport]
  simp only [execPodBarrierReport, hi, hg, hd, hm', hr', ho, ne_eq, not_true_eq_false, Option.isSome_none,
    Bool.true_eq_false, Bool.false_eq_true, false_and, or_self, if_false]
  exact ⟨_, _, rfl, rfl, rfl, Nat.le_of_lt_succ (Nat.mod_lt _ (Nat.succ_pos _)),
    Nat.le_of_lt_succ (Nat.mod_lt _ (Nat.succ_pos _))⟩

end

/-- Settles O33, event by event. -/
theorem workAndBarrierEventsHappen : Obligations.WorkAndBarrierEventsHappen := by
  unfold Obligations.WorkAndBarrierEventsHappen
  refine ⟨fun oid d core t o l => ⟨fun s ⟨ho, hk, hl⟩ => takeServed_answers ho hl hk,
      fun s ⟨⟨ho, hk, hl⟩, hs⟩ => shareServed_answers ho hl hk hs⟩,
    fun aid n pkg a x h i y tk rep red => ⟨fun s ⟨⟨ha, hx, hh⟩, hf⟩ => barrierArrival_opens ha hx hh hf,
      fun s ⟨⟨ha, hx, hh⟩, hf, hy, hs⟩ => barrierArrival_joins ha hx hh hf hy hs,
      fun s ⟨⟨ha, hx, hh⟩, hf, hy, hs⟩ => barrierArrival_clashes ha hx hh hf hy hs,
      fun s ⟨⟨hi, hd, hr, ha⟩, hk, h3, hg⟩ => ?_, fun s ⟨⟨hi, hd, hr, ha⟩, h3, hg⟩ => ?_,
      fun s ⟨⟨hi, hd, hr, ha⟩, hk, hm, hq⟩ => sstepComplete_notes hd hr ha hk hm hi hq,
      fun s ⟨⟨hi, hd, hr, ha⟩, hk, hm, hq⟩ => sstepComplete_opens hd hr ha hk hm hi hq,
      fun s ⟨ha, hi, hh, hg, hk, hs, hn, hc, hp, hw, hl, hr, hd, hp'⟩ => ?_,
      fun s ⟨⟨hi, hg, hd, hm, hr⟩, hp⟩ => podBarrierReport_own hi hg hd hm hr rfl hp,
      fun s ⟨hi, hg, hd, hm, hr⟩ ho => podBarrierReport_far hi hg hd hm hr ho⟩⟩
  · exact (barrierComplete_finishes hi hd hr ha hk hg).trans (congrArg Host.Outcome.next (if_neg h3))
  · exact (barrierComplete_finishes hi hd hr ha (by omega) hg).trans (congrArg Host.Outcome.next (if_pos h3))
  · have hb : i.heldBy h = true := by
      simp only [Inst.heldBy, hk, hs, hn, beq_self_eq_true, Bool.and_self]
    exact barrierRelease_releases rfl ha hi hh hg hb hc hp hw hl hr hd hp'

end Sys2Proof.Machine
end

section
/-! Vector arithmetic: sums, products, fused forms, absolute values and negations (R174..R176). -/
namespace Sys2Proof.Machine

/-! ## Words of fixed waits -/

/-- A word that waits for its tags and pd alone completes when its own part issues. -/
theorem completes_of_body {i : Instr} {cl : Clauses} {body : Nat → Nat → Act → State → Res} {ok : Nat → Act → State → Prop}
    {eff : Nat → Nat → Act → State → Eff} (hi : ∀ s, exec i s = run i cl {} noPre body s)
    (hb : ∀ s c aid, ok c (s.act aid) s → body c aid (s.act aid) s = .go (eff c aid (s.act aid) s)) :
    Completes i cl plainNeed ok eff :=
  fun s c aid h hk => (hi s).trans (run_go h rfl (hb s c aid hk))

/-- It raises a trap when its own part does. -/
theorem raises_of_body {i : Instr} {cl : Clauses} {body : Nat → Nat → Act → State → Res} {ok : Nat → Act → State → Prop}
    {t : Nat → Act → State → Trap} (hi : ∀ s, exec i s = run i cl {} noPre body s)
    (hb : ∀ s c aid, ok c (s.act aid) s → body c aid (s.act aid) s = .trap (t c (s.act aid) s)) :
    Raises i cl plainNeed ok t :=
  fun s c aid h hk => (hi s).trans (run_trap h rfl (hb s c aid hk))

/-- FORMAT of operand a has the bare tag as its detail (R296). -/
theorem formatTrap_a (v : VReg) : formatTrap v.t 0 = mkTrap cFORMAT v.tag.toNat := by
  rw [formatTrap, VReg.t, Nat.mod_eq_of_lt v.tag.isLt, Nat.zero_mul, Nat.add_zero]

/-! ## Sums, products and fused forms (R176) -/

theorem arithTag_of_int {t : Nat} (h : tagInt t = true) : arithTag t = true := by simp [arithTag, h]

theorem arithTag_of_float {t : Nat} (h : tagFloat t = true) : arithTag t = true := by simp [arithTag, h]

theorem arithTag_eq_false {t : Nat} (hi : tagInt t = false) (hf : tagFloat t = false) : arithTag t = false := by
  simp [arithTag, hi, hf]

/-- No tag is both an integer's and a floating-point number's (R65). -/
theorem tagInt_of_float {t : Nat} (h : tagFloat t = true) : tagInt t = false := by
  simp only [tagFloat, Bool.and_eq_true, decide_eq_true_eq] at h
  simp only [tagInt, Bool.and_eq_false_iff, decide_eq_false_iff_not]
  omega

theorem tagFloat_of_int {t : Nat} (h : tagInt t = true) : tagFloat t = false :=
  Bool.eq_false_iff.mpr fun hf => Bool.false_ne_true ((tagInt_of_float hf).symm.trans h)

/-- An exact value with the flags it already has, rounded once to a format (R57, R60). -/
def roundOnce (f : Fmt) (rm : Nat) (v : Val × BitVec 5) : FRes :=
  { code := (f.round .ieee rm 0 v.1).code, flags := (f.round .ieee rm 0 v.1).flags ||| v.2 }

section
variable {x : Act} {o : ArithOp} {mod : BitVec 4} {d : BitVec 6} {sat useC : Bool} {a b c : VReg}

/-- Sources of one tag that arithmetic takes raise nothing. -/
theorem arithTags_ok (ha : arithTag a.t = true) (hb : b.tag = a.tag) (hc : useC = true → c.tag = a.tag) :
    tagsFault arithTag a.t ((1, b.t) :: (if useC then [(2, c.t)] else [])) = none := by
  refine tagsFault_ok ha fun v hv => ?_
  rcases List.mem_cons.mp hv with rfl | hv
  · exact congrArg BitVec.toNat hb
  · cases useC with
    | false => exact absurd hv List.not_mem_nil
    | true =>
      obtain rfl := List.mem_singleton.mp hv
      exact congrArg BitVec.toNat (hc rfl)

/-- On integer tags: the exact integer, wrapped or clamped, in two cycles. -/
theorem arithRes_int (ha : tagInt a.t = true) (hb : b.tag = a.tag) (hc : useC = true → c.tag = a.tag)
    (hm : MergeOk x mod d a.tag) (st : State) :
    arithRes st x o mod d sat a b c useC = .go (maskedV st x mod d 2 (tagWidth a.t) a.tag (fun i => intRes a.t sat
      (o.onInt (intVal a.t (elem a.data (tagWidth a.t) i)) (intVal a.t (elem b.data (tagWidth a.t) i))
        (intVal a.t (elem c.data (tagWidth a.t) i))))) := by
  simp only [arithRes, arithTags_ok (arithTag_of_int ha) hb hc, tagFloat_of_int ha, ha, Bool.false_eq_true, and_false,
    if_false, if_true, maskedRes_ok hm]

/-- On floating-point tags: the exact value rounded once by ASW.RM, in four cycles. -/
theorem arithRes_float (ha : tagFloat a.t = true) (hb : b.tag = a.tag) (hc : useC = true → c.tag = a.tag)
    (hs : sat = false) (hm : MergeOk x mod d a.tag) (st : State) :
    arithRes st x o mod d sat a b c useC = .go (maskedV st x mod d 4 (tagWidth a.t) a.tag (fun i =>
      roundOnce (tagFmt a.t) x.rm (o.onVal x.rm ((tagFmt a.t).decode (elem a.data (tagWidth a.t) i))
        ((tagFmt a.t).decode (elem b.data (tagWidth a.t) i)) ((tagFmt a.t).decode (elem c.data (tagWidth a.t) i))))) := by
  simp only [arithRes, arithTags_ok (arithTag_of_float ha) hb hc, tagInt_of_float ha, hs, Bool.false_eq_true, false_and,
    if_false, maskedRes_ok hm]
  rfl

/-- Saturation on a floating-point tag raises FORMAT. -/
theorem arithRes_sat (ha : tagFloat a.t = true) (hb : b.tag = a.tag) (hc : useC = true → c.tag = a.tag) (hs : sat = true)
    (st : State) : arithRes st x o mod d sat a b c useC = .trap (mkTrap cFORMAT a.tag.toNat) := by
  simp only [arithRes, arithTags_ok (arithTag_of_float ha) hb hc, hs, ha, and_self, if_true, formatTrap_a]

/-- Another tag raises FORMAT. -/
theorem arithRes_bad (hi : tagInt a.t = false) (hf : tagFloat a.t = false) (st : State) :
    arithRes st x o mod d sat a b c useC = .trap (mkTrap cFORMAT a.tag.toNat) := by
  simp only [arithRes, tagsFault_bad (arithTag_eq_false hi hf), formatTrap_a]

end

section
variable {i : Instr} {cl : Clauses} {o : ArithOp} {mod : BitVec 4} {d a b c : BitVec 6} {sat useC : Bool}
  {others : List (BitVec 6)}
  (hi : ∀ s, exec i s = run i cl {} noPre (fun _ _ x st =>
    arithRes st x o mod d sat (x.v a.toNat) (x.v b.toNat) (x.v c.toNat) useC) s)
include hi

/-- A word of the arithmetic group on integer tags, and on a tag of no number. -/
theorem arithWord_int (hb : b ∈ others) (hc : useC = true → c ∈ others) :
    Completes i cl plainNeed
      (fun _ x _ => tagInt (x.v a.toNat).t = true ∧ (∀ r ∈ others, (x.v r.toNat).tag = (x.v a.toNat).tag)
        ∧ MergeOk x mod d (x.v a.toNat).tag)
      (fun _ _ x s => maskedV s x mod d 2 (tagWidth (x.v a.toNat).t) (x.v a.toNat).tag (fun i =>
        intRes (x.v a.toNat).t sat (o.onInt
          (intVal (x.v a.toNat).t (elem (x.v a.toNat).data (tagWidth (x.v a.toNat).t) i))
          (intVal (x.v a.toNat).t (elem (x.v b.toNat).data (tagWidth (x.v a.toNat).t) i))
          (intVal (x.v a.toNat).t (elem (x.v c.toNat).data (tagWidth (x.v a.toNat).t) i))))) ∧
    Raises i cl plainNeed (fun _ x _ => tagInt (x.v a.toNat).t = false ∧ tagFloat (x.v a.toNat).t = false)
      (fun _ x _ => mkTrap cFORMAT (x.v a.toNat).tag.toNat) :=
  ⟨completes_of_body hi fun s _ _ ⟨ha, ho, hm⟩ => arithRes_int ha (ho b hb) (fun h => ho c (hc h)) hm s,
    raises_of_body hi fun s _ _ ⟨hn, hf⟩ => arithRes_bad hn hf s⟩

/-- A word of the arithmetic group on floating-point tags, without and with sat. -/
theorem arithWord_float (hb : b ∈ others) (hc : useC = true → c ∈ others) :
    (sat = false → Completes i cl plainNeed
      (fun _ x _ => tagFloat (x.v a.toNat).t = true ∧ (∀ r ∈ others, (x.v r.toNat).tag = (x.v a.toNat).tag)
        ∧ MergeOk x mod d (x.v a.toNat).tag)
      (fun _ _ x s => maskedV s x mod d 4 (tagWidth (x.v a.toNat).t) (x.v a.toNat).tag (fun i =>
        roundOnce (tagFmt (x.v a.toNat).t) x.rm (o.onVal x.rm
          ((tagFmt (x.v a.toNat).t).decode (elem (x.v a.toNat).data (tagWidth (x.v a.toNat).t) i))
          ((tagFmt (x.v a.toNat).t).decode (elem (x.v b.toNat).data (tagWidth (x.v a.toNat).t) i))
          ((tagFmt (x.v a.toNat).t).decode (elem (x.v c.toNat).data (tagWidth (x.v a.toNat).t) i)))))) ∧
    (sat = true → Raises i cl plainNeed
      (fun _ x _ => tagFloat (x.v a.toNat).t = true ∧ ∀ r ∈ others, (x.v r.toNat).tag = (x.v a.toNat).tag)
      (fun _ x _ => mkTrap cFORMAT (x.v a.toNat).tag.toNat)) :=
  ⟨fun hs => completes_of_body hi fun s _ _ ⟨ha, ho, hm⟩ =>
      arithRes_float ha (ho b hb) (fun h => ho c (hc h)) hs hm s,
    fun hs => raises_of_body hi fun s _ _ ⟨ha, ho⟩ => arithRes_sat ha (ho b hb) (fun h => ho c (hc h)) hs s⟩

end

/-! ## Absolute value and negation of integers -/

section
variable {x : Act} {mod : BitVec 4} {d : BitVec 6} {neg sat : Bool} {a : VReg}

theorem signRes_int (ha : tagInt a.t = true) (hm : MergeOk x mod d a.tag) (st : State) :
    signRes st x neg mod d sat a = .go (maskedV st x mod d 2 (tagWidth a.t) a.tag (fun i => intRes a.t sat
      (if neg then -(intVal a.t (elem a.data (tagWidth a.t) i))
        else ((intVal a.t (elem a.data (tagWidth a.t) i)).natAbs : Int)))) := by
  simp only [signRes, arithTag_of_int ha, tagFloat_of_int ha, ha, Bool.not_true, Bool.false_eq_true, and_false, if_false,
    if_true, maskedRes_ok hm]

theorem signRes_bad (hi : tagInt a.t = false) (hf : tagFloat a.t = false) (st : State) :
    signRes st x neg mod d sat a = .trap (mkTrap cFORMAT a.tag.toNat) := by
  simp only [signRes, arithTag_eq_false hi hf, Bool.not_false, if_true, formatTrap_a]

end

/-- VABS or VNEG on integer tags, where it computes f, and on a tag of no number. -/
theorem signWord_int {i : Instr} {cl : Clauses} {mod : BitVec 4} {d a : BitVec 6} {neg sat : Bool} {f : Int → Int}
    (hi : ∀ s, exec i s = run i cl {} noPre (fun _ _ x st => signRes st x neg mod d sat (x.v a.toNat)) s)
    (hf : ∀ e : Int, (if neg then -e else (e.natAbs : Int)) = f e) :
    Completes i cl plainNeed
      (fun _ x _ => tagInt (x.v a.toNat).t = true ∧ (∀ r ∈ ([] : List (BitVec 6)), (x.v r.toNat).tag = (x.v a.toNat).tag)
        ∧ MergeOk x mod d (x.v a.toNat).tag)
      (fun _ _ x s => maskedV s x mod d 2 (tagWidth (x.v a.toNat).t) (x.v a.toNat).tag (fun i =>
        intRes (x.v a.toNat).t sat
          (f (intVal (x.v a.toNat).t (elem (x.v a.toNat).data (tagWidth (x.v a.toNat).t) i))))) ∧
    Raises i cl plainNeed (fun _ x _ => tagInt (x.v a.toNat).t = false ∧ tagFloat (x.v a.toNat).t = false)
      (fun _ x _ => mkTrap cFORMAT (x.v a.toNat).tag.toNat) := by
  refine ⟨completes_of_body hi fun s _ _ ⟨ha, _, hm⟩ => (signRes_int ha hm s).trans ?_,
    raises_of_body hi fun s _ _ ⟨hn, hf⟩ => signRes_bad hn hf s⟩
  simp only [hf]

theorem natAbs_eq_ite (e : Int) : (e.natAbs : Int) = if e < 0 then -e else e := by
  split <;> omega

/-- Settles O12: the five words by `arithWord_int` and `arithWord_float`, VABS and VNEG on integers by `signWord_int`. -/
theorem vectorArithmeticCompletes : Obligations.VectorArithmeticCompletes := by
  unfold Obligations.VectorArithmeticCompletes
  have hb2 (b : BitVec 6) : b ∈ [b] := List.mem_singleton_self b
  have hb3 (b c : BitVec 6) : b ∈ [b, c] := List.mem_cons_self
  have hc3 (b c : BitVec 6) (_ : true = true) : c ∈ [b, c] := List.mem_cons_of_mem _ (hb2 c)
  refine ⟨fun mod d a b c imm cl => ⟨?_, ?_, ?_, ?_, ?_, ?_, ?_⟩, fun mod d a b c imm cl => ⟨?_, ?_, ?_, ?_, ?_⟩⟩
  · exact arithWord_int (o := opAdd) (c := b) (useC := false) (fun _ => rfl) (hb2 b) nofun
  · exact arithWord_int (o := opSub) (c := b) (useC := false) (fun _ => rfl) (hb2 b) nofun
  · exact arithWord_int (o := opMul) (c := b) (useC := false) (fun _ => rfl) (hb2 b) nofun
  · exact arithWord_int (o := opFma) (useC := true) (fun _ => rfl) (hb3 b c) (hc3 b c)
  · exact arithWord_int (o := opFms) (useC := true) (fun _ => rfl) (hb3 b c) (hc3 b c)
  · exact signWord_int (neg := false) (f := fun e => if e < 0 then -e else e) (fun _ => rfl) natAbs_eq_ite
  · exact signWord_int (neg := true) (f := fun e => -e) (fun _ => rfl) (fun _ => rfl)
  · exact arithWord_float (o := opAdd) (c := b) (useC := false) (fun _ => rfl) (hb2 b) nofun
  · exact arithWord_float (o := opSub) (c := b) (useC := false) (fun _ => rfl) (hb2 b) nofun
  · exact arithWord_float (o := opMul) (c := b) (useC := false) (fun _ => rfl) (hb2 b) nofun
  · exact arithWord_float (o := opFma) (useC := true) (fun _ => rfl) (hb3 b c) (hc3 b c)
  · exact arithWord_float (o := opFms) (useC := true) (fun _ => rfl) (hb3 b c) (hc3 b c)

end Sys2Proof.Machine
end

section
/-! Vector words that move elements, tags and planes (R184..R186, R189, R190). -/
namespace Sys2Proof.Machine

/-! ## Tags, block words and planes -/

/-- The low five bits of an immediate name a tag. -/
theorem ofNat_tagField (imm : BitVec 16) : BitVec.ofNat 5 (imm.toNat % 32) = imm.extractLsb' 0 5 := by
  apply BitVec.eq_of_toNat_eq
  simp

/-- The tags that VBCAST takes from its immediate: integers, floating point and FP8. -/
theorem broadcastTag_ok {t : Nat} (h : 1 ≤ t ∧ t ≤ 10) : (arithTag t || tagFp8 t) = true := by
  simp only [arithTag, tagInt, tagFloat, tagFp8, Bool.or_eq_true, Bool.and_eq_true, decide_eq_true_eq]
  omega

theorem planeTag_of {t : Nat} (h : t ≤ 2 ∨ tagBp t = true) : planeTag t = true := by
  simpa only [planeTag, Bool.or_eq_true, decide_eq_true_eq] using h

theorem tagBp_of_le {t : Nat} (h : t ≤ 2) : tagBp t = false := by
  simp only [tagBp, Bool.and_eq_false_iff, decide_eq_false_iff_not]
  omega

/-- The block word of a result: the one given under a tag that has one, else zero, which any such tag takes. -/
theorem bwOk_ite {t : Nat} {bw : BitVec 32} (h : tagBlock t = true → bwOk t bw = true) :
    bwOk t (if tagBlock t then bw else 0) = true := by
  split
  · next hb => exact h hb
  · next hb =>
    obtain ⟨hs, hp⟩ := Bool.or_eq_false_iff.mp (Bool.eq_false_iff.mpr hb)
    simp only [bwOk, hs, hp, Bool.false_eq_true, if_false]

/-- VPLANE's put takes RAW, I8, U8, and a bit-plane tag with the plane (R190). -/
theorem planePut_ok {t j : Nat} (h : t ≤ 2 ∨ (tagBp t = true ∧ j < t - 14)) :
    ¬((!planeTag t) = true ∨ (tagBp t = true ∧ bpK t ≤ j)) := by
  rintro (hn | ⟨hb, hj⟩)
  · rw [planeTag_of (h.imp_right And.left)] at hn
    exact Bool.false_ne_true hn
  · rcases h with h | ⟨_, h⟩
    · exact Bool.false_ne_true ((tagBp_of_le h).symm.trans hb)
    · exact Nat.not_le.mpr h hj

/-- The block word of both halves from one scale (R62). -/
theorem bothScales (e : BitVec 9) :
    BitVec.ofNat 32 (e.toNat + e.toNat * 2 ^ 16) = (0 : BitVec 7) ++ e ++ (0 : BitVec 7) ++ e := by
  apply BitVec.eq_of_toNat_eq
  have he := e.isLt
  have h0 : ((0 : BitVec 7) ++ e ++ (0 : BitVec 7)).toNat = e.toNat <<< 7 := by
    rw [BitVec.toNat_append, BitVec.toNat_append]
    simp
  rw [BitVec.toNat_append, h0, ← Nat.shiftLeft_add_eq_or_of_lt he, BitVec.toNat_ofNat]
  simp only [Nat.shiftLeft_eq]
  omega

/-- The scale of an element's half, as a number and as a field of the block word (R62). -/
theorem halfScale (bw : BitVec 32) (i : Nat) : (if i < 32 then bw.toNat % 512 else bw.toNat / 2 ^ 16 % 512) =
    (if i < 32 then bw.extractLsb' 0 9 else bw.extractLsb' 16 9).toNat := by
  split
  · rw [BitVec.extractLsb'_toNat, Nat.shiftRight_zero]
  · rw [BitVec.extractLsb'_toNat, Nat.shiftRight_eq_div_pow]

/-- A one-bit element is the bit. -/
theorem elem_one (x : BitVec 512) (i : Nat) : elem x 1 i = if x.getLsbD i then 1 else 0 := by
  rw [elem, Nat.one_mul, Nat.pow_one, ← Nat.toNat_testBit, BitVec.testBit_toNat, Bool.toNat, Bool.cond_eq_ite]

/-! ## Extraction and insertion (R185) -/

section
variable {mod : BitVec 4} {d a b : BitVec 6} {imm : BitVec 16} {cl : Clauses} {k : Act → Nat}

/-- VEXTR of the element that k names, sign-extended with an odd mod. -/
theorem vextr_takes {sx : Bool} (hm : mod ≠ 4) (hs : mod.getLsbD 0 = sx)
    (hk : ∀ x n, elemIndex x (decide (2 ≤ mod.toNat)) b imm n = k x % n) :
    Completes (.vextr mod d a b imm cl) cl plainNeed (fun _ x _ => (x.v a.toNat).t ≠ 0) (fun _ _ x s =>
      let w := tagWidth (x.v a.toNat).t
      let e := elem (x.v a.toNat).data w (k x % (512 / w))
      writeS s 2 d.toNat (if sx then BitVec.ofInt 64 (sextNat e w) else BitVec.ofNat 64 e)) := by
  refine completes_of_body (fun _ => exec_vextr ..) fun s _ _ ht => ?_
  simp only [if_neg hm, if_neg ht, hk, hs]
  rfl

/-- VINS at the element that k names keeps the others and the register's tag and block word. -/
theorem vins_puts (hm : mod ≠ 2) (hk : ∀ x n, elemIndex x (mod == 1) b imm n = k x % n) :
    Completes (.vins mod d a b imm cl) cl plainNeed (fun _ x _ => (x.v d.toNat).t ≠ 0) (fun _ _ x s =>
      let w := tagWidth (x.v d.toNat).t
      writeV s 2 d.toNat { x.v d.toNat with data := vecOf w ((List.range (512 / w)).map (fun i =>
        if i = k x % (512 / w) then (x.s a.toNat).toNat else elem (x.v d.toNat).data w i)) }) := by
  refine completes_of_body (fun _ => exec_vins ..) fun s _ _ ht => ?_
  simp only [if_neg hm, if_neg ht, hk]
  rfl

end

/-- Settles O16, word by word; the forms of VEXTR and VINS by `vextr_takes` and `vins_puts`. -/
theorem vectorElementMoves : Obligations.VectorElementMoves := by
  unfold Obligations.VectorElementMoves
  intro mod d a b imm cl
  have h10 : (1 : BitVec 4) ≠ 0 := by decide
  have h20 : (2 : BitVec 4) ≠ 0 := by decide
  have h21 : (2 : BitVec 4) ≠ 1 := by decide
  refine ⟨completes_of_body (fun _ => exec_vbcast ..) fun s _ aid ht => ?_,
    completes_of_body (fun _ => exec_vbcast ..) fun s _ aid ha => ?_,
    vextr_takes (by decide) rfl (fun _ _ => rfl), vextr_takes (by decide) rfl (fun _ _ => rfl),
    vextr_takes (by decide) rfl (fun _ _ => rfl), vextr_takes (by decide) rfl (fun _ _ => rfl),
    completes_of_body (fun _ => exec_vextr ..) fun _ _ _ _ => rfl,
    vins_puts (by decide) (fun _ _ => rfl), vins_puts (by decide) (fun _ _ => rfl),
    completes_of_body (fun _ => exec_vins ..) fun s _ aid ⟨hd, hb⟩ => ?_,
    completes_of_body (fun _ => exec_vperm ..) fun s _ aid ⟨ha, hb, hs, hm⟩ => ?_,
    completes_of_body (fun _ => exec_vretag ..) fun s _ aid ⟨ht, hb⟩ => ?_,
    completes_of_body (fun _ => exec_vplane ..) fun s _ aid ha => ?_,
    completes_of_body (fun _ => exec_vplane ..) fun s _ aid hd => ?_,
    completes_of_body (fun _ => exec_vplane ..) fun s _ aid ⟨ha, ht, hb⟩ => ?_⟩
  · simp only [if_true, broadcastTag_ok ht, Bool.not_true, Bool.false_eq_true, if_false, ofNat_tagField]
    rfl
  · have ha' : ¬((s.act aid).v a.toNat).t = 0 := ha
    simp only [if_neg h10, if_neg ha', halfScale, bothScales]
    rfl
  · have hd' : tagBlock ((s.act aid).v d.toNat).t = true := hd
    have hb' : bwOk ((s.act aid).v d.toNat).t _ = true := hb
    simp only [if_true, hd', hb', Bool.not_true, Bool.false_eq_true, if_false]
    rfl
  · have ha' : ¬((s.act aid).v a.toNat).t = 0 := ha
    have hb' : ¬2 < ((s.act aid).v b.toNat).t := Nat.not_lt.mpr hb
    simp only [if_neg ha', if_neg hb']
    exact (if_neg (not_and_not_right.mpr hs)).trans (maskedRes_ok hm ..)
  · simp only [ht, bwOk_ite hb, Bool.not_true, Bool.false_eq_true, if_false, ofNat_tagField]
    rfl
  · have ha' : planeTag ((s.act aid).v a.toNat).t = true := planeTag_of ha
    simp only [if_true, ha', Bool.not_true, Bool.false_eq_true, if_false, elem_one]
    rfl
  · simp only [if_neg h10]
    exact if_neg (planePut_ok hd)
  · have ha' : ¬(((s.act aid).v a.toNat).t ≠ 0 ∧ ((s.act aid).v a.toNat).t ≠ 2) := not_and_or.mpr
      (ha.imp not_not.mpr not_not.mpr)
    simp only [if_neg h20, if_neg h21, if_neg ha', ht, hb, Bool.not_true, Bool.false_eq_true, if_false, ofNat_tagField]
    rfl

end Sys2Proof.Machine
end

section
/-! Vector words that reduce, scan, scale and convert (R187, R188, R191). -/
namespace Sys2Proof.Machine

/-! ## The parts of a conversion (R188) -/

/-- Fewer source elements than destination elements: all of them, to the part's place. -/
theorem cvtParts_widens {ns nd part : Nat} (h : ns < nd) (hp : part < nd / ns) :
    cvtParts ns nd part = some (List.range ns, part * ns) := by
  rw [cvtParts, if_pos h, if_neg (Nat.not_le.mpr hp)]

/-- More: the part's, to the start. -/
theorem cvtParts_narrows {ns nd part : Nat} (h : nd < ns) (hp : part < ns / nd) :
    cvtParts ns nd part = some ((List.range nd).map (fun i => part * nd + i), 0) := by
  rw [cvtParts, if_neg (Nat.lt_asymm h), if_pos h, if_neg (Nat.not_le.mpr hp)]

/-- As many: all of them, to the start. -/
theorem cvtParts_same {n part : Nat} (h : part = 0) : cvtParts n n part = some (List.range n, 0) := by
  rw [cvtParts, if_neg (Nat.lt_irrefl n), if_neg (Nat.lt_irrefl n), if_neg (not_not.mpr h)]

theorem cvtDst_ok {t : Nat} (hk : tagKnown t = true) (h0 : t ≠ 0) (hb : tagBp t = false) : cvtDst t = true := by
  simp only [cvtDst, hk, h0, hb, ne_eq, not_false_eq_true, decide_true, Bool.not_false, Bool.and_self]

/-- Settles O17: once a word's own checks pass, what it answers is the statement's by definition; VCVT's draws by whether its
rounding mode is 4, and its parts by the three lemmas above. -/
theorem vectorReductionsAndConversion : Obligations.VectorReductionsAndConversion := by
  unfold Obligations.VectorReductionsAndConversion
  intro mod d a b c imm src start cl
  refine ⟨completes_of_body (fun _ => exec_vreduce ..) fun s _ aid ha => ?_,
    completes_of_body (fun _ => exec_vscan ..) fun s _ aid ha => ?_,
    completes_of_body (fun _ => exec_vqscale ..) fun s _ aid ha => ?_,
    completes_of_body (fun _ => exec_vcvt ..) fun s _ aid ⟨ha, hk, h0, hb, hp, hd, hw⟩ => ?_,
    fun _ _ => cvtParts_widens, fun _ _ => cvtParts_narrows, fun _ => cvtParts_same⟩
  · have ha' : arithTag ((s.act aid).v a.toNat).t = true := ha.elim arithTag_of_int arithTag_of_float
    simp only [ha', Bool.not_true, Bool.false_eq_true, if_false]
    rfl
  · have ha' : (tagInt ((s.act aid).v a.toNat).t || decide (((s.act aid).v a.toNat).t = 6)) = true :=
      (Bool.or_eq_true ..).mpr (ha.imp_right decide_eq_true)
    simp only [ha', Bool.not_true, Bool.false_eq_true, if_false]
    rfl
  · have ha' : tagFloat ((s.act aid).v a.toNat).t = true := ha
    simp only [ha', Bool.not_true, Bool.false_eq_true, if_false, max_comm (blockScale _ _)]
    rfl
  · have ha' : ¬((s.act aid).v a.toNat).t = 0 := ha
    have hp' : cvtParts (tagCount ((s.act aid).v a.toNat).t) (tagCount (imm.toNat % 32)) (imm.toNat / 32 % 8)
        = some (src, start) := hp
    simp only [if_neg ha', cvtDst_ok hk h0 hb, hp', hw, Bool.not_true, Bool.false_eq_true, if_false]
    refine (if_neg (not_and_not_right.mpr hd)).trans ?_
    rw [ofNat_tagField]
    by_cases hr : (if mod.toNat % 8 = 5 then (s.act aid).rm else mod.toNat % 8) = 4
    · have hr' : (if mod.toNat % 8 = 5 then bits (s.act aid).asw 9 8 else mod.toNat % 8) = 4 := hr
      simp only [if_pos hr', decide_eq_true hr, if_true]
      rfl
    · have hr' : ¬(if mod.toNat % 8 = 5 then bits (s.act aid).asw 9 8 else mod.toNat % 8) = 4 := hr
      simp only [if_neg hr', decide_eq_false hr, Bool.false_eq_true, if_false]
      rfl

end Sys2Proof.Machine
end

section
/-! Encoding and decoding (R91..R94, R108): the word of an instruction gives it back, and a word that decodes is its instruction's. -/
namespace Sys2Proof

/-! ## From an instruction to its word and back (R91, R108) -/

/-- The fields that an instruction is written from name that instruction: the round trip of each (R109). -/
theorem ofFields_toFields {i : Instr} : Laws.RoundTrip.Statement i := by
  cases i with
  | add => apply Laws.RoundTrip.add
  | sub => apply Laws.RoundTrip.sub
  | addi => apply Laws.RoundTrip.addi
  | mul => apply Laws.RoundTrip.mul
  | mulh => apply Laws.RoundTrip.mulh
  | mulhu => apply Laws.RoundTrip.mulhu
  | div => apply Laws.RoundTrip.div
  | divu => apply Laws.RoundTrip.divu
  | rem => apply Laws.RoundTrip.rem
  | remu => apply Laws.RoundTrip.remu
  | and => apply Laws.RoundTrip.and
  | or => apply Laws.RoundTrip.or
  | xor => apply Laws.RoundTrip.xor
  | andi => apply Laws.RoundTrip.andi
  | ori => apply Laws.RoundTrip.ori
  | xori => apply Laws.RoundTrip.xori
  | sll => apply Laws.RoundTrip.sll
  | srl => apply Laws.RoundTrip.srl
  | sra => apply Laws.RoundTrip.sra
  | slli => apply Laws.RoundTrip.slli
  | srli => apply Laws.RoundTrip.srli
  | srai => apply Laws.RoundTrip.srai
  | min => apply Laws.RoundTrip.min
  | max => apply Laws.RoundTrip.max
  | minu => apply Laws.RoundTrip.minu
  | maxu => apply Laws.RoundTrip.maxu
  | clz => apply Laws.RoundTrip.clz
  | popc => apply Laws.RoundTrip.popc
  | bfx => apply Laws.RoundTrip.bfx
  | bfi => apply Laws.RoundTrip.bfi
  | li => apply Laws.RoundTrip.li
  | lih => apply Laws.RoundTrip.lih
  | cmp => apply Laws.RoundTrip.cmp
  | cmpi => apply Laws.RoundTrip.cmpi
  | plog => apply Laws.RoundTrip.plog
  | pmov => apply Laws.RoundTrip.pmov
  | sel => apply Laws.RoundTrip.sel
  | tgt => apply Laws.RoundTrip.tgt
  | tgtr => apply Laws.RoundTrip.tgtr
  | movb => apply Laws.RoundTrip.movb
  | lcset => apply Laws.RoundTrip.lcset
  | lkmov => apply Laws.RoundTrip.lkmov
  | nop => apply Laws.RoundTrip.nop
  | srd => apply Laws.RoundTrip.srd
  | swr => apply Laws.RoundTrip.swr
  | trap => apply Laws.RoundTrip.trap
  | tret => apply Laws.RoundTrip.tret
  | exit => apply Laws.RoundTrip.exit
  | yield => apply Laws.RoundTrip.yield
  | time => apply Laws.RoundTrip.time
  | ident => apply Laws.RoundTrip.ident
  | wfi => apply Laws.RoundTrip.wfi
  | iflush => apply Laws.RoundTrip.iflush
  | brk => apply Laws.RoundTrip.brk
  | srset => apply Laws.RoundTrip.srset
  | srclr => apply Laws.RoundTrip.srclr
  | deadmk => apply Laws.RoundTrip.deadmk
  | liveq => apply Laws.RoundTrip.liveq
  | chk => apply Laws.RoundTrip.chk
  | crc32c => apply Laws.RoundTrip.crc32c
  | mchk => apply Laws.RoundTrip.mchk
  | xalm => apply Laws.RoundTrip.xalm
  | spdrd => apply Laws.RoundTrip.spdrd
  | rand => apply Laws.RoundTrip.rand
  | ldl => apply Laws.RoundTrip.ldl
  | stl => apply Laws.RoundTrip.stl
  | ldq => apply Laws.RoundTrip.ldq
  | stq => apply Laws.RoundTrip.stq
  | ld => apply Laws.RoundTrip.ld
  | st => apply Laws.RoundTrip.st
  | vldl => apply Laws.RoundTrip.vldl
  | vstl => apply Laws.RoundTrip.vstl
  | vldq => apply Laws.RoundTrip.vldq
  | vstq => apply Laws.RoundTrip.vstq
  | vld => apply Laws.RoundTrip.vld
  | vst => apply Laws.RoundTrip.vst
  | vgathl => apply Laws.RoundTrip.vgathl
  | vscatl => apply Laws.RoundTrip.vscatl
  | aadd => apply Laws.RoundTrip.aadd
  | alog => apply Laws.RoundTrip.alog
  | amnx => apply Laws.RoundTrip.amnx
  | aswp => apply Laws.RoundTrip.aswp
  | acas => apply Laws.RoundTrip.acas
  | afadd => apply Laws.RoundTrip.afadd
  | waitmem => apply Laws.RoundTrip.waitmem
  | fence => apply Laws.RoundTrip.fence
  | cld => apply Laws.RoundTrip.cld
  | cst => apply Laws.RoundTrip.cst
  | cnarrow => apply Laws.RoundTrip.cnarrow
  | cget => apply Laws.RoundTrip.cget
  | csetc => apply Laws.RoundTrip.csetc
  | pfetch => apply Laws.RoundTrip.pfetch
  | cinv => apply Laws.RoundTrip.cinv
  | signal => apply Laws.RoundTrip.signal
  | zerol => apply Laws.RoundTrip.zerol
  | movk => apply Laws.RoundTrip.movk
  | vadd => apply Laws.RoundTrip.vadd
  | vsub => apply Laws.RoundTrip.vsub
  | vmul => apply Laws.RoundTrip.vmul
  | vfma => apply Laws.RoundTrip.vfma
  | vfms => apply Laws.RoundTrip.vfms
  | vmin => apply Laws.RoundTrip.vmin
  | vmax => apply Laws.RoundTrip.vmax
  | vabs => apply Laws.RoundTrip.vabs
  | vneg => apply Laws.RoundTrip.vneg
  | vrcp => apply Laws.RoundTrip.vrcp
  | vrsq => apply Laws.RoundTrip.vrsq
  | vexp2 => apply Laws.RoundTrip.vexp2
  | vlog2 => apply Laws.RoundTrip.vlog2
  | vand => apply Laws.RoundTrip.vand
  | vor => apply Laws.RoundTrip.vor
  | vxor => apply Laws.RoundTrip.vxor
  | vshl => apply Laws.RoundTrip.vshl
  | vshr => apply Laws.RoundTrip.vshr
  | vcmp => apply Laws.RoundTrip.vcmp
  | vsel => apply Laws.RoundTrip.vsel
  | vbcast => apply Laws.RoundTrip.vbcast
  | vextr => apply Laws.RoundTrip.vextr
  | vins => apply Laws.RoundTrip.vins
  | vperm => apply Laws.RoundTrip.vperm
  | vreduce => apply Laws.RoundTrip.vreduce
  | vcvt => apply Laws.RoundTrip.vcvt
  | vretag => apply Laws.RoundTrip.vretag
  | vplane => apply Laws.RoundTrip.vplane
  | vqscale => apply Laws.RoundTrip.vqscale
  | vbnd => apply Laws.RoundTrip.vbnd
  | vscan => apply Laws.RoundTrip.vscan
  | vmovp => apply Laws.RoundTrip.vmovp
  | mzero => apply Laws.RoundTrip.mzero
  | mma => apply Laws.RoundTrip.mma
  | mmat => apply Laws.RoundTrip.mmat
  | mmas => apply Laws.RoundTrip.mmas
  | mmast => apply Laws.RoundTrip.mmast
  | mlda => apply Laws.RoundTrip.mlda
  | msta => apply Laws.RoundTrip.msta
  | mstq => apply Laws.RoundTrip.mstq
  | maddt => apply Laws.RoundTrip.maddt
  | mscl => apply Laws.RoundTrip.mscl
  | mrowv => apply Laws.RoundTrip.mrowv
  | mvrow => apply Laws.RoundTrip.mvrow
  | mtrn => apply Laws.RoundTrip.mtrn
  | mredr => apply Laws.RoundTrip.mredr
  | mshape => apply Laws.RoundTrip.mshape
  | mfmt => apply Laws.RoundTrip.mfmt
  | pload => apply Laws.RoundTrip.pload
  | pset => apply Laws.RoundTrip.pset
  | pget => apply Laws.RoundTrip.pget
  | pcount => apply Laws.RoundTrip.pcount
  | pgen => apply Laws.RoundTrip.pgen
  | pinv => apply Laws.RoundTrip.pinv
  | cutset => apply Laws.RoundTrip.cutset
  | cut => apply Laws.RoundTrip.cut
  | cutb => apply Laws.RoundTrip.cutb
  | mstat => apply Laws.RoundTrip.mstat
  | mstage => apply Laws.RoundTrip.mstage
  | msave => apply Laws.RoundTrip.msave
  | mrest => apply Laws.RoundTrip.mrest
  | mdot => apply Laws.RoundTrip.mdot
  | mbias => apply Laws.RoundTrip.mbias
  | mclamp => apply Laws.RoundTrip.mclamp
  | meet => apply Laws.RoundTrip.meet
  | part => apply Laws.RoundTrip.part
  | xreg => apply Laws.RoundTrip.xreg
  | xvreg => apply Laws.RoundTrip.xvreg
  | xlug => apply Laws.RoundTrip.xlug
  | meetq => apply Laws.RoundTrip.meetq
  | bar => apply Laws.RoundTrip.bar
  | bara => apply Laws.RoundTrip.bara
  | barw => apply Laws.RoundTrip.barw
  | sstep => apply Laws.RoundTrip.sstep
  | barred => apply Laws.RoundTrip.barred
  | take => apply Laws.RoundTrip.take
  | share => apply Laws.RoundTrip.share
  | launch => apply Laws.RoundTrip.launch
  | cpy => apply Laws.RoundTrip.cpy
  | cpyt => apply Laws.RoundTrip.cpyt
  | cpyw => apply Laws.RoundTrip.cpyw
  | cpyg => apply Laws.RoundTrip.cpyg
  | cpys => apply Laws.RoundTrip.cpys
  | cpyp => apply Laws.RoundTrip.cpyp
  | cpyr => apply Laws.RoundTrip.cpyr
  | cpwait => apply Laws.RoundTrip.cpwait
  | cpstat => apply Laws.RoundTrip.cpstat
  | stgwait => apply Laws.RoundTrip.stgwait
  | stgrel => apply Laws.RoundTrip.stgrel
  | stgset => apply Laws.RoundTrip.stgset
  | evwait => apply Laws.RoundTrip.evwait
  | evclr => apply Laws.RoundTrip.evclr
  | mould => apply Laws.RoundTrip.mould
  | tmark => apply Laws.RoundTrip.tmark
  | cpcan => apply Laws.RoundTrip.cpcan
  | launchq => apply Laws.RoundTrip.launchq
  | fixedLatencyWriteback => apply Laws.RoundTrip.fixedLatencyWriteback
  | divideComplete => apply Laws.RoundTrip.divideComplete
  | matrixUnitWordDone => apply Laws.RoundTrip.matrixUnitWordDone
  | onQuadAccessDone => apply Laws.RoundTrip.onQuadAccessDone
  | generatorCutterDone => apply Laws.RoundTrip.generatorCutterDone
  | contextSwitch => apply Laws.RoundTrip.contextSwitch
  | portResume => apply Laws.RoundTrip.portResume
  | trapEntry => apply Laws.RoundTrip.trapEntry
  | timerMatch => apply Laws.RoundTrip.timerMatch
  | interruptTaken => apply Laws.RoundTrip.interruptTaken
  | timecmpWrite => apply Laws.RoundTrip.timecmpWrite
  | extpendWrite => apply Laws.RoundTrip.extpendWrite
  | homePortAccess => apply Laws.RoundTrip.homePortAccess
  | deviceLoadReturn => apply Laws.RoundTrip.deviceLoadReturn
  | storeAccepted => apply Laws.RoundTrip.storeAccepted
  | atomicReply => apply Laws.RoundTrip.atomicReply
  | waitmemSatisfied => apply Laws.RoundTrip.waitmemSatisfied
  | reductionMergeApply => apply Laws.RoundTrip.reductionMergeApply
  | releaseWaitDone => apply Laws.RoundTrip.releaseWaitDone
  | l1LineExpiry => apply Laws.RoundTrip.l1LineExpiry
  | translationWalk => apply Laws.RoundTrip.translationWalk
  | otinvWrite => apply Laws.RoundTrip.otinvWrite
  | invalidationComplete => apply Laws.RoundTrip.invalidationComplete
  | migreqWrite => apply Laws.RoundTrip.migreqWrite
  | migrationRound => apply Laws.RoundTrip.migrationRound
  | migrationFreeze => apply Laws.RoundTrip.migrationFreeze
  | kicksetWrite => apply Laws.RoundTrip.kicksetWrite
  | kickclrWrite => apply Laws.RoundTrip.kickclrWrite
  | hostirqWrite => apply Laws.RoundTrip.hostirqWrite
  | lqbaseWrite => apply Laws.RoundTrip.lqbaseWrite
  | kickScan => apply Laws.RoundTrip.kickScan
  | kickTake => apply Laws.RoundTrip.kickTake
  | journalEntryAccepted => apply Laws.RoundTrip.journalEntryAccepted
  | launchSubmission => apply Laws.RoundTrip.launchSubmission
  | dependenceThreshold => apply Laws.RoundTrip.dependenceThreshold
  | crewDispatch => apply Laws.RoundTrip.crewDispatch
  | preemption => apply Laws.RoundTrip.preemption
  | stallSweep => apply Laws.RoundTrip.stallSweep
  | crewSwapIn => apply Laws.RoundTrip.crewSwapIn
  | cycleCheckExpiry => apply Laws.RoundTrip.cycleCheckExpiry
  | barrierWatchdogExpiry => apply Laws.RoundTrip.barrierWatchdogExpiry
  | gangCompletion => apply Laws.RoundTrip.gangCompletion
  | takeServed => apply Laws.RoundTrip.takeServed
  | shareServed => apply Laws.RoundTrip.shareServed
  | barrierArrival => apply Laws.RoundTrip.barrierArrival
  | barrierComplete => apply Laws.RoundTrip.barrierComplete
  | sstepComplete => apply Laws.RoundTrip.sstepComplete
  | barrierRelease => apply Laws.RoundTrip.barrierRelease
  | podBarrierReport => apply Laws.RoundTrip.podBarrierReport
  | meetArrival => apply Laws.RoundTrip.meetArrival
  | meetingCoreChosen => apply Laws.RoundTrip.meetingCoreChosen
  | meetLanded => apply Laws.RoundTrip.meetLanded
  | partLanded => apply Laws.RoundTrip.partLanded
  | meetTimeout => apply Laws.RoundTrip.meetTimeout
  | meetWithdrawal => apply Laws.RoundTrip.meetWithdrawal
  | copyLine => apply Laws.RoundTrip.copyLine
  | transferComplete => apply Laws.RoundTrip.transferComplete
  | copyFault => apply Laws.RoundTrip.copyFault
  | peerSignal => apply Laws.RoundTrip.peerSignal
  | linkRailFailure => apply Laws.RoundTrip.linkRailFailure
  | linkFlitRetry => apply Laws.RoundTrip.linkFlitRetry
  | linkDown => apply Laws.RoundTrip.linkDown
  | superstepReplay => apply Laws.RoundTrip.superstepReplay
  | gangEnd => apply Laws.RoundTrip.gangEnd
  | scrubLine => apply Laws.RoundTrip.scrubLine
  | retentionExit => apply Laws.RoundTrip.retentionExit
  | dieDrop => apply Laws.RoundTrip.dieDrop
  | crossAlarm => apply Laws.RoundTrip.crossAlarm
  | drainWrite => apply Laws.RoundTrip.drainWrite
  | pgenrWrite => apply Laws.RoundTrip.pgenrWrite
  | quadHalt => apply Laws.RoundTrip.quadHalt
  | quadHalted => apply Laws.RoundTrip.quadHalted
  | quadResume => apply Laws.RoundTrip.quadResume
  | debugStateWrite => apply Laws.RoundTrip.debugStateWrite
  | sampleBufferSetup => apply Laws.RoundTrip.sampleBufferSetup
  | proofArm => apply Laws.RoundTrip.proofArm
  | proofSnapshot => apply Laws.RoundTrip.proofSnapshot
  | dvreq => apply Laws.RoundTrip.dvreq
  | clockSwitch => apply Laws.RoundTrip.clockSwitch
  | dvfsPauseEnd => apply Laws.RoundTrip.dvfsPauseEnd
  | arrayGate => apply Laws.RoundTrip.arrayGate
  | arrayWake => apply Laws.RoundTrip.arrayWake
  | thermalWarning => apply Laws.RoundTrip.thermalWarning
  | emergencySaveCommit => apply Laws.RoundTrip.emergencySaveCommit
  | thermalTrip => apply Laws.RoundTrip.thermalTrip
  | triprecClear => apply Laws.RoundTrip.triprecClear
  | partmapWrite => apply Laws.RoundTrip.partmapWrite
  | packageReset => apply Laws.RoundTrip.packageReset
  | partitionReset => apply Laws.RoundTrip.partitionReset
  | attestationRequest => apply Laws.RoundTrip.attestationRequest
  | attestationDone => apply Laws.RoundTrip.attestationDone
  | tamperAlarm => apply Laws.RoundTrip.tamperAlarm
  | registerWrite => apply Laws.RoundTrip.registerWrite
  | fixedTimeTagClear => apply Laws.RoundTrip.fixedTimeTagClear
  | machineCheckError => apply Laws.RoundTrip.machineCheckError
  | temperatureFalls => apply Laws.RoundTrip.temperatureFalls
  | sbptrWrite => apply Laws.RoundTrip.sbptrWrite

/-- What the decoder answers for a word made of fields that name an instruction. -/
theorem decode_toWord {f : Fields} {i : Instr} {l : Layout} (hi : ofFields f = some i) (hl : layout i = some l)
    (hc : encodingFault l (tagged i) f = none) : decode f.toWord = .ok i := by
  simp only [decode, Fields.ofWord_toWord, hi, hl, hc]

/-- An instruction that is well formed has a layout and fields that pass every check. -/
theorem wellFormed_iff {i : Instr} :
    WellFormed i ↔ ∃ l f, layout i = some l ∧ toFields i = some f ∧ encodingFault l (tagged i) f = none := by
  unfold WellFormed wellFormed
  cases layout i with
  | none => simp
  | some l => cases toFields i <;> simp

/-- Settles O42: the word is made of fields that name the instruction and pass its checks. -/
theorem encodeThenDecode : Obligations.EncodeThenDecode := by
  unfold Obligations.EncodeThenDecode
  intro i w hw he
  obtain ⟨l, f, hl, hf, hc⟩ := wellFormed_iff.mp hw
  obtain rfl : f.toWord = w := by simpa [encode, hf] using he
  exact decode_toWord (ofFields_toFields f hf) hl hc

/-! ## No bit of a word is ignored (R93, R108) -/

theorem Fields.toWord_ofWord (w : Word80) : (Fields.ofWord w).toWord = w := by
  apply BitVec.eq_of_getLsbD_eq
  intro n hn
  simp only [Fields.toWord, Fields.ofWord, Clauses.toBits, Clauses.ofWord, BitVec.getLsbD_append, BitVec.getLsbD_extractLsb']
  interval_cases n <;> rfl

theorem lowestBit_eq_none {w : Word80} (h : lowestBit w = none) : w = 0 := by
  apply BitVec.eq_of_getLsbD_eq
  intro n hn
  simpa [hn] using List.find?_eq_none.mp h n (List.mem_range.mpr hn)

/-- Fields of two words that share no bit share none. -/
theorem Fields.and_eq_zero {g f : Fields} (h : g.toWord &&& f.toWord = 0) :
    g.d &&& f.d = 0 ∧ g.a &&& f.a = 0 ∧ g.b &&& f.b = 0 ∧ g.c &&& f.c = 0 ∧ g.mod &&& f.mod = 0 ∧ g.imm &&& f.imm = 0 := by
  have hg := Fields.ofWord_toWord g
  have hf := Fields.ofWord_toWord f
  have part (n k : Nat) {x y : BitVec k} (hx : g.toWord.extractLsb' n k = x) (hy : f.toWord.extractLsb' n k = y) :
      x &&& y = 0 := by
    rw [← hx, ← hy, ← BitVec.extractLsb'_and, h]; simp
  exact ⟨part 66 6 (congrArg Fields.d hg) (congrArg Fields.d hf), part 60 6 (congrArg Fields.a hg) (congrArg Fields.a hf),
    part 54 6 (congrArg Fields.b hg) (congrArg Fields.b hf), part 48 6 (congrArg Fields.c hg) (congrArg Fields.c hf),
    part 44 4 (congrArg Fields.mod hg) (congrArg Fields.mod hf), part 28 16 (congrArg Fields.imm hg) (congrArg Fields.imm hf)⟩

/-- The fields that a layout does not use are zero: what an accepted word holds beside what its instruction keeps (R93). -/
structure Layout.Clean (l : Layout) (f : Fields) : Prop where
  d : l.d = .no → f.d = 0
  a : l.a = .no → f.a = 0
  b : l.form ≠ .L → l.b = .no → f.b = 0
  c : l.form = .R → l.c = .no → f.c = 0
  mod : l.form = .R → l.mod.zero = 0xF ∨ l.mod.only0 = true → f.mod = 0
  imm : l.form = .R → l.immZero = 0xFFFF → f.imm = 0

/-- An unused register field's mask lets no bit through. -/
theorem FieldUse.eq_zero_of_no {u : FieldUse} {n : BitVec 6} (h : u.zero &&& n = 0) (hu : u = .no) : n = 0 := by
  subst hu
  have hm : FieldUse.no.zero = BitVec.allOnes 6 := rfl
  rwa [hm, BitVec.allOnes_and] at h

theorem ite_some_eq_none {α : Type} {c : Prop} [Decidable c] {x : α} {o : Option α} :
    (if c then some x else o) = none ↔ ¬c ∧ o = none := by
  split <;> simp [*]

/-- A word that passes the checks of its encoding has its mod defined and its unused bits zero (R93, R108). -/
theorem encodingFault_eq_none {l : Layout} {t : Bool} {f : Fields} (h : encodingFault l t f = none) :
    l.mod.bad f.mod = none ∧ zeroMask l f.cl &&& f.toWord = 0 := by
  unfold encodingFault at h
  split at h
  · cases h
  next hm =>
  refine ⟨hm, ?_⟩
  simp only [ite_some_eq_none] at h
  obtain ⟨-, -, -, -, -, -, -, -, h⟩ := h
  split at h
  · cases h
  split at h
  · cases h
  next hz => exact lowestBit_eq_none hz

theorem Layout.Clean.of_encodingFault {l : Layout} {t : Bool} {f : Fields} (h : encodingFault l t f = none) : l.Clean f := by
  obtain ⟨hm, hz⟩ := encodingFault_eq_none h
  obtain ⟨hd, ha, hb, hc, hmod, himm⟩ := Fields.and_eq_zero hz
  refine ⟨FieldUse.eq_zero_of_no hd, FieldUse.eq_zero_of_no ha, fun hf => ?_, fun hf => ?_, fun hf h => ?_, fun hf hi => ?_⟩
  · rw [if_neg hf] at hb; exact FieldUse.eq_zero_of_no hb
  · rw [if_pos hf] at hc; exact FieldUse.eq_zero_of_no hc
  · rcases h with h | h
    · have ho : (0xF : BitVec 4) = BitVec.allOnes 4 := rfl
      dsimp only at hmod
      rwa [if_pos hf, h, ho, BitVec.allOnes_and] at hmod
    · exact (show l.mod.ok = true ∧ f.mod = 0 by simpa [ModUse.bad, ite_some_eq_none, h] using hm).2
  · have ho : (0xFFFF : BitVec 16) = BitVec.allOnes 16 := rfl
    dsimp only at himm
    rwa [if_pos hf, hi, ho, BitVec.allOnes_and] at himm

/-- The instruction is written from these fields, when those that its layout does not use are zero. -/
def Fields.Kept (f : Fields) (i : Instr) : Prop := ∀ l, layout i = some l → l.Clean f → toFields i = some f

/-- An I-form's immediate laid back into the fields it was read from. -/
theorem Fields.setImm26_imm26 {g f : Fields} (h : { g with c := f.c, mod := f.mod, imm := f.imm } = f) :
    g.setImm26 f.imm26 = f := by
  rw [← h]
  simp (disch := omega) only [Fields.setImm26, Fields.imm26, extractLsb'_append_high, extractLsb'_append_low]
  simp only [Nat.reduceSub, extractLsb'_self]

/-- An L-form's. -/
theorem Fields.setImm32_imm32 {g f : Fields} (h : { g with b := f.b, c := f.c, mod := f.mod, imm := f.imm } = f) :
    g.setImm32 f.imm32 = f := by
  rw [← h]
  simp (disch := omega) only [Fields.setImm32, Fields.imm32, extractLsb'_append_high, extractLsb'_append_low]
  simp only [Nat.reduceSub, extractLsb'_self]

/-- The rows of a table of opcodes from an opcode on keep every field that they use. -/
def RowsKept : BitVec 8 → List (Fields → Instr) → Prop
  | _, [] => True
  | n, g :: gs => (∀ f : Fields, f.op = n → f.Kept (g f)) ∧ RowsKept (n + 1) gs

theorem ops_kept : RowsKept 0x00 ops0 ∧ RowsKept 0x10 ops1 ∧ RowsKept 0x20 ops2 ∧ RowsKept 0x30 ops3 ∧ RowsKept 0x40 ops4
    ∧ RowsKept 0x50 ops5 ∧ RowsKept 0x60 ops6 ∧ RowsKept 0x70 ops7 ∧ RowsKept 0x80 ops8 ∧ RowsKept 0x90 ops9
    ∧ RowsKept 0xA0 ops10 ∧ RowsKept 0xB0 ops11 := by
  simp only [RowsKept, ops0, ops1, ops2, ops3, ops4, ops5, ops6, ops7, ops8, ops9, ops10, ops11, and_true]
  and_intros
  all_goals
    rintro ⟨op, d, a, b, c, m, imm, cl⟩ rfl l ⟨rfl⟩ ⟨hd, ha, hb, hc, hm, hi⟩
    simp_all [L, M, MZ, MZ', toFields, Fields.base, Fields.setImm26_imm26, Fields.setImm32_imm32]


theorem RowsKept.row {n : BitVec 8} {gs : List (Fields → Instr)} (h : RowsKept n gs) {k : Nat} {g : Fields → Instr}
    (hg : gs[k]? = some g) {f : Fields} (hf : f.op = n + BitVec.ofNat 8 k) : f.Kept (g f) := by
  induction gs generalizing n k with
  | nil => cases hg
  | cons g' gs ih =>
    cases k with
    | zero =>
      obtain rfl : g' = g := by simpa using hg
      exact h.1 f (by simpa using hf)
    | succ k =>
      refine ih h.2 (by simpa using hg) ?_
      rw [hf, BitVec.add_assoc, BitVec.ofNat_add, BitVec.add_comm (BitVec.ofNat 8 k)]
      rfl

/-- Every opcode keeps the fields that it uses. -/
theorem Fields.Kept.of_ofFields {f : Fields} {i : Instr} (h : ofFields f = some i) : f.Kept i := by
  obtain ⟨h0, h1, h2, h3, h4, h5, h6, h7, h8, h9, h10, h11⟩ := ops_kept
  have hop (n : Nat) (hn : f.op.toNat / 16 = n) : f.op = BitVec.ofNat 8 (16 * n) + BitVec.ofNat 8 (f.op.toNat % 16) := by
    rw [← BitVec.ofNat_add, ← hn, Nat.div_add_mod, BitVec.ofNat_toNat, BitVec.setWidth_eq]
  unfold ofFields at h
  split at h
  next g hg =>
    obtain rfl : g f = i := by simpa using h
    split at hg
    next e => exact h0.row hg (hop 0 e)
    next e => exact h1.row hg (hop 1 e)
    next e => exact h2.row hg (hop 2 e)
    next e => exact h3.row hg (hop 3 e)
    next e => exact h4.row hg (hop 4 e)
    next e => exact h5.row hg (hop 5 e)
    next e => exact h6.row hg (hop 6 e)
    next e => exact h7.row hg (hop 7 e)
    next e => exact h8.row hg (hop 8 e)
    next e => exact h9.row hg (hop 9 e)
    next e => exact h10.row hg (hop 10 e)
    next e => exact h11.row hg (hop 11 e)
    next => cases hg
  · cases h

/-- What a word that decodes says of its fields. -/
theorem decode_eq_ok {w : Word80} {i : Instr} (h : decode w = .ok i) :
    ∃ l, ofFields (Fields.ofWord w) = some i ∧ layout i = some l ∧ encodingFault l (tagged i) (Fields.ofWord w) = none := by
  unfold decode at h
  dsimp only at h
  split at h
  · cases h
  next j hj =>
  split at h
  · cases h
  next l hl =>
  split at h
  · cases h
  next hc =>
  obtain rfl : j = i := by injection h
  exact ⟨l, hj, hl, hc⟩

/-- Settles O43: the fields that the instruction does not use are zero in a word that passes the checks, and it keeps the others. -/
theorem decodeThenEncode : Obligations.DecodeThenEncode := by
  unfold Obligations.DecodeThenEncode
  intro w i h
  obtain ⟨l, hi, hl, hc⟩ := decode_eq_ok h
  rw [encode, Fields.Kept.of_ofFields hi l hl (.of_encodingFault hc), Option.map_some, Fields.toWord_ofWord]

/-! ## Words written out (R91, R109) -/

/-- No opcode from 0xC0 on names an instruction (R109). -/
theorem ofFields_eq_none {f : Fields} (h : 0xC0 ≤ f.op.toNat) : ofFields f = none := by
  obtain ⟨n, hn⟩ : ∃ n, f.op.toNat / 16 = n + 12 := ⟨f.op.toNat / 16 - 12, by omega⟩
  simp [ofFields, hn]

/-- Settles O41: the four words by evaluation; an opcode from 0xC0 on names no instruction. -/
theorem wordsDecodeAsEncoded : Obligations.WordsDecodeAsEncoded := by
  unfold Obligations.WordsDecodeAsEncoded
  refine ⟨by decide, by decide, by decide, by decide, fun w hw => ?_⟩
  have hop : (Fields.ofWord w).op.toNat = w.toNat / 2 ^ 72 % 2 ^ 8 := by
    rw [← Nat.shiftRight_eq_div_pow]; exact BitVec.extractLsb'_toNat ..
  have hn : ofFields (Fields.ofWord w) = none := ofFields_eq_none (by have := w.isLt; omega)
  simp only [decode, hn]

end Sys2Proof
end

section
/-! Sequencing: the redirect queue, and what a step does with the context that holds the port (R94..R98). -/
namespace Sys2Proof.Machine

/-! ## Entries of the queue (R95) -/

/-- An entry that the next issue but one acts on. -/
def RdqEntry.Fresh (e : RdqEntry) : Prop := e.valid = true ∧ e.rem = 2

/-- An entry that the next issue acts on. -/
def RdqEntry.Old (e : RdqEntry) : Prop := e.valid = true ∧ e.rem = 1

theorem RdqEntry.Fresh.not_old {e : RdqEntry} (h : e.Fresh) : ¬e.Old := by
  intro o
  have := h.2.symm.trans o.2
  cases this

theorem RdqEntry.age_invalid {e : RdqEntry} (h : e.valid = false) : e.age = (none, none) := by simp [RdqEntry.age, h]

theorem RdqEntry.age_fresh {e : RdqEntry} (h : e.Fresh) : e.age = (some { e with rem := 1 }, none) := by
  simp [RdqEntry.age, h.1, h.2]

theorem RdqEntry.age_old {e : RdqEntry} (h : e.Old) : e.age = (none, if e.taken then some e.target else none) := by
  simp [RdqEntry.age, h.1, h.2]

theorem RdqEntry.old_of_fresh {e : RdqEntry} (h : e.Fresh) : ({ e with rem := 1 } : RdqEntry).Old := ⟨h.1, rfl⟩

/-! ## The queue after an issue, by what it holds before (R95) -/

section
variable {a : Act} {new : Option RdqEntry}

theorem Act.advance_empty (h0 : a.rdq0.valid = false) (h1 : a.rdq1.valid = false) :
    a.advance new = { a with pc := a.pc + 1, rdq0 := new.getD {}, rdq1 := {} } := by
  cases new <;> simp [Act.advance, RdqEntry.age_invalid h0, RdqEntry.age_invalid h1]

theorem Act.advance_fresh (h0 : a.rdq0.Fresh) (h1 : a.rdq1.valid = false) :
    a.advance new = { a with pc := a.pc + 1, rdq0 := { a.rdq0 with rem := 1 }, rdq1 := new.getD {} } := by
  cases new <;> simp [Act.advance, RdqEntry.age_fresh h0, RdqEntry.age_invalid h1]

/-- The next word after an entry that matures. -/
def Act.redirected (a : Act) : BitVec 32 := if a.rdq0.taken then a.rdq0.target else a.pc + 1

theorem Act.advance_old (h0 : a.rdq0.Old) (h1 : a.rdq1.valid = false) :
    a.advance new = { a with pc := a.redirected, rdq0 := new.getD {}, rdq1 := {} } := by
  cases new <;> cases ht : a.rdq0.taken <;>
    simp [Act.advance, Act.redirected, RdqEntry.age_old h0, RdqEntry.age_invalid h1, ht]

theorem Act.advance_full (h0 : a.rdq0.Old) (h1 : a.rdq1.Fresh) :
    a.advance new = { a with pc := a.redirected, rdq0 := { a.rdq1 with rem := 1 }, rdq1 := new.getD {} } := by
  cases new <;> cases ht : a.rdq0.taken <;>
    simp [Act.advance, Act.redirected, RdqEntry.age_old h0, RdqEntry.age_fresh h1, ht]

end

/-- A queue that issues make: no entry, one, or an older and a newer one, of which only the older matures next. -/
def Act.QueueSound (a : Act) : Prop :=
  (a.rdq0.valid = false ∧ a.rdq1.valid = false) ∨ ((a.rdq0.Fresh ∨ a.rdq0.Old) ∧ a.rdq1.valid = false)
    ∨ (a.rdq0.Old ∧ a.rdq1.Fresh)

/-- The four queues that issues make. -/
theorem Act.QueueSound.cases {a : Act} (h : a.QueueSound) :
    (a.rdq0.valid = false ∧ a.rdq1.valid = false) ∨ (a.rdq0.Fresh ∧ a.rdq1.valid = false)
      ∨ (a.rdq0.Old ∧ a.rdq1.valid = false) ∨ (a.rdq0.Old ∧ a.rdq1.Fresh) := by
  unfold Act.QueueSound at h
  tauto

/-- The redirect that a word appends leaves a sound queue sound. -/
theorem Act.QueueSound.advance {a : Act} {new : Option RdqEntry} (h : a.QueueSound) (hn : ∀ n, new = some n → n.Fresh) :
    (a.advance new).QueueSound := by
  have hnew : (new.getD {}).Fresh ∨ (new.getD {}).valid = false := by
    cases new with
    | none => exact .inr rfl
    | some n => exact .inl (hn n rfl)
  rcases h.cases with ⟨h0, h1⟩ | ⟨h0, h1⟩ | ⟨h0, h1⟩ | ⟨h0, h1⟩
  · rw [Act.advance_empty h0 h1]
    exact hnew.elim (fun h => .inr (.inl ⟨.inl h, rfl⟩)) (fun h => .inl ⟨h, rfl⟩)
  · rw [Act.advance_fresh h0 h1]
    have ho := RdqEntry.old_of_fresh h0
    exact hnew.elim (fun h => .inr (.inr ⟨ho, h⟩)) (fun h => .inr (.inl ⟨.inr ho, h⟩))
  · rw [Act.advance_old h0 h1]
    exact hnew.elim (fun h => .inr (.inl ⟨.inl h, rfl⟩)) (fun h => .inl ⟨h, rfl⟩)
  · rw [Act.advance_full h0 h1]
    have ho := RdqEntry.old_of_fresh h1
    exact hnew.elim (fun h => .inr (.inr ⟨ho, h⟩)) (fun h => .inr (.inl ⟨.inr ho, h⟩))

open Classical in
/-- The next word: where a matured entry that was taken redirects to, else the one that follows. -/
theorem Act.QueueSound.advance_pc {a : Act} {new : Option RdqEntry} (h : a.QueueSound) :
    (a.advance new).pc = if a.rdq0.Old ∧ a.rdq0.taken = true then a.rdq0.target else a.pc + 1 := by
  rcases h.cases with ⟨h0, h1⟩ | ⟨h0, h1⟩ | ⟨h0, h1⟩ | ⟨h0, h1⟩
  · have : ¬a.rdq0.Old := fun o => by simp [o.1] at h0
    simp [Act.advance_empty h0 h1, this]
  · simp [Act.advance_fresh h0 h1, h0.not_old]
  · simp [Act.advance_old h0 h1, Act.redirected, h0]
  · simp [Act.advance_full h0 h1, Act.redirected, h0]

/-! ## What an issue leaves -/

/-- An issue after which nothing follows, without a sample: its context retires and the cycle passes (R99, R344). -/
theorem State.issue_plain {s : State} {c aid : Nat} {i : Instr} {cl : Clauses} {e : Eff} (hp : e.post = .none)
    (hs : e.st.stip c = 0) :
    s.issue c aid i cl e = (e.st.setAct aid ((s.act aid).retire (e.st.act aid) i cl (s.core c).cycle e)).clocked c := by
  have hz : ((e.st.setAct aid ((s.act aid).retire (e.st.act aid) i cl (s.core c).cycle e)).clocked c).stip c = 0 := hs
  simp [State.issue, State.stipple, hz, hp, State.after]

@[simp] theorem State.act_clocked (s : State) (c aid : Nat) : (s.clocked c).act aid = s.act aid := rfl

theorem Act.SameBut.pc {a b : Act} (h : a.SameBut b) : b.pc = a.pc := by obtain ⟨_, _, _, _, rfl⟩ := h; rfl
theorem Act.SameBut.rdq0 {a b : Act} (h : a.SameBut b) : b.rdq0 = a.rdq0 := by obtain ⟨_, _, _, _, rfl⟩ := h; rfl
theorem Act.SameBut.rdq1 {a b : Act} (h : a.SameBut b) : b.rdq1 = a.rdq1 := by obtain ⟨_, _, _, _, rfl⟩ := h; rfl

/-- The queue and the next word depend on nothing but the queue, the word and the redirect. -/
theorem Act.advance_congr {a b : Act} (hp : b.pc = a.pc) (h0 : b.rdq0 = a.rdq0) (h1 : b.rdq1 = a.rdq1) (new : Option RdqEntry) :
    (b.advance new).pc = (a.advance new).pc ∧ (b.advance new).rdq0 = (a.advance new).rdq0
      ∧ (b.advance new).rdq1 = (a.advance new).rdq1 := by
  simp only [Act.advance, hp, h0, h1, and_self]

/-- The context as an issue leaves it before it counts: lk and lc are written, registers released, results on their way
(R94, R99, R106). -/
def Act.issuing (a0 a : Act) (i : Instr) (cl : Clauses) (cycle : Nat) (e : Eff) : Act :=
  let a := (releases i cl).foldl Act.release { a with lk := e.lk.getD (a0.sequence cl).2.1, lc := e.lc.getD (a0.sequence cl).2.2 }
  if e.writes.isEmpty ∧ e.flags = 0 then a
  else { a with fixed := a.fixed ++
    [{ due := a.dueFor (e.writes.map (·.reg)) (cycle + e.lat), pos := a0.num, writes := e.writes, flags := e.flags }] }

theorem Act.retire_eq (a0 a : Act) (i : Instr) (cl : Clauses) (n : Nat) (e : Eff) :
    a0.retire a i cl n e = ((((a0.issuing a i cl n e).counted e.op).remember a0 ((releases i cl).filter a0.live)).advance
      (a0.sequence cl).1).landDue (n + 1) := rfl

/-- Before it counts, an issue changes nothing but registers, results in flight, lk and lc. -/
theorem Act.sameBut_issuing (a0 a : Act) (i : Instr) (cl : Clauses) (n : Nat) (e : Eff) :
    ({ a with lk := e.lk.getD (a0.sequence cl).2.1, lc := e.lc.getD (a0.sequence cl).2.2 } : Act).SameBut (a0.issuing a i cl n e) := by
  refine (Act.SameBut.foldl _ Act.sameBut_release (releases i cl) _).trans ?_
  unfold Act.issuing
  dsimp only
  split
  · exact .refl _
  · exact ⟨_, _, _, _, rfl⟩

/-- What retires advances the queue of the context with the word's own redirect. -/
theorem Act.retire_queue (a : Act) (i : Instr) (cl : Clauses) (n : Nat) (e : Eff) :
    let y := a.retire a i cl n e
    let z := a.advance (a.sequence cl).1
    y.pc = z.pc ∧ y.rdq0 = z.rdq0 ∧ y.rdq1 = z.rdq1 := by
  have hs := Act.sameBut_issuing a a i cl n e
  have hl := Act.sameBut_landDue
    ((((a.issuing a i cl n e).counted e.op).remember a ((releases i cl).filter a.live)).advance (a.sequence cl).1) (n + 1)
  rw [Act.retire_eq]
  dsimp only
  rw [hl.pc, hl.rdq0, hl.rdq1]
  exact Act.advance_congr hs.pc hs.rdq0 hs.rdq1 _

/-- Settles O48: by the four queues that issues make, and by the seq.mode. -/
theorem redirectQueueAndModes : Obligations.RedirectQueueAndModes := by
  unfold Obligations.RedirectQueueAndModes
  refine ⟨fun a new s c aid i cl e => ?_, fun a cl => ?_⟩
  · refine ⟨fun h => Act.QueueSound.advance h, fun h => (Act.QueueSound.advance_pc h).trans (by congr), fun h ho hv => ?_,
      fun h ho hv => ?_, fun h hf => ?_, fun h0 h1 => ?_, fun hp hs ha => ?_, rfl, rfl⟩
    · have h1 : a.rdq1.Fresh := by
        rcases h with ⟨-, h1⟩ | ⟨-, h1⟩ | ⟨-, h1⟩
        · exact absurd (h1.symm.trans hv) Bool.false_ne_true
        · exact absurd (h1.symm.trans hv) Bool.false_ne_true
        · exact h1
      rw [Act.advance_full ho h1]
      exact ⟨rfl, rfl⟩
    · rw [Act.advance_old ho hv]
      exact ⟨rfl, rfl⟩
    · have h1 : a.rdq1.valid = false := by
        rcases h with ⟨-, h1⟩ | ⟨-, h1⟩ | ⟨h0, -⟩
        · exact h1
        · exact h1
        · exact absurd h0 (RdqEntry.Fresh.not_old hf)
      rw [Act.advance_fresh hf h1]
      exact ⟨rfl, rfl⟩
    · rw [Act.advance_empty h0 h1]
      exact ⟨rfl, rfl⟩
    · dsimp only
      rw [State.issue_plain hp hs, State.act_clocked, State.act_setAct_same, ha]
      exact Act.retire_queue _ _ _ _ _
  · refine ⟨fun h => ?_, fun h => ?_, fun h => ?_, fun h => ?_, fun h => ?_, fun h => ?_, fun h => ?_⟩
    all_goals simp [Act.sequence, h, beq_eq_decide]

end Sys2Proof.Machine
end

section
/-! A step of the core in focus: which word it issues, and what a fetch, a fault and an annulled word do (R95..R98, R108). -/
namespace Sys2Proof.Machine

/-! ## The cycle of a core whose context may issue (R23, R25, R295) -/

/-- What may issue: nothing else moves, the core issues, and the context that holds its port is in service with no trap or interrupt
to take, no block and no mould that holds it back. -/
structure State.MayIssue (s : State) (aid : Nat) : Prop where
  schedule : s.schedule = []
  issues : s.holdsIssue s.focus = false
  port : s.portAct s.focus = some aid
  run : (s.act aid).run = .inService
  traps : (s.act aid).duePend = none
  interrupt : s.interruptOf (s.act aid) = none
  block : (s.act aid).block = none
  mould : s.moulding (s.act aid).gang = false ∨ (s.act aid).tip = true

/-- A compute core that issues is on a die that is not off. -/
theorem State.die_on_of_issues {s : State} {c : Nat} (h : s.holdsIssue c = false) :
    (!isArmature c && (s.die (coreDie c)).off) = false := by
  unfold State.holdsIssue at h
  cases ha : isArmature c with
  | true => rfl
  | false =>
    simp only [ha, Bool.or_eq_false_iff, Bool.false_eq_true, ↓reduceIte] at h
    obtain ⟨-, -, hl⟩ := h
    have hl' : s.live c = true := by simpa using hl
    simp only [State.live, Bool.and_eq_true] at hl'
    simpa using hl'.2

/-- A step is then the issue of the context's next word. -/
theorem State.MayIssue.step_eq {s : State} {aid : Nat} (h : s.MayIssue aid) : step s = issueNext s.focus aid s := by
  have hm : ¬(s.moulding (s.act aid).gang = true ∧ (s.act aid).tip = false) := by
    rintro ⟨h1, h2⟩
    rcases h.mould with h | h
    · exact absurd (h1.symm.trans h) (by decide)
    · exact absurd (h.symm.trans h2) (by decide)
  have hp : portCycle s.focus aid s = issueNext s.focus aid s := by
    simp [portCycle, h.run, h.traps, h.interrupt, hm, State.unblocked, h.block]
  simp [step, h.schedule, coreCycle, State.die_on_of_issues h.issues, h.issues, h.port, hp]

/-- But for the first word of a BSP gang that is its next word alone. -/
theorem issueNext_opened {s : State} {c aid : Nat} (h : s.unopened aid = false) : issueNext c aid s = issueWord c aid s := by
  unfold issueNext
  split
  next t ht => simp [h, ht]
  · rfl

/-- The first word of a BSP gang issues in its epoch 0 (R329). -/
theorem issueNext_first {s u : State} {c aid : Nat} (h : s.unopened aid = true) (hu : issueWord c aid s = .next u)
    (hi : s.issuedTo u aid = true) : issueNext c aid s = issueWord c aid (s.openEpoch (s.act aid).gang 0 none) := by
  simp [issueNext, hu, h, hi]

/-! ## What the word does, by what its fetch finds (R97, R108, R307) -/

section
variable {s : State} {c aid : Nat}

theorem issueWord_annulled (h : (s.act aid).annulled = true) : issueWord c aid s = .next (s.issueAnnulled c aid) := by
  simp [issueWord, h]

theorem issueWord_miss {m : Access} (h : (s.act aid).annulled = false) (hm : s.codeMiss (s.act aid) = some m) :
    issueWord c aid s = .next (s.blockOn c aid (.walk m.object m.offset m.bytes m.write m.atom)) := by
  simp [issueWord, h, hm]

theorem issueWord_fault {t : Trap} (h : (s.act aid).annulled = false) (hm : s.codeMiss (s.act aid) = none)
    (hf : s.fetch (s.act aid) = .error t) :
    issueWord c aid s = .next (((s.fetchTouch (s.act aid)).noteFetch (s.act aid) t).raise aid t) := by
  simp [issueWord, h, hm, hf]

theorem issueWord_illop {w : Word80} {n : Nat} (h : (s.act aid).annulled = false) (hm : s.codeMiss (s.act aid) = none)
    (hf : s.fetch (s.act aid) = .ok w) (hd : decodeIn (s.act aid) w = .error n) :
    issueWord c aid s = .next ((s.fetchTouch (s.act aid)).raise aid (mkTrap cILLOP n)) := by
  simp [issueWord, h, hm, hf, hd]

theorem issueWord_exec {w : Word80} {i : Instr} (h : (s.act aid).annulled = false) (hm : s.codeMiss (s.act aid) = none)
    (hf : s.fetch (s.act aid) = .ok w) (hd : decodeIn (s.act aid) w = .ok i) :
    issueWord c aid s = exec i (s.fetchTouch (s.act aid)) := by
  simp [issueWord, h, hm, hf, hd]

end

/-! ## What a fetch leaves as it was (R307, R308) -/

theorem State.SameStore.refl (s : State) : s.SameStore s :=
  ⟨rfl, rfl, rfl, rfl, rfl, rfl, rfl, rfl, rfl, rfl, rfl, rfl, rfl, rfl, rfl, rfl⟩

theorem State.SameStore.trans {s t u : State} (h : s.SameStore t) (k : t.SameStore u) : s.SameStore u where
  mem := k.mem.trans h.mem
  tags := k.tags.trans h.tags
  poison := k.poison.trans h.poison
  ops := k.ops.trans h.ops
  reqs := k.reqs.trans h.reqs
  quads := k.quads.trans h.quads
  dies := k.dies.trans h.dies
  parts := k.parts.trans h.parts
  insts := k.insts.trans h.insts
  merges := k.merges.trans h.merges
  journals := k.journals.trans h.journals
  walks := k.walks.trans h.walks
  recs := k.recs.trans h.recs
  seq := k.seq.trans h.seq
  links := k.links.trans h.links
  tick := k.tick.trans h.tick

/-- Both are the same state but for the translations that cores cache. -/
structure State.SameButOtc (s t : State) : Prop where
  store : s.SameStore t
  acts : t.acts = s.acts
  gangs : t.gangs = s.gangs
  schedule : t.schedule = s.schedule
  focus : t.focus = s.focus
  core : ∀ c, t.core c = { s.core c with otc := (t.core c).otc }

theorem State.SameButOtc.refl (s : State) : s.SameButOtc s := ⟨.refl s, rfl, rfl, rfl, rfl, fun _ => rfl⟩

theorem State.SameButOtc.trans {s t u : State} (h : s.SameButOtc t) (k : t.SameButOtc u) : s.SameButOtc u :=
  ⟨h.store.trans k.store, k.acts.trans h.acts, k.gangs.trans h.gangs, k.schedule.trans h.schedule, k.focus.trans h.focus,
    fun c => by rw [k.core c, h.core c]⟩

theorem State.sameButOtc_use (s : State) (c : Nat) (e : OtcEntry) : s.SameButOtc (s.setCore c ((s.core c).otcUse e)) where
  store := ⟨rfl, rfl, rfl, rfl, rfl, rfl, rfl, rfl, rfl, rfl, rfl, rfl, rfl, rfl, rfl, rfl⟩
  acts := rfl
  gangs := rfl
  schedule := rfl
  focus := rfl
  core k := by
    by_cases h : k = c
    · subst h; rw [State.core_setCore_same]; rfl
    · rw [State.core_setCore_other _ _ _ h]

theorem State.SameButOtc.foldl {β : Type} {f : State → β → State} (hf : ∀ (t : State) (x : β), t.SameButOtc (f t x)) (l : List β)
    (s : State) : s.SameButOtc (l.foldl f s) := by
  induction l generalizing s with
  | nil => exact .refl s
  | cons x l ih => exact (hf s x).trans (ih _)

theorem State.sameButOtc_fetchTouch (s : State) (a : Act) : s.SameButOtc (s.fetchTouch a) := by
  unfold State.fetchTouch
  split
  · exact .refl s
  · refine .foldl (fun t x => ?_) _ s
    split
    · exact t.sameButOtc_use _ _
    · exact .refl t

/-- Settles O40: a step of a core whose context may issue is its next word's issue, and a move that is an event happens. -/
theorem stepRunsTheDecodedWord : Obligations.StepRunsTheDecodedWord := by
  unfold Obligations.StepRunsTheDecodedWord
  intro s u aid n w i t m rest
  dsimp only
  have hf := s.sameButOtc_fetchTouch (s.act aid)
  have next (h : s.schedule = [] ∧ s.holdsIssue s.focus = false ∧ s.portAct s.focus = some aid ∧ (s.act aid).run = .inService
      ∧ (s.act aid).duePend = none ∧ s.interruptOf (s.act aid) = none ∧ (s.act aid).block = none
      ∧ (s.act aid).annulled = false ∧ (s.moulding (s.act aid).gang = false ∨ (s.act aid).tip = true)) :
      step s = issueNext s.focus aid s ∧ (s.act aid).annulled = false := by
    obtain ⟨h1, h2, h3, h4, h5, h6, h7, h8, h9⟩ := h
    exact ⟨State.MayIssue.step_eq ⟨h1, h2, h3, h4, h5, h6, h7, h9⟩, h8⟩
  refine ⟨⟨hf.store, hf.acts, hf.gangs, hf.schedule, hf.focus, hf.core⟩, fun h ho hm hw hd => ?_, fun h ho hm hw hd => ?_,
    fun h ho hm hw => ?_, fun h ho hm => ?_, fun h ho hu hi => ?_, fun hs hl hr => ?_, fun hs => ?_⟩
  · obtain ⟨hs, ha⟩ := next h
    rw [hs, issueNext_opened ho, issueWord_exec ha hm hw hd]
  · obtain ⟨hs, ha⟩ := next h
    rw [hs, issueNext_opened ho, issueWord_illop ha hm hw hd]
  · obtain ⟨hs, ha⟩ := next h
    rw [hs, issueNext_opened ho, issueWord_fault ha hm hw]
  · obtain ⟨hs, ha⟩ := next h
    rw [hs, issueNext_opened ho, issueWord_miss ha hm]
  · rw [(next h).1, issueNext_first (by simpa using ho) hu hi]
  · have hr' : ({ u with schedule := rest }.running || served i) = true := by simpa using hr
    simp [step, hs, runMove, hl, hr']
  · simp [step, hs, runMove]

/-! ## Annulled words (R96) -/

/-- Nothing in flight: the end of a cycle lands nothing. -/
theorem Act.landDue_nil {a : Act} (h : a.fixed = []) (n : Nat) : a.landDue n = a := by
  cases a
  dsimp only at h
  subst h
  rfl

theorem State.issueAnnulled_plain {s : State} {c aid : Nat} (hs : s.stip c = 0) :
    s.issueAnnulled c aid
      = (s.setAct aid ((((s.act aid).counted none).advance none).landDue ((s.core c).cycle + 1))).clocked c := by
  have hz : ((s.setAct aid ((((s.act aid).counted none).advance none).landDue ((s.core c).cycle + 1))).clocked c).stip c = 0 := hs
  simp [State.issueAnnulled, State.stipple, hz]

/-- Settles O49: the step is `issueAnnulled`, which counts the word, ages the queue and lets the cycle pass. -/
theorem annulledWords : Obligations.AnnulledWords := by
  unfold Obligations.AnnulledWords
  dsimp only
  intro s aid hs hh hp hr ht hi hb ha hf hz ho hm
  have hd : (s.act aid).duePend = none := by simp [Act.duePend, ht]
  refine ⟨_, (State.MayIssue.step_eq ⟨hs, hh, hp, hr, hd, hi, hb, hm⟩).trans ((issueNext_opened ho).trans (issueWord_annulled ha)), ?_⟩
  have hf' : (((s.act aid).counted none).advance none).fixed = [] := hf
  have hy : ((s.setAct aid (((s.act aid).counted none).advance none)).clocked s.focus).act aid
      = ((s.act aid).counted none).advance none := by rw [State.act_clocked, State.act_setAct_same]
  rw [State.issueAnnulled_plain hz, Act.landDue_nil hf']
  rw [hy]
  refine ⟨⟨rfl, rfl, rfl, rfl, rfl, rfl, rfl, rfl, rfl, rfl, rfl, rfl, rfl, rfl, rfl, rfl⟩, rfl, by simp [State.clocked], ?_,
    rfl, rfl, rfl, rfl, hf', ht, ⟨rfl, rfl, rfl, rfl, rfl, rfl, rfl, rfl, rfl, rfl, rfl, rfl, rfl, rfl⟩, rfl,
    Act.advance_congr rfl rfl rfl none⟩
  simp only [State.clocked, State.core_setCore_same]
  exact ⟨rfl, rfl, rfl, rfl, rfl, rfl, rfl, rfl, rfl⟩

end Sys2Proof.Machine
end

section
/-! Scalar words: what the words that compute from registers alone do, and the sources that stop a word (R107, R112..R128, R147, R155). -/
namespace Sys2Proof.Machine

/-! ## The first source that stops a word (R107, R155, R296) -/

theorem deadTrap_first {x : Act} {rs before after : List RegName} {r : RegName} (hs : rs = before ++ r :: after)
    (hb : before.all x.live = true) (hr : x.live r = false) :
    deadTrap x rs = some (mkTrap cDEADREG (r.num + r.file.code * 256)) := by
  have hn : before.find? (fun q => !x.live q) = none := List.find?_eq_none.mpr fun q hq => by
    simp [List.all_eq_true.mp hb q hq]
  simp [deadTrap, hs, List.find?_append, hn, hr]

theorem deadTrap_none {x : Act} {rs : List RegName} (h : rs.all x.live = true) : deadTrap x rs = none := by
  have hn : rs.find? (fun q => !x.live q) = none := List.find?_eq_none.mpr fun q hq => by
    simp [List.all_eq_true.mp h q hq]
  simp [deadTrap, hn]

theorem poisonTrap_first {x : Act} {rs before after : List RegName} {r : RegName} {p : Poison} (hs : rs = before ++ r :: after)
    (hb : before.all (fun q => x.poison? q == none) = true) (hr : x.poison? r = some p) :
    poisonTrap x rs = some { cause := cUNCORR, detail := p.detail, addr := p.addr } := by
  have hn : before.findSome? x.poison? = none := List.findSome?_eq_none_iff.mpr fun q hq => by
    simpa using List.all_eq_true.mp hb q hq
  simp [poisonTrap, hs, List.findSome?_append, hn, hr]

/-- A word whose waits are over and one of whose sources is not live raises that trap. -/
theorem run_dead {i : Instr} {cl : Clauses} {n : Need} {body : Nat → Nat → Act → State → Res} {s : State} {c aid : Nat} {t : Trap}
    (hc : s.Holds c aid) (hw : s.waits c aid (s.act aid) cl n = none)
    (hd : deadTrap (s.act aid) (sources (s.act aid) i cl) = some t) :
    run i cl n noPre body s = .next (s.raise aid t) := by
  have hc' : s.current = some (c, aid) := hc
  simp only [run, runWith, hc', noPre, hw, hd]

/-- One whose sources are live and of which one carries poison raises that. -/
theorem run_poisoned {i : Instr} {cl : Clauses} {n : Need} {body : Nat → Nat → Act → State → Res} {s : State} {c aid : Nat} {t : Trap}
    (hc : s.Holds c aid) (hw : s.waits c aid (s.act aid) cl n = none)
    (hl : deadTrap (s.act aid) (sources (s.act aid) i cl) = none)
    (hp : poisonTrap (s.act aid) (sources (s.act aid) i cl) = some t) :
    run i cl n noPre body s = .next (s.raise aid t) := by
  have hc' : s.current = some (c, aid) := hc
  simp only [run, runWith, hc', noPre, hw, hl, hp]

/-! ## What a scalar word's own part answers (R112..R128, R147) -/

/-- The effect of a scalar word on a state: nothing but results of its destination, and lk and lc for LCSET and LKMOV. -/
structure Eff.Plain (e : Eff) (i : Instr) (s : State) : Prop where
  st : e.st = s
  flags : e.flags = 0
  post : e.post = .none
  dest : ∀ w ∈ e.writes, some w.reg = destOf i
  link : (∀ a m c, i ≠ .lcset a m c) → (∀ m d a c, i ≠ .lkmov m d a c) → e.lk = none ∧ e.lc = none

/-- The meaning of a scalar word: the pipeline without a check of its own, and an effect on its destination. -/
def PlainWord (i : Instr) : Prop :=
  ∃ body : Nat → Nat → Act → State → Res, (∀ s, exec i s = run i (fieldsOf i).cl {} noPre body s) ∧
    ∀ c aid x s, ∃ e, body c aid x s = .go e ∧ e.Plain i s

/-- A word that writes its destination after a fixed latency. -/
theorem PlainWord.of_write {i : Instr} {l : Nat} {w : Act → RegWrite}
    (hx : ∀ s, exec i s = run i (fieldsOf i).cl {} noPre (fun _ _ x st => fixedRes st l [w x]) s)
    (hd : ∀ x, some (w x).reg = destOf i) : PlainWord i :=
  ⟨_, hx, fun _ _ x _ => ⟨_, rfl, rfl, rfl, rfl, by simpa using hd x, fun _ _ => ⟨rfl, rfl⟩⟩⟩

theorem PlainWord.lcset (a : BitVec 6) (imm : BitVec 26) (cl : Clauses) : PlainWord (.lcset a imm cl) :=
  ⟨fun _ _ x st => .go { st := st, lc := some (x.s a.toNat + imm.signExtend 64) }, fun _ => rfl,
    fun _ _ _ _ => ⟨_, rfl, rfl, rfl, rfl, List.forall_mem_nil _, fun h => absurd rfl (h a imm cl)⟩⟩

theorem PlainWord.nop (cl : Clauses) : PlainWord (.nop cl) :=
  ⟨fun _ _ _ st => effectRes st, fun _ => rfl,
    fun _ _ _ _ => ⟨_, rfl, rfl, rfl, rfl, List.forall_mem_nil _, fun _ _ => ⟨rfl, rfl⟩⟩⟩

/-- LKMOV writes a scalar register, or lk or lc, by its mod (R127). -/
theorem PlainWord.lkmov (mod : BitVec 4) (d a : BitVec 6) (cl : Clauses) : PlainWord (.lkmov mod d a cl) := by
  refine ⟨fun _ _ x st => if mod = 0 then fixedRes st 1 [wS d.toNat (x.lk.setWidth 64)]
    else if mod = 1 then .go { st := st, lk := some ((x.s a.toNat).setWidth 32) }
    else if mod = 2 then fixedRes st 1 [wS d.toNat x.lc]
    else .go { st := st, lc := some (x.s a.toNat) }, fun _ => rfl, fun c aid x s => ?_⟩
  have hl : ¬∀ m d' a' c', Instr.lkmov mod d a cl ≠ .lkmov m d' a' c' := fun h => h _ _ _ _ rfl
  have hd : destOf (.lkmov mod d a cl) = useReg (if mod = 0 ∨ mod = 2 then .s else .no) d := rfl
  by_cases h0 : mod = 0
  · simp only [if_pos h0]
    exact ⟨_, rfl, rfl, rfl, rfl, List.forall_mem_singleton.mpr (by rw [hd, if_pos (.inl h0)]; rfl), fun _ h => absurd h hl⟩
  by_cases h1 : mod = 1
  · simp only [if_neg h0, if_pos h1]
    exact ⟨_, rfl, rfl, rfl, rfl, List.forall_mem_nil _, fun _ h => absurd h hl⟩
  by_cases h2 : mod = 2
  · simp only [if_neg h0, if_neg h1, if_pos h2]
    exact ⟨_, rfl, rfl, rfl, rfl, List.forall_mem_singleton.mpr (by rw [hd, if_pos (.inr h2)]; rfl), fun _ h => absurd h hl⟩
  · simp only [if_neg h0, if_neg h1, if_neg h2]
    exact ⟨_, rfl, rfl, rfl, rfl, List.forall_mem_nil _, fun _ h => absurd h hl⟩

/-- PMOV and MOVB write a scalar register with mod 1, else one of their own file (R121, R125). -/
theorem destOf_moved {mod : BitVec 4} {u : FieldUse} {d : BitVec 6} {x y z : RegWrite} (hx : some x.reg = useReg u d)
    (hy : some y.reg = useReg .s d) (hz : some z.reg = useReg u d) :
    some (if mod = 0 then x else if mod = 1 then y else z).reg = useReg (if mod = 1 then .s else u) d := by
  by_cases h0 : mod = 0
  · subst h0; exact hx
  · by_cases h1 : mod = 1
    · rw [if_neg h0, if_pos h1, if_pos h1, hy]
    · rw [if_neg h0, if_neg h1, if_neg h1, hz]

theorem PlainWord.pmov (mod : BitVec 4) (d a : BitVec 6) (cl : Clauses) : PlainWord (.pmov mod d a cl) :=
  .of_write (l := 1) (w := fun x => if mod = 0 then wP d.toNat (x.s a.toNat) else if mod = 1 then wS d.toNat (x.p a.toNat)
    else wP d.toNat (x.p a.toNat)) (fun _ => rfl) fun _ => destOf_moved (u := .pDst) rfl rfl rfl

theorem PlainWord.movb (mod : BitVec 4) (d a : BitVec 6) (cl : Clauses) : PlainWord (.movb mod d a cl) :=
  .of_write (l := 1) (w := fun x => if mod = 0 then wB d.toNat ((x.s a.toNat).setWidth 32)
    else if mod = 1 then wS d.toNat ((x.b a.toNat).setWidth 64) else wB d.toNat (x.b a.toNat)) (fun _ => rfl)
    fun _ => destOf_moved (u := .b) rfl rfl rfl

theorem PlainWord.scalar2 {i : Instr} {l : Nat} {d a b : BitVec 6} {f : Word64 → Word64 → Word64}
    (hx : ∀ s, exec i s = Machine.scalar2 i (fieldsOf i).cl l d a b f s) (hd : destOf i = some (sreg d.toNat)) : PlainWord i :=
  .of_write (l := l) (w := fun x => wS d.toNat (f (x.s a.toNat) (x.s b.toNat))) hx fun _ => hd.symm

theorem PlainWord.scalar1 {i : Instr} {d a : BitVec 6} {f : Word64 → Word64}
    (hx : ∀ s, exec i s = Machine.scalar1 i (fieldsOf i).cl d a f s) (hd : destOf i = some (sreg d.toNat)) : PlainWord i :=
  .of_write (l := 1) (w := fun x => wS d.toNat (f (x.s a.toNat))) hx fun _ => hd.symm

theorem PlainWord.li (d : BitVec 6) (imm : BitVec 32) (cl : Clauses) : PlainWord (.li d imm cl) :=
  .of_write (l := 1) (w := fun _ => wS d.toNat (imm.signExtend 64)) (fun _ => rfl) fun _ => rfl

theorem PlainWord.cmp (mod : BitVec 4) (d a b : BitVec 6) (cl : Clauses) : PlainWord (.cmp mod d a b cl) :=
  .of_write (l := 1) (w := fun x => wP d.toNat (maskOf (cmpHolds mod.toNat (x.s a.toNat) (x.s b.toNat)))) (fun _ => rfl)
    fun _ => rfl

theorem PlainWord.cmpi (mod : BitVec 4) (d a : BitVec 6) (imm : BitVec 16) (cl : Clauses) : PlainWord (.cmpi mod d a imm cl) :=
  .of_write (l := 1) (w := fun x => wP d.toNat (maskOf (cmpHolds mod.toNat (x.s a.toNat) (imm.signExtend 64)))) (fun _ => rfl)
    fun _ => rfl

theorem PlainWord.plog (mod : BitVec 4) (d a b : BitVec 6) (cl : Clauses) : PlainWord (.plog mod d a b cl) :=
  .of_write (l := 1) (w := fun x => wP d.toNat (plogic mod.toNat (x.p a.toNat) (x.p b.toNat))) (fun _ => rfl) fun _ => rfl

theorem PlainWord.sel (d a b c : BitVec 6) (cl : Clauses) : PlainWord (.sel d a b c cl) :=
  .of_write (l := 1) (w := fun x => wS d.toNat (if (x.p c.toNat).getLsbD 0 then x.s a.toNat else x.s b.toNat)) (fun _ => rfl)
    fun _ => rfl

theorem PlainWord.tgt (d : BitVec 6) (imm : BitVec 26) (cl : Clauses) : PlainWord (.tgt d imm cl) :=
  .of_write (l := 1) (w := fun x => wB d.toNat (x.pc + imm.signExtend 32)) (fun _ => rfl) fun _ => rfl

theorem PlainWord.tgtr (d a : BitVec 6) (cl : Clauses) : PlainWord (.tgtr d a cl) :=
  .of_write (l := 1) (w := fun x => wB d.toNat (x.pc + (x.s a.toNat).setWidth 32)) (fun _ => rfl) fun _ => rfl

/-- Every scalar word has that meaning. -/
theorem scalarWord_plain {i : Instr} (h : scalarWord i = true) : PlainWord i := by
  unfold scalarWord at h
  split at h
  · exact .scalar2 (fun _ => exec_add ..) rfl
  · exact .scalar2 (fun _ => exec_sub ..) rfl
  · exact .scalar1 (fun _ => exec_addi ..) rfl
  · exact .scalar2 (fun _ => exec_mul ..) rfl
  · exact .scalar2 (fun _ => exec_mulh ..) rfl
  · exact .scalar2 (fun _ => exec_mulhu ..) rfl
  · exact .scalar2 (fun _ => exec_and ..) rfl
  · exact .scalar2 (fun _ => exec_or ..) rfl
  · exact .scalar2 (fun _ => exec_xor ..) rfl
  · exact .scalar1 (fun _ => exec_andi ..) rfl
  · exact .scalar1 (fun _ => exec_ori ..) rfl
  · exact .scalar1 (fun _ => exec_xori ..) rfl
  · exact .scalar2 (fun _ => exec_sll ..) rfl
  · exact .scalar2 (fun _ => exec_srl ..) rfl
  · exact .scalar2 (fun _ => exec_sra ..) rfl
  · exact .scalar1 (fun _ => exec_slli ..) rfl
  · exact .scalar1 (fun _ => exec_srli ..) rfl
  · exact .scalar1 (fun _ => exec_srai ..) rfl
  · exact .scalar2 (fun _ => exec_min ..) rfl
  · exact .scalar2 (fun _ => exec_max ..) rfl
  · exact .scalar2 (fun _ => exec_minu ..) rfl
  · exact .scalar2 (fun _ => exec_maxu ..) rfl
  · exact .scalar1 (fun _ => exec_clz ..) rfl
  · exact .scalar1 (fun _ => exec_popc ..) rfl
  · exact .scalar1 (fun _ => exec_bfx ..) rfl
  · exact .scalar2 (fun _ => exec_bfi ..) rfl
  · exact .li ..
  · exact .scalar1 (fun _ => exec_lih ..) rfl
  · exact .cmp ..
  · exact .cmpi ..
  · exact .plog ..
  · exact .pmov ..
  · exact .sel ..
  · exact .tgt ..
  · exact .tgtr ..
  · exact .movb ..
  · exact .lcset ..
  · exact .lkmov ..
  · exact .nop ..
  · exact .scalar2 (fun _ => exec_crc32c ..) rfl
  · cases h

/-- Settles O51: the pipeline looks for a dead source, then for poison, in the order of the word's sources. -/
theorem deadAndPoisonedSources : Obligations.DeadAndPoisonedSources := by
  unfold Obligations.DeadAndPoisonedSources
  dsimp only
  intro i s c aid r before after p hi hc hw hs
  obtain ⟨body, hx, -⟩ := scalarWord_plain hi
  refine ⟨fun hb hr => ?_, fun hl hb hr => ?_⟩
  · rw [hx, run_dead hc hw (deadTrap_first hs hb hr)]
  · rw [hx, run_poisoned hc hw (deadTrap_none hl) (poisonTrap_first hs hb hr)]

end Sys2Proof.Machine
end

section
/-! EXIT of a context whose own record names another slot than the one that holds the port (R33, R136). -/
namespace Sys2Proof.Machine

/-- Core 0's port is held by slot 0 with the context 1, in M mode, whose own record says that it stands in slot 1. -/
def misplaced : State :=
  { ({} : State) with
    cores := [(0, { slots := [(0, 1)], holder := some 0 })]
    acts := [(1, { asw := 2, slot := 1 })] }

/-- EXIT of that context frees slot 1, so that slot 0 still names the context when the port passes: it stands in the table again,
as a context that is not listed reads, in U mode. -/
theorem misplaced_exit :
    ∃ t, exec (.exit (Clauses.ofWord 0)) misplaced = .next t ∧ (tableGet? t.acts 1).isSome = true ∧ (t.act 1).mode = 0 := by
  refine ⟨_, rfl, ?_, ?_⟩
  · decide +kernel
  · decide +kernel

/-- Refutes O56: its last part asks of every state that no word but TRET lowers the mode of its context, and of every context that
stands in the table after the word. In `misplaced` EXIT ends the context 1 in M mode, and the port, which still names it, puts it
back into the table as a context in U mode. -/
theorem not_trapReturnRestores : ¬ Obligations.TrapReturnRestores := by
  unfold Obligations.TrapReturnRestores
  intro h
  obtain ⟨t, ht, hs, hm⟩ := misplaced_exit
  obtain ⟨-, -, -, h⟩ := h {} misplaced t 0 1 (Clauses.ofWord 0) { cause := 0, detail := 0, addr := 0, word := 0 }
    (.exit (Clauses.ofWord 0))
  have hle := h rfl nofun (by decide +kernel) (by unfold State.Holds; decide +kernel) ht hs
  rw [hm] at hle
  exact absurd hle (by decide +kernel)

end Sys2Proof.Machine
end

section
/-! No state stops the machine: every word with a context, every device event, and every step answers a next state (R108, R295). -/
namespace Sys2Proof.Machine

/-! ## Words and events -/

section
variable {i : Instr} {cl : Clauses} {d a b : BitVec 6} {s : State} {x : Nat × Nat} (h : s.current = some x)
include h

theorem scalar2_goes {l : Nat} {f : Word64 → Word64 → Word64} : Goes (scalar2 i cl l d a b f s) := run_goes h
theorem scalar1_goes {f : Word64 → Word64} : Goes (scalar1 i cl d a f s) := run_goes h
theorem divide_goes {f : Word64 → Word64 → Word64} : Goes (divide i cl d a b f s) := run_goes h

end

theorem Goes.next (t : State) : Goes (.next t) := ⟨t, rfl⟩

theorem Goes.ite {p : Prop} [Decidable p] {o q : Host.Outcome State Fault Refusal} (ho : Goes o) (hq : Goes q) :
    Goes (if p then o else q) := by
  split
  · exact ho
  · exact hq

/-- A load's reply: what comes back is the request's kind's (R153, R155). -/
theorem deviceLoadReturn_goes (req : Nat) (s : State) : Goes (execDeviceLoadReturn req s) := by
  unfold execDeviceLoadReturn
  cases s.req? req with
  | none => exact .next s
  | some r =>
    dsimp only
    split
    · refine .ite (.next s) ?_
      cases r.kind <;> exact .next _
    · exact .next s

/-- A line that the scrubber reads: what it records is by the space that the line is of (R334). -/
theorem scrubLine_goes (space inst line : Nat) (bad : Bool) (s : State) : Goes (execScrubLine space inst line bad s) := by
  unfold execScrubLine
  extract_lets die s1 part
  refine .ite (.next _) ?_
  dsimp only
  repeat' split
  all_goals exact .next _

/-- A word whose context holds the port goes through the pipeline, which always goes on; an event that is not enabled changes
nothing, and one that is enabled answers its effect. -/
theorem exec_goes {i : Instr} {s : State} (h : (layout i).isSome = true → ∃ x, s.current = some x) : Goes (exec i s) := by
  cases i with
  | add | sub | mul | mulh | mulhu | and | or | xor | sll | srl | sra | min | max | minu | maxu | bfi | crc32c =>
    dsimp only [exec]
    exact scalar2_goes (h rfl).choose_spec
  | addi | andi | ori | xori | slli | srli | srai | clz | popc | bfx | lih =>
    dsimp only [exec]
    exact scalar1_goes (h rfl).choose_spec
  | div | divu | rem | remu =>
    dsimp only [exec]
    exact divide_goes (h rfl).choose_spec
  | li | cmp | cmpi | plog | pmov | sel | tgt | tgtr | movb | lcset | lkmov | nop | srd | swr | trap | tret | exit | yield |
  time | ident | wfi | iflush | brk | srset | srclr | deadmk | liveq | chk | mchk | xalm | spdrd | rand | ldl | stl | ldq |
  stq | ld | st | vldl | vstl | vldq | vstq | vld | vst | vgathl | vscatl | aadd | alog | amnx | aswp | acas | afadd |
  waitmem | fence | cld | cst | cnarrow | cget | csetc | pfetch | cinv | signal | zerol | movk | vadd | vsub | vmul | vfma |
  vfms | vmin | vmax | vabs | vneg | vrcp | vrsq | vexp2 | vlog2 | vand | vor | vxor | vshl | vshr | vcmp | vsel | vbcast |
  vextr | vins | vperm | vreduce | vcvt | vretag | vplane | vqscale | vbnd | vscan | vmovp | mzero | mma | mmat | mmas |
  mmast | mlda | msta | mstq | maddt | mscl | mrowv | mvrow | mtrn | mredr | mshape | mfmt | pload | pset | pget | pcount |
  pgen | pinv | cutset | cut | cutb | mstat | mstage | msave | mrest | mdot | mbias | mclamp | meet | part | xreg | xvreg |
  xlug | meetq | barw | take | share | launch | cpy | cpyt | cpyw | cpyg | cpys | cpyp | cpyr | cpwait | cpstat | stgwait |
  stgrel | stgset | evwait | evclr | mould | tmark | cpcan | launchq =>
    dsimp only [exec]
    exact run_goes (h rfl).choose_spec
  | bar | bara | sstep | barred =>
    dsimp only [exec]
    exact runWith_goes (h rfl).choose_spec
  | reductionMergeApply | hostirqWrite | meetWithdrawal | drainWrite | proofArm | triprecClear | partmapWrite |
  machineCheckError | sbptrWrite =>
    exact .next _
  | fixedLatencyWriteback => rw [exec_fixedLatencyWriteback, execFixedLatencyWriteback]; (repeat' split) <;> exact .next _
  | divideComplete => rw [exec_divideComplete, execDivideComplete]; (repeat' split) <;> exact .next _
  | matrixUnitWordDone => rw [exec_matrixUnitWordDone, execMatrixUnitWordDone]; (repeat' split) <;> exact .next _
  | onQuadAccessDone => rw [exec_onQuadAccessDone, execOnQuadAccessDone]; (repeat' split) <;> exact .next _
  | generatorCutterDone => rw [exec_generatorCutterDone, execGeneratorCutterDone]; (repeat' split) <;> exact .next _
  | contextSwitch => rw [exec_contextSwitch, execContextSwitch]; (repeat' split) <;> exact .next _
  | portResume => rw [exec_portResume, execPortResume]; (repeat' split) <;> exact .next _
  | trapEntry => rw [exec_trapEntry, execTrapEntry]; (repeat' split) <;> exact .next _
  | timerMatch => rw [exec_timerMatch, execTimerMatch]; (repeat' split) <;> exact .next _
  | interruptTaken => rw [exec_interruptTaken, execInterruptTaken]; (repeat' split) <;> exact .next _
  | timecmpWrite => rw [exec_timecmpWrite, execTimecmpWrite]; (repeat' split) <;> exact .next _
  | extpendWrite => rw [exec_extpendWrite, execExtpendWrite]; (repeat' split) <;> exact .next _
  | homePortAccess => rw [exec_homePortAccess, execHomePortAccess]; (repeat' split) <;> exact .next _
  | deviceLoadReturn => exact deviceLoadReturn_goes ..
  | storeAccepted => rw [exec_storeAccepted]; dsimp only [execStoreAccepted]; (repeat' split) <;> exact .next _
  | atomicReply => rw [exec_atomicReply, execAtomicReply]; (repeat' split) <;> exact .next _
  | waitmemSatisfied => rw [exec_waitmemSatisfied, execWaitmemSatisfied]; (repeat' split) <;> exact .next _
  | releaseWaitDone => rw [exec_releaseWaitDone, execReleaseWaitDone]; (repeat' split) <;> exact .next _
  | l1LineExpiry => rw [exec_l1LineExpiry, execL1LineExpiry]; (repeat' split) <;> exact .next _
  | translationWalk => rw [exec_translationWalk, execTranslationWalk]; (repeat' split) <;> exact .next _
  | otinvWrite => rw [exec_otinvWrite, execOtinvWrite]; (repeat' split) <;> exact .next _
  | invalidationComplete => rw [exec_invalidationComplete]; dsimp only [execInvalidationComplete]; (repeat' split) <;> exact .next _
  | migreqWrite => rw [exec_migreqWrite, execMigreqWrite]; (repeat' split) <;> exact .next _
  | migrationRound => rw [exec_migrationRound, execMigrationRound]; (repeat' split) <;> exact .next _
  | migrationFreeze => rw [exec_migrationFreeze, execMigrationFreeze]; (repeat' split) <;> exact .next _
  | kicksetWrite => rw [exec_kicksetWrite, execKicksetWrite]; (repeat' split) <;> exact .next _
  | kickclrWrite => rw [exec_kickclrWrite, execKickclrWrite]; (repeat' split) <;> exact .next _
  | lqbaseWrite => rw [exec_lqbaseWrite]; dsimp only [execLqbaseWrite]; (repeat' split) <;> exact .next _
  | kickScan => rw [exec_kickScan, execKickScan]; (repeat' split) <;> exact .next _
  | kickTake => rw [exec_kickTake]; dsimp only [execKickTake]; (repeat' split) <;> exact .next _
  | journalEntryAccepted => rw [exec_journalEntryAccepted]; dsimp only [execJournalEntryAccepted]; (repeat' split) <;> exact .next _
  | launchSubmission => rw [exec_launchSubmission]; dsimp only [execLaunchSubmission]; (repeat' split) <;> exact .next _
  | dependenceThreshold => rw [exec_dependenceThreshold, execDependenceThreshold]; (repeat' split) <;> exact .next _
  | crewDispatch => rw [exec_crewDispatch, execCrewDispatch]; (repeat' split) <;> exact .next _
  | preemption => rw [exec_preemption]; dsimp only [execPreemption]; (repeat' split) <;> exact .next _
  | stallSweep => rw [exec_stallSweep, execStallSweep]; (repeat' split) <;> exact .next _
  | crewSwapIn => rw [exec_crewSwapIn, execCrewSwapIn]; (repeat' split) <;> exact .next _
  | cycleCheckExpiry => rw [exec_cycleCheckExpiry, execCycleCheckExpiry]; (repeat' split) <;> exact .next _
  | barrierWatchdogExpiry => rw [exec_barrierWatchdogExpiry, execBarrierWatchdogExpiry]; (repeat' split) <;> exact .next _
  | gangCompletion => rw [exec_gangCompletion, execGangCompletion]; (repeat' split) <;> exact .next _
  | takeServed => rw [exec_takeServed, execTakeServed]; (repeat' split) <;> exact .next _
  | shareServed => rw [exec_shareServed, execShareServed]; (repeat' split) <;> exact .next _
  | barrierArrival => rw [exec_barrierArrival]; dsimp only [execBarrierArrival]; (repeat' split) <;> exact .next _
  | barrierComplete => rw [exec_barrierComplete, execBarrierComplete]; (repeat' split) <;> exact .next _
  | sstepComplete => rw [exec_sstepComplete]; dsimp only [execSstepComplete]; (repeat' split) <;> exact .next _
  | barrierRelease => rw [exec_barrierRelease]; dsimp only [execBarrierRelease]; (repeat' split) <;> exact .next _
  | podBarrierReport => rw [exec_podBarrierReport]; dsimp only [execPodBarrierReport]; (repeat' split) <;> exact .next _
  | meetArrival => rw [exec_meetArrival]; dsimp only [execMeetArrival]; (repeat' split) <;> exact .next _
  | meetingCoreChosen => rw [exec_meetingCoreChosen, execMeetingCoreChosen]; (repeat' split) <;> exact .next _
  | meetLanded => rw [exec_meetLanded, execMeetLanded]; (repeat' split) <;> exact .next _
  | partLanded => rw [exec_partLanded, execPartLanded]; (repeat' split) <;> exact .next _
  | meetTimeout => rw [exec_meetTimeout]; dsimp only [execMeetTimeout]; (repeat' split) <;> exact .next _
  | copyLine => rw [exec_copyLine, execCopyLine]; (repeat' split) <;> exact .next _
  | transferComplete => rw [exec_transferComplete, execTransferComplete]; (repeat' split) <;> exact .next _
  | copyFault => rw [exec_copyFault, execCopyFault]; (repeat' split) <;> exact .next _
  | peerSignal => rw [exec_peerSignal, execPeerSignal]; (repeat' split) <;> exact .next _
  | linkRailFailure => rw [exec_linkRailFailure, execLinkRailFailure]; (repeat' split) <;> exact .next _
  | linkFlitRetry => rw [exec_linkFlitRetry, execLinkFlitRetry]; (repeat' split) <;> exact .next _
  | linkDown => rw [exec_linkDown, execLinkDown]; (repeat' split) <;> exact .next _
  | superstepReplay => rw [exec_superstepReplay, execSuperstepReplay]; (repeat' split) <;> exact .next _
  | gangEnd => rw [exec_gangEnd, execGangEnd]; (repeat' split) <;> exact .next _
  | scrubLine => exact scrubLine_goes ..
  | retentionExit => rw [exec_retentionExit, execRetentionExit]; (repeat' split) <;> exact .next _
  | dieDrop => rw [exec_dieDrop, execDieDrop]; (repeat' split) <;> exact .next _
  | crossAlarm => rw [exec_crossAlarm, execCrossAlarm]; (repeat' split) <;> exact .next _
  | pgenrWrite => rw [exec_pgenrWrite]; dsimp only [execPgenrWrite]; (repeat' split) <;> exact .next _
  | quadHalt => rw [exec_quadHalt, execQuadHalt]; (repeat' split) <;> exact .next _
  | quadHalted => rw [exec_quadHalted, execQuadHalted]; (repeat' split) <;> exact .next _
  | quadResume => rw [exec_quadResume, execQuadResume]; (repeat' split) <;> exact .next _
  | debugStateWrite => rw [exec_debugStateWrite, execDebugStateWrite]; (repeat' split) <;> exact .next _
  | sampleBufferSetup => rw [exec_sampleBufferSetup, execSampleBufferSetup]; (repeat' split) <;> exact .next _
  | proofSnapshot => rw [exec_proofSnapshot, execProofSnapshot]; (repeat' split) <;> exact .next _
  | dvreq => rw [exec_dvreq]; dsimp only [execDvreq]; (repeat' split) <;> exact .next _
  | clockSwitch => rw [exec_clockSwitch, execClockSwitch]; (repeat' split) <;> exact .next _
  | dvfsPauseEnd => rw [exec_dvfsPauseEnd, execDvfsPauseEnd]; (repeat' split) <;> exact .next _
  | arrayGate => rw [exec_arrayGate, execArrayGate]; (repeat' split) <;> exact .next _
  | arrayWake => rw [exec_arrayWake, execArrayWake]; (repeat' split) <;> exact .next _
  | thermalWarning => rw [exec_thermalWarning, execThermalWarning]; (repeat' split) <;> exact .next _
  | emergencySaveCommit => rw [exec_emergencySaveCommit]; dsimp only [execEmergencySaveCommit]; (repeat' split) <;> exact .next _
  | thermalTrip => rw [exec_thermalTrip, execThermalTrip]; (repeat' split) <;> exact .next _
  | packageReset => rw [exec_packageReset, execPackageReset]; (repeat' split) <;> exact .next _
  | partitionReset => rw [exec_partitionReset, execPartitionReset]; (repeat' split) <;> exact .next _
  | attestationRequest => rw [exec_attestationRequest, execAttestationRequest]; (repeat' split) <;> exact .next _
  | attestationDone => rw [exec_attestationDone, execAttestationDone]; (repeat' split) <;> exact .next _
  | tamperAlarm => rw [exec_tamperAlarm, execTamperAlarm]; (repeat' split) <;> exact .next _
  | registerWrite => rw [exec_registerWrite, execRegisterWrite]; (repeat' split) <;> exact .next _
  | fixedTimeTagClear => rw [exec_fixedTimeTagClear, execFixedTimeTagClear]; (repeat' split) <;> exact .next _
  | temperatureFalls => rw [exec_temperatureFalls, execTemperatureFalls]; (repeat' split) <;> exact .next _

/-! ## What an epoch's opening leaves of the ports (R329) -/

namespace State
variable {s t u : State}

/-- The same core is in focus, and the same slots and contexts hold the ports of the cores. -/
structure KeepsPort (s t : State) : Prop where
  focus : t.focus = s.focus
  port : ∀ c, ((t.core c).slots, (t.core c).holder) = ((s.core c).slots, (s.core c).holder)

theorem KeepsPort.portAct (h : s.KeepsPort t) (c : Nat) : t.portAct c = s.portAct c := by
  have hp := Prod.mk.inj (h.port c)
  simp only [State.portAct, hp.1, hp.2]

theorem KeepsPort.current (h : s.KeepsPort t) : t.current = s.current := by
  rw [State.current_eq, State.current_eq, h.focus, h.portAct]

namespace KeepsPort

theorem refl (s : State) : s.KeepsPort s := ⟨rfl, fun _ => rfl⟩

/-- An update of other fields than the cores. -/
theorem aside (h : s.KeepsPort t) (e : (u.focus, u.cores) = (t.focus, t.cores) := by rfl) : s.KeepsPort u := by
  obtain ⟨hf, hc⟩ := Prod.mk.inj e
  exact ⟨hf.trans h.focus, fun c => by simpa only [State.core, hc] using h.port c⟩

theorem ite {c : Prop} [Decidable c] (h : s.KeepsPort t) (k : s.KeepsPort u) : s.KeepsPort (if c then t else u) := by
  split
  · exact h
  · exact k

theorem foldl {β : Type} {l : List β} {f : State → β → State} (h : s.KeepsPort t)
    (hf : ∀ u x, s.KeepsPort u → s.KeepsPort (f u x)) : s.KeepsPort (l.foldl f t) := by
  induction l generalizing t with
  | nil => exact h
  | cons x l ih => exact ih (hf t x h)

/-- A part done for each element in turn, until one of them answers no state. -/
theorem foldlSome {β : Type} {l : List β} {f : Option State → β → Option State} {o : Option State}
    (h : ∀ u, o = some u → s.KeepsPort u) (hn : ∀ x, f none x = none)
    (hf : ∀ v x u, s.KeepsPort v → f (some v) x = some u → s.KeepsPort u) (hu : l.foldl f o = some u) : s.KeepsPort u := by
  induction l generalizing o with
  | nil => exact h u hu
  | cons x l ih =>
    refine ih (fun w hw => ?_) hu
    cases o with
    | none => rw [hn] at hw; cases hw
    | some v => exact hf v x w (h v rfl) hw

/-- The cores change in other fields than their slots and their holders. -/
theorem mapCores (h : s.KeepsPort t) {f : Core → Core} (hd : f {} = {})
    (hf : ∀ x, ((f x).slots, (f x).holder) = (x.slots, x.holder)) : s.KeepsPort (t.mapCores f) := by
  refine ⟨h.focus, fun c => Eq.trans ?_ (h.port c)⟩
  have hg : (t.mapCores f).core c = f (t.core c) := by
    unfold State.mapCores State.core
    dsimp only
    generalize t.cores = l
    induction l with
    | nil => exact hd.symm
    | cons x l ih =>
      simp only [List.map_cons, tableGet?]
      split
      · rfl
      · exact ih
  rw [hg, hf]

theorem badWrite (h : s.KeepsPort t) {g c : Nat} : s.KeepsPort (t.badWrite g c) := .ite h.aside h

theorem mcPut (h : s.KeepsPort t) {l : Nat} {x : McLine} : s.KeepsPort (t.mcPut l x) := by
  unfold State.mcPut
  split
  · exact h
  · exact .ite h (.ite h (.ite h.aside h.aside))

theorem mcWrite (h : s.KeepsPort t) {l : Nat} {w : Bool} : s.KeepsPort (t.mcWrite l w) := mcPut (.ite h.aside h)

theorem mcRefetch (h : s.KeepsPort t) {a n : Nat} : s.KeepsPort (t.mcRefetch a n) := by
  refine h.foldl fun u l hu => ?_
  dsimp only
  split
  · exact .ite hu.aside hu
  · exact hu

theorem devLog (h : s.KeepsPort t) {g c l o : Nat} {p : Bool} : s.KeepsPort (t.devLog g c l p o) :=
  .ite h (.ite h.badWrite (.ite h (.ite h.badWrite h.aside)))

theorem noteRead (h : s.KeepsPort t) {r : Req} {p : Option Poison} : s.KeepsPort (t.noteRead r p) := by
  cases p with
  | none => exact h
  | some q => exact mcRefetch h.aside

theorem answerWait (h : s.KeepsPort t) {n : Nat} {r : Req} : s.KeepsPort (t.answerWait n r) := by
  unfold State.answerWait
  split
  · exact noteRead h.aside
  · exact h

theorem notifyWaits (h : s.KeepsPort t) {a n : Nat} : s.KeepsPort (t.notifyWaits a n) := h.foldl fun _ _ hu => hu.answerWait

theorem notifyDeps (h : s.KeepsPort t) {a n : Nat} : s.KeepsPort (t.notifyDeps a n) := h.aside

theorem markDirty (h : s.KeepsPort t) {a n : Nat} : s.KeepsPort (t.markDirty a n) := h.aside

theorem homeWrite (h : s.KeepsPort t) {g : Option (Nat × Nat)} {a : Nat} {bs : List Byte} {m : List Bool} {w b p : Bool} {o : Nat} :
    s.KeepsPort (t.homeWrite g a bs m w b p o) := by
  unfold State.homeWrite
  refine .ite h ?_
  refine notifyDeps (notifyWaits (markDirty (foldl ?_ fun u l hu => .ite hu.mcWrite hu)))
  cases g with
  | none => exact h.aside
  | some g => exact aside (h.foldl fun _ _ hu => hu.devLog)

theorem applyMerge (h : s.KeepsPort t) {m : Merge} : s.KeepsPort (t.applyMerge m) := .ite h h.homeWrite

theorem applyLine (h : s.KeepsPort t) {l : Nat} : s.KeepsPort (t.applyLine l) := foldl h.aside fun _ _ hu => hu.applyMerge

theorem dropMoulds (h : s.KeepsPort t) {g : Nat} : s.KeepsPort (t.dropMoulds g) :=
  aside (h.mapCores (f := fun c => { c with
    mould := c.mould.filter (fun e => e.gang != g), halfLines := c.halfLines.filter (fun x => x.1 != g) }) rfl fun _ => rfl)

theorem objWrite (h : s.KeepsPort t) {p o f : Nat} {bs : List Byte} (hu : t.objWrite p o f bs = some u) : s.KeepsPort u := by
  refine foldlSome (by rintro _ ⟨⟩; exact h) (fun _ => rfl) (fun v i w hv hw => ?_) hu
  dsimp only at hw
  split at hw
  · cases hw
  · cases hw
    exact hv.applyLine.homeWrite

theorem writeMould (h : s.KeepsPort t) {a : Nat} {r : Option Word64} : s.KeepsPort (t.writeMould a r) := by
  unfold State.writeMould
  dsimp only
  split
  · next e => exact foldlSome (by rintro _ ⟨⟩; exact h) (fun _ => rfl) (fun _ _ _ hv hw => hv.objWrite hw) e
  · exact .ite h.aside h

theorem openEpoch (h : s.KeepsPort t) {g n : Nat} {r : Option Word64} : s.KeepsPort (t.openEpoch g n r) := by
  have hd : s.KeepsPort ((t.flushMerges g).dropMoulds g) := dropMoulds (h.foldl fun _ _ hu => hu.applyLine)
  exact aside (foldl (aside (u := ((t.flushMerges g).dropMoulds g).setGang g _) hd) fun _ _ hu => hu.writeMould)

theorem fetchTouch (s : State) (a : Act) : s.KeepsPort (s.fetchTouch a) :=
  ⟨(s.sameButOtc_fetchTouch a).focus, fun c => by rw [(s.sameButOtc_fetchTouch a).core c]⟩

end KeepsPort
end State

/-! ## Steps -/

section
variable {s : State} {c aid : Nat} (h : ∃ x, s.current = some x)
include h

theorem issueWord_goes : Goes (issueWord c aid s) := by
  unfold issueWord
  dsimp only
  refine .ite (.next _) ?_
  split
  · exact .next _
  split
  · exact .next _
  split
  · exact .next _
  · exact exec_goes fun _ => by rwa [(State.KeepsPort.fetchTouch s _).current]

theorem issueNext_goes : Goes (issueNext c aid s) := by
  obtain ⟨t, ht⟩ := issueWord_goes (c := c) (aid := aid) h
  simp only [issueNext, ht]
  exact .ite (issueWord_goes (by rwa [(State.KeepsPort.refl s).openEpoch.current])) (.next t)

theorem portCycle_goes : Goes (portCycle c aid s) := by
  have event {i : Instr} (hi : layout i = none) : Goes (exec i s) := exec_goes fun hw => by simp [hi] at hw
  unfold portCycle
  dsimp only
  refine .ite (.next _) ?_
  split
  · exact .ite (event (i := .trapEntry aid) rfl) (.next _)
  split
  · exact event (i := .interruptTaken aid) rfl
  refine .ite (.next _) (.ite (.next _) ?_)
  split
  · exact issueNext_goes h
  · exact issueNext_goes h

end

theorem coreCycle_goes (s : State) : Goes (coreCycle s) := by
  unfold coreCycle
  dsimp only
  refine .ite (.next _) (.ite ?_ ?_)
  · split
    · exact .ite (.next _) (.next _)
    · exact .next _
  split
  · next aid hp => exact portCycle_goes ⟨(s.focus, aid), by rw [State.current_eq, hp]; rfl⟩
  split <;> exact .next _

theorem runMove_goes (m : Move) (s : State) : Goes (runMove m s) := by
  cases m with
  | hostWrite a bs => exact .next _
  | tick => exact .next _
  | cycle c => exact coreCycle_goes _
  | prefetch c => exact .next _
  | event i =>
    dsimp only [runMove]
    split
    · exact .next s
    · next hl => exact exec_goes fun hw => absurd (by simp [hw]) hl

/-- Settles O44: a step is a cycle of a core, which issues a word for a context alone, or another move. -/
theorem everyStepGoes : Obligations.EveryStepGoes := by
  unfold Obligations.EveryStepGoes
  intro s
  unfold step
  split
  · exact coreCycle_goes s
  · exact runMove_goes _ _

end Sys2Proof.Machine
end

section
/-! The frame of the scalar words: what they leave of the queues and tables, of a register and of the special registers (R95, R99, R106,
R112..R128, R147). -/
namespace Sys2Proof.Machine

/-! ## What the pipeline of a scalar word leaves of the queues and tables -/

/-- The operations, requests, walks and partitions stand as they were, and in every core the tiles, the caches and the matrix queue. -/
structure State.SameQueues (s t : State) : Prop where
  ops : t.ops = s.ops
  reqs : t.reqs = s.reqs
  parts : t.parts = s.parts
  walks : t.walks = s.walks
  core : ∀ k, ((t.core k).tiles, (t.core k).l1, (t.core k).otc, (t.core k).mqueue)
    = ((s.core k).tiles, (s.core k).l1, (s.core k).otc, (s.core k).mqueue)

/-- A frame that covers both is what the statement names. -/
theorem State.SameQueues.sameStore {s t : State} {c aid : Nat} (h : s.SameQueues t) (k : s.Keeps t c aid) :
    s.SameStore t ∧ (s.core c).SameStore (t.core c) := by
  obtain ⟨ht, hl⟩ := Prod.mk.inj (h.core c)
  obtain ⟨hl, hq⟩ := Prod.mk.inj hl
  obtain ⟨ho, hq⟩ := Prod.mk.inj hq
  have hm := k.memory c
  exact ⟨⟨k.mem, k.tags, k.poison, h.ops, h.reqs, k.quads, k.dies, h.parts, k.insts, k.merges, k.journals, h.walks, k.recs, k.seq,
    k.links, k.tick⟩, ⟨hm.lm, hm.poison, ht, hm.tilePoison, hl, ho, hq, hm.mcstat, hm.mould⟩⟩

namespace State.SameQueues
variable {s t : State} {c aid : Nat}

theorem refl (s : State) : s.SameQueues s := ⟨rfl, rfl, rfl, rfl, fun _ => rfl⟩

theorem setAct (h : s.SameQueues t) {a : Act} : s.SameQueues (t.setAct aid a) := ⟨h.ops, h.reqs, h.parts, h.walks, h.core⟩

theorem setGang (h : s.SameQueues t) {n : Nat} {g : Gang} : s.SameQueues (t.setGang n g) := ⟨h.ops, h.reqs, h.parts, h.walks, h.core⟩

theorem setCore (h : s.SameQueues t) {k : Nat} {x : Core}
    (hx : (x.tiles, x.l1, x.otc, x.mqueue) = ((t.core k).tiles, (t.core k).l1, (t.core k).otc, (t.core k).mqueue) := by rfl) :
    s.SameQueues (t.setCore k x) := by
  refine ⟨h.ops, h.reqs, h.parts, h.walks, fun n => ?_⟩
  by_cases hn : n = k
  · subst hn; rw [State.core_setCore_same, hx, h.core]
  · rw [State.core_setCore_other _ _ _ hn, h.core]

theorem noteFault (h : s.SameQueues t) {g k : Nat} {r : TrapReq} : s.SameQueues (t.noteFault g r k) := by
  unfold State.noteFault
  split
  · exact h
  · split
    · exact h
    · exact h.setGang

theorem reportStop (h : s.SameQueues t) {r : TrapReq} : s.SameQueues (t.reportStop aid r) := h.setAct.noteFault

theorem nestedFault (h : s.SameQueues t) {r : TrapReq} : s.SameQueues (t.nestedFault aid r) := by
  unfold State.nestedFault
  dsimp only
  split
  · exact h.setAct
  · exact h.setAct.setGang

theorem settle (h : s.SameQueues t) : s.SameQueues (t.settle c aid) := h.setAct.setCore

theorem enterTrap (h : s.SameQueues t) {r : TrapReq} : s.SameQueues (t.enterTrap aid r) := by
  unfold State.enterTrap
  dsimp only
  split
  · exact h.settle.reportStop
  split
  · exact h.settle.nestedFault
  split
  · exact h.settle.setAct.reportStop
  · exact h.settle.setAct.setAct

theorem raise (h : s.SameQueues t) {x : Trap} : s.SameQueues (t.raise aid x) := by
  unfold State.raise State.takeTrap
  split
  · exact h.enterTrap
  · exact h.setAct

theorem idle (h : s.SameQueues t) : s.SameQueues (t.idle c) := by
  unfold State.idle
  dsimp only
  split
  · exact h.setCore.setAct
  · exact h.setCore

theorem awaitWrite (h : s.SameQueues t) : s.SameQueues (t.awaitWrite c aid) := by
  unfold State.awaitWrite
  split
  · exact h.setCore.setAct
  · exact h

theorem passPort (h : s.SameQueues t) {d : Option Nat} : s.SameQueues (t.passPort c d) := by
  unfold State.passPort
  dsimp only
  split
  · exact h.setAct.setCore
  · exact h.setCore

theorem switchPort (h : s.SameQueues t) : s.SameQueues (t.switchPort c) := by
  unfold State.switchPort
  dsimp only
  split
  · exact h.setAct.passPort
  · exact h.passPort

/-- A word that waits for tags and results alone. -/
theorem waits {a : Act} {cl : Clauses} (h : s.waits c aid a cl {} = some t) : s.SameQueues t := by
  have some_eq {u : State} (hu : s.SameQueues u) (he : some u = some t) : s.SameQueues t := by injection he with he; exact he ▸ hu
  simp only [State.waits, Bool.false_eq_true, false_and, if_false] at h
  split at h
  · exact some_eq (refl s).switchPort h
  · exact some_eq (refl s).idle h
  split at h
  · exact some_eq (refl s).awaitWrite h
  · cases h

theorem clocked (h : s.SameQueues t) : s.SameQueues (t.clocked c) := h.setCore

end State.SameQueues

/-! ## What the issue of a scalar word leaves of a register -/

/-- A register of a file set reads the same, and is poisoned the same; its live bit is the same where `P` holds. -/
structure Regs.SameReg (P : Prop) (r : RegName) (g h : Regs) : Prop where
  s : r.file = .s → sparseGet 0 h.s r.num = sparseGet 0 g.s r.num
  v : r.file = .v → sparseGet {} h.v r.num = sparseGet {} g.v r.num
  p : r.file = .p → sparseGet 0 h.p r.num = sparseGet 0 g.p r.num
  b : r.file = .b → sparseGet 0 h.b r.num = sparseGet 0 g.b r.num
  k : r.file = .k → sparseGet {} h.k r.num = sparseGet {} g.k r.num
  poison : tableGet? h.poison (regKey r) = tableGet? g.poison (regKey r)
  live : P → h.live r = g.live r

namespace Regs.SameReg
variable {P : Prop} {r q : RegName} {g : Regs}

theorem refl (P : Prop) (r : RegName) (g : Regs) : g.SameReg P r g :=
  ⟨fun _ => rfl, fun _ => rfl, fun _ => rfl, fun _ => rfl, fun _ => rfl, rfl, fun _ => rfl⟩

/-- A write of another register. -/
theorem put {w : RegWrite} (hr : r.num < 64) (hw : w.reg.num < 64) (hn : r ≠ w.reg) : g.SameReg P r (g.put w) := by
  by_cases hd : w.reg = sreg 0 ∨ w.reg = preg 0
  · rw [Regs.put_discarded hd]; exact refl P r g
  have beside {f : RegFile} (hf : r.file = f) : r.num ≠ w.reg.num ∨ ¬w.reg.file = f := by
    by_contra hc
    obtain ⟨h1, h2⟩ := not_or.mp hc
    exact hn (by cases r; cases h : w.reg; simp_all)
  obtain ⟨hs, hv, hp, hb, hk⟩ := Regs.files_put g w
  refine ⟨fun hf => ?_, fun hf => sparseGet_put_ne hv (beside hf), fun hf => sparseGet_put_ne hp (beside hf),
    fun hf => sparseGet_put_ne hb (beside hf), fun hf => sparseGet_put_ne hk (beside hf), ?_, fun _ => ?_⟩
  · exact sparseGet_put_ne (hs.imp_right fun ⟨h1, _, h2⟩ => ⟨h1, h2⟩) (beside hf)
  · rw [Regs.poison_put _ hd, if_neg fun e => hn (regKey_inj hr hw e)]
  · rw [Regs.live_put r hd, if_neg fun e => hn e.1]

/-- A live bit that is cleared; the register's own counts where `P` holds. -/
theorem setLive {v : Bool} (hn : P → r ≠ q) : g.SameReg P r (g.setLive q v) := by
  by_cases hd : q = sreg 0 ∨ q = preg 0
  · rw [show g.setLive q v = g by rcases hd with rfl | rfl <;> rfl]; exact refl P r g
  obtain ⟨hs, hv, hp, hb, hk, hx⟩ := Regs.setLive_files g q v
  exact ⟨fun _ => by rw [hs], fun _ => by rw [hv], fun _ => by rw [hp], fun _ => by rw [hb], fun _ => by rw [hk], by rw [hx],
    fun h => by rw [Regs.live_setLive v r hd, if_neg fun e => hn h e.1]⟩

end Regs.SameReg

/-- A register of a context reads the same and is poisoned the same, with the status word as it was; its live bit is the same where
`P` holds. -/
structure Act.SameReg (P : Prop) (r : RegName) (a b : Act) : Prop where
  asw : b.asw = a.asw
  val : b.valOf r = a.valOf r
  poison : b.poison? r = a.poison? r
  live : P → b.live r = a.live r

namespace Act.SameReg
variable {P : Prop} {r : RegName} {a b c : Act}

theorem refl (P : Prop) (r : RegName) (a : Act) : a.SameReg P r a := ⟨rfl, rfl, rfl, fun _ => rfl⟩

theorem trans (h : a.SameReg P r b) (k : b.SameReg P r c) : a.SameReg P r c :=
  ⟨k.asw.trans h.asw, k.val.trans h.val, k.poison.trans h.poison, fun p => (k.live p).trans (h.live p)⟩

/-- A change of anything but registers and the status word. -/
theorem aside (h : (b.regs, b.bank, b.asw) = (a.regs, a.bank, a.asw) := by rfl) : a.SameReg P r b := by
  obtain ⟨hr, h⟩ := Prod.mk.inj h
  obtain ⟨hk, hw⟩ := Prod.mk.inj h
  have ht : b.tip = a.tip := by rw [Act.tip, Act.tip, hw]
  have hf (q : RegName) : b.regsFor q = a.regsFor q := by simp only [Act.regsFor, ht, hr, hk]
  exact ⟨hw, by simp only [Act.valOf, Act.s, Act.v, Act.p, Act.b, Act.k, hf, hr], by simp only [Act.poison?, hf],
    fun _ => by simp only [Act.live, hf]⟩

/-- The register is the same in the context's own file set and in the bank. -/
theorem of_regs (hw : b.asw = a.asw) (hr : a.regs.SameReg P r b.regs) (hk : a.bank.SameReg P r b.bank) : a.SameReg P r b := by
  have ht : b.tip = a.tip := by simp only [Act.tip, hw]
  have hf : (a.regsFor r).SameReg P r (b.regsFor r) := by
    simp only [Act.regsFor, ht]
    split
    · exact hk
    · exact hr
  refine ⟨hw, ?_, hf.poison, hf.live⟩
  obtain ⟨f, n⟩ := r
  cases f with
  | s => exact congrArg RegVal.w (hf.s rfl)
  | v => exact congrArg RegVal.v (hr.v rfl)
  | p => simp only [Act.valOf, Act.p, show sparseGet 0 b.regs.p n = sparseGet 0 a.regs.p n from hr.p rfl]
  | b => simp only [Act.valOf, Act.b, show sparseGet 0 b.regs.b n = sparseGet 0 a.regs.b n from hr.b rfl]
  | k => exact congrArg RegVal.k (hf.k rfl)

theorem foldl {β : Type} {f : Act → β → Act} {l : List β} (hf : ∀ (a : Act), ∀ x ∈ l, a.SameReg P r (f a x)) :
    a.SameReg P r (l.foldl f a) := by
  induction l generalizing a with
  | nil => exact refl P r a
  | cons x l ih => exact (hf a x List.mem_cons_self).trans (ih fun a y hy => hf a y (List.mem_cons_of_mem x hy))

theorem putIn {bank : Bool} {w : RegWrite} (hr : r.num < 64) (hw : w.reg.num < 64) (hn : r ≠ w.reg) : a.SameReg P r (a.putIn bank w) := by
  unfold Act.putIn
  split
  · exact of_regs rfl (.refl _ _ _) (.put hr hw hn)
  · exact of_regs rfl (.put hr hw hn) (.refl _ _ _)

theorem release {q : RegName} (hn : P → r ≠ q) : a.SameReg P r (a.release q) := by
  unfold Act.release
  split
  · exact of_regs rfl (.refl _ _ _) (.setLive hn)
  · exact of_regs rfl (.setLive hn) (.refl _ _ _)

/-- A result of other registers that raises no flag lands. -/
theorem land {w : FixedWrite} (hf : w.flags = 0) (hr : r.num < 64) (hw : ∀ x ∈ w.writes, x.reg.num < 64 ∧ r ≠ x.reg) :
    a.SameReg P r (a.land w) := by
  have hp : a.SameReg P r (a.putAll a.tip w.writes) := foldl fun a x hx => putIn hr (hw x hx).1 (hw x hx).2
  exact hp.trans (aside (by simp [Act.land, hf]))

theorem landDue {n : Nat} (hr : r.num < 64)
    (hw : ∀ w ∈ a.fixed, w.flags = 0 ∧ ∀ x ∈ w.writes, x.reg.num < 64 ∧ r ≠ x.reg) : a.SameReg P r (a.landDue n) :=
  trans (foldl fun _ w hm => land (hw w (List.mem_filter.mp hm).1).1 hr (hw w (List.mem_filter.mp hm).1).2) aside

end Act.SameReg

theorem Act.release_fixed (a : Act) (q : RegName) : (a.release q).fixed = a.fixed := by
  unfold Act.release
  split <;> rfl

theorem Act.releases_fixed (a : Act) (rs : List RegName) : (rs.foldl Act.release a).fixed = a.fixed := by
  induction rs generalizing a with
  | nil => rfl
  | cons q rs ih => exact (ih _).trans (a.release_fixed q)

/-- The results in flight once a word issues with none before it: its own. -/
theorem Act.issuing_fixed {a0 a : Act} {i : Instr} {cl : Clauses} {n : Nat} {e : Eff} (h : a.fixed = []) :
    ∀ w ∈ (a0.issuing a i cl n e).fixed, w.writes = e.writes ∧ w.flags = e.flags := by
  intro w hw
  unfold Act.issuing at hw
  dsimp only at hw
  split at hw
  · simp [Act.releases_fixed, h] at hw
  · simp only [Act.releases_fixed, h, List.nil_append, List.mem_singleton] at hw
    subst hw
    exact ⟨rfl, rfl⟩

/-- What a word that issues counts, remembers and does to the queue (R95, R300). -/
def Act.counting (a a0 : Act) (op : Option Nat) (freed : List RegName) (new : Option RdqEntry) : Act :=
  ((a.counted op).remember a0 freed).advance new

theorem Act.SameReg.counting {P : Prop} {r : RegName} {a a0 : Act} {op : Option Nat} {freed : List RegName} {new : Option RdqEntry} :
    a.SameReg P r (a.counting a0 op freed new) := aside

/-- A word retires in three parts: it issues, it counts, and the results that fall due are written. -/
theorem Act.retire_counting (a0 a : Act) (i : Instr) (cl : Clauses) (n : Nat) (e : Eff) : a0.retire a i cl n e
    = ((a0.issuing a i cl n e).counting a0 e.op ((releases i cl).filter a0.live) (a0.sequence cl).1).landDue (n + 1) := rfl

/-- A register as the word issues: its live bit is the same where the word does not release it. -/
theorem Act.SameReg.issuing {a0 a : Act} {i : Instr} {cl : Clauses} {n : Nat} {e : Eff} {r : RegName} :
    a.SameReg (r ∉ releases i cl) r (a0.issuing a i cl n e) := by
  unfold Act.issuing
  extract_lets z
  have hz : a.SameReg (r ∉ releases i cl) r z := .trans (b := { a with lk := _, lc := _ }) .aside
    (.foldl fun _ q hq => .release fun hn e => hn (e ▸ hq))
  split
  · exact hz
  · exact hz.trans .aside

/-- A register that the word does not write, as its context retires. -/
theorem Act.SameReg.retire {a0 a : Act} {i : Instr} {cl : Clauses} {n : Nat} {e : Eff} {r : RegName} (h : a.fixed = []) (hf : e.flags = 0)
    (hr : r.num < 64) (hw : ∀ x ∈ e.writes, x.reg.num < 64 ∧ r ≠ x.reg) : a.SameReg (r ∉ releases i cl) r (a0.retire a i cl n e) := by
  rw [Act.retire_counting]
  refine (Act.SameReg.issuing.trans .counting).trans (.landDue hr fun w hm => ?_)
  obtain ⟨h1, h2⟩ := Act.issuing_fixed h w hm
  exact ⟨h2.trans hf, h1 ▸ hw⟩

/-! ## What it leaves of the special registers -/

theorem Act.foldl_asw {β : Type} {f : Act → β → Act} {l : List β} (hf : ∀ (a : Act), ∀ x ∈ l, (f a x).asw = a.asw) (a : Act) :
    (l.foldl f a).asw = a.asw := by
  induction l generalizing a with
  | nil => rfl
  | cons x l ih => exact (ih (fun a y hy => hf a y (List.mem_cons_of_mem x hy)) _).trans (hf a x List.mem_cons_self)

/-- Results that raise no flag leave the status word. -/
theorem Act.landDue_asw {a : Act} {n : Nat} (h : ∀ w ∈ a.fixed, w.flags = 0) : (a.landDue n).asw = a.asw := by
  refine Act.foldl_asw (fun a w hw => ?_) a
  have hp : (a.putAll a.tip w.writes).asw = a.asw := Act.foldl_asw (fun a x _ => by unfold Act.putIn; split <;> rfl) a
  simp [Act.land, h w (List.mem_filter.mp hw).1, hp]

theorem Act.issuing_asw (a0 a : Act) (i : Instr) (cl : Clauses) (n : Nat) (e : Eff) : (a0.issuing a i cl n e).asw = a.asw := by
  have hr (x : Act) : ((releases i cl).foldl Act.release x).asw = x.asw :=
    Act.foldl_asw (fun a q _ => by unfold Act.release; split <;> rfl) x
  unfold Act.issuing
  dsimp only
  split <;> exact hr _

theorem Act.SameSpecial.trans {a b c : Act} (h : a.SameSpecial b) (k : b.SameSpecial c) : a.SameSpecial c :=
  ⟨k.asw.trans h.asw, k.code.trans h.code, k.srstate.trans h.srstate, k.trap.trans h.trap, k.traps.trans h.traps, k.bd.trans h.bd,
    k.msh.trans h.msh, k.mfm.trans h.mfm, k.msb.trans h.msb, k.gen.trans h.gen, k.cut.trans h.cut, k.held.trans h.held,
    k.party.trans h.party, k.tiles.trans h.tiles⟩

theorem Act.SameBut.sameSpecial {a b : Act} (h : a.SameBut b) (hw : b.asw = a.asw) : a.SameSpecial b := by
  obtain ⟨_, _, _, _, rfl⟩ := h
  exact ⟨hw, rfl, rfl, rfl, rfl, rfl, rfl, rfl, rfl, rfl, rfl, rfl, rfl, rfl⟩

theorem Act.SameBut.link {a b : Act} (h : a.SameBut b) : b.lk = a.lk ∧ b.lc = a.lc := by
  obtain ⟨_, _, _, _, rfl⟩ := h
  exact ⟨rfl, rfl⟩

/-- As its context retires, lk and lc are what the word or its sequencing makes them. -/
theorem Act.retire_link (a0 a : Act) (i : Instr) (cl : Clauses) (n : Nat) (e : Eff) :
    (a0.retire a i cl n e).lk = e.lk.getD (a0.sequence cl).2.1 ∧ (a0.retire a i cl n e).lc = e.lc.getD (a0.sequence cl).2.2 := by
  rw [Act.retire_counting]
  obtain ⟨hk, hc⟩ := (Act.sameBut_issuing a0 a i cl n e).link
  generalize a0.issuing a i cl n e = z at hk hc ⊢
  obtain ⟨hk', hc'⟩ := (Act.sameBut_landDue (z.counting a0 e.op ((releases i cl).filter a0.live) (a0.sequence cl).1) (n + 1)).link
  exact ⟨hk'.trans hk, hc'.trans hc⟩

/-- CALL alone writes lk with its sequencing, and LOOP lc (R94). -/
theorem Act.sequence_link {a : Act} {cl : Clauses} (h4 : cl.seqMode ≠ 4) (h6 : cl.seqMode ≠ 6) :
    (a.sequence cl).2 = (a.lk, a.lc) := by
  have h4' : cl.seqMode.toNat ≠ 4 := fun e => h4 (BitVec.eq_of_toNat_eq e)
  have h6' : cl.seqMode.toNat ≠ 6 := fun e => h6 (BitVec.eq_of_toNat_eq e)
  simp only [Act.sequence, if_neg h4', if_neg h6']
  split <;> rfl

theorem Act.SameSpecial.counting {a a0 : Act} {op : Option Nat} {freed : List RegName} {new : Option RdqEntry} :
    a.SameSpecial (a.counting a0 op freed new) := ⟨rfl, rfl, rfl, rfl, rfl, rfl, rfl, rfl, rfl, rfl, rfl, rfl, rfl, rfl⟩

theorem Act.SameSpecial.setLink {a : Act} (k : BitVec 32) (l : Word64) : a.SameSpecial { a with lk := k, lc := l } :=
  ⟨rfl, rfl, rfl, rfl, rfl, rfl, rfl, rfl, rfl, rfl, rfl, rfl, rfl, rfl⟩

/-- The special registers, once a word that raises no flag retires and no result was in flight. -/
theorem Act.SameSpecial.retire {a0 a : Act} {i : Instr} {cl : Clauses} {n : Nat} {e : Eff} (h : a.fixed = []) (hf : e.flags = 0) :
    a.SameSpecial (a0.retire a i cl n e) := by
  rw [Act.retire_counting]
  have hi : a.SameSpecial (a0.issuing a i cl n e) :=
    (Act.SameSpecial.setLink _ _).trans ((Act.sameBut_issuing a0 a i cl n e).sameSpecial (Act.issuing_asw ..))
  refine (hi.trans .counting).trans ((Act.sameBut_landDue _ _).sameSpecial (Act.landDue_asw fun w hm => ?_))
  exact (Act.issuing_fixed h w hm).2.trans hf

/-! ## The frame -/

theorem useReg_num_lt {u : FieldUse} {d : BitVec 6} {r : RegName} (h : useReg u d = some r) : r.num < 64 := by
  unfold useReg at h
  split at h <;> cases h <;> exact d.isLt

theorem destOf_num_lt {i : Instr} {r : RegName} (h : destOf i = some r) : r.num < 64 := by
  unfold destOf at h
  split at h
  · exact useReg_num_lt h
  · cases h

/-- A plain word leaves the queues and tables, whichever next state it answers. -/
theorem PlainWord.sameQueues {i : Instr} {s t : State} {c aid : Nat} (hi : PlainWord i) (hc : s.Holds c aid) (hs : s.stip c = 0)
    (h : exec i s = .next t) : s.SameQueues t := by
  obtain ⟨body, hx, hb⟩ := hi
  rw [hx] at h
  rcases runWith_cases i (fieldsOf i).cl (fun _ => {}) noPre body s with ⟨hn, -⟩ | ⟨c', aid', hc', h1⟩
  · rw [State.Holds, hn] at hc; cases hc
  · have he : c' = c ∧ aid' = aid := by rw [State.Holds] at hc; rw [hc] at hc'; simpa [eq_comm] using hc'
    obtain ⟨rfl, rfl⟩ := he
    obtain ⟨e, hg, hp⟩ := hb c' aid' (s.act aid') s
    rcases h1 with ⟨_, h1⟩ | ⟨u, hw, h1⟩ | ⟨u, hw, -⟩ | ⟨b, hw, -⟩ | ⟨e', hw, h1⟩
    · rw [run, h1] at h
      cases h
      exact (State.SameQueues.refl s).raise
    · rw [run, h1] at h
      cases h
      exact .waits hw
    · rw [hg] at hw; cases hw
    · rw [hg] at hw; cases hw
    · rw [run, h1] at h
      cases h
      obtain rfl : e = e' := by rw [hg] at hw; injection hw
      rw [State.issue_plain hp.post (by rw [hp.st]; exact hs), hp.st]
      exact (State.SameQueues.refl s).setAct.clocked

/-- It leaves what the pipeline leaves. -/
theorem PlainWord.keeps {i : Instr} {s t : State} {c aid : Nat} (hi : PlainWord i) (hc : s.Holds c aid) (hs : s.stip c = 0)
    (h : exec i s = .next t) : s.Keeps t c aid := by
  obtain ⟨body, hx, hb⟩ := hi
  obtain ⟨e, hg, hp⟩ := hb c aid (s.act aid) s
  refine .runWith hc hs rfl ?_ ((hx s).symm.trans h)
  rw [hg]
  exact ⟨by rw [hp.st]; exact .refl _ _ _, .inl hp.post⟩

/-- When nothing holds it, it issues. -/
theorem PlainWord.issues {i : Instr} {s t : State} {c aid : Nat} (hi : PlainWord i) (hs : s.stip c = 0)
    (hk : s.Clear c aid i (fieldsOf i).cl {}) (h : exec i s = .next t) :
    ∃ e : Eff, e.Plain i s ∧ t = (s.setAct aid ((s.act aid).retire (s.act aid) i (fieldsOf i).cl (s.core c).cycle e)).clocked c := by
  obtain ⟨body, hx, hb⟩ := hi
  obtain ⟨e, hg, hp⟩ := hb c aid (s.act aid) s
  refine ⟨e, hp, ?_⟩
  rw [hx, run_go hk rfl hg] at h
  injection h with h
  rw [← h, State.issue_plain hp.post (by rw [hp.st]; exact hs), hp.st]

/-- Settles O52: the pipeline leaves the stores and the queues, and an issue all but its destination and what it releases. -/
theorem scalarWordsFrame : Obligations.ScalarWordsFrame := by
  unfold Obligations.ScalarWordsFrame
  intro i s t c aid cl x y hi _ hc hs h
  have hp := scalarWord_plain hi
  have hk := hp.keeps hc hs h
  refine ⟨(hp.sameQueues hc hs h).sameStore hk, hk.acts, hk.cores, fun hcl hf => ?_⟩
  obtain ⟨e, he, ht⟩ := hp.issues hs hcl h
  have hy : y = x.retire x i cl (s.core c).cycle e := by simp only [y, x, cl, ht, State.act_clocked, State.act_setAct_same]
  obtain ⟨hlk, hlc⟩ := x.retire_link x i cl (s.core c).cycle e
  refine ⟨by rw [ht]; rfl, hy ▸ .retire hf he.flags, fun r hr hd => ?_, fun h4 h6 hlcs hlkm => ?_⟩
  · have hreg := Act.SameReg.retire (a0 := x) (i := i) (cl := cl) (n := (s.core c).cycle) hf he.flags hr
      fun w hw => ⟨destOf_num_lt (he.dest w hw).symm, fun e' => hd (e' ▸ he.dest w hw)⟩
    rw [hy]
    exact ⟨hreg.val, hreg.poison, hreg.live⟩
  · obtain ⟨hek, hec⟩ := he.link hlcs hlkm
    rw [hy, hlk, hlc, hek, hec, Act.sequence_link h4 h6]
    exact ⟨rfl, rfl⟩

end Sys2Proof.Machine
end

section
/-! Taking a trap: what it saves, what it changes, and the interrupt that is taken (R98, R294..R298). -/
namespace Sys2Proof.Machine

/-! ## The status word in a handler (R130, R295) -/

/-- A field is its bits. -/
theorem bits_congr {x y : Word64} {hi lo : Nat} (h : ∀ i, lo ≤ i → i ≤ hi → x.getLsbD i = y.getLsbD i) : bits x hi lo = bits y hi lo := by
  refine Nat.eq_of_testBit_eq fun j => ?_
  simp only [bits, Nat.testBit_mod_two_pow, Nat.testBit_div_two_pow]
  by_cases hj : j < hi + 1 - lo
  · rw [decide_eq_true hj]
    exact congrArg (true && ·) (h (j + lo) (Nat.le_add_left lo j) (by omega))
  · rw [decide_eq_false hj]; rfl

/-- The bits of two words that a handler's status clears and sets. -/
theorem getLsbD_handlerMasks : ∀ i < 64,
    (0xC3 : Word64).getLsbD i = decide (i < 2 ∨ i = 6 ∨ i = 7) ∧ (0x80 : Word64).getLsbD i = decide (i = 7) := by decide

/-- The mode, IE and TIP are the handler's, and every other bit stays. -/
theorem getLsbD_handlerStatus (w : Word64) {m i : Nat} (hm : m < 4) (hi : i < 64) :
    ((w &&& ~~~(0xC3 : Word64)) ||| 0x80 ||| w64 m).getLsbD i
      = if i < 2 then (w64 m).getLsbD i else if i = 6 then false else if i = 7 then true else w.getLsbD i := by
  obtain ⟨h1, h2⟩ := getLsbD_handlerMasks i hi
  rw [BitVec.getLsbD_or, BitVec.getLsbD_or, BitVec.getLsbD_and, BitVec.getLsbD_not, h1, h2]
  by_cases h : i < 2
  · have h7 : i ≠ 7 := by omega
    simp [h, h7]
  have hz : (w64 m).getLsbD i = false := by
    rw [w64, BitVec.getLsbD_ofNat, Nat.testBit_lt_two_pow (lt_of_lt_of_le hm (Nat.pow_le_pow_right two_pos (Nat.le_of_not_lt h))),
      Bool.and_false]
  rw [hz]
  by_cases h6 : i = 6
  · subst h6; simp
  by_cases h7 : i = 7
  · subst h7; simp
  · simp [h, h6, h7, hi]

/-- What a handler's status word says, entered in mode 1 or 2. -/
theorem handlerStatus (w : Word64) {m : Nat} (hm : m = 1 ∨ m = 2) :
    let z := (w &&& ~~~(0xC3 : Word64)) ||| 0x80 ||| w64 m
    bits z 1 0 = m ∧ z.getLsbD 7 = true ∧ z.getLsbD 6 = false ∧ bits z 9 8 = bits w 9 8 ∧ bits z 5 3 = bits w 5 3
      ∧ z.getLsbD 2 = w.getLsbD 2 ∧ z.extractLsb' 11 5 = w.extractLsb' 11 5 := by
  have h4 : m < 4 := by omega
  have kept {i : Nat} (h2 : 2 ≤ i) (h6 : i ≠ 6) (h7 : i ≠ 7) (hi : i < 64) :
      ((w &&& ~~~(0xC3 : Word64)) ||| 0x80 ||| w64 m).getLsbD i = w.getLsbD i := by
    rw [getLsbD_handlerStatus w h4 hi, if_neg (by omega), if_neg h6, if_neg h7]
  refine ⟨?_, by rw [getLsbD_handlerStatus w h4 (by omega)]; rfl, by rw [getLsbD_handlerStatus w h4 (by omega)]; rfl, ?_, ?_, ?_, ?_⟩
  · rw [bits_congr (y := w64 m) fun i _ hi => by rw [getLsbD_handlerStatus w h4 (by omega), if_pos (by omega)]]
    rcases hm with rfl | rfl <;> rfl
  · exact bits_congr fun i h1 h2 => kept (by omega) (by omega) (by omega) (by omega)
  · exact bits_congr fun i h1 h2 => kept (by omega) (by omega) (by omega) (by omega)
  · exact kept (by omega) (by omega) (by omega) (by omega)
  · refine BitVec.eq_of_getLsbD_eq fun i hi => ?_
    rw [BitVec.getLsbD_extractLsb', BitVec.getLsbD_extractLsb', kept (by omega) (by omega) (by omega) (by omega)]

/-! ## Stopping for the armature, and entering a handler (R295, R297) -/

/-- Nothing in flight: nothing lands. -/
theorem Act.landAll_nil {a : Act} (h : a.fixed = []) : a.landAll = a := by
  cases a
  dsimp only at h
  subst h
  rfl

namespace State
variable {s : State} {aid : Nat} {t : TrapReq}

theorem act_noteFault (g k n : Nat) : (s.noteFault g t k).act n = s.act n := by
  unfold State.noteFault
  split
  · rfl
  split <;> rfl

theorem act_reportStop : (s.reportStop aid t).act aid = { s.act aid with run := .stopped, trapPend := none } := by
  unfold State.reportStop
  rw [act_noteFault, act_setAct_same]

theorem act_nestedFault : (s.nestedFault aid t).act aid = { s.act aid with run := .stopped, trapPend := none } := by
  unfold State.nestedFault
  dsimp only
  split
  · rw [act_setAct_same]
  · rw [act_setGang, act_setAct_same]

/-- The gang of a context that faults in a handler is to end with grade 3, with that fault as its report (R297). -/
theorem gang_nestedFault (h : (tableGet? s.gangs (s.act aid).gang).isSome = true) :
    ∃ g : Gang, (s.nestedFault aid t).gang (s.act aid).gang
      = { g with faultPend := some t, faultCore := (s.act aid).core, faultTick := s.tick, endPend := some (0, 3) } := by
  obtain ⟨g, hg⟩ := Option.isSome_iff_exists.mp h
  refine ⟨g, ?_⟩
  unfold State.nestedFault
  dsimp only
  split
  · next e => exact absurd (hg.symm.trans e) (by simp)
  · next g' e =>
    obtain rfl : g = g' := Option.some.inj (hg.symm.trans e)
    simp only [State.gang, State.setGang, tableGet?_tableSet_same, Option.getD_some]
    rfl

/-- With no result in flight, settling leaves the context as it was. -/
theorem act_settle (h : (s.act aid).fixed = []) (c : Nat) : (s.settle c aid).act aid = s.act aid := by
  simp only [State.settle, act_setCore, act_setAct_same, Act.landAll_nil h]

/-! ## What taking a trap does to the context (R295, R297) -/

/-- Before the tags are free it stays pending. -/
theorem takeTrap_busy (hq : s.quiet aid = false) : s.takeTrap aid t = s.setAct aid ((s.act aid).pend t) := by
  simp [State.takeTrap, hq]

section
variable (hq : s.quiet aid = true) (hf : (s.act aid).fixed = [])
include hq hf

/-- A report of the machine stops the context that runs a handler. -/
theorem act_takeTrap_machine (ht : (s.act aid).tip = true) (hc : machineCause t.cause = true) :
    (s.takeTrap aid t).act aid = { s.act aid with run := .stopped, trapPend := none } := by
  simp only [State.takeTrap, hq, if_true, State.enterTrap, act_settle hf, ht, hc, Bool.and_self, act_reportStop]

/-- A fault of a handler is a nested fault. -/
theorem takeTrap_nested (ht : (s.act aid).tip = true) (hc : machineCause t.cause = false) (hi : interruptCause t.cause = false) :
    s.takeTrap aid t = (s.settle (s.act aid).core aid).nestedFault aid t := by
  simp only [State.takeTrap, hq, if_true, State.enterTrap, act_settle hf, ht, hc, hi, Bool.and_false, Bool.false_eq_true, if_false,
    Bool.not_false, Bool.and_self]

/-- A cause that stops the context saves the registers of the trap for the armature. -/
theorem act_takeTrap_stops (ht : (s.act aid).tip = false) (hc : armatureCause t.cause = true) :
    (s.takeTrap aid t).act aid = { (s.act aid).saveTrap t with run := .stopped, trapPend := none } := by
  simp only [State.takeTrap, hq, if_true, State.enterTrap, act_settle hf, ht, hc, Bool.false_and, Bool.false_eq_true, if_false,
    act_reportStop, act_setAct_same]

/-- Every other cause enters the handler. -/
theorem act_takeTrap_enters (ht : (s.act aid).tip = false) (hc : armatureCause t.cause = false) :
    ∃ v : State, (s.takeTrap aid t).act aid = v.enterHandler ((s.act aid).saveTrap t) := by
  refine ⟨(s.settle (s.act aid).core aid).setAct aid ((s.act aid).saveTrap t), ?_⟩
  simp only [State.takeTrap, hq, if_true, State.enterTrap, act_settle hf, ht, hc, Bool.false_and, Bool.false_eq_true, if_false,
    act_setAct_same]

end
end State

theorem armatureCause_iff (c : Nat) : armatureCause c = true ↔ c = cUNCORR ∨ c = cRETLOST ∨ c = cMCHECK := by
  simp [armatureCause, or_assoc]

theorem machineCause_iff (c : Nat) : machineCause c = true ↔ c = cRETLOST ∨ c = cMCHECK := by simp [machineCause]

theorem interruptCause_iff (c : Nat) : interruptCause c = true ↔ c = cTIMER ∨ c = cEXTINT := by simp [interruptCause]

/-! ## Interrupts (R298) -/

theorem State.interruptOf_masked {s : State} {x : Act} (h : x.ie = false ∨ x.tip = true) : s.interruptOf x = none := by
  rcases h with h | h <;> simp [State.interruptOf, h]

theorem State.interruptOf_timer {s : State} {x : Act} (hi : x.ie = true) (ht : x.tip = false) (h : s.timerDue x = true) :
    s.interruptOf x = some { cause := cTIMER, detail := 0, addr := 0, word := x.pc } := by
  simp [State.interruptOf, hi, ht, h]

theorem State.interruptOf_line {s : State} {x : Act} {n : Nat} (hi : x.ie = true) (ht : x.tip = false) (hp : x.timerPend = false)
    (h : s.timerDue x = false) (hn : x.extLine = some n) :
    s.interruptOf x = some { cause := cEXTINT, detail := w64 n, addr := 0, word := x.pc } := by
  simp [State.interruptOf, hi, ht, h, hp, hn]

/-- The lowest line. -/
theorem Act.extLine_lowest {x : Act} {n : Nat} (hn : n < 16) (h : x.trap.extpend.getLsbD n = true)
    (hl : ∀ m < n, x.trap.extpend.getLsbD m = false) : x.extLine = some n := by
  refine List.find?_range_eq_some.mpr ⟨h, List.mem_range.mpr hn, fun m hm => ?_⟩
  simp [hl m hm]

/-- What the handler finds of the context that trapped (R130, R295). -/
theorem State.enterHandler_saveTrap (v : State) (x : Act) (t : TrapReq) :
    let y := v.enterHandler (x.saveTrap t)
    let vec := if x.mode = 2 then x.trap.mtvec else x.trap.stvec
    y.mode = (if x.mode = 2 then 2 else 1) ∧ y.tip = true ∧ y.ie = false ∧ y.rm = x.rm ∧ y.mg = x.mg ∧ y.ap = x.ap
      ∧ y.asw.extractLsb' 11 5 = x.asw.extractLsb' 11 5 ∧ y.pc = vec.setWidth 32 ∧ bits y.code 63 40 = bits vec 63 40 := by
  obtain ⟨hm, ht, hi, hr, hg, ha, hx⟩ := handlerStatus x.asw (m := x.trapMode) (by unfold Act.trapMode; split <;> simp)
  have hv : bits (x.saveTrap t).trapVec 63 40 % 2 ^ 24 = bits x.trapVec 63 40 := Nat.mod_mod _ _
  exact ⟨hm, ht, hi, hr, hg, ha, hx, rfl, (v.bits_codeOf x.core x.part _).trans hv⟩

/-- Settles O55: a trap stays pending, enters the handler, stops the context or ends its gang, by its cause and the context's TIP; an
interrupt is the timer's or the lowest line's. -/
theorem trapsAreTaken : Obligations.TrapsAreTaken := by
  unfold Obligations.TrapsAreTaken
  dsimp only
  intro s aid n t
  rw [← armatureCause_iff]
  refine ⟨fun hq => ?_, fun hq hf ht hc => ?_, fun hq hf ht hc => ?_, fun hq hf ht hc => ?_, fun hq hf ht h1 h2 h3 h4 hg => ?_,
    State.interruptOf_masked, fun hi ht h0 hd => ?_, fun hi ht h0 hp hn h hl => ?_⟩
  · rw [State.takeTrap_busy hq, State.act_setAct_same]
    exact ⟨rfl, rfl, rfl, rfl⟩
  · obtain ⟨v, hv⟩ := State.act_takeTrap_enters hq hf ht (by simpa using hc)
    obtain ⟨hm, hp, hi, hr, hg, ha, hx, hpc, hco⟩ := v.enterHandler_saveTrap (s.act aid) t
    rw [hv]
    exact ⟨⟨rfl, rfl, rfl, rfl, rfl, rfl, rfl, rfl, rfl⟩, hm, hp, hi, hr, hg, ha, hx, hpc, rfl, rfl, hco, rfl, rfl, rfl⟩
  · rw [State.act_takeTrap_stops hq hf ht hc]
    exact ⟨⟨rfl, rfl, rfl, rfl, rfl, rfl, rfl, rfl, rfl⟩, rfl, rfl, rfl⟩
  · rw [State.act_takeTrap_machine hq hf ht ((machineCause_iff _).mpr hc)]
    exact ⟨rfl, rfl⟩
  · have hm : machineCause t.cause = false := Bool.eq_false_iff.mpr fun h => ((machineCause_iff _).mp h).elim h3 h4
    have hn : interruptCause t.cause = false := Bool.eq_false_iff.mpr fun h => ((interruptCause_iff _).mp h).elim h1 h2
    have hs := State.act_settle hf (s.act aid).core
    obtain ⟨g, he⟩ := State.gang_nestedFault (s := s.settle (s.act aid).core aid) (aid := aid) (t := t) (by rw [hs]; exact hg)
    rw [hs] at he
    rw [State.takeTrap_nested hq hf ht hm hn, State.act_nestedFault, hs, he]
    exact ⟨rfl, rfl, rfl, rfl, rfl⟩
  · rw [State.interruptOf_timer hi ht (by simp only [State.timerDue, decide_eq_true h0, decide_eq_true hd, Bool.and_self])]
    rfl
  · rw [State.interruptOf_line hi ht hp (by simp [State.timerDue, h0]) (Act.extLine_lowest hn h hl)]
    rfl

end Sys2Proof.Machine
end

section
/-! Scalar words: sums, products, quotients, shifts, bit fields, CRC-32C, extremes, counts, constants, selection, compares and lane
masks (R112..R122, R147). -/
namespace Sys2Proof.Machine

/-! ## Words of one result -/

/-- A word of two scalar sources writes the value that its function gives. -/
theorem scalar2_writes {i : Instr} {cl : Clauses} {lat : Nat} {d a b : BitVec 6} {f : Word64 → Word64 → Word64} {v : Act → Word64}
    (hi : ∀ s, exec i s = scalar2 i cl lat d a b f s) (hv : ∀ x : Act, f (x.s a.toNat) (x.s b.toNat) = v x) :
    WritesS i cl lat d v :=
  completes_of_body hi fun s _ aid _ => by rw [fixedRes, hv (s.act aid)]; rfl

/-- A word of one scalar source does so after one cycle. -/
theorem scalar1_writes {i : Instr} {cl : Clauses} {d a : BitVec 6} {f : Word64 → Word64} {v : Act → Word64}
    (hi : ∀ s, exec i s = scalar1 i cl d a f s) (hv : ∀ x : Act, f (x.s a.toNat) = v x) : WritesS i cl 1 d v :=
  completes_of_body hi fun s _ aid _ => by rw [fixedRes, hv (s.act aid)]; rfl

/-- A divide word waits for the divider and starts the division whose result its function gives (R113). -/
theorem divide_starts {i : Instr} {cl : Clauses} {d a b : BitVec 6} {f g : Word64 → Word64 → Word64}
    (hi : ∀ s, exec i s = divide i cl d a b f s) (hf : ∀ x y, f x y = g x y) :
    Completes i cl (fun _ => { divider := true }) always (fun c aid x s =>
      start s (mkOp aid x i cl false false (dstS d.toNat) (.div c d.toNat (g (x.s a.toNat) (x.s b.toNat))))) :=
  fun s c aid h _ => (hi s).trans (run_go h rfl (by rw [hf]; rfl))

/-! ## Products (R112) -/

/-- The upper half of an exact product that is held in 128 bits. -/
theorem upperHalf_ofInt (i : Int) : ((BitVec.ofInt 128 i) >>> 64).setWidth 64 = wOfInt (i / 2 ^ 64) := by
  apply BitVec.eq_of_toNat_eq
  simp only [wOfInt, BitVec.toNat_setWidth, BitVec.toNat_ushiftRight, BitVec.toNat_ofInt, Nat.shiftRight_eq_div_pow]
  omega

theorem mulhS_eq (x y : Word64) : mulhS x y = ((x.signExtend 128 * y.signExtend 128) >>> 64).setWidth 64 := by
  rw [BitVec.signExtend, BitVec.signExtend, ← BitVec.ofInt_mul, upperHalf_ofInt, mulhS]

theorem setWidth_eq_ofInt (x : Word64) : x.setWidth 128 = BitVec.ofInt 128 (x.toNat : Int) := by
  rw [BitVec.ofInt_natCast, BitVec.ofNat_toNat]

theorem mulhU_eq (x y : Word64) : mulhU x y = ((x.setWidth 128 * y.setWidth 128) >>> 64).setWidth 64 := by
  rw [setWidth_eq_ofInt, setWidth_eq_ofInt, ← BitVec.ofInt_mul, upperHalf_ofInt, mulhU, w64, wOfInt, ← BitVec.ofInt_natCast]
  rfl

/-! ## Quotients and remainders (R113) -/

theorem wOfInt_tdiv (x y : Word64) : wOfInt (x.toInt.tdiv y.toInt) = x.sdiv y :=
  BitVec.eq_of_toInt_eq (by rw [wOfInt, BitVec.toInt_ofInt, BitVec.toInt_sdiv])

theorem wOfInt_tmod (x y : Word64) : wOfInt (x.toInt.tmod y.toInt) = x.srem y := by
  rw [wOfInt, ← BitVec.toInt_srem, BitVec.ofInt_toInt]

theorem divS_quotient (x y : Word64) : (divS x y).1 = if y = 0 then BitVec.allOnes 64 else x.sdiv y := by
  unfold divS
  split
  · rfl
  split
  · next h =>
    obtain ⟨rfl, rfl⟩ := h
    decide
  · exact wOfInt_tdiv x y

theorem divS_remainder (x y : Word64) : (divS x y).2 = if y = 0 then x else x.srem y := by
  unfold divS
  split
  · rfl
  split
  · next h =>
    obtain ⟨rfl, rfl⟩ := h
    decide
  · exact wOfInt_tmod x y

theorem divU_quotient (x y : Word64) : (divU x y).1 = if y = 0 then BitVec.allOnes 64 else x / y := by
  unfold divU
  split
  · rfl
  · exact BitVec.eq_of_toNat_eq ((Nat.mod_eq_of_lt (lt_of_le_of_lt (Nat.div_le_self ..) x.isLt)).trans BitVec.toNat_udiv.symm)

theorem divU_remainder (x y : Word64) : (divU x y).2 = if y = 0 then x else x % y := by
  unfold divU
  split
  · rfl
  · exact BitVec.eq_of_toNat_eq ((Nat.mod_eq_of_lt (lt_of_le_of_lt (Nat.mod_le ..) x.isLt)).trans BitVec.toNat_umod.symm)

/-! ## Shift counts and bit fields (R114, R117) -/

/-- A count or a position in the low six bits. -/
theorem toNat_low6 {n : Nat} (x : BitVec n) : (x.extractLsb' 0 6).toNat = x.toNat % 64 := by
  rw [BitVec.extractLsb'_toNat, Nat.shiftRight_zero]

/-- A field's width stands in the six bits above. -/
theorem toNat_next6 {n : Nat} (x : BitVec n) : (x.extractLsb' 6 6).toNat = x.toNat / 64 % 64 := by
  rw [BitVec.extractLsb'_toNat, Nat.shiftRight_eq_div_pow]

/-- Sign extension looks at the low bits alone. -/
theorem sextNat_mod (x n : Nat) : sextNat (x % 2 ^ n) n = sextNat x n := by simp only [sextNat, Nat.mod_mod]

/-- The mask of a field. -/
theorem fieldMask_eq (lo wd : Nat) : w64 ((2 ^ wd - 1) * 2 ^ lo) = BitVec.ofNat 64 (2 ^ wd - 1) <<< lo := by
  apply BitVec.eq_of_toNat_eq
  rw [w64, BitVec.toNat_ofNat, BitVec.toNat_shiftLeft, BitVec.toNat_ofNat, Nat.shiftLeft_eq, Nat.mod_mul_mod]

/-- Under its mask a field is the low bits of the word, shifted. -/
theorem field_and_mask (lo wd : Nat) (x : Word64) :
    w64 (x.toNat % 2 ^ wd * 2 ^ lo) &&& w64 ((2 ^ wd - 1) * 2 ^ lo) = (x <<< lo) &&& w64 ((2 ^ wd - 1) * 2 ^ lo) := by
  apply BitVec.eq_of_getLsbD_eq
  intro i hi
  simp only [w64, BitVec.getLsbD_and, BitVec.getLsbD_ofNat, BitVec.getLsbD_shiftLeft, Nat.testBit_mul_two_pow,
    Nat.testBit_mod_two_pow, Nat.testBit_two_pow_sub_one, BitVec.testBit_toNat]
  by_cases h : lo ≤ i
  · by_cases hw : i - lo < wd <;> simp [hi, h, hw, Nat.not_lt.mpr h]
  · simp [h]

theorem bfInsert_eq (lo wd : Nat) (x y : Word64) :
    let m := BitVec.ofNat 64 (2 ^ wd - 1) <<< lo
    bfInsert lo wd x y = (y &&& ~~~m) ||| ((x <<< lo) &&& m) := by
  dsimp only
  rw [← fieldMask_eq, ← field_and_mask]
  rfl

/-- Settles O1: each word by its value. -/
theorem scalarArithmeticCompletes : Obligations.ScalarArithmeticCompletes := by
  unfold Obligations.ScalarArithmeticCompletes
  refine ⟨fun d a b imm cl => ⟨?_, ?_, ?_, ?_, ?_, ?_, ?_, ?_, ?_, ?_, ?_, ?_, ?_, ?_, ?_, ?_, ?_, ?_⟩,
    fun mod d a b imm cl => ⟨?_, ?_, ?_, fun hm => ?_⟩, fun d a b cl => ⟨?_, ?_, ?_, ?_⟩⟩
  · exact scalar2_writes (exec_add d a b cl) fun _ => rfl
  · exact scalar2_writes (exec_sub d a b cl) fun _ => rfl
  · exact scalar1_writes (exec_addi d a imm cl) fun _ => rfl
  · exact scalar2_writes (exec_mul d a b cl) fun _ => rfl
  · exact scalar2_writes (exec_mulh d a b cl) fun x => mulhS_eq _ _
  · exact scalar2_writes (exec_mulhu d a b cl) fun x => mulhU_eq _ _
  · exact scalar2_writes (exec_and d a b cl) fun _ => rfl
  · exact scalar2_writes (exec_or d a b cl) fun _ => rfl
  · exact scalar2_writes (exec_xor d a b cl) fun _ => rfl
  · exact scalar1_writes (exec_andi d a imm cl) fun _ => rfl
  · exact scalar1_writes (exec_ori d a imm cl) fun _ => rfl
  · exact scalar1_writes (exec_xori d a imm cl) fun _ => rfl
  · exact scalar2_writes (exec_sll d a b cl) fun x => by rw [BitVec.shiftLeft_eq', toNat_low6]
  · exact scalar2_writes (exec_srl d a b cl) fun x => by rw [BitVec.ushiftRight_eq', toNat_low6]
  · exact scalar2_writes (exec_sra d a b cl) fun x => by rw [BitVec.sshiftRight_eq', toNat_low6]
  · exact scalar1_writes (exec_slli d a imm cl) fun x => by rw [BitVec.shiftLeft_eq', toNat_low6]
  · exact scalar1_writes (exec_srli d a imm cl) fun x => by rw [BitVec.ushiftRight_eq', toNat_low6]
  · exact scalar1_writes (exec_srai d a imm cl) fun x => by rw [BitVec.sshiftRight_eq', toNat_low6]
  · exact scalar1_writes (exec_bfx 0 d a imm cl) fun x => by rw [toNat_low6, toNat_next6]; rfl
  · exact scalar1_writes (exec_bfx 1 d a imm cl) fun x => by rw [toNat_low6, toNat_next6, ← sextNat_mod]; rfl
  · exact scalar2_writes (exec_bfi d a b imm cl) fun x => by rw [toNat_low6, toNat_next6]; exact bfInsert_eq _ _ _ _
  · exact scalar2_writes (exec_crc32c mod d a b cl) fun x => by rw [Nat.mod_eq_of_lt (by omega)]; rfl
  · exact (divide_starts (exec_div d a b cl) divS_quotient :)
  · exact (divide_starts (exec_divu d a b cl) divU_quotient :)
  · exact (divide_starts (exec_rem d a b cl) divS_remainder :)
  · exact (divide_starts (exec_remu d a b cl) divU_remainder :)

/-! ## Compares and lane masks (R119..R121) -/

/-- A reserved value of mod makes an ill-formed word (R108). -/
theorem wellFormed_eq_false_of_mod {i : Instr} {l : Layout} {f : Fields} {n : Nat} (hl : layout i = some l)
    (hf : toFields i = some f) (hb : l.mod.bad f.mod = some n) : wellFormed i = false := by
  simp only [wellFormed, hl, hf, encodingFault, hb]
  rfl

/-- A mod that its entry does not define is bad. -/
theorem M_bad_of_not_ok {b : Bool} (hb : b = false) (m : BitVec 4) : (M b).bad m = some 44 := if_pos hb

/-- CMP and CMPI write all ones or zero by the condition that mod names. -/
theorem compare_completes {mod : BitVec 4} {f : Word64 → Word64 → Bool} (hf : ∀ x y, cmpHolds mod.toNat x y = f x y)
    (d a b : BitVec 6) (imm : BitVec 16) (cl : Clauses) :
    Completes (.cmp mod d a b cl) cl plainNeed always (fun _ _ x s =>
      writeP s 1 d.toNat (if f (x.s a.toNat) (x.s b.toNat) then BitVec.allOnes 64 else 0)) ∧
    Completes (.cmpi mod d a imm cl) cl plainNeed always (fun _ _ x s =>
      writeP s 1 d.toNat (if f (x.s a.toNat) (imm.signExtend 64) then BitVec.allOnes 64 else 0)) :=
  ⟨completes_of_body (exec_cmp mod d a b cl) fun _ _ _ _ => by rw [hf]; rfl,
    completes_of_body (exec_cmpi mod d a imm cl) fun _ _ _ _ => by rw [hf]; rfl⟩

/-- PLOG writes the function of two lane masks that mod names. -/
theorem plog_completes {mod : BitVec 4} {f : Word64 → Word64 → Word64} (hf : ∀ x y, plogic mod.toNat x y = f x y)
    (d a b : BitVec 6) (cl : Clauses) :
    Completes (.plog mod d a b cl) cl plainNeed always (fun _ _ x s =>
      writeP s 1 d.toNat (f (x.p a.toNat) (x.p b.toNat))) :=
  completes_of_body (exec_plog mod d a b cl) fun _ _ _ _ => by rw [hf]; rfl

/-- The negation of a strict comparison of numbers is the weak one the other way round. -/
theorem not_decide_lt {α : Type} [LinearOrder α] (x y : α) : (!decide (x < y)) = decide (y ≤ x) := by
  rw [← decide_not, decide_eq_decide, not_lt]

theorem not_decide_le {α : Type} [LinearOrder α] (x y : α) : (!decide (x ≤ y)) = decide (y < x) := by
  rw [← decide_not, decide_eq_decide, not_le]

theorem bne_eq_decide_ne (x y : Word64) : (x != y) = decide (x ≠ y) := by
  rw [bne, Bool.beq_eq_decide_eq, ← decide_not]

/-- Settles O2: the encodings, the reserved values of mod, and each condition and function. -/
theorem compareAndMaskRules : Obligations.CompareAndMaskRules := by
  unfold Obligations.CompareAndMaskRules
  intro m d a b imm cl r compare combine
  have hc {mod : BitVec 4} {f : Word64 → Word64 → Bool} (hf : ∀ x y, cmpHolds mod.toNat x y = f x y) : compare mod f :=
    compare_completes hf d a b imm cl
  have hp {mod : BitVec 4} {f : Word64 → Word64 → Word64} (hf : ∀ x y, plogic mod.toNat x y = f x y) : combine mod f :=
    plog_completes hf d a b cl
  clear_value compare combine
  refine ⟨rfl, rfl, rfl, rfl, fun h => ⟨?_, ?_⟩, fun h => ?_, fun h => ?_, hc Bool.beq_eq_decide_eq, hc bne_eq_decide_ne,
    hc fun _ _ => rfl, hc fun x y => not_decide_lt x.toInt y.toInt, hc fun _ _ => rfl, hc fun x y => not_decide_lt x.toNat y.toNat,
    hc fun _ _ => rfl, hc fun x y => not_decide_le x.toInt y.toInt, hc fun _ _ => rfl, hc fun x y => not_decide_le x.toNat y.toNat,
    hc fun _ _ => bne_eq_decide_ne _ _, hc fun _ _ => Bool.beq_eq_decide_eq _ _, hp fun _ _ => rfl, hp fun _ _ => rfl,
    hp fun _ _ => rfl, hp fun _ _ => rfl, hp fun _ _ => rfl, hp fun _ _ => rfl, hp fun _ _ => rfl, hp fun _ _ => rfl,
    completes_of_body (exec_pmov 0 d a cl) fun _ _ _ _ => rfl, completes_of_body (exec_pmov 1 d a cl) fun _ _ _ _ => rfl,
    completes_of_body (exec_pmov 2 d a cl) fun _ _ _ _ => rfl⟩
  all_goals exact wellFormed_eq_false_of_mod rfl rfl (M_bad_of_not_ok (decide_eq_false (by omega)) m)

/-! ## Extremes (R115) -/

/-- Where equal keys mean equal choices, it does not matter which of them a tie takes. -/
theorem ite_lt_eq_ite_le {α β : Type} [LinearOrder β] {m n : β} {u v : α} (h : m = n → u = v) :
    (if m < n then u else v) = if m ≤ n then u else v := by
  rcases lt_trichotomy m n with hl | he | hg
  · rw [if_pos hl, if_pos hl.le]
  · rw [h he, ite_self, ite_self]
  · rw [if_neg hg.not_gt, if_neg hg.not_ge]

/-! ## Counts (R116) -/

/-- A number whose highest set bit is bit n has n + 1 bits. -/
theorem bitLen_of_top {x n : Nat} (h : x / 2 ^ n = 1) : bitLen x = n + 1 := by
  have h0 : x ≠ 0 := by
    rintro rfl
    rw [Nat.zero_div] at h
    exact absurd h (by decide)
  have hb := (Nat.div_eq_iff (Nat.two_pow_pos n)).mp h
  rw [bitLen, if_neg h0, (Nat.log2_eq_iff (k := n) h0).mpr ⟨by omega, by rw [Nat.pow_succ]; omega⟩]

/-- Counting the set bits one by one gives their number. -/
theorem popcount_eq (x : Word64) : popcount x = BitVec.ofNat 64 ((List.range 64).filter (fun n => x.getLsbD n)).length := by
  rw [popcount, w64, ← List.foldl_filter, List.foldl_add_const, Nat.one_mul, Nat.zero_add]

/-! ## Constants and selection (R118, R122) -/

/-- LIH keeps the low half and replaces the high one. -/
theorem lih_eq (hi : BitVec 32) (x : Word64) : (x &&& (0xFFFFFFFF : Word64)) ||| (hi.setWidth 64 <<< 32) = hi ++ x.setWidth 32 := by
  apply BitVec.eq_of_toNat_eq
  have hm : (0xFFFFFFFF : Word64).toNat = 2 ^ 32 - 1 := rfl
  have h1 : hi.toNat % 2 ^ 64 = hi.toNat := Nat.mod_eq_of_lt (by omega)
  have h2 : hi.toNat * 2 ^ 32 % 2 ^ 64 = hi.toNat * 2 ^ 32 := Nat.mod_eq_of_lt (by omega)
  rw [BitVec.toNat_append, BitVec.toNat_or, BitVec.toNat_and, BitVec.toNat_shiftLeft, BitVec.toNat_setWidth, BitVec.toNat_setWidth,
    hm, Nat.and_two_pow_sub_one_eq_mod, h1, Nat.shiftLeft_eq, h2, Nat.lor_comm]

/-- The fields of an L-form word hold its immediate in one piece (R92). -/
theorem toWord_setImm32 (op : BitVec 8) (d a : BitVec 6) (imm32 : BitVec 32) (cl : Clauses) :
    (Fields.setImm32 { Fields.base op cl with d := d, a := a } imm32).toWord = op ++ d ++ a ++ imm32 ++ cl.toBits := by
  conv_rhs => rw [← imm32_parts d a op cl imm32]
  apply BitVec.eq_of_toNat_eq
  simp only [Fields.toWord, Fields.setImm32, Fields.base, Fields.imm32, BitVec.toNat_append, Nat.shiftLeft_or_distrib,
    ← Nat.shiftLeft_add, ← Nat.lor_assoc]

/-- Settles O47: each word by its encoding and its value. -/
theorem extremesCountsConstantsSelect : Obligations.ExtremesCountsConstantsSelect := by
  unfold Obligations.ExtremesCountsConstantsSelect
  intro d a b c imm32 cl r u x_ y_
  refine ⟨⟨rfl, ?_⟩, ⟨rfl, ?_⟩, ⟨rfl, ?_⟩, ⟨rfl, ?_⟩, ⟨rfl, fun y => 64 - bitLen y.toNat, ?_, rfl,
    fun y n hn h => ?_⟩, ⟨rfl, ?_⟩, ⟨?_, ?_⟩, ⟨?_, ?_⟩, rfl, ?_, fun y n hn => ?_⟩
  · exact scalar2_writes (exec_min d a b cl) fun _ =>
      (if_congr BitVec.slt_iff_toInt_lt rfl rfl).trans (ite_lt_eq_ite_le BitVec.eq_of_toInt_eq)
  · exact scalar2_writes (exec_max d a b cl) fun _ =>
      (if_congr BitVec.slt_iff_toInt_lt rfl rfl).trans (ite_lt_eq_ite_le fun e => (BitVec.eq_of_toInt_eq e).symm)
  · exact scalar2_writes (exec_minu d a b cl) fun _ =>
      (if_congr BitVec.ult_iff_lt rfl rfl).trans (ite_lt_eq_ite_le BitVec.eq_of_toNat_eq)
  · exact scalar2_writes (exec_maxu d a b cl) fun _ =>
      (if_congr BitVec.ult_iff_lt rfl rfl).trans (ite_lt_eq_ite_le fun e => (BitVec.eq_of_toNat_eq e).symm)
  · exact scalar1_writes (exec_clz d a cl) fun x => rfl
  · simp only [bitLen_of_top h]
    omega
  · exact scalar1_writes (exec_popc d a cl) fun x => popcount_eq _
  · exact congrArg some (toWord_setImm32 0x1E d 0 imm32 cl)
  · exact completes_of_body (exec_li d imm32 cl) fun _ _ _ _ => rfl
  · exact congrArg some (toWord_setImm32 0x1F d a imm32 cl)
  · exact scalar1_writes (exec_lih d a imm32 cl) fun x => lih_eq _ _
  · exact completes_of_body (exec_sel d a b c cl) fun _ _ _ _ => rfl
  · exact List.mem_append_left _ hn

end Sys2Proof.Machine
end

section
/-! Control words: targets, links, counters, time, identity, random numbers, live bits and index checks (R124..R128, R139..R146). -/
namespace Sys2Proof.Machine

/-- DEADMK releases, one after the other, the registers of its file whose bit of the mask is set (R144). -/
theorem deadmk_completes {mod : BitVec 4} {f : RegFile} {n : Nat} (hm : fileOfMod mod.toNat = (f, n)) (a : BitVec 6) (cl : Clauses) :
    Completes (.deadmk mod a cl) cl plainNeed always (fun _ aid x s =>
      change (s.setAct aid (((List.range n).filter (fun i => (x.s a.toNat).getLsbD i)).foldl (fun y i => y.release ⟨f, i⟩) x))) :=
  completes_of_body (exec_deadmk mod a cl) fun s c aid _ => by
    simp only [hm, List.foldl_filter]
    rfl

/-- LIVEQ reads the live bits of the file that mod names (R145). -/
theorem liveq_writes {mod : BitVec 4} {f : RegFile} (hm : (fileOfMod mod.toNat).1 = f) (d : BitVec 6) (cl : Clauses) :
    WritesS (.liveq mod d cl) cl 1 d (fun x => x.liveBits f) :=
  completes_of_body (exec_liveq mod d cl) fun _ _ _ _ => by rw [hm]; rfl

/-- Settles O3: each word by its own part. -/
theorem controlWordsComplete : Obligations.ControlWordsComplete := by
  unfold Obligations.ControlWordsComplete
  refine ⟨fun mod d a imm26 cl => ⟨?_, ?_, ?_, ?_, ?_, ?_, ?_, ?_, ?_, ?_, ?_, ?_, ?_, ?_, fun _ => ?_, ?_, ?_, ?_, ?_, ?_, ?_, ?_, ?_⟩,
    fun d a b imm cl => ⟨?_, ?_, ?_, fun mod f n hm => ?_, ?_, ?_⟩⟩
  · exact completes_of_body (exec_tgt d imm26 cl) fun _ _ _ _ => rfl
  · exact completes_of_body (exec_tgtr d a cl) fun _ _ _ _ => rfl
  · exact completes_of_body (exec_movb 0 d a cl) fun _ _ _ _ => rfl
  · exact completes_of_body (exec_movb 1 d a cl) fun _ _ _ _ => rfl
  · exact completes_of_body (exec_movb 2 d a cl) fun _ _ _ _ => rfl
  · exact completes_of_body (exec_lcset a imm26 cl) fun _ _ _ _ => rfl
  · exact completes_of_body (exec_lkmov 0 d a cl) fun _ _ _ _ => rfl
  · exact completes_of_body (exec_lkmov 1 d a cl) fun _ _ _ _ => rfl
  · exact completes_of_body (exec_lkmov 2 d a cl) fun _ _ _ _ => rfl
  · exact completes_of_body (exec_lkmov 3 d a cl) fun _ _ _ _ => rfl
  · exact completes_of_body (exec_nop cl) fun _ _ _ _ => rfl
  · exact completes_of_body (exec_time 0 d cl) fun _ _ _ _ => rfl
  · exact completes_of_body (exec_time 1 d cl) fun _ _ _ _ => rfl
  · exact completes_of_body (exec_time 2 d cl) fun _ _ _ _ => rfl
  · exact completes_of_body (exec_ident mod d cl) fun _ _ _ _ => rfl
  · exact completes_of_body (exec_rand 0 d a cl) fun _ _ _ _ => rfl
  · exact completes_of_body (exec_rand 1 d a cl) fun _ _ _ _ => rfl
  · exact completes_of_body (exec_iflush cl) fun _ _ _ _ => rfl
  · exact liveq_writes rfl d cl
  · exact liveq_writes rfl d cl
  · exact liveq_writes rfl d cl
  · exact liveq_writes rfl d cl
  · exact liveq_writes rfl d cl
  · exact completes_of_body (exec_spdrd 0 d a imm cl) fun _ _ _ _ => rfl
  · exact completes_of_body (exec_spdrd 1 d a imm cl) fun _ _ _ _ => rfl
  · exact completes_of_body (exec_spdrd 2 d a imm cl) fun _ _ _ _ => rfl
  · refine deadmk_completes ?_ a cl
    simp only [List.mem_cons, Prod.mk.injEq, List.not_mem_nil, or_false] at hm
    rcases hm with ⟨rfl, rfl, rfl⟩ | ⟨rfl, rfl, rfl⟩ | ⟨rfl, rfl, rfl⟩ | ⟨rfl, rfl, rfl⟩ | ⟨rfl, rfl, rfl⟩ <;> rfl
  · exact completes_of_body (exec_chk d a b imm cl) fun _ _ _ h => if_pos (BitVec.ult_iff_lt.mpr h)
  · exact raises_of_body (exec_chk d a b imm cl) fun _ _ _ h =>
      if_neg fun hu => absurd (BitVec.ult_iff_lt.mp hu) (BitVec.not_lt.mpr h)

end Sys2Proof.Machine
end

section
/-! System registers: who may read and write them, and the registers that a partition shares (R129..R131, R148, R149, R293, R305, R309,
R310, R322, R359). -/
namespace Sys2Proof.Machine

/-! ## The register's number and its checks (R129) -/

/-- A register number is the immediate's low twelve bits. -/
theorem sysNum_ofNat {n : Nat} (h : n < 4096) : sysNum (BitVec.ofNat 16 n) = n := by
  rw [sysNum, BitVec.toNat_ofNat]
  omega

/-- A register that some chapter lists may be read, and written unless it is read-only. -/
theorem sysPre_ok {c n : Nat} {w : Bool} (hk : sysKnown c n = true) (hw : w = true → sysReadOnly n = false) : sysPre c n w = none := by
  cases w with
  | false => simp [sysPre, hk]
  | true => simp [sysPre, hk, hw rfl]

/-- Writing a read-only register, listed or not, is an illegal word. -/
theorem sysPre_readOnly {n : Nat} (h : sysReadOnly n = true) (c : Nat) : sysPre c n true = some (mkTrap cILLOP 28) := by
  simp [sysPre, h]

/-- A check of R108 step 1 that fails raises its trap, whatever the word waits for. -/
theorem run_pre {i : Instr} {cl : Clauses} {n : Need} {pre : Act → State → Option Trap} {body : Nat → Nat → Act → State → Res}
    {s : State} {c aid : Nat} {t : Trap} (h : s.Holds c aid) (hp : pre (s.act aid) s = some t) :
    run i cl n pre body s = .next (s.raise aid t) := by
  have hc : s.current = some (c, aid) := h
  simp only [run, runWith, hc, hp]

/-! ## SWR, SRSET and SRCLR as one word (R131) -/

/-- What SWR, SRSET and SRCLR have in common: they write `v` to register `n`. -/
def sysWriteWord (i : Instr) (cl : Clauses) (opcode n : Nat) (v : Nat → Nat → Act → State → Word64) (s : State) :
    Host.Outcome State Fault Refusal :=
  run i cl {} (fun y _ => sysPre y.core n true) (fun c aid x st =>
    if x.mode < sysWriteMode n then .trap (mkTrap cPRIV (opcode + n * 2 ^ 16)) else sysWriteRes st c aid x opcode n (v c aid x st)) s

theorem exec_swr_word {a : BitVec 6} {imm : BitVec 16} {n : Nat} (hn : sysNum imm = n) (cl : Clauses) (s : State) :
    exec (.swr a imm cl) s = sysWriteWord (.swr a imm cl) cl 0x2C n (fun _ _ x _ => x.s a.toNat) s := hn ▸ rfl

theorem exec_srset_word {a : BitVec 6} {imm : BitVec 16} {n : Nat} (hn : sysNum imm = n) (cl : Clauses) (s : State) :
    exec (.srset a imm cl) s =
      sysWriteWord (.srset a imm cl) cl 0x36 n (fun c aid x st => sysRead st c aid x n ||| x.s a.toNat) s := hn ▸ rfl

theorem exec_srclr_word {a : BitVec 6} {imm : BitVec 16} {n : Nat} (hn : sysNum imm = n) (cl : Clauses) (s : State) :
    exec (.srclr a imm cl) s =
      sysWriteWord (.srclr a imm cl) cl 0x37 n (fun c aid x st => sysRead st c aid x n &&& ~~~(x.s a.toNat)) s := hn ▸ rfl

section
variable {i : Instr} {cl : Clauses} {op n : Nat} {v : Nat → Nat → Act → State → Word64} {ok : Nat → Act → State → Prop}
  (hi : ∀ s, exec i s = sysWriteWord i cl op n v s)
include hi

/-- Such a word completes in a mode that may write its register when the write itself goes on. -/
theorem sysWriteWord_completes {eff : Nat → Nat → Act → State → Eff} (hw : sysReadOnly n = false)
    (hk : ∀ c x s, ok c x s → sysKnown x.core n = true ∧ sysWriteMode n ≤ x.mode)
    (hg : ∀ s c aid, ok c (s.act aid) s →
      sysWriteRes s c aid (s.act aid) op n (v c aid (s.act aid) s) = .go (eff c aid (s.act aid) s)) :
    Completes i cl plainNeed ok eff := by
  intro s c aid h ho
  obtain ⟨hn, hm⟩ := hk c (s.act aid) s ho
  exact (hi s).trans (run_go h (sysPre_ok hn fun _ => hw) ((if_neg (Nat.not_lt.mpr hm)).trans (hg s c aid ho)))

/-- It raises what the write itself raises. -/
theorem sysWriteWord_raises {t : Nat → Act → State → Trap} (hw : sysReadOnly n = false)
    (hk : ∀ c x s, ok c x s → sysKnown x.core n = true ∧ sysWriteMode n ≤ x.mode)
    (hg : ∀ s c aid, ok c (s.act aid) s →
      sysWriteRes s c aid (s.act aid) op n (v c aid (s.act aid) s) = .trap (t c (s.act aid) s)) :
    Raises i cl plainNeed ok t := by
  intro s c aid h ho
  obtain ⟨hn, hm⟩ := hk c (s.act aid) s ho
  exact (hi s).trans (run_trap h (sysPre_ok hn fun _ => hw) ((if_neg (Nat.not_lt.mpr hm)).trans (hg s c aid ho)))

/-- Another mode may not write. -/
theorem sysWriteWord_priv : Raises i cl plainNeed
    (fun _ x _ => sysKnown x.core n = true ∧ sysReadOnly n = false ∧ x.mode < sysWriteMode n)
    (fun _ _ _ => mkTrap cPRIV (op + n * 2 ^ 16)) := by
  intro s c aid h ⟨hk, hw, hm⟩
  exact (hi s).trans (run_trap h (sysPre_ok hk fun _ => hw) (if_pos hm))

/-- A read-only register is never written. -/
theorem sysWriteWord_readOnly (hw : sysReadOnly n = true) {s : State} {c aid : Nat} (h : s.Holds c aid) :
    exec i s = .next (s.raise aid (mkTrap cILLOP 28)) :=
  (hi s).trans (run_pre h (sysPre_readOnly hw _))

end

/-! ## The registers of a context (R129, R293, R310) -/

/-- The registers that a context holds and that software writes, the status word apart. -/
def contextRegs : List Nat := [0x02, 0x10, 0x11, 0x12, 0x13, 0x14, 0x15, 0x16, 0x17, 0x18, 0x19, 0x1A, 0x1B, 0x1C, 0x33]

theorem sysReadOnly_contextRegs : ∀ n ∈ contextRegs, sysReadOnly n = false := by decide

/-- Both kinds of core have them. -/
theorem sysKnown_contextRegs (c : Nat) : ∀ n ∈ contextRegs, sysKnown c n = true := by simp [contextRegs, sysKnown]

/-- Their writes are `Act.sysWrite`'s. -/
theorem sysWriteRes_contextRegs {n : Nat} (h : n ∈ contextRegs) (s : State) (c aid : Nat) (a : Act) (op : Nat) (x : Word64) :
    sysWriteRes s c aid a op n x = effectRes (s.setAct aid ((s.act aid).sysWrite n x)) := by
  simp only [contextRegs, List.mem_cons, List.not_mem_nil, or_false] at h
  rcases h with rfl | rfl | rfl | rfl | rfl | rfl | rfl | rfl | rfl | rfl | rfl | rfl | rfl | rfl | rfl <;> rfl

/-- A word that writes one of them completes in a mode that may. -/
theorem contextReg_completes {i : Instr} {cl : Clauses} {op n : Nat} {v : Nat → Nat → Act → State → Word64}
    (hi : ∀ s, exec i s = sysWriteWord i cl op n v s) (h : n ∈ contextRegs) :
    Completes i cl plainNeed (fun _ x _ => sysWriteMode n ≤ x.mode)
      (fun c aid x s => change (s.setAct aid (x.sysWrite n (v c aid x s)))) :=
  sysWriteWord_completes hi (sysReadOnly_contextRegs n h) (fun _ x _ hm => ⟨sysKnown_contextRegs x.core n h, hm⟩)
    fun s c aid _ => sysWriteRes_contextRegs h s c aid _ op _

/-! ## The status word (R130) -/

/-- The bits of ASW that a mode may not change. -/
theorem not_aswWritable (m : Nat) : ~~~(aswWritable m) = if m = 0 then ~~~(0xFB00 : Word64) else ~~~(0xFB40 : Word64) :=
  apply_ite (fun w : Word64 => ~~~w) (m = 0) _ _

theorem sysWriteRes_asw_ok {s : State} {c aid : Nat} {x : Act} {op : Nat} {v : Word64}
    (h : (x.asw ^^^ (v &&& 0xFBFF)) &&& ~~~(aswWritable x.mode) = 0) :
    sysWriteRes s c aid x op 0 v = effectRes (s.setAct aid { s.act aid with asw := v &&& 0xFBFF }) := by
  have hw : writeAsw x.mode x.asw v = some (v &&& 0xFBFF) := if_pos h
  simp only [sysWriteRes, hw]

theorem sysWriteRes_asw_priv {s : State} {c aid : Nat} {x : Act} {op : Nat} {v : Word64}
    (h : ¬(x.asw ^^^ (v &&& 0xFBFF)) &&& ~~~(aswWritable x.mode) = 0) :
    sysWriteRes s c aid x op 0 v = .trap (mkTrap cPRIV op) := by
  have hw : writeAsw x.mode x.asw v = none := if_neg h
  simp only [sysWriteRes, hw, Nat.zero_mul, Nat.add_zero]

/-- Every mode may write to ASW. -/
theorem asw_checks (x : Act) : sysKnown x.core 0 = true ∧ sysWriteMode 0 ≤ x.mode := ⟨rfl, Nat.zero_le _⟩

/-- Settles O5: reads by the checks of SRD, writes by `contextReg_completes` and the other laws of `sysWriteWord`, ASW by `writeAsw`. -/
theorem systemRegistersComplete : Obligations.SystemRegistersComplete := by
  unfold Obligations.SystemRegistersComplete
  refine ⟨fun d imm cl => ⟨?_, ?_⟩, fun a n cl hn => ?_, fun a cl => ?_⟩
  · rintro s c aid h ⟨hk, hm⟩
    exact (exec_srd ..).trans (run_go h (sysPre_ok hk nofun) (if_neg (Nat.not_lt.mpr hm)))
  · rintro s c aid h ⟨hk, hm⟩
    exact (exec_srd ..).trans (run_trap h (sysPre_ok hk nofun) (if_pos hm))
  · have h0 := exec_swr_word (a := a) (sysNum_ofNat hn) cl
    have h1 := exec_srset_word (a := a) (sysNum_ofNat hn) cl
    have h2 := exec_srclr_word (a := a) (sysNum_ofNat hn) cl
    exact ⟨fun hc => ⟨contextReg_completes h0 hc, contextReg_completes h1 hc, contextReg_completes h2 hc⟩,
      fun hr s c aid h => ⟨sysWriteWord_readOnly h0 hr h, sysWriteWord_readOnly h1 hr h, sysWriteWord_readOnly h2 hr h⟩,
      sysWriteWord_priv h0⟩
  · have h0 := exec_swr_word (a := a) (imm := 0) rfl cl
    exact ⟨sysWriteWord_completes h0 rfl (fun _ x _ _ => asw_checks x) fun s c aid h =>
        sysWriteRes_asw_ok (by rw [not_aswWritable]; exact h),
      sysWriteWord_raises h0 rfl (fun _ x _ _ => asw_checks x) fun s c aid h =>
        sysWriteRes_asw_priv (by rw [not_aswWritable]; exact h)⟩

/-! ## The registers of a partition, the machine-check record and the cross-alarm (R148, R149, R305, R309, R310, R322, R359) -/

/-- JCKPT and TOVEC exist on an armature core. -/
theorem sysKnown_armature {c n : Nat} (hn : n = 0x40 ∨ n = 0x41) (hc : 2048 ≤ c) : sysKnown c n = true := by
  rcases hn with rfl | rfl <;> simp [sysKnown, isArmature, hc]

/-- Settles O6: register by register and word by word. -/
theorem partitionRegistersComplete : Obligations.PartitionRegistersComplete := by
  unfold Obligations.PartitionRegistersComplete
  refine ⟨fun a cl => ⟨?_, ?_, ?_, ?_, ?_⟩, fun d imm cl => ⟨?_, ?_, ?_, ?_, ?_, ?_, ?_⟩⟩
  · exact sysWriteWord_completes (exec_swr_word rfl cl) rfl (fun _ x _ hm => ⟨rfl, hm.ge⟩) fun _ _ _ _ => rfl
  · exact sysWriteWord_completes (exec_swr_word rfl cl) rfl (fun _ x _ ⟨hm, _⟩ => ⟨rfl, hm⟩) fun _ _ _ ⟨_, hl⟩ =>
      if_neg (Nat.not_le.mpr hl)
  · exact sysWriteWord_completes (exec_swr_word rfl cl) rfl (fun _ x _ hm => ⟨rfl, hm⟩) fun _ _ _ _ => rfl
  · exact sysWriteWord_completes (exec_swr_word rfl cl) rfl
      (fun _ x _ ⟨hm, hc⟩ => ⟨sysKnown_armature (.inl rfl) hc, hm.ge⟩) fun _ _ _ _ => rfl
  · exact sysWriteWord_completes (exec_swr_word rfl cl) rfl
      (fun _ x _ ⟨hm, hc⟩ => ⟨sysKnown_armature (.inr rfl) hc, hm.ge⟩) fun _ _ _ _ => rfl
  · exact completes_of_body (exec_mchk 0 d cl) fun _ _ _ hm => if_neg hm
  · exact completes_of_body (exec_mchk 1 d cl) fun _ _ _ hm => if_neg hm
  · exact raises_of_body (exec_mchk 0 d cl) fun _ _ _ hm => if_pos hm
  · rintro s c aid h ⟨hm, hc⟩
    refine (exec_xalm ..).trans (run_go h rfl ?_)
    simp only [hm, isArmature_eq_false hc]
    rfl
  · rintro s c aid h ⟨hm, hc⟩
    have ha : isArmature c = true := decide_eq_true hc
    refine (exec_xalm ..).trans (run_go h rfl ?_)
    simp only [hm, ha]
    rfl
  · rintro s c aid h ⟨hm, hc, hx⟩
    have ha : isArmature c = true := decide_eq_true hc
    have hxa : isArmature (s.act aid).core = true := decide_eq_true hx
    refine (exec_xalm ..).trans (run_go h (if_neg fun hn => ?_) ?_)
    · exact Bool.false_ne_true (hn.2.symm.trans hxa)
    · simp only [hm, ha]
      rfl
  · rintro s c aid h hm
    exact (exec_xalm ..).trans (run_trap h rfl (if_pos hm))

end Sys2Proof.Machine
end

section
/-! Atomics, reductions, signals and waits on memory: what each sends to the home of its place (R153, R161..R165, R171). -/
namespace Sys2Proof.Machine

/-- The rights of an atomic, by its scope (R152, R161). -/
theorem atomRights_eq (scope : Nat) : atomRights scope = if scope = 6 then 8 + 2 + 64 else 8 + 2 := by
  unfold atomRights
  split <;> rfl

/-- The operation of an atomic whose result goes to `d`; with `d = 0` it is a reduction, which answers nothing (R153, R162). -/
def atomicOp (s : State) (aid : Nat) (x : Act) (i : Instr) (cl : Clauses) (d : BitVec 6) (imm : BitVec 16) : Op :=
  { mkOp aid x i cl true true (dstS d.toNat)
      (.device (if d = 0 then none else some (sreg d.toNat)) (decide (d ≠ 0))) with
    acq := ordOf imm % 2 == 1, wide := (ordOf imm % 2 == 1) && s.wideScope x imm }

/-- An atomic that reaches its place starts its operation and sends one request with its operand. -/
theorem atomicRes_sends {s : State} {c aid : Nat} {x : Act} {i : Instr} {cl : Clauses} {d a b : BitVec 6} {imm : BitVec 16}
    {n sub p : Nat} {y new : Word64} {e : OtcEntry}
    (h : s.Reaches c x a.toNat (if scopeOf imm = 6 then 8 + 2 + 64 else 8 + 2) (x.s b.toNat) n true
      (atomClass (opcodeOf i) n (scopeOf imm)) e p) :
    atomicRes s c aid x i cl d a b imm n sub y new =
      .go (request ((s.touch c e).l1Drop c (e.addr p / 64))
        (atomicOp ((s.touch c e).l1Drop c (e.addr p / 64)) aid x i cl d imm)
        (fun q => mkReq aid x c q e p n (.atomic (opcodeOf i) sub y new))) := by
  simp only [atomicRes, atomRights_eq, State.devCheck_ok h]
  rfl

/-- A word that issues an atomic completes so, whatever it waits for. -/
theorem atomic_completes {i : Instr} {cl : Clauses} {d a b : BitVec 6} {imm : BitVec 16} {n sub p : Nat} {y new : Act → Word64}
    {e : OtcEntry} {need : Need}
    (hi : ∀ s, exec i s = run i cl need noPre (fun c aid x s => atomicRes s c aid x i cl d a b imm n sub (y x) (new x)) s) :
    Completes i cl (fun _ => need)
      (fun c x s => s.Reaches c x a.toNat (if scopeOf imm = 6 then 8 + 2 + 64 else 8 + 2) (x.s b.toNat) n true
        (atomClass (opcodeOf i) n (scopeOf imm)) e p)
      (fun c aid x s => request ((s.touch c e).l1Drop c (e.addr p / 64))
        (atomicOp ((s.touch c e).l1Drop c (e.addr p / 64)) aid x i cl d imm)
        (fun q => mkReq aid x c q e p n (.atomic (opcodeOf i) sub (y x) (new x)))) :=
  fun s _ _ h hk => (hi s).trans (run_go h rfl (atomicRes_sends hk))

/-- Settles O11: the atomics and SIGNAL share `atomic_completes`; WAITMEM passes the same checks and sends its wait. -/
theorem atomicsComplete : Obligations.AtomicsComplete := by
  unfold Obligations.AtomicsComplete
  intro mod d a b c imm e p cl
  refine ⟨atomic_completes fun s => exec_aadd .., atomic_completes fun s => exec_alog .., atomic_completes fun s => exec_amnx ..,
    atomic_completes fun s => exec_aswp .., atomic_completes fun s => exec_acas .., atomic_completes fun s => exec_afadd ..,
    atomic_completes fun s => exec_afadd .., atomic_completes fun s => exec_signal .., fun s k aid h hk => ?_⟩
  refine (exec_waitmem ..).trans (run_go h rfl ?_)
  simp only [atomSize, State.devCheck_ok hk]
  rfl

end Sys2Proof.Machine
end

section
/-! Walks, invalidations and migrations: what each event does (R307..R310). -/
namespace Sys2Proof.Machine

/-! ## Walks (R307) -/

/-- The requests that a page's walk ends are those of that page which something still waits for. -/
theorem State.mem_walkers {s : State} {page : Nat × Nat × Nat × Option Nat} {b : WalkReq} :
    b ∈ s.walkers page ↔ b ∈ s.walks ∧ s.walkWanted b = true ∧ s.walkPage b = page := by
  simp only [State.walkers, State.wanted, List.mem_filter, beq_iff_eq, and_assoc]

/-- The page that an activity's walk ends has a walker, and the activity asked for it. -/
theorem State.walkOf_some {s : State} {aid : Nat} {page : Nat × Nat × Nat × Option Nat} (h : s.walkOf aid = some page) :
    s.walkRuns page = true ∧ ∃ b ∈ s.walkers page, b.act = aid := by
  obtain ⟨b, hf, rfl⟩ := Option.map_eq_some_iff.mp h
  have hb : b.act = aid ∧ s.walkRuns (s.walkPage b) = true := by simpa using List.find?_some hf
  obtain ⟨ha, hr⟩ := hb
  have hm : b ∈ s.wanted := List.mem_of_find?_eq_some hf
  exact ⟨hr, b, List.mem_filter.mpr ⟨hm, beq_self_eq_true _⟩, ha⟩

theorem translationWalk_ends {s : State} {aid : Nat} {page : Nat × Nat × Nat × Option Nat} (h : s.walkOf aid = some page) :
    exec (.translationWalk aid) s = .next ((s.walkers page).foldl State.endWalk s) := by
  rw [exec_translationWalk]
  simp only [execTranslationWalk, h]

/-- A walk that one request awaits ends for that request alone. -/
theorem translationWalk_alone {s : State} {aid : Nat} {page : Nat × Nat × Nat × Option Nat} {w : WalkReq}
    (h : s.walkOf aid = some page) (hw : s.walkers page = [w]) : exec (.translationWalk aid) s = .next (s.endWalk w) := by
  rw [translationWalk_ends h, hw]
  rfl

/-- A request for a walk goes as its walk ends. -/
abbrev State.dropWalk (s : State) (w : WalkReq) : State := { s with walks := s.walks.filter (fun b => b != w) }

/-- What the walk of a request answers. -/
abbrev State.walkAnswer (s : State) (w : WalkReq) : Except Trap (OtcEntry × Nat) :=
  (s.dropWalk w).walk w.part { object := w.object, offset := w.offset, bytes := w.bytes, write := w.write, atom := w.atom }

/-- The context whose word awaited the walk is free to issue it again. -/
abbrev State.unblock (s : State) (aid : Nat) : State := s.setAct aid { s.act aid with block := none }

section
variable {s : State} {w : WalkReq} {e : OtcEntry} {leaf q n : Nat} {id : BitVec 32} {msc : Bool} {t : Trap}

theorem State.endWalk_word_ok (hk : w.who = .word) (hr : s.walkAnswer w = .ok (e, leaf)) :
    s.endWalk w = ((s.dropWalk w).unblock w.act).setCore w.core ((((s.dropWalk w).unblock w.act).core w.core).otcUse e) := by
  simp only [State.endWalk, hk, hr]

theorem State.endWalk_word_error (hk : w.who = .word) (hr : s.walkAnswer w = .error t) :
    s.endWalk w = ((s.dropWalk w).unblock w.act).raise w.act t := by
  simp only [State.endWalk, hk, hr]

theorem State.endWalk_engine_ok (hk : w.who = .engine q n id) (hr : s.walkAnswer w = .ok (e, leaf)) :
    s.endWalk w = (s.dropWalk w).setCore w.core (((s.dropWalk w).core w.core).otcUse e) := by
  simp only [State.endWalk, hk, hr]

/-- A failed walk of a transfer faults its channel. -/
theorem State.endWalk_engine_error {x : Transfer} {later : List Transfer} (hk : w.who = .engine q n id)
    (hr : s.walkAnswer w = .error t) (hq : (s.chan q n).queue = x :: later) :
    s.endWalk w = ((s.dropWalk w).faultChan q n x t.cause w.offset).settleWaits q := by
  have hd : ((s.dropWalk w).chan q n).queue = x :: later := hq
  simp only [State.endWalk, hk, hr, hd]

theorem State.endWalk_ahead_ok (hk : w.who = .ahead msc) (hr : s.walkAnswer w = .ok (e, leaf)) :
    s.endWalk w = (s.dropWalk w).lineAhead w.core msc e w.offset := by
  simp only [State.endWalk, hk, hr]

/-- A failed walk of a PFETCH is dropped. -/
theorem State.endWalk_ahead_error (hk : w.who = .ahead msc) (hr : s.walkAnswer w = .error t) :
    s.endWalk w = s.dropWalk w := by
  simp only [State.endWalk, hk, hr]

end

/-! ## Invalidations (R309) -/

/-- An invalidation of a context joins its partition's queue when the queue is not full. -/
theorem otinvWrite_joins {s : State} {aid : Nat} {v : Word64} (ha : (tableGet? s.acts aid).isSome = true)
    (hl : (s.part (s.act aid).part).otinv.length < 16) : exec (.otinvWrite aid v) s = .next (s.otinvPut aid v) := by
  rw [exec_otinvWrite, execOtinvWrite, if_neg]
  rintro (hn | hf)
  · simp [Option.isNone_iff_eq_none.mp hn] at ha
  · exact absurd hf (Nat.not_le.mpr hl)

/-- The oldest invalidation completes when no access of its page is left. -/
theorem invalidationComplete_completes {s : State} {part aid : Nat} {v : Word64} {rest : List (Nat × Word64)}
    (hq : (s.part part).otinv = (aid, v) :: rest)
    (hu : (s.dropOtc part (invMatches v)).usesPage part (invMatches v) = false) :
    exec (.invalidationComplete part) s = .next ((s.dropOtc part (invMatches v)).setPart part
      { (s.dropOtc part (invMatches v)).part part with otinv := rest }) := by
  rw [exec_invalidationComplete]
  simp only [execInvalidationComplete, hq, hu, Bool.false_eq_true, if_false]

/-! ## Migrations (R310) -/

theorem migreqWrite_requests {s : State} {aid : Nat} {v : Word64} (ha : (tableGet? s.acts aid).isSome = true) :
    exec (.migreqWrite aid v) s = .next (s.migRequest aid v) := by
  rw [exec_migreqWrite]
  exact if_pos ha

/-- Settles O30: walks by who asked for them, then invalidations and migrations, event by event. -/
theorem translationEventsHappen : Obligations.TranslationEventsHappen := by
  unfold Obligations.TranslationEventsHappen
  intro aid q n part leaf id msc v e t m w x later page rest
  refine ⟨fun s h => translationWalk_ends h,
    fun s ⟨h, hw, hk, hr⟩ => (translationWalk_alone h hw).trans (congrArg Host.Outcome.next (State.endWalk_word_ok hk hr)),
    fun s ⟨h, hw, hk, hr⟩ => (translationWalk_alone h hw).trans (congrArg Host.Outcome.next (State.endWalk_word_error hk hr)),
    fun s ⟨h, hw, hk, hr⟩ => (translationWalk_alone h hw).trans (congrArg Host.Outcome.next (State.endWalk_engine_ok hk hr)),
    fun s ⟨⟨h, hw, hk, hr⟩, hq⟩ => (translationWalk_alone h hw).trans (congrArg Host.Outcome.next (State.endWalk_engine_error hk hr hq)),
    fun s ⟨h, hw, hk, hr⟩ => (translationWalk_alone h hw).trans (congrArg Host.Outcome.next (State.endWalk_ahead_ok hk hr)),
    fun s ⟨h, hw, hk, hr⟩ => (translationWalk_alone h hw).trans (congrArg Host.Outcome.next (State.endWalk_ahead_error hk hr)),
    fun s b => State.mem_walkers, fun s h => State.walkOf_some h, fun s ⟨ha, hl⟩ => otinvWrite_joins ha hl,
    fun s ⟨hq, hu⟩ => invalidationComplete_completes hq hu, fun s ha => migreqWrite_requests ha,
    fun s ⟨hm, hr⟩ => ?_, fun s ⟨hm, hr⟩ => ?_⟩
  · rw [exec_migrationRound]
    simp only [execMigrationRound, hm, hr, Bool.false_eq_true, if_false]
  · rw [exec_migrationFreeze]
    simp only [execMigrationFreeze, hm, hr, Bool.true_eq_false, if_false]
    rfl

end Sys2Proof.Machine
end

section
/-! Extremes, signs of floating-point elements, and the elementary functions (R176..R178). -/
namespace Sys2Proof.Machine

/-! ## Extremes (R177) -/

/-- The order of two elements by which VMIN and VMAX choose: by value, with -0.0 below +0.0. -/
def elemLess (t p q : Nat) : Bool :=
  if tagInt t then decide (intVal t p < intVal t q) else ((tagFmt t).decode p).ltTotal ((tagFmt t).decode q)

/-- A pair of floating-point elements with a NaN, for which VMIN and VMAX give the canonical NaN. -/
abbrev HasNan (t p q : Nat) : Prop :=
  tagInt t = false ∧ (((tagFmt t).decode p).isNan = true ∨ ((tagFmt t).decode q).isNan = true)

section
variable {t : Nat} {isMax : Bool} {p q : Nat}

theorem extremeElem_nan (h : HasNan t p q) : extremeElem t isMax p q = { code := (tagFmt t).nan } := by
  obtain ⟨ht, hn⟩ := h
  simp only [extremeElem, ht, Bool.false_eq_true, if_false, (Bool.or_eq_true ..).mpr hn, if_true]

/-- Without a NaN, an integer tag or not, the order alone chooses. -/
theorem extremeElem_ordered (h : ¬HasNan t p q) :
    extremeElem t isMax p q = { code := if elemLess t p q = isMax then q else p } := by
  cases ht : tagInt t with
  | true => simp only [extremeElem, elemLess, ht, if_true]
  | false =>
    have hn : ¬(((tagFmt t).decode p).isNan = true ∨ ((tagFmt t).decode q).isNan = true) := fun hn => h ⟨ht, hn⟩
    simp only [extremeElem, elemLess, ht, Bool.false_eq_true, if_false, Bool.or_eq_true, if_neg hn]

/-- The second element exactly where `pick` takes it for the order. -/
theorem extremeElem_eq {pick : Bool → Bool} (hp : ∀ less, less = isMax ↔ pick less = true) :
    extremeElem t isMax p q = if HasNan t p q then { code := (tagFmt t).nan }
      else if pick (elemLess t p q) then { code := q } else { code := p } := by
  split
  · next h => exact extremeElem_nan h
  · next h =>
    rw [extremeElem_ordered h, if_congr (hp _) rfl rfl]
    split <;> rfl

end

/-- VMIN or VMAX on a tag of numbers, with `pick` for its choice. -/
theorem extremeWord {i : Instr} {cl : Clauses} {mod : BitVec 4} {d a b : BitVec 6} {isMax : Bool} {pick : Bool → Bool}
    (hi : ∀ s, exec i s = run i cl {} noPre (fun _ _ x st => extremeRes st x isMax mod d (x.v a.toNat) (x.v b.toNat)) s)
    (hp : ∀ less, less = isMax ↔ pick less = true) :
    Completes i cl plainNeed
      (fun _ x _ => (tagInt (x.v a.toNat).t = true ∨ tagFloat (x.v a.toNat).t = true)
        ∧ (x.v b.toNat).tag = (x.v a.toNat).tag ∧ MergeOk x mod d (x.v a.toNat).tag)
      (fun _ _ x s =>
        let t := (x.v a.toNat).t
        let code (r : BitVec 6) (i : Nat) : Nat := elem (x.v r.toNat).data (tagWidth t) i
        maskedV s x mod d 2 (tagWidth t) (x.v a.toNat).tag (fun i =>
          if HasNan t (code a i) (code b i) then { code := (tagFmt t).nan }
          else if pick (elemLess t (code a i) (code b i)) then { code := code b i } else { code := code a i })) := by
  refine completes_of_body hi fun s _ aid ⟨ha, hb, hm⟩ => ?_
  have hok := arithTags_ok (useC := false) (c := (s.act aid).v b.toNat)
    (ha.elim arithTag_of_int arithTag_of_float) hb nofun
  simp only [Bool.false_eq_true, if_false] at hok
  simp only [extremeRes, hok, maskedRes_ok hm, extremeElem_eq hp]

/-! ## The sign of a floating-point element (R177) -/

/-- A format has a sign bit above its other bits. -/
theorem tagFmt_width_pos (t : Nat) : 0 < (tagFmt t).width := by
  unfold tagFmt
  split <;> decide

/-- VABS or VNEG on floating-point tags, where it gives f of the sign bit's weight and the code. -/
theorem signWord_float {i : Instr} {cl : Clauses} {mod : BitVec 4} {d a : BitVec 6} {neg sat : Bool} {f : Nat → Nat → Nat}
    (hi : ∀ s, exec i s = run i cl {} noPre (fun _ _ x st => signRes st x neg mod d sat (x.v a.toNat)) s) (hs : sat = false)
    (hf : ∀ w c, (if neg then (c + 2 ^ w) % 2 ^ (w + 1) else c % 2 ^ w) = f (2 ^ w) c) :
    Completes i cl plainNeed (fun _ x _ => tagFloat (x.v a.toNat).t = true ∧ MergeOk x mod d (x.v a.toNat).tag)
      (fun _ _ x s =>
        let t := (x.v a.toNat).t
        let code (i : Nat) : Nat := elem (x.v a.toNat).data (tagWidth t) i
        maskedV s x mod d 2 (tagWidth t) (x.v a.toNat).tag (fun i =>
          if ((tagFmt t).decode (code i)).isNan then { code := (tagFmt t).nan }
          else { code := f (2 ^ ((tagFmt t).width - 1)) (code i) })) := by
  refine completes_of_body hi fun s _ aid ⟨ha, hm⟩ => ?_
  simp only [signRes, arithTag_of_float ha, tagInt_of_float ha, hs, Bool.not_true, Bool.false_eq_true, false_and, if_false,
    maskedRes_ok hm, signElem, ← hf, Nat.sub_add_cancel (tagFmt_width_pos _)]

/-! ## The elementary functions (R178) -/

/-- VRCP, VRSQ, VEXP2 or VLOG2 on a floating-point tag, and on another. -/
theorem unaryWord {i : Instr} {cl : Clauses} {fn : Nat} {mod : BitVec 4} {d a : BitVec 6}
    (hi : ∀ s, exec i s = run i cl {} noPre (fun _ _ x st => unaryRes st x fn mod d (x.v a.toNat)) s) :
    Completes i cl plainNeed (fun _ x _ => tagFloat (x.v a.toNat).t = true ∧ MergeOk x mod d (x.v a.toNat).tag)
      (fun _ _ x s =>
        let t := (x.v a.toNat).t
        maskedV s x mod d 6 (tagWidth t) (x.v a.toNat).tag (fun i =>
          fpUnary fn (tagFmt t) x.rm ((tagFmt t).decode (elem (x.v a.toNat).data (tagWidth t) i)))) ∧
    Raises i cl plainNeed (fun _ x _ => tagFloat (x.v a.toNat).t = false)
      (fun _ x _ => mkTrap cFORMAT (x.v a.toNat).tag.toNat) := by
  refine ⟨completes_of_body hi fun s _ aid ⟨ha, hm⟩ => ?_, raises_of_body hi fun s _ aid ha => ?_⟩
  · simp only [unaryRes, ha, Bool.not_true, Bool.false_eq_true, if_false, maskedRes_ok hm]
  · simp only [unaryRes, ha, Bool.not_false, if_true, formatTrap_a]

/-- Settles O13: VMIN and VMAX by `extremeWord`, the signs by `signWord_float`, the four functions by `unaryWord`. -/
theorem vectorExtremesSignsFunctions : Obligations.VectorExtremesSignsFunctions := by
  unfold Obligations.VectorExtremesSignsFunctions
  intro mod d a b imm cl
  refine ⟨?_, ?_, fun hs => ?_, fun hs => ?_, ?_, ?_, ?_, ?_⟩
  · exact extremeWord (isMax := false) (pick := (!·)) (fun _ => exec_vmin ..) (by decide)
  · exact extremeWord (isMax := true) (pick := id) (fun _ => exec_vmax ..) (by decide)
  · exact signWord_float (neg := false) (f := fun top c => c % top) (fun _ => exec_vabs ..) hs (fun _ _ => rfl)
  · exact signWord_float (neg := true) (f := fun top c => (c + top) % (2 * top)) (fun _ => exec_vneg ..) hs
      (fun w c => congrArg ((c + 2 ^ w) % ·) (Nat.pow_succ' ..))
  · exact unaryWord (fun _ => exec_vrcp ..)
  · exact unaryWord (fun _ => exec_vrsq ..)
  · exact unaryWord (fun _ => exec_vexp2 ..)
  · exact unaryWord (fun _ => exec_vlog2 ..)

end Sys2Proof.Machine
end

section
/-! Byte logic and element shifts (R179, R180). -/
namespace Sys2Proof.Machine

/-- A word of byte logic, on every tag. -/
theorem logicWord {i : Instr} {cl : Clauses} {f : Nat → Nat → Nat} {mod : BitVec 4} {d a b : BitVec 6}
    (hi : ∀ s, exec i s = run i cl {} noPre (fun _ _ x st => vlogicRes st x f mod d (x.v a.toNat) (x.v b.toNat)) s) :
    Completes i cl plainNeed (fun _ x _ => MergeOk x mod d (x.v a.toNat).tag)
      (fun _ _ x s => maskedV s x mod d 2 8 (x.v a.toNat).tag
        (fun j => { code := f (elem (x.v a.toNat).data 8 j) (elem (x.v b.toNat).data 8 j) }) (x.v a.toNat).bw) :=
  completes_of_body hi fun s _ _ hm => maskedRes_ok hm s 2 8 _ _

section
variable {x : Act} {right : Bool} {mod : BitVec 4} {d : BitVec 6} {a b : VReg} {imm : BitVec 16}

/-- With imm[15] clear the counts are the elements of b, of the same tag. -/
theorem shiftRes_counts (h15 : imm.getLsbD 15 = false) (ha : tagInt a.t = true) (hb : b.tag = a.tag)
    (hm : MergeOk x mod d a.tag) (st : State) :
    shiftRes st x right mod d a b imm = .go (maskedV st x mod d 2 (tagWidth a.t) a.tag (fun i =>
      { code := shiftElem a.t right (imm.getLsbD 6) (elem a.data (tagWidth a.t) i) (elem b.data (tagWidth a.t) i) })) := by
  have hok : tagsFault tagInt a.t [(1, b.t)] = none :=
    tagsFault_ok ha fun v hv => List.mem_singleton.mp hv ▸ congrArg BitVec.toNat hb
  simp only [shiftRes, h15, Bool.not_false, if_true, hok, maskedRes_ok hm]

/-- With imm[15] set one count, the immediate's low six bits, serves every element. -/
theorem shiftRes_immediate (h15 : imm.getLsbD 15 = true) (ha : tagInt a.t = true) (hm : MergeOk x mod d a.tag) (st : State) :
    shiftRes st x right mod d a b imm = .go (maskedV st x mod d 2 (tagWidth a.t) a.tag (fun i =>
      { code := shiftElem a.t right (imm.getLsbD 6) (elem a.data (tagWidth a.t) i) (imm.extractLsb' 0 6).toNat })) := by
  have hok : tagsFault tagInt a.t [] = none := tagsFault_ok ha nofun
  have hn : (imm.extractLsb' 0 6).toNat = imm.toNat % 64 := BitVec.extractLsb'_toNat ..
  simp only [shiftRes, h15, Bool.not_true, Bool.false_eq_true, if_false, hok, maskedRes_ok hm, hn]

end

/-- VSHL or VSHR on integer tags, with either source of the count. -/
theorem shiftWord {i : Instr} {cl : Clauses} {right : Bool} {mod : BitVec 4} {d a b : BitVec 6} {imm : BitVec 16}
    (hi : ∀ s, exec i s = run i cl {} noPre (fun _ _ x st => shiftRes st x right mod d (x.v a.toNat) (x.v b.toNat) imm) s) :
    (imm.getLsbD 15 = false → Completes i cl plainNeed
      (fun _ x _ => tagInt (x.v a.toNat).t = true ∧ (x.v b.toNat).tag = (x.v a.toNat).tag
        ∧ MergeOk x mod d (x.v a.toNat).tag)
      (fun _ _ x s =>
        let w := tagWidth (x.v a.toNat).t
        maskedV s x mod d 2 w (x.v a.toNat).tag (fun i =>
          { code := shiftElem (x.v a.toNat).t right (imm.getLsbD 6) (elem (x.v a.toNat).data w i)
              (elem (x.v b.toNat).data w i) }))) ∧
    (imm.getLsbD 15 = true → Completes i cl plainNeed
      (fun _ x _ => tagInt (x.v a.toNat).t = true ∧ MergeOk x mod d (x.v a.toNat).tag)
      (fun _ _ x s =>
        let w := tagWidth (x.v a.toNat).t
        maskedV s x mod d 2 w (x.v a.toNat).tag (fun i =>
          { code := shiftElem (x.v a.toNat).t right (imm.getLsbD 6) (elem (x.v a.toNat).data w i)
              (imm.extractLsb' 0 6).toNat }))) :=
  ⟨fun h15 => completes_of_body hi fun s _ _ ⟨ha, hb, hm⟩ => shiftRes_counts h15 ha hb hm s,
    fun h15 => completes_of_body hi fun s _ _ ⟨ha, hm⟩ => shiftRes_immediate h15 ha hm s⟩

/-- Settles O14: byte logic by `logicWord`, the shifts by `shiftWord` whose `shiftElem` is the statement's in either direction. -/
theorem vectorLogicAndShifts : Obligations.VectorLogicAndShifts := by
  unfold Obligations.VectorLogicAndShifts
  intro mod d a b imm cl
  refine ⟨?_, ?_, ?_, ?_, ?_⟩
  · exact logicWord (fun _ => exec_vand ..)
  · exact logicWord (fun _ => exec_vor ..)
  · exact logicWord (fun _ => exec_vxor ..)
  · exact shiftWord (right := false) (fun _ => exec_vshl ..)
  · exact shiftWord (right := true) (fun _ => exec_vshr ..)

end Sys2Proof.Machine
end

section
/-! The words of the pattern generator and the tile cutter (R197..R202, R224..R230). -/
namespace Sys2Proof.Machine

/-- A word that completes under a condition completes under every stronger one. -/
theorem Completes.of_imp {i : Instr} {cl : Clauses} {need : Act → Need} {ok ok' : Nat → Act → State → Prop}
    {eff : Nat → Nat → Act → State → Eff} (h : Completes i cl need ok eff) (hk : ∀ c x s, ok' c x s → ok c x s) :
    Completes i cl need ok' eff :=
  fun s c aid hc ho => h s c aid hc (hk _ _ _ ho)

/-! ## Who may use the generator (R198, R199) -/

section
variable {x : Act} {needProg : Bool}

theorem genFault_home (hv : x.visitor = false) : genFault x false = none := by
  simp only [genFault, hv, Bool.false_and, Bool.or_self, Bool.false_eq_true, if_false]

theorem genFault_loaded (hv : x.visitor = false) (hl : x.gen.loaded = true) : genFault x true = none := by
  simp only [genFault, hv, hl, Bool.not_true, Bool.and_false, Bool.or_self, Bool.false_eq_true, if_false]

theorem genFault_visitor (hv : x.visitor = true) : genFault x needProg = some (patternTrap 6 0) := by
  simp only [genFault, hv, Bool.true_or, if_true]

theorem genFault_unloaded (hl : x.gen.loaded = false) : genFault x true = some (patternTrap 6 0) := by
  simp only [genFault, hl, Bool.not_false, Bool.and_self, Bool.or_true, if_true]

end

/-! ## Programs and parameters (R224, R225) -/

/-- Where PLOAD reads a program, the first instruction stands at the address that its wait for earlier stores speaks of. -/
theorem hatchRead_first {s : State} {c : Nat} {x : Act} {quad : Bool} {n : Nat} {o : Word64} {l : List (Nat × BitVec 32)}
    (h : hatchRead s c x quad (n + 1) o = .ok l) : ∃ e r, l = e :: r ∧ hatchRead s c x quad 1 o = .ok [e] := by
  cases hp : (if quad then x.qsCheck 0x90 o 4 4 else x.lmCheck 0x90 o 4 4) with
  | error t => simp only [hatchRead, hp, reduceCtorEq] at h
  | ok p =>
    simp only [hatchRead, hp] at h ⊢
    generalize BitVec.ofNat 32 (bytesToNat (if quad then s.qsRead x.quad p 4 else s.lmRead c p 4)) = w at h ⊢
    by_cases hw : hOp w = 0
    · rw [if_pos hw] at h
      cases h
      exact ⟨_, _, rfl, ite_self _⟩
    · rw [if_neg hw] at h
      split at h <;> cases h
      exact ⟨_, _, rfl, ite_self _⟩

/-- PLOAD of a valid program, from local memory or from the scratchpad, with no earlier store to wait for. -/
theorem pload_loads {a : BitVec 6} {l : List (Nat × BitVec 32)} {cl : Clauses} {quad : Bool} {mod : BitVec 4}
    (hm : (mod == 1) = quad) :
    Completes (.pload mod a cl) cl plainNeed
      (fun c x s => x.visitor = false ∧ hatchRead s c x quad 32 (x.s a.toNat) = .ok l
        ∧ hatchFault (l.map (·.2)) = none ∧ hatchPoison s c x quad (l.map (·.1)) = none
        ∧ (quad = true → ∀ aid, s.act aid = x → s.qsBusy aid = false)
        ∧ (quad = false → s.lmBusy c ((l.map (·.1)).headD 0) 128 false = false))
      (fun c aid x s => start (s.setAct aid { x with
          gen := { x.gen with loaded := true, inv := invertible (l.map (·.2)), prog := l.map (·.2), cursor := 0 }
          cut := { x.cut with isSet := false } })
        (mkOp aid x (.pload mod a cl) cl false false [] (.gen c []))) := by
  refine completes_of_body (fun _ => exec_pload ..) fun s c aid ⟨hv, hr, hf, hp, hq, hl⟩ => ?_
  obtain ⟨e, r, rfl, he⟩ := hatchRead_first hr
  have hfree : (if quad then s.qsBusy aid else s.lmBusy c (([e].map (·.1)).headD 0) 128 false) = false := by
    cases quad with
    | true => exact hq rfl aid rfl
    | false => exact hl rfl
  simp only [genFault_home hv, hm, he, hfree, Bool.false_eq_true, if_false, hr, hp, hf]
  rfl

/-! ## Enumeration (R226..R228) -/

section
variable {mod : BitVec 4} {d a b : BitVec 6} {cl : Clauses} {order : Nat}

/-- The two registers that an emission fills hold its rows and its columns, whichever of them is the line. -/
def emitWrites (d : BitVec 6) (order : Nat) (ms : List (Nat × Nat)) : List RegWrite :=
  [wV d.toNat (emitVec (ms.map (if order = 2 then (·.2) else (·.1)))),
   wV (d.toNat + 1) (emitVec (ms.map (if order = 2 then (·.1) else (·.2))))]

/-- The results of PGEN as its body writes them. -/
theorem emitWrites_eq (d : BitVec 6) (order : Nat) (ms : List (Nat × Nat)) :
    [wV d.toNat (emitVec (if order = 2 then ms.map (·.2) else ms.map (·.1))),
     wV (d.toNat + 1) (emitVec (if order = 2 then ms.map (·.1) else ms.map (·.2)))] = emitWrites d order ms := by
  unfold emitWrites
  split <;> rfl

/-- PGEN with a start operand emits from the line that the operand names, in the order of its mod. -/
theorem pgen_starts (hm : mod ≠ 2) (ho : mod.toNat + 1 = order) :
    Completes (.pgen mod d a cl) cl plainNeed
      (fun _ x _ => (x.visitor = false ∧ x.gen.loaded = true ∧ x.gen.pat.limits = none)
        ∧ bits (x.s a.toNat) 63 38 = 0 ∧ (order = 2 → x.gen.inv = true))
      (fun c aid x s =>
        let r := x.gen.pat.step order (bits (x.s a.toNat) 37 24 + 1) (bits (x.s a.toNat) 23 0) 0
        let ws := emitWrites d order r.1
        start (s.setAct aid { x with gen := { x.gen with cursor := r.2 } })
          (mkOp aid x (.pgen mod d a cl) cl false false (ws.map (·.reg)) (.gen c ws))) := by
  refine completes_of_body (fun _ => exec_pgen ..) fun s c aid ⟨⟨hv, hl, hlim⟩, hb, hi⟩ => ?_
  have hreserved : ¬(mod ≠ 2 ∧ bits ((s.act aid).s a.toNat) 63 38 ≠ 0) := fun h => h.2 hb
  have hordered : ¬(mod = 1 ∧ (s.act aid).gen.inv = false) := fun h =>
    Bool.false_ne_true (h.2.symm.trans (hi (by rw [← ho, h.1]; rfl)))
  have hpos : order ≠ 0 := by omega
  simp only [genFault_loaded hv hl, if_neg hreserved, if_neg hordered, if_neg hm, hlim, ho, if_neg hpos, emitWrites_eq]
  rfl

/-- PGEN that goes on from the cursor: nothing from a cleared cursor, and from another the members after it. -/
theorem pgen_continues {r : Act → List (Nat × Nat) × Word64}
    (hr : ∀ x, bits x.gen.cursor 63 62 = order → r x = if order = 0 then ([], 0)
      else x.gen.pat.step order (bits x.gen.cursor 61 48 + 1) (bits x.gen.cursor 47 24) (bits x.gen.cursor 23 0)) :
    Completes (.pgen 2 d a cl) cl plainNeed
      (fun _ x _ => x.visitor = false ∧ x.gen.loaded = true ∧ bits x.gen.cursor 63 62 = order)
      (fun c aid x s =>
        let ws := emitWrites d order (r x).1
        start (s.setAct aid { x with gen := { x.gen with cursor := (r x).2 } })
          (mkOp aid x (.pgen 2 d a cl) cl false false (ws.map (·.reg)) (.gen c ws))) := by
  refine completes_of_body (fun _ => exec_pgen ..) fun s c aid ⟨hv, hl, ho⟩ => ?_
  have hstart : ¬((2 : BitVec 4) ≠ 2 ∧ bits ((s.act aid).s a.toNat) 63 38 ≠ 0) := fun h => h.1 rfl
  have hfwd : ¬((2 : BitVec 4) = 1 ∧ (s.act aid).gen.inv = false) := fun h => absurd h.1 (by decide)
  simp only [genFault_loaded hv hl, if_neg hstart, if_neg hfwd, if_true, ho, ← hr _ ho, emitWrites_eq]
  rfl

/-- (s[a], s[b]) is a member of the pattern within its extent. -/
def Act.InPattern (x : Act) (a b : BitVec 6) : Prop :=
  (x.s a.toNat).toNat < x.gen.rows ∧ (x.s b.toNat).toNat < x.gen.cols
    ∧ x.gen.pat.mem (x.s a.toNat).toNat (x.s b.toNat).toNat = true

/-- PINV's own test for a member. -/
theorem Act.inPattern_iff (x : Act) (a b : BitVec 6) :
    (decide ((x.s a.toNat).toNat < x.gen.pat.m) && decide ((x.s b.toNat).toNat < x.gen.pat.n)
      && x.gen.pat.mem (x.s a.toNat).toNat (x.s b.toNat).toNat) = true ↔ x.InPattern a b := by
  rw [Bool.and_eq_true, Bool.and_eq_true, decide_eq_true_iff, decide_eq_true_iff, and_assoc]
  rfl

/-- PINV of a coordinate outside the pattern gives all ones. -/
theorem pinv_outside : Completes (.pinv mod d a b cl) cl plainNeed
    (fun _ x _ => (x.visitor = false ∧ x.gen.loaded = true ∧ x.gen.pat.limits = none) ∧ ¬ x.InPattern a b)
    (fun c aid x s =>
      let ws := toS d (BitVec.allOnes 64)
      start s (mkOp aid x (.pinv mod d a b cl) cl false false (ws.map (·.reg)) (.gen c ws))) := by
  refine completes_of_body (fun _ => exec_pinv ..) fun s c aid ⟨⟨hv, hl, hlim⟩, hout⟩ => ?_
  rw [← Act.inPattern_iff, Bool.not_eq_true] at hout
  simp only [genFault_loaded hv hl, hlim, hout, Bool.not_false, if_true]
  rfl

/-- PINV of a member gives its place in its row, or, in an invertible program, in its column. -/
theorem pinv_inside : Completes (.pinv mod d a b cl) cl plainNeed
    (fun _ x _ => (x.visitor = false ∧ x.gen.loaded = true ∧ x.gen.pat.limits = none) ∧ x.InPattern a b
      ∧ (mod = 1 → x.gen.inv = true))
    (fun c aid x s =>
      let ws := toS d (w64 (if mod = 0
        then ((List.range (x.s b.toNat).toNat).filter (fun k => x.gen.pat.mem (x.s a.toNat).toNat k)).length
        else ((List.range (x.s a.toNat).toNat).filter (fun k => x.gen.pat.mem k (x.s b.toNat).toNat)).length))
      start s (mkOp aid x (.pinv mod d a b cl) cl false false (ws.map (·.reg)) (.gen c ws))) := by
  refine completes_of_body (fun _ => exec_pinv ..) fun s c aid ⟨⟨hv, hl, hlim⟩, hin, hi⟩ => ?_
  rw [← Act.inPattern_iff] at hin
  have hordered : ¬(mod = 1 ∧ (s.act aid).gen.inv = false) := fun h =>
    Bool.false_ne_true (h.2.symm.trans (hi h.1))
  simp only [genFault_loaded hv hl, hlim, hin, Bool.not_true, Bool.false_eq_true, if_false, if_neg hordered]
  rfl

end

/-! ## The cutter (R201, R229) -/

/-- R201's table, as the conditions that a sound descriptor meets. -/
theorem cutDescBad_eq_false_iff (v : Word64) (m : Nat) :
    cutDescBad v m = false ↔ bits v 63 56 = 0 ∧ bits v 35 24 = 0 ∧ 64 ≤ bits v 47 36 ∧ bits v 47 36 ≤ 2048
      ∧ bits v 23 0 % 64 = 0 ∧ bits v 23 0 < m := by
  simp only [cutDescBad, Bool.or_eq_false_iff, decide_eq_false_iff_not, ne_eq, not_not, not_lt, not_le, and_assoc]

/-- Settles O18: the words with a lemma of their own above by it, the others from what the generator's check answers
(`genFault`) and R201's table (`cutDescBad_eq_false_iff`). -/
theorem generatorAndCutterComplete : Obligations.GeneratorAndCutterComplete := by
  unfold Obligations.GeneratorAndCutterComplete
  refine ⟨fun mod d a b imm l cl => ⟨fun quad => pload_loads (by cases quad <;> rfl), fun hn => ?psetParameter,
      fun hn => ?psetExtent, ?pget, ?pcount, ?pgenStart, ?pgenContinue, pgen_continues (r := fun _ => ([], 0)) fun _ _ => rfl,
      pinv_outside, ?pinvRow, ?pinvColumn, ?pgetVisitor⟩,
    fun mod d a b imm cl => ⟨?cutset, ?cutsetBad, ?cutsetUnloaded, ?cut, ?cutUnset⟩⟩
  case psetParameter =>
    refine completes_of_body (fun _ => exec_pset ..) fun s _ _ hv => ?_
    simp only [genFault_home hv, if_neg (Nat.ne_of_lt hn)]
    rfl
  case psetExtent =>
    refine completes_of_body (fun _ => exec_pset ..) fun s _ _ ⟨hv, hb⟩ => ?_
    simp only [genFault_home hv, hn, if_true, hb, ne_eq, not_true_eq_false, if_false]
    rfl
  case pget =>
    refine completes_of_body (fun _ => exec_pget ..) fun s _ _ hv => ?_
    simp only [genFault_home hv]
    rfl
  case pcount =>
    refine completes_of_body (fun _ => exec_pcount ..) fun s _ _ ⟨⟨hv, hl, hlim⟩, ha, hb⟩ => ?_
    simp only [genFault_loaded hv hl, ha, hb, ne_eq, not_true_eq_false, or_self, if_false, hlim]
    rfl
  case pgenStart =>
    rintro order (rfl | rfl) <;> exact pgen_starts (by decide) rfl
  case pgenContinue =>
    rintro order (rfl | rfl) <;> exact pgen_continues fun _ _ => rfl
  case pinvRow => exact pinv_inside.of_imp fun _ _ _ ⟨hr, hin⟩ => ⟨hr, hin, fun h => absurd h (by decide)⟩
  case pinvColumn => exact pinv_inside.of_imp fun _ _ _ ⟨hr, hin, hi⟩ => ⟨hr, hin, fun _ => hi⟩
  case pgetVisitor =>
    refine raises_of_body (fun _ => exec_pget ..) fun s _ _ hv => ?_
    simp only [genFault_visitor hv]
  case cutset =>
    refine completes_of_body (fun _ => exec_cutset ..) fun s _ _ ⟨hv, hl, hg⟩ => ?_
    simp only [genFault_loaded hv hl, (cutDescBad_eq_false_iff ..).mpr hg, Bool.false_eq_true, if_false]
    rfl
  case cutsetBad =>
    refine raises_of_body (fun _ => exec_cutset ..) fun s _ aid ⟨hv, hl, hg⟩ => ?_
    have hbad : cutDescBad ((s.act aid).s a.toNat) (s.act aid).gen.rows = true :=
      (Bool.not_eq_false _).mp fun hb => hg ((cutDescBad_eq_false_iff ..).mp hb)
    simp only [genFault_loaded hv hl, hbad, if_true]
    rfl
  case cutsetUnloaded =>
    refine raises_of_body (fun _ => exec_cutset ..) fun s _ _ hl => ?_
    simp only [genFault_unloaded hl]
  case cut =>
    refine completes_of_body (fun _ => exec_cut ..) fun s _ _ ⟨hv, hl, hs, hlim⟩ => ?_
    simp only [genFault_loaded hv hl, hs, Bool.true_eq_false, if_false, hlim]
    rfl
  case cutUnset =>
    refine raises_of_body (fun _ => exec_cut ..) fun s _ _ ⟨hv, hl, hs⟩ => ?_
    simp only [genFault_loaded hv hl, hs, if_true]
    rfl

end Sys2Proof.Machine
end

section
/-! The words of the matrix unit: what a product captures, tile arithmetic, and the matrix registers (R207..R223, R232). -/
namespace Sys2Proof.Machine

/-! ## The tiles that a word names (R51) -/

/-- The tiles that the fields of a word name. -/
def tilesNamed (i : Instr) : List (BitVec 6) :=
  match layout i, toFields i with
  | some l, some f =>
    (if l.d = .m then [f.d] else []) ++ (if l.a = .m then [f.a] else []) ++ (if l.b = .m then [f.b] else [])
  | _, _ => []

/-- A word whose tiles the context owns passes the check of its tile fields. -/
theorem tilePre_owned {i : Instr} {x : Act} {s : State} (h : x.Owns (tilesNamed i)) : tilePre i x s = none := by
  obtain ⟨hv, ho⟩ := h
  unfold tilesNamed at ho
  unfold tilePre tileFault
  cases hl : layout i with
  | none => rfl
  | some l =>
    cases hf : toFields i with
    | none => rfl
    | some f =>
      simp only [hl, hf, List.mem_append] at ho
      have hb : ¬(l.b = .m ∧ x.tiles.length ≤ f.b.toNat) := fun ⟨hm, hle⟩ =>
        absurd (ho f.b (.inr (by simp [hm]))) (Nat.not_lt.mpr hle)
      have ha : ¬(l.a = .m ∧ x.tiles.length ≤ f.a.toNat) := fun ⟨hm, hle⟩ =>
        absurd (ho f.a (.inl (.inr (by simp [hm])))) (Nat.not_lt.mpr hle)
      have hd : ¬(l.d = .m ∧ x.tiles.length ≤ f.d.toNat) := fun ⟨hm, hle⟩ =>
        absurd (ho f.d (.inl (.inl (by simp [hm])))) (Nat.not_lt.mpr hle)
      simp only [hv, Bool.false_eq_true, if_false, if_neg hb, if_neg ha, if_neg hd, Option.map_none]

/-- A word of the matrix unit on owned tiles completes when its own part issues it. -/
theorem tileWord_completes {i : Instr} {cl : Clauses} {ns : List (BitVec 6)} {body : Nat → Nat → Act → State → Res}
    {ok : Nat → Act → State → Prop} {eff : Nat → Nat → Act → State → Eff}
    (hi : ∀ s, exec i s = run i cl { matrix := true } (tilePre i) body s) (hn : tilesNamed i = ns)
    (hb : ∀ s c aid, ok c (s.act aid) s → body c aid (s.act aid) s = .go (eff c aid (s.act aid) s)) :
    Completes i cl matNeed (fun c x s => x.Owns ns ∧ ok c x s) eff := by
  subst hn
  exact fun s c aid h ⟨ho, hk⟩ => (hi s).trans (run_go h (tilePre_owned ho) (hb s c aid hk))

/-! ## Products (R209..R215) -/

/-- The effect of a product that has captured its operands: it enters the unit's queue with them. -/
def productEff (s : State) (c aid : Nat) (x : Act) (i : Instr) (cl : Clauses) (a b : Opnd) (bRows : Nat)
    (bIdx : Nat → Nat → Nat) (d : Nat) (i32 : Bool) (rows : List (Nat × List (Nat × Nat))) : Eff :=
  enqueue s c (mkOp aid x i cl false false [] (.matrix c (.product d x.nc x.fa x.fb i32 (a.elems s x c)
    ((List.range (bRows * 64)).map (fun p => (b.elems s x c)[bIdx (p / 64) (p % 64)]?.getD (0, 255))) rows)))

/-- A product is sound once its tile holds no poison. -/
theorem Sound.product {s : State} {g c d cols fa fb : Nat} {i32 : Bool} {a b : List (Nat × Nat)}
    {rows : List (Nat × List (Nat × Nat))} (h : s.tilePoisonOf c [d] = none) :
    s.Sound g c (.product d cols fa fb i32 a b rows) :=
  Sound.of_clean (by simp only [State.matPoison, MatWord.reads, h]) rfl

/-- Operands that can be captured are, and the product enters the queue. -/
theorem fetchRes_captures {s : State} {c aid d : Nat} {x : Act} {a b : Opnd} (h : s.Captures c aid x a b)
    (hp : s.tilePoisonOf c [d] = none) (i : Instr) (cl : Clauses) (bRows : Nat) (bIdx : Nat → Nat → Nat) (i32 : Bool)
    (rows : List (Nat × List (Nat × Nat))) :
    fetchRes s c aid x i cl a b bRows bIdx d i32 rows = .go (productEff s c aid x i cl a b bRows bIdx d i32 rows) := by
  simp only [fetchRes, h.alignedA, h.alignedB, h.insideA, h.insideB, h.quiet, h.pair, h.freeA, h.freeB, h.sidesA, h.sidesB,
    h.cleanA, h.cleanB, ne_eq, not_true_eq_false, Bool.or_self, Bool.false_eq_true, if_false]
  exact matRes_sound (Sound.product hp) ..

/-- Where the bound stage begins in the scratchpad (R45). -/
def stageBase (s : State) (x : Act) : Word64 := w64 ((s.ring x.quad x.msbRing).stageOff x.msbStage)

/-- The field of a dense product that names no register when B is the bound stage names no tile. -/
theorem denseField_ne_tile (mod : BitVec 4) : (if mod.toNat / 2 % 4 = 2 then FieldUse.no else .s) ≠ .m := by split <;> decide

/-- A dense product names one tile. -/
theorem tilesNamed_mma (mod : BitVec 4) (d a b : BitVec 6) (cl : Clauses) : tilesNamed (.mma mod d a b cl) = [d] :=
  congrArg ([d] ++ [] ++ ·) (if_neg (denseField_ne_tile mod))

theorem tilesNamed_mmat (mod : BitVec 4) (d a b : BitVec 6) (cl : Clauses) : tilesNamed (.mmat mod d a b cl) = [d] :=
  congrArg ([d] ++ [] ++ ·) (if_neg (denseField_ne_tile mod))

/-- A of a dense product. -/
def denseA (mod : BitVec 4) (a : BitVec 6) (x : Act) : Opnd :=
  { quad := mod.getLsbD 0, base := x.s a.toNat, fmt := x.fa, first := 0, count := 64 * x.kLen
    side := (x.s a.toNat).toNat + 64 * x.kLen, planes := 8 * x.kLen }

/-- B of a dense product, at a register's address or, from source 2, in the bound stage. -/
def denseB (src : Nat) (b : BitVec 6) (s : State) (x : Act) : Opnd :=
  let base := if src = 2 then stageBase s x else x.s b.toNat
  { quad := decide (src ≠ 0), base := base, fmt := x.fb, first := 0, count := 64 * x.kLen
    side := base.toNat + 64 * x.kLen }

/-- MMA and MMAT, on their source of B. -/
theorem dense_completes {i : Instr} {cl : Clauses} {mod : BitVec 4} {d a b : BitVec 6} {kMajor : Bool} {src : Nat}
    (hi : ∀ s, exec i s = run i cl { matrix := true } (tilePre i) (fun c aid x s =>
      denseRes s c aid x i cl mod d a b kMajor) s)
    (hn : tilesNamed i = [d]) (hs : mod.toNat / 2 % 4 = src) :
    Completes i cl matNeed
      (fun c x s => x.Owns [d] ∧ productFormat x (s.tile c (x.tile d)).i32 true kMajor = none
        ∧ (src = 2 → stageFault s x = none) ∧ s.tilePoisonOf c [x.tile d] = none
        ∧ ∀ aid, s.act aid = x → s.Captures c aid x (denseA mod a x) (denseB src b s x))
      (fun c aid x s => productEff s c aid x i cl (denseA mod a x) (denseB src b s x) x.kLen
        (fun k j => if kMajor then k * 64 + j else j * x.kLen + k) (x.tile d) (s.tile c (x.tile d)).i32
        ((List.range x.mr).map (fun r =>
          (r, (List.range x.kLen).map (fun k => (if kMajor then k * 64 + r else r * x.kLen + k, k)))))) := by
  refine tileWord_completes hi hn fun s c aid ⟨hf, hst, hp, hc⟩ => ?_
  have hstage : (if src = 2 then stageFault s (s.act aid) else none) = none := by
    split
    · exact hst ‹_›
    · rfl
  simp only [denseRes, hf, hs, hstage]
  exact fetchRes_captures (hc aid rfl) hp ..

/-- A of a sparse product of `n` members. -/
def sparseA (mod : BitVec 4) (b v : BitVec 6) (n : Nat) (x : Act) : Opnd :=
  { quad := mod.getLsbD 0, base := x.s v.toNat, fmt := x.fa, first := bits (x.s b.toNat) 39 0, count := n
    side := (x.s v.toNat).toNat + 64 * x.aax, planes := 64 * x.apx }

/-- The rows of B that a sparse product uses. -/
def sparseRowsB (tr : Bool) (a b : BitVec 6) (x : Act) : Nat :=
  if tr then min 64 (x.gen.rows - bits (x.s b.toNat) 63 40) else bits (x.s a.toNat) 47 24 - bits (x.s a.toNat) 23 0

/-- B of a sparse product: the bound stage. -/
def sparseB (tr : Bool) (a b : BitVec 6) (s : State) (x : Act) : Opnd :=
  let read := if tr then 64 else bits (x.s a.toNat) 47 24 - bits (x.s a.toNat) 23 0
  { quad := true, base := stageBase s x, fmt := x.fb, first := 0, count := 64 * sparseRowsB tr a b x
    side := (stageBase s x).toNat + 64 * read * (tagWidth x.fb / 8), rows := some read }

/-- The pairs that a sparse product adds to each row: the members of the row, or of the column in the transposed form. -/
def sparsePairs (tr : Bool) (a b : BitVec 6) (ms : List (Nat × Nat)) (x : Act) : List (Nat × List (Nat × Nat)) :=
  let row (m : Nat × Nat) : Nat := m.1 - bits (x.s b.toNat) 63 40
  let col (m : Nat × Nat) : Nat := m.2 - bits (x.s a.toNat) 23 0
  (List.range x.mr).map (fun o => (o, (ms.zipIdx.filter (fun q => (if tr then col q.1 else row q.1) == o)).map (fun q =>
    (q.2, if tr then row q.1 else col q.1))))

/-- MMAS and MMAST, on the members of their cut. -/
theorem sparse_completes {i : Instr} {cl : Clauses} {mod : BitVec 4} {d a b v : BitVec 6} {tr : Bool} {ms : List (Nat × Nat)}
    (hi : ∀ s, exec i s = run i cl { matrix := true } (tilePre i) (fun c aid x s =>
      sparseRes s c aid x i cl mod d a b v tr) s)
    (hn : tilesNamed i = [d]) :
    Completes i cl matNeed
      (fun c x s => x.Owns [d] ∧ productFormat x (s.tile c (x.tile d)).i32 false false = none
        ∧ cutMembers s x tr (x.s a.toNat) (x.s b.toNat) = .ok ms ∧ stageFault s x = none
        ∧ s.tilePoisonOf c [x.tile d] = none
        ∧ ∀ aid, s.act aid = x → s.Captures c aid x (sparseA mod b v ms.length x) (sparseB tr a b s x))
      (fun c aid x s => productEff s c aid x i cl (sparseA mod b v ms.length x) (sparseB tr a b s x) (sparseRowsB tr a b x)
        (fun k j => k * 64 + j) (x.tile d) (s.tile c (x.tile d)).i32 (sparsePairs tr a b ms x)) := by
  refine tileWord_completes hi hn fun s c aid ⟨hf, hm, hst, hp, hc⟩ => ?_
  simp only [sparseRes, hf, hm, hst]
  exact fetchRes_captures (hc aid rfl) hp ..

/-- Settles O19: the dense products by `dense_completes`, the sparse ones by `sparse_completes`. -/
theorem matrixProductsComplete : Obligations.MatrixProductsComplete := by
  unfold Obligations.MatrixProductsComplete
  intro mod d a b v ms cl
  refine ⟨fun src hs => ?mma, fun src hs => ?mmat, ?mmas, ?mmast⟩
  case mma => exact dense_completes (kMajor := false) (fun _ => exec_mma ..) (tilesNamed_mma ..) hs
  case mmat => exact dense_completes (kMajor := true) (fun _ => exec_mmat ..) (tilesNamed_mmat ..) hs
  case mmas => exact sparse_completes (tr := false) (fun _ => exec_mmas ..) rfl
  case mmast => exact sparse_completes (tr := true) (fun _ => exec_mmast ..) rfl

/-! ## Tile arithmetic (R220..R222) -/

section
variable {i : Instr} {cl : Clauses} {ns : List (BitVec 6)} {body : Nat → Nat → Act → State → Res}
  {ok : Nat → Act → State → Prop} {w : Nat → Act → State → MatWord}
  (hi : ∀ s, exec i s = run i cl { matrix := true } (tilePre i) body s) (hn : tilesNamed i = ns)
  (hw : ∀ k x s, (w k x s).trapBound = none)
include hi hn hw

/-- Tile arithmetic that writes a tile enters the queue free of poison, and sets that tile's tag at issue. -/
theorem tileWord_writes {d : BitVec 6} {tag : Nat → Act → State → Bool}
    (hb : ∀ s k aid, ok k (s.act aid) s → body k aid (s.act aid) s = matRes s k aid (s.act aid) i cl false []
      (w k (s.act aid) s) (some ((s.act aid).tile d, tag k (s.act aid) s))) :
    Completes i cl matNeed (fun k x s => x.Owns ns ∧ ok k x s ∧ s.matPoison x.gang k (w k x s) = none)
      (fun k aid x s => enqueue (s.tagTile k (x.tile d) (tag k x s)) k
        (mkOp aid x i cl false false [] (.matrix k (w k x s)))) :=
  tileWord_completes hi hn fun s k aid ⟨hk, hp⟩ => (hb s k aid hk).trans (matRes_sound (Sound.of_clean hp (hw ..)) ..)

/-- Tile arithmetic whose result is a vector enters the queue free of poison. -/
theorem tileWord_gives {d : BitVec 6}
    (hb : ∀ s k aid, ok k (s.act aid) s → body k aid (s.act aid) s =
      matRes s k aid (s.act aid) i cl false [vreg d.toNat] (w k (s.act aid) s)) :
    Completes i cl matNeed (fun k x s => x.Owns ns ∧ ok k x s ∧ s.matPoison x.gang k (w k x s) = none)
      (fun k aid x s => enqueue s k (mkOp aid x i cl false false [vreg d.toNat] (.matrix k (w k x s)))) :=
  tileWord_completes hi hn fun s k aid ⟨hk, hp⟩ => (hb s k aid hk).trans (matRes_sound (Sound.of_clean hp (hw ..)) ..)

end

/-- A word that reads a poisoned tile raises UNCORR, once the unit has finished every earlier word (R334). -/
theorem matRes_poisoned {s : State} {c : Nat} {x : Act} {w : MatWord} {q : Poison} (hq : (s.core c).mqueue = [])
    (hp : s.tilePoisonOf c w.reads = some q) (aid : Nat) (i : Instr) (cl : Clauses) (mem : Bool) (dsts : List RegName)
    (tag : Option (Nat × Bool)) : matRes s c aid x i cl mem dsts w tag = uncorrRes s aid x q true := by
  simp only [matRes, State.matPoison, hp, hq, List.isEmpty_nil, if_true]

/-! ## The matrix registers (R207, R223, R232) -/

theorem homeFault_home {x : Act} (h : x.visitor = false) : homeFault x = none := by
  simp only [homeFault, h, Bool.false_eq_true, if_false]

theorem homeFault_visitor {x : Act} (h : x.visitor = true) : homeFault x = some (patternTrap 6 0) := by
  simp only [homeFault, h, if_true]

theorem lowBit_zero : lowBit 0 = none := by decide

/-- What a mask lets nothing of through, a part of the mask lets nothing of through. -/
theorem and_eq_zero_of_and {v m n : Word64} (h : v &&& m = 0) : v &&& (m &&& n) = 0 := by
  rw [← BitVec.and_assoc, h]
  exact BitVec.zero_and

/-- Formats that are known, with every reserved bit zero, may be written into MFM. -/
theorem mfmBad_sound {v : Word64} (hz : v &&& 0xE0E0 = 0) (ha : tagKnown (bits v 4 0) = true)
    (hb : tagKnown (bits v 12 8) = true) : mfmBad v = none := by
  have hlo : v &&& 0xE0 = 0 := and_eq_zero_of_and (n := 0xE0) hz
  have hhi : v &&& 0xE000 = 0 := and_eq_zero_of_and (n := 0xE000) hz
  simp only [mfmBad, ha, hb, hlo, hhi, lowBit_zero, Bool.not_true, Bool.false_eq_true, if_false, Option.map_none]

theorem bits_lt (x : Word64) (hi lo : Nat) : bits x hi lo < 2 ^ (hi + 1 - lo) := Nat.mod_lt _ (Nat.two_pow_pos _)

/-- Counters below 2^32 are subtracted as they are. -/
theorem sub32_of_lt {a b : Nat} (h : b < 2 ^ 32) : sub32 a b = (a + 2 ^ 32 - b) % 2 ^ 32 := by
  rw [sub32, Nat.mod_eq_of_lt h]

/-- MSTAT of a register that no program must be loaded for. -/
theorem mstat_reads {what : BitVec 4} {d : BitVec 6} {cl : Clauses} (h6 : (what == 6) = false) (h3 : what ≠ 3) :
    Completes (.mstat what d cl) cl plainNeed (fun _ x _ => x.visitor = false)
      (fun k _ x s => writeS s 1 d.toNat (mstatValue s k x what.toNat)) := by
  refine completes_of_body (fun _ => exec_mstat ..) fun s k aid hv => ?_
  have hn : ¬(what = 3 ∧ s.restoring k = true) := fun h => h3 h.1
  simp only [h6, genFault_home hv, if_neg hn]
  rfl

/-- Settles O21: the tile words by `tileWord_writes` and `tileWord_gives`, the register words by the checks of each. -/
theorem tileArithmeticCompletes : Obligations.TileArithmeticCompletes := by
  unfold Obligations.TileArithmeticCompletes
  refine ⟨fun mod d a b c off cl => ⟨?poisoned, ?mzero, ?maddt, ?mscl, ?msclConvert, ?mbias, ?mclamp, ?mtrn, ?mredr, ?mdot⟩,
    fun d a cl => ⟨?mshape, ?mfmt, mstat_reads rfl (by decide), mstat_reads rfl (by decide), mstat_reads rfl (by decide),
      ?mstatTags, mstat_reads rfl (by decide), mstat_reads rfl (by decide), ?mstatCursor, ?mstage, ?mshapeVisitor,
      ?mstageReserved⟩⟩
  case poisoned =>
    intro s k aid q h ho hq hp
    refine (exec_mtrn ..).trans ((run_clear h (tilePre_owned (i := .mtrn d a cl) ho)).trans ?_)
    rw [matRes_poisoned (w := .transpose ((s.act aid).tile d) ((s.act aid).tile a)) hq hp]
    rfl
  case mzero => exact tileWord_writes (fun _ => exec_mzero ..) rfl (fun _ _ _ => rfl) fun _ _ _ _ => rfl
  case maddt =>
    exact tileWord_writes (fun _ => exec_maddt ..) rfl (fun _ _ _ => rfl) fun _ _ _ hs => if_neg (not_not.mpr hs)
  case mscl =>
    refine tileWord_writes (fun _ => exec_mscl ..) rfl (fun _ _ _ => rfl) fun s k aid _ => ?_
    refine (if_neg fun h => absurd h.1 (by decide)).trans ?_
    rw [show ((0 : BitVec 4) == 0) = true from rfl, Bool.and_true]
    rfl
  case msclConvert =>
    refine tileWord_writes (fun _ => exec_mscl ..) rfl (fun _ _ _ => rfl) fun s k aid ht => ?_
    simp only [ht]
    rfl
  case mbias =>
    refine tileWord_writes (fun _ => exec_mbias ..) rfl (fun _ _ _ => rfl) fun s k aid ⟨hal, hin, hb⟩ => ?_
    simp only [Act.lmCheck_ok hal hin, hb, Bool.false_eq_true, if_false]
    rfl
  case mclamp => exact tileWord_writes (fun _ => exec_mclamp ..) rfl (fun _ _ _ => rfl) fun _ _ _ _ => rfl
  case mtrn => exact tileWord_writes (fun _ => exec_mtrn ..) rfl (fun _ _ _ => rfl) fun _ _ _ _ => rfl
  case mredr => exact tileWord_gives (fun _ => exec_mredr ..) rfl (fun _ _ _ => rfl) fun _ _ _ _ => rfl
  case mdot =>
    exact tileWord_gives (fun _ => exec_mdot ..) rfl (fun _ _ _ => rfl) fun _ _ _ hs => if_neg (not_not.mpr hs)
  case mshape =>
    refine completes_of_body (fun _ => exec_mshape ..) fun s k aid ⟨hv, hz⟩ => ?_
    simp only [homeFault_home hv, hz, lowBit_zero]
    rfl
  case mfmt =>
    refine completes_of_body (fun _ => exec_mfmt ..) fun s k aid ⟨hv, hz, ha, hb⟩ => ?_
    simp only [homeFault_home hv, mfmBad_sound hz ha hb]
    rfl
  case mstatTags =>
    refine completes_of_body (fun _ => exec_mstat ..) fun s k aid ⟨hv, hr⟩ => ?_
    simp only [show ((3 : BitVec 4) == 6) = false from rfl, genFault_home hv, hr, Bool.false_eq_true, and_false, if_false]
    rfl
  case mstatCursor =>
    refine completes_of_body (fun _ => exec_mstat ..) fun s k aid ⟨hv, hl⟩ => ?_
    simp only [show ((6 : BitVec 4) == 6) = true from rfl, genFault_loaded hv hl]
    rfl
  case mstage =>
    refine completes_of_body (fun _ => exec_mstage ..) fun s k aid ⟨hv, hz, hg, h0, h1, h2⟩ => ?_
    have hfilled := not_or.mpr ⟨h0, Nat.not_lt.mpr h1⟩
    simp only [homeFault_home hv, hz, Act.granted, hg, ne_eq, not_true_eq_false, Bool.not_true, Bool.false_eq_true, if_false,
      sub32_of_lt (bits_lt ((s.act aid).s a.toNat) 63 32), sub32_of_lt (BitVec.isLt _), if_neg hfilled,
      if_neg (Nat.not_le.mpr h2)]
    rfl
  case mshapeVisitor =>
    refine raises_of_body (fun _ => exec_mshape ..) fun s k aid hv => ?_
    simp only [homeFault_visitor hv]
  case mstageReserved =>
    refine raises_of_body (fun _ => exec_mstage ..) fun s k aid ⟨hv, hz⟩ => ?_
    simp only [homeFault_home hv, hz, if_true, ne_eq, not_false_eq_true]

end Sys2Proof.Machine
end

section
/-! The copy commands that read indices, reach a peer, recast, or fill a stage by a cut (R231, R252, R268..R273). -/
namespace Sys2Proof.Machine

/-! ## Checks before acceptance, and acceptance (R45, R245, R268) -/

section
variable {s : State} {x : Act} {n : Nat} {others : List Nat}

/-- A command that may be accepted finds its grants and a channel without a fault. -/
theorem engineFault_mayCopy (h : s.MayCopy x n others) : engineFault s x n others = none := by
  obtain ⟨hn, ho, hf, -, -⟩ := h
  have hg : (n :: others).find? (fun r => !x.granted r) = none := by
    rw [List.find?_eq_none]
    intro r hr
    rcases List.mem_cons.mp hr with rfl | hr
    · simp [hn]
    · simp [ho r hr]
  simp only [engineFault, grantFault, chanFault, hg, hf, Option.map_none, Bool.false_eq_true, if_false]

/-- A command that may be accepted is. -/
theorem acceptRes_mayCopy (h : s.MayCopy x n others) (c aid : Nat) (i : Instr) (cl : Clauses) (d : BitVec 6) (m : Command) :
    acceptRes s c aid x i cl d n m = .go (accepted s c aid x i cl d n m) := by
  obtain ⟨-, -, -, hq, hh⟩ := h
  have hroom : ¬(16 ≤ (s.chan x.quad n).queue.length ∨ (s.quad x.quad).halting = true) := by
    rw [hh]
    exact not_or.mpr ⟨Nat.not_le.mpr hq, Bool.false_ne_true⟩
  simp only [acceptRes, if_neg hroom]
  rfl

end

/-! ## Descriptors (R268, R332) -/

/-- What the check of a local access passes does not depend on the word that makes it. -/
theorem Act.lmCheck_ok_iff {x : Act} {op : Nat} {o : Word64} {n al p : Nat} :
    x.lmCheck op o n al = .ok p ↔ o.toNat % al = 0 ∧ x.lmAddr o.toNat n = some p := by
  refine ⟨fun h => ?_, fun ⟨hal, hin⟩ => Act.lmCheck_ok hal hin⟩
  unfold Act.lmCheck at h
  split at h
  · cases h
  · split at h <;> cases h
    exact ⟨not_not.mp ‹_›, ‹_›⟩

/-- A descriptor that is read stands in local memory, and free of poison. -/
theorem descWords_ok {s : State} {c opcode : Nat} {x : Act} {o : Word64} {ws : List Word64}
    (h : descWords s c x opcode o = .ok ws) : ∃ p, x.lmCheck opcode o 64 64 = .ok p ∧ s.lmPoisonOf c p 64 = none := by
  unfold descWords at h
  split at h
  · cases h
  · next p hp =>
    split at h
    · cases h
    · next hq => exact ⟨p, hp, hq⟩

/-- A command that may be accepted goes on with its descriptor. -/
theorem withDesc_ok {s : State} {k aid opcode n : Nat} {x : Act} {c : BitVec 6} {others : List Nat} {ws : List Word64}
    (hm : s.MayCopy x n others) (hb : descBusy s k x (x.s c.toNat) = false)
    (hw : descWords s k x opcode (x.s c.toNat) = .ok ws) (f : List Word64 → Res) :
    withDesc s k aid x opcode c n others f = f ws := by
  obtain ⟨p, hp, hq⟩ := descWords_ok hw
  have hp0 : x.lmCheck 0 (x.s c.toNat) 64 64 = .ok p := Act.lmCheck_ok_iff.mpr (Act.lmCheck_ok_iff.mp hp)
  simp only [withDesc, engineFault_mayCopy hm, hb, hw, Bool.false_eq_true, if_false, cleanBlock_clean hp0 hq]

theorem capHeld_ok {k : KReg} {kn need : Nat} (hv : k.valid = true) (hr : k.reserved = false)
    (hn : hasRights k.rights need = true) : capHeld k kn need = none := by
  simp only [capHeld, hv, hr, hn, Bool.not_true, Bool.or_self, Bool.false_eq_true, if_false]

/-! ## Indexed copies (R252, R271) -/

/-- The direction of an indexed copy: from its mod, between the object and local memory or the scratchpad. -/
def indexedDir (mod : BitVec 4) (out : Bool) : Nat := if mod = 0 then (if out then 2 else 0) else if out then 3 else 1

/-- CPYG and CPYS with a sound descriptor, a capability that grants the right, and index list and slots in their allocations. -/
theorem indexed_completes {i : Instr} {cl : Clauses} {mod : BitVec 4} {d a b c : BitVec 6} {imm : BitVec 16} {out : Bool}
    {ws : List Word64} {ip base : Nat}
    (hi : ∀ s, exec i s = run i cl {} noPre (fun k aid x s => indexedRes s k aid x i cl mod d a b c imm out) s) :
    Completes i cl plainNeed
      (fun k x s => s.MayCopy x (chanOf imm) [lineNum imm]
        ∧ (descBusy s k x (x.s c.toNat) = false ∧ descWords s k x (opcodeOf i) (x.s c.toNat) = .ok ws)
        ∧ dbits ws 0 63 51 = 0 ∧ dbits ws 0 31 25 = 0 ∧ dbits ws 1 63 17 = 0 ∧ dbits ws 0 24 22 ≠ 7 ∧ dbits ws 0 50 32 % 4 = 0
        ∧ dbits ws 0 21 0 % (4 * 2 ^ dbits ws 0 24 22) = 0 ∧ dbits ws 1 16 0 ≠ 0 ∧ dbits ws 1 16 0 ≤ 65536
        ∧ (x.k a.toNat).valid = true ∧ (x.k a.toNat).reserved = false
        ∧ hasRights (x.k a.toNat).rights (if out then rW else rR) = true
        ∧ x.lmAddr (dbits ws 0 50 32) (4 * dbits ws 1 16 0) = some ip
        ∧ localBase s x (opcodeOf i) (indexedDir mod out) (dbits ws 0 21 0) (dbits ws 1 16 0 * (4 * 2 ^ dbits ws 0 24 22)) 0
          = .ok base)
      (fun k aid x s => accepted s k aid x i cl d (chanOf imm)
        { cap := x.k a.toNat, off := (x.k a.toNat).lo + (x.s b.toNat).toInt, dir := indexedDir mod out, loc := base
          line := some (lineNum imm)
          what := if out then .scatter ip (4 * 2 ^ dbits ws 0 24 22) (dbits ws 1 16 0)
            else .gather ip (4 * 2 ^ dbits ws 0 24 22) (dbits ws 1 16 0) }) := by
  refine completes_of_body hi fun s k aid hk => ?_
  obtain ⟨hm, ⟨hb, hw⟩, h1, h2, h3, h4, h5, h6, h7, h8, hv, hr, hn, hip, hbase⟩ := hk
  unfold indexedDir at hbase
  simp only [indexedRes, withDesc_ok hm hb hw, h1, h2, h3, h4, h5, h6, h7, Nat.not_lt.mpr h8, ne_eq, not_true_eq_false, or_self,
    if_false, capHeld_ok hv hr hn, hip, hbase]
  exact acceptRes_mayCopy hm ..

/-! ## Peer copies (R252, R272, R331) -/

section
variable {d a b c : BitVec 6} {imm : BitVec 16} {cl : Clauses} {ws : List Word64} {p : Nat}

/-- CPYP with a sound descriptor that names another package, and a capability that grants R and G on the bytes. -/
theorem cpyp_completes :
    Completes (.cpyp d a b c imm cl) cl plainNeed
      (fun k x s => s.MayCopy x (chanOf imm) []
        ∧ (descBusy s k x (x.s c.toNat) = false ∧ descWords s k x 0xB3 (x.s c.toNat) = .ok ws)
        ∧ dbits ws 0 31 10 = 0 ∧ dbits ws 0 63 32 % 64 = 0 ∧ dbits ws 1 39 0 % 64 = 0 ∧ dbits ws 2 39 0 % 8 = 0
        ∧ dbits ws 0 9 0 ≠ Config.packageNumber.toNat
        ∧ devRange x a.toNat (rR + rG) 0xB3 (x.s b.toNat) (dbits ws 0 63 32) = .ok p)
      (fun k aid x s =>
        let e := accepted s k aid x (.cpyp d a b c imm cl) cl d (chanOf imm)
          { cap := x.k a.toNat, off := p, dir := 0, loc := 0
            what := .cpyp (dbits ws 0 63 32) (dbits ws 0 9 0) (dbits ws 1 63 40) (dbits ws 1 39 0) (dbits ws 2 63 40)
              (dbits ws 2 39 0) }
        { e with st := e.st.unreplayable x.gang }) := by
  refine completes_of_body (fun _ => exec_cpyp ..) fun s k aid ⟨hm, ⟨hb, hw⟩, h1, h2, h3, h4, h5, hdev⟩ => ?_
  simp only [withDesc_ok hm hb hw, h1, h2, h3, h4, h5, ne_eq, not_true_eq_false, or_self, if_false, hdev, acceptRes_mayCopy hm]

/-! ## Recasts (R206, R273) -/

/-- The members of the generator's pattern in the order of the cuts that a recast's descriptor gives. -/
def recastMembers (ws : List Word64) (x : Act) : List (Nat × Nat) :=
  x.gen.pat.cutMajor (bits (ws[3]?.getD 0) 47 36) (bits (ws[3]?.getD 0) 55 48 + 1)

/-- CPYR with a sound descriptor, a loaded pattern within its limits, and its master, values and scales in their ranges. -/
theorem cpyr_completes {pv ps : Nat} :
    Completes (.cpyr d a b c imm cl) cl plainNeed
      (fun k x s => x.visitor = false ∧ x.gen.loaded = true ∧ s.MayCopy x (chanOf imm) []
        ∧ (descBusy s k x (x.s c.toNat) = false ∧ descWords s k x 0xB4 (x.s c.toNat) = .ok ws)
        ∧ dbits ws 0 63 37 = 0 ∧ dbits ws 1 63 48 = 0 ∧ dbits ws 2 63 48 = 0
        ∧ (tagScaled (dbits ws 0 36 32) = true ∨ tagBp (dbits ws 0 36 32) = true)
        ∧ dbits ws 1 47 0 % 64 = 0 ∧ dbits ws 2 47 0 % 64 = 0 ∧ x.gen.pat.limits = none
        ∧ cutDescBad (ws[3]?.getD 0) x.gen.rows = false ∧ bits (ws[3]?.getD 0) 23 0 = 0
        ∧ devRange x a.toNat rR 0xB4 (x.s b.toNat + w64 (masterRange (recastMembers ws x) (dbits ws 0 31 0)).1)
            (masterRange (recastMembers ws x) (dbits ws 0 31 0)).2 = .ok p
        ∧ devRange x (lineNum imm) rW 0xB4 (w64 (dbits ws 1 47 0))
            (recastSizes (dbits ws 0 36 32) (recastMembers ws x).length).1 = .ok pv
        ∧ devRange x (lineNum imm) rW 0xB4 (w64 (dbits ws 2 47 0))
            (recastSizes (dbits ws 0 36 32) (recastMembers ws x).length).2 = .ok ps)
      (fun k aid x s => accepted s k aid x (.cpyr d a b c imm cl) cl d (chanOf imm)
        { cap := x.k a.toNat, off := (p : Int) - (masterRange (recastMembers ws x) (dbits ws 0 31 0)).1, dir := 2, loc := 0
          what := .cpyr (dbits ws 0 36 32) (dbits ws 0 31 0) (x.k (lineNum imm)).object pv ps (dbits ws 3 47 36)
            (dbits ws 3 55 48 + 1) x.gen }) := by
  refine completes_of_body (fun _ => exec_cpyr ..) fun s k aid hk => ?_
  obtain ⟨hv, hl, hm, ⟨hb, hw⟩, h1, h2, h3, hfmt, h4, h5, hlim, hcut, hrow, hmaster, hvals, hscales⟩ := hk
  have hknown : (!tagScaled (dbits ws 0 36 32) && !tagBp (dbits ws 0 36 32)) = false := by
    rcases hfmt with h | h <;> simp only [h, Bool.not_true, Bool.false_and, Bool.and_false]
  unfold recastMembers at hmaster hvals hscales
  simp only [genFault_loaded hv hl, withDesc_ok hm hb hw, h1, h2, h3, hknown, h4, h5, ne_eq, not_true_eq_false,
    Bool.false_eq_true, or_self, if_false, hlim, hcut, hrow, hmaster, hvals, hscales]
  exact acceptRes_mayCopy hm ..

/-! ## Cut blocks (R231) -/

/-- The first row of B that a cut block fills a stage with, and how many. -/
def blockFirst (a : BitVec 6) (x : Act) : Nat := bits (x.s a.toNat) 23 0
def blockRows (a : BitVec 6) (x : Act) : Nat := bits (x.s a.toNat) 47 24 - blockFirst a x

/-- The bytes of 64 elements of a row of B. -/
def blockBytes (x : Act) : Nat := 64 * (tagWidth x.fb / 8)

/-- The byte at which row `r` of a cut block begins. -/
def blockRowOff (c : BitVec 6) (x : Act) (r : Nat) : Nat := bits (x.s c.toNat) 63 32 + r * bits (x.s c.toNat) 31 0

/-- Rows that each pass their capability pass together. -/
theorem cutRows_ok {x : Act} {kn : Nat}
    (h : ∀ r < blockRows a x, ∃ q, capCheck (x.k kn) kn rR 0x98 (w64 (blockRowOff c x (blockFirst a x + r))) (blockBytes x)
      = .ok q) :
    cutRows x kn (bits (x.s c.toNat) 63 32) (bits (x.s c.toNat) 31 0) (blockBytes x)
      ((List.range (blockRows a x)).map (blockFirst a x + ·)) = none := by
  rw [cutRows, List.findSome?_eq_none_iff]
  intro r hr
  obtain ⟨j, hj, rfl⟩ := List.mem_map.mp hr
  obtain ⟨q, hq⟩ := h j (List.mem_range.mp hj)
  unfold blockRowOff at hq
  simp only [hq]

/-- CUTB of a set cut whose rows fit the ring's stage and each pass the capability. -/
theorem cutb_completes {base : Nat} :
    Completes (.cutb d a b c imm cl) cl plainNeed
      (fun _ x s => x.visitor = false ∧ x.gen.loaded = true ∧ x.cut.isSet = true ∧ x.gen.pat.limits = none
        ∧ plainFmt x.fb = true ∧ s.MayCopy x (chanOf imm) [ringOf imm]
        ∧ blockRows a x ≤ stageRows (s.ring x.quad (ringOf imm)) x.fb
        ∧ (x.k b.toNat).valid = true ∧ (x.k b.toNat).reserved = false ∧ hasRights (x.k b.toNat).rights rR = true
        ∧ (∀ r < blockRows a x, ∃ q, capCheck (x.k b.toNat) b.toNat rR 0x98 (w64 (blockRowOff c x (blockFirst a x + r)))
            (blockBytes x) = .ok q)
        ∧ localBase s x 0x98 4 0 (blockRows a x * blockBytes x) (ringOf imm) = .ok base)
      (fun k aid x s => accepted s k aid x (.cutb d a b c imm cl) cl d (chanOf imm)
        { cap := x.k b.toNat, off := (x.k b.toNat).lo + bits (x.s c.toNat) 63 32, dir := 4, loc := base
          ring := some (ringOf imm)
          what := .rows (blockFirst a x) (blockRows a x) (blockBytes x) (bits (x.s c.toNat) 31 0) }) := by
  refine completes_of_body (fun _ => exec_cutb ..) fun s k aid hk => ?_
  obtain ⟨hv, hl, hs, hlim, hfmt, hm, hfit, hcv, hcr, hcn, hrows, hbase⟩ := hk
  have hall := cutRows_ok hrows
  unfold blockRows blockFirst at hfit
  unfold blockRows blockFirst blockBytes at hall hbase
  simp only [genFault_loaded hv hl, hs, Bool.true_eq_false, hlim, hfmt, Bool.not_true, Bool.false_eq_true, if_false,
    engineFault_mayCopy hm, if_neg (Nat.not_lt.mpr hfit), capHeld_ok hcv hcr hcn, hall, hbase]
  exact acceptRes_mayCopy hm ..

end

/-- Settles O26: each command by its own lemma above, CPYG and CPYS in both directions by `indexed_completes`. -/
theorem indexedPeerCutCopiesComplete : Obligations.IndexedPeerCutCopiesComplete := by
  unfold Obligations.IndexedPeerCutCopiesComplete
  refine ⟨fun mod d a b c imm ws p pv ps base ip cl => ⟨?gatherLocal, ?gatherQuad, ?scatterLocal, ?scatterQuad, cpyp_completes,
    cpyr_completes⟩, fun d a b c imm base cl => ⟨cutb_completes, ?cutbUnset⟩⟩
  case gatherLocal => exact indexed_completes (mod := 0) (out := false) fun _ => exec_cpyg ..
  case gatherQuad => exact indexed_completes (mod := 1) (out := false) fun _ => exec_cpyg ..
  case scatterLocal => exact indexed_completes (mod := 0) (out := true) fun _ => exec_cpys ..
  case scatterQuad => exact indexed_completes (mod := 1) (out := true) fun _ => exec_cpys ..
  case cutbUnset =>
    refine raises_of_body (fun _ => exec_cutb ..) fun s k aid ⟨hv, hl, hs⟩ => ?_
    simp only [genFault_loaded hv hl, hs, if_true]
    rfl

end Sys2Proof.Machine
end

section
/-! Meetings: arrivals at a home, pairings, timeouts, withdrawals and landings, and the parked parties of a gang that ends (R234..R243). -/
namespace Sys2Proof.Machine

/-! ## Arrivals at a home (R234) -/

/-- What a home's table holds of a party that arrives now. -/
def State.meetArr (s : State) (aid : Nat) (p : Party) : MeetArr :=
  { act := aid, tick := s.tick, order := s.take.1
    deadline := if p.timeout = 0 then none else some (s.tick + p.timeout.toNat) }

/-- The home has served a party: the order of its arrival is taken, and it is the last one served. -/
def State.meetServed (s : State) (a : Act) (p : Party) : State :=
  s.take.2.setQuad (s.meetHome a p)
    { s.take.2.quad (s.meetHome a p) with lastArrival := some (s.tick, a.homeCore, a.homeSlot) }

/-- The table in which a party looks for its partner. -/
def State.meetTable (s : State) (a : Act) (p : Party) : List MeetEntry :=
  ((s.meetServed a p).quad (s.meetHome a p)).meet

/-- The entry under the party's key whose party is still alone. -/
def State.meetPartner (s : State) (a : Act) (p : Party) : Option MeetEntry :=
  (s.meetTable a p).find? (fun z => z.under a.gang p.key p.sid && z.second.isNone)

/-- The party waits at its home, whose table is now this one. -/
def State.meetParked (s : State) (aid : Nat) (a : Act) (p : Party) (table : List MeetEntry) : State :=
  let t := (s.meetServed a p).setAct aid (a.setMg 2)
  t.setQuad (s.meetHome a p) { t.quad (s.meetHome a p) with meet := table }

section
variable {s : State} {aid : Nat} {a : Act} {p : Party} (ha : s.act aid = a) (hp : a.party = some p) (hm : a.mg = 1)
  (hs : (s.quad (s.meetHome a p)).serves s.tick a.homeCore a.homeSlot = true)
include ha hp hm hs

/-- A party that finds no partner, in a table with room, waits there. -/
theorem meetArrival_waits (hf : s.meetPartner a p = none) (hl : (s.meetTable a p).length < 64) :
    exec (.meetArrival aid) s = .next (s.meetParked aid a p
      (s.meetTable a p ++ [{ gang := a.gang, key := p.key, sid := p.sid, first := s.meetArr aid p }])) := by
  unfold State.meetPartner State.meetTable State.meetServed at hf
  unfold State.meetTable State.meetServed at hl
  rw [exec_meetArrival]
  simp only [execMeetArrival, ha, hp, hm, hs, ne_eq, not_true_eq_false, Bool.true_eq_false, or_self, if_false,
    State.take_tick, hf, if_neg (Nat.not_le.mpr hl)]
  rfl

/-- A party that finds no partner in a full table completes FULL. -/
theorem meetArrival_full (hf : s.meetPartner a p = none) (hl : 64 ≤ (s.meetTable a p).length) :
    exec (.meetArrival aid) s = .next ((s.meetServed a p).completeMeet aid 2) := by
  unfold State.meetPartner State.meetTable State.meetServed at hf
  unfold State.meetTable State.meetServed at hl
  rw [exec_meetArrival]
  simp only [execMeetArrival, ha, hp, hm, hs, ne_eq, not_true_eq_false, Bool.true_eq_false, or_self, if_false,
    State.take_tick, hf, if_pos hl]
  rfl

/-- A party that finds its partner joins it, and the pair tries to find its meeting core. -/
theorem meetArrival_joins {e : MeetEntry} (hf : s.meetPartner a p = some e) :
    let e' : MeetEntry := { e with second := some (s.meetArr aid p), paired := s.take.1 }
    exec (.meetArrival aid) s = .next ((s.meetParked aid a p
      ((s.meetTable a p).map (fun z => if z = e then e' else z))).tryPair (s.meetHome a p) e') := by
  unfold State.meetPartner State.meetTable State.meetServed at hf
  rw [exec_meetArrival]
  simp only [execMeetArrival, ha, hp, hm, hs, ne_eq, not_true_eq_false, Bool.true_eq_false, or_self, if_false,
    State.take_tick, hf]
  rfl

end

/-! ## Timeouts (R242) -/

/-- An entry holds this party, with the one that shares the entry with it, if any. -/
def MeetEntry.Holds (e : MeetEntry) (aid : Nat) (m : MeetArr) (o : Option MeetArr) : Prop :=
  (e.first = m ∧ m.act = aid ∧ e.second = o) ∨ (o = some e.first ∧ e.first.act ≠ aid ∧ e.second = some m)

namespace MeetEntry.Holds
variable {e : MeetEntry} {aid : Nat} {m : MeetArr}

theorem of_pair {o : MeetArr}
    (h : (e.first = m ∧ m.act = aid ∧ e.second = some o) ∨ (e.first = o ∧ o.act ≠ aid ∧ e.second = some m)) :
    e.Holds aid m (some o) := h.imp id fun ⟨hf, ha, hs⟩ => ⟨congrArg some hf.symm, hf ▸ ha, hs⟩

/-- The party that a timeout finds in the entry. -/
theorem mine {o : Option MeetArr} (h : e.Holds aid m o) : (if e.first.act = aid then some e.first else e.second) = some m := by
  rcases h with ⟨rfl, ha, -⟩ | ⟨-, ha, hm⟩
  · exact if_pos ha
  · exact (if_neg ha).trans hm

/-- Its partner there. -/
theorem other {o : Option MeetArr} (h : e.Holds aid m o) : (if e.first.act = aid then e.second else some e.first) = o := by
  rcases h with ⟨rfl, ha, ho⟩ | ⟨ho, ha, -⟩
  · exact (if_pos ha).trans ho
  · exact (if_neg ha).trans ho.symm

end MeetEntry.Holds

/-- The home has served a timeout or a withdrawal in this tick. -/
def State.meetLeft (s : State) (q : Nat) : State := s.setQuad q { s.quad q with lastWithdraw := some s.tick }

section
variable {s : State} {aid q : Nat} {e : MeetEntry} {m : MeetArr} (he : s.meetEntry? aid = some (q, e))
  (hm : m.expired s.tick = true)
include he hm

/-- A party whose time is over leaves its home NOSHOW, alone, or with a partner whose time is not over. -/
theorem meetTimeout_leaves {o : Option MeetArr} (hh : e.Holds aid m o) (ho : ∀ x ∈ o, x.expired s.tick = false) :
    exec (.meetTimeout aid) s = .next (((s.meetLeft q).leaveHome q aid e).completeMeet aid 1) := by
  rw [exec_meetTimeout]
  simp only [execMeetTimeout, he, hh.mine, hh.other, hm, Bool.true_eq_false, if_false]
  cases o with
  | none => rfl
  | some x => exact if_neg (Bool.eq_false_iff.mp (ho x rfl))

/-- Of a pair whose times are both over, both parties complete NOSHOW. -/
theorem meetTimeout_both {o : MeetArr} (hh : e.Holds aid m (some o)) (ho : o.expired s.tick = true) :
    let t := s.meetLeft q
    exec (.meetTimeout aid) s = .next (((t.setQuad q { t.quad q with
      meet := (t.quad q).meet.filter (fun z => z != e) }).completeMeet aid 1).completeMeet o.act 1) := by
  rw [exec_meetTimeout]
  simp only [execMeetTimeout, he, hh.mine, hh.other, hm, Bool.true_eq_false, if_false]
  exact if_pos ho

end

/-! ## Pairings, landings and the END of a gang (R235, R239, R242, R317) -/

theorem meetingCoreChosen_tries {s : State} {q n : Nat} {e : MeetEntry} (he : (s.quad q).meet[n]? = some e) :
    exec (.meetingCoreChosen q n) s = .next (s.tryPair q e) := by
  rw [exec_meetingCoreChosen]
  simp only [execMeetingCoreChosen, he]

/-- Two parties whose trips are over land together, and MET is written to both. -/
theorem meetLanded_lands {s : State} {core x y : Nat} (hv : (s.core core).visitors = [x, y]) (hn : x ≠ y)
    (hx : (s.act x).mg = 3) (hy : (s.act y).mg = 3) :
    exec (.meetLanded core) s =
      .next (((((s.landVisitor x core 6).landVisitor y core 7).l1Clear core).writeMet x).writeMet y) := by
  rw [exec_meetLanded]
  simp only [execMeetLanded, hv]
  exact if_pos ⟨hx, hy, hn⟩

/-- The action of a journal entry takes effect as the entry is accepted. -/
theorem journalEntryAccepted_performs {s : State} {part : Nat} {je : JEntry} {x : JAction} {rest : List (JEntry × JAction)}
    (hl : s.armatureLive = true) (hj : (s.part part).jpend = (je, x) :: rest) :
    exec (.journalEntryAccepted part) s = .next
      (((s.setPart part { s.part part with jpend := rest }).jaccept part je).perform part (s.part part).jseq x) := by
  rw [exec_journalEntryAccepted]
  simp only [execJournalEntryAccepted, hl, hj, Bool.true_eq_false, if_false]

/-- An END entry ends its gang, and with it the meetings of the gang's parked parties. -/
theorem perform_end (s : State) (part n gid grade : Nat) (kind : Word64) :
    s.perform part n (.end_ gid grade kind) = s.endGang gid grade kind.toNat n := rfl

/-- Settles O34, event by event. -/
theorem meetingEventsHappen : Obligations.MeetingEventsHappen := by
  unfold Obligations.MeetingEventsHappen
  intro aid core q n x y part gid grade kind a p e m o je rest
  refine ⟨fun s ⟨⟨ha, hp, hm, hs⟩, hf, hl⟩ => meetArrival_waits ha hp hm hs hf hl,
    fun s ⟨⟨ha, hp, hm, hs⟩, hf, hl⟩ => meetArrival_full ha hp hm hs hf hl,
    fun s ⟨hl, hj⟩ => ?ends,
    fun s ⟨⟨ha, hp, hm, hs⟩, hf⟩ => meetArrival_joins ha hp hm hs hf,
    fun s he => meetingCoreChosen_tries he,
    fun s ⟨he, hf, ha, h2, hm⟩ => meetTimeout_leaves he hm (.inl ⟨hf, ha, h2⟩) (fun _ h => nomatch h),
    fun s ⟨⟨he, hm, hh⟩, ho⟩ => ?noshow, fun s ⟨⟨he, hm, hh⟩, ho⟩ => ?bothNoshow, fun s _ => exec_meetWithdrawal aid s,
    fun s ⟨hv, hn, hx, hy⟩ => meetLanded_lands hv hn hx hy, fun s hm => ?landHome⟩
  case ends =>
    rw [journalEntryAccepted_performs hl hj, perform_end]
    rfl
  case noshow => exact meetTimeout_leaves he hm (.of_pair hh) fun _ h => Option.some.inj h ▸ ho
  case bothNoshow => exact meetTimeout_both he hm (.of_pair hh) ho
  case landHome => exact (exec_partLanded aid s).trans (if_pos hm)

end Sys2Proof.Machine
end

section
/-! Transfers that perform, complete and fault, and links that fail (R245, R246, R252, R253, R307, R325). -/
namespace Sys2Proof.Machine

/-! ## Transfers (R245, R246, R252, R253, R307) -/

section
variable {s u v : State} {q n obj off fault : Nat} {write : Bool} {t : Transfer}

theorem State.pieceMiss_ok (hc : t.pos < t.count) (hp : s.piece q t = .ok u) : s.pieceMiss q t = none := by
  simp only [State.pieceMiss, if_pos hc, hp]

theorem State.pieceMiss_miss (hc : t.pos < t.count) (hp : s.piece q t = .error (v, .miss obj off write)) :
    s.pieceMiss q t = some (obj, off, write) := by
  simp only [State.pieceMiss, if_pos hc, hp]

theorem State.nextFault_piece (hc : t.pos < t.count) (hp : s.piece q t = .error (v, .fault fault off)) :
    s.nextFault q t = some (v, fault, off) := by
  simp only [State.nextFault, if_pos hc, hp]

variable (hh : s.channelHead q n = some t)
include hh

/-- The transfer whose channel has the turn performs its next line. -/
theorem copyLine_performs (hc : t.pos < t.count) (ht : s.turnOf q = some n) (hp : s.piece q t = .ok u) :
    exec (.copyLine q n) s = .next ((u.setTransfer q n { t with pos := t.pos + 1 }).served q n) := by
  rw [exec_copyLine]
  simp only [execCopyLine, hh, State.pieceMiss_ok hc hp, Nat.not_le.mpr hc, ht, ne_eq, not_true_eq_false, or_self, if_false, hp]

/-- A transfer whose next line misses its translation asks for the walk. -/
theorem copyLine_asks (hc : t.pos < t.count) (hp : s.piece q t = .error (v, .miss obj off write)) :
    exec (.copyLine q n) s = .next (s.askWalk { act := t.act, part := t.part, core := t.core, object := obj, offset := off
                                                bytes := 1, write := write, who := .engine q n t.id }) := by
  rw [exec_copyLine]
  simp only [execCopyLine, hh, State.pieceMiss_miss hc hp]

theorem transferComplete_ends (ho : t.over = true) :
    exec (.transferComplete q n) s = .next ((s.endTransfer q n t none).settleWaits q) := by
  rw [exec_transferComplete]
  simp only [execTransferComplete, hh, if_pos ho]

/-- A line that faults stops its transfer and faults its channel. -/
theorem copyFault_stops {cause : BitVec 8} (hc : t.pos < t.count)
    (hp : s.piece q t = .error (v, .fault cause.toNat off)) :
    exec (.copyFault q n cause) s = .next ((v.faultChan q n t cause.toNat off).settleWaits q) := by
  rw [exec_copyFault]
  simp only [execCopyFault, hh, State.nextFault_piece hc hp, if_true]

/-- The peer's counter is incremented once every line of the copy has been performed. -/
theorem peerSignal_counts {len peer dataObj dataOff sigObj sigOff : Nat}
    (hw : t.what = .cpyp len peer dataObj dataOff sigObj sigOff) (hc : t.count ≤ t.pos) (hs : t.signalled = false)
    (hp : s.peerCount t peer sigObj sigOff = .ok u) :
    exec (.peerSignal q n) s = .next (u.setTransfer q n { t with signalled := true }) := by
  rw [exec_peerSignal]
  simp only [execPeerSignal, hh, hw, Nat.not_lt.mpr hc, hs, Bool.false_eq_true, or_self, if_false, hp]

end

/-! ## Links (R325) -/

/-- A link of the package that is up: one of a die's or one of a peer's. -/
def State.LinkUp (s : State) (link : Nat) : Prop := link < 32 ∧ (link < 8 ∨ 16 ≤ link) ∧ (s.link link).down = false

/-- Its events are enabled unless a condition of their own holds. -/
theorem State.LinkUp.enabled {s : State} {link : Nat} {p : Prop} (h : s.LinkUp link) (hp : ¬p) :
    ¬(32 ≤ link ∨ (8 ≤ link ∧ link < 16) ∨ (s.link link).down = true ∨ p) := by
  obtain ⟨hn, hk, hd⟩ := h
  rw [hd]
  rintro (h | ⟨h8, h16⟩ | h | h)
  · exact Nat.not_le.mpr hn h
  · omega
  · exact Bool.false_ne_true h
  · exact hp h

/-- The link is down. -/
def State.linkDead (s : State) (link : Nat) : State := s.setLink link { s.link link with down := true }

/-- The transfers at the heads of the channels of every engine that is not frozen. -/
def State.headsUnderWay (s : State) : List (Nat × Nat × Transfer) :=
  (s.quads.filter (fun x => !x.2.halting)).flatMap (fun x =>
    x.2.chans.filterMap (fun c => c.2.queue.head?.map (fun t => (x.1, c.1, t))))

/-- A transfer whose next step finds its peer gone faults with PEER. -/
def State.peerGone (s : State) (x : Nat × Nat × Transfer) : State :=
  match s.nextFault x.1 x.2.2 with
  | some (w, cause, off) => if cause = cPEER then (w.faultChan x.1 x.2.1 x.2.2 cause off).settleWaits x.1 else s
  | none => s

theorem flatMap_unless {α β : Type} (l : List α) (p : α → Bool) (f : α → List β) :
    l.flatMap (fun x => if p x = true then [] else f x) = (l.filter (fun x => !p x)).flatMap f := by
  induction l with
  | nil => rfl
  | cons x l ih => cases h : p x <;> simp [h, ih]

/-- The heads as a link that goes down finds them. -/
theorem State.headsUnderWay_eq (s : State) : (s.quads.flatMap (fun x => if x.2.halting = true then []
    else x.2.chans.filterMap (fun c => match c.2.queue with
      | t :: _ => some (x.1, c.1, t)
      | [] => none))) = s.headsUnderWay := by
  rw [flatMap_unless, State.headsUnderWay]
  congr! 4 with x c
  cases c.2.queue <;> rfl

theorem State.headsUnderWay_idle {s : State} (h : ∀ x ∈ s.quads, ∀ y ∈ x.2.chans, y.2.queue = []) : s.headsUnderWay = [] := by
  refine List.flatMap_eq_nil_iff.mpr fun x hx => List.filterMap_eq_nil_iff.mpr fun y hy => ?_
  rw [h x (List.mem_of_mem_filter hx) y hy]
  rfl

section
variable {s : State} {link : Nat} (hu : s.LinkUp link)
include hu

/-- A rail of a link that still has rails left is marked failed and recorded. -/
theorem linkRailFailure_marks (hr : (s.link link).failedRails < 5) :
    let t := s.setLink link { s.link link with failedRails := (s.link link).failedRails + 1 }
    exec (.linkRailFailure link) s =
      .next ((if link < 8 then t.setDie link { t.die link with rails := (t.die link).rails + 1 } else t).faultRecord
        (s.linkPart link) [faultWord1 0 0 false (linkUnit link) 0 0, w64 link, w64 s.tick]) := by
  rw [exec_linkRailFailure]
  simp only [execLinkRailFailure, if_neg (hu.enabled (Nat.not_le.mpr hr))]
  split <;> rfl

theorem linkFlitRetry_counts {k : Nat} {ok : Bool} (hk : (s.link link).retries = k) (hr : k < 8) :
    exec (.linkFlitRetry link ok) s =
      .next (s.setLink link { s.link link with retries := if ok = true then 0 else k + 1 }) := by
  subst hk
  rw [exec_linkFlitRetry]
  exact if_neg (hu.enabled (Nat.not_le.mpr hr))

variable (hr : 8 ≤ (s.link link).retries)
include hr

/-- A die behind a link that goes down is dropped, if that can be now. -/
theorem linkDown_die (hl : link < 8) : exec (.linkDown link) s =
    .next (if ((s.die link).dropped || !s.armatureLive || !(s.linkDead link).canEvacuate link) = true then s.linkDead link
      else (s.linkDead link).dropDie link) := by
  rw [exec_linkDown]
  simp only [execLinkDown, if_neg (hu.enabled (Nat.not_lt.mpr hr)), if_pos hl]
  rfl

/-- A peer link that goes down faults the copies under way on it. -/
theorem linkDown_peer (hl : 16 ≤ link) : exec (.linkDown link) s =
    .next (s.headsUnderWay.foldl State.peerGone (s.linkDead link)) := by
  have h8 : ¬link < 8 := by omega
  rw [exec_linkDown]
  simp only [execLinkDown, if_neg (hu.enabled (Nat.not_lt.mpr hr)), if_neg h8]
  exact congrArg (fun l => Host.Outcome.next (l.foldl State.peerGone (s.linkDead link))) s.headsUnderWay_eq

end

/-- Settles O35, event by event. -/
theorem engineAndLinkEventsHappen : Obligations.EngineAndLinkEventsHappen := by
  unfold Obligations.EngineAndLinkEventsHappen
  intro q n link len peer dataObj dataOff sigObj sigOff k t u v cause obj off write ok
  refine ⟨fun s ⟨hh, hc, ht, hp⟩ => copyLine_performs hh hc ht hp, fun s ⟨hh, hc, hp⟩ => copyLine_asks hh hc hp,
    fun s ⟨hh, ho⟩ => transferComplete_ends hh ho, fun s ⟨hh, hc, hp⟩ => copyFault_stops hh hc hp,
    fun s ⟨hh, hw, hc, hs, hp⟩ => peerSignal_counts hh hw hc hs hp,
    fun s ⟨hu, hl, hr⟩ => (linkRailFailure_marks hu hr).trans ?dieRail,
    fun s ⟨hu, hl, hr⟩ => (linkRailFailure_marks hu hr).trans ?peerRail,
    fun s ⟨hu, hk, hr⟩ => linkFlitRetry_counts hu hk hr, fun s ⟨hu, hl, hr⟩ => linkDown_peer hu hr hl,
    fun s ⟨hu, hl, hr, hq⟩ => (linkDown_peer hu hr hl).trans ?idle,
    fun s ⟨hu, hl, hr, hd⟩ => (linkDown_die hu hr hl).trans ?stays,
    fun s ⟨hu, hl, hr, hd, ha, he⟩ => (linkDown_die hu hr hl).trans ?drops⟩
  case dieRail =>
    rw [if_pos hl]
    rfl
  case peerRail =>
    rw [if_neg (by omega)]
    rfl
  case idle =>
    rw [State.headsUnderWay_idle hq]
    rfl
  case stays =>
    have hd' : ((s.die link).dropped || !s.armatureLive || !(s.linkDead link).canEvacuate link) = true := by
      simpa [or_assoc, State.linkDead] using hd
    rw [if_pos hd']
    rfl
  case drops =>
    have he' : (s.linkDead link).canEvacuate link = true := he
    simp only [hd, ha, he', Bool.not_true, Bool.or_self, Bool.false_eq_true, if_false]
    rfl

end Sys2Proof.Machine
end

section
/-! Barrier words: an arrival is sent or a pending one is waited for (R260..R263, R300). -/
namespace Sys2Proof.Machine

/-! ## Words whose waits depend on the context -/

/-- A word that nothing holds and whose own part issues answers its issue. -/
theorem runWith_go {i : Instr} {cl : Clauses} {need : Act → Need} {body : Nat → Nat → Act → State → Res} {s : State}
    {c aid : Nat} {e : Eff} (h : s.Clear c aid i cl (need (s.act aid))) (hb : body c aid (s.act aid) s = .go e) :
    runWith i cl need noPre body s = .next (s.issue c aid i cl e) := by rw [runWith_clear h rfl, hb]

/-- A word that nothing holds and whose own check fails raises that trap. -/
theorem runWith_trap {i : Instr} {cl : Clauses} {need : Act → Need} {body : Nat → Nat → Act → State → Res} {s : State}
    {c aid : Nat} {t : Trap} (h : s.Clear c aid i cl (need (s.act aid))) (hb : body c aid (s.act aid) s = .trap t) :
    runWith i cl need noPre body s = .next (s.raise aid t) := by rw [runWith_clear h rfl, hb]

/-! ## Waiting for a barrier (R261, R300) -/

/-- The arrival that an activity sends is the one that it then holds, numbered after those it sent before. -/
theorem State.held_sendArrival (s : State) (aid kind : Nat) (sid : Word64) (op : Option Nat) (operand : Word64) (style : Nat) :
    ((s.sendArrival aid kind sid op operand style).act aid).held =
      some { kind := kind, sid := sid, num := (s.act aid).arrivalCount kind sid + 1 } := by
  simp only [State.sendArrival, State.act_setAct_same]

/-- The wait of a barrier word for the barrier that its activity holds. -/
def barWait (i : Instr) (cl : Clauses) (d : BitVec 6) (mod : BitVec 4) (pair : Bool) (operand : Word64) (aid : Nat) (x : Act)
    (h : Option Held) : Op :=
  { mkOp aid x i cl true false (if pair then [sreg d.toNat, sreg (d.toNat + 1)] else dstS d.toNat) (.bar d.toNat pair) with
    replay := barReplay (opcodeOf i) x d mod h operand }

section
variable {s : State} {aid kind style : Nat} {i : Instr} {cl : Clauses} {d : BitVec 6} {mod : BitVec 4} {pair : Bool}
  {sid operand : Word64}

/-- With no arrival pending a barrier word sends one and waits for its barrier. -/
theorem barRes_arrives (ha : (s.act aid).ap = false) :
    barRes s aid (s.act aid) i cl d mod pair kind sid operand style =
      .go (start (s.sendArrival aid kind sid none operand style) (barWait i cl d mod pair operand aid (s.act aid)
        (some { kind := kind, sid := sid, num := (s.act aid).arrivalCount kind sid + 1 }))) := by
  simp only [barRes, ha, Bool.false_eq_true, if_false, State.held_sendArrival]
  rfl

/-- With one pending it waits for that. -/
theorem barRes_pending (ha : (s.act aid).ap = true) :
    barRes s aid (s.act aid) i cl d mod pair kind sid operand style =
      .go (start s (barWait i cl d mod pair operand aid (s.act aid) (s.act aid).held)) := by
  simp only [barRes, ha, if_true]
  rfl

end

/-- A word that comes to its wait for a barrier completes both ways: it sends its arrival first, or an arrival is pending. -/
theorem barrierWord_completes {i : Instr} {cl : Clauses} {body : Nat → Nat → Act → State → Res} {d : BitVec 6} {mod : BitVec 4}
    {pair : Bool} {ok : Act → State → Prop} {kind : Act → State → Nat} {id : Act → State → Word64} {operand : Act → Word64}
    {style : Nat} (hi : ∀ s, exec i s = runWith i cl arriveNeed noPre body s)
    (hb : ∀ c aid x s, ok x s → body c aid x s = barRes s aid x i cl d mod pair (kind x s) (id x s) (operand x) style) :
    Completes i cl arriveNeed (fun _ x s => x.ap = false ∧ ok x s)
      (fun _ aid x s => start (s.sendArrival aid (kind x s) (id x s) none (operand x) style)
        (barWait i cl d mod pair (operand x) aid x
          (some { kind := kind x s, sid := id x s, num := x.arrivalCount (kind x s) (id x s) + 1 }))) ∧
    Completes i cl arriveNeed (fun _ x s => x.ap = true ∧ ok x s)
      (fun _ aid x s => start s (barWait i cl d mod pair (operand x) aid x x.held)) :=
  ⟨fun s _ _ h ⟨ha, hk⟩ => (hi s).trans (runWith_go h ((hb _ _ _ s hk).trans (barRes_arrives ha))),
    fun s _ _ h ⟨ha, hk⟩ => (hi s).trans (runWith_go h ((hb _ _ _ s hk).trans (barRes_pending ha)))⟩

/-- Settles O23: the words that wait share `barrierWord_completes`. -/
theorem barrierWordsComplete : Obligations.BarrierWordsComplete := by
  unfold Obligations.BarrierWordsComplete
  intro mod d a imm cl
  refine ⟨barrierWord_completes (fun _ => exec_bar ..) fun _ _ _ _ _ => rfl,
    barrierWord_completes (fun _ => exec_barred ..) fun _ _ _ _ _ => rfl,
    barrierWord_completes (fun _ => exec_sstep ..) fun _ _ x s hs => ?sstep, fun s c aid h hs => ?sstepNoBsp,
    completes_of_body (fun _ => exec_barw ..) fun s _ aid ha => ?barw,
    raises_of_body (fun _ => exec_barw ..) fun _ _ _ ha => if_pos ha, fun s c aid h ha => ?baraPending,
    fun s c aid h ha => ?baraSends⟩
  case sstep => exact if_neg (Bool.eq_false_iff.not.mpr (not_not.mpr hs))
  case sstepNoBsp => exact (exec_sstep ..).trans (runWith_trap (need := arriveNeed) h (if_pos hs))
  case barw => exact (if_neg (Bool.eq_false_iff.not.mpr (not_not.mpr ha))).trans (barRes_pending ha)
  case baraPending => exact (exec_bara ..).trans (runWith_go (need := arriveNeed) h (if_pos ha))
  case baraSends =>
    exact (exec_bara ..).trans (runWith_go (need := arriveNeed) h (if_neg (Bool.eq_false_iff.mp ha)))

end Sys2Proof.Machine
end

section
/-! Kicks, drains, queue bases and launches, and the journal that comes before them (R266, R311, R312, R314, R317, R319, R320,
R323). -/
namespace Sys2Proof.Machine

/-! ## Register writes (R311, R312, R320, R323) -/

theorem kicksetWrite_sets {s : State} {part q : Nat} (v : Word64) (hq : q < 64) :
    exec (.kicksetWrite part q v) s = .next (s.setPart part ({ s.part part with
      kickset := sparseSet 0 (s.part part).kickset q (sparseGet 0 (s.part part).kickset q ||| v) } : Part).rescan) := by
  rw [exec_kicksetWrite]
  exact if_neg (Nat.not_le.mpr hq)

theorem kickclrWrite_clears {s : State} {part q : Nat} (v : Word64) (hq : q < 64) :
    exec (.kickclrWrite part q v) s = .next (s.setPart part ((s.part part).clearKicks q v)) := by
  rw [exec_kickclrWrite]
  exact if_neg (Nat.not_le.mpr hq)

/-- With nothing on its way to the journal LQBASE has its last value already. -/
theorem State.lqbaseLast_idle {s : State} {part : Nat} (q : Nat) (hj : (s.part part).jpend = []) :
    s.lqbaseLast part q = (s.queue part q).lqbase := by
  simp only [State.lqbaseLast, hj, List.foldl_nil]

/-- The valid bit of LQBASE is stored as it is written. -/
theorem lqbaseStored_valid (old v : Word64) (host : Bool) : (lqbaseStored old v host).getLsbD 63 = v.getLsbD 63 := by
  have hm : (0xE300FFFFFFFFF000 : Word64).getLsbD 63 = true := by decide
  have hp : (0x0400000000000000 : Word64).getLsbD 63 = false := by decide
  simp only [lqbaseStored, BitVec.getLsbD_or, BitVec.getLsbD_and, hm, hp, Bool.and_true, Bool.and_false, Bool.or_false]

/-- The armature stores priv with the other fields. -/
theorem lqbaseStored_armature (old v : Word64) : lqbaseStored old v false = v &&& 0xE700FFFFFFFFF000 := by
  rw [lqbaseStored, if_neg Bool.false_ne_true, ← BitVec.and_or_distrib_left]
  rfl

section
variable {s : State} {part q : Nat} {v : Word64} {host : Bool} (hq : q < 64) (hj : (s.part part).jpend = [])
include hq hj

/-- A write that sets the valid bit of a closed queue journals its opening. -/
theorem lqbaseWrite_opens (ho : (s.queue part q).lqbase.getLsbD 63 = false) (hv : v.getLsbD 63 = true) :
    exec (.lqbaseWrite part q v host) s = .next (s.journal part { kind := 9, queue := q }
      (.qopen q (lqbaseStored (s.queue part q).lqbase v host))) := by
  have hn := (lqbaseStored_valid (s.queue part q).lqbase v host).trans hv
  have hne : (s.queue part q).lqbase ≠ lqbaseStored (s.queue part q).lqbase v host := fun h =>
    Bool.false_ne_true (ho.symm.trans ((congrArg (BitVec.getLsbD · 63) h).trans hn))
  rw [exec_lqbaseWrite]
  simp only [execLqbaseWrite, if_neg (Nat.not_le.mpr hq), State.lqbaseLast_idle q hj, if_neg hne, ho, hn]

/-- One that clears the valid bit of an open queue journals its closing. -/
theorem lqbaseWrite_closes (ho : (s.queue part q).lqbase.getLsbD 63 = true) (hv : v.getLsbD 63 = false) :
    exec (.lqbaseWrite part q v host) s = .next (s.journal part { kind := 10, queue := q }
      (.qclose q (lqbaseStored (s.queue part q).lqbase v host &&& 0x7FFFFFFFFFFFFFFF))) := by
  have hn := (lqbaseStored_valid (s.queue part q).lqbase v host).trans hv
  have hne : (s.queue part q).lqbase ≠ lqbaseStored (s.queue part q).lqbase v host := fun h =>
    Bool.false_ne_true (hn.symm.trans ((congrArg (BitVec.getLsbD · 63) h).symm.trans ho))
  rw [exec_lqbaseWrite]
  simp only [execLqbaseWrite, if_neg (Nat.not_le.mpr hq), State.lqbaseLast_idle q hj, if_neg hne, ho, hn]

end

/-! ## Kicks (R312) -/

section
variable {s : State} {part : Nat} (hf : s.schedFree part = true)
include hf

/-- The next kicked slot of the scan is copied whole. -/
theorem kickTake_copies {n : Nat} (hc : (s.part part).copy = none) (hn : s.nextKick part = some n) :
    let a := (s.queue part (n / 64)).addr (bits (s.queue part (n / 64)).lqbase 47 12 * 4096 + 64 * (n % 64))
    let t := s.portTurn (a / 64)
    exec (.kickTake part) s = .next (t.setPart part { t.part part with
      copy := some { n := n, bytes := t.memRead a 64, drainBefore := !(t.part part).drain } }) := by
  rw [exec_kickTake]
  simp only [execKickTake, hf, Bool.true_eq_false, if_false, hc, hn]

/-- A slot that has been copied is checked. -/
theorem kickTake_checks {k : KickCopy} (hc : (s.part part).copy = some k) :
    exec (.kickTake part) s = .next (s.kickCheck part k) := by
  rw [exec_kickTake]
  simp only [execKickTake, hf, Bool.true_eq_false, if_false, hc]

end

/-! ## Launches (R266, R281, R316, R319) -/

/-- What becomes of a launch that its gang has submitted, and that has left the list: it is refused, its pod group has no place
left for it, or its ACCEPT entry is journaled. -/
def State.judgeLaunch (s : State) (part op : Nat) (o : Op) (bytes : List Byte) (code arg : KReg) : State :=
  let r := LaunchRec.ofBytes bytes
  let g := s.gang (s.act o.act).gang
  if (s.part part).drain = true then s.refuseLaunch op o 1
  else if g.endPend.isSome = true ∨ g.stage ≠ .eligible then s.refuseLaunch op o 3
  else if r.depPresent = true ∧ 1024 ≤ (s.part part).waiting.length then s.refuseLaunch op o 2
  else if r.podGroup ≠ 0 ∧ s.podAccepts part r.podGroup = false then
    s.lateTrap op o (mkTrap cLAUNCH (malformedDetail (22, 2)))
  else s.newGang part bytes code arg none (fun gid => .launched op gid 0)

section
variable {s : State} {part op d : Nat} {o : Op} {ops : List Nat} {bytes : List Byte} {code arg : KReg}

/-- The oldest launch is judged once the memory words before it have been performed. -/
theorem launchSubmission_judges (hf : s.schedFree part = true) (hs : (s.part part).submits = op :: ops) (ho : s.op? op = some o)
    (hk : o.kind = .launch d bytes code arg) (hm : s.memDone o.act o.num = true) :
    exec (.launchSubmission part) s =
      .next ((s.setPart part { s.part part with submits := ops }).judgeLaunch part op o bytes code arg) := by
  have hr : s.launchReady op = true := by simp only [State.launchReady, ho, hm]
  have ho' (p : Part) : (s.setPart part p).op? op = some o := ho
  rw [exec_launchSubmission]
  simp only [execLaunchSubmission, hf, Bool.true_eq_false, if_false, hs, List.find?_cons_of_pos hr, List.erase_cons_head, ho', hk,
    State.judgeLaunch, State.part_setPart_same]
  repeat' split
  all_goals rfl

variable (hd : (s.part part).drain = false)
include hd

theorem State.judgeLaunch_ending (hg : (s.gang (s.act o.act).gang).endPend.isSome = true
      ∨ (s.gang (s.act o.act).gang).stage ≠ .eligible) :
    s.judgeLaunch part op o bytes code arg = s.refuseLaunch op o 3 := by
  simp only [State.judgeLaunch, hd, Bool.false_eq_true, if_false, if_pos hg]

variable (he : (s.gang (s.act o.act).gang).endPend = none) (hg : (s.gang (s.act o.act).gang).stage = .eligible)
include he hg

theorem State.judgeLaunch_full (hw : (LaunchRec.ofBytes bytes).depPresent = true ∧ 1024 ≤ (s.part part).waiting.length) :
    s.judgeLaunch part op o bytes code arg = s.refuseLaunch op o 2 := by
  simp only [State.judgeLaunch, hd, he, hg, Option.isSome_none, Bool.false_eq_true, ne_eq, not_true_eq_false, or_self, if_false,
    if_pos hw]

/-- A launch for which there is room becomes a new gang, whose ACCEPT entry is journaled. -/
theorem State.judgeLaunch_accepts
    (hw : (LaunchRec.ofBytes bytes).depPresent = true → (s.part part).waiting.length < 1024)
    (hp : (LaunchRec.ofBytes bytes).podGroup ≠ 0 → s.podAccepts part (LaunchRec.ofBytes bytes).podGroup = true) :
    s.judgeLaunch part op o bytes code arg = s.newGang part bytes code arg none (fun gid => .launched op gid 0) := by
  have hroom : ¬((LaunchRec.ofBytes bytes).depPresent = true ∧ 1024 ≤ (s.part part).waiting.length) := fun h =>
    Nat.not_le.mpr (hw h.1) h.2
  have hpod : ¬((LaunchRec.ofBytes bytes).podGroup ≠ 0 ∧ s.podAccepts part (LaunchRec.ofBytes bytes).podGroup = false) :=
    fun h => Bool.false_ne_true (h.2.symm.trans (hp h.1))
  simp only [State.judgeLaunch, hd, he, hg, Option.isSome_none, Bool.false_eq_true, if_false, if_neg hroom, if_neg hpod]
  rfl

end

/-- Settles O31: the register writes, then the kicks, the journal and the launches, event by event. -/
theorem schedulerIntakeHappens : Obligations.SchedulerIntakeHappens := by
  unfold Obligations.SchedulerIntakeHappens
  refine ⟨fun part q v host => ⟨fun s hq => kicksetWrite_sets v hq, fun s hq => kickclrWrite_clears v hq,
      fun s _ => exec_hostirqWrite part s, fun s ⟨hq, hj, ho, hv⟩ => (lqbaseWrite_opens hq hj ho hv).trans ?opens,
      fun s ⟨hq, hj, ho, hv⟩ => lqbaseWrite_closes hq hj ho hv, fun s hv => (exec_drainWrite ..).trans ?drains,
      fun s hv => (exec_drainWrite ..).trans ?resumes, fun s ht => (exec_kickScan ..).trans (if_pos ht)⟩,
    fun part n gid op d k e x rest o ops bytes code arg => ⟨fun s ⟨hf, hc, hn⟩ => kickTake_copies hf hc hn,
      fun s ⟨hf, hc⟩ => kickTake_checks hf hc, fun s ⟨hl, hj⟩ => (journalEntryAccepted_performs hl hj).trans ?accepted,
      fun s ⟨⟨hf, hs, ho, hk, hm⟩, hd⟩ => (launchSubmission_judges hf hs ho hk hm).trans (congrArg _ ?draining),
      fun s ⟨⟨hf, hs, ho, hk, hm⟩, hd, he, hg, hw, hp⟩ =>
        (launchSubmission_judges hf hs ho hk hm).trans (congrArg _ ?accepts),
      fun s ⟨⟨hf, hs, ho, hk, hm⟩, hd, hg⟩ => (launchSubmission_judges hf hs ho hk hm).trans (congrArg _ ?ending),
      fun s ⟨⟨hf, hs, ho, hk, hm⟩, hd, he, hg, hr, hw⟩ =>
        (launchSubmission_judges hf hs ho hk hm).trans (congrArg _ ?full),
      fun s h => (exec_dependenceThreshold ..).trans (if_pos h)⟩⟩
  case opens => rw [lqbaseStored_armature]
  case drains => simp only [execDrainWrite, hv, if_true]
  case resumes => simp only [execDrainWrite, hv, Bool.false_eq_true, if_false]
  case accepted => simp only [State.jaccept, State.part_setPart_same]
  case draining => exact if_pos (by rwa [State.part_setPart_same])
  case accepts =>
    refine State.judgeLaunch_accepts ?_ he hg ?_ hp <;> rw [State.part_setPart_same]
    · exact hd
    · exact hw
  case ending => exact State.judgeLaunch_ending (by rwa [State.part_setPart_same]) hg
  case full =>
    refine State.judgeLaunch_full ?_ he hg ?_ <;> rw [State.part_setPart_same]
    · exact hd
    · exact ⟨hr, hw⟩

end Sys2Proof.Machine
end

section
/-! The debug module, the sample buffer and proofs: what each event does (R304, R339, R340, R342, R345). -/
namespace Sys2Proof.Machine

/-- A quad reaches its halt once each of its contexts has come to a point at which it can be halted (R243, R340). -/
theorem quadHalted_halts {s : State} {quad : Nat} (hh : (s.quad quad).halting = true)
    (ha : (s.quadActs quad).all s.canHalt = true) :
    let w := s.withdrawAll ((s.quadActs quad).filter (fun a => (s.act a).run == .inService))
    let u := (w.quadActs quad).foldl (fun (x : State) a => x.haltContext a) w
    let r : State := { u with haltAway := u.haltAway.filter (fun x => x.1 != quad) ++ u.awaySlots quad }
    exec (.quadHalted quad) s =
      .next (r.setQuad quad { r.quad quad with qdstat := (r.quad quad).qdstat ||| 0x8000000000000000 }) := by
  rw [exec_quadHalted]
  exact if_neg (by simp only [hh, ha, Bool.true_eq_false, or_self, not_false_eq_true])

theorem sampleBufferSetup_clears (s : State) (part : Nat) (len : Bool) (v : Word64) :
    exec (.sampleBufferSetup part len v) s = .next (s.setPart part { (if len = true
        then { s.part part with sblen := v &&& 0xFFFFFFF8 } else { s.part part with sbbase := v &&& 0x8000FFFFFFFFFFC0 } : Part) with
      sbptr := 0, sbStopped := false, sbWrapped := false }) := exec_sampleBufferSetup ..

theorem proofSnapshot_takes {s : State} {part t : Nat} (hp : (s.part part).proof = some t) (ht : t = s.tick) :
    exec (.proofSnapshot part) s = .next (s.takeProof part t) := by
  rw [exec_proofSnapshot]
  simp only [execProofSnapshot, hp, if_pos ht]

/-- Settles O37, event by event. -/
theorem debugEventsHappen : Obligations.DebugEventsHappen := by
  unfold Obligations.DebugEventsHappen
  intro quad aid part t v item
  exact ⟨fun s hq => (exec_quadHalt ..).trans (if_neg (Nat.not_le.mpr hq)), fun s ⟨hh, ha⟩ => quadHalted_halts hh ha,
    fun s hq => (exec_quadResume ..).trans (if_neg (Nat.not_le.mpr hq)),
    fun s hr => (exec_debugStateWrite ..).trans (if_pos hr), fun s _ => sampleBufferSetup_clears s part false v,
    fun s _ => sampleBufferSetup_clears s part true v, fun s _ => exec_sbptrWrite .., fun s _ => exec_proofArm ..,
    fun s ⟨hp, ht⟩ => proofSnapshot_takes hp ht⟩

end Sys2Proof.Machine
end

section
/-! Enrolments, the scrubber, lost retention, dropped dies and the cross-alarm (R316, R334, R336, R337, R359). -/
namespace Sys2Proof.Machine

/-! ## Enrolments (R316) -/

/-- The entry of a partition's enrolments. -/
def State.podEntry (s : State) (part entry : Nat) : PodEntry := (tableGet? (s.part part).pods entry).getD {}

/-- Where the membership bitmap of an entry stands. -/
def PodEntry.bitmapAt (e : PodEntry) : Nat := bits e.pgmem 47 7 * 128

/-- The bitmap's lines have been read in their turn. -/
def State.podRead (s : State) (part entry : Nat) : State :=
  (linesOf (s.podEntry part entry).bitmapAt 128).foldl (fun (u : State) l => u.portTurn l) s

/-- The bitmap that is read. -/
def State.podBitmap (s : State) (part entry : Nat) : List Byte :=
  (s.podRead part entry).memRead (s.podEntry part entry).bitmapAt 128

/-- An enrolment is sound as what is written and what is read make it. -/
def State.podSound (s : State) (part entry : Nat) (v : Word64) : Bool :=
  (s.podRead part entry).enrolled part entry v (s.podBitmap part entry)

/-- The entry holds a value, with the bitmap read if it is valid. -/
def State.podStored (s : State) (part entry : Nat) (w : Word64) : State :=
  let u := s.podRead part entry
  u.setPart part { u.part part with pods := tableSet (u.part part).pods entry { s.podEntry part entry with
    pgenr := w, bitmap := if w.getLsbD 63 = true then s.podBitmap part entry else (s.podEntry part entry).bitmap, accepted := 0 } }

section
variable {s : State} {part entry : Nat} {w : Word64}

theorem State.podStored_valid (h : w.getLsbD 63 = true) :
    let u := s.podRead part entry
    s.podStored part entry w = u.setPart part { u.part part with
      pods := tableSet (u.part part).pods entry { s.podEntry part entry with
        pgenr := w, bitmap := s.podBitmap part entry, accepted := 0 } } := by
  simp only [State.podStored, if_pos h]

theorem State.podStored_invalid (h : w.getLsbD 63 = false) :
    let u := s.podRead part entry
    s.podStored part entry w = u.setPart part { u.part part with
      pods := tableSet (u.part part).pods entry { s.podEntry part entry with pgenr := w, accepted := 0 } } := by
  simp only [State.podStored, h, Bool.false_eq_true, if_false]

end

/-- PGENR's reserved bits are dropped, and valid stays. -/
theorem pgenrField_valid (v : Word64) : (v &&& 0x8000FFFF0000FFFF).getLsbD 63 = v.getLsbD 63 := by
  rw [BitVec.getLsbD_and, show (0x8000FFFF0000FFFF : Word64).getLsbD 63 = true from by decide, Bool.and_true]

/-- An entry stored as invalid. -/
theorem pgenrField_invalid (v : Word64) : (v &&& 0x0000FFFF0000FFFF).getLsbD 63 = false := by
  rw [BitVec.getLsbD_and, show (0x0000FFFF0000FFFF : Word64).getLsbD 63 = false from by decide, Bool.and_false]

section
variable {s : State} {part entry : Nat} {v : Word64} (he : entry < 16)
include he

theorem pgenrWrite_ignored (hb : s.podBusy part (s.podEntry part entry) = true) : exec (.pgenrWrite part entry v) s = .next s := by
  unfold State.podEntry at hb
  rw [exec_pgenrWrite]
  simp only [execPgenrWrite, if_neg (Nat.not_le.mpr he), if_pos hb]

variable (hb : s.podBusy part (s.podEntry part entry) = false)
include hb

/-- A write that is not ignored is stored, as invalid if it is not sound. -/
theorem pgenrWrite_stores : exec (.pgenrWrite part entry v) s = .next (s.podStored part entry
    (if (v &&& 0x8000FFFF0000FFFF).getLsbD 63 = true ∧ s.podSound part entry (v &&& 0x8000FFFF0000FFFF) = false
      then v &&& 0x8000FFFF0000FFFF &&& 0x7FFFFFFFFFFFFFFF else v &&& 0x8000FFFF0000FFFF)) := by
  unfold State.podEntry at hb
  rw [exec_pgenrWrite]
  simp only [execPgenrWrite, if_neg (Nat.not_le.mpr he), hb, Bool.false_eq_true, if_false]
  rfl

theorem pgenrWrite_sound (hs : s.podSound part entry (v &&& 0x8000FFFF0000FFFF) = true) :
    exec (.pgenrWrite part entry v) s = .next (s.podStored part entry (v &&& 0x8000FFFF0000FFFF)) := by
  simp only [pgenrWrite_stores he hb, hs, Bool.true_eq_false, and_false, if_false]

theorem pgenrWrite_clear (hv : v.getLsbD 63 = false) :
    exec (.pgenrWrite part entry v) s = .next (s.podStored part entry (v &&& 0x8000FFFF0000FFFF)) := by
  simp only [pgenrWrite_stores he hb, pgenrField_valid, hv, Bool.false_eq_true, false_and, if_false]

theorem pgenrWrite_unsound (hv : v.getLsbD 63 = true) (hs : s.podSound part entry (v &&& 0x8000FFFF0000FFFF) = false) :
    exec (.pgenrWrite part entry v) s = .next (s.podStored part entry (v &&& 0x0000FFFF0000FFFF)) := by
  simp only [pgenrWrite_stores he hb, pgenrField_valid, hv, hs, and_self, if_true, BitVec.and_assoc]
  rfl

end

/-! ## The scrubber (R318, R334) -/

/-- A line of a core's local memory is poisoned, and counted. -/
def State.lmScrubbed (s : State) (core line : Nat) : State :=
  let u := s.scrubCount (coreDie core) true
  u.setCore core { u.core core with lmPoison := sparseSet false (u.core core).lmPoison line true }

/-- The gang in whose local memory a line lies. -/
def State.lmOwner (s : State) (core line : Nat) : Option Nat :=
  s.holder? (fun h => h.lm.any (fun x => x.1 == core && decide (x.2.1 ≤ line * 64) && decide (line * 64 < x.2.1 + x.2.2)))

theorem State.lmOwner_idle {s : State} (core line : Nat) (h : s.holdings = []) : s.lmOwner core line = none := by
  simp only [State.lmOwner, State.holder?, h, List.find?_nil, Option.map_none]

/-- A line of a stack is poisoned, and counted. -/
def State.stackScrubbed (s : State) (line : Nat) : State :=
  let u := s.scrubCount (line * 64 / 2 ^ 37) true
  { u with memPoison := sparseSet false u.memPoison line true }

section
variable (s : State) (core line : Nat)

/-- A line of local memory is the error of the gang that holds it, or nobody's. -/
theorem scrubLine_lm : exec (.scrubLine 1 core line true) s =
    .next ((s.lmScrubbed core line).scrubbed ((s.lmScrubbed core line).lmOwner core line) (s.diePart (coreDie core)) 1 core
      (uncorrDetail 1 1 0) (w64 (line * 64)) (match (s.lmScrubbed core line).lmOwner core line with
        | some g => (s.lmScrubbed core line).lmLogged g core (line * 64)
        | none => false)) := rfl

theorem scrubLine_lmFree (h : (s.lmScrubbed core line).lmOwner core line = none) : exec (.scrubLine 1 core line true) s =
    .next ((s.lmScrubbed core line).errorRecord (s.diePart (coreDie core)) 1 core (w64 (line * 64)).toNat) := by
  rw [scrubLine_lm, h]
  rfl

theorem scrubLine_lmOwned {g : Nat} (h : (s.lmScrubbed core line).lmOwner core line = some g) :
    exec (.scrubLine 1 core line true) s = .next ((s.lmScrubbed core line).gangError g (uncorrDetail 1 1 0) (w64 (line * 64)) core
      ((s.lmScrubbed core line).lmLogged g core (line * 64))) := by
  rw [scrubLine_lm, h]
  rfl

/-- A line of a stack is the owner's of its object, or nobody's. -/
theorem scrubLine_stack : exec (.scrubLine 0 core line true) s =
    match (s.stackScrubbed line).lineOwner (s.diePart (line * 64 / 2 ^ 37)) 7 line with
    | none => .next ((s.stackScrubbed line).errorRecord (s.diePart (line * 64 / 2 ^ 37)) 7 0 (line * 64))
    | some (own, d, b) => .next ((s.stackScrubbed line).scrubbed own (s.diePart (line * 64 / 2 ^ 37)) 7 0 d b
        ((s.stackScrubbed line).lineLogged own line)) := rfl

theorem scrubLine_stackFree (h : (s.stackScrubbed line).lineOwner (s.diePart (line * 64 / 2 ^ 37)) 7 line = none) :
    exec (.scrubLine 0 core line true) s =
      .next ((s.stackScrubbed line).errorRecord (s.diePart (line * 64 / 2 ^ 37)) 7 0 (line * 64)) := by
  rw [scrubLine_stack, h]

theorem scrubLine_stackOwned {own : Option Nat} {d b : Word64}
    (h : (s.stackScrubbed line).lineOwner (s.diePart (line * 64 / 2 ^ 37)) 7 line = some (own, d, b)) :
    exec (.scrubLine 0 core line true) s = .next ((s.stackScrubbed line).scrubbed own (s.diePart (line * 64 / 2 ^ 37)) 7 0 d b
      ((s.stackScrubbed line).lineLogged own line)) := by
  rw [scrubLine_stack, h]

/-- A line of an armature core's memory is poisoned and recorded, and raises a machine check of a free grade. -/
theorem scrubLine_armature (h : core = 2048 ∨ core = 2049) :
    let u : State := ({ s with draws := s.draws + 1 } : State).setCore core { s.core core with
      imemPoison := sparseSet false (s.core core).imemPoison line true }
    exec (.scrubLine 7 core line true) s = .next ((u.errorRecord ((s.parts.map (·.1)).headD 0) 11 core (line * 64)).machineCheck
      core (armatureCheck line (Config.freeWord s.draws))) := by
  have ha : (isArmature core && decide (core < 2050)) = true := by rcases h with rfl | rfl <;> decide
  exact (exec_scrubLine ..).trans (if_pos ha)

end

/-- The clean copy that a die's memory-side cache holds of a line is bad: whoever owns the line can still be restored. -/
theorem scrubLine_cleanCopy {s : State} {die line g : Nat} {d b : Word64} {copy : McLine}
    (hc : tableGet? ((s.scrubCount die true).die die).mcache line = some copy) (hd : copy.dirty = false)
    (ho : (s.scrubCount die true).lineOwner (s.diePart die) 6 line = some (some g, d, b)) :
    let u := s.scrubCount die true
    exec (.scrubLine 6 die line true) s = .next ((u.setDie die { u.die die with
      mcache := tableSet (u.die die).mcache line { copy with bad := true } }).gangError g d b 0 true) := by
  refine (exec_scrubLine ..).trans ?_
  change (match tableGet? ((s.scrubCount die true).die die).mcache line,
      (s.scrubCount die true).lineOwner (s.diePart die) 6 line with | some _, _ => _ | none, _ => _) = _
  rw [hc, ho]
  simp only [hd, Bool.false_eq_true, if_false]
  rfl

/-- Settles O36: the writes of PGENR by what they store, the scrubbed lines by whose they are, then the other events. -/
theorem containmentEventsHappen : Obligations.ContainmentEventsHappen := by
  unfold Obligations.ContainmentEventsHappen
  intro part entry quad die core line g v d b code copy
  refine ⟨fun s ⟨he, hb, hv, hs⟩ => (pgenrWrite_sound he hb hs).trans ?valid, fun s ⟨he, hb⟩ => pgenrWrite_ignored he hb,
    fun s ⟨he, hb, hv⟩ => (pgenrWrite_clear he hb hv).trans ?clear,
    fun s ⟨he, hb, hv, hs⟩ => (pgenrWrite_unsound he hb hv hs).trans ?unsound, fun s _ => exec_scrubLine ..,
    fun s hn => scrubLine_lmFree s core line (State.lmOwner_idle core line hn), fun s ho => scrubLine_lmOwned s core line ho,
    fun s ho => scrubLine_stackFree s core line ho, fun s ho => scrubLine_stackOwned s core line ho,
    fun s ho => scrubLine_stackOwned s core line ho, fun s ⟨hc, hd, ho⟩ => scrubLine_cleanCopy hc hd ho,
    fun s hc => scrubLine_armature s core line hc, fun s _ => exec_retentionExit .., fun s _ => exec_retentionExit ..,
    fun s ⟨hd, hn, ha, he⟩ => (exec_dieDrop ..).trans (if_neg ?drops), fun s hc => (exec_crossAlarm ..).trans (if_pos hc)⟩
  case valid =>
    rw [State.podStored_valid ((pgenrField_valid v).trans hv)]
    rfl
  case clear =>
    rw [State.podStored_invalid ((pgenrField_valid v).trans hv)]
    rfl
  case unsound =>
    rw [State.podStored_invalid (pgenrField_invalid v)]
    rfl
  case drops => simp only [Nat.not_le.mpr hd, hn, ha, he, Bool.false_eq_true, Bool.true_eq_false, or_self, not_false_eq_true]

end Sys2Proof.Machine
end

section
/-! Voltage steps, gated arrays and thermal protection: what each event does (R347, R349, R350). -/
namespace Sys2Proof.Machine

/-! ## Voltage steps (R347) -/

section
variable {s : State} {die n due : Nat} {v : Word64}

/-- A request on a die whose clocks are settled begins a change. -/
theorem dvreq_begins (hd : die < 8) (hc : (s.die die).change = none) (hp : (s.die die).pauseUntil = none) :
    exec (.dvreq die v) s = .next (s.setDie die ((s.die die).startChange (bits v 2 0) s.tick)) := by
  rw [exec_dvreq]
  simp only [execDvreq, if_neg (Nat.not_le.mpr hd), hc, hp, Option.isSome_none, Bool.false_eq_true, or_self, if_false]

/-- A request while a change or its pause is in progress waits for the end of it. -/
theorem dvreq_waits (hd : die < 8) (hb : (s.die die).change.isSome = true ∨ (s.die die).pauseUntil.isSome = true) :
    exec (.dvreq die v) s =
      .next (s.setDie die { s.die die with reqStep := bits v 2 0, nextReq := some (bits v 2 0) }) := by
  rw [exec_dvreq]
  simp only [execDvreq, if_neg (Nat.not_le.mpr hd), if_pos hb]

theorem clockSwitch_switches (hc : (s.die die).change = some (n, due)) :
    exec (.clockSwitch die) s =
      .next (s.setDie die { s.die die with step := n, change := none, pauseUntil := some (s.tick + 20) }) := by
  rw [exec_clockSwitch]
  simp only [execClockSwitch, hc]

section
variable (hp : (s.die die).pauseUntil = some due) (hd : due ≤ s.tick)
include hp hd

/-- A pause whose tick has come ends. -/
theorem dvfsPauseEnd_ends (hn : (s.die die).nextReq = none) :
    exec (.dvfsPauseEnd die) s = .next (s.setDie die { s.die die with pauseUntil := none }) := by
  rw [exec_dvfsPauseEnd]
  simp only [execDvfsPauseEnd, hp, if_neg (Nat.not_lt.mpr hd), hn]

/-- The change that waited for it begins. -/
theorem dvfsPauseEnd_begins (hn : (s.die die).nextReq = some n) : exec (.dvfsPauseEnd die) s =
    .next (s.setDie die (({ s.die die with pauseUntil := none } : Die).startChange n s.tick)) := by
  rw [exec_dvfsPauseEnd]
  simp only [execDvfsPauseEnd, hp, if_neg (Nat.not_lt.mpr hd), hn]

end

end

/-! ## Gated arrays (R349) -/

section
variable {s : State} {quad bank n : Nat}

/-- A bank of a scratchpad of which no resident crew holds bytes is gated. -/
theorem arrayGate_bank (hq : quad < 512) (hb : bank < 16) (hg : (s.quad quad).gated.contains bank = false)
    (hh : ∀ h ∈ s.holdings, h.quad = quad → h.qs.2 = 0) :
    exec (.arrayGate quad bank) s = .next (s.setQuad quad { s.quad quad with gated := bank :: (s.quad quad).gated }) := by
  have hfree : s.holdings.any (fun h => h.quad == quad && h.qs.2 != 0) = false := by simpa using hh
  have hin : ¬(512 ≤ quad ∨ 32 ≤ bank) := by omega
  rw [exec_arrayGate]
  simp only [execArrayGate, if_neg hin, if_neg (Nat.not_le.mpr hb), hg, hfree, Bool.false_eq_true, or_self, if_false]

theorem arrayGate_way (hq : quad < 512) (hn : n < 16) (hg : (s.die (quadDie quad)).gatedWays.contains n = false) :
    exec (.arrayGate quad (16 + n)) s = .next (s.setDie (quadDie quad) ((s.die (quadDie quad)).gateWay n)) := by
  have hin : ¬(512 ≤ quad ∨ 32 ≤ 16 + n) := by omega
  rw [exec_arrayGate]
  simp only [execArrayGate, if_neg hin, if_pos (Nat.le_add_right 16 n), Nat.add_sub_cancel_left, hg, Bool.false_eq_true,
    if_false]

/-- A gated bank wakes without its bytes and their poison. -/
theorem arrayWake_bank (hb : bank < 16) (hg : (s.quad quad).gated.contains bank = true) :
    exec (.arrayWake quad bank) s = .next ((s.wakes (quadDie quad)).setQuad quad { s.quad quad with
      gated := (s.quad quad).gated.filter (fun b => b != bank)
      qs := (s.quad quad).qs.filter (fun x => x.1 / 64 % 16 != bank)
      qsPoison := (s.quad quad).qsPoison.filter (fun x => x.1 % 16 != bank) }) := by
  rw [exec_arrayWake]
  simp only [execArrayWake, if_neg (Nat.not_le.mpr hb), if_pos hg]
  rfl

theorem arrayWake_way (hg : (s.die (quadDie quad)).gatedWays.contains n = true) :
    exec (.arrayWake quad (16 + n)) s = .next (({ s with draws := s.draws + 1 } : State).setDie (quadDie quad)
      { s.die (quadDie quad) with
        gatedWays := (s.die (quadDie quad)).gatedWays.filter (fun w => w != n)
        wakeUntil := s.tick + Config.wakeTicks s.draws }) := by
  rw [exec_arrayWake]
  simp only [execArrayWake, if_pos (Nat.le_add_right 16 n), Nat.add_sub_cancel_left, if_pos hg]

end

/-! ## Thermal protection (R350) -/

section
variable {s : State} {die : Nat}

theorem thermalWarning_saves (hd : die < 8) : exec (.thermalWarning die) s =
    .next { (if s.armatureLive = true then s.saveAll else s) with
      saving := true, committed := false
      triprec := if s.triprec.getLsbD 63 = true then s.triprec else s.triprec &&& ~~~(0x4000000000000000 : Word64) } := by
  rw [exec_thermalWarning]
  exact if_neg (Nat.not_le.mpr hd)

theorem State.commitWord_tripped (h : s.triprec.getLsbD 63 = true) : s.commitWord = s.triprec ||| 0x4000000000000000 := if_pos h

theorem State.commitWord_fresh (h : s.triprec.getLsbD 63 = false) : s.commitWord = w64 (2 ^ 62 + s.tick % 2 ^ 48) :=
  if_neg (Bool.eq_false_iff.mp h)

/-- Once no replay is pending and no crew stays resident the save commits. -/
theorem emergencySaveCommit_commits (hs : s.saving = true) (hr : s.replaysDone = true) (ha : s.armatureLive = true)
    (hc : s.saveAll.residentCrews = []) : exec .emergencySaveCommit s =
      .next { s.saveAll.writeBack with committed := true, triprec := s.saveAll.writeBack.commitWord } := by
  rw [exec_emergencySaveCommit]
  simp only [execEmergencySaveCommit, hs, hr, ha, hc, List.isEmpty_nil, Bool.true_eq_false, or_self, if_false]

/-- A trip cuts the power and records whether the save had committed. -/
theorem thermalTrip_cuts (hd : die < 8) : exec (.thermalTrip die) s =
    .next { s.powerCut with
      saving := false, committed := false
      triprec := w64 (2 ^ 63 + (if decide (s.saving = true ∧ s.committed = true) = true then 2 ^ 62 else 0) + die * 2 ^ 59
        + s.tick % 2 ^ 48) } := by
  rw [exec_thermalTrip]
  simp only [execThermalTrip, if_neg (Nat.not_le.mpr hd), Bool.and_eq_true, decide_eq_true_eq]

end

/-- Settles O38, event by event. -/
theorem powerEventsHappen : Obligations.PowerEventsHappen := by
  unfold Obligations.PowerEventsHappen
  intro die quad bank n due v
  refine ⟨fun s ⟨hd, hc, hp⟩ => dvreq_begins hd hc hp, fun s ⟨hd, hc⟩ => dvreq_waits hd (.inl hc),
    fun s ⟨hd, hp⟩ => dvreq_waits hd (.inr hp), fun s hc => clockSwitch_switches hc,
    fun s ⟨hp, hd, hn⟩ => dvfsPauseEnd_ends hp hd hn, fun s ⟨hp, hd, hn⟩ => dvfsPauseEnd_begins hp hd hn,
    fun s ⟨hq, hb, hg, hh⟩ => arrayGate_bank hq hb hg hh, fun s ⟨hq, hn, hg⟩ => arrayGate_way hq hn hg,
    fun s ⟨hb, hg⟩ => arrayWake_bank hb hg, fun s hg => arrayWake_way hg,
    fun s ⟨hd, ht, ha⟩ => ?warning, fun s ⟨hd, ht, ha⟩ => ?warningTripped, fun s ⟨hd, ht, ha⟩ => ?warningUnled,
    fun s ⟨hs, hr, ha, hc, ht⟩ => ?commit, fun s ⟨hs, hr, ha, hc, ht⟩ => ?commitTripped,
    fun s hd => thermalTrip_cuts hd, fun s hv => ?cleared, fun s h => ?resumed⟩
  case warning => simp only [thermalWarning_saves hd, ht, ha, if_true, Bool.false_eq_true, if_false]
  case warningTripped => simp only [thermalWarning_saves hd, ht, ha, if_true]
  case warningUnled => simp only [thermalWarning_saves hd, ht, ha, if_true, Bool.false_eq_true, if_false]
  case commit => rw [emergencySaveCommit_commits hs hr ha hc, State.commitWord_fresh ht]
  case commitTripped => rw [emergencySaveCommit_commits hs hr ha hc, State.commitWord_tripped ht]
  case cleared => exact (exec_triprecClear ..).trans (congrArg _ (if_pos hv))
  case resumed => exact (exec_temperatureFalls ..).trans (if_pos h)

end Sys2Proof.Machine
end

section
/-! Loads and stores of local memory and the scratchpad (R41..R44, R54, R150, R155..R160, R172). -/
namespace Sys2Proof.Machine

/-! ## Memory words -/

/-- A word of fixed waits completes when its own part issues. -/
theorem completes_of_go {i : Instr} {cl : Clauses} {need : Need} {body : Nat → Nat → Act → State → Res}
    {ok : Nat → Act → State → Prop} {eff : Nat → Nat → Act → State → Eff} (hi : ∀ s, exec i s = run i cl need noPre body s)
    (hb : ∀ s c aid, ok c (s.act aid) s → body c aid (s.act aid) s = .go (eff c aid (s.act aid) s)) :
    Completes i cl (fun _ => need) ok eff :=
  fun s c aid h hk => (hi s).trans (run_go h rfl (hb s c aid hk))

/-- It raises a trap when its own part does. -/
theorem raises_of_trap {i : Instr} {cl : Clauses} {need : Need} {body : Nat → Nat → Act → State → Res}
    {ok : Nat → Act → State → Prop} {t : Nat → Act → State → Trap} (hi : ∀ s, exec i s = run i cl need noPre body s)
    (hb : ∀ s c aid, ok c (s.act aid) s → body c aid (s.act aid) s = .trap (t c (s.act aid) s)) :
    Raises i cl (fun _ => need) ok t :=
  fun s c aid h hk => (hi s).trans (run_trap h rfl (hb s c aid hk))

/-- The offset of a vector access counts registers of 64 bytes (R158). -/
theorem offVec_eq (base : Word64) (imm : BitVec 16) :
    offVec base imm = base + (imm.extractLsb' 5 11).signExtend 64 * 64 := by
  rw [offVec, BitVec.shiftLeft_eq_mul_twoPow]
  rfl

/-- The low five bits of an immediate name a vector load's tag. -/
theorem extractLsb'_tag (imm : BitVec 16) : imm.extractLsb' 0 5 = BitVec.ofNat 5 (imm.toNat % 32) := by
  apply BitVec.eq_of_toNat_eq
  simp

/-- A block word that a tag without one would hold is legal. -/
theorem bwOk_of_plain {t : Nat} (h : tagBlock t = false) (bw : BitVec 32) : bwOk t bw = true := by
  obtain ⟨hs, hb⟩ := Bool.or_eq_false_iff.mp h
  simp [bwOk, hs, hb]

section
variable {x : Act} {imm : BitVec 16} {c : BitVec 6}

/-- A vector load under a tag that R65 lists, with a legal block word where the tag has one (R158). -/
theorem vloadFormat_ok (ht : tagKnown (imm.toNat % 32) = true)
    (hw : tagBlock (imm.toNat % 32) = true → bwOk (imm.toNat % 32) ((x.s c.toNat).setWidth 32) = true) :
    vloadFormat x imm c =
      .ok (imm.extractLsb' 0 5, if tagBlock (imm.toNat % 32) then (x.s c.toNat).setWidth 32 else 0) := by
  have hb : bwOk (imm.toNat % 32) (if tagBlock (imm.toNat % 32) then (x.s c.toNat).setWidth 32 else 0) = true := by
    split
    · next h => exact hw h
    · next h => exact bwOk_of_plain (Bool.eq_false_iff.mpr h) 0
  simp only [vloadFormat, ht, hb, extractLsb'_tag]
  rfl

theorem vloadFormat_plain (ht : tagKnown (imm.toNat % 32) = true) (hn : tagBlock (imm.toNat % 32) = false) :
    vloadFormat x imm c = .ok (imm.extractLsb' 0 5, 0) := by
  rw [vloadFormat_ok ht fun h => absurd (hn.symm.trans h) Bool.false_ne_true, hn]
  rfl

theorem vloadFormat_block (ht : tagKnown (imm.toNat % 32) = true) (hn : tagBlock (imm.toNat % 32) = true)
    (hw : bwOk (imm.toNat % 32) ((x.s c.toNat).setWidth 32) = true) :
    vloadFormat x imm c = .ok (imm.extractLsb' 0 5, (x.s c.toNat).setWidth 32) := by
  rw [vloadFormat_ok ht fun _ => hw, hn]
  rfl

/-- A vector store under no bound register writes the register's bytes under its mask (R159). -/
theorem vstoreData_plain {v : VReg} {mask : Word64} (h : imm.getLsbD 4 = false) :
    vstoreData x v mask imm = .ok (natToBytes 64 v.data.toNat, storeMask mask v.tag.toNat, 0) := by
  simp only [vstoreData, boundField, h, Bool.false_eq_true, if_false]
  rfl

theorem vstoreFormat_plain {v : VReg} (h : imm.getLsbD 4 = false) : vstoreFormat v imm = none := by
  simp only [vstoreFormat, boundField, h, Bool.false_eq_true, if_false]

/-- Under a bound register elements of the five accepted formats are stored (R54). -/
theorem vstoreFormat_accepted {v : VReg} (h : tagFloat v.tag.toNat = true ∨ tagFp8 v.tag.toNat = true) :
    vstoreFormat v imm = none := by
  unfold vstoreFormat
  split
  · rfl
  · exact if_pos (Bool.or_eq_true_iff.mpr h)

/-- The elements that a store under the bound register of its immediate leaves, and how many are out of range (R54). -/
abbrev Act.bounded (x : Act) (v : VReg) (mask : Word64) (imm : BitVec 16) : List Nat × Nat :=
  boundElems (x.bound (imm.toNat % 16)) v.tag.toNat mask (elems v.data (tagWidth v.tag.toNat) (512 / tagWidth v.tag.toNat))

section
variable {v : VReg} {mask : Word64} (hi : imm.getLsbD 4 = true)
include hi

theorem vstoreData_unchecked (hm : (x.bound (imm.toNat % 16)).mode = 0) :
    vstoreData x v mask imm = .ok (natToBytes 64 v.data.toNat, storeMask mask v.tag.toNat, 0) := by
  simp only [vstoreData, boundField, hi, if_true, hm]
  rfl

/-- In the modes flag and clamp the store goes on. -/
theorem vstoreData_bounded (hm : (x.bound (imm.toNat % 16)).mode = 1 ∨ (x.bound (imm.toNat % 16)).mode = 2) :
    vstoreData x v mask imm = .ok (natToBytes 64 (vecOf (tagWidth v.tag.toNat) (x.bounded v mask imm).1).toNat,
      storeMask mask v.tag.toNat, (x.bounded v mask imm).2) := by
  have h0 : (x.bound (imm.toNat % 16)).mode ≠ 0 := by rcases hm with h | h <;> rw [h] <;> decide
  have h3 : (x.bound (imm.toNat % 16)).mode ≠ 3 := by rcases hm with h | h <;> rw [h] <;> decide
  simp only [vstoreData, boundField, hi, if_true, h0, if_false, h3, false_and]
  rfl

/-- In trap mode an element out of range stops it. -/
theorem vstoreData_traps (hm : (x.bound (imm.toNat % 16)).mode = 3) (hc : (x.bounded v mask imm).2 ≠ 0) :
    vstoreData x v mask imm = .error (mkTrap cBOUND (imm.toNat % 16)) := by
  have h0 : (x.bound (imm.toNat % 16)).mode ≠ 0 := by rw [hm]; decide
  simp only [vstoreData, boundField, hi, if_true, h0, if_false]
  exact if_pos (And.intro hm hc)

end

/-- A store that found every element in range leaves its bound register and owes no record. -/
theorem State.boundSticky_zero (s : State) (aid n : Nat) : s.boundSticky aid n 0 = s := if_pos rfl

theorem Act.boundOwed_zero (x : Act) (n : Nat) : x.boundOwed n 0 = none := if_neg fun h => h.2 rfl

theorem State.boundDone_zero (s : State) (aid n op : Nat) (w : BitVec 32) : s.boundDone aid n op 0 w = s := by
  rw [State.boundDone, State.boundSticky_zero, Act.boundOwed_zero]
  rfl

end

/-! ## Scalar accesses (R156, R157) -/

/-- Bytes written without a mask are all written. -/
theorem wordBytes64_mask (n : Nat) (x : Word64) : (wordBytes64 n x).map (fun _ => true) = List.replicate n true := by
  rw [wordBytes64, List.map_const', natToBytes_length]

/-- Settles O7, word by word. -/
theorem localScalarAccessCompletes : Obligations.LocalScalarAccessCompletes := by
  unfold Obligations.LocalScalarAccessCompletes
  refine ⟨fun mod d a c imm p cl => ?_, fun mod d a c imm cl => ?_⟩
  · refine ⟨completes_of_go (fun _ => exec_ldl ..) fun s k aid ⟨hm, hp, hb, hq⟩ => ?_,
      fun q => completes_of_go (fun _ => exec_ldl ..) fun s k aid ⟨hm, hp, hb, hq⟩ => ?_,
      completes_of_go (fun _ => exec_stl ..) fun s k aid ⟨hm, hp, hb⟩ => ?_⟩
    · simp only [sizeOf, offImm, Act.lmCheck_ok hm hp, hb, hq]
      rfl
    · simp only [sizeOf, offImm, Act.lmCheck_ok hm hp, hb, hq]
      rfl
    · simp only [sizeOf, offImm, Act.lmCheck_ok hm hp, hb, wordBytes64_mask]
      rfl
  · refine ⟨completes_of_go (fun _ => exec_ldq ..) fun s k aid ⟨hm, hl, hh⟩ => ?_,
      completes_of_go (fun _ => exec_stq ..) fun s k aid ⟨hm, hl, hh⟩ => ?_,
      completes_of_go (fun _ => exec_vldq ..) fun s k aid ⟨⟨hm, hl, hh⟩, ht, hn⟩ => ?_,
      completes_of_go (fun _ => exec_vldq ..) fun s k aid ⟨⟨hm, hl, hh⟩, ht, hn, hw⟩ => ?_,
      fun hi => completes_of_go (fun _ => exec_vstq ..) fun s k aid ⟨hm, hl, hh⟩ => ?_⟩
    · simp only [sizeOf, offImm, Act.qsCheck_ok hm hl hh]
      rfl
    · simp only [sizeOf, offImm, Act.qsCheck_ok hm hl hh, wordBytes64_mask]
      rfl
    · simp only [vloadFormat_plain ht hn, offVec_eq, Act.qsCheck_ok hm hl hh]
      rfl
    · simp only [vloadFormat_block ht hn hw, offVec_eq, Act.qsCheck_ok hm hl hh]
      rfl
    · simp only [vstoreFormat_plain hi, vstoreData_plain hi, offVec_eq, Act.qsCheck_ok hm hl hh, State.boundSticky_zero,
        Act.boundOwed_zero]
      rfl

/-! ## Indexed accesses (R160) -/

/-- Every active element of an indexed access is accepted with its place, lowest first, when none lies outside. -/
theorem indexedOffs_places {x : Act} {op : Nat} {base : Word64} {idx : List Nat} {mask : Word64} {offs : List (Nat × Nat)}
    (h : indexedOffs x op base idx mask = .ok offs) :
    offs.map (·.1) = (List.range 16).filter (active mask 32) ∧
    ∀ o ∈ offs, x.lmAddr (base + wOfInt (sextNat (idx[o.1]?.getD 0) 32 * 4)).toNat 4 = some o.2 := by
  simp only [indexedOffs] at h
  generalize (List.range 16).filter (active mask 32) = l at h ⊢
  induction l generalizing offs with
  | nil => cases h; exact ⟨rfl, nofun⟩
  | cons i l ih =>
    rw [List.foldr_cons] at h
    split at h
    · cases h
    · next p hp =>
      split at h
      · cases h
      · next rest hr =>
        cases h
        obtain ⟨hm, ho⟩ := ih hr
        exact ⟨congrArg (i :: ·) hm, fun o hmem => (List.mem_cons.mp hmem).elim (fun e => e ▸ hp) (ho o)⟩

/-- None of the places is busy. -/
theorem any_of_all_not {α : Type} {l : List α} {f : α → Bool} (h : l.all (fun a => !f a) = true) : l.any f = false := by
  rwa [← List.not_any_eq_all_not, Bool.not_eq_true'] at h

/-! ## Vector accesses (R158..R160, R172) -/

/-- Settles O8: the stores by what `vstoreData` answers in each mode of the bound register, the others by their checks. -/
theorem localVectorAccessCompletes : Obligations.LocalVectorAccessCompletes := by
  unfold Obligations.LocalVectorAccessCompletes
  refine ⟨fun mod d a b c imm p cl => ?_, fun mod a c imm p cl hi => ?_, fun mod d a b c imm cl offs => ?_⟩
  · refine ⟨completes_of_go (fun _ => exec_vldl ..) fun s k aid ⟨ht, hw, hm, hp, hb, hq⟩ => ?_,
      fun q => completes_of_go (fun _ => exec_vldl ..) fun s k aid ⟨ht, hn, hm, hp, hb, hq⟩ => ?_,
      fun hi => completes_of_go (fun _ => exec_vstl ..) fun s k aid ⟨hm, hp, hb⟩ => ?_,
      completes_of_go (fun _ => exec_zerol ..) fun s k aid ⟨hm, hl, hc, hz, hp, hb⟩ => ?_,
      completes_of_go (fun _ => exec_zerol ..) fun s k aid ⟨hm, hz⟩ => ?_⟩
    · simp only [vloadFormat_ok ht hw, offVec_eq, Act.lmCheck_ok hm hp, hb, hq]
      rfl
    · simp only [vloadFormat_plain ht hn, offVec_eq, Act.lmCheck_ok hm hp, hb, hq]
      rfl
    · simp only [vstoreFormat_plain hi, vstoreData_plain hi, offVec_eq, Act.lmCheck_ok hm hp, hb, State.boundDone_zero]
      rfl
    · simp only [hm, hl, ne_eq, not_true, or_self, if_false, Nat.not_lt.mpr hc, hz, hp, hb, List.map_replicate]
      rfl
    · simp only [hm, hz]
      rfl
  · refine ⟨completes_of_go (fun _ => exec_vstl ..) fun s k aid ⟨⟨hf, hm, hp, hb⟩, ho⟩ => ?_,
      completes_of_go (fun _ => exec_vstl ..) fun s k aid ⟨⟨hf, hm, hp, hb⟩, ho⟩ => ?_,
      completes_of_go (fun _ => exec_vstq ..) fun s k aid ⟨hf, hm, hl, hh, ho⟩ => ?_,
      raises_of_trap (fun _ => exec_vstl ..) fun s k aid ⟨⟨hf, hm, hp, hb⟩, ho, hc⟩ => ?_⟩
    · simp only [vstoreFormat_accepted hf, vstoreData_bounded hi ho, offVec_eq, Act.lmCheck_ok hm hp, hb]
      rfl
    · simp only [vstoreFormat_accepted hf, vstoreData_unchecked hi ho, offVec_eq, Act.lmCheck_ok hm hp, hb, State.boundDone_zero]
      rfl
    · simp only [vstoreFormat_accepted hf, vstoreData_bounded hi ho, offVec_eq, Act.qsCheck_ok hm hl hh]
      rfl
    · simp only [vstoreFormat_accepted hf, vstoreData_traps hi ho hc, offVec_eq, Act.lmCheck_ok hm hp]
  · refine ⟨completes_of_go (fun _ => exec_vgathl ..) fun s k aid ⟨hb, ht, hm, ho, hf⟩ => ?_,
      completes_of_go (fun _ => exec_vscatl ..) fun s k aid ⟨hb, hc, hm, ho, hf⟩ => ?_, fun x h => indexedOffs_places h⟩
    · have hg : ¬ (imm.toNat % 32 ≠ 0 ∧ imm.toNat % 32 ≠ 4 ∧ imm.toNat % 32 ≠ 6) := by simpa [or_iff_not_imp_left] using ht
      simp only [hg, if_false, VReg.t, hb, hm, ho, any_of_all_not hf]
      rw [← extractLsb'_tag]
      rfl
    · have hd : ¬ (((s.act aid).v c.toNat).tag.toNat ≠ 0 ∧ tagWidth ((s.act aid).v c.toNat).tag.toNat ≠ 32) :=
        fun ⟨h0, hw⟩ => hc.elim (fun h => h0 (congrArg BitVec.toNat h)) hw
      simp only [hd, if_false, VReg.t, hb, hm, ho, any_of_all_not hf]
      rfl

end Sys2Proof.Machine
end

section
/-! Loads and stores of device memory, capabilities, fences and cache control (R48, R50, R152, R153, R156..R159, R166..R170). -/
namespace Sys2Proof.Machine

/-! ## Loads of device memory (R50, R156, R158) -/

/-- The line that a core's cache has for its loads is the one that the context with the port finds. -/
theorem State.Holds.portLine {s : State} {k aid : Nat} (h : s.Holds k aid) (line : Nat) :
    s.portLine k line = s.l1Find k aid line := by
  rw [State.portLine, h.portAct]

section
variable {s : State} {k aid p n : Nat} {x : Act} {e : OtcEntry} {kd : ReqKind} {o : Op} {r : Nat → Req} {l : L1Line}

/-- A load whose line the cache does not have goes to its home. -/
theorem loadIssue_home (h : (s.addOp o).2.l1Find (r (s.addOp o).1).core (r (s.addOp o).1).act ((r (s.addOp o).1).addr / 64) = none) :
    loadIssue s o r = .go (request s o r) := by
  simp only [loadIssue, h]
  rfl

/-- A load whose line the cache has is answered there. -/
theorem loadIssue_cached
    (h : (s.addOp o).2.l1Find (r (s.addOp o).1).core (r (s.addOp o).1).act ((r (s.addOp o).1).addr / 64) = some l) :
    loadIssue s o r = .go (request s o (fun q =>
      { r q with performed := some { data := (l.data.drop ((r q).addr % 64)).take (r q).bytes } })) := by
  simp only [loadIssue, h]
  rfl

/-- Using a translation and starting an operation leave the line that a load of the context finds. -/
theorem State.Holds.l1Find_started (h : s.Holds k aid) (o : Op) (line : Nat) :
    ((s.touch k e).addOp o).2.l1Find k aid line = s.portLine k line :=
  (State.l1Find_touch ..).trans (h.portLine line).symm

end

/-- Settles O9: a load by whether its line is cached, a store by what `vstoreData` answers. -/
theorem deviceAccessCompletes : Obligations.DeviceAccessCompletes := by
  unfold Obligations.DeviceAccessCompletes
  refine ⟨fun mod d a b c imm e p l cl => ?_, fun mod a b c imm e p cl => ?_⟩
  · refine ⟨fun ho => ⟨fun s k aid h ⟨hr, hl⟩ => (exec_ld ..).trans (run_go h rfl ?_),
        fun s k aid h ⟨hr, hl⟩ => (exec_ld ..).trans (run_go h rfl ?_)⟩,
      fun ho => completes_of_go (fun _ => exec_ld ..) fun s k aid hr => ?_,
      fun s k aid h ⟨ht, hn, hr, hl⟩ => (exec_vld ..).trans (run_go h rfl ?_),
      fun s k aid h ⟨hb, hw, ht, hr, hl⟩ => (exec_vld ..).trans (run_go h rfl ?_)⟩
    · simp only [sizeOf, offImm, ho, Bool.false_eq_true, if_false, State.devCheck_ok hr]
      exact loadIssue_home ((h.holds.l1Find_started ..).trans hl)
    · simp only [sizeOf, offImm, ho, Bool.false_eq_true, if_false, State.devCheck_ok hr]
      exact loadIssue_cached ((h.holds.l1Find_started ..).trans hl)
    · simp only [sizeOf, ho, if_true, State.devCheck_ok hr]
      rfl
    · simp only [vloadFormat_plain ht hn, offVec_eq, State.devCheck_ok hr]
      exact loadIssue_home ((h.holds.l1Find_started ..).trans hl)
    · simp only [vloadFormat_block ht hb hw, offVec_eq, State.devCheck_ok hr]
      exact loadIssue_cached ((h.holds.l1Find_started ..).trans hl)
  · refine ⟨completes_of_go (fun _ => exec_st ..) fun s k aid hr => ?_,
      fun hi => completes_of_go (fun _ => exec_vst ..) fun s k aid hr => ?_,
      fun hi => completes_of_go (fun _ => exec_vst ..) fun s k aid ⟨hf, hr, hm⟩ => ?_⟩
    · simp only [sizeOf, offImm, State.devCheck_ok hr, wordBytes64_mask, natToBytes_length]
      rfl
    · simp only [vstoreFormat_plain hi, vstoreData_plain hi, offVec_eq, State.devCheck_ok hr, State.boundSticky_zero,
        Act.boundOwed_zero, natToBytes_length]
      rfl
    · simp only [vstoreFormat_accepted hf, vstoreData_bounded hi hm, offVec_eq, State.devCheck_ok hr, natToBytes_length]
      rfl

/-! ## Capabilities (R167..R169) -/

/-- The byte of a capability that holds its rights and its reserved bit. -/
theorem cgetValue_rights (k : KReg) : cgetValue k 2 = (k.bits.extractLsb' 96 8).setWidth 64 := by
  apply BitVec.eq_of_toNat_eq
  simp [cgetValue, w64, Nat.shiftRight_eq_div_pow]

/-- The rights that CNARROW keeps are those of the low seven bits of its immediate. -/
theorem extractLsb'_rights (imm : BitVec 16) : (imm.extractLsb' 0 7).toNat = imm.toNat % 128 := by simp

/-- CNARROW narrows a capability that is valid and covers the range that it asks for (R168). -/
theorem cnarrow_completes (d a b c : BitVec 6) (imm : BitVec 16) (cl : Clauses) :
    Completes (.cnarrow d a b c imm cl) cl plainNeed
      (fun _ x _ => (x.k a.toNat).valid = true ∧ (x.k a.toNat).reserved = false
        ∧ (x.k a.toNat).lo + (x.s b.toNat).toNat + (x.s c.toNat).toNat ≤ (x.k a.toNat).hi)
      (fun _ _ x s => writeK s d.toNat (KReg.make (x.k a.toNat).object ((x.k a.toNat).rights &&& imm.toNat % 128)
        ((x.k a.toNat).lo + (x.s b.toNat).toNat + (x.s c.toNat).toNat) ((x.k a.toNat).lo + (x.s b.toNat).toNat) true)) :=
  completes_of_body (fun _ => exec_cnarrow ..) fun s k aid ⟨hv, hr, hh⟩ => by
    simp only [hv, hr, Nat.not_lt.mpr hh]
    rfl

/-- CGET reads what `cgetValue` gives for its mod. -/
theorem cget_writes {mod : BitVec 4} {d a : BitVec 6} {cl : Clauses} {v : Act → Word64}
    (hv : ∀ x : Act, cgetValue (x.k a.toNat) mod.toNat = v x) : WritesS (.cget mod d a cl) cl 1 d v :=
  completes_of_body (fun _ => exec_cget ..) fun s _ aid _ => by rw [hv (s.act aid)]; rfl

/-! ## Cache control (R170) -/

/-- A line that is requested ahead comes to the cache that the request names: what is pending there comes first. -/
theorem State.lineAhead_home {s : State} {k p : Nat} {e : OtcEntry} (hw : e.path ≠ .window) :
    s.lineAhead k true e p = (s.touch k e).mcRead (e.addr p / 64) := by
  simp only [State.lineAhead, hw, if_false, if_true]

theorem State.lineAhead_core {s : State} {k p : Nat} {e : OtcEntry} (hw : e.path ≠ .window)
    (hf : ∀ r ∈ (s.touch k e).reqs, r.2.addr / 64 = e.addr p / 64 → r.2.performed ≠ none ∨ r.2.arrived = 0) :
    s.lineAhead k false e p = ((s.touch k e).applyLine (e.addr p / 64)).l1Fill k (e.addr p / 64) := by
  have hn : (s.touch k e).reqs.any (fun r => r.2.addr / 64 == e.addr p / 64 && r.2.performed == none
      && decide (r.2.arrived ≠ 0)) = false := by
    rw [List.any_eq_false]
    intro r hr hb
    simp only [Bool.and_eq_true, beq_iff_eq, decide_eq_true_eq] at hb
    obtain ⟨⟨ha, hp⟩, hz⟩ := hb
    exact (hf r hr ha).elim (fun h => h hp) hz
  simp only [State.lineAhead, hw, if_false, hn]
  rfl

/-- Settles O10, word by word. -/
theorem capabilityFenceCacheComplete : Obligations.CapabilityFenceCacheComplete := by
  unfold Obligations.CapabilityFenceCacheComplete
  refine ⟨fun mod d a b c imm e p cl => ?_, fun mod a b imm e p cl => ?_⟩
  · refine ⟨completes_of_go (fun _ => exec_cld ..) fun s k aid hr => ?_,
      completes_of_go (fun _ => exec_cst ..) fun s k aid hr => ?_,
      ?_,
      raises_of_trap (fun _ => exec_cnarrow ..) fun s k aid hv => ?_,
      raises_of_trap (fun _ => exec_cnarrow ..) fun s k aid ⟨hv, hr⟩ => ?_,
      raises_of_trap (fun _ => exec_cnarrow ..) fun s k aid ⟨hv, hr, hh⟩ => ?_,
      cget_writes fun _ => rfl, cget_writes fun _ => rfl, cget_writes fun _ => cgetValue_rights _, cget_writes fun _ => rfl,
      cget_writes fun _ => rfl, cget_writes fun _ => rfl, cget_writes fun _ => rfl, cget_writes fun _ => rfl,
      completes_of_go (fun _ => exec_csetc ..) fun _ _ _ _ => rfl,
      completes_of_go (fun _ => exec_movk ..) fun s k aid _ => ?_, completes_of_go (fun _ => exec_movk ..) fun s k aid _ => ?_⟩
    · simp only [offImm, State.devCheck_ok hr]
      rfl
    · simp only [offImm, State.devCheck_ok hr, List.map_const', natToBytes_length]
      rfl
    · simp only [extractLsb'_rights]
      exact cnarrow_completes d a b c imm cl
    · simp only [hv]
      rfl
    · simp only [hv, hr]
      rfl
    · simp only [hv, hr, hh]
      rfl
    · simp only [show ((0 : BitVec 4) != 1) = true from rfl, Bool.and_true]
      rfl
    · simp only [bne_self_eq_false, Bool.and_false]
      rfl
  · refine ⟨fun o ho hi => completes_of_go (fun _ => exec_fence ..) fun s k aid _ => ?_,
      completes_of_go (fun _ => exec_pfetch ..) fun s k aid ⟨t, ht⟩ => ?_,
      completes_of_go (fun _ => exec_pfetch ..) fun s k aid ⟨hc, t, ht⟩ => ?_,
      completes_of_go (fun _ => exec_pfetch ..) fun s k aid ⟨hc, hl⟩ => ?_,
      completes_of_go (fun _ => exec_pfetch ..) fun s k aid ⟨hc, hl, hw⟩ => ?_,
      completes_of_go (fun _ => exec_pfetch ..) fun s k aid ⟨hc, hl, hw, hf⟩ => ?_,
      completes_of_go (fun _ => exec_cinv ..) fun _ _ _ _ => rfl,
      completes_of_go (fun _ => exec_cinv ..) fun s k aid hl => ?_,
      completes_of_go (fun _ => exec_cinv ..) fun s k aid hl => ?_⟩
    · obtain rfl | rfl | rfl : o = 1 ∨ o = 2 ∨ o = 3 := by simpa using ho
      all_goals
        simp only [hi]
        rfl
    · simp only [ht]
      rfl
    · simp only [hc, ht]
      rfl
    · simp only [hc, hl]
      rfl
    · simp only [hc, hl]
      exact congrArg _ (State.lineAhead_home hw)
    · simp only [hc, hl]
      exact congrArg _ (State.lineAhead_core hw hf)
    · simp only [hl]
      rfl
    · simp only [hl]
      rfl

end Sys2Proof.Machine
end

section
/-! The faults of loads, stores, atomics, gathers and scatters, in their order (R48, R54, R152, R158..R160, R168, R172). -/
namespace Sys2Proof.Machine

/-! ## Accesses of device memory (R48, R152) -/

section
variable {s : State} {c kn need op n atom p : Nat} {x : Act} {o : Word64} {write : Bool}

/-- Rights that a capability does not hold, or a reserved bit of it that is set, raise CAPRIGHTS. -/
theorem capCheck_unentitled {k : KReg} (hv : k.valid = true) (hr : ¬ (k.reserved = false ∧ hasRights k.rights need = true)) :
    capCheck k kn need op o n = .error (mkTrap cCAPRIGHTS (kn + need * 256)) := by
  have h : (k.reserved || !hasRights k.rights need) = true := by
    cases hk : k.reserved
    · simpa [hk] using hr
    · rfl
  simp only [capCheck, hv, h]
  rfl

/-- Bytes outside its bounds raise CAPBOUND. -/
theorem capCheck_outside {k : KReg} (hv : k.valid = true) (hr : k.reserved = false ∧ hasRights k.rights need = true)
    (hb : ¬ (0 ≤ o.toInt ∧ (k.lo : Int) + o.toInt + n ≤ k.hi)) :
    capCheck k kn need op o n = .error (mkTrap cCAPBOUND (op * 256) o) := by
  have h : (k.lo : Int) + o.toInt < k.lo ∨ (k.hi : Int) < k.lo + o.toInt + n := by omega
  simp only [capCheck, hv, hr.1, hr.2]
  exact if_pos h

theorem State.devCheck_error {t : Trap} (h : capCheck (x.k kn) kn need op o n = .error t) :
    s.devCheck c x kn need op o n write atom = .error (.trap t) := by
  simp only [State.devCheck, h]

/-- A place that the capability grants: the byte of the object that an access of n bytes begins at. -/
structure Act.Granted (x : Act) (kn need : Nat) (o : Word64) (n p : Nat) : Prop where
  valid : (x.k kn).valid = true
  rights : (x.k kn).reserved = false ∧ hasRights (x.k kn).rights need = true
  range : 0 ≤ o.toInt ∧ ((x.k kn).lo : Int) + o.toInt + n ≤ (x.k kn).hi
  place : (p : Int) = (x.k kn).lo + o.toInt

theorem Act.Granted.capCheck (h : x.Granted kn need o n p) : capCheck (x.k kn) kn need op o n = .ok p := by
  rw [capCheck_ok h.valid h.rights.1 h.rights.2 h.range.1 h.range.2, ← h.place, Int.toNat_natCast]

theorem State.devCheck_misaligned (h : x.Granted kn need o n p) (ha : p % n ≠ 0) :
    s.devCheck c x kn need op o n write atom = .error (.trap (mkTrap cMISALIGN op (BitVec.ofNat 64 p))) := by
  simp only [State.devCheck, h.capCheck]
  exact if_pos ha

theorem State.devCheck_fault {t : Trap} (h : x.Granted kn need o n p) (ha : p % n = 0)
    (hl : s.lookup c x.part { object := (x.k kn).object, offset := p, bytes := n, write := write, atom := atom } = .fault t) :
    s.devCheck c x kn need op o n write atom = .error (.trap t) := by
  simp only [State.devCheck, h.capCheck, ha, hl]
  rfl

/-- A translation that the core does not hold makes the word wait for a walk. -/
theorem State.devCheck_miss (h : x.Granted kn need o n p) (ha : p % n = 0)
    (hl : s.lookup c x.part { object := (x.k kn).object, offset := p, bytes := n, write := write, atom := atom } = .miss) :
    s.devCheck c x kn need op o n write atom = .error (.wait (.walk (x.k kn).object p n write atom)) := by
  simp only [State.devCheck, h.capCheck, ha, hl]
  rfl

end

/-- A word that answers what the checks of its access find, once its own operands are accepted, raises their faults in order. -/
theorem accessOrder_of_devCheck {i : Instr} {cl : Clauses} {waits : Need} {op kn need n atom : Nat} {write : Bool}
    {o : Act → Word64} {accepted : Act → Prop} {body : Nat → Nat → Act → State → Res}
    (hi : ∀ s, exec i s = run i cl waits noPre body s)
    (hb : ∀ s c aid r, accepted (s.act aid) →
      s.devCheck c (s.act aid) kn need op (o (s.act aid)) n write atom = .error r → body c aid (s.act aid) s = r) :
    AccessOrder i cl waits op kn need n write atom o accepted := by
  refine ⟨raises_of_trap hi fun s c aid ⟨ha, hv⟩ => hb s c aid _ ha (State.devCheck_error (capCheck_invalid hv)),
    raises_of_trap hi fun s c aid ⟨ha, hv, hr⟩ => hb s c aid _ ha (State.devCheck_error (capCheck_unentitled hv hr)),
    raises_of_trap hi fun s c aid ⟨ha, hv, hr, ho⟩ => hb s c aid _ ha (State.devCheck_error (capCheck_outside hv hr ho)),
    fun p => ⟨raises_of_trap hi fun s c aid ⟨⟨⟨ha, hv, hr, ho⟩, hp⟩, hn⟩ =>
        hb s c aid _ ha (State.devCheck_misaligned ⟨hv, hr, ho, hp⟩ hn),
      fun t => raises_of_trap hi fun s c aid ⟨⟨⟨ha, hv, hr, ho⟩, hp⟩, hn, hl⟩ =>
        hb s c aid _ ha (State.devCheck_fault ⟨hv, hr, ho, hp⟩ hn hl),
      fun s c aid h ⟨⟨ha, hv, hr, ho⟩, hp⟩ hn hl => ?_⟩⟩
  rw [hi, run_clear h rfl, hb s c aid _ ha (State.devCheck_miss ⟨hv, hr, ho, hp⟩ hn hl)]

/-! ## Accesses of local memory and the scratchpad (R152) -/

theorem localOrder_of_lmCheck {i : Instr} {cl : Clauses} {op n : Nat} {o : Act → Word64} {accepted : Act → Prop}
    {body : Nat → Nat → Act → State → Res} (hi : ∀ s, exec i s = run i cl { memWord := true } noPre body s)
    (hb : ∀ s c aid t, accepted (s.act aid) → (s.act aid).lmCheck op (o (s.act aid)) n n = .error t →
      body c aid (s.act aid) s = .trap t) :
    LocalOrder i cl op 1 n o accepted :=
  ⟨raises_of_trap hi fun s c aid ⟨ha, hn⟩ => hb s c aid _ ha (Act.lmCheck_misaligned hn),
    raises_of_trap hi fun s c aid ⟨ha, hn, hp⟩ => hb s c aid _ ha (Act.lmCheck_outside hn hp)⟩

theorem Act.qsCheck_outside {x : Act} {op : Nat} {o : Word64} {n al : Nat} (h1 : o.toNat % al = 0)
    (h2 : o.toNat < x.qsBase ∨ x.qsBase + x.qsLen < o.toNat + n) :
    x.qsCheck op o n al = .error (mkTrap cCAPBOUND (2 + op * 256) o) := by
  have h : x.qsOk o.toNat n = false := by
    simp only [Act.qsOk, Bool.and_eq_false_iff, decide_eq_false_iff_not]
    omega
  simp only [Act.qsCheck, h1, h]
  rfl

theorem localOrder_of_qsCheck {i : Instr} {cl : Clauses} {op n : Nat} {o : Act → Word64} {accepted : Act → Prop}
    {body : Nat → Nat → Act → State → Res} (hi : ∀ s, exec i s = run i cl { memWord := true } noPre body s)
    (hb : ∀ s c aid t, accepted (s.act aid) → (s.act aid).qsCheck op (o (s.act aid)) n n = .error t →
      body c aid (s.act aid) s = .trap t) :
    LocalOrder i cl op 2 n o accepted :=
  ⟨raises_of_trap hi fun s c aid ⟨ha, hn⟩ => hb s c aid _ ha (Act.qsCheck_misaligned hn),
    raises_of_trap hi fun s c aid ⟨ha, hn, hp⟩ => hb s c aid _ ha (Act.qsCheck_outside hn hp)⟩

/-! ## Capabilities from their fields (R47, R168) -/

section
variable (object rights hi lo : Nat) (valid : Bool)

/-- The fields of a capability lie side by side in its bits. -/
theorem KReg.make_bits : (KReg.make object rights hi lo valid).bits.toNat =
    object % 2 ^ 24 * 2 ^ 104 + rights % 128 * 2 ^ 96 + hi % 2 ^ 48 * 2 ^ 48 + lo % 2 ^ 48 := by
  rw [KReg.make, BitVec.toNat_ofNat, Nat.mod_eq_of_lt]
  omega

theorem KReg.make_object : (KReg.make object rights hi lo valid).object = object % 2 ^ 24 := by
  rw [KReg.object, KReg.make_bits]
  omega

theorem KReg.make_rights : (KReg.make object rights hi lo valid).rights = rights % 128 := by
  rw [KReg.rights, KReg.make_bits]
  omega

theorem KReg.make_hi : (KReg.make object rights hi lo valid).hi = hi % 2 ^ 48 := by
  rw [KReg.hi, KReg.make_bits]
  omega

theorem KReg.make_lo : (KReg.make object rights hi lo valid).lo = lo % 2 ^ 48 := by
  rw [KReg.lo, KReg.make_bits]
  omega

theorem KReg.make_reserved : (KReg.make object rights hi lo valid).reserved = false := by
  have h : (KReg.make object rights hi lo valid).bits.toNat / 2 ^ 103 % 2 = 0 := by
    rw [KReg.make_bits]
    omega
  rw [KReg.reserved, BitVec.getLsbD, Nat.testBit_eq_decide_div_mod_eq, h]
  rfl

end

/-- A capability narrowed to a range within its own, with the rights of a mask among its own, is of the same object and lies
within it (R168). -/
theorem KReg.narrowed_within {k : KReg} {off len : Nat} (m : Nat) (h : k.lo + off + len ≤ k.hi) :
    let v := KReg.make k.object (k.rights &&& m) (k.lo + off + len) (k.lo + off) true
    v.object = k.object ∧ v.rights &&& k.rights = v.rights ∧ v.rights &&& m = v.rights ∧ k.lo ≤ v.lo ∧ v.lo + len = v.hi
      ∧ v.hi ≤ k.hi := by
  have ho : k.object < 2 ^ 24 := by have := k.bits.isLt; simp only [KReg.object]; omega
  have hr : k.rights &&& m < 128 := Nat.lt_of_le_of_lt Nat.and_le_left (Nat.mod_lt _ (by decide))
  have hh : k.hi < 2 ^ 48 := Nat.mod_lt _ (by decide)
  simp only [KReg.make_object, KReg.make_rights, KReg.make_hi, KReg.make_lo, Nat.mod_eq_of_lt ho, Nat.mod_eq_of_lt hr]
  refine ⟨trivial, ?_, ?_, by omega, by omega, by omega⟩
  · rw [Nat.and_right_comm, Nat.and_self]
  · rw [Nat.and_assoc, Nat.and_self]

/-! ## Formats (R54, R158..R160) -/

section
variable {x : Act} {imm : BitVec 16} {c : BitVec 6} {v : VReg}

theorem vloadFormat_reserved (h : tagKnown (imm.toNat % 32) = false) :
    vloadFormat x imm c = .error (mkTrap cFORMAT (imm.toNat % 32 + 3 * 32)) := by
  simp only [vloadFormat, h]
  rfl

/-- A block word with a reserved bit raises FORMAT. -/
theorem vloadFormat_illegal (ht : tagKnown (imm.toNat % 32) = true) (hb : tagBlock (imm.toNat % 32) = true)
    (hw : bwOk (imm.toNat % 32) ((x.s c.toNat).setWidth 32) = false) :
    vloadFormat x imm c = .error (mkTrap cFORMAT (imm.toNat % 32 + 4 * 32)) := by
  simp only [vloadFormat, ht, hb, if_true, hw]
  rfl

/-- A store under no bound register, or of elements that its check accepts, raises no FORMAT. -/
theorem vstoreFormat_none (h : imm.getLsbD 4 = true → tagFloat v.tag.toNat = true ∨ tagFp8 v.tag.toNat = true) :
    vstoreFormat v imm = none := by
  cases hi : imm.getLsbD 4
  · exact vstoreFormat_plain hi
  · exact vstoreFormat_accepted (h hi)

theorem vstoreFormat_refused (h : ¬ (imm.getLsbD 4 = true → tagFloat v.tag.toNat = true ∨ tagFp8 v.tag.toNat = true)) :
    vstoreFormat v imm = some (mkTrap cFORMAT (v.tag.toNat + 2 * 32)) := by
  obtain ⟨hi, hf⟩ := Classical.not_imp.mp h
  simp only [vstoreFormat, boundField, hi, if_true]
  exact if_neg fun hb => hf (Bool.or_eq_true_iff.mp hb)

end

/-- A vector load raises FORMAT for a reserved tag, and for a block word with a reserved bit (R158). -/
theorem vload_formats {i : Instr} {cl : Clauses} {c : BitVec 6} {imm : BitVec 16} {body : Nat → Nat → Act → State → Res}
    (hi : ∀ s, exec i s = run i cl { memWord := true } noPre body s)
    (hb : ∀ s k aid t, vloadFormat (s.act aid) imm c = .error t → body k aid (s.act aid) s = .trap t) :
    Raises i cl memNeed (fun _ _ _ => tagKnown (imm.toNat % 32) = false)
      (fun _ _ _ => mkTrap cFORMAT (imm.toNat % 32 + 3 * 32)) ∧
    Raises i cl memNeed (fun _ x _ => tagKnown (imm.toNat % 32) = true ∧ tagBlock (imm.toNat % 32) = true
        ∧ bwOk (imm.toNat % 32) ((x.s c.toNat).setWidth 32) = false)
      (fun _ _ _ => mkTrap cFORMAT (imm.toNat % 32 + 4 * 32)) :=
  ⟨raises_of_trap hi fun s k aid ht => hb s k aid _ (vloadFormat_reserved ht),
    raises_of_trap hi fun s k aid ⟨ht, hn, hw⟩ => hb s k aid _ (vloadFormat_illegal ht hn hw)⟩

/-! ## Indexed accesses (R160) -/

section
variable {x : Act} {op : Nat} {base : Word64} {mask : Word64}

/-- The first active element that lies outside is the one that an indexed access reports. -/
theorem indexedOffs_outside {idx : List Nat} {j : Nat}
    (h : ((List.range 16).filter (active mask 32)).find?
      (fun i => decide (x.lmAddr (base + wOfInt (sextNat (idx[i]?.getD 0) 32 * 4)).toNat 4 = none)) = some j) :
    indexedOffs x op base idx mask =
      .error (mkTrap cCAPBOUND (1 + op * 256) (base + wOfInt (sextNat (idx[j]?.getD 0) 32 * 4))) := by
  simp only [indexedOffs]
  generalize (List.range 16).filter (active mask 32) = l at h ⊢
  induction l with
  | nil => cases h
  | cons i l ih =>
    rw [List.foldr_cons]
    split
    · next hn =>
      rw [List.find?_cons_of_pos (by exact decide_eq_true hn)] at h
      cases h
      rfl
    · next q hq =>
      rw [List.find?_cons_of_neg (by rw [decide_eq_true_eq, hq]; exact nofun)] at h
      rw [ih h]

/-- A register of another tag is not one of 32-bit integers. -/
theorem t_ne_of_tag {v : VReg} (h : v.tag ≠ 4) : v.t ≠ 4 := fun ht => h (BitVec.eq_of_toNat_eq ht)

theorem t_eq_of_tag {v : VReg} (h : v.tag = 4) : v.t = 4 := congrArg BitVec.toNat h

/-- An element of a register is at its place in the list of its elements. -/
theorem elems_getD {v : BitVec 512} {w n i : Nat} (h : i < n) : (elems v w n)[i]?.getD 0 = elem v w i := by
  simp [elems, h]

/-- The tags that a gather gives its result (R160). -/
theorem gather_accepts {t : Nat} (h : t = 0 ∨ t = 4 ∨ t = 6) : ¬ (t ≠ 0 ∧ t ≠ 4 ∧ t ≠ 6) := by omega

/-- The registers that a scatter stores: raw, or of 32-bit elements. -/
theorem scatter_refuses {v : VReg} : (v.t ≠ 0 ∧ tagWidth v.t ≠ 32) ↔ ¬ (v.tag = 0 ∨ tagWidth v.tag.toNat = 32) := by
  rw [not_or, VReg.t, ← BitVec.toNat_inj]
  rfl

theorem scatter_accepts {v : VReg} (h : v.tag = 0 ∨ tagWidth v.tag.toNat = 32) :
    ¬ (v.t ≠ 0 ∧ tagWidth v.t ≠ 32) := fun hn => scatter_refuses.mp hn h

/-- The same by the element's number: it is active and outside, and no element below it is. -/
theorem indexedOffs_lowest {v : BitVec 512} {j : Nat}
    (hj : j < 16 ∧ mask.getLsbD (4 * j) = true ∧ x.lmAddr (base + BitVec.ofInt 64 (sextNat (elem v 32 j) 32 * 4)).toNat 4 = none)
    (hl : ∀ m < j, ¬ (m < 16 ∧ mask.getLsbD (4 * m) = true
      ∧ x.lmAddr (base + BitVec.ofInt 64 (sextNat (elem v 32 m) 32 * 4)).toNat 4 = none)) :
    indexedOffs x op base (elems v 32 16) mask =
      .error (mkTrap cCAPBOUND (1 + op * 256) (base + BitVec.ofInt 64 (sextNat (elem v 32 j) 32 * 4))) := by
  have hout : ∀ m < 16, (active mask 32 m = true ∧ decide (x.lmAddr
      (base + wOfInt (sextNat ((elems v 32 16)[m]?.getD 0) 32 * 4)).toNat 4 = none) = true) ↔
      mask.getLsbD (4 * m) = true ∧ x.lmAddr (base + BitVec.ofInt 64 (sextNat (elem v 32 m) 32 * 4)).toNat 4 = none :=
    fun m hm => by
      rw [elems_getD hm, decide_eq_true_eq, Nat.mul_comm 4 m]
      rfl
  obtain ⟨hn, hj⟩ := hj
  rw [indexedOffs_outside (j := j), elems_getD hn]
  · rfl
  · rw [List.find?_filter, List.find?_range_eq_some]
    refine ⟨decide_eq_true ((hout j hn).mpr hj), List.mem_range.mpr hn, fun m hm => ?_⟩
    have hm16 : m < 16 := by omega
    rw [Bool.not_eq_true', Bool.eq_false_iff]
    exact fun h => hl m hm ⟨hm16, (hout m hm16).mp (of_decide_eq_true h)⟩

end

/-! ## The words -/

/-- An atomic raises the faults of its access in order. -/
theorem atomic_order {i : Instr} {cl : Clauses} {d a b : BitVec 6} {imm : BitVec 16} {n sub op : Nat} {y new : Act → Word64}
    {need : Need} (ho : opcodeOf i = op)
    (hi : ∀ s, exec i s = run i cl need noPre (fun c aid x s => atomicRes s c aid x i cl d a b imm n sub (y x) (new x)) s) :
    AccessOrder i cl need op a.toNat (atomRights (scopeOf imm)) n true (atomClass op n (scopeOf imm)) (fun x => x.s b.toNat)
      (fun _ => True) :=
  accessOrder_of_devCheck hi fun s c aid r _ h => by simp only [atomicRes, ho, h]

/-- Settles O57: an access's faults by `accessOrder_of_devCheck` and its local forms, the others by the checks of each word. -/
theorem accessFaultsAndNarrowing : Obligations.AccessFaultsAndNarrowing := by
  unfold Obligations.AccessFaultsAndNarrowing
  refine ⟨fun mod d a b c imm cl => ?_, ?_, ?_, ?_⟩
  · refine ⟨localOrder_of_lmCheck (fun _ => exec_ldl ..) fun s k aid t _ h => ?_,
      localOrder_of_lmCheck (fun _ => exec_stl ..) fun s k aid t _ h => ?_,
      localOrder_of_qsCheck (fun _ => exec_ldq ..) fun s k aid t _ h => ?_,
      localOrder_of_qsCheck (fun _ => exec_stq ..) fun s k aid t _ h => ?_,
      localOrder_of_lmCheck (fun _ => exec_vldl ..) fun s k aid t ⟨ht, hw⟩ h => ?_,
      localOrder_of_lmCheck (fun _ => exec_vstl ..) fun s k aid t hf h => ?_,
      localOrder_of_qsCheck (fun _ => exec_vldq ..) fun s k aid t ⟨ht, hw⟩ h => ?_,
      localOrder_of_qsCheck (fun _ => exec_vstq ..) fun s k aid t hf h => ?_,
      accessOrder_of_devCheck (fun _ => exec_ld ..) fun s k aid r _ h => ?_,
      accessOrder_of_devCheck (fun _ => exec_st ..) fun s k aid r _ h => ?_,
      accessOrder_of_devCheck (fun _ => exec_vld ..) fun s k aid r ⟨ht, hw⟩ h => ?_,
      accessOrder_of_devCheck (fun _ => exec_vst ..) fun s k aid r hf h => ?_,
      accessOrder_of_devCheck (fun _ => exec_cld ..) fun s k aid r _ h => ?_,
      accessOrder_of_devCheck (fun _ => exec_cst ..) fun s k aid r _ h => ?_,
      atomic_order rfl fun s => exec_aadd .., atomic_order rfl fun s => exec_alog .., atomic_order rfl fun s => exec_amnx ..,
      atomic_order rfl fun s => exec_aswp .., atomic_order rfl fun s => exec_acas .., atomic_order rfl fun s => exec_afadd ..,
      accessOrder_of_devCheck (fun _ => exec_waitmem ..) fun s k aid r _ h => ?_,
      atomic_order rfl fun s => exec_signal ..,
      ?_, ?_, ?_, ?_, ?_, ?_⟩
    · simp only [sizeOf, offImm, h]
    · simp only [sizeOf, offImm, h]
    · simp only [sizeOf, offImm, h]
    · simp only [sizeOf, offImm, h]
    · simp only [vloadFormat_ok ht hw, offVec_eq, h]
    · simp only [vstoreFormat_none hf, offVec_eq, h]
    · simp only [vloadFormat_ok ht hw, offVec_eq, h]
    · simp only [vstoreFormat_none hf, offVec_eq, h]
    · simp only [sizeOf, offImm, h]
    · simp only [sizeOf, offImm, h]
    · simp only [vloadFormat_ok ht hw, offVec_eq, h]
    · simp only [vstoreFormat_none hf, offVec_eq, h]
    · simp only [offImm, h]
    · simp only [offImm, h]
    · simp only [atomSize, h]
    · exact vload_formats (fun _ => exec_vldl ..) fun s k aid t h => by simp only [h]
    · exact vload_formats (fun _ => exec_vldq ..) fun s k aid t h => by simp only [h]
    · exact vload_formats (fun _ => exec_vld ..) fun s k aid t h => by simp only [h]
    · exact raises_of_trap (fun _ => exec_vstl ..) fun s k aid h => by simp only [vstoreFormat_refused h]
    · exact raises_of_trap (fun _ => exec_vstq ..) fun s k aid h => by simp only [vstoreFormat_refused h]
    · exact raises_of_trap (fun _ => exec_vst ..) fun s k aid h => by simp only [vstoreFormat_refused h]
  · intro mod d a b c imm j cl
    refine ⟨fun hg => raises_of_trap (fun _ => exec_vgathl ..) fun s k aid _ => ?_,
      fun hg => raises_of_trap (fun _ => exec_vgathl ..) fun s k aid hb => ?_,
      raises_of_trap (fun _ => exec_vscatl ..) fun s k aid hb => ?_,
      raises_of_trap (fun _ => exec_vscatl ..) fun s k aid ⟨hb, hc⟩ => ?_,
      fun hg => ⟨raises_of_trap (fun _ => exec_vgathl ..) fun s k aid ⟨hb, hm⟩ => ?_,
        raises_of_trap (fun _ => exec_vgathl ..) fun s k aid ⟨hb, hm, ho, hl⟩ => ?_⟩,
      raises_of_trap (fun _ => exec_vscatl ..) fun s k aid ⟨⟨hb, hc⟩, hm⟩ => ?_,
      raises_of_trap (fun _ => exec_vscatl ..) fun s k aid ⟨⟨hb, hc⟩, hm, ho, hl⟩ => ?_⟩
    · exact if_pos (by omega)
    · simp only [if_neg (gather_accepts hg)]
      exact if_pos (t_ne_of_tag hb)
    · exact if_pos (t_ne_of_tag hb)
    · simp only [t_eq_of_tag hb, ne_eq, not_true, if_false]
      exact if_pos (scatter_refuses.mpr hc)
    · simp only [if_neg (gather_accepts hg), t_eq_of_tag hb, ne_eq, not_true, if_false]
      exact if_pos hm
    · simp only [if_neg (gather_accepts hg), t_eq_of_tag hb, hm, indexedOffs_lowest ho hl]
      rfl
    · simp only [t_eq_of_tag hb, ne_eq, not_true, if_neg (scatter_accepts hc), if_false]
      exact if_pos hm
    · simp only [t_eq_of_tag hb, ne_eq, not_true, if_neg (scatter_accepts hc), if_false, hm, indexedOffs_lowest ho hl]
  · intro a b cl
    refine ⟨raises_of_trap (fun _ => exec_zerol ..) fun s k aid hm => ?_,
      raises_of_trap (fun _ => exec_zerol ..) fun s k aid ⟨hm, hl⟩ => ?_,
      raises_of_trap (fun _ => exec_zerol ..) fun s k aid ⟨hm, hl, hr⟩ => ?_⟩
    · simp only [if_pos hm]
      exact if_pos (.inl hm)
    · have hz : ((s.act aid).s a.toNat).toNat % 64 = 0 := hm
      simp only [hz]
      exact if_pos (.inr hl)
    · have hz : ((s.act aid).s a.toNat).toNat % 64 = 0 := hm
      have hn : ((s.act aid).s b.toNat).toNat % 64 = 0 := hl
      by_cases hc : 65536 < ((s.act aid).s b.toNat).toNat
      · simp only [hz, hn, hc]
        rfl
      · obtain ⟨h0, hp⟩ := hr.resolve_left hc
        simp only [hz, hn, hc, h0, hp]
        rfl
  · intro d a b c imm cl s h aid x k hc hv hr hh
    obtain ⟨ho, hrk, hri, hlo, hlen, hhi⟩ := KReg.narrowed_within (imm.toNat % 128) hh
    exact ⟨KReg.make k.object (k.rights &&& imm.toNat % 128) (k.lo + (x.s b.toNat).toNat + (x.s c.toNat).toNat)
        (k.lo + (x.s b.toNat).toNat) true, cnarrow_completes d a b c imm cl s h aid hc ⟨hv, hr, hh⟩, rfl, ho, KReg.make_reserved ..,
      hrk, hri, hlo, hlen, hhi⟩

end Sys2Proof.Machine
end

section
/-! Vector compares, selection, moves between vectors and masks, the bound test and clamp (R54, R181..R183, R192). -/
namespace Sys2Proof.Machine

/-- The flags that the active elements of a compare raise. -/
theorem foldl_flags_active {α : Type} (on : α → Bool) (f : α → Bool × BitVec 5) (l : List α) (g : BitVec 5) :
    (l.map (fun i => if on i then f i else (false, 0))).foldl (fun g r => g ||| r.2) g =
      (l.filter on).foldl (fun g i => g ||| (f i).2) g := by
  induction l generalizing g with
  | nil => rfl
  | cons i l ih =>
    cases h : on i
    · rw [List.filter_cons_of_neg (by simp [h]), List.map_cons, List.foldl_cons, ih]
      simp [h]
    · rw [List.filter_cons_of_pos h, List.map_cons, List.foldl_cons, ih]
      simp [h]

/-- An element that is not active compares false. -/
theorem map_fst_active {α : Type} (on : α → Bool) (f : α → Bool × BitVec 5) (l : List α) :
    (l.map (fun i => if on i then f i else (false, 0))).map (·.1) = l.map (fun i => on i && (f i).1) := by
  rw [List.map_map]
  exact List.map_congr_left fun i _ => by cases h : on i <;> simp [h]

/-- The width at which a register is masked, by its tag (R56). -/
theorem maskWidth_eq (t : Nat) : maskWidth t = if t = 0 ∨ tagWidth t = 0 then 8 else tagWidth t := by
  unfold maskWidth
  by_cases h0 : t = 0
  · subst h0; rfl
  · simp only [h0, false_or]

/-- Integers and the floating-point formats that R181 compares. -/
theorem comparable_of {t : Nat} (h : tagInt t = true ∨ tagFloat t = true ∨ tagFp8 t = true) :
    (arithTag t || tagFp8 t) = true := by
  simpa [arithTag, or_assoc] using h

/-- Settles O15, word by word. -/
theorem vectorMaskWords : Obligations.VectorMaskWords := by
  unfold Obligations.VectorMaskWords
  intro mod d a b c cl
  refine ⟨completes_of_body (fun _ => exec_vcmp ..) fun s k aid ⟨ht, hb, hi⟩ => ?_,
    completes_of_body (fun _ => exec_vsel ..) fun s k aid ⟨hb, hw⟩ => ?_,
    completes_of_body (fun _ => exec_vmovp ..) fun _ _ _ _ => rfl,
    completes_of_body (fun _ => exec_vmovp ..) fun _ _ _ _ => rfl,
    completes_of_body (fun _ => exec_vbnd ..) fun s k aid hf => ?_,
    completes_of_body (fun _ => exec_vbnd ..) fun s k aid hf => ?_⟩
  · have hv : ((s.act aid).v b.toNat).t = ((s.act aid).v a.toNat).t := congrArg BitVec.toNat hb
    have hg : ¬ (tagInt ((s.act aid).v a.toNat).t = true ∧ 6 ≤ mod.toNat) :=
      fun ⟨hn, h6⟩ => Bool.false_ne_true ((hi h6).symm.trans hn)
    have hok : tagsFault (fun t => arithTag t || tagFp8 t) ((s.act aid).v a.toNat).t [(1, ((s.act aid).v a.toNat).t)] = none :=
      tagsFault_ok (comparable_of ht) (by simp)
    simp only [hv, hok, hg, if_false, map_fst_active, foldl_flags_active]
    rfl
  · have hg : ¬ (tagBlock ((s.act aid).v a.toNat).t = true ∧ ((s.act aid).v a.toNat).bw ≠ ((s.act aid).v b.toNat).bw) :=
      fun ⟨ht, hn⟩ => hn (hw ht)
    simp only [hb, ne_eq, not_true, if_false, hg, maskWidth_eq]
    rfl
  · have hb : (tagFloat ((s.act aid).v a.toNat).t || tagFp8 ((s.act aid).v a.toNat).t) = true := Bool.or_eq_true_iff.mpr hf
    simp only [hb]
    rfl
  · have hb : (tagFloat ((s.act aid).v a.toNat).t || tagFp8 ((s.act aid).v a.toNat).t) = true := Bool.or_eq_true_iff.mpr hf
    simp only [hb]
    rfl

end Sys2Proof.Machine
end

section
/-! The copy commands of one range, waits on the engine and its control, MOULD and TMARK (R45, R46, R244..R249, R253..R255,
R268..R270, R274..R277, R331, R343). -/
namespace Sys2Proof.Machine

/-! ## Copies of one range (R268..R270) -/

theorem ringOf_lt (imm : BitVec 16) : ringOf imm < 16 := Nat.mod_lt _ (by decide)

theorem chanOf_lt (imm : BitVec 16) : chanOf imm < 16 := Nat.mod_lt _ (by decide)

theorem lineNum_lt (imm : BitVec 16) : lineNum imm < 16 := Nat.mod_lt _ (by decide)

section
variable {s : State} {x : Act} {n : Nat} {others : List Nat}

/-- A channel, ring or line that is not granted raises COPY with reason 1 (R255). -/
theorem grantFault_ungranted (h : x.granted n = false) : grantFault x (n :: others) = some (copyTrap n 1 0) := by
  rw [grantFault, List.find?_cons_of_pos (by rw [h]; rfl)]
  rfl

theorem engineFault_ungranted (h : x.granted n = false) : engineFault s x n others = some (copyTrap n 1 0) := by
  rw [engineFault, grantFault_ungranted h]

/-- COPY's detail for a number below 16 has it in its low bits (R255). -/
theorem copyTrap_eq (h : n < 16) (reason cause : Nat) :
    copyTrap n reason cause = mkTrap cCOPY (n + reason * 256 + cause * 2 ^ 16) := by
  rw [copyTrap, Nat.mod_eq_of_lt h]

end

/-- A copy of one device range whose fields are sound, and the COPY that it raises on a channel that was not granted. -/
theorem rangeCopy_moves {i : Instr} {cl : Clauses} {mod : BitVec 4} {d a b : BitVec 6} {imm : BitVec 16} {p base : Nat}
    {sound : Nat → Act → State → Prop} {dev loc own : Act → Nat} {what : Act → Xfer} {body : Nat → Nat → Act → State → Res}
    (hi : ∀ s, exec i s = run i cl {} noPre body s)
    (hb : ∀ s k aid, s.MayCopy (s.act aid) (chanOf imm) (dirRing mod imm).toList → sound k (s.act aid) s →
      inStage s (s.act aid) mod.toNat (loc (s.act aid)) (own (s.act aid)) (ringOf imm) = true →
      body k aid (s.act aid) s = rangeRes s k aid (s.act aid) i cl d a (chanOf imm) mod.toNat (dirRing mod imm)
        ((s.act aid).s b.toNat) (dev (s.act aid)) (loc (s.act aid)) (own (s.act aid)) (what (s.act aid)))
    (hf : ∀ s k aid t, engineFault s (s.act aid) (chanOf imm) (dirRing mod imm).toList = some t →
      body k aid (s.act aid) s = .trap t) :
    Completes i cl plainNeed
      (fun k x s => s.MayCopy x (chanOf imm) (dirRing mod imm).toList ∧ sound k x s
        ∧ inStage s x mod.toNat (loc x) (own x) (ringOf imm) = true
        ∧ devRange x a.toNat (dirRights mod.toNat) (opcodeOf i) (x.s b.toNat) (dev x) = .ok p
        ∧ localBase s x (opcodeOf i) mod.toNat (loc x) (own x) ((dirRing mod imm).getD 0) = .ok base)
      (fun k aid x s => accepted s k aid x i cl d (chanOf imm)
        { cap := x.k a.toNat, off := p, dir := mod.toNat, loc := base, what := what x, ring := dirRing mod imm }) ∧
    Raises i cl plainNeed (fun _ x _ => x.granted (chanOf imm) = false)
      (fun _ _ _ => mkTrap cCOPY (chanOf imm + 0x100)) := by
  refine ⟨completes_of_body hi fun s k aid ⟨hm, hs, hin, hdev, hbase⟩ => ?_, raises_of_body hi fun s k aid hn => ?_⟩
  · simp only [hb s k aid hm hs hin, rangeRes, hdev, hbase]
    exact acceptRes_mayCopy hm ..
  · rw [hf s k aid _ (engineFault_ungranted hn), copyTrap_eq (chanOf_lt imm)]
    rfl

/-- A command that reads a descriptor raises what its grants and its channel find. -/
theorem withDesc_fault {s : State} {k aid opcode n : Nat} {x : Act} {c : BitVec 6} {others : List Nat} {t : Trap}
    (h : engineFault s x n others = some t) (f : List Word64 → Res) : withDesc s k aid x opcode c n others f = .trap t := by
  simp only [withDesc, h]

/-- The whole bytes that hold a number of bits. -/
theorem cdiv_eight (a : Nat) : cdiv a 8 = (a + 7) / 8 := rfl

theorem dirOut_iff {mod : BitVec 4} : (mod = 2 ∨ mod = 3) ↔ (mod.toNat = 2 ∨ mod.toNat = 3) := by
  rw [← BitVec.toNat_inj, ← BitVec.toNat_inj]
  rfl

/-- Settles O25: each command by `rangeCopy_moves`. -/
theorem rangeCopiesComplete : Obligations.RangeCopiesComplete := by
  unfold Obligations.RangeCopiesComplete
  intro mod d a b c imm ws p base cl
  refine ⟨rangeCopy_moves (fun _ => exec_cpy ..) (fun s k aid hm ⟨hr, ho, hl, hn⟩ hin => ?_) (fun s k aid t h => ?_),
    rangeCopy_moves (fun _ => exec_cpyt ..) (fun s k aid hm ⟨hb, hw, hr, hz, ht⟩ hin => ?_) (fun s k aid t h => withDesc_fault h _),
    rangeCopy_moves (fun _ => exec_cpyw ..) (fun s k aid hm ⟨hb, hw, h1, h2, h3, h4, h5, h6, h7, h8, h9, h10, h11, h12⟩ hin => ?_)
      (fun s k aid t h => withDesc_fault h _)⟩
  · simp only [engineFault_mayCopy hm, hin, hr, ho, hl, hn, ne_eq, not_true_eq_false, Bool.true_eq_false, or_self, if_false]
  · simp only [h]
  · have htw : ¬ (4 * 2 ^ bits (ws[0]?.getD 0) 57 56 = 4 ∧ (bits (ws[0]?.getD 0) 43 32 + 1) % 2 = 1) := fun ⟨hw4, hodd⟩ =>
      absurd ((ht hw4).symm.trans hodd) (by decide)
    simp only [withDesc_ok hm hb hw, dbits]
    by_cases ho : mod.toNat = 2 ∨ mod.toNat = 3
    · simp only [if_pos ho] at hin
      simp only [if_pos ho, if_pos (dirOut_iff.mpr ho)]
      exact if_neg (by simp only [hr, hz, htw, cdiv_eight, hin, ne_eq, not_true_eq_false, Bool.true_eq_false, or_self,
        not_false_eq_true])
    · simp only [if_neg ho] at hin
      simp only [if_neg ho, if_neg (mt dirOut_iff.mp ho)]
      exact if_neg (by simp only [hr, hz, htw, hin, ne_eq, not_true_eq_false, Bool.true_eq_false, or_self, not_false_eq_true])
  · simp only [withDesc_ok hm hb hw, dbits]
    exact if_neg (by simp only [h1, h2, h3, h4, h5, h6, Nat.not_lt.mpr h7, h8, h9, h10, h11, h12, hin, ne_eq, not_true_eq_false,
      Bool.true_eq_false, or_self, not_false_eq_true])

/-! ## Waits on the engine (R245, R249, R253, R274..R276) -/

section
variable {s : State} {x : Act} {q n : Nat}

theorem grantFault_granted (h : x.granted n = true) : grantFault x [n] = none := by
  rw [grantFault, List.find?_cons_of_neg (by rw [h]; exact Bool.false_ne_true)]
  rfl

/-- Counters of the engine are compared modulo 2^32. -/
theorem sub32_toNat (a b : BitVec 32) : sub32 a.toNat b.toNat = (a - b).toNat := by
  rw [sub32, BitVec.toNat_sub, Nat.mod_eq_of_lt b.isLt]
  congr 1
  omega

theorem passed_iff {a b : BitVec 32} : passed a.toNat b.toNat = true ↔ 1 ≤ (a - b).toNat ∧ (a - b).toNat ≤ 2 ^ 31 := by
  rw [passed, sub32_toNat, Bool.and_eq_true, decide_eq_true_eq, decide_eq_true_eq]

/-- A wait for a transfer is cut short by its channel's fault when the transfer is the faulted one or a later one (R253). -/
def State.cutShort (s : State) (q n : Nat) (id : BitVec 32) : Prop :=
  id ≠ 0 ∧ (s.chan q n).faulted = true ∧ (id - (s.chan q n).fid).toNat < 2 ^ 31

theorem cpState_done {id : BitVec 32}
    (h : id = 0 ∨ (¬ s.cutShort q n id ∧ 1 ≤ ((s.chan q n).wm - id).toNat ∧ ((s.chan q n).wm - id).toNat ≤ 2 ^ 31)) :
    s.cpState q n id = some (.ok []) := by
  by_cases h0 : id = 0
  · simp only [State.cpState, h0, if_true]
  · obtain ⟨hc, hd⟩ := h.resolve_left h0
    have hf : ¬ ((s.chan q n).faulted = true ∧ sub32 id.toNat (s.chan q n).fid.toNat < 2 ^ 31) := by
      rw [sub32_toNat]
      exact fun hf => hc ⟨h0, hf⟩
    simp only [State.cpState, h0, if_false, hf, passed_iff.mpr hd, if_true]

theorem cpState_cut {id : BitVec 32} (h : s.cutShort q n id) :
    s.cpState q n id = some (.error (copyTrap n 4 (s.chan q n).cause.toNat)) := by
  obtain ⟨h0, hf, hc⟩ := h
  have hf : (s.chan q n).faulted = true ∧ sub32 id.toNat (s.chan q n).fid.toNat < 2 ^ 31 := by
    rw [sub32_toNat]
    exact ⟨hf, hc⟩
  simp only [State.cpState, h0, if_false, hf, and_self, if_true]

/-- A fill that is complete gives its stage's offset and generation (R275). -/
theorem stgState_filled {fill : BitVec 32} {d : BitVec 6}
    (hf : 1 ≤ ((s.ring q n).f - fill).toNat ∧ ((s.ring q n).f - fill).toNat ≤ 2 ^ 31)
    (hb : (s.ring q n).badFills.find? (fun b => b.1 == fill) = none) :
    s.stgState q n fill d.toNat = some (.ok (if d = 0 then [] else
      [wS d.toNat (w64 ((s.ring q n).stageOff (fill.toNat % (s.ring q n).stages) % 2 ^ 22
        + (sparseGet 0 (s.ring q n).gen (fill.toNat % (s.ring q n).stages)).toNat * 2 ^ 32))])) := by
  have hd : (d.toNat = 0) = (d = 0) := propext (BitVec.toNat_inj (y := 0))
  simp only [State.stgState, passed_iff.mpr hf, hb, hd]
  rfl

/-- A fill that a faulted transfer left raises COPY with the channel's number (R249). -/
theorem stgState_bad {fill f : BitVec 32} {d ch cause : Nat}
    (hf : 1 ≤ ((s.ring q n).f - fill).toNat ∧ ((s.ring q n).f - fill).toNat ≤ 2 ^ 31)
    (hb : (s.ring q n).badFills.find? (fun b => b.1 == fill) = some (f, ch, cause)) :
    s.stgState q n fill d = some (.error (copyTrap ch 4 cause)) := by
  simp only [State.stgState, passed_iff.mpr hf, hb]
  rfl

theorem evState_set (hs : (s.line q n).set = true) (hb : (s.line q n).bad = false) : s.evState q n = some (.ok []) := by
  simp only [State.evState, hs, hb]
  rfl

theorem evState_bad (hs : (s.line q n).set = true) (hb : (s.line q n).bad = true) :
    s.evState q n = some (.error (copyTrap n 4 0)) := by
  simp only [State.evState, hs, hb]
  rfl

/-- A wait whose condition holds issues as a word of fixed time; one that finds a fault raises it. -/
theorem waitRes_ends {o : Op} {ws : List RegWrite} (h : s.engineWait o.kind = some (q, .ok ws)) (b : Block) :
    waitRes s o b = .go (start s { o with kind := .fixedTime ws, wide := true }) := by
  simp only [waitRes, h]
  rfl

theorem waitRes_faults {o : Op} {t : Trap} (h : s.engineWait o.kind = some (q, .error t)) (b : Block) :
    waitRes s o b = .trap t := by
  simp only [waitRes, h]

end

/-! ## Status and control (R246, R253, R254, R274..R276) -/

/-- The ids of a channel's fault and of its next transfer lie side by side (R246). -/
theorem chanValue_ids (c : Chan) : chanValue c 1 = c.fid ++ c.nx := by
  apply BitVec.eq_of_toNat_eq
  have hfid := c.fid.isLt
  have hnx := c.nx.isLt
  change (w64 (c.fid.toNat * 2 ^ 32 + c.nx.toNat)).toNat = _
  rw [BitVec.toNat_append, ← Nat.shiftLeft_add_eq_or_of_lt hnx, Nat.shiftLeft_eq, w64, BitVec.toNat_ofNat]
  exact Nat.mod_eq_of_lt (by omega)

/-- CPSTAT reads one of a channel's three registers. -/
theorem chanValue_eq {m : Nat} (h : m ≤ 2) (c : Chan) :
    chanValue c m = match (generalizing := false) m with
      | 0 => BitVec.ofNat 64 ((if c.faulted then 2 ^ 63 else 0) + c.cause.toNat * 2 ^ 48 + c.vcount.toNat * 2 ^ 32 + c.wm.toNat)
      | 1 => c.fid ++ c.nx
      | _ => c.addr.setWidth 64 := by
  obtain rfl | rfl | rfl : m = 0 ∨ m = 1 ∨ m = 2 := by omega
  · simp only [chanValue, w64]
  · exact chanValue_ids c
  · simp only [chanValue]

/-- What changes the engine of a quad that is not being halted goes on (R340). -/
theorem thawed_running {s : State} {x : Act} (h : (s.quad x.quad).halting = false) (c : Nat) (r : Res) : thawed s c x r = r := by
  rw [thawed, h]
  rfl

/-- Settles O27: the waits by what `engineWait` finds, the others by the checks of each word. -/
theorem engineControlMouldMarkComplete : Obligations.EngineControlMouldMarkComplete := by
  unfold Obligations.EngineControlMouldMarkComplete
  refine ⟨fun mod d a imm cl => ?_, fun d a imm cl => ?_⟩
  · refine ⟨?cpwait, ?cpcut, ?stgwait, fun f ch cause => ?stgbad, ?evwait, ?evbad, fun hm => ?cpstat,
      ?cpcan, ?stgrel, ?stgempty, ?stgset, ?evclr, ?evungranted⟩
    case cpwait =>
      refine completes_of_body (fun _ => exec_cpwait ..) fun s k aid ⟨hg, hd⟩ => ?_
      simp only [grantFault_granted (n := chanOf imm) hg]
      refine waitRes_ends (q := (s.act aid).quad) ?_ _
      exact congrArg (Option.map _) (cpState_done hd)
    case cpcut =>
      refine raises_of_body (fun _ => exec_cpwait ..) fun s k aid ⟨hg, hc⟩ => ?_
      simp only [grantFault_granted (n := chanOf imm) hg]
      refine (waitRes_faults (q := (s.act aid).quad) ?_ _).trans (congrArg Res.trap (copyTrap_eq (chanOf_lt imm) 4 _))
      exact congrArg (Option.map _) (cpState_cut hc)
    case stgwait =>
      refine completes_of_body (fun _ => exec_stgwait ..) fun s k aid ⟨hg, hf, hb⟩ => ?_
      simp only [grantFault_granted (n := ringOf imm) hg]
      refine waitRes_ends (q := (s.act aid).quad) ?_ _
      exact congrArg (Option.map _) (stgState_filled hf hb)
    case stgbad =>
      refine raises_of_body (fun _ => exec_stgwait ..) fun s k aid ⟨hg, hf, hb⟩ => ?_
      simp only [grantFault_granted (n := ringOf imm) hg]
      refine waitRes_faults (q := (s.act aid).quad) ?_ _
      exact congrArg (Option.map _) (stgState_bad hf hb)
    case evwait =>
      refine completes_of_body (fun _ => exec_evwait ..) fun s k aid ⟨hg, hs, hb⟩ => ?_
      simp only [grantFault_granted (n := lineNum imm) hg]
      refine waitRes_ends (q := (s.act aid).quad) ?_ _
      exact congrArg (Option.map _) (evState_set hs hb)
    case evbad =>
      refine raises_of_body (fun _ => exec_evwait ..) fun s k aid ⟨hg, hs, hb⟩ => ?_
      simp only [grantFault_granted (n := lineNum imm) hg]
      refine (waitRes_faults (q := (s.act aid).quad) ?_ _).trans (congrArg Res.trap (copyTrap_eq (lineNum_lt imm) 4 0))
      exact congrArg (Option.map _) (evState_bad hs hb)
    case cpstat =>
      refine completes_of_body (fun _ => exec_cpstat ..) fun s k aid hg => ?_
      simp only [grantFault_granted (n := chanOf imm) hg, chanValue_eq hm]
      rfl
    case cpcan =>
      refine completes_of_body (fun _ => exec_cpcan ..) fun s k aid ⟨hg, hh⟩ => ?_
      simp only [grantFault_granted (n := chanOf imm) hg, thawed_running hh]
      rfl
    case stgrel =>
      refine completes_of_body (fun _ => exec_stgrel ..) fun s k aid ⟨hg, he, hh⟩ => ?_
      simp only [grantFault_granted (n := ringOf imm) hg, thawed_running hh]
      exact if_neg he
    case stgempty =>
      refine raises_of_body (fun _ => exec_stgrel ..) fun s k aid ⟨hg, he⟩ => ?_
      simp only [grantFault_granted (n := ringOf imm) hg]
      exact if_pos he
    case stgset =>
      refine completes_of_body (fun _ => exec_stgset ..) fun s k aid ⟨hg, hr, hb, hq, hc⟩ => ?_
      simp only [grantFault_granted (n := ringOf imm) hg]
      rw [if_neg, if_neg (not_not.mpr (show (s.ring _ (ringOf imm)).commanded = (s.ring _ (ringOf imm)).f from hc))]
      · rfl
      · rintro (h | h | h)
        · exact h hr
        · exact h hb
        · exact Bool.false_ne_true (h.symm.trans hq)
    case evclr =>
      refine completes_of_body (fun _ => exec_evclr ..) fun s k aid ⟨hg, hh⟩ => ?_
      simp only [grantFault_granted (n := lineNum imm) hg, thawed_running hh]
      rfl
    case evungranted =>
      refine raises_of_body (fun _ => exec_evclr ..) fun s k aid hg => ?_
      simp only [grantFault_ungranted (n := lineNum imm) hg]
      exact congrArg Res.trap (copyTrap_eq (lineNum_lt imm) 1 0)
  · refine ⟨completes_of_body (fun _ => exec_mould ..) fun s k aid hb => ?_,
      completes_of_body (fun _ => exec_mould ..) fun s k aid hb => ?_,
      completes_of_body (fun _ => exec_mould ..) fun _ _ _ _ => rfl,
      completes_of_body (fun _ => exec_tmark ..) fun s k aid ht => ?_,
      completes_of_body (fun _ => exec_tmark ..) fun s k aid ht => ?_⟩
    · simp only [mouldValue, hb]
      rfl
    · simp only [mouldValue, hb]
      rfl
    · simp only [ht]
      rfl
    · simp only [ht]
      rfl

end Sys2Proof.Machine
end

section
/-! Tile loads, stores, row moves, saves and restores (R51, R54, R208, R216..R219). -/
namespace Sys2Proof.Machine

/-! ## Words of the unit that are memory words too -/

section
variable {i : Instr} {cl : Clauses} {body : Nat → Nat → Act → State → Res} {ok : Nat → Act → State → Prop}
  (hi : ∀ s, exec i s = run i cl { memWord := true, matrix := true } (tilePre i) body s)
  (ho : ∀ c x s, ok c x s → x.Owns (tilesNamed i))
include hi ho

/-- A move of the matrix unit on owned tiles completes when its own part issues it. -/
theorem tileMove_completes {eff : Nat → Nat → Act → State → Eff}
    (hb : ∀ s c aid, ok c (s.act aid) s → body c aid (s.act aid) s = .go (eff c aid (s.act aid) s)) :
    Completes i cl matMemNeed ok eff :=
  fun s c aid h hk => (hi s).trans (run_go h (tilePre_owned (ho c _ s hk)) (hb s c aid hk))

/-- It raises a trap when its own part does. -/
theorem tileMove_raises {t : Nat → Act → State → Trap}
    (hb : ∀ s c aid, ok c (s.act aid) s → body c aid (s.act aid) s = .trap (t c (s.act aid) s)) :
    Raises i cl matMemNeed ok t :=
  fun s c aid h hk => (hi s).trans (run_trap h (tilePre_owned (ho c _ s hk)) (hb s c aid hk))

end

/-! ## The places of a tile's rows and of an image -/

/-- Aligned rows that lie in the allocation have their offsets (R216, R217). -/
theorem rowOffs_ok {x : Act} {base stride : Word64} {w : Nat} {quad : Bool} {offs : List Nat}
    (hb : base.toNat % 64 = 0) (hs : stride.toNat % 64 = 0)
    (ho : offs = (List.range x.mr).map (fun i => (base + BitVec.ofNat 64 i * stride).toNat))
    (hin : ∀ o ∈ offs, if quad then x.qsOk o (x.nc * w) = true else (x.lmAddr o (x.nc * w)).isSome = true) (opcode : Nat) :
    rowOffs x opcode quad base stride w = .ok offs := by
  subst ho
  have hfind : ((List.range x.mr).map (fun i => base + w64 i * stride)).find? (fun o =>
      if quad then !x.qsOk o.toNat (x.nc * w) else (x.lmAddr o.toNat (x.nc * w)).isNone) = none := by
    refine List.find?_eq_none.mpr fun o ho => ?_
    have := hin o.toNat (by
      obtain ⟨i, hi, rfl⟩ := List.mem_map.mp ho
      exact List.mem_map.mpr ⟨i, hi, rfl⟩)
    cases quad <;> simp_all [Option.isSome_iff_ne_none]
  simp only [rowOffs, hb, hs, ne_eq, not_true_eq_false, if_false, hfind, List.map_map]
  rfl

theorem imageOff_local {x : Act} {o : Word64} {p : Nat} (ha : o.toNat % 64 = 0) (hp : x.lmAddr o.toNat 16448 = some p)
    (opcode : Nat) : imageOff x opcode false o = .ok p := by
  simp only [imageOff, imageBytes, ha, hp, ne_eq, not_true_eq_false, Bool.false_eq_true, if_false]

theorem imageOff_scratch {x : Act} {o : Word64} (ha : o.toNat % 64 = 0) (hp : x.qsOk o.toNat 16448 = true)
    (opcode : Nat) : imageOff x opcode true o = .ok o.toNat := by
  simp only [imageOff, imageBytes, ha, hp, ne_eq, not_true_eq_false, if_false, if_true]

/-- The formats that move I32 elements (R216, R217). -/
theorem moveI32_eq (n : Nat) : moveI32 n = decide (n = 1 ∨ n = 4 ∨ n = 5) := by simp [moveI32, Bool.or_assoc]

/-- A tile whose tag is what a format moves. -/
theorem i32_eq_moveI32 {i32 : Bool} {n : Nat} (h : i32 = true ↔ n = 1 ∨ n = 4 ∨ n = 5) : i32 = moveI32 n := by
  rw [moveI32_eq, Bool.eq_iff_iff, decide_eq_true_iff]
  exact h

theorem any_eq_false_of_forall {α : Type} {l : List α} {f : α → Bool} (h : ∀ a ∈ l, f a = false) : l.any f = false :=
  List.any_eq_false.mpr fun a ha => by simp [h a ha]

/-! ## Loads and stores (R216, R217) -/

theorem tilePoisonOf_nil (s : State) (c : Nat) : s.tilePoisonOf c [] = none := by simp [State.tilePoisonOf]

/-- A load of rows that hold no poison reads none. -/
theorem Sound.load {s : State} {g c t fmt cols : Nat} {offs : List Nat}
    (h : ∀ o ∈ offs, s.lmPoisonOf c o (cols * tileWidth fmt) = none) : s.Sound g c (.load t fmt offs cols) := by
  refine Sound.of_clean ?_ rfl
  have hf : offs.findSome? (fun p => s.lmPoisonOf c p (cols * tileWidth fmt)) = none := List.findSome?_eq_none_iff.mpr h
  simp only [State.matPoison, MatWord.reads, tilePoisonOf_nil, hf, Option.map_none]

section
variable {mod : BitVec 4} {a b r : BitVec 6} {imm : BitVec 16} {cl : Clauses} {quad : Bool} {offs : List Nat} {i : Instr}
  {s : State} {c aid : Nat} {x : Act}
  (hfmt : (s.tile c (x.tile a)).i32 = moveI32 mod.toNat)
  (hfp : imm.getLsbD 4 = true → (s.tile c (x.tile a)).i32 = false)
  (hrows : rowOffs x (opcodeOf i) quad (x.s b.toNat) (x.s r.toNat) (tileWidth mod.toNat) = .ok offs)
  (hfree : quad = false → ∀ o ∈ offs, s.lmBusy c o (x.nc * tileWidth mod.toNat) true = false)
include hfmt hfp hrows hfree

/-- A tile store whose formats agree, with its rows free, asks to enter the queue. -/
theorem storeTileRes_asks : storeTileRes s c aid x i cl mod a b r imm quad
    = matRes s c aid x i cl true [] (.store (x.tile a) mod.toNat quad offs x.nc
        (if imm.getLsbD 4 then some (imm.toNat % 16, x.bound (imm.toNat % 16)) else none)) := by
  have hf : ¬((boundField imm).isSome = true ∧ (s.tile c (x.tile a)).i32 = true) := by
    rintro ⟨hb, hi⟩
    have : imm.getLsbD 4 = true := by
      by_contra hc
      rw [boundField, if_neg hc] at hb
      exact absurd hb Bool.false_ne_true
    exact absurd hi (by simp [hfp this])
  have hany : (!quad && offs.any (fun o => s.lmBusy c o (x.nc * tileWidth mod.toNat) true)) = false := by
    cases quad with
    | true => rfl
    | false => exact any_eq_false_of_forall (hfree rfl)
  have hbound : (boundField imm).map (fun n => (n, x.bound n))
      = if imm.getLsbD 4 then some (imm.toNat % 16, x.bound (imm.toNat % 16)) else none := by
    unfold boundField
    split <;> rfl
  simp only [storeTileRes, hfmt.symm, ne_eq, not_true_eq_false, if_false, if_neg hf, hrows, hany, Bool.false_eq_true, hbound]

end

/-- A bound register in trap mode, with an element out of range and nothing before it in the queue, raises BOUND (R54, R217). -/
theorem matRes_bound {s : State} {c t n fmt cols : Nat} {x : Act} {quad : Bool} {offs : List Nat} {b : BoundReg}
    (hm : b.mode = 3) (hq : (s.core c).mqueue = []) (hp : s.tilePoisonOf c [t] = none)
    (hout : (storeRows b true (s.tile c t) fmt offs.length cols).2 ≠ 0) (aid : Nat) (i : Instr) (cl : Clauses) (mem : Bool)
    (dsts : List RegName) :
    matRes s c aid x i cl mem dsts (.store t fmt quad offs cols (some (n, b))) = .trap (mkTrap cBOUND n) := by
  have hp' : s.matPoison x.gang c (.store t fmt quad offs cols (some (n, b))) = none := by
    simp only [State.matPoison, MatWord.reads, hp]
  have hb : s.matBound c (.store t fmt quad offs cols (some (n, b))) = some (mkTrap cBOUND n) := if_pos ⟨hm, hout⟩
  simp only [matRes, hp', hq, List.isEmpty_nil, Bool.not_true, Bool.and_false, Bool.false_eq_true, if_false, hb]

/-! ## Images (R219) -/

/-- Saving a tile that holds no poison reads none. -/
theorem Sound.saveTile {s : State} {g c t a : Nat} {i32 quad : Bool} (h : s.tilePoisonOf c [t] = none) :
    s.Sound g c (.saveTile t i32 quad a) := Sound.of_clean (by simp only [State.matPoison, MatWord.reads, h]) rfl

/-- Restoring a tile from an image that has been read reads nothing more. -/
theorem Sound.restTile (s : State) (g c t : Nat) (u : Tile) : s.Sound g c (.restTile t u) :=
  Sound.of_clean (by simp only [State.matPoison, MatWord.reads, tilePoisonOf_nil]) rfl

/-- A sound image, free of poison, is restored: the tile takes its tag at issue. -/
theorem imageRes_restores {s : State} {k o : Nat} {x : Act} {quad : Bool} {u : Tile}
    (hp : (if quad then s.qsPoisonOf x.quad o 16448 else s.lmPoisonOf k o 16448) = none)
    (hu : tileFromImage (s.spaceRead x k quad o 16448) = some u) (aid : Nat) (i : Instr) (cl : Clauses) (t : Nat) :
    imageRes s k aid x i cl t quad o
      = .go (enqueue (s.tagTile k t u.i32) k (mkOp aid x i cl false true [] (.matrix k (.restTile t u)))) := by
  simp only [imageRes, imageBytes, hp, hu]
  exact matRes_sound (Sound.restTile ..) ..

/-- Settles O20: loads and stores by the rows they name, the images by the place each stands at. -/
theorem tileMovesComplete : Obligations.TileMovesComplete := by
  unfold Obligations.TileMovesComplete
  refine ⟨fun mod d a b c imm offs cl => ?moves,
    fun mod d a b c imm ls u cl => ⟨?mrowv, ?mvrow, ?msaveLocal, ?msaveScratch, ?msaveDevice, ?mrestLocal, ?mrestScratch,
      ?mrestDevice⟩⟩
  case moves =>
    intro w int rows bound stores
    have hstores : ∀ i quad, (∀ s, exec i s = run i cl { memWord := true, matrix := true } (tilePre i)
        (fun k aid x s => storeTileRes s k aid x i cl mod a b c imm quad) s) → tilesNamed i = [a] → stores i quad := by
      intro i quad hi hn
      refine ⟨tileMove_completes hi (fun _ _ _ h => hn ▸ h.1.1) fun s k aid ⟨⟨_, hf, hfp, ⟨hb, hs, ho, hin⟩, hfree⟩, hw⟩ => ?_,
        tileMove_raises hi (fun _ _ _ h => hn ▸ h.1.1)
          fun s k aid ⟨⟨_, hf, hfp, ⟨hb, hs, ho, hin⟩, hfree⟩, hbit, hm, hq, hp, hout⟩ => ?_⟩
      · exact (storeTileRes_asks (i32_eq_moveI32 hf) hfp (rowOffs_ok hb hs ho hin _) hfree).trans (matRes_sound hw ..)
      · refine (storeTileRes_asks (i32_eq_moveI32 hf) hfp (rowOffs_ok hb hs ho hin _) hfree).trans ?_
        rw [if_pos hbit]
        exact matRes_bound hm hq hp hout ..
    refine ⟨?mlda, hstores _ _ (fun _ => exec_msta ..) rfl, hstores _ _ (fun _ => exec_mstq ..) rfl⟩
    refine tileMove_completes (fun _ => exec_mlda ..) (fun _ _ _ h => h.1) fun s k aid ⟨_, ⟨hb, hs, ho, hin⟩, hfree, hp⟩ => ?_
    have hr := rowOffs_ok (quad := false) (w := tileWidth mod.toNat) hb hs ho hin 0x85
    have hany : offs.any (fun o => s.lmBusy k o ((s.act aid).nc * tileWidth mod.toNat) false) = false :=
      any_eq_false_of_forall hfree
    simp only [hr, hany, Bool.false_eq_true, if_false, matRes_sound (Sound.load hp), moveI32_eq]
    rfl
  case mrowv =>
    refine tileMove_completes (fun _ => exec_mrowv ..) (fun _ _ _ h => h.1) fun s k aid ⟨_, ht⟩ => ?_
    have ht' : ¬ ((s.act aid).v a.toNat).t ≠ tileTag (s.tile k ((s.act aid).tile d)).i32 := not_not.mpr ht
    simp only [if_neg ht']
    exact matRes_sound (Sound.of_clean (by simp only [State.matPoison, MatWord.reads, tilePoisonOf_nil]) rfl) ..
  case mvrow =>
    refine tileMove_completes (fun _ => exec_mvrow ..) (fun _ _ _ h => h.1) fun s k aid ⟨_, hp⟩ => ?_
    exact matRes_sound (Sound.of_clean (by simp only [State.matPoison, MatWord.reads, hp]) rfl) ..
  case msaveLocal =>
    refine tileMove_completes (fun _ => exec_msave ..) (fun _ _ _ h => h.1) fun s k aid ⟨_, ⟨ha, p, hl, hfree⟩, hp⟩ => ?_
    rw [if_neg (by decide)]
    simp only [BitVec.reduceBEq, imageOff_local ha hl, imageBytes, hfree, hl, Option.getD_some, Bool.false_eq_true, and_false,
      if_false]
    exact matRes_sound (Sound.saveTile hp) ..
  case msaveScratch =>
    refine tileMove_completes (fun _ => exec_msave ..) (fun _ _ _ h => h.1) fun s k aid ⟨_, ⟨ha, hl⟩, hp⟩ => ?_
    rw [if_neg (by decide)]
    simp only [BitVec.reduceBEq, imageOff_scratch ha hl, show (1 : BitVec 4) ≠ 0 from by decide, false_and, if_false]
    exact matRes_sound (Sound.saveTile hp) ..
  case msaveDevice =>
    refine tileMove_completes (fun _ => exec_msave ..) (fun _ _ _ h => h.1) fun s k aid ⟨_, hl, hq, hp⟩ => ?_
    simp only [if_true, hl, hq, ne_eq, not_true_eq_false, if_false, hp]
  case mrestLocal =>
    refine tileMove_completes (fun _ => exec_mrest ..) (fun _ _ _ h => h.1) fun s k aid ⟨_, ⟨ha, p, hl, hfree⟩, hp, hu⟩ => ?_
    rw [if_neg (by decide)]
    simp only [hl, Option.getD_some] at hp hu
    simp only [BitVec.reduceBEq, imageOff_local ha hl, imageBytes, hfree, Bool.false_eq_true, if_true, if_false]
    exact imageRes_restores (quad := false) hp hu ..
  case mrestScratch =>
    refine tileMove_completes (fun _ => exec_mrest ..) (fun _ _ _ h => h.1) fun s k aid ⟨_, ⟨ha, hl⟩, hfree, hp, hu⟩ => ?_
    rw [if_neg (by decide)]
    simp only [BitVec.reduceBEq, imageOff_scratch ha hl, hfree aid rfl, show (1 : BitVec 4) ≠ 0 from by decide,
      Bool.false_eq_true, if_false]
    exact imageRes_restores (quad := true) hp hu ..
  case mrestDevice =>
    refine tileMove_completes (fun _ => exec_mrest ..) (fun _ _ _ h => h.1) fun s k aid ⟨_, hl, hq⟩ => ?_
    simp only [if_true, hl, hq, ne_eq, not_true_eq_false, if_false]

end Sys2Proof.Machine
end

section
/-! What the matrix unit leaves in tiles, registers and memory (R51, R69..R71, R208, R213..R222). -/
namespace Sys2Proof.Machine

/-! ## Bytes and elements -/

/-- Byte `i` of a number. -/
theorem natToBytes_getElem? {n i : Nat} (h : i < n) (x : Nat) :
    (natToBytes n x)[i]? = some (BitVec.ofNat 8 (x / 2 ^ (8 * i))) := by
  induction n generalizing x i with
  | zero => omega
  | succ n ih =>
    cases i with
    | zero => simp [natToBytes]
    | succ i =>
      rw [natToBytes, List.getElem?_cons_succ, ih (by omega), Nat.div_div_eq_div_mul, Nat.mul_add, Nat.pow_add, Nat.mul_comm]

/-- Byte `m` of consecutive numbers of `w` bytes each. -/
theorem flatMap_natToBytes_getElem? (l : List Nat) {w m : Nat} (hm : m < l.length * w) :
    (l.flatMap (natToBytes w))[m]? = some (BitVec.ofNat 8 (l[m / w]?.getD 0 / 2 ^ (8 * (m % w)))) := by
  induction l generalizing m with
  | nil => simp at hm
  | cons x r ih =>
    have hw : 0 < w := by
      rcases Nat.eq_zero_or_pos w with h | h
      · simp [h] at hm
      · exact h
    rw [List.flatMap_cons, List.getElem?_append, natToBytes_length]
    split
    · next h => rw [natToBytes_getElem? h, Nat.div_eq_of_lt h, Nat.mod_eq_of_lt h]; rfl
    · next h =>
      have hge : w ≤ m := by omega
      rw [ih (by simp only [List.length_cons, Nat.add_mul] at hm; omega), ← Nat.mod_eq_sub_mod hge,
        Nat.div_eq_sub_div hw hge, List.getElem?_cons_succ]

theorem flatMap_natToBytes_length (l : List Nat) (w : Nat) : (l.flatMap (natToBytes w)).length = l.length * w := by
  induction l with
  | nil => simp
  | cons x r ih => simp [ih, natToBytes_length, Nat.add_mul, Nat.add_comm]

/-- A mask that selects every byte masks nothing. -/
theorem sparseWriteMasked_whole (bs : List Byte) (m : Sparse Byte) (a : Nat) :
    sparseWriteMasked m a bs (bs.map (fun _ => true)) = sparseWrite m a bs := by
  induction bs generalizing m a with
  | nil => rfl
  | cons b bs ih => exact ih _ _

/-- Part of what is read is what stands there. -/
theorem sparseRead_slice (m : Sparse Byte) {a n i w : Nat} (h : i + w ≤ n) :
    ((sparseRead m a n).drop i).take w = sparseRead m (a + i) w := by
  apply List.ext_getElem
  · simp [sparseRead]; omega
  · intro j h1 h2
    simp [sparseRead, Nat.add_assoc]

theorem ofElems_lt (w : Nat) (l : List Nat) : ofElems w l < 2 ^ (w * l.length) := by
  induction l with
  | nil => simp [ofElems]
  | cons x r ih =>
    have hx : x % 2 ^ w < 2 ^ w := Nat.mod_lt _ (Nat.two_pow_pos w)
    rw [ofElems, List.length_cons, Nat.mul_add, Nat.mul_one, Nat.pow_add, Nat.mul_comm (2 ^ (w * r.length))]
    calc x % 2 ^ w + 2 ^ w * ofElems w r < 2 ^ w * (ofElems w r + 1) := by rw [Nat.mul_add]; omega
      _ ≤ 2 ^ w * 2 ^ (w * r.length) := Nat.mul_le_mul_left _ ih

/-- Elements that fit a word are kept whole. -/
theorem ofNat_ofElems {w n : Nat} {l : List Nat} (h : w * l.length ≤ n) : (BitVec.ofNat n (ofElems w l)).toNat = ofElems w l :=
  Nat.mod_eq_of_lt (Nat.lt_of_lt_of_le (ofElems_lt w l) (Nat.pow_le_pow_right Nat.two_pos h))

/-- Each element of a number made of elements. -/
theorem ofElems_div (w : Nat) (l : List Nat) (i : Nat) :
    ofElems w l / 2 ^ (w * i) % 2 ^ w = l[i]?.getD 0 % 2 ^ w := by
  induction l generalizing i with
  | nil => simp [ofElems]
  | cons x r ih =>
    cases i with
    | zero => simp [ofElems, Nat.add_mul_mod_self_left]
    | succ i =>
      rw [List.getElem?_cons_succ, ← ih i, ofElems, Nat.mul_add, Nat.mul_one, Nat.add_comm (w * i), Nat.pow_add,
        ← Nat.div_div_eq_div_mul, Nat.add_mul_div_left _ _ (Nat.two_pow_pos w), Nat.div_eq_of_lt (Nat.mod_lt _ (Nat.two_pow_pos w)),
        Nat.zero_add]

/-- Element `i` of sixteen that fill a register. -/
theorem elem_vecOf {w : Nat} {l : List Nat} (h : w * l.length ≤ 512) (i : Nat) :
    elem (vecOf w l) w i = l[i]?.getD 0 % 2 ^ w := by
  rw [elem, vecOf, ofNat_ofElems h, ofElems_div]

/-- A quarter of a row, element by element. -/
theorem tileVec_elem (i32 : Bool) (f : Nat → Nat) {n : Nat} (h : n < 16) : elem (tileVec i32 f).data 32 n = f n % 2 ^ 32 := by
  rw [tileVec, elem_vecOf (by simp)]
  simp [h]

/-! ## Tiles -/

/-- A sparse list made from a function reads as the function. -/
theorem sparseGet_filterMap {f : Nat → BitVec 32} (l : List Nat) (n : Nat) :
    sparseGet 0 (l.filterMap (fun p => if f p = 0 then none else some (p, f p))) n = if n ∈ l then f n else 0 := by
  induction l with
  | nil => rfl
  | cons p r ih =>
    by_cases hp : f p = 0
    · rw [List.filterMap_cons_none (by simp [hp]), ih]
      by_cases hn : n = p
      · subst hn; simp [hp]
      · simp [hn]
    · have hcons : (p :: r).filterMap (fun p => if f p = 0 then none else some (p, f p))
          = (p, f p) :: r.filterMap (fun p => if f p = 0 then none else some (p, f p)) :=
        List.filterMap_cons_some (if_neg hp)
      rw [hcons]
      by_cases hn : n = p
      · subst hn; simp [sparseGet]
      · simp only [sparseGet, hn, if_false, ih, List.mem_cons, false_or]

/-- A tile made from its elements holds them. -/
theorem tileOf_get (i32 : Bool) (f : Nat → Nat → BitVec 32) {i j : Nat} (hi : i < 64) (hj : j < 64) :
    (tileOf i32 f).get i j = f i j := by
  have hin : 64 * i + j ∈ List.range 4096 := List.mem_range.mpr (by omega)
  have hdiv : (64 * i + j) / 64 = i := by omega
  have hmod : (64 * i + j) % 64 = j := by omega
  unfold Tile.get tileOf
  generalize List.range 4096 = l at hin ⊢
  refine (sparseGet_filterMap (f := fun p => f (p / 64) (p % 64)) l (64 * i + j)).trans ?_
  rw [if_pos hin, hdiv, hmod]

@[simp] theorem tileOf_i32 (i32 : Bool) (f : Nat → Nat → BitVec 32) : (tileOf i32 f).i32 = i32 := rfl

section
variable (s : State) (c n : Nat) (t : Tile)

@[simp] theorem State.tile_setTile_same : (s.setTile c n t).tile c n = t := by simp [State.setTile, State.tile]

theorem State.tile_setTile_other {m : Nat} (h : m ≠ n) : (s.setTile c n t).tile c m = s.tile c m := by
  simp [State.setTile, State.tile, tableGet?_tableSet_other _ _ h]

@[simp] theorem State.tile_newTile_same : (s.newTile c n t).tile c n = t := by
  simp [State.newTile, State.setTile, State.tile]

theorem State.tile_newTile_other {m : Nat} (h : m ≠ n) : (s.newTile c n t).tile c m = s.tile c m := by
  simp [State.newTile, State.setTile, State.tile, tableGet?_tableSet_other _ _ h]

end

/-! ## Contexts that leave keep every tile -/

/-- Every core keeps its tiles. -/
structure State.SameTiles (s t : State) : Prop where
  tiles : ∀ k, (t.core k).tiles = (s.core k).tiles

namespace State.SameTiles
variable {s t u : State}

theorem refl (s : State) : s.SameTiles s := ⟨fun _ => rfl⟩

/-- An update of fields that hold no core. -/
theorem aside (h : s.SameTiles t) (hu : u.cores = t.cores := by rfl) : s.SameTiles u :=
  ⟨fun n => by rw [← h.tiles n]; simp only [State.core, hu]⟩

/-- A core that keeps its tiles is written. -/
theorem setCore (h : s.SameTiles t) {c : Nat} {x : Core} (hx : x.tiles = (t.core c).tiles := by rfl) :
    s.SameTiles (t.setCore c x) := by
  refine ⟨fun n => ?_⟩
  by_cases hn : n = c
  · subst hn; rw [State.core_setCore_same, hx, h.tiles]
  · rw [State.core_setCore_other _ _ _ hn, h.tiles]

theorem setAct (h : s.SameTiles t) {a : Nat} {x : Act} : s.SameTiles (t.setAct a x) := h.aside
theorem setQuad (h : s.SameTiles t) {q : Nat} {x : Quad} : s.SameTiles (t.setQuad q x) := h.aside

theorem foldl {β : Type} {f : State → β → State} {l : List β} (h : s.SameTiles t)
    (hf : ∀ u x, s.SameTiles u → s.SameTiles (f u x)) : s.SameTiles (l.foldl f t) := by
  induction l generalizing t with
  | nil => exact h
  | cons x r ih => exact ih (hf t x h)

theorem freeSlot (h : s.SameTiles t) {c slot : Nat} : s.SameTiles (t.freeSlot c slot) := h.setCore

theorem settle (h : s.SameTiles t) {c aid : Nat} : s.SameTiles (t.settle c aid) := h.setAct.setCore

theorem departOut (h : s.SameTiles t) {aid partner partnerCore role core : Nat} :
    s.SameTiles (t.departOut aid partner partnerCore role core) := by
  simp only [State.departOut]
  split
  · exact h.settle
  · exact h.settle.setAct.freeSlot.setCore

theorem startPair (h : s.SameTiles t) {q : Nat} {e : MeetEntry} {b : MeetArr} {core : Nat} :
    s.SameTiles (t.startPair q e b core) := by
  simp only [State.startPair]
  split <;> exact h.setQuad.setCore.departOut.departOut

theorem tryPair (h : s.SameTiles t) {q : Nat} {e : MeetEntry} : s.SameTiles (t.tryPair q e) := by
  unfold State.tryPair
  split
  · exact h
  dsimp only
  split
  · exact h
  split
  · exact h
  · exact h.startPair

theorem leaveVisitor (h : s.SameTiles t) {core aid : Nat} : s.SameTiles (t.leaveVisitor core aid) := by
  simp only [State.leaveVisitor]
  split
  · exact h.setCore.foldl fun _ _ hu => hu.tryPair
  · exact h.setCore

theorem startPart (h : s.SameTiles t) {aid : Nat} {op : Option Nat} {exiting : Bool} :
    s.SameTiles (t.startPart aid op exiting) := by
  simp only [State.startPart]
  split
  · exact h
  · refine leaveVisitor (freeSlot ?_)
    split
    · split
      · exact h.setAct.setAct
      · exact h.setAct
    · exact h.setAct

theorem endActivity (h : s.SameTiles t) {aid : Nat} : s.SameTiles (t.endActivity aid) := by
  simp only [State.endActivity]
  split
  · exact h.freeSlot.aside
  · exact h.freeSlot.aside

theorem endExit (h : s.SameTiles t) {aid : Nat} : s.SameTiles (t.endExit aid) := by
  simp only [State.endExit]
  split
  · split
    · exact h.startPart
    · exact h.endActivity
  · exact h

theorem sampled (h : s.SameTiles t) {o : Op} : s.SameTiles (t.sampled o) := by
  unfold State.sampled
  split
  · exact h
  · exact h.aside

theorem finishOp (h : s.SameTiles t) {oid : Nat} {o : Op} {ws : List RegWrite} : s.SameTiles (t.finishOp oid o ws) := h.aside

theorem clearTag (h : s.SameTiles t) {oid : Nat} {o : Op} {ws : List RegWrite} : s.SameTiles (t.clearTag oid o ws) := by
  simp only [State.clearTag]
  split
  · exact (h.setCore (x := { t.core (t.act o.act).core with l1 := [] })).sampled.finishOp.endExit
  · exact h.sampled.finishOp.endExit

theorem matDone (h : s.SameTiles t) {c oid : Nat} {o : Op} {ws : List RegWrite} : s.SameTiles (t.matDone c oid o ws) :=
  h.setCore.clearTag

end State.SameTiles

theorem State.SameTiles.tile {s t : State} (h : s.SameTiles t) (c n : Nat) : t.tile c n = s.tile c n := by
  simp only [State.tile, h.tiles c]

/-- The tile that a word replaces whole, once its tag clears. -/
theorem State.tile_matDone_newTile (s : State) (c n oid : Nat) (t : Tile) (o : Op) (ws : List RegWrite) :
    ((s.newTile c n t).matDone c oid o ws).tile c n = t := by
  rw [(SameTiles.refl _).matDone.tile, State.tile_newTile_same]


/-! ## The tile that a word writes (R213, R214, R216..R222) -/

section
variable {s : State} {c d oid i j : Nat} {o : Op} {ws : List RegWrite}

/-- An element of the tile that a word leaves, whatever tag its issue has set. -/
theorem put_get {t : Tile} {b : Bool} : (((s.newTile c d { t with i32 := b }).matDone c oid o ws).tile c d).get i j = t.get i j := by
  rw [State.tile_matDone_newTile]
  rfl

variable (hi : i < 64) (hj : j < 64)
include hi hj

theorem put_tileOf {b i32 : Bool} {f : Nat → Nat → BitVec 32} :
    (((s.newTile c d { tileOf i32 f with i32 := b }).matDone c oid o ws).tile c d).get i j = f i j :=
  put_get.trans (tileOf_get i32 f hi hj)

theorem set_tileOf {i32 : Bool} {f : Nat → Nat → BitVec 32} :
    (((s.setTile c d (tileOf i32 f)).matDone c oid o ws).tile c d).get i j = f i j := by
  rw [(State.SameTiles.refl _).matDone.tile, State.tile_setTile_same, tileOf_get i32 f hi hj]

end

/-- A clamp of I32 elements compares as signed integers. -/
theorem clampElem_int (lo hi x : BitVec 32) :
    clampElem true lo hi x = if x.toInt < lo.toInt then lo else if hi.toInt < x.toInt then hi else x := by
  simp [clampElem, BitVec.slt]

/-- Sixteen elements of a vector, one by one. -/
theorem ofNat_elem (x : BitVec 512) (n : Nat) : BitVec.ofNat 32 (elem x 32 n) = x.extractLsb' (32 * n) 32 := by
  apply BitVec.eq_of_toNat_eq
  simp [elem, Nat.shiftRight_eq_div_pow]

/-- The bytes of a word of local memory, read with the words beside it. -/
theorem lmRead_word (s : State) (c off : Nat) {n k : Nat} (h : 4 * k + 4 ≤ n) :
    ((s.lmRead c off n).drop (4 * k)).take 4 = s.lmRead c (off + 4 * k) 4 := sparseRead_slice _ h

/-- An integer element of a product. -/
theorem intElem_eq (fa fb : Nat) (a b : List (Nat × Nat)) (ts : List (Nat × Nat)) (j : Nat) (v : BitVec 32) :
    intElem fa fb a b ts j v = v + BitVec.ofInt 32 ((ts.map (fun t =>
      intVal fa (a[t.1]?.getD (0, 0)).1 * intVal fb (b[t.2 * 64 + j]?.getD (0, 0)).1)).foldl (· + ·) 0) := by
  rw [intElem, List.foldl_map]

/-- An image is a tile when its tag and its reserved bytes are legal (R219). -/
theorem tileFromImage_eq (bs : List Byte) : tileFromImage bs =
    if ((bs.drop 16384).headD 0).toNat ≤ 1 ∧ (bs.drop 16385).all (· == 0) = true then
      some (tileOf (decide (((bs.drop 16384).headD 0).toNat = 1)) (fun i j =>
        BitVec.ofNat 32 (bytesToNat ((bs.drop (4 * (64 * i + j))).take 4))))
    else none := by
  have hbad : (1 < ((bs.drop 16384).headD 0).toNat ∨ ((bs.drop 16384).drop 1).any (· != 0) = true)
      ↔ ¬(((bs.drop 16384).headD 0).toNat ≤ 1 ∧ (bs.drop 16385).all (· == 0) = true) := by
    rw [List.drop_drop, not_and_or, Nat.not_le, List.any_eq_not_all_not]
    simp
  simp only [tileFromImage, hbad, ite_not]

/-! ## A tag that clears while its context runs on (R104) -/

theorem Act.putAll_sameBut (a : Act) (bank : Bool) (ws : List RegWrite) : a.SameBut (a.putAll bank ws) :=
  Act.SameBut.foldl _ (fun a w => a.sameBut_putIn bank w) ws a

theorem Act.SameBut.block {a b : Act} (h : a.SameBut b) : b.block = a.block := by obtain ⟨_, _, _, _, rfl⟩ := h; rfl

/-- A context that has not issued EXIT stays. -/
theorem State.endExit_running {s : State} {a : Nat} (h : (s.act a).block ≠ some .exit) : s.endExit a = s := by
  have hb : ((s.act a).block == some .exit) = false := by simpa using h
  simp only [State.endExit, hb, Bool.false_and, Bool.false_eq_true, if_false]

/-- What a tag that clears leaves. -/
structure State.TagCleared (s t : State) (oid : Nat) (o : Op) (ws : List RegWrite) : Prop where
  op : t.op? oid = none
  act : t.act o.act = (s.act o.act).putAll o.bank ws
  acts : ∀ h, h ≠ o.act → tableGet? t.acts h = tableGet? s.acts h
  core : ∀ k, t.core k = { s.core k with l1 := (t.core k).l1 }
  cores : ∀ h, h ≠ (s.act o.act).core → tableGet? t.cores h = tableGet? s.cores h
  quads : t.quads = s.quads
  mem : t.mem = s.mem
  tags : t.memTags = s.memTags
  poison : t.memPoison = s.memPoison

theorem State.sampled_eq (s : State) (o : Op) : s.sampled o = { s with recs := (s.sampled o).recs } := by
  unfold State.sampled
  split <;> rfl

theorem State.TagCleared.finishOp (s : State) (oid : Nat) (o : Op) (ws : List RegWrite) :
    s.TagCleared ((s.sampled o).finishOp oid o ws) oid o ws := by
  rw [State.sampled_eq]
  exact ⟨tableGet?_tableErase_same .., State.act_setAct_same .., fun h hh => tableGet?_tableSet_other _ _ hh, fun _ => rfl,
    fun _ _ => rfl, rfl, rfl, rfl, rfl⟩

/-- The L1 of the context's core may be invalidated first. -/
theorem State.TagCleared.of_l1Clear {s t : State} {oid : Nat} {o : Op} {ws : List RegWrite}
    (h : (s.l1Clear (s.act o.act).core).TagCleared t oid o ws) : s.TagCleared t oid o ws where
  op := h.op
  act := h.act
  acts := h.acts
  core k := by
    have hk := h.core k
    by_cases hc : k = (s.act o.act).core
    · subst hc
      rw [State.l1Clear, State.core_setCore_same] at hk
      exact hk
    · rw [State.l1Clear, State.core_setCore_other _ _ _ hc] at hk
      exact hk
  cores n hn := (h.cores n hn).trans (tableGet?_tableSet_other _ _ hn)
  quads := h.quads
  mem := h.mem
  tags := h.tags
  poison := h.poison

theorem State.TagCleared.endExit {s t : State} {oid : Nat} {o : Op} {ws : List RegWrite} (h : s.TagCleared t oid o ws)
    (hb : (s.act o.act).block ≠ some .exit) : t.endExit o.act = t :=
  State.endExit_running (by rw [h.act, (Act.putAll_sameBut ..).block]; exact hb)

theorem State.tagCleared {s : State} {oid : Nat} {o : Op} {ws : List RegWrite} (h : (s.act o.act).block ≠ some .exit) :
    s.TagCleared (s.clearTag oid o ws) oid o ws := by
  simp only [State.clearTag]
  split
  · have hf := (State.TagCleared.finishOp (s.l1Clear (s.act o.act).core) oid o ws).of_l1Clear
    exact (hf.endExit h).symm ▸ hf
  · have hf := State.TagCleared.finishOp s oid o ws
    exact (hf.endExit h).symm ▸ hf

/-! ## Writes of local memory and the scratchpad -/

/-- What logging lines of a core leaves: its mould grows, and a gang may become not replayable (R330..R332). -/
structure State.LogsCore (s t : State) (c : Nat) : Prop where
  core : t.core c = { s.core c with mould := (t.core c).mould, halfLines := (t.core c).halfLines }
  cores : ∀ k, k ≠ c → tableGet? t.cores k = tableGet? s.cores k
  rest : ∃ cs gs, t = { s with cores := cs, gangs := gs }

theorem State.LogsCore.refl (s : State) (c : Nat) : s.LogsCore s c := ⟨rfl, fun _ _ => rfl, _, _, rfl⟩

theorem State.LogsCore.trans {s t u : State} {c : Nat} (h : s.LogsCore t c) (k : t.LogsCore u c) : s.LogsCore u c where
  core := by rw [k.core, h.core]
  cores n hn := (k.cores n hn).trans (h.cores n hn)
  rest := by
    obtain ⟨_, _, rfl⟩ := h.rest
    exact k.rest

theorem State.LogsCore.setCore (s : State) (c : Nat) (m : List MouldEntry) (l : List (Nat × Nat)) :
    s.LogsCore (s.setCore c { s.core c with mould := m, halfLines := l }) c where
  core := by rw [State.core_setCore_same]
  cores n hn := tableGet?_tableSet_other _ _ hn
  rest := ⟨_, _, rfl⟩

theorem State.LogsCore.badMould (s : State) (c g q : Nat) : s.LogsCore (s.badMould g q) c := by
  simp only [State.badMould]
  split
  · exact ⟨rfl, fun _ _ => rfl, _, _, rfl⟩
  · exact .refl ..

theorem State.LogsCore.lmLog (s : State) (g c l : Nat) : s.LogsCore (s.lmLog g c l) c := by
  simp only [State.lmLog]
  split
  · exact .refl ..
  split
  · exact .badMould ..
  · exact .setCore ..

theorem State.LogsCore.halfLog (s : State) (g c l : Nat) : s.LogsCore (s.halfLog g c l) c := by
  simp only [State.halfLog]
  split
  · exact .refl ..
  · exact .setCore ..

theorem State.LogsCore.foldl {c : Nat} {f : State → Nat → State} (hf : ∀ (s : State) l, s.LogsCore (f s l) c) (ls : List Nat)
    (s : State) : s.LogsCore (ls.foldl f s) c := by
  induction ls generalizing s with
  | nil => exact .refl ..
  | cons l ls ih => exact (hf s l).trans (ih _)

/-- What a write of a core's local memory leaves. -/
structure State.WritesLocal (s t : State) (c : Nat) (m : Sparse Byte) : Prop where
  core : t.core c = { s.core c with
    lm := m, lmPoison := (t.core c).lmPoison, mould := (t.core c).mould, halfLines := (t.core c).halfLines }
  cores : ∀ k, k ≠ c → tableGet? t.cores k = tableGet? s.cores k
  rest : ∃ cs gs, t = { s with cores := cs, gangs := gs }

theorem State.writesLocal (s : State) (g c a : Nat) (bs : List Byte) (mask : List Bool) (whole : Bool) :
    s.WritesLocal (s.lmWrite g c a bs mask whole) c (sparseWriteMasked (s.core c).lm a bs mask) := by
  have hl := State.LogsCore.foldl (c := c)
    (f := fun (s : State) l => if l * 64 < 0x60000 then s.lmLog g c l else s.halfLog g c l)
    (fun s l => by split; exacts [.lmLog .., .halfLog ..]) (linesOf a bs.length) s
  simp only [State.lmWrite]
  generalize (linesOf a bs.length).foldl _ s = u at hl
  have hlm : (u.core c).lm = (s.core c).lm := by rw [hl.core]
  refine ⟨?_, fun n hn => (tableGet?_tableSet_other _ _ hn).trans (hl.cores n hn), ?_⟩
  · rw [State.core_setCore_same, hlm]
    rw [hl.core]
  · obtain ⟨_, _, rfl⟩ := hl.rest
    exact ⟨_, _, rfl⟩

/-- What logging lines of a quad's scratchpad leaves. -/
structure State.LogsQuad (s t : State) (q : Nat) : Prop where
  quad : t.quad q = { s.quad q with mould := (t.quad q).mould }
  rest : ∃ qs gs, t = { s with quads := qs, gangs := gs }

theorem State.LogsQuad.refl (s : State) (q : Nat) : s.LogsQuad s q := ⟨rfl, _, _, rfl⟩

theorem State.LogsQuad.trans {s t u : State} {q : Nat} (h : s.LogsQuad t q) (k : t.LogsQuad u q) : s.LogsQuad u q where
  quad := by rw [k.quad, h.quad]
  rest := by
    obtain ⟨_, _, rfl⟩ := h.rest
    exact k.rest

theorem State.LogsQuad.qsLog (s : State) (g q l : Nat) : s.LogsQuad (s.qsLog g q l) q := by
  simp only [State.qsLog, State.badMould]
  split
  · exact .refl ..
  split
  · split <;> exact ⟨rfl, _, _, rfl⟩
  · exact ⟨by rw [State.quad_setQuad_same], _, _, rfl⟩

theorem State.LogsQuad.foldl (g q : Nat) (ls : List Nat) (s : State) :
    s.LogsQuad (ls.foldl (fun (s : State) l => s.qsLog g q l) s) q := by
  induction ls generalizing s with
  | nil => exact .refl ..
  | cons l ls ih => exact (qsLog s g q l).trans (ih _)

/-- What a write of a scratchpad leaves. -/
structure State.WritesScratch (s t : State) (q : Nat) (m : Sparse Byte) : Prop where
  quad : t.quad q = { s.quad q with qs := m, qsPoison := (t.quad q).qsPoison, mould := (t.quad q).mould }
  rest : ∃ qs gs, t = { s with quads := qs, gangs := gs }

theorem State.writesScratch (s : State) (g q a : Nat) (bs : List Byte) (mask : List Bool) (whole : Bool) :
    s.WritesScratch (s.qsWrite g q a bs mask whole) q (sparseWriteMasked (s.quad q).qs a bs mask) := by
  have hl := State.LogsQuad.foldl g q (linesOf a bs.length) s
  simp only [State.qsWrite]
  generalize (linesOf a bs.length).foldl _ s = u at hl
  have hqs : (u.quad q).qs = (s.quad q).qs := by rw [hl.quad]
  refine ⟨?_, ?_⟩
  · rw [State.quad_setQuad_same, hqs]
    rw [hl.quad]
  · obtain ⟨_, _, rfl⟩ := hl.rest
    exact ⟨_, _, rfl⟩

/-! ## What a word of the unit leaves as it was (R208) -/

/-- The unit's part in performing a word, before its tag clears. -/
structure State.Performs (s t : State) (c aid : Nat) (w : MatWord) : Prop where
  acts : ∀ h, h ≠ aid → tableGet? t.acts h = tableGet? s.acts h
  place : (t.act aid).core = (s.act aid).core
  block : (t.act aid).block = (s.act aid).block
  queue : (t.core c).mqueue = (s.core c).mqueue
  cores : ∀ h, h ≠ c → tableGet? t.cores h = tableGet? s.cores h
  tiles : ∀ h, w.dest ≠ some h → t.tile c h = s.tile c h
  tags : (∀ d image, w ≠ .restDev d image) → ∀ h, (t.tile c h).i32 = (s.tile c h).i32
  lm : w.stores = false → (t.core c).lm = (s.core c).lm
  quads : w.stores = false → t.quads = s.quads
  mem : t.mem = s.mem
  memTags : t.memTags = s.memTags
  memPoison : t.memPoison = s.memPoison

/-- What a word of the unit leaves when it is done. -/
structure State.UnitFrame (s t : State) (c oid : Nat) (o : Op) (w : MatWord) : Prop where
  op : t.op? oid = none
  queue : ∀ rest, (s.core c).mqueue = oid :: rest → (t.core c).mqueue = rest
  tiles : ∀ h, w.dest ≠ some h → t.tile c h = s.tile c h
  tags : (∀ d image, w ≠ .restDev d image) → ∀ h, (t.tile c h).i32 = (s.tile c h).i32
  memory : w.stores = false → (t.core c).lm = (s.core c).lm ∧ t.quads = s.quads
  mem : t.mem = s.mem
  memTags : t.memTags = s.memTags
  memPoison : t.memPoison = s.memPoison
  cores : ∀ h, h ≠ c → h ≠ (s.act o.act).core → tableGet? t.cores h = tableGet? s.cores h
  acts : ∀ h, h ≠ o.act → tableGet? t.acts h = tableGet? s.acts h

namespace State.Performs
variable {s t : State} {c aid oid : Nat} {o : Op} {w : MatWord}

/-- A word performed leaves the queue, and its tag clears. -/
theorem matDone (h : s.Performs t c o.act w) (hb : (s.act o.act).block ≠ some .exit) (ws : List RegWrite) :
    s.UnitFrame (t.matDone c oid o ws) c oid o w := by
  have hc := State.tagCleared (s := t.setCore c { t.core c with mqueue := (t.core c).mqueue.erase oid }) (oid := oid) (o := o)
    (ws := ws) (by rw [State.act_setCore, h.block]; exact hb)
  have hcore : (t.matDone c oid o ws).core c
      = { t.core c with mqueue := (t.core c).mqueue.erase oid, l1 := ((t.matDone c oid o ws).core c).l1 } := by
    have := hc.core c
    rwa [State.core_setCore_same] at this
  have htile (n : Nat) : (t.matDone c oid o ws).tile c n = t.tile c n := (State.SameTiles.refl t).matDone.tile c n
  exact {
    op := hc.op
    queue := fun rest hq => by rw [hcore, h.queue, hq, List.erase_cons_head]
    tiles := fun n hn => (htile n).trans (h.tiles n hn)
    tags := fun hw n => by rw [htile, h.tags hw]
    memory := fun hw => ⟨by rw [hcore, h.lm hw], hc.quads.trans (h.quads hw)⟩
    mem := hc.mem.trans h.mem
    memTags := hc.tags.trans h.memTags
    memPoison := hc.poison.trans h.memPoison
    cores := fun n hn hm => (hc.cores n (by rw [State.act_setCore, h.place]; exact hm)).trans
      ((tableGet?_tableSet_other _ _ hn).trans (h.cores n hn))
    acts := fun n hn => (hc.acts n hn).trans (h.acts n hn) }

theorem refl (s : State) (c aid : Nat) (w : MatWord) : s.Performs s c aid w :=
  ⟨fun _ _ => rfl, rfl, rfl, rfl, fun _ _ => rfl, fun _ _ => rfl, fun _ _ => rfl, fun _ => rfl, fun _ => rfl, rfl, rfl, rfl⟩

/-- A tile is written, with the tag that its issue has set. -/
theorem setTile {d : Nat} {u : Tile} (hd : w.dest = some d) (hu : u.i32 = (s.tile c d).i32) : s.Performs (s.setTile c d u) c aid w where
  acts _ _ := rfl
  place := rfl
  block := rfl
  queue := by simp [State.setTile]
  cores n hn := tableGet?_tableSet_other _ _ hn
  tiles n hn := State.tile_setTile_other s c d u (fun e => hn (e ▸ hd))
  tags _ n := by
    by_cases hn : n = d
    · subst hn; rw [State.tile_setTile_same, hu]
    · rw [State.tile_setTile_other _ _ _ _ hn]
  lm _ := by simp [State.setTile]
  quads _ := rfl
  mem := rfl
  memTags := rfl
  memPoison := rfl

/-- A tile is written whole; the image of a restore brings its tag with it. -/
theorem newTile {d : Nat} {u : Tile} (hd : w.dest = some d)
    (hu : (∀ d image, w ≠ .restDev d image) → u.i32 = (s.tile c d).i32) : s.Performs (s.newTile c d u) c aid w where
  acts _ _ := rfl
  place := rfl
  block := rfl
  queue := by simp [State.newTile, State.setTile]
  cores n hn := (tableGet?_tableSet_other _ _ hn).trans (tableGet?_tableSet_other _ _ hn)
  tiles n hn := State.tile_newTile_other s c d u (fun e => hn (e ▸ hd))
  tags hw n := by
    by_cases hn : n = d
    · subst hn; rw [State.tile_newTile_same, hu hw]
    · rw [State.tile_newTile_other _ _ _ _ hn]
  lm _ := by simp [State.newTile, State.setTile]
  quads _ := rfl
  mem := rfl
  memTags := rfl
  memPoison := rfl

theorem trans {u : State} (h : s.Performs t c aid w) (k : t.Performs u c aid w) : s.Performs u c aid w where
  acts n hn := (k.acts n hn).trans (h.acts n hn)
  place := k.place.trans h.place
  block := k.block.trans h.block
  queue := k.queue.trans h.queue
  cores n hn := (k.cores n hn).trans (h.cores n hn)
  tiles n hn := (k.tiles n hn).trans (h.tiles n hn)
  tags hw n := (k.tags hw n).trans (h.tags hw n)
  lm hw := (k.lm hw).trans (h.lm hw)
  quads hw := (k.quads hw).trans (h.quads hw)
  mem := k.mem.trans h.mem
  memTags := k.memTags.trans h.memTags
  memPoison := k.memPoison.trans h.memPoison

/-- The counts of free values and the records move on. -/
theorem aside (s : State) (c aid : Nat) (w : MatWord) (n : Nat) (rs : List Rec) :
    s.Performs { s with draws := n, recs := rs } c aid w :=
  ⟨fun _ _ => rfl, rfl, rfl, rfl, fun _ _ => rfl, fun _ _ => rfl, fun _ _ => rfl, fun _ => rfl, fun _ => rfl, rfl, rfl, rfl⟩

theorem boundSticky (s : State) (c aid n k : Nat) (w : MatWord) : s.Performs (s.boundSticky aid n k) c aid w := by
  simp only [State.boundSticky]
  split
  · exact refl ..
  · exact ⟨fun n hn => tableGet?_tableSet_other _ _ hn, by simp, by simp, rfl, fun _ _ => rfl, fun _ _ => rfl, fun _ _ => rfl,
      fun _ => rfl, fun _ => rfl, rfl, rfl, rfl⟩

theorem eventCount (s : State) (c aid n : Nat) (w : MatWord) : s.Performs (s.eventCount n).2 c aid w := by
  simp only [State.eventCount]
  split
  · exact refl ..
  · exact aside ..

theorem boundRecord (s : State) (c aid : Nat) (a : Act) (opcode : Nat) (word : BitVec 32) (b : Option (Nat × Nat)) (w : MatWord) :
    s.Performs (s.boundRecord a opcode word b) c aid w := by
  unfold State.boundRecord
  split
  · exact aside ..
  · exact refl ..

/-- A store of the core's own local memory. -/
theorem lmWrite (hw : w.stores = true) (s : State) (g c aid a : Nat) (bs : List Byte) (mask : List Bool) (whole : Bool) :
    s.Performs (s.lmWrite g c a bs mask whole) c aid w := by
  have h := State.writesLocal s g c a bs mask whole
  have htile (n : Nat) : (s.lmWrite g c a bs mask whole).tile c n = s.tile c n := by simp only [State.tile]; rw [h.core]
  obtain ⟨_, _, hr⟩ := h.rest
  have hs (x : Prop) (hf : w.stores = false) : x := absurd (hw.symm.trans hf) (by decide)
  refine ⟨fun _ _ => by rw [hr], by rw [hr]; rfl, by rw [hr]; rfl, by rw [h.core], h.cores, fun n _ => htile n,
    fun _ n => by rw [htile], hs _, hs _, by rw [hr], by rw [hr], by rw [hr]⟩

/-- A store of the quad's scratchpad. -/
theorem qsWrite (hw : w.stores = true) (s : State) (g q c aid a : Nat) (bs : List Byte) (mask : List Bool) (whole : Bool) :
    s.Performs (s.qsWrite g q a bs mask whole) c aid w := by
  obtain ⟨_, _, hr⟩ := (State.writesScratch s g q a bs mask whole).rest
  have hs (x : Prop) (hf : w.stores = false) : x := absurd (hw.symm.trans hf) (by decide)
  rw [hr]
  exact ⟨fun _ _ => rfl, rfl, rfl, rfl, fun _ _ => rfl, fun _ _ => rfl, fun _ _ => rfl, hs _, hs _, rfl, rfl, rfl⟩

theorem putRows (hw : w.stores = true) (x : Act) (n : Nat) (quad : Bool) (offs : List Nat) (rows : List (List Nat)) (s : State)
    (c aid : Nat) : s.Performs (s.putRows x c n quad offs rows) c aid w := by
  simp only [State.putRows]
  induction List.zip offs rows generalizing s with
  | nil => exact refl ..
  | cons r rs ih =>
    refine trans ?_ (ih _)
    split
    · exact qsWrite hw ..
    · exact lmWrite hw ..

end State.Performs

theorem State.matTrap_core (s : State) (c oid : Nat) (o : Op) (t : Trap) :
    (s.matTrap c oid o t).core c = { s.core c with mqueue := (s.core c).mqueue.erase oid } := State.core_setCore_same ..

/-- An image that is no tile ends a restore with FORMAT pending, and its tile as it was (log 8). -/
theorem State.UnitFrame.matTrap (s : State) (c oid : Nat) (o : Op) (t : Trap) (w : MatWord) :
    s.UnitFrame (s.matTrap c oid o t) c oid o w where
  op := tableGet?_tableErase_same ..
  queue rest hq := by rw [State.matTrap_core, hq, List.erase_cons_head]
  tiles n _ := (State.SameTiles.refl s).setCore.tile c n
  tags _ n := congrArg Tile.i32 ((State.SameTiles.refl s).setCore.tile c n)
  memory _ := ⟨by rw [State.matTrap_core], rfl⟩
  mem := rfl
  memTags := rfl
  memPoison := rfl
  cores n hn _ := tableGet?_tableSet_other _ _ hn
  acts n hn := tableGet?_tableSet_other _ _ hn

/-- THE FRAME of the matrix unit: what it leaves as it was when it performs a word (R208). -/
theorem State.matPerform_frame {s : State} {o : Op} (hb : (s.act o.act).block ≠ some .exit) (c oid : Nat) (w : MatWord) :
    s.UnitFrame (s.matPerform c oid o w) c oid o w := by
  have replaced (d : Nat) (u : Tile) (hd : w.dest = some d) :
      s.UnitFrame ((s.newTile c d { u with i32 := (s.tile c d).i32 }).matDone c oid o []) c oid o w :=
    State.Performs.matDone (.newTile (u := { u with i32 := (s.tile c d).i32 }) hd fun _ => rfl) hb []
  have gave (ws : List RegWrite) : s.UnitFrame (s.matDone c oid o ws) c oid o w := (State.Performs.refl s c o.act w).matDone hb ws
  cases w with
  | zero d => exact replaced d {} rfl
  | product | load | restTile | addT | scale | bias | clamp | transpose => exact replaced _ _ rfl
  | rowFromV =>
    refine State.Performs.matDone (.setTile ?_ (tileOf_i32 ..)) hb []
    rfl
  | vFromRow | reduce | dot => exact gave _
  | store =>
    exact (((((State.Performs.eventCount ..).trans (.boundSticky ..)).trans (.boundRecord ..)).trans (.putRows rfl ..))).matDone hb []
  | saveTile =>
    simp only [State.matPerform]
    split
    · exact (State.Performs.qsWrite rfl ..).matDone hb []
    · exact (State.Performs.lmWrite rfl ..).matDone hb []
  | restDev d image =>
    simp only [State.matPerform]
    split
    · exact .matTrap ..
    · exact (State.Performs.newTile rfl fun h => absurd rfl (h d image)).matDone hb []

section
variable {s : State} {c d fmt i j p cols : Nat} {offs : List Nat}

/-- A load leaves zeros beyond its rows and columns (R216). -/
theorem loadTile_outside (h : offs[i]? = none ∨ cols ≤ j) (hi : i < 64) (hj : j < 64) :
    (loadTile s c d fmt offs cols).get i j = 0 := by
  rw [loadTile, tileOf_get _ _ hi hj, List.getElem?_map]
  rcases h with h | h
  · rw [h]; rfl
  · cases offs[i]? with
    | none => rfl
    | some p => exact if_neg (Nat.not_lt.mpr h)

/-- A load leaves in its rows and columns the elements that it reads, widened (R216). -/
theorem loadTile_inside (h : offs[i]? = some p) (hc : j < cols) (hi : i < 64) (hj : j < 64) :
    (loadTile s c d fmt offs cols).get i j
      = loadElem fmt (bytesToNat (s.lmRead c (p + j * tileWidth fmt) (tileWidth fmt))) := by
  have hslice : j * tileWidth fmt + tileWidth fmt ≤ cols * tileWidth fmt := by
    rw [← Nat.succ_mul]; exact Nat.mul_le_mul_right _ hc
  rw [loadTile, tileOf_get _ _ hi hj, List.getElem?_map, h]
  simp only [Option.map_some, if_pos hc, State.lmRead, sparseRead_slice _ hslice]

end

theorem Act.relive_sameBut (rs : List RegName) (a : Act) : a.SameBut (a.relive rs) :=
  Act.SameBut.foldl _ (fun a r => by split <;> exact ⟨_, _, _, _, rfl⟩) rs a

theorem Act.SameBut.trapPend {a b : Act} (h : a.SameBut b) : b.trapPend = a.trapPend := by obtain ⟨_, _, _, _, rfl⟩ := h; rfl

/-- A word that is taken back leaves the pending trap. -/
theorem Act.undoIssue_trapPend (a : Act) : a.undoIssue.trapPend = a.trapPend := (Act.relive_sameBut ..).trapPend

/-- A late trap is left pending when no other is. -/
theorem State.lateTrap_pends {s : State} {oid : Nat} {o : Op} {t : Trap} (h : (s.act o.act).trapPend = none) :
    ((s.lateTrap oid o t).act o.act).trapPend.map (fun r => r.cause) = some t.cause := by
  have hnone (p : Prop) [Decidable p] : (if p then { (s.act o.act).undoIssue with block := none } else s.act o.act).trapPend = none := by
    split
    · exact (Act.undoIssue_trapPend _).trans h
    · exact h
  simp only [State.lateTrap, State.act_setAct_same]
  split
  · next r hr => exact absurd ((hnone _).symm.trans hr) (by simp)
  · rfl

/-- The register that a word writes as it ends reads what it gave. -/
theorem State.matDone_gives {s : State} {c oid d : Nat} {o : Op} {y : VReg} (hb : (s.act o.act).block ≠ some .exit)
    (hwf : sparseWf {} (s.act o.act).regs.v = true) : ((s.matDone c oid o [wV d y]).act o.act).v d = y := by
  have hc := State.tagCleared (s := s.setCore c { s.core c with mqueue := (s.core c).mqueue.erase oid }) (oid := oid) (o := o)
    (ws := [wV d y]) hb
  have hbank : (o.bank && bankReg (wV d y).reg) = false := by cases o.bank <;> rfl
  refine (congrArg (Act.v · d) hc.act).trans ?_
  simp only [Act.putAll, List.foldl_cons, List.foldl_nil, Act.putIn, hbank, Bool.false_eq_true, if_false, Act.v, Regs.put_wV,
    State.act_setCore]
  exact sparseGet_sparseSet_same _ _ hwf

/-- A vector from the unit carries the tile's tag. -/
theorem tileVec_tag (i32 : Bool) (f : Nat → Nat) : (tileVec i32 f).tag = if i32 then 4 else 6 := by cases i32 <;> rfl

/-! ## The bytes that a word stores (R217, R219) -/

/-- The memory that a store of the unit writes: the quad's scratchpad or the core's local memory. -/
def State.space (s : State) (c : Nat) (quad : Bool) : Sparse Byte :=
  if quad then (s.quad (coreQuad c)).qs else (s.core c).lm

/-- A tag that clears leaves it. -/
theorem State.space_matDone {s : State} {c oid : Nat} {o : Op} {ws : List RegWrite} (hb : (s.act o.act).block ≠ some .exit)
    (quad : Bool) : (s.matDone c oid o ws).space c quad = s.space c quad := by
  have hc := State.tagCleared (s := s.setCore c { s.core c with mqueue := (s.core c).mqueue.erase oid }) (oid := oid) (o := o)
    (ws := ws) hb
  cases quad with
  | true => exact congrArg (fun qs => ((tableGet? qs (coreQuad c)).getD {}).qs) hc.quads
  | false =>
    refine (congrArg Core.lm (hc.core c)).trans ?_
    rw [State.core_setCore_same]
    rfl

/-- One write of it. -/
theorem State.space_write (s : State) (g c a : Nat) (quad : Bool) (bs : List Byte) :
    (if quad then s.qsWrite g (coreQuad c) a bs (bs.map (fun _ => true)) false
      else s.lmWrite g c a bs (bs.map (fun _ => true)) false).space c quad = sparseWrite (s.space c quad) a bs := by
  rw [← sparseWriteMasked_whole]
  cases quad with
  | true => exact congrArg Quad.qs (State.writesScratch ..).quad
  | false => exact congrArg Core.lm (State.writesLocal ..).core

/-- Rows of bytes, each at its place, in order. -/
def writeRows (l : List (Nat × List Byte)) (m : Sparse Byte) : Sparse Byte := l.foldl (fun m r => sparseWrite m r.1 r.2) m

theorem State.space_putRows (s : State) (x : Act) (c w : Nat) (quad : Bool) (offs : List Nat) (rows : List (List Nat)) :
    (s.putRows x c w quad offs rows).space c quad
      = writeRows ((List.zip offs rows).map (fun r => (r.1, r.2.flatMap (natToBytes w)))) (s.space c quad) := by
  simp only [State.putRows, writeRows]
  induction List.zip offs rows generalizing s with
  | nil => rfl
  | cons r rs ih =>
    simp only [List.foldl_cons, List.map_cons]
    rw [ih, State.space_write]

theorem writeRows_wf (l : List (Nat × List Byte)) {m : Sparse Byte} (h : Memory.wf m = true) :
    Memory.wf (writeRows l m) = true := by
  induction l generalizing m with
  | nil => exact h
  | cons r rs ih => exact ih (sparseWf_sparseWrite r.2 r.1 h)

/-- A byte that no row covers reads as before. -/
theorem writeRows_other {l : List (Nat × List Byte)} {m : Sparse Byte} {n : Nat} (h : Memory.wf m = true)
    (hn : ∀ r ∈ l, ¬(r.1 ≤ n ∧ n < r.1 + r.2.length)) : sparseGet 0 (writeRows l m) n = sparseGet 0 m n := by
  induction l generalizing m with
  | nil => rfl
  | cons r rs ih =>
    refine (ih (sparseWf_sparseWrite r.2 r.1 h) fun r' hr => hn r' (List.mem_cons_of_mem _ hr)).trans ?_
    have := hn r List.mem_cons_self
    exact sparseGet_sparseWrite_other _ h (by omega)

/-- A byte reads as the last row that covers it has it. -/
theorem writeRows_last {l : List (Nat × List Byte)} {m : Sparse Byte} {n i : Nat} {r : Nat × List Byte}
    (h : Memory.wf m = true) (hi : l[i]? = some r) (hn : r.1 ≤ n ∧ n < r.1 + r.2.length)
    (hlast : ∀ k r', i < k → l[k]? = some r' → ¬(r'.1 ≤ n ∧ n < r'.1 + r'.2.length)) :
    some (sparseGet 0 (writeRows l m) n) = r.2[n - r.1]? := by
  induction l generalizing m i with
  | nil => simp at hi
  | cons r' rs ih =>
    cases i with
    | zero =>
      obtain rfl : r' = r := by simpa using hi
      have hrest := writeRows_other (l := rs) (n := n) (sparseWf_sparseWrite r'.2 r'.1 h) fun r'' hr => by
        obtain ⟨k, hk⟩ := List.getElem?_of_mem hr
        exact hlast (k + 1) r'' (by omega) (by simpa using hk)
      have hin : n - r'.1 < r'.2.length := by omega
      have hw := sparseGet_sparseWrite r'.2 r'.1 (n - r'.1) h hin
      rw [Nat.add_sub_cancel' hn.1] at hw
      rw [List.getElem?_eq_getElem hin, ← hw]
      exact congrArg some hrest
    | succ i =>
      exact ih (sparseWf_sparseWrite r'.2 r'.1 h) (by simpa using hi) fun k r'' hk he =>
        hlast (k + 1) r'' (by omega) (by simpa using he)

/-- The bytes of a row of a tile store. -/
def rowBytes (t : Tile) (fmt cols i : Nat) : List Byte :=
  ((List.range cols).map (fun j => storeElem fmt (t.get i j))).flatMap (natToBytes (tileWidth fmt))

theorem rowBytes_length (t : Tile) (fmt cols i : Nat) : (rowBytes t fmt cols i).length = cols * tileWidth fmt := by
  rw [rowBytes, flatMap_natToBytes_length]
  simp

theorem rowBytes_getElem? (t : Tile) {fmt cols m : Nat} (i : Nat) (h : m < cols * tileWidth fmt) : (rowBytes t fmt cols i)[m]?
    = some (BitVec.ofNat 8 (storeElem fmt (t.get i (m / tileWidth fmt)) / 2 ^ (8 * (m % tileWidth fmt)))) := by
  have hd : m / tileWidth fmt < cols := Nat.div_lt_of_lt_mul (by rwa [Nat.mul_comm])
  rw [rowBytes, flatMap_natToBytes_getElem? _ (by simpa using h)]
  simp [hd]

/-- What a store without a bound register writes. -/
def storedRows (t : Tile) (fmt cols : Nat) (offs : List Nat) : List (Nat × List Byte) :=
  List.zip offs ((List.range offs.length).map (rowBytes t fmt cols))

theorem storedRows_getElem? {t : Tile} {fmt cols i p : Nat} {offs : List Nat} (h : offs[i]? = some p) :
    (storedRows t fmt cols offs)[i]? = some (p, rowBytes t fmt cols i) := by
  obtain ⟨hi, -⟩ := List.getElem?_eq_some_iff.mp h
  exact List.getElem?_zip_eq_some.mpr ⟨h, by simp [hi]⟩

/-- A row stands at an offset of its index, and has the width of the others. -/
theorem of_storedRows_getElem? {t : Tile} {fmt cols k : Nat} {offs : List Nat} {r : Nat × List Byte}
    (h : (storedRows t fmt cols offs)[k]? = some r) : offs[k]? = some r.1 ∧ r.2.length = cols * tileWidth fmt := by
  obtain ⟨ho, hr⟩ := List.getElem?_zip_eq_some.mp h
  obtain ⟨i, -, hi⟩ := List.mem_map.mp (List.mem_of_getElem? hr)
  exact ⟨ho, by rw [← hi, rowBytes_length]⟩

/-- Under no bound register a store puts its rows and does nothing else. -/
theorem State.matPerform_store (s : State) (c oid a fmt cols : Nat) (o : Op) (quad : Bool) (offs : List Nat) :
    s.matPerform c oid o (.store a fmt quad offs cols none) = (s.putRows (s.act o.act) c (tileWidth fmt) quad offs
      ((List.range offs.length).map (fun i => (List.range cols).map (fun j => storeElem fmt ((s.tile c a).get i j))))).matDone
        c oid o [] := rfl

theorem State.space_store {s : State} {c oid : Nat} {o : Op} (hb : (s.act o.act).block ≠ some .exit) (a fmt cols : Nat)
    (quad : Bool) (offs : List Nat) : (s.matPerform c oid o (.store a fmt quad offs cols none)).space c quad
      = writeRows (storedRows (s.tile c a) fmt cols offs) (s.space c quad) := by
  have hp := State.Performs.putRows (w := .store a fmt quad offs cols none) rfl (s.act o.act) (tileWidth fmt) quad offs
    ((List.range offs.length).map (fun i => (List.range cols).map (fun j => storeElem fmt ((s.tile c a).get i j)))) s c o.act
  rw [State.matPerform_store, State.space_matDone (by rw [hp.block]; exact hb), State.space_putRows]
  exact congrArg (writeRows · _) (List.zip_map_right.symm.trans (congrArg (List.zip offs) (List.map_map ..)))

/-- An image is the tile's elements, its tag and zeros. -/
theorem tileImage_eq (t : Tile) (i32 : Bool) : tileImage t i32
    = ((List.range 4096).map (fun p => (t.get (p / 64) (p % 64)).toNat)).flatMap (natToBytes 4)
      ++ (BitVec.ofNat 8 (if i32 then 1 else 0) :: List.replicate 63 0) := by
  rw [tileImage, List.flatMap_map]

theorem tileImage_length (t : Tile) (i32 : Bool) : (tileImage t i32).length = 16448 := by
  rw [tileImage_eq, List.length_append, flatMap_natToBytes_length]
  simp

theorem State.space_save {s : State} {c oid : Nat} {o : Op} (hb : (s.act o.act).block ≠ some .exit) (a off : Nat)
    (i32 quad : Bool) : (s.matPerform c oid o (.saveTile a i32 quad off)).space c quad
      = sparseWrite (s.space c quad) off (tileImage (s.tile c a) i32) := by
  have hw : State.Performs s (if quad then s.qsWrite (s.act o.act).gang (coreQuad c) off (tileImage (s.tile c a) i32)
        ((tileImage (s.tile c a) i32).map (fun _ => true)) false
      else s.lmWrite (s.act o.act).gang c off (tileImage (s.tile c a) i32) ((tileImage (s.tile c a) i32).map (fun _ => true)) false)
      c o.act (.saveTile a i32 quad off) := by
    split
    · exact .qsWrite rfl ..
    · exact .lmWrite rfl ..
  refine (State.space_matDone ?_ quad).trans (State.space_write ..)
  rw [hw.block]
  exact hb

/-- The bytes of an image (R219). -/
theorem tileImage_element (t : Tile) (i32 : Bool) {m : Nat} (h : m < 16384) : (tileImage t i32)[m]?
    = some (BitVec.ofNat 8 ((t.get (m / 256) (m / 4 % 64)).toNat / 2 ^ (8 * (m % 4)))) := by
  have hl : (List.map (fun p => (t.get (p / 64) (p % 64)).toNat) (List.range 4096)).length * 4 = 16384 := by simp
  have hd : m / 4 < 4096 := by omega
  rw [tileImage_eq, List.getElem?_append_left (by rw [flatMap_natToBytes_length, hl]; exact h),
    flatMap_natToBytes_getElem? _ (by rw [hl]; exact h), List.getElem?_map, List.getElem?_range hd]
  simp only [Option.map_some, Option.getD_some, Nat.div_div_eq_div_mul]

theorem tileImage_tail (t : Tile) (i32 : Bool) (m : Nat) : (tileImage t i32)[16384 + m]?
    = (BitVec.ofNat 8 (if i32 then 1 else 0) :: List.replicate 63 0)[m]? := by
  have hl : (List.map (fun p => (t.get (p / 64) (p % 64)).toNat) (List.range 4096)).length * 4 = 16384 := by simp
  rw [tileImage_eq, List.getElem?_append_right (by rw [flatMap_natToBytes_length, hl]; omega), flatMap_natToBytes_length, hl,
    Nat.add_sub_cancel_left]

/-- Settles O59: the elements by `put_get` and `tileOf_get`, the registers by `matDone_gives`, the bytes by what a store writes row
by row, and the rest by the frame `matPerform_frame`. -/
theorem matrixUnitResults : Obligations.MatrixUnitResults := by
  unfold Obligations.MatrixUnitResults
  intro s c oid d a b row q off fmt cols p i j n op fa fb o w data k lo hi sub i32 byRow quad offs u image as bs rows ts x after
    is va vb f r word width wide dense bytes whole mem byte
  refine ⟨fun hi hj => ?elements, fun hb hwf hn => ?registers, fun hb hwf => ?memory, fun hb => ?frame⟩
  case frame =>
    have h := s.matPerform_frame hb c oid w
    refine ⟨h.op, h.queue, h.tiles, h.tags, h.memory, h.mem, h.memTags, h.memPoison, h.cores, h.acts, fun hw hp => ?_⟩
    simp only [after, State.matPerform]
    rw [tileFromImage_eq, if_neg hw]
    exact State.lateTrap_pends (s := s.setCore c _) hp
  case memory =>
    intro foot store save
    have hstore : byte store = sparseGet 0 (writeRows (storedRows (s.tile c a) fmt cols offs) (mem s)) n :=
      congrArg (sparseGet 0 · n) (State.space_store hb a fmt cols quad offs)
    have hsave : byte save = sparseGet 0 (sparseWrite (mem s) off (tileImage (s.tile c a) i32)) n :=
      congrArg (sparseGet 0 · n) (State.space_save hb a off i32 quad)
    have hbyte (m : Nat) (y : Byte) (hm : n = off + m) (hy : (tileImage (s.tile c a) i32)[m]? = some y) : byte save = y := by
      obtain ⟨hlt, he⟩ := List.getElem?_eq_some_iff.mp hy
      rw [hsave, hm, sparseGet_sparseWrite _ _ _ hwf hlt, he]
    refine ⟨fun hout => ?storeOutside, fun hi hf hlast => ?storeInside, fun hout => ?saveOutside, fun h1 h2 => ?saveElement,
      fun h => ?saveTag, fun h1 h2 => ?saveZeros⟩
    case storeOutside =>
      rw [hstore]
      refine writeRows_other hwf fun r hr => ?_
      obtain ⟨k, hk⟩ := List.getElem?_of_mem hr
      obtain ⟨ho, hl⟩ := of_storedRows_getElem? hk
      rw [hl]
      exact hout r.1 (List.mem_of_getElem? ho)
    case storeInside =>
      obtain ⟨h1, h2⟩ := hf
      have h := writeRows_last hwf (storedRows_getElem? (t := s.tile c a) (fmt := fmt) (cols := cols) hi)
        ⟨h1, by rw [rowBytes_length]; exact h2⟩ fun k r hk hr => by
          obtain ⟨ho, hl⟩ := of_storedRows_getElem? hr
          rw [hl]
          exact hlast k r.1 hk ho
      rw [rowBytes_getElem? _ _ (Nat.sub_lt_left_of_lt_add h1 h2), ← hstore] at h
      exact Option.some.inj h
    case saveOutside =>
      rw [hsave]
      exact sparseGet_sparseWrite_other _ hwf (by rw [tileImage_length]; exact hout)
    case saveElement =>
      exact hbyte (n - off) _ (by omega) (tileImage_element _ _ (by omega))
    case saveTag =>
      exact hbyte (16384 + 0) _ h ((tileImage_tail ..).trans (by cases i32 <;> rfl))
    case saveZeros =>
      refine hbyte (16384 + (n - off - 16384)) _ (by omega) ((tileImage_tail ..).trans ?_)
      obtain ⟨k, hk⟩ : ∃ k, n - off - 16384 = k + 1 := ⟨n - off - 16385, by omega⟩
      rw [hk, List.getElem?_cons_succ, List.getElem?_replicate, if_pos (by omega)]
  case registers =>
    intro v holds m
    have hmod (z : BitVec 32) : z.toNat % 2 ^ 32 = z.toNat := Nat.mod_eq_of_lt z.isLt
    have holds_vec (w : MatWord) (g : Nat → Nat) (hw : after w = s.matDone c oid o [wV d (tileVec i32 g)]) :
        holds w (g n % 2 ^ 32) := by
      have hv : v w = tileVec i32 g := (congrArg (fun u => (State.act u o.act).v d) hw).trans (State.matDone_gives hb hwf)
      exact ⟨by rw [hv, tileVec_tag], by rw [hv]; rfl, by rw [hv, tileVec_elem _ _ hn]⟩
    refine ⟨?vFromRow, ?reduce, ?dotInt, ?dotFp⟩
    case vFromRow =>
      have h := holds_vec (.vFromRow d a row q i32) _ rfl
      rwa [hmod] at h
    case reduce => exact holds_vec (.reduce d a op q i32) _ rfl
    case dotInt =>
      rintro rfl
      have h := holds_vec (.dot d a b q true) _ rfl
      rw [if_pos rfl, hmod] at h
      rwa [List.foldl_map]
    case dotFp =>
      rintro rfl
      exact holds_vec (.dot d a b q false) _ rfl
  case elements =>
    have dense_old (i32 : Bool) (h : rows.find? (fun r => r.1 == i) = none ∨ cols ≤ j) : is (dense i32) ((s.tile c d).get i j) := by
      refine (put_tileOf hi hj).trans ?_
      split
      · rfl
      · next hc => rw [h.resolve_right hc]
    have dense_new (i32 : Bool) (h : rows.find? (fun r => r.1 == i) = some (i, ts)) (hc : j < cols) :
        is (dense i32) (if i32 then intElem fa fb as bs ts j ((s.tile c d).get i j)
          else BitVec.ofNat 32 (fpElem ((s.tile c d).get i j).toNat (termsOf fa fb as bs ts j))) := by
      refine (put_tileOf hi hj).trans ?_
      rw [if_neg (Nat.not_le.mpr hc), h]
    refine ⟨put_get, put_tileOf hi hj, ?addInt, put_tileOf hi hj, put_tileOf hi hj, put_tileOf hi hj, put_tileOf hi hj, ?biasInt,
      ?biasFp, (put_tileOf hi hj).trans (clampElem_int ..), put_tileOf hi hj, ?loadOutside, ?load, ?row, put_get, ?restore,
      dense_old i32, fun h hc => ⟨(dense_new true h hc).trans (intElem_eq ..), dense_new false h hc⟩⟩
    case addInt =>
      refine (put_tileOf hi hj).trans ?_
      cases sub <;> rfl
    case biasInt =>
      refine (put_tileOf hi hj).trans ?_
      simp only [lmRead_word s c off (n := 256) (k := if byRow then i else j) (by split <;> omega)]
      rfl
    case biasFp =>
      refine (put_tileOf hi hj).trans ?_
      simp only [lmRead_word s c off (n := 256) (k := if byRow then i else j) (by split <;> omega)]
      rfl
    case loadOutside => exact fun h => put_get.trans (loadTile_outside h hi hj)
    case load => exact fun h hc => put_get.trans (loadTile_inside h hc hi hj)
    case row =>
      refine (set_tileOf hi hj).trans ?_
      simp only [ofNat_elem]
    case restore =>
      rintro ⟨h, hz⟩
      have hw : after (.restDev d image) = (s.newTile c d (tileOf (decide (((bytes.drop 16384).headD 0).toNat = 1))
          (fun i j => BitVec.ofNat 32 (bytesToNat ((bytes.drop (4 * (64 * i + j))).take 4))))).matDone c oid o [] := by
        simp only [after, State.matPerform]
        rw [tileFromImage_eq, if_pos ⟨h, hz⟩]
      have ht := (congrArg (State.tile · c d) hw).trans (State.tile_matDone_newTile ..)
      exact ⟨(congrArg (Tile.get · i j) ht).trans (tileOf_get _ _ hi hj), congrArg Tile.i32 ht⟩

end Sys2Proof.Machine
end

section
/-! A write at the home ports beside a crowded memory-side cache (R155, R334). -/
namespace Sys2Proof.Machine

/-! ## A cache whose table lists a line twice -/

/-- A plate's cache in which line 1 is listed first as sound and then, `n` times, as uncorrectable, behind `k` copies of line 2. -/
def crowdedCache (k n : Nat) : Table McLine :=
  List.replicate k (2, ({} : McLine)) ++ (1, ({} : McLine)) :: List.replicate n (1, ({ bad := true } : McLine))

/-- A package whose only content is that cache. -/
def crowded (k n : Nat) : State := { dies := [(0, { mcache := crowdedCache k n })] }

section
variable {k n : Nat}

/-- Records of another number stand before what a lookup finds. -/
theorem tableGet?_replicate_append {α : Type} {m l : Nat} {x : α} (t : Table α) (h : m ≠ l) (k : Nat) :
    tableGet? (List.replicate k (l, x) ++ t) m = tableGet? t m := by
  induction k with
  | zero => rfl
  | succ k ih => exact (if_neg h).trans ih

/-- A record that no number of the table equals erases nothing. -/
theorem tableErase_of_forall_ne {α : Type} {t : Table α} {m : Nat} (h : ∀ e ∈ t, m ≠ e.1) : tableErase t m = t := by
  induction t with
  | nil => rfl
  | cons e r ih =>
    exact (if_neg (h e List.mem_cons_self)).trans (congrArg (e :: ·) (ih fun e' he => h e' (List.mem_cons_of_mem _ he)))

theorem tableGet?_of_forall_ne {α : Type} {t : Table α} {m : Nat} (h : ∀ e ∈ t, m ≠ e.1) : tableGet? t m = none := by
  induction t with
  | nil => rfl
  | cons e r ih => exact (if_neg (h e List.mem_cons_self)).trans (ih fun e' he => h e' (List.mem_cons_of_mem _ he))

/-- The cache holds no copy of line 0. -/
theorem crowdedCache_ne_zero : ∀ e ∈ crowdedCache k n, 0 ≠ e.1 := by
  intro e he
  simp only [crowdedCache, List.mem_append, List.mem_cons, List.mem_replicate] at he
  rcases he with ⟨-, rfl⟩ | rfl | ⟨-, rfl⟩ <;> decide

theorem crowdedCache_length : (crowdedCache k n).length = k + 1 + n := by
  simp [crowdedCache]
  omega

/-- Line 1 is found sound. -/
theorem crowdedCache_one : tableGet? (crowdedCache k n) 1 = some {} :=
  tableGet?_replicate_append _ (m := 1) (l := 2) (by decide) k

/-- Once the copy at place `k` is dropped, line 1 is found uncorrectable. -/
theorem crowdedCache_eraseIdx : tableGet? ((crowdedCache k (n + 1)).eraseIdx k) 1 = some { bad := true } := by
  have he : (crowdedCache k (n + 1)).eraseIdx k = List.replicate k (2, ({} : McLine)) ++ List.replicate (n + 1) (1, ({ bad := true } : McLine)) := by
    rw [crowdedCache, List.eraseIdx_append_of_length_le (by simp)]
    simp
  rw [he]
  exact tableGet?_replicate_append _ (m := 1) (l := 2) (by decide) k

end

/-! ## Two bytes across the end of a line -/

/-- Placing a copy changes only the plates and the count of free values. -/
theorem State.mcPut_aside (s : State) (l : Nat) (x : McLine) : ∃ ds n, s.mcPut l x = { s with dies := ds, draws := n } := by
  unfold State.mcPut
  split
  · exact ⟨_, _, rfl⟩
  · split
    · exact ⟨_, _, rfl⟩
    · dsimp only
      split
      · exact ⟨_, _, rfl⟩
      · split <;> exact ⟨_, _, rfl⟩

theorem linesOf_line (l : Nat) : linesOf (64 * l) 1 = [l] := by
  have h : (64 * l + 1 - 1) / 64 + 1 - 64 * l / 64 = 1 := by omega
  rw [linesOf, if_neg (by decide), h]
  simp

theorem State.copyBad_of_some {s : State} {l : Nat} {x : McLine} (h : s.mcLine? l = some x) : s.copyBad (64 * l) 1 = x.bad := by
  simp [State.copyBad, linesOf_line, h]

theorem State.copyBad_of_none {s : State} {l : Nat} (h : s.mcLine? l = none) : s.copyBad (64 * l) 1 = false := by
  simp [State.copyBad, linesOf_line, h]

/-- A line that is written in part, with an uncorrectable copy, is poisoned (R155). -/
theorem State.mcWrite_bad {s : State} {l : Nat} (h : s.copyBad (64 * l) 1 = true) :
    ∃ ds n, s.mcWrite l false = { s with memPoison := sparseSet false s.memPoison l true, dies := ds, draws := n } := by
  obtain ⟨ds, n, he⟩ := State.mcPut_aside { s with memPoison := sparseSet false s.memPoison l true } l { dirty := true }
  exact ⟨ds, n, by rw [← he]; simp [State.mcWrite, h]⟩

theorem State.mcWrite_sound {s : State} {l : Nat} (h : s.copyBad (64 * l) 1 = false) :
    s.mcWrite l false = s.mcPut l { dirty := true } := by simp [State.mcWrite, h]

/-- Line 1 is found uncorrectable after a write of line 0, when the free value drops its sound copy. -/
theorem crowded_mcPut {k n : Nat} (hk : (Config.freeWord 0).toNat = k) (hn : 2 ^ 19 ≤ n + 1) :
    ((crowded k (n + 1)).mcPut 0 { dirty := true }).mcLine? 1 = some { bad := true } := by
  have hlen : ¬(crowdedCache k (n + 1)).length < 2 ^ 19 := by rw [crowdedCache_length]; omega
  have hmod : (Config.freeWord 0).toNat % (crowdedCache k (n + 1)).length = k := by
    rw [hk, crowdedCache_length]; exact Nat.mod_eq_of_lt (by omega)
  have hput : (crowded k (n + 1)).mcPut 0 { dirty := true }
      = ({ crowded k (n + 1) with draws := 1 }).setDie 0
          { mcache := tableSet ((crowdedCache k (n + 1)).eraseIdx k) 0 { dirty := true } } := by
    have hdie : (crowded k (n + 1)).die 0 = { mcache := crowdedCache k (n + 1) } := rfl
    have hd : mcDie 0 = some 0 := rfl
    simp only [State.mcPut, hd, hdie, tableErase_of_forall_ne crowdedCache_ne_zero, if_neg hlen]
    rw [show (crowded k (n + 1)).draws = 0 from rfl, hmod]
    rfl
  rw [hput]
  exact (tableGet?_tableSet_other _ _ (by decide)).trans crowdedCache_eraseIdx

/-- Two zeros written across the end of line 0 of an empty memory: each line is marked in the plates' caches, in order. -/
theorem homeWrite_across {s : State} (hm : s.mem = []) (ht : s.memTags = []) :
    s.homeWrite none 63 [0, 0] [true, true] false false false 0
      = ((((s.mcWrite 0 false).mcWrite 1 false).markDirty 63 2).notifyWaits 63 2).notifyDeps 63 2 := by
  have hl : linesOf 63 2 = [0, 1] := by decide
  have hr : List.range 2 = [0, 1] := by decide
  simp only [State.homeWrite, List.length_cons, List.length_nil, Nat.zero_add, Nat.reduceAdd, hl, hr, List.any_cons, List.any_nil,
    id_eq, Bool.or_false, Bool.true_eq_false, if_false, List.filter_cons, List.filter_nil, List.getElem?_cons_zero,
    List.getElem?_cons_succ, Option.getD_some, if_true, List.foldl_cons, List.foldl_nil, Nat.reduceDiv, Nat.reduceBEq,
    Bool.or_true, Bool.false_and, Bool.false_eq_true]
  have hs : { s with
      mem := sparseWriteMasked s.mem 63 [0, 0] [true, true]
      memTags := sparseSet false (sparseSet false s.memTags 3 false) 4 false } = s := by
    cases s
    subst hm
    subst ht
    rfl
  rw [hs]

/-- The write poisons line 1. -/
theorem crowded_homeWrite {k n : Nat} (hk : (Config.freeWord 0).toNat = k) (hn : 2 ^ 19 ≤ n + 1) :
    ((crowded k (n + 1)).homeWrite none 63 [0, 0] [true, true] false false false 0).memPoison = [(1, true)] := by
  have h0 : (crowded k (n + 1)).copyBad (64 * 0) 1 = false :=
    State.copyBad_of_none (tableGet?_of_forall_ne crowdedCache_ne_zero)
  have h1 : ((crowded k (n + 1)).mcPut 0 { dirty := true }).copyBad (64 * 1) 1 = true :=
    State.copyBad_of_some (crowded_mcPut hk hn)
  rw [homeWrite_across rfl rfl, State.mcWrite_sound h0]
  obtain ⟨ds, m, he⟩ := State.mcWrite_bad h1
  obtain ⟨ds', m', he'⟩ := State.mcPut_aside (crowded k (n + 1)) 0 { dirty := true }
  rw [he, he']
  rfl

/-- Refutes O53: a table of copies may list a line twice, for no hypothesis says that it does not. In `crowded`, line 1 has a sound
copy, as `copyBad` finds, and behind it uncorrectable ones; the full cache drops the sound one for the copy of line 0, and the
write's second byte then finds line 1 uncorrectable and poisons it, though it covers no line and the line was not poisoned. -/
theorem not_storesFrame : ¬ Obligations.StoresFrame := by
  unfold Obligations.StoresFrame
  rintro ⟨-, h⟩
  obtain ⟨-, -, -, -, hp, -⟩ :=
    h (crowded (Config.freeWord 0).toNat (2 ^ 19)) none 63 1 0 [0, 0] false false false ⟨rfl, rfl, rfl⟩
  have hsound : (crowded (Config.freeWord 0).toNat (2 ^ 19)).copyBad (64 * 1) 1 = false :=
    State.copyBad_of_some (x := {}) crowdedCache_one
  have hkept := hp hsound (by simp)
  have hbad := crowded_homeWrite (k := (Config.freeWord 0).toNat) (n := 2 ^ 19 - 1) rfl (by omega)
  exact absurd ((congrArg (sparseGet false · 1) hbad).symm.trans hkept) (by decide)

end Sys2Proof.Machine
end

section
/-! Requests at their home ports: accesses that are performed, replies, and writes that are accepted (R153..R155, R161..R165,
R286). -/
namespace Sys2Proof.Machine

/-! ## Accesses (R154) -/

/-- The state in which a request takes its turn: what is pending on its line is applied, and the cache has a copy (R162). -/
def State.turned (s : State) (q : Req) : State := (s.applyLine (q.addr / 64)).mcRead (q.addr / 64)

/-- The bytes that an atomic leaves in its element (R161, R163). -/
def State.atomicBytes (s : State) (q : Req) (op sub : Nat) (y new : Word64) : List Byte :=
  natToBytes q.bytes (atomicNew op sub q.bytes (bytesToNat (s.memRead q.addr q.bytes)) y.toNat new.toNat)

section
variable {s : State} {rid : Nat} {q : Req} (h : s.req? rid = some q) (hp : s.mayPerform rid q = true) (hw : q.path ≠ .window)
include h hp hw

/-- A request that may be performed is performed at its home. -/
theorem homePortAccess_performs : exec (.homePortAccess rid) s = .next ((s.performMem rid q).dropDone rid) := by
  rw [exec_homePortAccess]
  simp only [execHomePortAccess, h, hp, Bool.true_eq_false, if_false, if_neg hw]

/-- An atomic that does not merge replaces its element and keeps the old one (R161, R163). -/
theorem homePortAccess_atomic {op sub : Nat} {y new : Word64} (hk : q.kind = .atomic op sub y new)
    (hm : s.mergeable q op = false) (hop : op ≠ 0x52) (hc : (s.turned q).devPoisonOf q = none) :
    exec (.homePortAccess rid) s = .next
      ((((s.turned q).homeWrite (some (q.gang, q.core)) q.addr ((s.turned q).atomicBytes q op sub y new)
          (((s.turned q).atomicBytes q op sub y new).map (fun _ => true)) false false q.gp q.owner).reply rid q
        { data := (s.turned q).memRead q.addr q.bytes }).dropDone rid) := by
  unfold State.turned at hc
  rw [homePortAccess_performs h hp hw]
  simp only [State.performMem, hk, hm, Bool.false_eq_true, if_false, State.atomicAt, hc, hop, false_and]
  rfl

end

/-! ## Replies (R153, R155, R161, R165) -/

section
variable {s : State} {rid : Nat} {q : Req} {rep : Reply} {o : Op} {r : RegName} {answers : Bool}
  (h : s.req? rid = some q) (hp : q.performed = some rep) (ho : s.op? q.op = some o) (hl : s.canLand o = true)
  (hd : o.kind = .device (some r) answers)
include h hp ho hl hd

/-- A load's reply writes its register, and its tag clears. -/
theorem deviceLoadReturn_load {sx : Bool} (hk : q.kind = .load sx) : exec (.deviceLoadReturn rid) s
    = .next (s.endReq rid q.op o [{ reg := r, val := .w (extendLoad sx rep.data), poison := rep.poison }]) := by
  rw [exec_deviceLoadReturn]
  simp only [execDeviceLoadReturn, h, hp, ho, hl, hk, destWrite, hd, Bool.not_true, Bool.false_eq_true, if_false]

theorem deviceLoadReturn_vload {tag : BitVec 5} {bw : BitVec 32} (hk : q.kind = .vload tag bw) : exec (.deviceLoadReturn rid) s
    = .next (s.endReq rid q.op o
        [{ reg := r, val := .v { data := bytesVec rep.data, tag := tag, bw := bw }, poison := rep.poison }]) := by
  rw [exec_deviceLoadReturn]
  simp only [execDeviceLoadReturn, h, hp, ho, hl, hk, destWrite, hd, Bool.not_true, Bool.false_eq_true, if_false]

theorem deviceLoadReturn_cload (hk : q.kind = .cload) : exec (.deviceLoadReturn rid) s
    = .next (s.endReq rid q.op o
        [{ reg := r, val := .k { bits := BitVec.ofNat 128 (bytesToNat rep.data), valid := rep.tag }, poison := rep.poison }]) := by
  rw [exec_deviceLoadReturn]
  simp only [execDeviceLoadReturn, h, hp, ho, hl, hk, destWrite, hd, Bool.not_true, Bool.false_eq_true, if_false]

/-- An atomic's reply writes the old value. -/
theorem atomicReply_writes {op sub : Nat} {y new : Word64} (hk : q.kind = .atomic op sub y new) : exec (.atomicReply rid) s
    = .next (s.endReq rid q.op o [{ reg := r, val := .w (extendLoad false rep.data), poison := rep.poison }]) := by
  have hc : s.canLand o = true ∧ OpKind.device (some r) answers ≠ .device none false := ⟨hl, by simp⟩
  rw [exec_atomicReply]
  simp only [execAtomicReply, h, hp, ho, hk, destWrite, hd, if_pos hc]

/-- A wait that is satisfied writes the value that satisfied it. -/
theorem waitmemSatisfied_writes {cond : Nat} {y : Word64} (hk : q.kind = .wait cond y) (hv : rep.void = false) :
    exec (.waitmemSatisfied rid) s
      = .next (s.endReq rid q.op o [{ reg := r, val := .w (extendLoad false rep.data), poison := rep.poison }]) := by
  rw [exec_waitmemSatisfied]
  simp only [execWaitmemSatisfied, h, hp, ho, hk, hl, hv, destWrite, hd, Bool.not_true, Bool.false_eq_true, if_false]

end

/-! ## Writes that are accepted (R153, R154, R286) -/

theorem mem_insertBy {α : Type} {f : α → Nat} {x y : α} {l : List α} (h : y ∈ insertBy f x l) : y = x ∨ y ∈ l := by
  induction l with
  | nil => exact .inl (by simpa [insertBy] using h)
  | cons z r ih =>
    unfold insertBy at h
    split at h
    · simpa using h
    · rcases List.mem_cons.mp h with rfl | h
      · simp
      · rcases ih h with h | h <;> simp [h]

/-- Sorting keeps the elements. -/
theorem mem_of_mem_sortBy {α : Type} {f : α → Nat} {l : List α} {y : α} (h : y ∈ sortBy f l) : y ∈ l := by
  have hf : ∀ (l r : List α), y ∈ l.foldl (fun r x => insertBy f x r) r → y ∈ l ∨ y ∈ r := by
    intro l
    induction l with
    | nil => exact fun _ h => .inr h
    | cons x l ih =>
      intro r h
      rcases ih _ h with h | h
      · simp [h]
      · rcases mem_insertBy h with h | h <;> simp [h]
  exact (hf l [] h).resolve_right (by simp)

section
variable (s : State) (n rid : Nat)

/-- A write that takes a later place changes no other request. -/
theorem State.rearrive_other (h : n ≠ rid) : (s.rearrive n).req? rid = s.req? rid := by
  unfold State.rearrive
  split
  · exact tableGet?_tableSet_other _ _ h.symm
  · rfl

/-- It is no more performed than before. -/
theorem State.rearrive_performed : ((s.rearrive n).req? rid).map (·.performed) = (s.req? rid).map (·.performed) := by
  by_cases h : n = rid
  · subst h
    unfold State.rearrive
    split
    · next r hr => rw [hr]; simp only [State.req?, State.take, tableGet?_tableSet_same, Option.map_some]
    · rfl
  · rw [State.rearrive_other s n rid h]

theorem State.rearrive_ops : (s.rearrive n).ops = s.ops := by
  unfold State.rearrive
  split <;> rfl

end

/-- What no later place changes, the later places of many writes do not change. -/
theorem foldl_rearrive {β : Type} (g : State → β) (l : List (Nat × Req)) (h : ∀ (s : State), ∀ x ∈ l, g (s.rearrive x.1) = g s)
    (s : State) : g (l.foldl (fun (s : State) x => s.rearrive x.1) s) = g s := by
  induction l generalizing s with
  | nil => rfl
  | cons x r ih => exact (ih (fun s y hy => h s y (List.mem_cons_of_mem _ hy)) _).trans (h s x List.mem_cons_self)

/-- What no later place changes is after an acceptance as with the write's place alone. -/
theorem State.accept_eq {β : Type} (g : State → β) (s : State) (rid : Nat) (q : Req)
    (h : ∀ (u : State), ∀ x ∈ tableSet s.reqs rid { q with accepted := true, arrived := if q.arrived = 0 then s.fresh else q.arrived },
      q.num < x.2.num → g (u.rearrive x.1) = g u) :
    g (s.accept rid q) = g { s with
      fresh := s.fresh + 1
      reqs := tableSet s.reqs rid { q with accepted := true, arrived := if q.arrived = 0 then s.fresh else q.arrived } } := by
  simp only [State.accept, State.take]
  split
  · refine foldl_rearrive g _ (fun u x hx => ?_) _
    obtain ⟨hmem, hc⟩ := List.mem_filter.mp (mem_of_mem_sortBy hx)
    simp only [Bool.and_eq_true, decide_eq_true_eq] at hc
    exact h u x hmem hc.2
  · rfl

/-- A write that is accepted has its place, where its number names no other request. -/
theorem State.accept_req? {s : State} {rid : Nat} {q : Req} (h : ∀ x ∈ s.reqs, x.1 = rid → x.2 = q) :
    (s.accept rid q).req? rid
      = some { q with accepted := true, arrived := if q.arrived = 0 then s.fresh else q.arrived } := by
  refine (State.accept_eq (·.req? rid) s rid q fun u x hx hn => ?_).trans (tableGet?_tableSet_same ..)
  refine State.rearrive_other u x.1 rid fun he => ?_
  rcases mem_tableSet hx with rfl | hx
  · exact Nat.lt_irrefl _ hn
  · rw [h x hx he] at hn
    exact Nat.lt_irrefl _ hn

/-- A write that is accepted before it is performed stands. -/
theorem State.accept_dropDone {s : State} {rid : Nat} {q : Req} (h : q.performed = none) :
    (s.accept rid q).dropDone rid = s.accept rid q := by
  have hp : ((s.accept rid q).req? rid).map (·.performed) = some none :=
    (State.accept_eq (fun u => (u.req? rid).map (·.performed)) s rid q fun u x _ _ => u.rearrive_performed x.1 rid).trans
      (by simp only [State.req?, tableGet?_tableSet_same, Option.map_some, h])
  obtain ⟨r, hr, hn⟩ := Option.map_eq_some_iff.mp hp
  simp only [State.dropDone, hr, hn, Option.isSome_none, Bool.and_false, Bool.false_eq_true, if_false]

/-- An accepted store's tag clears (R153, R286). -/
theorem storeAccepted_clears {s : State} {rid : Nat} {q : Req} {o : Op} (h : s.req? rid = some q) (hm : s.mayAccept rid q = true)
    (hp : q.performed = none) (ho : s.op? q.op = some o) (hk : o.kind = .device none false) :
    exec (.storeAccepted rid) s = .next (((s.accept rid q).boundOf o).clearTag q.op o []) := by
  have hops : (s.accept rid q).op? q.op = some o :=
    (State.accept_eq (·.op? q.op) s rid q fun u x _ _ => by simp only [State.op?, u.rearrive_ops]).trans ho
  have hn : ¬(o.kind = .tileImage ∧ (s.accept rid q).imageAccepted q.op = false) := by simp [hk]
  rw [exec_storeAccepted]
  simp only [execStoreAccepted, h, hm, Bool.true_eq_false, if_false, State.accept_dropDone hp, hops, if_neg hn]

/-! ## Release waits (R153) -/

section
variable {s : State} {aid : Nat}

/-- A release that held its context may issue. -/
theorem releaseWaitDone_unblocks (hb : (s.act aid).block = some .release) (hm : s.memBusy aid = false)
    (hf : ∀ x ∈ s.ops, x.2.act = aid → x.2.kind ≠ .fence) :
    exec (.releaseWaitDone aid) s = .next (s.setAct aid { s.act aid with block := none }) := by
  have hnone (p : Nat × Op → Bool) :
      s.ops.find? (fun x => x.2.act == aid && x.2.kind == .fence && p x) = none := by
    refine List.find?_eq_none.mpr fun x hx => ?_
    have := hf x hx
    by_cases ha : x.2.act = aid <;> simp_all
  rw [exec_releaseWaitDone]
  simp only [execReleaseWaitDone, hb, hm, and_self, if_true, State.setAct_ops, hnone]

/-- A FENCE whose earlier accesses are done completes. -/
theorem releaseWaitDone_fence {oid : Nat} {o : Op} (hb : (s.act aid).block ≠ some .release)
    (hf : s.ops.find? (fun x => x.2.act == aid && x.2.kind == .fence && s.memDone aid x.2.num) = some (oid, o)) :
    exec (.releaseWaitDone aid) s = .next (s.clearTag oid o []) := by
  rw [exec_releaseWaitDone]
  simp only [execReleaseWaitDone, hb, false_and, if_false, hf]

end

/-- Settles O29, event by event. -/
theorem homePortEventsHappen : Obligations.HomePortEventsHappen := by
  unfold Obligations.HomePortEventsHappen
  intro rid aid core line oid q rep o r answers sx bs mask tag bw opc sub cond y new l
  refine ⟨fun s ⟨h, hp, hw, hk⟩ => ?load, fun s ⟨h, hp, hw, hk⟩ => ?store, fun s ⟨⟨h, hp, hw, hk⟩, hm⟩ => ?merge,
    fun s ⟨⟨h, hp, hw, hk⟩, hm, hop, hc⟩ => homePortAccess_atomic h hp hw hk hm hop hc,
    fun s ⟨h, hp, ho, hk, hl, hd⟩ => deviceLoadReturn_load h hp ho hl hd hk,
    fun s ⟨h, hp, ho, hk, hl, hd⟩ => deviceLoadReturn_vload h hp ho hl hd hk,
    fun s ⟨h, hp, ho, hk, hl, hd⟩ => deviceLoadReturn_cload h hp ho hl hd hk,
    fun s ⟨h, hp, ho, hk, hl, hd⟩ => atomicReply_writes h hp ho hl hd hk,
    fun s ⟨⟨h, hp, ho, hk, hl, hd⟩, _, hv⟩ => waitmemSatisfied_writes h hp ho hl hd hk hv,
    fun s ⟨h, hm, hp, ho, hk⟩ => storeAccepted_clears h hm hp ho hk, fun s h => State.accept_req? h, fun _ _ => rfl,
    fun s ⟨hb, hm, hf⟩ => releaseWaitDone_unblocks hb hm hf, fun s ⟨hb, hf⟩ => releaseWaitDone_fence hb hf, fun s h => ?expiry⟩
  case load =>
    rw [homePortAccess_performs h hp hw]
    simp only [State.performMem, hk]
  case store =>
    rw [homePortAccess_performs h hp hw]
    simp only [State.performMem, hk]
  case merge =>
    rw [homePortAccess_performs h hp hw]
    simp only [State.performMem, hk, hm, if_true]
  case expiry =>
    rw [exec_l1LineExpiry]
    simp only [execL1LineExpiry, h]

end Sys2Proof.Machine
end

section
/-! The frame of the words that write no memory when they issue: what the pipeline leaves of the partitions and of the count of words,
and what an issue leaves of the registers and special registers whatever the word's own part changed (R41, R99, R105..R107, R130..R132). -/
namespace Sys2Proof.Machine

/-! ## A word that does not issue -/

/-- The partitions stand as they were, and the context has issued no word. -/
structure State.Still (s t : State) (aid : Nat) : Prop where
  parts : t.parts = s.parts
  num : (t.act aid).num = (s.act aid).num

namespace State.Still
variable {s t u : State} {c aid : Nat}

theorem refl (s : State) (aid : Nat) : s.Still s aid := ⟨rfl, rfl⟩

theorem trans (h : s.Still t aid) (k : t.Still u aid) : s.Still u aid := ⟨k.parts.trans h.parts, k.num.trans h.num⟩

theorem setAct (s : State) {aid : Nat} {a : Act} (h : a.num = (s.act aid).num) : s.Still (s.setAct aid a) aid := ⟨rfl, by simpa using h⟩

theorem setCore (s : State) (aid k : Nat) (x : Core) : s.Still (s.setCore k x) aid := ⟨rfl, rfl⟩

theorem setGang (s : State) (aid g : Nat) (x : Gang) : s.Still (s.setGang g x) aid := ⟨rfl, rfl⟩

theorem settle (s : State) (k aid : Nat) : s.Still (s.settle k aid) aid :=
  (setAct s (Act.sameBut_landAll _).num).trans (setCore _ _ _ _)

theorem noteFault (s : State) (aid g k : Nat) (r : TrapReq) : s.Still (s.noteFault g r k) aid := by
  unfold State.noteFault
  split
  · exact refl _ _
  split
  · exact refl _ _
  · exact setGang _ _ _ _

theorem reportStop (s : State) (aid : Nat) (r : TrapReq) : s.Still (s.reportStop aid r) aid :=
  (setAct s (a := { s.act aid with run := .stopped, trapPend := none }) rfl).trans (noteFault _ _ _ _ _)

theorem nestedFault (s : State) (aid : Nat) (r : TrapReq) : s.Still (s.nestedFault aid r) aid := by
  unfold State.nestedFault
  refine (setAct s (a := { s.act aid with run := .stopped, trapPend := none }) rfl).trans ?_
  dsimp only
  split
  · exact refl _ _
  · exact setGang _ _ _ _

theorem enterTrap (s : State) (aid : Nat) (r : TrapReq) : s.Still (s.enterTrap aid r) aid := by
  unfold State.enterTrap
  refine (settle s (s.act aid).core aid).trans ?_
  generalize s.settle (s.act aid).core aid = u
  dsimp only
  split
  · exact reportStop _ _ _
  split
  · exact nestedFault _ _ _
  refine (setAct u (a := (u.act aid).saveTrap r) rfl).trans ?_
  split
  · exact reportStop _ _ _
  · exact setAct _ (by simp [State.enterHandler])

theorem raise (s : State) (aid : Nat) (x : Trap) : s.Still (s.raise aid x) aid := by
  unfold State.raise State.takeTrap
  split
  · exact enterTrap _ _ _
  · exact setAct _ rfl

theorem idle (s : State) (c aid : Nat) (h : s.portAct c = some aid) : s.Still (s.idle c) aid := by
  have hp : (s.setCore c { s.core c with cycle := (s.core c).cycle + 1 }).portAct c = some aid := by
    simpa [State.portAct] using h
  simp only [State.idle, hp]
  exact (setCore s aid c _).trans (setAct _ (Act.sameBut_landDue _ _).num)

theorem awaitWrite (s : State) (c aid : Nat) : s.Still (s.awaitWrite c aid) aid := by
  unfold State.awaitWrite
  split
  · exact (setCore s aid c _).trans (setAct _ (Act.sameBut_landDue _ _).num)
  · exact refl _ _

theorem switchPort (h : s.portAct c = some aid) : s.Still (s.switchPort c) aid := by
  have hp : (s.setAct aid { s.act aid with parkTick := s.tick }).portAct c = some aid := h
  simp only [State.switchPort, h, State.passPort, hp]
  exact (setAct s (a := { s.act aid with parkTick := s.tick }) rfl).trans
    ((setAct _ (Act.sameBut_landAll _).num).trans (setCore _ _ _ _))

/-- Joining the walks changes the walks alone. -/
theorem joinWalks_eq (s : State) (aid : Nat) (b : Block) : ∃ w, s.joinWalks aid b = { s with walks := w } := by
  cases b with
  | walk obj off n write atom =>
    dsimp only [State.joinWalks, State.askWalk]
    split <;> exact ⟨_, rfl⟩
  | _ => exact ⟨s.walks, rfl⟩

theorem blockOn (h : s.portAct c = some aid) (b : Block) : s.Still (s.blockOn c aid b) aid := by
  obtain ⟨w, hw⟩ := joinWalks_eq s aid b
  have hj : s.Still (s.joinWalks aid b) aid := hw ▸ ⟨rfl, rfl⟩
  have hp : (s.joinWalks aid b).portAct c = some aid := hw ▸ h
  exact (hj.trans (setAct _ (a := { s.act aid with block := some b }) hj.num.symm)).trans (switchPort hp)

/-- What a wait that holds a word leaves, for a word that is no EXIT. -/
theorem waits {a : Act} {cl : Clauses} {n : Need} (hp : s.portAct c = some aid) (hn : n.exit = false)
    (h : s.waits c aid a cl n = some t) : s.Still t aid := by
  have some_eq {u : State} (hu : s.Still u aid) (he : some u = some t) : s.Still t aid := by injection he with he; exact he ▸ hu
  simp only [State.waits, hn, Bool.false_eq_true, false_and, if_false] at h
  split at h
  · exact some_eq (switchPort hp) h
  split at h
  · exact some_eq (switchPort hp) h
  · exact some_eq (idle s c aid hp) h
  split at h
  · exact some_eq (awaitWrite _ _ _) h
  split at h
  · exact some_eq (blockOn hp _) h
  split at h
  · split at h
    · exact some_eq (blockOn hp _) h
    · exact some_eq (idle s c aid hp) h
  split at h
  · exact some_eq (idle s c aid hp) h
  split at h
  · exact some_eq (idle s c aid hp) h
  · cases h

end State.Still

/-! ## What a word's own part leaves of its context -/

/-- The context still counts the same words, has the same results in flight, and keeps each register and special register that the
word does not itself write; only DEADMK touches live bits (R144). -/
structure Act.Leaves (i : Instr) (x y : Act) : Prop where
  num : y.num = x.num
  fixed : y.fixed = x.fixed
  special : x.SameSpecial (x.putBack i y)
  val : ∀ r, y.valOf r = x.valOf r
  poison : ∀ r, y.poison? r = x.poison? r
  live : (∀ m a cl, i ≠ .deadmk m a cl) → ∀ r, y.live r = x.live r

theorem Act.SameSpecial.refl (x : Act) : x.SameSpecial x := ⟨rfl, rfl, rfl, rfl, rfl, rfl, rfl, rfl, rfl, rfl, rfl, rfl, rfl, rfl⟩

/-- Contexts with the same special registers have the same ones once the word's own are put back. -/
theorem Act.SameSpecial.putBack {a b : Act} (h : a.SameSpecial b) (x : Act) (i : Instr) : (x.putBack i a).SameSpecial (x.putBack i b) := by
  cases h
  unfold Act.putBack
  split <;> constructor <;> simp only [*]

/-! ## The results of a word as it issues (R99, R132) -/

/-- Nothing lands before it is due. -/
theorem Act.landDue_none {a : Act} {n : Nat} (h : ∀ w ∈ a.fixed, n < w.due) : a.landDue n = a := by
  have hd : a.fixed.filter (fun w => decide (w.due ≤ n)) = [] :=
    List.filter_eq_nil_iff.mpr fun w hw => by simpa using h w hw
  have hk : a.fixed.filter (fun w => !decide (w.due ≤ n)) = a.fixed :=
    List.filter_eq_self.mpr fun w hw => by simpa using h w hw
  simp only [Act.landDue, hd, hk, List.foldl_nil]

/-- With no result in flight before it, a word's own is due after its latency. -/
theorem Act.issuing_due {a0 a : Act} {i : Instr} {cl : Clauses} {n : Nat} {e : Eff} (h : a.fixed = []) :
    ∀ w ∈ (a0.issuing a i cl n e).fixed, w.due = n + e.lat := by
  intro w hw
  unfold Act.issuing at hw
  dsimp only at hw
  split at hw
  · simp [Act.releases_fixed, h] at hw
  · simp only [Act.releases_fixed, h, List.nil_append, List.mem_singleton] at hw
    subst hw
    simp [Act.dueFor, Act.releases_fixed]

/-- A word without results has none in flight as it retires. -/
theorem Act.retire_fixed_nil {a0 a : Act} {i : Instr} {cl : Clauses} {n : Nat} {e : Eff} (h : a.fixed = []) (hw : e.writes = [])
    (hf : e.flags = 0) : (a0.retire a i cl n e).fixed = [] := by
  have hi : (a0.issuing a i cl n e).fixed = [] := by simp [Act.issuing, hw, hf, Act.releases_fixed, h]
  have hc : ((a0.issuing a i cl n e).counting a0 e.op ((releases i cl).filter a0.live) (a0.sequence cl).1).fixed = [] := hi
  rw [Act.retire_counting, Act.landDue_none (by simp [hc]), hc]

/-- A result that is not due yet leaves the word as it counts. -/
theorem Act.retire_late {a0 a : Act} {i : Instr} {cl : Clauses} {n : Nat} {e : Eff} (h : a.fixed = []) (hl : 2 ≤ e.lat) :
    a0.retire a i cl n e
      = (a0.issuing a i cl n e).counting a0 e.op ((releases i cl).filter a0.live) (a0.sequence cl).1 := by
  rw [Act.retire_counting, Act.landDue_none fun w hw => ?_]
  have := Act.issuing_due h w hw
  omega

section
variable {a0 a : Act} {i : Instr} {cl : Clauses} {n : Nat} {e : Eff} (h : a.fixed = []) (hf : e.flags = 0 ∨ 2 ≤ e.lat)
include h hf

/-- The special registers as a word retires that raises no flag, or raises it later (R132). -/
theorem Act.SameSpecial.retiring : a.SameSpecial (a0.retire a i cl n e) := by
  rcases hf with hf | hl
  · exact .retire h hf
  · rw [Act.retire_late h hl]
    exact ((Act.SameSpecial.setLink _ _).trans ((Act.sameBut_issuing a0 a i cl n e).sameSpecial (Act.issuing_asw ..))).trans .counting

/-- A register that the word does not write, as it retires. -/
theorem Act.SameReg.retiring {r : RegName} (hr : r.num < 64) (hw : ∀ x ∈ e.writes, x.reg.num < 64 ∧ r ≠ x.reg) :
    a.SameReg (r ∉ releases i cl) r (a0.retire a i cl n e) := by
  rcases hf with hf | hl
  · exact .retire h hf hr hw
  · rw [Act.retire_late h hl]
    exact Act.SameReg.issuing.trans .counting

end

/-! ## What a word's own part leaves of the state -/

/-- What a word's own part leaves of the state, and of its context. -/
structure State.Leaves (i : Instr) (s u : State) (c aid : Nat) : Prop where
  keeps : s.Keeps u c aid
  parts : writesSystem i = false → u.parts = s.parts
  act : (s.act aid).Leaves i (u.act aid)

/-- The effect of a word of the frame: its state leaves what the frame names, it writes its destination alone, raises a flag at
the cycle after its issue at the earliest, and writes neither lk nor lc; after it nothing follows, or, for a word without
results, the port passes until its verdict. -/
structure Eff.Leaves (i : Instr) (s : State) (c aid : Nat) (e : Eff) : Prop where
  st : s.Leaves i e.st c aid
  writes : ∀ w ∈ e.writes, some w.reg = destOf i
  flags : e.flags = 0 ∨ 2 ≤ e.lat
  link : e.lk = none ∧ e.lc = none
  post : e.post = .none ∨ (e.post = .verdict ∧ e.st.portAct c = some aid ∧ e.writes = [] ∧ e.flags = 0)

/-- How the own part of a word of the frame ends. -/
def Res.Leaves (i : Instr) (s : State) (c aid : Nat) (r : Res) : Prop :=
  match r with
  | .trap _ | .wait _ => True
  | .hold u => s.Keeps u c aid ∧ s.Still u aid
  | .go e => e.Leaves i s c aid

/-- What the issue of a word leaves of its context (R94, R106, R107, R132). -/
structure Act.Issued (i : Instr) (x y : Act) : Prop where
  special : x.SameSpecial (x.putBack i y)
  val : ∀ r : RegName, r.num < 64 → some r ≠ destOf i → y.valOf r = x.valOf r
  poison : ∀ r : RegName, r.num < 64 → some r ≠ destOf i → y.poison? r = x.poison? r
  live : ∀ r : RegName, r.num < 64 → some r ≠ destOf i → r ∉ releases i (fieldsOf i).cl →
    (∀ m a, i ≠ .deadmk m a (fieldsOf i).cl) → y.live r = x.live r
  link : (fieldsOf i).cl.seqMode ≠ 4 → (fieldsOf i).cl.seqMode ≠ 6 → y.lk = x.lk ∧ y.lc = x.lc

/-- What blocks a context and passes its port changes none of that. -/
theorem Act.Issued.aside {i : Instr} {x y : Act} (h : x.Issued i y) (b : Option Block) (k : Nat) :
    x.Issued i { y with block := b, parkTick := k } := by
  have hr (r : RegName) : y.SameReg True r { y with block := b, parkTick := k } := .aside
  refine ⟨h.special.trans (Act.SameSpecial.putBack (a := y) (b := { y with block := b, parkTick := k })
    ⟨rfl, rfl, rfl, rfl, rfl, rfl, rfl, rfl, rfl, rfl, rfl, rfl, rfl, rfl⟩ x i),
    fun r h1 h2 => (hr r).val.trans (h.val r h1 h2), fun r h1 h2 => (hr r).poison.trans (h.poison r h1 h2),
    fun r h1 h2 h3 h4 => ((hr r).live trivial).trans (h.live r h1 h2 h3 h4), h.link⟩

/-- The context as it retires. -/
theorem Eff.Leaves.issued {i : Instr} {s : State} {c aid n : Nat} {e : Eff} (h : e.Leaves i s c aid) (hf : (s.act aid).fixed = []) :
    (s.act aid).Issued i ((s.act aid).retire (e.st.act aid) i (fieldsOf i).cl n e) := by
  have hx := h.st.act
  have ha := hx.fixed.trans hf
  have hreg (r : RegName) (h1 : r.num < 64) (h2 : some r ≠ destOf i) := Act.SameReg.retiring (a0 := s.act aid) (i := i)
    (cl := (fieldsOf i).cl) (n := n) ha h.flags h1 fun w hw => ⟨destOf_num_lt (h.writes w hw).symm, fun e' => h2 (e' ▸ h.writes w hw)⟩
  refine ⟨hx.special.trans (.putBack (.retiring ha h.flags) _ _), fun r h1 h2 => (hreg r h1 h2).val.trans (hx.val r),
    fun r h1 h2 => (hreg r h1 h2).poison.trans (hx.poison r), fun r h1 h2 h3 h4 => ?_, fun h4 h6 => ?_⟩
  · refine ((hreg r h1 h2).live h3).trans (hx.live (fun m a cl e' => h4 m a ?_) r)
    rw [e']
    rfl
  · obtain ⟨hk, hc⟩ := Act.retire_link (s.act aid) (e.st.act aid) i (fieldsOf i).cl n e
    rw [hk, hc, h.link.1, h.link.2, Option.getD_none, Option.getD_none, Act.sequence_link h4 h6]
    exact ⟨rfl, rfl⟩

/-- The port passes from a context with no result in flight. -/
theorem State.act_switchPort {s : State} {c aid : Nat} (h : s.portAct c = some aid) (hf : (s.act aid).fixed = []) :
    (s.switchPort c).act aid = { s.act aid with parkTick := s.tick } := by
  have hp : (s.setAct aid { s.act aid with parkTick := s.tick }).portAct c = some aid := h
  simp only [State.switchPort, h, State.passPort, hp, State.act_setCore, State.act_setAct_same]
  exact Act.landAll_nil hf

/-- Keeping a sample changes the operations alone. -/
theorem State.keepSample_eq (v : State) (op : Option Nat) : ∃ os, v.keepSample op v = { v with ops := os } := by
  unfold State.keepSample
  split
  · exact ⟨v.ops, rfl⟩
  split
  · exact ⟨v.ops, rfl⟩
  · exact ⟨_, rfl⟩

/-- An issue after which the port passes until the word's verdict, without a sample (R98, R344). -/
theorem State.issue_verdict {s : State} {c aid : Nat} {i : Instr} {cl : Clauses} {e : Eff} (hp : e.post = .verdict)
    (hs : e.st.stip c = 0) :
    ∃ v : State, s.issue c aid i cl e = (v.setAct aid { v.act aid with block := some .verdict }).switchPort c ∧
      v.act aid = (s.act aid).retire (e.st.act aid) i cl (s.core c).cycle e ∧ v.parts = e.st.parts ∧ v.portAct c = e.st.portAct c := by
  have hz : ((e.st.setAct aid ((s.act aid).retire (e.st.act aid) i cl (s.core c).cycle e)).clocked c).stip c = 0 := hs
  have ha := State.portAct_clocked (e.st.setAct aid ((s.act aid).retire (e.st.act aid) i cl (s.core c).cycle e)) c c
  obtain ⟨os, h⟩ := State.keepSample_eq ((e.st.setAct aid ((s.act aid).retire (e.st.act aid) i cl (s.core c).cycle e)).clocked c) e.op
  refine ⟨{ (e.st.setAct aid ((s.act aid).retire (e.st.act aid) i cl (s.core c).cycle e)).clocked c with ops := os }, ?_, ?_, rfl, ha⟩
  · simp only [State.issue, State.stipple, hz, hp, State.after, ↓reduceIte, h]
  · exact State.act_setAct_same _ _ _

/-- What the frame says of the next state of a word (R41, R99, R105..R107, R131, R132). -/
structure Framed (i : Instr) (s t : State) (c aid : Nat) : Prop where
  keeps : s.Keeps t c aid
  parts : writesSystem i = false → t.parts = s.parts
  issued : (s.act aid).fixed = [] → (t.act aid).num = (s.act aid).num + 1 → (s.act aid).Issued i (t.act aid)

/-- A word that does not issue. -/
theorem Framed.of_still {i : Instr} {s t : State} {c aid : Nat} (hk : s.Keeps t c aid) (h : s.Still t aid) : Framed i s t c aid :=
  ⟨hk, fun _ => h.parts, fun _ hn => absurd (h.num.symm.trans hn) (by omega)⟩

/-- A word that issues with such an effect. -/
theorem Framed.issue {i : Instr} {s : State} {c aid : Nat} {e : Eff} (hs : s.stip c = 0) (h : e.Leaves i s c aid) :
    Framed i s (s.issue c aid i (fieldsOf i).cl e) c aid := by
  have hz := (State.stip_eq h.st.keeps c).trans hs
  have hk : s.Keeps (s.issue c aid i (fieldsOf i).cl e) c aid :=
    .issue h.st.keeps hs (h.post.imp_right fun ⟨hp, ha, _⟩ => ⟨hp, ha⟩)
  rcases h.post with hp | ⟨hp, ha, hw, hf⟩
  · refine ⟨hk, fun hi => ?_, fun hx _ => ?_⟩
    · rw [State.issue_plain hp hz]
      exact h.st.parts hi
    · rw [State.issue_plain hp hz, State.act_clocked, State.act_setAct_same]
      exact h.issued hx
  · refine ⟨hk, fun hi => ?_, fun hx _ => ?_⟩
    all_goals
      obtain ⟨v, he, hva, hvp, hvc⟩ := State.issue_verdict (s := s) (aid := aid) (i := i) (cl := (fieldsOf i).cl) hp hz
      have hv : (v.setAct aid { v.act aid with block := some .verdict }).portAct c = some aid := hvc.trans ha
    · rw [he]
      exact ((State.Still.switchPort hv).parts.trans hvp).trans (h.st.parts hi)
    · have hn : (v.act aid).fixed = [] := hva ▸ Act.retire_fixed_nil (h.st.act.fixed.trans hx) hw hf
      rw [he, State.act_switchPort hv (by simpa using hn), State.act_setAct_same, hva]
      exact (h.issued hx).aside _ _

/-- A word that waits for no busy tag at its end, as EXIT does, is in the frame if its own part is. -/
theorem Framed.runWith {i : Instr} {s t : State} {c aid : Nat} {need : Act → Need} {pre : Act → State → Option Trap}
    {body : Nat → Nat → Act → State → Res} (hc : s.Holds c aid) (hs : s.stip c = 0) (hn : (need (s.act aid)).exit = false)
    (hb : (body c aid (s.act aid) s).Leaves i s c aid) (h : Machine.runWith i (fieldsOf i).cl need pre body s = .next t) :
    Framed i s t c aid := by
  rcases runWith_cases i (fieldsOf i).cl need pre body s with ⟨hn', _⟩ | ⟨c', aid', hc', h1⟩
  · rw [State.Holds, hn'] at hc; cases hc
  · have he : c' = c ∧ aid' = aid := by rw [State.Holds] at hc; rw [hc] at hc'; simpa [eq_comm] using hc'
    obtain ⟨rfl, rfl⟩ := he
    rcases h1 with ⟨_, h1⟩ | ⟨u, hw, h1⟩ | ⟨u, hw, h1⟩ | ⟨b, _, h1⟩ | ⟨e, hw, h1⟩
    all_goals rw [h1] at h; injection h with h; subst h
    · exact .of_still (.raise _ _ _ _) (.raise _ _ _)
    · exact .of_still (.waits hc.portAct hn hw) (.waits hc.portAct hn hw)
    · rw [hw] at hb; exact .of_still hb.1 hb.2
    · exact .of_still (.blockOn hc.portAct _) (.blockOn hc.portAct _)
    · rw [hw] at hb; exact .issue hs hb

end Sys2Proof.Machine
end

section
/-! The frame of each word that writes no memory when it issues: what its own part leaves (R41, R113, R129..R132, R142..R146, R152..R171,
R174..R192, R207..R230, R258, R259, R274). -/
namespace Sys2Proof.Machine
set_option Elab.async false

/-! ## What the shared operations leave -/

/-- A state beside another: it differs in the caches, queues, operations and requests alone. -/
structure State.Beside (s u : State) (c aid : Nat) : Prop where
  keeps : s.Keeps u c aid
  parts : u.parts = s.parts
  act : u.act aid = s.act aid
  port : u.portAct c = s.portAct c

namespace State.Beside
variable {s u v : State} {c aid : Nat}

theorem refl (s : State) (c aid : Nat) : s.Beside s c aid := ⟨.refl _ _ _, rfl, rfl, rfl⟩

theorem trans (h : s.Beside u c aid) (k : u.Beside v c aid) : s.Beside v c aid :=
  ⟨h.keeps.trans k.keeps, k.parts.trans h.parts, k.act.trans h.act, k.port.trans h.port⟩

theorem foldl {β : Type} {f : State → β → State} (hf : ∀ (v : State) (x : β), v.Beside (f v x) c aid) (l : List β) (s : State) :
    s.Beside (l.foldl f s) c aid := by
  induction l generalizing s with
  | nil => exact refl s c aid
  | cons x l ih => exact (hf s x).trans (ih _)

/-- A change of the core's caches or of its unit's queue. -/
theorem setCore (s : State) (c aid : Nat) {x : Core} (h : (s.core c).SameMemory x) (hs : x.slots = (s.core c).slots := by rfl)
    (hh : x.holder = (s.core c).holder := by rfl) : s.Beside (s.setCore c x) c aid :=
  ⟨.clock h, rfl, rfl, by simp only [State.portAct, State.core_setCore_same, hs, hh]⟩

theorem touch (s : State) (c aid : Nat) (e : OtcEntry) : s.Beside (s.touch c e) c aid := by
  unfold State.touch
  split
  · exact refl _ _ _
  · exact setCore _ _ _ ⟨rfl, rfl, rfl, rfl, rfl, rfl, rfl, fun _ => rfl⟩

theorem l1Drop (s : State) (c aid l : Nat) : s.Beside (s.l1Drop c l) c aid :=
  setCore _ _ _ ⟨rfl, rfl, rfl, rfl, rfl, rfl, rfl, fun _ => rfl⟩

theorem l1Store (s : State) (c aid a : Nat) (bs : List Byte) (m : List Bool) : s.Beside (s.l1Store c a bs m) c aid := by
  unfold State.l1Store
  split
  · exact setCore _ _ _ ⟨rfl, rfl, rfl, rfl, rfl, rfl, rfl, fun _ => rfl⟩
  · exact refl _ _ _

theorem l1Clear (s : State) (c aid : Nat) : s.Beside (s.l1Clear c) c aid :=
  setCore _ _ _ ⟨rfl, rfl, rfl, rfl, rfl, rfl, rfl, fun _ => rfl⟩

theorem noteUncorr (s : State) (c aid g : Nat) (p : Poison) (b : Bool) : s.Beside (s.noteUncorr g p b) c aid :=
  ⟨.noteUncorr s c aid g p b, rfl, rfl, rfl⟩

theorem addOp (s : State) (c aid : Nat) (o : Op) : s.Beside (s.addOp o).2 c aid := ⟨.addOp s c aid o, rfl, rfl, rfl⟩

theorem send (s : State) (c aid : Nat) (r : Req) : s.Beside (s.send r) c aid := ⟨.send s c aid r, rfl, rfl, rfl⟩

theorem sendLines (s : State) (c aid : Nat) (ls : List (OtcEntry × Nat)) (r : OtcEntry → Nat → Nat → Req) :
    s.Beside (s.sendLines ls r) c aid := foldl (fun _ _ => send _ _ _ _) _ _

theorem tagTile (s : State) (c aid n : Nat) (b : Bool) : s.Beside (s.tagTile c n b) c aid :=
  ⟨.tagTile s c aid n b, rfl, rfl, by unfold State.tagTile State.setTile; simp only [State.portAct, State.core_setCore_same]⟩

theorem mqueue (s : State) (c aid : Nat) (q : List Nat) : s.Beside (s.setCore c { s.core c with mqueue := q }) c aid :=
  setCore _ _ _ ⟨rfl, rfl, rfl, rfl, rfl, rfl, rfl, fun _ => rfl⟩

end State.Beside

/-- A context is left by itself. -/
theorem Act.Leaves.of_eq {i : Instr} {x y : Act} (h : y = x) : x.Leaves i y := by
  subst h
  refine ⟨rfl, rfl, ?_, fun _ => rfl, fun _ => rfl, fun _ _ => rfl⟩
  unfold Act.putBack
  split <;> exact ⟨rfl, rfl, rfl, rfl, rfl, rfl, rfl, rfl, rfl, rfl, rfl, rfl, rfl, rfl⟩

/-- A context that changes in nothing but what the word itself writes or no frame names. -/
theorem Act.Leaves.aside {i : Instr} {x y : Act}
    (hs : let z := x.putBack i y
      (z.asw, z.code, z.srstate, z.trap, z.traps, z.bd, z.msh, z.mfm, z.msb, z.gen, z.cut, z.held, z.party, z.tiles)
        = (x.asw, x.code, x.srstate, x.trap, x.traps, x.bd, x.msh, x.mfm, x.msb, x.gen, x.cut, x.held, x.party, x.tiles) := by rfl)
    (ht : y.tip = x.tip := by rfl)
    (h : (y.regs, y.bank, y.num, y.fixed) = (x.regs, x.bank, x.num, x.fixed) := by rfl) : x.Leaves i y := by
  simp only [Prod.mk.injEq] at h hs
  obtain ⟨hr, hk, hn, hf⟩ := h
  obtain ⟨h1, h2, h3, h4, h5, h6, h7, h8, h9, h10, h11, h12, h13, h14⟩ := hs
  have hg (q : RegName) : y.regsFor q = x.regsFor q := by simp only [Act.regsFor, ht, hr, hk]
  exact ⟨hn, hf, ⟨h1, h2, h3, h4, h5, h6, h7, h8, h9, h10, h11, h12, h13, h14⟩,
    fun _ => by simp only [Act.valOf, Act.s, Act.v, Act.p, Act.b, Act.k, hg, hr],
    fun _ => by simp only [Act.poison?, hg], fun _ _ => by simp only [Act.live, hg]⟩

section
variable (a : Act) (l : List Nat) (m : Word64) (f : RegFile)

/-- Live bits cleared under a mask touch registers alone (R144). -/
theorem Act.sameBut_clears : a.SameBut (l.foldl (fun y n => if m.getLsbD n then Act.release y ⟨f, n⟩ else y) a) := by
  refine .foldl _ (fun y n => ?_) l a
  split
  · exact y.sameBut_release _
  · exact .refl y

theorem Act.clears_fixed : (l.foldl (fun y n => if m.getLsbD n then Act.release y ⟨f, n⟩ else y) a).fixed = a.fixed := by
  induction l generalizing a with
  | nil => rfl
  | cons n l ih =>
    refine (ih _).trans ?_
    dsimp only
    split
    · exact a.release_fixed _
    · rfl

theorem Act.clears_asw : (l.foldl (fun y n => if m.getLsbD n then Act.release y ⟨f, n⟩ else y) a).asw = a.asw := by
  refine Act.foldl_asw (fun y n _ => ?_) a
  split
  · unfold Act.release; split <;> rfl
  · rfl

/-- They leave the value and the poison of every register. -/
theorem Act.SameReg.clears (r : RegName) :
    a.SameReg False r (l.foldl (fun y n => if m.getLsbD n then Act.release y ⟨f, n⟩ else y) a) := by
  refine .foldl fun y n _ => ?_
  split
  · exact .release False.elim
  · exact .refl _ _ _

theorem Act.Leaves.clears {mod : BitVec 4} {b : BitVec 6} {cl : Clauses} :
    a.Leaves (.deadmk mod b cl) (l.foldl (fun y n => if m.getLsbD n then Act.release y ⟨f, n⟩ else y) a) :=
  ⟨(a.sameBut_clears l m f).num, a.clears_fixed l m f, (a.sameBut_clears l m f).sameSpecial (a.clears_asw l m f),
    fun r => (Act.SameReg.clears a l m f r).val, fun r => (Act.SameReg.clears a l m f r).poison, fun h => absurd rfl (h mod b cl)⟩

end

namespace State.Leaves
variable {i : Instr} {s u v : State} {c aid : Nat}

theorem of_beside (h : s.Beside u c aid) : s.Leaves i u c aid := ⟨h.keeps, fun _ => h.parts, .of_eq h.act⟩

theorem refl : s.Leaves i s c aid := .of_beside (.refl _ _ _)

theorem beside (h : s.Leaves i u c aid) (k : u.Beside v c aid) : s.Leaves i v c aid :=
  ⟨h.keeps.trans k.keeps, fun hi => k.parts.trans (h.parts hi), k.act ▸ h.act⟩

theorem ite {p : Prop} [Decidable p] (hu : p → s.Leaves i u c aid) (hv : ¬p → s.Leaves i v c aid) :
    s.Leaves i (if p then u else v) c aid := by
  split
  · exact hu ‹_›
  · exact hv ‹_›

/-- A word that changes its context. -/
theorem setAct (h : s.Beside u c aid) {y : Act} (hy : (s.act aid).Leaves i y) (hc : y.core = (s.act aid).core := by rfl) :
    s.Leaves i (u.setAct aid y) c aid :=
  ⟨h.keeps.trans (.setAct _ _ _ (hc.trans (by rw [h.act]))), fun _ => h.parts, by simpa using hy⟩

end State.Leaves

/-! ## How a word's own part ends -/

namespace Res.Leaves
variable {i : Instr} {s u : State} {c aid : Nat}

theorem trap {t : Trap} : (Res.trap t).Leaves i s c aid := trivial

theorem wait {b : Block} : (Res.wait b).Leaves i s c aid := trivial

theorem ite {p : Prop} [Decidable p] {r q : Res} (hr : p → r.Leaves i s c aid) (hq : ¬p → q.Leaves i s c aid) :
    (if p then r else q).Leaves i s c aid := by
  split
  · exact hr ‹_›
  · exact hq ‹_›

theorem idle (h : s.portAct c = some aid) : (Res.hold (s.idle c)).Leaves i s c aid := ⟨.idle h, .idle s c aid h⟩

theorem uncorr {x : Act} {q : Poison} {b : Bool} : (uncorrRes s aid x q b).Leaves i s c aid :=
  ⟨(State.Keeps.noteUncorr _ _ _ _ _ _).trans (.raise _ _ _ _),
    .trans (t := s.noteUncorr x.gang q b) ⟨rfl, rfl⟩ (.raise _ _ _)⟩

/-- A word with a result of its destination that raises no flag. -/
theorem write (h : s.Leaves i u c aid) {l : Nat} {w : RegWrite} (hd : some w.reg = destOf i) : (fixedRes u l [w]).Leaves i s c aid :=
  ⟨h, fun x hx => by rw [List.mem_singleton.mp hx, hd], .inl rfl, ⟨rfl, rfl⟩, .inl rfl⟩

/-- A word with a result of its destination whose flags come with it, after the cycle of its issue. -/
theorem flagged (h : s.Leaves i u c aid) {l : Nat} {w : RegWrite} {f : BitVec 5} (hl : 2 ≤ l) (hd : some w.reg = destOf i) :
    (fixedRes u l [w] f).Leaves i s c aid :=
  ⟨h, fun x hx => by rw [List.mem_singleton.mp hx, hd], .inr hl, ⟨rfl, rfl⟩, .inl rfl⟩

/-- A word with no result of its own. -/
theorem bare (h : s.Leaves i u c aid) {op : Option Nat} : (Res.go { st := u, op := op }).Leaves i s c aid :=
  ⟨h, fun _ hw => absurd hw List.not_mem_nil, .inl rfl, ⟨rfl, rfl⟩, .inl rfl⟩

/-- A word with no result of its own, after which the port passes until its verdict. -/
theorem verdict (h : s.Beside u c aid) (hp : s.portAct c = some aid) {op : Option Nat} :
    (Res.go { st := u, op := op, post := .verdict }).Leaves i s c aid :=
  ⟨.of_beside h, fun _ hw => absurd hw List.not_mem_nil, .inl rfl, ⟨rfl, rfl⟩, .inr ⟨rfl, h.port.trans hp, rfl, rfl⟩⟩

theorem effect (h : s.Leaves i u c aid) : (effectRes u).Leaves i s c aid := bare h

theorem op (h : s.Leaves i u c aid) {o : Op} : (opRes u o).Leaves i s c aid := bare (h.beside (.addOp _ _ _ _))

theorem devIssue (h : s.Leaves i u c aid) {o : Op} {r : Nat → Req} : (devIssue u o r).Leaves i s c aid :=
  bare (h.beside ((State.Beside.addOp _ _ _ _).trans (.send _ _ _ _)))

theorem loadIssue (h : s.Leaves i u c aid) {o : Op} {r : Nat → Req} : (loadIssue u o r).Leaves i s c aid := by
  simp only [Machine.loadIssue]
  split <;> exact bare (h.beside ((State.Beside.addOp _ _ _ _).trans (.send _ _ _ _)))

/-- What a failed check of a device word answers is a trap or a wait. -/
theorem devCheck {x : Act} {kn need op : Nat} {o : Word64} {n : Nat} {write : Bool} {atom : Nat} {r : Res}
    (e : u.devCheck c x kn need op o n write atom = .error r) : r.Leaves i s c aid := by
  unfold State.devCheck at e
  dsimp only at e
  split at e
  · cases e; exact trap
  split at e
  · cases e; exact trap
  split at e
  · cases e; exact trap
  · cases e; exact wait
  · cases e

theorem mat (h : s.portAct c = some aid) {x : Act} {j : Instr} {cl : Clauses} {m : Bool} {ds : List RegName} {w : MatWord}
    {tag : Option (Nat × Bool)} : (matRes s c aid x j cl m ds w tag).Leaves i s c aid := by
  have hq (v : State) (hv : s.Beside v c aid) (o : Op) : s.Leaves i ((v.addOp o).2.setCore c { (v.addOp o).2.core c with
      mqueue := ((v.addOp o).2.core c).mqueue ++ [(v.addOp o).1] }) c aid :=
    .of_beside ((hv.trans (.addOp _ _ _ _)).trans (.mqueue _ _ _ _))
  simp only [Machine.matRes]
  split
  · exact .ite (fun _ => uncorr) (fun _ => idle h)
  refine .ite (fun _ => idle h) (fun _ => ?_)
  split
  · exact trap
  cases tag with
  | none => exact bare (hq _ (.refl _ _ _) _)
  | some p => exact bare (hq _ (.tagTile _ _ _ _ _) _)

end Res.Leaves

/-! ## The words -/

/-- A word of the frame with its meaning: it leaves what the frame says, whichever next state it answers. -/
def FrameWord (i : Instr) (f : State → Host.Outcome State Fault Refusal) : Prop :=
  ∀ (s t : State) (c aid : Nat), s.Holds c aid → s.stip c = 0 → f s = .next t → Framed i s t c aid

/-- A word is in the frame if its own part is, where its context holds the port. -/
theorem FrameWord.run {i : Instr} {n : Need} {pre : Act → State → Option Trap} {body : Nat → Nat → Act → State → Res}
    (hb : ∀ (s : State) (c aid : Nat), s.portAct c = some aid → (body c aid (s.act aid) s).Leaves i s c aid)
    (hn : n.exit = false := by rfl) : FrameWord i (Machine.run i (fieldsOf i).cl n pre body) :=
  fun s _ c aid hc hs h => .runWith hc hs hn (hb s c aid hc.portAct) h

namespace FrameWord
variable {mod : BitVec 4} {d a b c : BitVec 6} {imm : BitVec 16} {cl : Clauses}

/-! ### System words -/

theorem divide {i : Instr} {f : Word64 → Word64 → Word64} (hc : (fieldsOf i).cl = cl) : FrameWord i (Machine.divide i cl d a b f) := by
  subst hc
  exact run fun _ _ _ _ => .op .refl

theorem div : FrameWord (.div d a b cl) (execDiv d a b cl) := by
  unfold execDiv
  exact divide rfl

theorem divu : FrameWord (.divu d a b cl) (execDivu d a b cl) := by
  unfold execDivu
  exact divide rfl

theorem rem : FrameWord (.rem d a b cl) (execRem d a b cl) := by
  unfold execRem
  exact divide rfl

theorem remu : FrameWord (.remu d a b cl) (execRemu d a b cl) := by
  unfold execRemu
  exact divide rfl

theorem srd : FrameWord (.srd d imm cl) (execSrd d imm cl) :=
  run fun _ _ _ _ => .ite (fun _ => .trap) (fun _ => .write .refl rfl)

theorem time : FrameWord (.time mod d cl) (execTime mod d cl) := run fun _ _ _ _ => .write .refl rfl

theorem ident : FrameWord (.ident mod d cl) (execIdent mod d cl) := run fun _ _ _ _ => .write .refl rfl

theorem spdrd : FrameWord (.spdrd mod d a imm cl) (execSpdrd mod d a imm cl) := run fun _ _ _ _ => .write .refl rfl

theorem liveq : FrameWord (.liveq mod d cl) (execLiveq mod d cl) := run fun _ _ _ _ => .write .refl rfl

theorem chk : FrameWord (.chk d a b imm cl) (execChk d a b imm cl) :=
  run fun _ _ _ _ => .ite (fun _ => .write .refl rfl) (fun _ => .trap)

/-- SRSTATE advances as the word issues (R142). -/
theorem rand : FrameWord (.rand mod d a cl) (execRand mod d a cl) :=
  run fun _ _ _ _ => .write (.setAct (.refl _ _ _) .aside) rfl

theorem iflush : FrameWord (.iflush cl) (execIflush cl) := run fun _ _ _ _ => .effect (.setAct (.refl _ _ _) .aside)

/-- DEADMK clears live bits (R144). -/
theorem deadmk : FrameWord (.deadmk mod a cl) (execDeadmk mod a cl) :=
  run fun _ _ _ _ => .effect (.setAct (.refl _ _ _) (.clears _ _ _ _) (Act.sameBut_clears _ _ _ _).core)

/-! ### What writes system registers (R131) -/

/-- A write of the status word changes no bit but those that the mode may change: not TIP (R130). -/
theorem writeAsw_tip {mode : Nat} {old new v : Word64} (h : writeAsw mode old new = some v) : v.getLsbD 7 = old.getLsbD 7 := by
  unfold writeAsw at h
  dsimp only at h
  split at h
  · next hz =>
    cases h
    have hm : (aswWritable mode).getLsbD 7 = false := by unfold aswWritable; split <;> rfl
    have hb : ((old ^^^ new &&& aswMask) &&& ~~~aswWritable mode).getLsbD 7 = false := by rw [hz]; rfl
    rw [BitVec.getLsbD_and, BitVec.getLsbD_not, hm, BitVec.getLsbD_xor] at hb
    have hp : ∀ p q : Bool, ((p ^^ q) && (decide (7 < 64) && !false)) = false → q = p := by decide
    exact hp _ _ hb
  · cases h

/-- What SWR, SRSET and SRCLR write is put back (R131). -/
theorem putBack_system {i : Instr} (hi : writesSystem i = true) (x y : Act) :
    x.putBack i y = { y with asw := x.asw, srstate := x.srstate, trap := x.trap } := by
  unfold writesSystem at hi
  split at hi
  · rfl
  · rfl
  · rfl
  · cases hi

section
variable {i : Instr} (hi : writesSystem i = true)
include hi

theorem leaves_sysWrite (x : Act) (n : Nat) (v : Word64) : x.Leaves i (x.sysWrite n v) := by
  unfold Act.sysWrite
  split <;> exact .aside (by simp only [putBack_system hi, Act.setTimecmp, Act.setExtpend])

theorem leaves_setPart (s : State) (c aid p : Nat) (y : Part) : s.Leaves i (s.setPart p y) c aid :=
  ⟨.setPart _ _ _ _ _, fun h => absurd (hi.symm.trans h) nofun, .of_eq rfl⟩

theorem leaves_migrating (x : Act) (m : Option Migration) (v : Word64) : x.Leaves i { x with mig := m, migstat := v } :=
  .aside (by rw [putBack_system hi])

/-- A request for a migration changes its context alone (R310). -/
theorem leaves_migRequest (s : State) (c aid : Nat) (v : Word64) : s.Leaves i (s.migRequest aid v) c aid := by
  have hr (m : Option Migration) (w : Word64) : s.Leaves i (s.setAct aid { s.act aid with mig := m, migstat := w }) c aid :=
    .setAct (.refl _ _ _) (leaves_migrating hi _ _ _)
  unfold State.migRequest Act.migRefuse
  dsimp only
  split
  · exact .refl
  split
  · exact hr _ _
  split
  · exact hr _ _
  split
  · exact hr _ _
  split
  · exact hr _ _
  split
  · exact hr _ _
  · exact hr _ _

theorem sysWrite {s : State} {c aid : Nat} (h : s.portAct c = some aid) {opcode n : Nat} {v : Word64} :
    (sysWriteRes s c aid (s.act aid) opcode n v).Leaves i s c aid := by
  unfold sysWriteRes
  split
  · split
    · next w hw =>
      exact .effect (.setAct (.refl _ _ _) (.aside (by rw [putBack_system hi]) (writeAsw_tip hw)))
    · exact .trap
  · exact .effect (leaves_setPart hi _ _ _ _ _)
  · exact .ite (fun _ => .idle h) (fun _ => .effect (leaves_setPart hi _ _ _ _ _))
  · exact .effect (leaves_migRequest hi _ _ _ _)
  · exact .effect (leaves_setPart hi _ _ _ _ _)
  · exact .effect (leaves_setPart hi _ _ _ _ _)
  · exact .effect (.setAct (.refl _ _ _) (leaves_sysWrite hi _ _ _) (by unfold Act.sysWrite; split <;> rfl))

end

theorem swr : FrameWord (.swr a imm cl) (execSwr a imm cl) := run fun _ _ _ h => .ite (fun _ => .trap) (fun _ => sysWrite rfl h)

theorem srset : FrameWord (.srset a imm cl) (execSrset a imm cl) :=
  run fun _ _ _ h => .ite (fun _ => .trap) (fun _ => sysWrite rfl h)

theorem srclr : FrameWord (.srclr a imm cl) (execSrclr a imm cl) :=
  run fun _ _ _ h => .ite (fun _ => .trap) (fun _ => sysWrite rfl h)

/-! ### Loads, stores and atomics -/

theorem ldl : FrameWord (.ldl mod d a imm cl) (execLdl mod d a imm cl) := by
  refine run fun s c aid h => ?_
  dsimp only
  split
  · exact .trap
  refine .ite (fun _ => .idle h) (fun _ => .write ?_ rfl)
  split
  · exact .of_beside (.noteUncorr _ _ _ _ _ _)
  · exact .refl

theorem ldq : FrameWord (.ldq mod d a imm cl) (execLdq mod d a imm cl) := by
  refine run fun s c aid h => ?_
  dsimp only
  split
  · exact .trap
  · exact .op .refl

theorem stq : FrameWord (.stq mod a c imm cl) (execStq mod a c imm cl) := by
  refine run fun s c aid h => ?_
  dsimp only
  split
  · exact .trap
  · exact .op .refl

theorem vldl : FrameWord (.vldl d a c imm cl) (execVldl d a c imm cl) := by
  refine run fun s c aid h => ?_
  dsimp only
  split
  · exact .trap
  split
  · exact .trap
  refine .ite (fun _ => .idle h) (fun _ => .write ?_ rfl)
  split
  · exact .of_beside (.noteUncorr _ _ _ _ _ _)
  · exact .refl

theorem vldq : FrameWord (.vldq d a c imm cl) (execVldq d a c imm cl) := by
  refine run fun s c aid h => ?_
  split
  · exact .trap
  split
  · exact .trap
  · exact .op .refl

/-- A bound register's sticky bit is set on a state beside the first, and the register put back (R54). -/
theorem leaves_boundSticky {i : Instr} (hi : ∀ x y : Act, x.putBack i y = { y with bd := x.bd }) {s u : State} {c aid : Nat}
    (h : s.Beside u c aid) {n count : Nat} : s.Leaves i (u.boundSticky aid n count) c aid := by
  unfold State.boundSticky
  dsimp only
  split
  · exact .of_beside h
  · rw [h.act]
    exact .setAct h (.aside (by rw [hi]))

theorem vstq : FrameWord (.vstq mod a c imm cl) (execVstq mod a c imm cl) := by
  refine run fun s k aid h => ?_
  dsimp only
  split
  · exact .trap
  split
  · exact .trap
  split
  · exact .trap
  · exact .op (leaves_boundSticky (fun _ _ => rfl) (.refl _ _ _))

theorem vgathl : FrameWord (.vgathl mod d a b imm cl) (execVgathl mod d a b imm cl) := by
  refine run fun s k aid h => ?_
  dsimp only
  refine .ite (fun _ => .trap) (fun _ => .ite (fun _ => .trap) (fun _ => .ite (fun _ => .trap) (fun _ => ?_)))
  split
  · exact .trap
  · exact .ite (fun _ => .idle h) (fun _ => .op .refl)

theorem vscatl : FrameWord (.vscatl mod a b c cl) (execVscatl mod a b c cl) := by
  refine run fun s k aid h => ?_
  dsimp only
  refine .ite (fun _ => .trap) (fun _ => .ite (fun _ => .trap) (fun _ => .ite (fun _ => .trap) (fun _ => ?_)))
  split
  · exact .trap
  · exact .ite (fun _ => .idle h) (fun _ => .op .refl)

theorem ld : FrameWord (.ld mod d a b imm cl) (execLd mod d a b imm cl) := by
  refine run fun s k aid h => ?_
  dsimp only
  split
  · next e => exact .devCheck e
  · exact .ite (fun _ => .devIssue (.of_beside ((State.Beside.touch _ _ _ _).trans (.l1Drop _ _ _ _))))
      (fun _ => .loadIssue (.of_beside (.touch _ _ _ _)))

theorem st : FrameWord (.st mod a b c imm cl) (execSt mod a b c imm cl) := by
  refine run fun s k aid h => ?_
  dsimp only
  split
  · next e => exact .devCheck e
  · exact .devIssue (.of_beside ((State.Beside.touch _ _ _ _).trans (.l1Store _ _ _ _ _ _)))

theorem vld : FrameWord (.vld d a b c imm cl) (execVld d a b c imm cl) := by
  refine run fun s k aid h => ?_
  split
  · exact .trap
  split
  · next e => exact .devCheck e
  · exact .loadIssue (.of_beside (.touch _ _ _ _))

theorem vst : FrameWord (.vst mod a b c imm cl) (execVst mod a b c imm cl) := by
  refine run fun s k aid h => ?_
  dsimp only
  split
  · exact .trap
  split
  · next e => exact .devCheck e
  split
  · exact .trap
  · exact .devIssue ((leaves_boundSticky (fun _ _ => rfl) (.touch _ _ _ _)).beside (.l1Store _ _ _ _ _ _))

theorem fence : FrameWord (.fence imm cl) (execFence imm cl) := run fun _ _ _ _ => .op .refl

theorem cld : FrameWord (.cld d a b imm cl) (execCld d a b imm cl) := by
  refine run fun s k aid h => ?_
  split
  · next e => exact .devCheck e
  · exact .devIssue (.of_beside ((State.Beside.touch _ _ _ _).trans (.l1Drop _ _ _ _)))

theorem cst : FrameWord (.cst a b c imm cl) (execCst a b c imm cl) := by
  refine run fun s k aid h => ?_
  dsimp only
  split
  · next e => exact .devCheck e
  · exact .devIssue (.of_beside ((State.Beside.touch _ _ _ _).trans (.l1Store _ _ _ _ _ _)))

theorem cnarrow : FrameWord (.cnarrow d a b c imm cl) (execCnarrow d a b c imm cl) :=
  run fun _ _ _ _ => .ite (fun _ => .trap) (fun _ => .ite (fun _ => .trap) (fun _ => .ite (fun _ => .trap)
    (fun _ => .write .refl rfl)))

theorem cget : FrameWord (.cget mod d a cl) (execCget mod d a cl) := run fun _ _ _ _ => .write .refl rfl

theorem csetc : FrameWord (.csetc d a b cl) (execCsetc d a b cl) := run fun _ _ _ _ => .write .refl rfl

theorem movk : FrameWord (.movk mod d a cl) (execMovk mod d a cl) := run fun _ _ _ _ => .write .refl rfl

theorem cinv : FrameWord (.cinv mod a b cl) (execCinv mod a b cl) := by
  refine run fun s k aid h => .ite (fun _ => .effect (.of_beside (.l1Clear _ _ _))) (fun _ => ?_)
  split
  · exact .effect .refl
  · exact .effect (.of_beside (.l1Drop _ _ _ _))

theorem atomic {i : Instr} {s : State} {c aid : Nat} {x : Act} {d a b : BitVec 6} {imm : BitVec 16} {n sub : Nat} {y new : Word64} :
    (atomicRes s c aid x i cl d a b imm n sub y new).Leaves i s c aid := by
  unfold atomicRes
  dsimp only
  split
  · next e => exact .devCheck e
  · exact .devIssue (.of_beside ((State.Beside.touch _ _ _ _).trans (.l1Drop _ _ _ _)))

theorem aadd : FrameWord (.aadd mod d a b c imm cl) (execAadd mod d a b c imm cl) := run fun _ _ _ _ => atomic

theorem alog : FrameWord (.alog mod d a b c imm cl) (execAlog mod d a b c imm cl) := run fun _ _ _ _ => atomic

theorem amnx : FrameWord (.amnx mod d a b c imm cl) (execAmnx mod d a b c imm cl) := run fun _ _ _ _ => atomic

theorem aswp : FrameWord (.aswp mod d a b c imm cl) (execAswp mod d a b c imm cl) := run fun _ _ _ _ => atomic

theorem acas : FrameWord (.acas mod d a b c imm cl) (execAcas mod d a b c imm cl) := run fun _ _ _ _ => atomic

theorem afadd : FrameWord (.afadd mod d a b c imm cl) (execAfadd mod d a b c imm cl) := run fun _ _ _ _ => atomic

theorem signal : FrameWord (.signal a b c imm cl) (execSignal a b c imm cl) := run fun _ _ _ _ => atomic

theorem waitmem : FrameWord (.waitmem mod d a b c imm cl) (execWaitmem mod d a b c imm cl) := by
  refine run fun s k aid h => ?_
  dsimp only
  split
  · next e => exact .devCheck e
  · exact .devIssue (.of_beside ((State.Beside.touch _ _ _ _).trans (.l1Drop _ _ _ _)))

/-! ### Vector words -/

section
variable {i : Instr} {s u : State} {k aid : Nat} {x : Act} (hd : some (vreg d.toNat) = destOf i)
include hd

theorem masked {lat w : Nat} {t : BitVec 5} {bw : BitVec 32} {f : Nat → FRes} (hl : 2 ≤ lat) :
    (maskedRes s x mod d lat w t bw f).Leaves i s k aid := by
  unfold maskedRes
  split
  · exact .trap
  · exact .flagged .refl hl hd

theorem arith {o : ArithOp} {sat useC : Bool} {a b c : VReg} : (arithRes s x o mod d sat a b c useC).Leaves i s k aid := by
  unfold arithRes
  split
  · exact .trap
  · exact .ite (fun _ => .trap) (fun _ => .ite (fun _ => masked hd (by decide)) (fun _ => masked hd (by decide)))

theorem extreme {isMax : Bool} {a b : VReg} : (extremeRes s x isMax mod d a b).Leaves i s k aid := by
  unfold extremeRes
  split
  · exact .trap
  · exact masked hd (by decide)

theorem sign {neg sat : Bool} {a : VReg} : (signRes s x neg mod d sat a).Leaves i s k aid :=
  .ite (fun _ => .trap) (fun _ => .ite (fun _ => .trap) (fun _ => masked hd (by decide)))

theorem unary {fn : Nat} {a : VReg} : (unaryRes s x fn mod d a).Leaves i s k aid :=
  .ite (fun _ => .trap) (fun _ => masked hd (by decide))

theorem vlogic {f : Nat → Nat → Nat} {a b : VReg} : (vlogicRes s x f mod d a b).Leaves i s k aid := masked hd (by decide)

theorem shift {right : Bool} {a b : VReg} : (shiftRes s x right mod d a b imm).Leaves i s k aid := by
  unfold shiftRes
  dsimp only
  split
  · exact .trap
  · exact masked hd (by decide)

end

theorem vadd : FrameWord (.vadd mod d a b imm cl) (execVadd mod d a b imm cl) :=
  run fun _ _ _ _ => arith rfl

theorem vsub : FrameWord (.vsub mod d a b imm cl) (execVsub mod d a b imm cl) :=
  run fun _ _ _ _ => arith rfl

theorem vmul : FrameWord (.vmul mod d a b imm cl) (execVmul mod d a b imm cl) :=
  run fun _ _ _ _ => arith rfl

theorem vfma : FrameWord (.vfma mod d a b c imm cl) (execVfma mod d a b c imm cl) :=
  run fun _ _ _ _ => arith rfl

theorem vfms : FrameWord (.vfms mod d a b c imm cl) (execVfms mod d a b c imm cl) :=
  run fun _ _ _ _ => arith rfl

theorem vmin : FrameWord (.vmin mod d a b cl) (execVmin mod d a b cl) :=
  run fun _ _ _ _ => extreme rfl

theorem vmax : FrameWord (.vmax mod d a b cl) (execVmax mod d a b cl) :=
  run fun _ _ _ _ => extreme rfl

theorem vabs : FrameWord (.vabs mod d a imm cl) (execVabs mod d a imm cl) :=
  run fun _ _ _ _ => sign rfl

theorem vneg : FrameWord (.vneg mod d a imm cl) (execVneg mod d a imm cl) :=
  run fun _ _ _ _ => sign rfl

theorem vrcp : FrameWord (.vrcp mod d a cl) (execVrcp mod d a cl) :=
  run fun _ _ _ _ => unary rfl

theorem vrsq : FrameWord (.vrsq mod d a cl) (execVrsq mod d a cl) :=
  run fun _ _ _ _ => unary rfl

theorem vexp2 : FrameWord (.vexp2 mod d a cl) (execVexp2 mod d a cl) :=
  run fun _ _ _ _ => unary rfl

theorem vlog2 : FrameWord (.vlog2 mod d a cl) (execVlog2 mod d a cl) :=
  run fun _ _ _ _ => unary rfl

theorem vand : FrameWord (.vand mod d a b cl) (execVand mod d a b cl) :=
  run fun _ _ _ _ => vlogic rfl

theorem vor : FrameWord (.vor mod d a b cl) (execVor mod d a b cl) :=
  run fun _ _ _ _ => vlogic rfl

theorem vxor : FrameWord (.vxor mod d a b cl) (execVxor mod d a b cl) :=
  run fun _ _ _ _ => vlogic rfl

theorem vshl : FrameWord (.vshl mod d a b imm cl) (execVshl mod d a b imm cl) :=
  run fun _ _ _ _ => shift rfl

theorem vshr : FrameWord (.vshr mod d a b imm cl) (execVshr mod d a b imm cl) :=
  run fun _ _ _ _ => shift rfl

theorem vcmp : FrameWord (.vcmp mod d a b c cl) (execVcmp mod d a b c cl) := by
  refine run fun s k aid h => ?_
  dsimp only
  split
  · exact .trap
  · exact .ite (fun _ => .trap) (fun _ => .flagged .refl (by decide) rfl)

theorem vsel : FrameWord (.vsel d a b c cl) (execVsel d a b c cl) :=
  run fun _ _ _ _ => .ite (fun _ => .trap) (fun _ => .ite (fun _ => .trap) (fun _ => .write .refl rfl))

theorem destOf_vmovp_mask (h : mod = 0) : destOf (.vmovp mod d a cl) = some (preg d.toNat) := by subst h; rfl

theorem destOf_vmovp_vector (h : mod ≠ 0) : destOf (.vmovp mod d a cl) = some (vreg d.toNat) := by
  show useReg (if mod = 0 then .pDst else .v) d = _
  rw [if_neg h]
  rfl

theorem vmovp : FrameWord (.vmovp mod d a cl) (execVmovp mod d a cl) :=
  run fun _ _ _ _ => .ite (fun h => .write .refl (destOf_vmovp_mask h).symm) (fun h => .write .refl (destOf_vmovp_vector h).symm)

theorem vbcast : FrameWord (.vbcast mod d a imm cl) (execVbcast mod d a imm cl) :=
  run fun _ _ _ _ => .ite (fun _ => .ite (fun _ => .trap) (fun _ => .write .refl rfl))
    (fun _ => .ite (fun _ => .trap) (fun _ => .write .refl rfl))

theorem vextr : FrameWord (.vextr mod d a b imm cl) (execVextr mod d a b imm cl) :=
  run fun _ _ _ _ => .ite (fun _ => .write .refl rfl) (fun _ => .ite (fun _ => .trap) (fun _ => .write .refl rfl))

theorem vins : FrameWord (.vins mod d a b imm cl) (execVins mod d a b imm cl) :=
  run fun _ _ _ _ => .ite (fun _ => .ite (fun _ => .trap) (fun _ => .ite (fun _ => .trap) (fun _ => .write .refl rfl)))
    (fun _ => .ite (fun _ => .trap) (fun _ => .write .refl rfl))

theorem vperm : FrameWord (.vperm mod d a b cl) (execVperm mod d a b cl) :=
  run fun _ _ _ _ => .ite (fun _ => .trap) (fun _ => .ite (fun _ => .trap) (fun _ => .ite (fun _ => .trap)
    (fun _ => masked rfl (by decide))))

theorem vreduce : FrameWord (.vreduce mod d a imm cl) (execVreduce mod d a imm cl) :=
  run fun _ _ _ _ => .ite (fun _ => .trap) (fun _ => .flagged .refl (by decide) rfl)

theorem vscan : FrameWord (.vscan mod d a imm cl) (execVscan mod d a imm cl) :=
  run fun _ _ _ _ => .ite (fun _ => .trap) (fun _ => .flagged .refl (by decide) rfl)

/-- A stochastic conversion advances SRSTATE as it issues (R67, R188). -/
theorem vcvt : FrameWord (.vcvt mod d a b imm cl) (execVcvt mod d a b imm cl) := by
  refine run fun s k aid h => ?_
  dsimp only
  refine .ite (fun _ => .trap) (fun _ => .ite (fun _ => .trap) (fun _ => ?_))
  split
  · exact .trap
  refine .ite (fun _ => .trap) (fun _ => .ite (fun _ => .trap) (fun _ => .flagged (.ite (fun _ => ?_) (fun _ => .refl)) (by decide) rfl))
  exact .setAct (.refl _ _ _) .aside

theorem vretag : FrameWord (.vretag d a b imm cl) (execVretag d a b imm cl) :=
  run fun _ _ _ _ => .ite (fun _ => .trap) (fun _ => .ite (fun _ => .trap) (fun _ => .write .refl rfl))

theorem destOf_vplane_scalar (h : mod = 0) : destOf (.vplane mod d a b imm cl) = some (sreg d.toNat) := by subst h; rfl

theorem destOf_vplane_vector (h : mod ≠ 0) : destOf (.vplane mod d a b imm cl) = some (vreg d.toNat) := by
  show useReg (if mod = 0 then .s else .v) d = _
  rw [if_neg h]
  rfl

theorem vplane : FrameWord (.vplane mod d a b imm cl) (execVplane mod d a b imm cl) := by
  refine run fun _ _ _ _ => .ite (fun h => .ite (fun _ => .trap) (fun _ => .write .refl (destOf_vplane_scalar h).symm)) (fun h => ?_)
  refine .ite (fun _ => .ite (fun _ => .trap) (fun _ => .write .refl (destOf_vplane_vector h).symm)) (fun _ => ?_)
  exact .ite (fun _ => .trap) (fun _ => .ite (fun _ => .trap) (fun _ => .ite (fun _ => .trap)
    (fun _ => .write .refl (destOf_vplane_vector h).symm)))

theorem vqscale : FrameWord (.vqscale mod d a c cl) (execVqscale mod d a c cl) :=
  run fun _ _ _ _ => .ite (fun _ => .trap) (fun _ => .write .refl rfl)

theorem destOf_vbnd_mask (h : mod = 0) : destOf (.vbnd mod d a b c cl) = some (preg d.toNat) := by subst h; rfl

theorem destOf_vbnd_vector (h : mod ≠ 0) : destOf (.vbnd mod d a b c cl) = some (vreg d.toNat) := by
  show useReg (if mod = 0 then .pDst else .v) d = _
  rw [if_neg h]
  rfl

theorem vbnd : FrameWord (.vbnd mod d a b c cl) (execVbnd mod d a b c cl) :=
  run fun _ _ _ _ => .ite (fun _ => .trap) (fun _ => .ite (fun h => .write .refl (destOf_vbnd_mask h).symm)
    (fun h => .write .refl (destOf_vbnd_vector h).symm))

/-! ### Words of the generator and the cutter -/

theorem genOp {i : Instr} {s u : State} {k aid : Nat} (h : s.Leaves i u k aid) {x : Act} {j : Instr} {ws : List RegWrite} :
    (genRes u k aid x j cl ws).Leaves i s k aid := .op h

theorem pload : FrameWord (.pload mod a cl) (execPload mod a cl) := by
  refine run fun s k aid h => ?_
  dsimp only
  split
  · exact .trap
  split
  · exact .trap
  refine .ite (fun _ => .idle h) (fun _ => ?_)
  split
  · exact .trap
  split
  · exact .uncorr
  split
  · exact .trap
  · exact genOp (.setAct (.refl _ _ _) .aside)

theorem pset : FrameWord (.pset a imm cl) (execPset a imm cl) := by
  refine run fun s k aid h => ?_
  dsimp only
  split
  · exact .trap
  · exact .ite (fun _ => .ite (fun _ => .trap) (fun _ => .effect (.setAct (.refl _ _ _) .aside)))
      (fun _ => .effect (.setAct (.refl _ _ _) .aside))

theorem pget : FrameWord (.pget d imm cl) (execPget d imm cl) := by
  refine run fun s k aid h => ?_
  dsimp only
  split
  · exact .trap
  · exact .write .refl rfl

theorem pcount : FrameWord (.pcount d a b cl) (execPcount d a b cl) := by
  refine run fun s k aid h => ?_
  dsimp only
  split
  · exact .trap
  refine .ite (fun _ => .trap) (fun _ => ?_)
  split
  · exact .trap
  · exact genOp .refl

theorem pgen : FrameWord (.pgen mod d a cl) (execPgen mod d a cl) := by
  refine run fun s k aid h => ?_
  dsimp only
  split
  · exact .trap
  refine .ite (fun _ => .trap) (fun _ => .ite (fun _ => .trap) (fun _ => ?_))
  split
  · exact .trap
  · exact genOp (.setAct (.refl _ _ _) .aside)

theorem pinv : FrameWord (.pinv mod d a b cl) (execPinv mod d a b cl) := by
  refine run fun s k aid h => ?_
  dsimp only
  split
  · exact .trap
  split
  · exact .trap
  · exact .ite (fun _ => genOp .refl) (fun _ => .ite (fun _ => .trap) (fun _ => genOp .refl))

theorem cutset : FrameWord (.cutset a b cl) (execCutset a b cl) := by
  refine run fun s k aid h => ?_
  dsimp only
  split
  · exact .trap
  · exact .ite (fun _ => .trap) (fun _ => .effect (.setAct (.refl _ _ _) .aside))

theorem cut : FrameWord (.cut mod d imm cl) (execCut mod d imm cl) := by
  refine run fun s k aid h => ?_
  dsimp only
  split
  · exact .trap
  refine .ite (fun _ => .trap) (fun _ => ?_)
  split
  · exact .trap
  · exact genOp (.setAct (.refl _ _ _) .aside)

/-! ### Words of the matrix unit -/

section
variable {i : Instr} {s : State} {k aid : Nat} {x : Act} (h : s.portAct k = some aid)
include h

theorem fetch {j : Instr} {oa ob : Opnd} {bRows t : Nat} {bIdx : Nat → Nat → Nat} {i32 : Bool}
    {rows : List (Nat × List (Nat × Nat))} : (fetchRes s k aid x j cl oa ob bRows bIdx t i32 rows).Leaves i s k aid := by
  unfold fetchRes
  refine .ite (fun _ => .trap) (fun _ => .ite (fun _ => .trap) (fun _ => ?_))
  split
  · exact .trap
  split
  · exact .trap
  refine .ite (fun _ => .ite (fun _ => .wait) (fun _ => .idle h)) (fun _ => .ite (fun _ => .idle h) (fun _ => ?_))
  split
  · exact .trap
  split
  · exact .trap
  split
  · exact .uncorr
  split
  · exact .uncorr
  · exact .mat h

theorem dense {j : Instr} {kMajor : Bool} : (denseRes s k aid x j cl mod d a b kMajor).Leaves i s k aid := by
  unfold denseRes
  dsimp only
  split
  · exact .trap
  split
  · exact .trap
  · exact fetch h

theorem sparse {j : Instr} {tr : Bool} : (sparseRes s k aid x j cl mod d a b c tr).Leaves i s k aid := by
  unfold sparseRes
  dsimp only
  split
  · exact .trap
  split
  · exact .trap
  split
  · exact .trap
  · exact fetch h

theorem storeTile {j : Instr} {quad : Bool} : (storeTileRes s k aid x j cl mod a b c imm quad).Leaves i s k aid := by
  unfold storeTileRes
  refine .ite (fun _ => .trap) (fun _ => .ite (fun _ => .trap) (fun _ => ?_))
  split
  · exact .trap
  · exact .ite (fun _ => .idle h) (fun _ => .mat h)

theorem image {j : Instr} {t o : Nat} {quad : Bool} : (imageRes s k aid x j cl t quad o).Leaves i s k aid := by
  unfold imageRes
  split
  · exact .uncorr
  dsimp only
  split
  · exact .trap
  · exact .mat h

end

theorem foldr_error {α β : Type} {P : Res → Prop} {f : α → Except Res (List β) → Except Res (List β)}
    (hf : ∀ n acc r, f n acc = .error r → P r ∨ acc = .error r) (l : List α) {r : Res}
    (e : l.foldr f (.ok []) = .error r) : P r := by
  induction l generalizing r with
  | nil => cases e
  | cons n l ih => exact (hf n _ r e).elim id ih

/-- What a failed check of an image's lines answers is a trap or a wait. -/
theorem imageLines {i : Instr} {s : State} {k aid : Nat} {x : Act} {kn need op : Nat} {o : Word64} {write : Bool} {r : Res}
    (e : s.imageLines k x kn need op o write = .error r) : r.Leaves i s k aid := by
  unfold State.imageLines at e
  dsimp only at e
  split at e
  · cases e; exact .trap
  split at e
  · cases e; exact .trap
  refine foldr_error (fun n acc r e => ?_) _ e
  split at e
  · cases e; exact .inl .trap
  · cases e; exact .inl .wait
  split at e
  · cases e; exact .inr rfl
  · cases e

theorem mma : FrameWord (.mma mod d a b cl) (execMma mod d a b cl) := run fun _ _ _ h => dense h

theorem mmat : FrameWord (.mmat mod d a b cl) (execMmat mod d a b cl) := run fun _ _ _ h => dense h

theorem mmas : FrameWord (.mmas mod d a b c cl) (execMmas mod d a b c cl) := run fun _ _ _ h => sparse h

theorem mmast : FrameWord (.mmast mod d a b c cl) (execMmast mod d a b c cl) := run fun _ _ _ h => sparse h

theorem mlda : FrameWord (.mlda mod d a b cl) (execMlda mod d a b cl) := by
  refine run fun s k aid h => ?_
  dsimp only
  split
  · exact .trap
  · exact .ite (fun _ => .idle h) (fun _ => .mat h)

theorem msta : FrameWord (.msta mod a b c imm cl) (execMsta mod a b c imm cl) := run fun _ _ _ h => storeTile h

theorem mstq : FrameWord (.mstq mod a b c imm cl) (execMstq mod a b c imm cl) := run fun _ _ _ h => storeTile h

theorem mrowv : FrameWord (.mrowv d a imm cl) (execMrowv d a imm cl) :=
  run fun _ _ _ h => .ite (fun _ => .trap) (fun _ => .mat h)

theorem mvrow : FrameWord (.mvrow d a imm cl) (execMvrow d a imm cl) := run fun _ _ _ h => .mat h

theorem mzero : FrameWord (.mzero mod d cl) (execMzero mod d cl) := run fun _ _ _ h => .mat h

theorem maddt : FrameWord (.maddt mod d a b cl) (execMaddt mod d a b cl) :=
  run fun _ _ _ h => .ite (fun _ => .trap) (fun _ => .mat h)

theorem mscl : FrameWord (.mscl mod d a b cl) (execMscl mod d a b cl) :=
  run fun _ _ _ h => .ite (fun _ => .trap) (fun _ => .mat h)

theorem mbias : FrameWord (.mbias mod d a b cl) (execMbias mod d a b cl) := by
  refine run fun s k aid h => ?_
  dsimp only
  split
  · exact .trap
  · exact .ite (fun _ => .idle h) (fun _ => .mat h)

theorem mclamp : FrameWord (.mclamp d a b c cl) (execMclamp d a b c cl) := run fun _ _ _ h => .mat h

theorem mtrn : FrameWord (.mtrn d a cl) (execMtrn d a cl) := run fun _ _ _ h => .mat h

theorem mredr : FrameWord (.mredr mod d a cl) (execMredr mod d a cl) := run fun _ _ _ h => .mat h

theorem mdot : FrameWord (.mdot mod d a b cl) (execMdot mod d a b cl) :=
  run fun _ _ _ h => .ite (fun _ => .trap) (fun _ => .mat h)

theorem mshape : FrameWord (.mshape a cl) (execMshape a cl) := by
  refine run fun s k aid h => ?_
  dsimp only
  split
  · exact .trap
  split
  · exact .trap
  · exact .effect (.setAct (.refl _ _ _) .aside)

theorem mfmt : FrameWord (.mfmt a cl) (execMfmt a cl) := by
  refine run fun s k aid h => ?_
  dsimp only
  split
  · exact .trap
  split
  · exact .trap
  · exact .effect (.setAct (.refl _ _ _) .aside)

theorem mstat : FrameWord (.mstat mod d cl) (execMstat mod d cl) := by
  refine run fun s k aid h => ?_
  split
  · exact .trap
  · exact .ite (fun _ => .idle h) (fun _ => .write .refl rfl)

theorem leaves_msb (x : Act) (v : Word64) : x.Leaves (.mstage a cl) { x with msb := v } := .aside

theorem mstage : FrameWord (.mstage a cl) (execMstage a cl) := by
  refine run fun s k aid h => ?_
  dsimp only
  split
  · exact .trap
  refine .ite (fun _ => .trap) (fun _ => .ite (fun _ => .trap) (fun _ => .ite (fun _ => .trap) (fun _ => ?_)))
  exact .ite (fun _ => .trap) (fun _ => .effect (.setAct (.refl _ _ _) (leaves_msb _ _)))

theorem msave : FrameWord (.msave mod a b c cl) (execMsave mod a b c cl) := by
  refine run fun s k aid h => .ite (fun _ => ?_) (fun _ => ?_)
  · split
    · next e => exact imageLines e
    refine .ite (fun _ => .idle h) (fun _ => ?_)
    split
    · exact .uncorr
    refine .bare (.of_beside (.trans (.trans ?_ (.addOp _ _ _ _)) (.sendLines _ _ _ _ _)))
    exact .foldl (fun v (l : (OtcEntry × Nat) × Nat) => (State.Beside.touch v k aid l.1.1).trans (.l1Store _ _ _ _ _ _)) _ _
  · split
    · exact .trap
    · exact .ite (fun _ => .idle h) (fun _ => .mat h)

/-- After an MREST from device memory the port passes until its verdict (R98, R219). -/
theorem mrest : FrameWord (.mrest mod d b c cl) (execMrest mod d b c cl) := by
  refine run fun s k aid h => .ite (fun _ => ?_) (fun _ => ?_)
  · split
    · next e => exact imageLines e
    refine .ite (fun _ => .idle h) (fun _ => ?_)
    refine .verdict (.trans (.trans (.trans ?_ (.addOp _ _ _ _)) (.mqueue _ _ _ _)) (.sendLines _ _ _ _ _)) h
    exact .foldl (fun v (l : OtcEntry × Nat) => (State.Beside.touch v k aid l.1).trans (.l1Drop _ _ _ _)) _ _
  · split
    · exact .trap
    · exact .ite (fun _ => .idle h) (fun _ => image h)

/-! ### Exchanges and status -/

theorem exchangePartner {i : Instr} {s : State} {k aid : Nat} {x : Act} {r : Res} (e : exchangePartner s x = .error r) :
    r.Leaves i s k aid := by
  unfold Machine.exchangePartner at e
  split at e
  · cases e; exact .trap
  split at e
  · cases e; exact .trap
  split at e
  · cases e; exact .wait
  · cases e

theorem exchange {i j : Instr} {s : State} {k aid : Nat} {x : Act} {own theirs : RegName} :
    (exchangeRes s aid x j cl own theirs).Leaves i s k aid := by
  unfold exchangeRes
  split
  · next e => exact exchangePartner e
  · exact .ite (fun _ => .trap) (fun _ => .op .refl)

theorem xreg : FrameWord (.xreg mod d a cl) (execXreg mod d a cl) := run fun _ _ _ _ => exchange

theorem xvreg : FrameWord (.xvreg d a cl) (execXvreg d a cl) := run fun _ _ _ _ => exchange

theorem xlug : FrameWord (.xlug a b c cl) (execXlug a b c cl) := by
  refine run fun s k aid h => ?_
  dsimp only
  split
  · next e => exact exchangePartner e
  split
  · exact .trap
  refine .ite (fun _ => .op .refl) (fun _ => ?_)
  split
  · exact .trap
  · exact .ite (fun _ => .trap) (fun _ => .ite (fun _ => .idle h) (fun _ => .op .refl))

theorem meetq : FrameWord (.meetq mod d cl) (execMeetq mod d cl) := by
  refine run fun s k aid h => ?_
  dsimp only
  split
  · exact .op .refl
  · exact .ite (fun _ => .op .refl) (fun _ => .trap)

theorem cpstat : FrameWord (.cpstat mod d imm cl) (execCpstat mod d imm cl) := by
  refine run fun s k aid h => ?_
  dsimp only
  split
  · exact .trap
  · exact .write .refl rfl

end FrameWord

/-! ## The frame -/

/-- Every word of the frame is one of these. -/
theorem frameWord_frame {i : Instr} (h : frameWord i = true) : FrameWord i (exec i) := by
  unfold frameWord at h
  split at h
  · exact .div
  · exact .divu
  · exact .rem
  · exact .remu
  · exact .srd
  · exact .swr
  · exact .srset
  · exact .srclr
  · exact .time
  · exact .ident
  · exact .iflush
  · exact .deadmk
  · exact .liveq
  · exact .chk
  · exact .spdrd
  · exact .rand
  · exact .ldl
  · exact .ldq
  · exact .stq
  · exact .ld
  · exact .st
  · exact .vldl
  · exact .vldq
  · exact .vstq
  · exact .vld
  · exact .vst
  · exact .vgathl
  · exact .vscatl
  · exact .aadd
  · exact .alog
  · exact .amnx
  · exact .aswp
  · exact .acas
  · exact .afadd
  · exact .waitmem
  · exact .signal
  · exact .fence
  · exact .cld
  · exact .cst
  · exact .cnarrow
  · exact .cget
  · exact .csetc
  · exact .movk
  · exact .cinv
  · exact .vadd
  · exact .vsub
  · exact .vmul
  · exact .vfma
  · exact .vfms
  · exact .vmin
  · exact .vmax
  · exact .vabs
  · exact .vneg
  · exact .vrcp
  · exact .vrsq
  · exact .vexp2
  · exact .vlog2
  · exact .vand
  · exact .vor
  · exact .vxor
  · exact .vshl
  · exact .vshr
  · exact .vcmp
  · exact .vsel
  · exact .vbcast
  · exact .vextr
  · exact .vins
  · exact .vperm
  · exact .vreduce
  · exact .vcvt
  · exact .vretag
  · exact .vplane
  · exact .vqscale
  · exact .vbnd
  · exact .vscan
  · exact .vmovp
  · exact .mzero
  · exact .mma
  · exact .mmat
  · exact .mmas
  · exact .mmast
  · exact .mlda
  · exact .msta
  · exact .mstq
  · exact .maddt
  · exact .mscl
  · exact .mrowv
  · exact .mvrow
  · exact .mtrn
  · exact .mredr
  · exact .mshape
  · exact .mfmt
  · exact .mstat
  · exact .mstage
  · exact .msave
  · exact .mrest
  · exact .mdot
  · exact .mbias
  · exact .mclamp
  · exact .pload
  · exact .pset
  · exact .pget
  · exact .pcount
  · exact .pgen
  · exact .pinv
  · exact .cutset
  · exact .cut
  · exact .xreg
  · exact .xvreg
  · exact .xlug
  · exact .meetq
  · exact .cpstat
  · cases h

/-- Settles O60: the pipeline leaves what the frame names, and so does each word's own part. -/
theorem otherWordsFrame : Obligations.OtherWordsFrame := by
  unfold Obligations.OtherWordsFrame
  intro i s t c aid cl x y hi _ hc hs h
  obtain ⟨hk, hp, hy⟩ := frameWord_frame hi s t c aid hc hs h
  refine ⟨hk, hp, fun hf hn => ?_⟩
  obtain ⟨hspecial, hval, hpoison, hlive, hlink⟩ := hy hf hn
  exact ⟨hspecial, fun r hr hd => ⟨hval r hr hd, hpoison r hr hd, hlive r hr hd⟩, hlink⟩

end Sys2Proof.Machine
end
